-- ==== Sys2Proof/Word.lean ====
section
/-!
DEFINITION. The word types of the device's formats (spec/00_scope.md R5, spec/23_register_map.md R848).
Wire formats are bit vectors whose bit 0 is the least significant bit of byte 0 (R5), so a field at byte `b`
starts at bit `8 * b`.
-/
namespace Sys2Proof

/-- One byte. -/
abbrev Byte := BitVec 8

/-- One register word (R848). -/
abbrev Word := BitVec 32

/-- A Call Card, 128 bytes (Table HIU-3). -/
abbrev Card := BitVec 1024

/-- A Line record, 16 bytes (Table HIU-12). -/
abbrev Line := BitVec 128

/-- A Notice, 32 bytes (Table HIU-8). -/
abbrev Notice := BitVec 256

/-- A completion token, 8 bytes (Table STM-1). -/
abbrev Token := BitVec 64

/-- A 16-byte Cue-channel token: Cue List token (Tables STM-3 to STM-5), table message (Table MDW-3) or SNAP message
(Table UND-2). -/
abbrev CueTok := BitVec 128

/-- A step record, 32 bytes (Table PRM-9). -/
abbrev StepRec := BitVec 256

/-- A Haywain descriptor, 32 bytes (Table HAY-2). -/
abbrev Desc := BitVec 256

/-- A Gorse context, 32 bytes (Table GRS-4). -/
abbrev GCtx := BitVec 256

end Sys2Proof
end

