-- ==== Sys2Proof/Syntax.lean ====
section
/-!
DEFINITION. The commands of the block: one constructor of `Instr` per row of spec/opcode_table.json. An operand holds
what comes from outside the device with the command: the word a host writes, the bytes a read of host memory returned,
the fields of a received packet (Table FAB-9), a sensor reading, the outcome of a transfer.
-/
namespace Sys2Proof

/-- Number formats of Table NUM-1, with INT8 (R294). -/
inductive Fmt
  | fp32 | fp16 | bf16 | e4m3 | e5m2 | int8
  deriving DecidableEq, Repr

/-- Elements held at device addresses: the first one's address, their number, and the bytes from one to the next. -/
structure Row where
  base : Nat
  len : Nat
  stride : Nat
  deriving DecidableEq, Repr

/-- One operation of a compute word (Table PLY-3, Tables NUM-3 and NUM-4). A source is read at its device address, `dst` is the
device address its result goes to. A weight is named by its offset in the weight view, the only way to it (R255). -/
inductive VecOp
  | add (a b dst : Nat)
  | sub (a b dst : Nat)
  | mul (a b dst : Nat)
  | fma (a b c dst : Nat)
  | div (a b dst : Nat)
  | sqrt (a dst : Nat)
  | rsqrt (a dst : Nat)
  | exp (a dst : Nat)
  | max (a b dst : Nat)
  /-- EMBED: elements of the row of the beat's i-th token, in a table at a weight offset, with their power-of-two column scales -/
  | embed (i : Nat) (table rowBytes : Nat) (scales : List Int) (dst : Nat)
  /-- SiLU(gate) × up (GATE, R301) -/
  | gate (g u dst : Nat)
  /-- sum of a row under R279 or R281 -/
  | reduce (row : Row) (dst : Nat)
  /-- RMS normalisation of a row with its gains in the weight view (NORM, R301) -/
  | norm (row gains : Row) (dst : Nat)
  /-- stable softmax of a row (R320) -/
  | softmax (row : Row) (dst : Nat)
  /-- one output of MATMUL: activation row, E4M3 weight column in the weight view, its power-of-two column scale (R313 to R315); with
  `part`, in Exact mode the cross-rank partial as a 64-bit integer, its combined scale's exponent going to `part` (R280) -/
  | matmul (row col : Row) (scale : Int) (part : Option Nat) (dst : Nat)
  /-- one element of the row × A × B delta added to a MATMUL output (COSTUME, R451), for a Call with or without a Costume: columns of A
  and of B with their scales, and the MATMUL output -/
  | costume (valid : Bool) (row : Row) (aCols : List (Row × Int)) (bCol : Row) (bScale : Int) (out dst : Nat)
  /-- ROPE of one pair of elements by the cosine and sine at two addresses, with one or two roundings of each sum of products; the second
  result goes after the first -/
  | rope (x y cos sin : Nat) (fused : Bool) (dst : Nat)
  /-- KV_APPEND: elements of a position as E4M3 into the Call's tail block, at an offset of the block and a stride from position to
  position -/
  | kvAppend (slot : Fin 16384) (pos : BitVec 20) (row : Row) (site : BitVec 12) (elem : BitVec 20) (off step : Nat)
  /-- ATTEND of one query over the positions 0 to `pos` of a Call: offsets of its key and value elements in a block, stride, score scale -/
  | attend (slot : Fin 16384) (pos : BitVec 20) (q : Row) (key value step : Nat) (scale : Word) (dst : Nat)
  /-- ALLREDUCE: the partials of all ranks in rank order and, in Exact mode, the exponents of their scales (R279, R280) -/
  | allreduce (parts exps : List Nat) (dst : Nat)
  /-- this rank's partials go to an address and a beat of each other rank of its stage (ALLREDUCE) -/
  | share (beat : Fin 16384) (addr len dst : Nat)
  /-- SEND: the residual goes to an address of the next stage -/
  | send (addr len dst : Nat)
  /-- LOGITS_OUT: logits of the vocabulary shard for a sampled position go to the Prompter -/
  | logitsOut (slot : Fin 16384) (pos : BitVec 20) (row : Row)
  /-- one output of CONV2D, POOL (greatest or mean) or RESIZE (weighted sum) over pixels of a format (R328) -/
  | conv2d (fmt : Fmt) (pixels : Row) (wfmt : Fmt) (weights : Row) (dst : Nat)
  | pool (fmt : Fmt) (pixels : Row) (greatest : Bool) (dst : Nat)
  | resize (fmt : Fmt) (pixels coefs : Row) (dst : Nat)
  /-- conversion to and from FP32 (R302, R317 to R319) -/
  | conv (tgt : Fmt) (a dst : Nat)
  | widen (frm : Fmt) (a dst : Nat)
  /-- a conversion that is stochastic where the Stageplot selects it for the operator (R303, R304): element of a Call slot at a position
  (R306, R418) -/
  | stoch (tgt : Fmt) (a : Nat) (slot : Fin 16384) (pos : BitVec 20) (site : BitVec 12) (elem : BitVec 20) (dst : Nat)
  /-- a store of bytes to a device address (R256, R284) -/
  | store (addr : Nat) (data : List Byte)
  /-- a read of bytes at a device address into the Loft (R275, R467) -/
  | load (addr len dst : Nat)
  deriving DecidableEq, Repr

/-- Which waiting Notice a ring write takes (R587). -/
inductive NoticeSel
  /-- the Call's ADMITTED, RESTORED or FINAL Notice, by kind -/
  | call (callId : Word) (kind : Nat)
  /-- the REFUSED or OP_RESULT Notice of an outcome slot, by its place in the store -/
  | outcome (i : Nat)
  /-- the oldest DEVICE Notice (PF ring) -/
  | device
  deriving DecidableEq, Repr

/-- What a transfer met on the host side (R99, R100, R880). -/
structure Xfer where
  /-- a fault at this 64-byte granule -/
  fault : Option Nat
  /-- whether the granules below the faulting one were written (R99 allows both) -/
  wrote : Bool
  /-- byte offsets delivered by poisoned completions -/
  poison : List Nat
  deriving DecidableEq, Repr

/-- A chunk-done entry (Table FAB-9, CHUNK_DONE). -/
structure ChunkRep where
  slot : Fin 16384
  cue16 : BitVec 16
  start : Word
  toks : Word
  poison : Bool
  fail : Bool
  deriving DecidableEq, Repr

/-- What a time exchange carries (R219, R232, R243). -/
structure TimeMsg where
  /-- the filtered offset to the sender in ps, before CUE_ASYM (R221) -/
  offPs : Int
  st : Nat
  anchorCue : Nat
  anchorSt : Nat
  period : Nat
  rootPrimary : Bool
  deriving DecidableEq, Repr

/-- An identity record with what the authentication after it showed (R535, R744). -/
structure IdRec where
  device : Fin 1024
  link : Fin 12
  epoch : BitVec 8
  /-- digest of the sender's House section -/
  digest : Nat
  chainOk : Bool
  sigOk : Bool
  hmacOk : Bool
  deriving DecidableEq, Repr

/-- A shard entry of a COPIED report (Table UND-4). -/
structure Shard where
  kind : Nat
  stage : Nat
  rank : Nat
  source : Nat
  holder : Nat
  length : Nat
  digest : Nat
  /-- first and last logical layer held, first key-value head and number of heads held; 0 for CALLS -/
  layers : Nat × Nat
  heads : Nat × Nat
  deriving DecidableEq, Repr

/-- A packet: its 16-byte header (Table FAB-3) and payload bytes. -/
structure Packet where
  hdr : BitVec 128
  body : List Byte
  deriving DecidableEq, Repr

/-- What the Prompter of a last-stage device takes with the logits of one sampled position: the card's sampling fields,
the Call's identity and the listing it belongs to (R330, R352, R385). The activations carry it. -/
structure SampReq where
  card : Card
  src : Fin 1024
  fn : Fin 128
  cue : Nat
  /-- position P of the listing's input token and its depth (R385) -/
  base : BitVec 20
  depth : Nat
  guesses : List Nat
  /-- tokens generated before this listing -/
  gen : Nat
  /-- the listing is a budget_stop entry (R129) -/
  budgetStop : Bool
  /-- first sampled position of the Call, or first after a CONTINUE (R370, R374) -/
  first : Bool
  fresh : Bool
  /-- first sampled position after a restore: Script state and matcher, which travel with the Call (R402) -/
  resumed : Option (Nat × List Nat)
  deriving DecidableEq, Repr

/-- Body of an ACTIVATION: whether its listings are sampled, and the bytes of the residual with the address they go to and their poison
tag (Tables FAB-8 and PLY-3). -/
structure ActBody where
  samples : Bool
  addr : Nat
  data : List Byte
  poison : Bool
  deriving DecidableEq, Repr

/-- One command: one row of spec/opcode_table.json. -/
inductive Instr
  -- registers
  | registerWrite (fn : Fin 128) (off : Nat) (be : BitVec 4) (v : Word)
  | heldRwsWriteLands
  | cueNowRead
  -- rings and cards
  | sqTailDoorbell (fn : Fin 128) (n : Fin 4) (v : Word)
  | lqHeadDoorbell (fn : Fin 128) (n : Fin 4) (v : Word)
  | nqHeadDoorbell (fn : Fin 128) (v : Word)
  | cardFetch (card : Card)
  | promptPullDone (fn : Fin 128) (callId : Word) (toks : List Word) (poison fault : Bool)
  | submit
  | contin
  | pause
  | resume
  | cancel
  | releasePrefix
  | prefixLookup (slot : Fin 16384)
  | lineWrite (fn : Fin 128) (callId : Word) (ok : Bool)
  | noticeWrite (fn : Fin 128) (sel : NoticeSel) (ok : Bool)
  -- Haywain host queues and PCIe
  | hqTailDoorbell (k : Fin 4) (v : Word) (descs : List Desc)
  | h2d (k : Fin 4) (data : List Byte) (x : Xfer)
  | d2h (k : Fin 4) (x : Xfer)
  | fence (k : Fin 4)
  | descriptorComplete (k : Fin 4)
  | hqResume (k : Fin 4) (v : Word)
  | hostLoss
  | perstAssert
  | perstDeassert
  | pcieLinkUp (width rate : Nat)
  | reclaim (fn : Fin 128) (v : Word)
  | graceExpiry
  | functionLevelReset (fn : Fin 128)
  -- cue
  | cueLaunch
  | compositionStart
  | budgetCompute (temps : List Nat) (meas : Nat)
  | cueMonFall
  | periodRequest (v : Word)
  | ppsEdge
  | ppsTimeout
  | primaryRootTimeout
  | secondaryRootTimeout
  | timeExchange (link : Fin 12) (m : TimeMsg)
  | holdoverExpiry
  -- beats and Players
  | completion (toks : List Token)
  | pushSlotFill (p : Fin 96)
  | take (p : Fin 96)
  | refetch (p : Fin 96)
  | branch (p : Fin 96)
  | done (p : Fin 96)
  | chunk (p : Fin 96)
  | halt (p : Fin 96)
  | computeWord (p : Fin 96) (op : VecOp)
  | badop (p : Fin 96)
  | ipar (p : Fin 96)
  | reloadDone (p : Fin 96)
  | haltReq (p : Fin 96) (v : Word)
  | seqRefetch (p : Fin 96) (v : Word)
  | idataStore (fn : Fin 128) (p : Fin 96) (v : Word)
  -- Prompter
  | localPass (slot : Fin 16384) (pos : BitVec 20) (req : SampReq) (logits : List Word) (heads : List (List Word))
      (poison fail : Bool)
  | mergePass (slot : Fin 16384) (pos : BitVec 20)
  | candList (src : Fin 1024) (slot : Fin 16384) (cue16 : BitVec 16) (pos : BitVec 20) (rank part : Nat)
      (last fail poison : Bool) (ents : List (Nat × Word)) (heads : List (Option (Nat × Word)))
  -- packet arrivals
  | step (src : Fin 1024) (r : StepRec)
  | chunkDone (src : Fin 1024) (ents : List ChunkRep)
  | line (src : Fin 1024) (fn : Fin 128) (lines : List Line)
  | credit (src : Fin 1024) (ents : List (Word × Fin 128 × Nat))
  | cueList (src : Fin 1024) (toks : List CueTok)
  | activation (src : Fin 1024) (cue : Nat) (push : Bool) (slots : List (Fin 16384 × BitVec 20)) (toks : Nat)
      (deadline : Nat) (frame costume spec : Bool) (body : ActBody)
  | partials (src : Fin 1024) (beat : Fin 16384) (cue16 : BitVec 16) (addr : Nat) (data : List Byte)
      (poison fail : Bool)
  | prompt (src : Fin 1024) (fn : Fin 128) (callId : Word) (first : Nat) (toks : List Word)
  | transfer (src : Fin 1024) (id : Word) (off : Nat) (data : List Byte) (poison : Bool)
  | blockSet (msg : CueTok)
  | tableClear (msg : CueTok)
  | context (src : Fin 1024) (slot : Fin 16384) (ctx : GCtx) (poison : Bool)
  | budget (src : Fin 1024) (cue : Nat) (ready ew : Bool) (lit uj : Nat)
  | advert (src : Fin 1024) (company model : Nat) (admitting exact lost : Bool) (freeSlots freeBlocks cue : Nat)
  | snap (msg : CueTok) (listCue : Nat)
  | cutAck (src : Fin 1024) (company cue : Nat)
  | copied (src : Fin 1024) (company cue : Nat) (shards : List Shard)
  | noSpace (src : Fin 1024) (company cue : Nat)
  | copyFault (src : Fin 1024) (company cue : Nat)
  | manifestAck (src : Fin 1024) (company seq : Nat)
  | applied (src : Fin 1024) (company : Nat)
  | resident (src : Fin 1024) (company : Nat) (tenant id ver : Nat)
  | spilled (src : Fin 1024) (slot : Fin 16384) (res : Nat)
  | filled (src : Fin 1024) (slot : Fin 16384) (res : Nat)
  | resetCue (src : Fin 1024) (company cue : Nat)
  | status (src : Fin 1024) (tag : BitVec 16) (epoch : BitVec 8) (code outcome value detail : Nat)
  | repoint (src : Fin 1024) (tag : BitVec 16) (fn : Fin 128) (callId : Word) (company : Nat) (lead : Fin 1024)
      (pos : BitVec 20)
  | shardRead (src : Fin 1024) (tag : BitVec 16) (seq company shard first count : Nat)
  | shardData (src : Fin 1024) (tag : BitVec 16) (epoch : BitVec 8) (data : List Byte) (poison : Bool)
  | sceneQuery (src : Fin 1024) (tag : BitVec 16) (plan : Word) (company : Nat)
  | restoreFillDone (fn : Fin 128) (callId : Word)
  -- Scripts, Wind, Gorse, Wardrobe, Meadow
  | scriptLoad (v : Word)
  | scriptLoadDone
  | withdraw (v : Word)
  | retest (v : Word)
  | windBlock (raw : BitVec 1536)
  | gorseTestGo (v : Word)
  | costumeLoad (v : Word) (img : List Byte)
  | costumeLoadDone
  | pendingLoadResume
  | revoke (v : Word)
  | residencyCopyDone (tenant id ver : Nat)
  | tableInvalidate (v : Word)
  | heathSpillDone (slot : Fin 16384) (res : Nat)
  | heathFillDone (slot : Fin 16384) (res : Nat)
  -- fabric
  | flitReceive (link : Fin 12) (flit : BitVec 2048)
  | packetForward (pkt : Packet)
  | idleFlit (link : Fin 12)
  | replayTimeout (link : Fin 12)
  | linkEn (link : Fin 12) (v : Word)
  | trainingComplete (link : Fin 12)
  | trainTimeout (link : Fin 12)
  | trainRestart (link : Fin 12)
  | identityRecord (link : Fin 12) (r : IdRec)
  | linkSignalLoss (link : Fin 12)
  | linkSilence (link : Fin 12)
  | topologyUpdate (link : Fin 12) (dev : Fin 1024) (state : Nat) (epoch : BitVec 8)
  | exit (v : Word)
  | exitFence (link : Fin 12)
  | exitAck (link : Fin 12)
  | exitAckSend (link : Fin 12)
  | exitTimeout
  -- Swales
  | swaleWrite (id : Nat) (words : List (BitVec 64))
  | swaleRead (id : Nat)
  | mark (id : Nat)
  | rewind (id : Nat)
  | release (id k : Nat)
  | pointerMismatch (id : Nat)
  | swaleReset (id : Nat) (v : Word)
  | flushDone (id : Nat)
  | holdDone (id : Nat)
  | watermarkDwellEnd (egress : Bool)
  | silentSelfReset
  -- Lighting Desk
  | domainDemand (d : Fin 64)
  | domainIdle (d : Fin 64)
  | targetWrite (d : Fin 64) (v : Word)
  | shutdownComplete (d : Fin 64)
  | powerupComplete (d : Fin 64)
  | pgFail (d : Fin 64)
  | deepOff (v : Word)
  | pwrBrakeFall
  | pwrBrakeRise
  | brakeLoopTick (mw : Nat)
  | tempSample (temps : List Nat)
  -- Stageplot
  | stageplotLoad (v : Word)
  | stageplotLoadDone
  | swapReq (fn : Fin 128) (v : Word)
  | swapCancel (v : Word)
  | sceneStart (v : Word)
  | applyDone
  | sceneTimeout
  -- Understudy and Prompt Book
  | snapshotForce (v : Word)
  | snapshotCopyDone (poison : Bool)
  | copyBeforeWrite (page : Bool) (n : Nat) (waitNs : Nat)
  | snapshotTimeout
  | drainDone (poison : Bool)
  | wcopyRefreshDone
  | undHostGo (v : Word)
  | replayGo (v : Word)
  | replayAbort (v : Word)
  -- SPDM
  | getVersion
  | getCapabilities
  | negotiateAlgorithms (algs : List Nat)
  | getDigests
  | getCertificate (slot off len : Nat)
  | challenge (slot : Nat) (nonce : BitVec 256)
  | getMeasurements (signed : Bool) (idx : Nat) (nonce : BitVec 256)
  | keyExchange (i3c : Bool) (pub : Nat)
  | finish (sid : Nat) (ok : Bool) (oper : Option (Nat × Nat))
  | heartbeat (sid : Nat)
  | keyUpdate (sid : Nat)
  | endSession (sid : Nat)
  | chunkSend (handle seq : Nat) (last : Bool) (data : List Byte)
  | chunkGet (handle seq : Nat)
  | setHouseKey (sid : Nat) (key : BitVec 256)
  | programKey (sid idx : Nat) (digest : BitVec 384)
  | revokeKey (sid idx : Nat)
  | writeLocked (sid off : Nat) (v : Word)
  | raiseFloor (sid : Nat) (seq : Word)
  | spdmZeroise (sid : Nat) (tenant : Option (BitVec 12))
  | readAudit (sid : Nat) (first count : Nat)
  -- Stage Door registers and events
  | zeroise (v : Word)
  | zeroiseComplete
  | tenantZero (v : Word)
  | tkeyImport (v : Word)
  | floorWrite (fn : Fin 128) (v : Word)
  | tamper (sensor : Word)
  | selftestDone (fails : BitVec 8)
  | auditClose
  -- Ledger
  | logPageProgram (ok : Bool)
  | ledgerStore (v : Word)
  | ledgerStoreDone (ok : Bool)
  | wearLevelMove (ok : Bool)
  -- bring-up
  | coldPowerUp (sealHigh : Bool) (sled : BitVec 3) (ordered hbmOk : Bool)
  | supplyLoss
  | warmRst (lowNs : Nat)
  | warmResetFlushDone
  | warmRstRelease
  | wloadBegin (v : Word)
  | wloadDone (v : Word)
  | weightHashDone
  -- faults
  | faultReport (code inst : BitVec 16) (detail : Word)
  | crashCapsuleTimeout
  | partialReset (v : Word)
  | faultInject (fn : Fin 128) (v : Word)
  -- further rows
  | card (src : Fin 1024) (fn : Fin 128) (tag : BitVec 16) (off : Word) (card : Card)
  | configurationRequest (fn : Fin 128)
  | pasidTlp
  | startupTestsDone (raw : BitVec 4096)
  | flrComplete (fn : Fin 128)
  | partialResetComplete (b : Fin 4)
  | eccScheduledMove (lb : Nat) (ok : Bool)
  | rbDataRead
  deriving DecidableEq, Repr

end Sys2Proof
end

