-- ==== Sys2Proof/Decode.lean ====
section
/-!
DEFINITION. Decoding by the command table's bits. No row of spec/opcode_table.json gives bits (every row's field list is
empty): the block takes its commands as register accesses, packets and events, so no word spells a command.
-/
namespace Sys2Proof

/-- The command a table word spells: none, for every word. -/
def decodeTableWord (_nbits _w : Nat) : Option Instr := none

end Sys2Proof
end

