-- ==== Sys2Proof/Machine/Plot.lean ====
section
/-!
DEFINITION. A Stageplot set: the settings of the sections of Table SPL-4 as one record (spec/16_stageplot.md). The
spec gives no byte layout of a section body, so the record is what an image's sections say; RWS fields are kept as
(key, value) pairs (R633) and every section's words are kept for the readback of R651.
-/
namespace Sys2Proof.Machine

/-- A model of the MODELS section. -/
structure ModelInfo where
  id : Nat
  vocab : Nat
  layers : Nat
  heads : Nat
  /-- key-value heads of a layer (Table UND-4) -/
  kvHeads : Nat
  /-- longest reduction in terms, longest row selected for stochastic rounding, number of sites (R283, R420) -/
  maxTerms : Nat
  maxRow : Nat
  sites : Nat
  /-- normalisation epsilon, FP32 (R301) -/
  eps : Nat
  /-- (d_in, d_out) of query, key, value, output, gate, up and down (Table WDR-1) -/
  dims : List (Nat × Nat)
  deriving DecidableEq, Repr

/-- A member of a Company (R19). -/
structure Member where
  dev : Nat
  stage : Nat
  rank : Nat
  deriving DecidableEq, Repr

/-- A Company of the House as every Stageplot knows it for routing (R81, R82). -/
structure CompanyInfo where
  id : Nat
  model : Nat
  exact : Bool
  members : List Member
  deriving DecidableEq, Repr

/-- One operator instance of the cue sheets (R276, R161, R261, R272). -/
structure Template where
  push : Bool
  stage0 : Bool
  player : Nat
  /-- Troupe of its Player (R261) -/
  troupe : Nat
  entry : Nat
  /-- completions the beat awaits -/
  ctr : Nat
  lc : List Nat
  tokens : List Token
  frame : Bool
  /-- its completion is the stage's result for a span that does not sample (R194) -/
  result : Bool
  /-- the Stageplot selects stochastic rounding for it (R303) -/
  stoch : Bool
  deriving DecidableEq, Repr

/-- A Stageplot set. -/
structure Plot where
  planId : Nat
  seq : Nat
  houseId : Nat
  device : Nat
  /-- SHA-384 of the HOUSE section and of the whole image -/
  digest : Nat
  imgDigest : Nat
  -- HOUSE
  racks : Nat
  rootPrimary : Nat
  rootSecondary : Nat
  period : Nat
  anchorCue : Nat
  domain : Nat
  -- LINKS
  expect : List Nat
  credits : List Nat
  -- SECURITY
  sealRequired : Bool
  locked : List (Nat × Nat)
  operKeys : List Nat
  nonApproved : Bool
  -- COMPANY
  swing : Bool
  company : Nat
  companies : List CompanyInfo
  shardBase : Nat
  shardWidth : Nat
  shards : List (Nat × Nat)
  /-- first layer and layer count of each stage (R437) -/
  stageLayers : List (Nat × Nat)
  buddy : Nat
  -- LOFT
  wGran : Nat
  cGran : Nat
  /-- Troupe of each pair, 4 for none (R259) -/
  troupes : List Nat
  castOrder : List Nat
  -- MEADOW
  tableBase : Nat
  poolBase : Nat
  poolBlocks : Nat
  blockBytes : Nat
  /-- entries of the prefix table -/
  prefixEntries : Nat
  costumePool : Nat
  scriptStore : Nat
  undRegion : Nat
  stagingBase : Nat
  stagingLen : Nat
  regionMiB : Nat
  /-- tokens of the staging window of each fetching device at this lead (R591) -/
  window : Nat
  -- CUESHEETS
  templates : List Template
  cueWords : List (Nat × Nat)
  -- MODELS, PREFS
  models : List ModelInfo
  prefs : List (Nat × List Nat)
  -- POWER: boot TARGETs
  targets : List Nat
  /-- RWS field values of the class S sections -/
  rws : List (Nat × Nat)
  /-- words of every section -/
  words : List (Nat × List Nat)
  deriving DecidableEq, Repr

/-- The Company with this id. -/
def Plot.companyInfo (p : Plot) (c : Nat) : Option CompanyInfo := p.companies.find? (fun x => x.id = c)

/-- This device's own Company. -/
def Plot.own (p : Plot) : Option CompanyInfo := if p.swing then none else p.companyInfo p.company

/-- The front-of-house lead: stage 0, tensor rank 0 (R20). -/
def CompanyInfo.lead (c : CompanyInfo) : Option Nat :=
  (c.members.find? (fun m => m.stage = 0 ∧ m.rank = 0)).map (·.dev)

/-- This device as a member. -/
def Plot.self (p : Plot) : Option Member :=
  p.own.bind fun c => c.members.find? (fun m => m.dev = p.device)

/-- Last pipeline stage of a Company. -/
def CompanyInfo.last (c : CompanyInfo) : Nat := c.members.foldl (fun a m => max a m.stage) 0

/-- Tensor ranks of a Company. -/
def CompanyInfo.ranks (c : CompanyInfo) : Nat := c.members.foldl (fun a m => max a (m.rank + 1)) 0

/-- This device is its Company's front-of-house lead. -/
def Plot.isLead (p : Plot) : Bool :=
  match p.own with
  | some c => c.lead = some p.device
  | none => false

/-- The model with this id. -/
def Plot.model (p : Plot) (m : Nat) : Option ModelInfo := p.models.find? (fun x => x.id = m)

end Sys2Proof.Machine
end

