-- ==== Sys2Proof/Config.lean ====
section
/-!
DEFINITION. What an implementation fixes and what the spec leaves open: uninterpreted constants with no body, so no
proof can lean on a value of one. `freeNat` is the free value (log entry 3); the cryptographic primitives are named by the
spec but not defined in it (log entry 4); section and image bodies have no layout in the spec (log entry 6).
-/
namespace Sys2Proof.Config

/-- A free value: the n-th choice the spec leaves open ("the result is one of", an unstated value). -/
opaque freeNat : Nat → Nat

/-- SHA-384 of a byte string, as a number (R631, R407, R685). -/
opaque sha384 : List Byte → Nat

/-- HMAC-SHA-384 under a key (R739, Table SDR-4). -/
opaque hmac384 : Nat → List Byte → Nat

/-- AES-256-GCM: ciphertext and tag of a plaintext under a key, IV and additional data (R96, R495, R719). -/
opaque gcmSeal : Nat → Nat → List Byte → List Byte → List Byte × Nat

/-- AES-256-GCM opening: the plaintext, or none when the tag fails. -/
opaque gcmOpen : Nat → Nat → List Byte → List Byte → Nat → Option (List Byte)

/-- AES key unwrap (SP 800-38F) under the wrap key: the key, or none (R745, R748). -/
opaque unwrap : Nat → Nat → Option Nat

/-- First 3 bytes of AES-256 of a zero block under a key (SDR_TKEY.KCV). -/
opaque kcv : Nat → Nat

/-- ECDSA P-384 verification of a digest and signature under the key with a given digest (R631, R744, R754). -/
opaque ecdsaVerify : Nat → Nat → Nat → Bool

/-- ECDSA P-384 signature of a digest under the device identity key (R685, R752). -/
opaque ecdsaSign : Nat → Nat → Nat

/-- Identity key of the device with this number, as its certificate chain shows it (R744). -/
opaque deviceKey : Nat → Nat

/-- CTR_DRBG: instantiate from a seed, and generate (value, next state) (R750). -/
opaque drbgInit : Nat → Nat
opaque drbgGen : Nat → Nat × Nat

/-- Secret of an ECDHE exchange and the session keys of its transcript (R752). -/
opaque ecdhe : Nat → Nat → Nat

/-- The settings the section bodies of a well-formed Stageplot image give (R630 to R633). -/
opaque plotOf : List Byte → Option Plot

/-- The offset of a time exchange, in ps, after the signed correction of its link (R221): how the correction enters the offset
is not stated. -/
opaque asymOffset : Int → Int → Int

/-- Digest of the vendor key in ROM (key 0, Table SDR-2) and device-fixed measurements (Table SDR-4). -/
opaque vendorKey : Nat
opaque romDigest : Nat
opaque firmwareDigest : Nat
opaque certChain : List Byte

/-- Device unique secret (fuses, Table SDR-2), device serial, and the certified part flag (FRK-DL1-C, R3). -/
opaque uniqueSecret : Nat
opaque serial : Nat
opaque certifiedPart : Bool
opaque certifiedBank : Bool

/-- Longest SPDM message of the transports; a longer answer is fetched in chunks (Table SDR-3). -/
opaque spdmLongest : Nat

end Sys2Proof.Config
end

