-- ==== Sys2Proof/Machine/Map.lean ====
section
/-!
DEFINITION. The sparse tables of the state: lists of (key, value) pairs with strictly rising keys and no entry
equal to the value an unlisted key stands for. Bit-field helpers for the wire formats of R5.
-/
namespace Sys2Proof.Machine

/-- A sparse table: (key, value) pairs, keys strictly rising. -/
abbrev AMap (V : Type) := List (Nat × V)

/-- The value stored under `k`, if any. -/
def AMap.get? {V : Type} : AMap V → Nat → Option V
  | [], _ => none
  | (k', v) :: r, k => if k' = k then some v else AMap.get? r k

/-- The value under `k`, or `d` where `k` is not listed. -/
def AMap.getD {V : Type} (m : AMap V) (k : Nat) (d : V) : V := (m.get? k).getD d

/-- Store `v` under `k`, keeping the keys rising. -/
def AMap.put {V : Type} : AMap V → Nat → V → AMap V
  | [], k, v => [(k, v)]
  | (k', v') :: r, k, v =>
    if k < k' then (k, v) :: (k', v') :: r
    else if k' = k then (k, v) :: r
    else (k', v') :: AMap.put r k v

/-- Remove `k`. -/
def AMap.del {V : Type} (m : AMap V) (k : Nat) : AMap V := m.filter (fun p => p.1 != k)

/-- Store `v` under `k` where `d` is what an unlisted key reads as: storing `d` unlists the key. -/
def AMap.setD {V : Type} [DecidableEq V] (m : AMap V) (k : Nat) (d v : V) : AMap V :=
  if v = d then m.del k else m.put k v

/-- The keys of the table rise strictly. -/
def AMap.sorted {V : Type} (m : AMap V) : Bool := (m.map Prod.fst).Pairwise (· < ·)

/-- The canonical form of a table whose unlisted keys read as `d`. -/
def AMap.wf {V : Type} [DecidableEq V] (m : AMap V) (d : V) : Bool :=
  m.sorted && m.all (fun p => decide (p.2 ≠ d))

/-- The field of `w` bits that starts at bit `lo` (R5). -/
def bits {n : Nat} (v : BitVec n) (lo w : Nat) : Nat := v.toNat / 2 ^ lo % 2 ^ w

/-- One bit of a wire format. -/
def bit {n : Nat} (v : BitVec n) (i : Nat) : Bool := bits v i 1 = 1

/-- Place `v`, cut to `w` bits, at bit `lo`. -/
def place (lo w v : Nat) : Nat := (v % 2 ^ w) * 2 ^ lo

/-- 1 for true. -/
def b2n (b : Bool) : Nat := if b then 1 else 0

/-- The `n` bytes of `v`, least significant first (R5). -/
def leBytes : Nat → Nat → List Byte
  | 0, _ => []
  | n + 1, v => BitVec.ofNat 8 v :: leBytes n (v / 256)

/-- The number that little-endian bytes spell (R5). -/
def ofLeBytes : List Byte → Nat
  | [] => 0
  | b :: r => b.toNat + 256 * ofLeBytes r

/-- Quotient rounded up (R120, R134). -/
def ceilDiv (a b : Nat) : Nat := (a + b - 1) / b

/-- Saturating increment of a `w`-bit counter. -/
def satAdd (w v k : Nat) : Nat := min (v + k) (2 ^ w - 1)

/-- The first index of a list whose element satisfies `p`. -/
def findIdx {α : Type} (p : α → Bool) (l : List α) : Option Nat := l.findIdx? p

/-- Change the elements that satisfy `p`. -/
def mapIf {α : Type} (p : α → Bool) (f : α → α) (l : List α) : List α := l.map (fun x => if p x then f x else x)

/-- Change the first element that satisfies `p`. -/
def mapFirst {α : Type} (p : α → Bool) (f : α → α) : List α → List α
  | [] => []
  | x :: r => if p x then f x :: r else x :: mapFirst p f r

/-- Keep the last `n` elements. -/
def keepLast {α : Type} (n : Nat) (l : List α) : List α := l.drop (l.length - n)

/-- Stable insertion by a key, ascending. -/
def insertBy {α : Type} (key : α → Nat) (x : α) : List α → List α
  | [] => [x]
  | y :: r => if key x < key y then x :: y :: r else y :: insertBy key x r

/-- Stable sort by a key, ascending. -/
def sortBy {α : Type} (key : α → Nat) (l : List α) : List α := l.foldl (fun acc x => insertBy key x acc) []

end Sys2Proof.Machine
end

