-- ==== Sys2Proof/Machine/RegMap.lean ====
section
/-!
DEFINITION. The register map (spec/23_register_map.md Table MAP-2 and the register tables of each chapter): every
field of every register with its place, access code (R6, R7) and reset value (R854, Table MAP-3).
A field is named by the key `offset * 32 + lowest bit`. Offsets are BAR0 offsets (R846); function f's window lies at
the model's own offset `winBase f` above BAR0, since each VF has a BAR of its own (R56, R847).
-/
namespace Sys2Proof.Machine

/-- Access codes of Table SCOPE-3, the two ways of clearing a counter (R7) told apart. -/
inductive Acc
  | rw | ro | wo | w1c | w1s | rws | rwl
  /-- RO counter cleared by a full-word write of any value (R7) -/
  | ctrAny
  /-- RO counter cleared by a full-word write with bit 16 set (R7) -/
  | ctrBit16
  deriving DecidableEq, Repr

/-- Instances of Table SWL-4 exist at these ids. -/
def swlExists (i : Nat) : Bool :=
  i < 6 || (8 ≤ i && i < 20) || (0x20 ≤ i && i < 0xA2) || (0x100 ≤ i && i < 0x1C0)

/-- Status codes a REFUSED Notice can carry (R159). -/
def refuseCode (s : Nat) : Bool := (1 ≤ s && s ≤ 5) || s = 0x0A || s = 0x11

/-- Build, policy, mark, pin and depth of an instance (Table SWL-4); link receive buffers take their depth from the
Stageplot, so it is not fixed here. Argument: the low bit of the SWL_CFG field. -/
def swlCfg0 (i lo : Nat) : Nat :=
  if lo = 0 then (if 0x100 ≤ i then 0 else 1)
  else if lo = 1 then (if i = 0xA0 ∨ i = 0xA1 then 1 else 0)
  else if lo = 2 then (if 8 ≤ i ∧ i < 20 then 1 else 0)
  else if lo = 3 then (if i = 0 then 1 else if i = 2 then 2 else 0)
  else if i = 0 then 256 else if i = 1 then 64 else if i = 2 then 8192 else if i = 3 then 4096
  else if i = 4 then 16384 else if i = 5 then 256 else if i < 20 then 512 else if i < 0x80 then 17
  else if i < 0xA0 then 64 else if i = 0xA0 then 1024 else if i = 0xA1 then 16384 else 8

/-- HIGH and LOW of Table SWL-4 (`true` for HIGH). A receive buffer's levels follow its depth. -/
def swlWm0 (i : Nat) (high : Bool) : Nat :=
  let p : Nat × Nat :=
    if i = 0 then (192, 64) else if i = 1 then (48, 16) else if i = 2 then (6144, 2048) else if i = 3 then (3072, 1024)
    else if i = 4 then (12288, 4096) else if i = 5 then (192, 64) else if i < 20 then (448, 64)
    else if i < 0x80 then (17, 8) else if i < 0xA0 then (48, 16) else if i = 0xA0 then (768, 256)
    else if i = 0xA1 then (12288, 4096) else (6, 2)
  if high then p.1 else p.2

/-- One register field. -/
structure Fld where
  off : Nat
  lo : Nat
  width : Nat
  acc : Acc
  rst : Nat
  deriving DecidableEq, Repr

/-- The key a field's value is stored under. -/
def Fld.key (f : Fld) : Nat := f.off * 32 + f.lo

/-- A register reached through an index register: entry `i` of it is stored above every BAR0 offset (R159, R216). -/
def Fld.ix (f : Fld) (i : Nat) : Fld := { f with off := 0x10000000 * (i + 1) + f.off }

/-- Offset of function f's window (R56; VF windows are the model's own numbering, log entry 5). -/
def winBase (f : Nat) : Nat := 0x4000000 + f * 0x4000

def Fld.sqTailIdx (f : Nat) (i : Nat) : Fld := ⟨winBase f + 0x0 + 0x8 * i, 0, 16, .rw, 0⟩
def Fld.lqHeadIdx (f : Nat) (i : Nat) : Fld := ⟨winBase f + 0x20 + 0x8 * i, 0, 16, .rw, 0⟩
def Fld.nqHeadIdx (f : Nat) : Fld := ⟨winBase f + 0x40, 0, 16, .rw, 0⟩
def Fld.sqBaseLoV (f : Nat) (i : Nat) : Fld := ⟨winBase f + 0x1000 + 0x20 * i, 0, 32, .rw, 0⟩
def Fld.sqBaseHiV (f : Nat) (i : Nat) : Fld := ⟨winBase f + 0x1004 + 0x20 * i, 0, 32, .rw, 0⟩
def Fld.sqCtlEn (f : Nat) (i : Nat) : Fld := ⟨winBase f + 0x1008 + 0x20 * i, 0, 1, .rw, 0⟩
def Fld.sqCtlLog2size (f : Nat) (i : Nat) : Fld := ⟨winBase f + 0x1008 + 0x20 * i, 4, 4, .rw, 6⟩
def Fld.sqHeadIdx (f : Nat) (i : Nat) : Fld := ⟨winBase f + 0x100C + 0x20 * i, 0, 16, .ro, 0⟩
def Fld.lqBaseLoV (f : Nat) (i : Nat) : Fld := ⟨winBase f + 0x1080 + 0x20 * i, 0, 32, .rw, 0⟩
def Fld.lqBaseHiV (f : Nat) (i : Nat) : Fld := ⟨winBase f + 0x1084 + 0x20 * i, 0, 32, .rw, 0⟩
def Fld.lqCtlEn (f : Nat) (i : Nat) : Fld := ⟨winBase f + 0x1088 + 0x20 * i, 0, 1, .rw, 0⟩
def Fld.lqCtlLog2size (f : Nat) (i : Nat) : Fld := ⟨winBase f + 0x1088 + 0x20 * i, 4, 4, .rw, 6⟩
def Fld.lqCtlVec (f : Nat) (i : Nat) : Fld := ⟨winBase f + 0x1088 + 0x20 * i, 8, 5, .rw, 0⟩
def Fld.lqCtlIthr (f : Nat) (i : Nat) : Fld := ⟨winBase f + 0x1088 + 0x20 * i, 16, 16, .rw, 1⟩
def Fld.lqTailIdx (f : Nat) (i : Nat) : Fld := ⟨winBase f + 0x108C + 0x20 * i, 0, 16, .ro, 0⟩
def Fld.nqBaseLoV (f : Nat) : Fld := ⟨winBase f + 0x1100, 0, 32, .rw, 0⟩
def Fld.nqBaseHiV (f : Nat) : Fld := ⟨winBase f + 0x1104, 0, 32, .rw, 0⟩
def Fld.nqCtlEn (f : Nat) : Fld := ⟨winBase f + 0x1108, 0, 1, .rw, 0⟩
def Fld.nqCtlLog2size (f : Nat) : Fld := ⟨winBase f + 0x1108, 4, 4, .rw, 6⟩
def Fld.nqCtlVec (f : Nat) : Fld := ⟨winBase f + 0x1108, 8, 5, .rw, 0⟩
def Fld.nqCtlIthr (f : Nat) : Fld := ⟨winBase f + 0x1108, 16, 16, .rw, 1⟩
def Fld.nqTailIdx (f : Nat) : Fld := ⟨winBase f + 0x110C, 0, 16, .ro, 0⟩
def Fld.fnStatusDbErr (f : Nat) : Fld := ⟨winBase f + 0x2000, 0, 1, .w1c, 0⟩
def Fld.fnStatusCfgErr (f : Nat) : Fld := ⟨winBase f + 0x2000, 1, 1, .w1c, 0⟩
def Fld.fnStatusWriteErr (f : Nat) : Fld := ⟨winBase f + 0x2000, 2, 1, .w1c, 0⟩
def Fld.fnStatusError (f : Nat) : Fld := ⟨winBase f + 0x2000, 3, 1, .ro, 0⟩
def Fld.fnStatusGrace (f : Nat) : Fld := ⟨winBase f + 0x2000, 4, 1, .ro, 0⟩
def Fld.fnStatusDropped (f : Nat) : Fld := ⟨winBase f + 0x2000, 16, 16, .ctrBit16, 0⟩
def Fld.fnCtlReclaim (f : Nat) : Fld := ⟨winBase f + 0x2004, 0, 1, .wo, 0⟩
def Fld.fnLiveLive (f : Nat) : Fld := ⟨winBase f + 0x2008, 0, 13, .ro, 0⟩
def Fld.hiuGraceGraceMs : Fld := ⟨0x100, 0, 20, .rwl, 0x7530⟩
def Fld.hiuLinkStatusRate : Fld := ⟨0x104, 0, 4, .ro, 0⟩
def Fld.hiuLinkStatusWidth : Fld := ⟨0x104, 4, 5, .ro, 0⟩
def Fld.hiuLinkStatusFlit : Fld := ⟨0x104, 9, 1, .ro, 0⟩
def Fld.hiuLinkStatusHostAbsent : Fld := ⟨0x104, 10, 1, .ro, 0⟩
def Fld.hiuCallmapUsed : Fld := ⟨0x108, 0, 13, .ro, 0⟩
def Fld.hiuBootPhase : Fld := ⟨0x110, 0, 3, .ro, 0⟩
def Fld.hiuBootFail : Fld := ⟨0x110, 8, 4, .ro, 0⟩
def Fld.hiuBootWarm : Fld := ⟨0x110, 12, 1, .ro, 0⟩
def Fld.hiuBootDeep : Fld := ⟨0x110, 13, 1, .ro, 0⟩
def Fld.hiuBootBootMs : Fld := ⟨0x110, 16, 16, .ro, 0⟩
def Fld.boxAdmitCtlAdmitEn : Fld := ⟨0x100010, 0, 1, .rw, 0⟩
def Fld.boxAdmitCtlHold : Fld := ⟨0x100010, 1, 1, .ro, 0⟩
def Fld.boxAdmitCtlCutoffUs : Fld := ⟨0x100010, 8, 8, .rws, 0x14⟩
def Fld.boxAdmitCtlThrottleCues : Fld := ⟨0x100010, 16, 16, .rws, 0⟩
def Fld.boxModelPrefillRate : Fld := ⟨0x100020, 0, 17, .ro, 0⟩
def Fld.boxModelDecodeSlots : Fld := ⟨0x100020, 17, 12, .ro, 0⟩
def Fld.boxBacklogV : Fld := ⟨0x100024, 0, 32, .ro, 0⟩
def Fld.boxIngressWmHigh : Fld := ⟨0x100040, 0, 10, .rws, 0xC0⟩
def Fld.boxIngressWmLow : Fld := ⟨0x100040, 16, 10, .rws, 0x40⟩
def Fld.boxTenIndexTenant : Fld := ⟨0x100100, 0, 12, .rw, 0⟩
def Fld.boxTenRateV : Fld := ⟨0x100104, 0, 32, .rws, 0⟩
def Fld.boxTenBurstV : Fld := ⟨0x100108, 0, 32, .rws, 0⟩
def Fld.boxTenCapsLiveCap : Fld := ⟨0x10010C, 0, 15, .rws, 0⟩
def Fld.boxTenCapsBlockCap : Fld := ⟨0x10010C, 15, 17, .rws, 0⟩
def Fld.boxTenLevelV : Fld := ⟨0x100110, 0, 32, .ro, 0⟩
def Fld.boxTenLiveLive : Fld := ⟨0x100114, 0, 15, .ro, 0⟩
def Fld.boxTenLiveBlocks : Fld := ⟨0x100114, 15, 17, .ro, 0⟩
def Fld.boxTenHeldHeld : Fld := ⟨0x100118, 0, 16, .ro, 0⟩
def Fld.boxFnTenantTenant (i : Nat) : Fld := ⟨0x100400 + 0x4 * i, 0, 12, .rwl, 0⟩
def Fld.boxFnTenantValid (i : Nat) : Fld := ⟨0x100400 + 0x4 * i, 15, 1, .rwl, 0⟩
def Fld.boxRefuseCountV (i : Nat) : Fld := ⟨0x100600 + 0x4 * i, 0, 32, .ctrAny, 0⟩
def Fld.stmCtlEn : Fld := ⟨0x200000, 0, 1, .rw, 0⟩
def Fld.stmCtlLead : Fld := ⟨0x200000, 1, 1, .ro, 0⟩
def Fld.stmCtlHold : Fld := ⟨0x200000, 2, 1, .ro, 0⟩
def Fld.stmComposeDecGroup : Fld := ⟨0x200010, 0, 9, .rws, 0x80⟩
def Fld.stmComposePushMaxChunks : Fld := ⟨0x200010, 16, 5, .rws, 8⟩
def Fld.stmComposeCutMarginUs : Fld := ⟨0x200010, 24, 8, .rws, 0x32⟩
def Fld.stmCastReadMin : Fld := ⟨0x200020, 0, 6, .rws, 4⟩
def Fld.stmCastReadMax : Fld := ⟨0x200020, 8, 6, .rws, 0x10⟩
def Fld.stmCastHyst : Fld := ⟨0x200020, 16, 4, .rws, 2⟩
def Fld.stmCastMaxStep : Fld := ⟨0x200020, 24, 4, .rws, 2⟩
def Fld.stmCastRatePfPair : Fld := ⟨0x200024, 0, 16, .rws, 0⟩
def Fld.stmCastRateDecPair : Fld := ⟨0x200024, 16, 16, .rws, 0⟩
def Fld.stmCastStatusReading : Fld := ⟨0x200028, 0, 6, .ro, 0⟩
def Fld.stmCastStatusLitPairs : Fld := ⟨0x200028, 8, 6, .ro, 0⟩
def Fld.stmCastStatusLastCast : Fld := ⟨0x200028, 16, 16, .ro, 0⟩
def Fld.stmCostIndexStage : Fld := ⟨0x200040, 0, 4, .rw, 0⟩
def Fld.stmCostFixV : Fld := ⟨0x200044, 0, 32, .rws, 0⟩
def Fld.stmCostDecV : Fld := ⟨0x200048, 0, 16, .rws, 0⟩
def Fld.stmCostPfV : Fld := ⟨0x20004C, 0, 16, .rws, 0⟩
def Fld.stmBudgetV : Fld := ⟨0x200050, 0, 32, .ro, 0⟩
def Fld.stmReadyWmHigh : Fld := ⟨0x200060, 0, 14, .rws, 0x3000⟩
def Fld.stmReadyWmLow : Fld := ⟨0x200060, 16, 14, .rws, 0x2000⟩
def Fld.stmReadyCountV : Fld := ⟨0x200064, 0, 15, .ro, 0⟩
def Fld.stmCensusLostCalls : Fld := ⟨0x200080, 0, 16, .ctrAny, 0⟩
def Fld.stmCensusAbandoned : Fld := ⟨0x200080, 16, 16, .ctrAny, 0⟩
def Fld.stmRetiredRetired : Fld := ⟨0x200084, 0, 16, .ctrAny, 0⟩
def Fld.stmDropTokenDrop : Fld := ⟨0x200088, 0, 16, .ctrAny, 0⟩
def Fld.stmDropClErr : Fld := ⟨0x200088, 16, 16, .ctrAny, 0⟩
def Fld.stmStats0NDec : Fld := ⟨0x200090, 0, 12, .ro, 0⟩
def Fld.stmStats0NPf : Fld := ⟨0x200090, 16, 13, .ro, 0⟩
def Fld.stmStats1NPfTokens : Fld := ⟨0x200094, 0, 17, .ro, 0⟩
def Fld.stmStats2Parked : Fld := ⟨0x200098, 0, 15, .ro, 0⟩
def Fld.stmStats2Held : Fld := ⟨0x200098, 16, 15, .ro, 0⟩
def Fld.stmStats3Trailing : Fld := ⟨0x20009C, 0, 12, .ro, 0⟩
def Fld.stmStats3Skipped : Fld := ⟨0x20009C, 16, 15, .ro, 0⟩
def Fld.cueCtlMonEn : Fld := ⟨0x300000, 0, 1, .rw, 0⟩
def Fld.cueStatusState : Fld := ⟨0x300004, 0, 3, .ro, 0⟩
def Fld.cueStatusPeriodErr : Fld := ⟨0x300004, 3, 1, .w1c, 0⟩
def Fld.cueStatusPpsLost : Fld := ⟨0x300004, 4, 1, .ro, 0⟩
def Fld.cueStatusTodFar : Fld := ⟨0x300004, 5, 1, .ro, 0⟩
def Fld.cueStatusParent : Fld := ⟨0x300004, 6, 4, .ro, 0xF⟩
def Fld.cueNowLoV : Fld := ⟨0x300008, 0, 32, .ro, 0⟩
def Fld.cueNowHiV : Fld := ⟨0x30000C, 0, 32, .ro, 0⟩
def Fld.cueNumberLoV : Fld := ⟨0x300010, 0, 32, .ro, 0⟩
def Fld.cueNumberHiV : Fld := ⟨0x300014, 0, 16, .ro, 0⟩
def Fld.cueOffsetV : Fld := ⟨0x300018, 0, 32, .ro, 0⟩
def Fld.cuePeriodNsV : Fld := ⟨0x300020, 0, 32, .ro, 0⟩
def Fld.cuePeriodNextV : Fld := ⟨0x300024, 0, 32, .rw, 0⟩
def Fld.cuePeriodAtLoV : Fld := ⟨0x300028, 0, 32, .rw, 0⟩
def Fld.cuePeriodAtHiV : Fld := ⟨0x30002C, 0, 16, .rw, 0⟩
def Fld.cueTodLoV : Fld := ⟨0x300030, 0, 32, .rw, 0⟩
def Fld.cueTodHiV : Fld := ⟨0x300034, 0, 32, .rw, 0⟩
def Fld.cueLockLockPs : Fld := ⟨0x300040, 0, 10, .rws, 0x177⟩
def Fld.cueLockLossNs : Fld := ⟨0x300040, 10, 10, .rws, 0xFA⟩
def Fld.cueLockHoldoverMs : Fld := ⟨0x300040, 20, 12, .rws, 0x32⟩
def Fld.cueAsymV (i : Nat) : Fld := ⟨0x300080 + 0x4 * i, 0, 16, .rws, 0⟩
def Fld.cueFrameCtlMissLimit : Fld := ⟨0x3000C0, 0, 8, .rws, 0⟩
def Fld.cueFrameMissedV : Fld := ⟨0x3000C4, 0, 32, .ctrAny, 0⟩
def Fld.plySeqCtlHaltReq (i : Nat) : Fld := ⟨0x400000 + 0x10000 * i, 0, 1, .rw, 0⟩
def Fld.plySeqCtlRefetch (i : Nat) : Fld := ⟨0x400000 + 0x10000 * i, 1, 1, .wo, 0⟩
def Fld.plySeqStatusState (i : Nat) : Fld := ⟨0x400004 + 0x10000 * i, 0, 3, .ro, 0⟩
def Fld.plySeqStatusPc (i : Nat) : Fld := ⟨0x400004 + 0x10000 * i, 16, 14, .ro, 0⟩
def Fld.plyBeatBeat (i : Nat) : Fld := ⟨0x400008 + 0x10000 * i, 0, 14, .ro, 0⟩
def Fld.plyBeatCue (i : Nat) : Fld := ⟨0x400008 + 0x10000 * i, 16, 16, .ro, 0⟩
def Fld.plyRoleRole (i : Nat) : Fld := ⟨0x40000C + 0x10000 * i, 0, 2, .ro, 0⟩
def Fld.plyRoleTroupe (i : Nat) : Fld := ⟨0x40000C + 0x10000 * i, 2, 2, .ro, 0⟩
def Fld.plyRoleInTroupe (i : Nat) : Fld := ⟨0x40000C + 0x10000 * i, 4, 1, .ro, 0⟩
def Fld.plyRolePair (i : Nat) : Fld := ⟨0x40000C + 0x10000 * i, 8, 6, .ro, i / 2⟩
def Fld.plyFaultWprot (i : Nat) : Fld := ⟨0x400010 + 0x10000 * i, 0, 1, .w1c, 0⟩
def Fld.plyFaultBadop (i : Nat) : Fld := ⟨0x400010 + 0x10000 * i, 1, 1, .w1c, 0⟩
def Fld.plyFaultIpar (i : Nat) : Fld := ⟨0x400010 + 0x10000 * i, 2, 1, .w1c, 0⟩
def Fld.plyFaultPoisonIn (i : Nat) : Fld := ⟨0x400010 + 0x10000 * i, 3, 1, .w1c, 0⟩
def Fld.plyFlagsNv (i : Nat) : Fld := ⟨0x400014 + 0x10000 * i, 0, 1, .w1c, 0⟩
def Fld.plyFlagsDz (i : Nat) : Fld := ⟨0x400014 + 0x10000 * i, 1, 1, .w1c, 0⟩
def Fld.plyFlagsOf (i : Nat) : Fld := ⟨0x400014 + 0x10000 * i, 2, 1, .w1c, 0⟩
def Fld.plyFlagsUf (i : Nat) : Fld := ⟨0x400014 + 0x10000 * i, 3, 1, .w1c, 0⟩
def Fld.plyFlagsIx (i : Nat) : Fld := ⟨0x400014 + 0x10000 * i, 4, 1, .w1c, 0⟩
def Fld.plyFlagsSat (i : Nat) : Fld := ⟨0x400014 + 0x10000 * i, 5, 1, .w1c, 0⟩
def Fld.plyIaddrWord (i : Nat) : Fld := ⟨0x400020 + 0x10000 * i, 0, 14, .rwl, 0⟩
def Fld.plyIdataLoV (i : Nat) : Fld := ⟨0x400024 + 0x10000 * i, 0, 32, .rwl, 0⟩
def Fld.plyIdataHiV (i : Nat) : Fld := ⟨0x400028 + 0x10000 * i, 0, 32, .rwl, 0⟩
def Fld.plyLoftPartW : Fld := ⟨0x408000, 0, 7, .ro, 0⟩
def Fld.plyLoftPartC : Fld := ⟨0x408000, 8, 4, .ro, 0⟩
def Fld.plyLoftPartA : Fld := ⟨0x408000, 16, 7, .ro, 0⟩
def Fld.plyModeExact : Fld := ⟨0x408004, 0, 1, .ro, 0⟩
def Fld.plyWloadCtlBegin : Fld := ⟨0x408010, 0, 1, .wo, 0⟩
def Fld.plyWloadCtlDone : Fld := ⟨0x408010, 1, 1, .wo, 0⟩
def Fld.plyWloadStatusState : Fld := ⟨0x408014, 0, 2, .ro, 0⟩
def Fld.plyWloadStatusRefused : Fld := ⟨0x408014, 2, 1, .w1c, 0⟩
def Fld.plyWdigestV (i : Nat) : Fld := ⟨0x408020 + 0x4 * i, 0, 32, .ro, 0⟩
def Fld.prmCtlEn : Fld := ⟨0xA00000, 0, 1, .rw, 0⟩
def Fld.prmCtlDiagEn : Fld := ⟨0xA00000, 1, 1, .rwl, 0⟩
def Fld.prmShardBaseV : Fld := ⟨0xA00004, 0, 18, .ro, 0⟩
def Fld.prmShardGeomWidth : Fld := ⟨0xA00008, 0, 17, .ro, 0⟩
def Fld.prmShardGeomRank : Fld := ⟨0xA00008, 17, 3, .ro, 0⟩
def Fld.prmShardGeomRanks : Fld := ⟨0xA00008, 20, 4, .ro, 0⟩
def Fld.prmShardGeomLast : Fld := ⟨0xA00008, 24, 1, .ro, 0⟩
def Fld.prmVocabV : Fld := ⟨0xA0000C, 0, 19, .ro, 0⟩
def Fld.prmFlagsNv : Fld := ⟨0xA00010, 0, 1, .w1c, 0⟩
def Fld.prmFlagsDz : Fld := ⟨0xA00010, 1, 1, .w1c, 0⟩
def Fld.prmFlagsOf : Fld := ⟨0xA00010, 2, 1, .w1c, 0⟩
def Fld.prmFlagsUf : Fld := ⟨0xA00010, 3, 1, .w1c, 0⟩
def Fld.prmFlagsIx : Fld := ⟨0xA00010, 4, 1, .w1c, 0⟩
def Fld.prmFlagsSat : Fld := ⟨0xA00010, 5, 1, .w1c, 0⟩
def Fld.prmMergedV : Fld := ⟨0xA00020, 0, 32, .ctrAny, 0⟩
def Fld.prmPicksGreedy : Fld := ⟨0xA00024, 0, 16, .ctrAny, 0⟩
def Fld.prmPicksInfPick : Fld := ⟨0xA00024, 16, 16, .ctrAny, 0⟩
def Fld.prmEndsDeadEnd : Fld := ⟨0xA00028, 0, 16, .ctrAny, 0⟩
def Fld.prmEndsPoison : Fld := ⟨0xA00028, 16, 8, .ctrAny, 0⟩
def Fld.prmEndsListDrop : Fld := ⟨0xA00028, 24, 8, .ctrAny, 0⟩
def Fld.prmDiagSlotSlot : Fld := ⟨0xA00040, 0, 14, .rwl, 0⟩
def Fld.prmDiagUV : Fld := ⟨0xA00044, 0, 32, .ro, 0⟩
def Fld.prmDiagSLoV : Fld := ⟨0xA00048, 0, 32, .ro, 0⟩
def Fld.prmDiagSHiV : Fld := ⟨0xA0004C, 0, 1, .ro, 0⟩
def Fld.prmDiagSelCands : Fld := ⟨0xA00050, 0, 11, .ro, 0⟩
def Fld.prmDiagSelKept : Fld := ⟨0xA00050, 16, 11, .ro, 0⟩
def Fld.prmDiagTokenV : Fld := ⟨0xA00054, 0, 24, .ro, 0⟩
def Fld.prmDiagPosV : Fld := ⟨0xA00058, 0, 20, .ro, 0⟩
def Fld.prmDiagCueV : Fld := ⟨0xA0005C, 0, 16, .ro, 0⟩
def Fld.prmLoadAddrLoV : Fld := ⟨0xA00080, 0, 32, .rw, 0⟩
def Fld.prmLoadAddrHiV : Fld := ⟨0xA00084, 0, 32, .rw, 0⟩
def Fld.prmLoadCtlLoad : Fld := ⟨0xA00088, 0, 1, .wo, 0⟩
def Fld.prmLoadCtlWithdraw : Fld := ⟨0xA00088, 1, 1, .wo, 0⟩
def Fld.prmLoadCtlKind : Fld := ⟨0xA00088, 4, 2, .rw, 0⟩
def Fld.prmLoadCtlId : Fld := ⟨0xA00088, 16, 16, .rw, 0⟩
def Fld.prmLoadStatusResult : Fld := ⟨0xA0008C, 0, 4, .ro, 0⟩
def Fld.prmScriptUseScripts : Fld := ⟨0xA00090, 0, 11, .ro, 0⟩
def Fld.prmScriptUseStopSets : Fld := ⟨0xA00090, 16, 11, .ro, 0⟩
def Fld.prmSpecHeads : Fld := ⟨0xA000A0, 0, 3, .ro, 0⟩
def Fld.prmSpecDepthMax : Fld := ⟨0xA000A0, 8, 3, .rws, 4⟩
def Fld.prmSpecDraftedV : Fld := ⟨0xA000A4, 0, 32, .ctrAny, 0⟩
def Fld.prmSpecAcceptedV : Fld := ⟨0xA000A8, 0, 32, .ctrAny, 0⟩
def Fld.grsWindCtlRetest : Fld := ⟨0xB00000, 0, 1, .wo, 0⟩
def Fld.grsWindStatusState : Fld := ⟨0xB00004, 0, 2, .ro, 0⟩
def Fld.grsWindStatusRctFail : Fld := ⟨0xB00004, 2, 1, .w1c, 0⟩
def Fld.grsWindStatusAptFail : Fld := ⟨0xB00004, 3, 1, .w1c, 0⟩
def Fld.grsWindStatusConsec : Fld := ⟨0xB00004, 4, 2, .ro, 0⟩
def Fld.grsWindCountV : Fld := ⟨0xB00008, 0, 16, .ctrAny, 0⟩
def Fld.grsDomainLoV : Fld := ⟨0xB00010, 0, 32, .ro, 0⟩
def Fld.grsDomainHiV : Fld := ⟨0xB00014, 0, 32, .ro, 0⟩
def Fld.grsSeedStatusStale : Fld := ⟨0xB00020, 0, 1, .ro, 0⟩
def Fld.grsSeedStatusSinceRekey : Fld := ⟨0xB00020, 16, 16, .ro, 0⟩
def Fld.grsTestKeyV (i : Nat) : Fld := ⟨0xB00040 + 0x4 * i, 0, 32, .rwl, 0⟩
def Fld.grsTestCtrV (i : Nat) : Fld := ⟨0xB00050 + 0x4 * i, 0, 32, .rwl, 0⟩
def Fld.grsTestGoGo : Fld := ⟨0xB00060, 0, 1, .wo, 0⟩
def Fld.grsTestGoDone : Fld := ⟨0xB00060, 1, 1, .ro, 0⟩
def Fld.grsTestOutV (i : Nat) : Fld := ⟨0xB00070 + 0x4 * i, 0, 32, .ro, 0⟩
def Fld.wdrLoadAddrLoV : Fld := ⟨0xC00000, 0, 32, .rw, 0⟩
def Fld.wdrLoadAddrHiV : Fld := ⟨0xC00004, 0, 32, .rw, 0⟩
def Fld.wdrLoadCtlLoad : Fld := ⟨0xC00008, 0, 1, .wo, 0⟩
def Fld.wdrLoadCtlRevoke : Fld := ⟨0xC00008, 1, 1, .wo, 0⟩
def Fld.wdrLoadCtlRevokeAll : Fld := ⟨0xC00008, 2, 1, .rw, 0⟩
def Fld.wdrLoadCtlTenant : Fld := ⟨0xC00008, 4, 12, .rw, 0⟩
def Fld.wdrLoadCtlId : Fld := ⟨0xC00008, 16, 14, .rw, 0⟩
def Fld.wdrLoadStatusResult : Fld := ⟨0xC0000C, 0, 4, .ro, 0⟩
def Fld.wdrLoadStatusVersion : Fld := ⟨0xC0000C, 8, 8, .ro, 0⟩
def Fld.wdrUse0Index : Fld := ⟨0xC00010, 0, 15, .ro, 0⟩
def Fld.wdrUse0Resident : Fld := ⟨0xC00010, 16, 10, .ro, 0⟩
def Fld.wdrUse1Pages : Fld := ⟨0xC00014, 0, 10, .ro, 0⟩
def Fld.wdrUse1Waiting : Fld := ⟨0xC00014, 16, 14, .ro, 0⟩
def Fld.wdrQueryId : Fld := ⟨0xC00020, 0, 14, .rw, 0⟩
def Fld.wdrQueryDataVersion : Fld := ⟨0xC00024, 0, 8, .ro, 0⟩
def Fld.wdrQueryDataTenant : Fld := ⟨0xC00024, 8, 12, .ro, 0⟩
def Fld.wdrQueryDataRefs : Fld := ⟨0xC00024, 20, 12, .ro, 0⟩
def Fld.mdwLayoutPoolBlocks : Fld := ⟨0xD00000, 0, 22, .ro, 0⟩
def Fld.mdwBlockBytesV : Fld := ⟨0xD00004, 0, 32, .ro, 0⟩
def Fld.mdwPoolBaseLoV : Fld := ⟨0xD00008, 0, 32, .ro, 0⟩
def Fld.mdwPoolBaseHiV : Fld := ⟨0xD0000C, 0, 32, .ro, 0⟩
def Fld.mdwFreeV : Fld := ⟨0xD00010, 0, 22, .ro, 0⟩
def Fld.mdwReservedV : Fld := ⟨0xD00014, 0, 22, .ro, 0⟩
def Fld.mdwCachedV : Fld := ⟨0xD00018, 0, 22, .ro, 0⟩
def Fld.mdwHandleV : Fld := ⟨0xD0001C, 0, 22, .ro, 0⟩
def Fld.mdwHitsV : Fld := ⟨0xD00020, 0, 32, .ctrAny, 0⟩
def Fld.mdwMissHandleMiss : Fld := ⟨0xD00024, 0, 16, .ctrAny, 0⟩
def Fld.mdwMissConflict : Fld := ⟨0xD00024, 16, 16, .ctrAny, 0⟩
def Fld.mdwEvictedV : Fld := ⟨0xD00028, 0, 32, .ctrAny, 0⟩
def Fld.mdwHeathBaseLoV : Fld := ⟨0xD00040, 0, 32, .rw, 0⟩
def Fld.mdwHeathBaseHiV : Fld := ⟨0xD00044, 0, 32, .rw, 0⟩
def Fld.mdwHeathSizeV : Fld := ⟨0xD00048, 0, 32, .rw, 0⟩
def Fld.mdwHeathCtlEn : Fld := ⟨0xD0004C, 0, 1, .rw, 0⟩
def Fld.mdwHeathStatusEntries : Fld := ⟨0xD00050, 0, 16, .ro, 0⟩
def Fld.mdwHeathStatusFull : Fld := ⟨0xD00050, 16, 16, .ctrAny, 0⟩
def Fld.mdwHeathPagesV : Fld := ⟨0xD00054, 0, 32, .ro, 0⟩
def Fld.mdwTableInvalTable : Fld := ⟨0xD00060, 0, 3, .wo, 0⟩
def Fld.mdwTableInvalAll : Fld := ⟨0xD00060, 3, 1, .wo, 0⟩
def Fld.mdwTableInvalIndex : Fld := ⟨0xD00060, 8, 24, .wo, 0⟩
def Fld.mdwTableStatusSweepCue : Fld := ⟨0xD00064, 0, 16, .ro, 0⟩
def Fld.mdwEccCorrected : Fld := ⟨0xD00070, 0, 16, .ctrAny, 0⟩
def Fld.mdwEccUncorrected : Fld := ⟨0xD00070, 16, 16, .ctrAny, 0⟩
def Fld.hqBaseLoV (i : Nat) : Fld := ⟨0xE00100 + 0x20 * i, 0, 32, .rw, 0⟩
def Fld.hqBaseHiV (i : Nat) : Fld := ⟨0xE00104 + 0x20 * i, 0, 32, .rw, 0⟩
def Fld.hqCtlEn (i : Nat) : Fld := ⟨0xE00108 + 0x20 * i, 0, 1, .rw, 0⟩
def Fld.hqCtlResume (i : Nat) : Fld := ⟨0xE00108 + 0x20 * i, 1, 1, .wo, 0⟩
def Fld.hqCtlLog2size (i : Nat) : Fld := ⟨0xE00108 + 0x20 * i, 4, 4, .rw, 6⟩
def Fld.hqCtlVec (i : Nat) : Fld := ⟨0xE00108 + 0x20 * i, 8, 5, .rw, 0⟩
def Fld.hqTailIdx (i : Nat) : Fld := ⟨0xE0010C + 0x20 * i, 0, 16, .rw, 0⟩
def Fld.hqHeadIdx (i : Nat) : Fld := ⟨0xE00110 + 0x20 * i, 0, 16, .ro, 0⟩
def Fld.hqStatusHalted (i : Nat) : Fld := ⟨0xE00114 + 0x20 * i, 0, 1, .ro, 0⟩
def Fld.hqStatusErr (i : Nat) : Fld := ⟨0xE00114 + 0x20 * i, 8, 8, .ro, 0⟩
def Fld.hqTagV (i : Nat) : Fld := ⟨0xE00118 + 0x20 * i, 0, 32, .ro, 0⟩
def Fld.fabLinkCtlEn (i : Nat) : Fld := ⟨0xF00000 + 0x40 * i, 0, 1, .rw, 0⟩
def Fld.fabLinkStatusState (i : Nat) : Fld := ⟨0xF00004 + 0x40 * i, 0, 3, .ro, 0⟩
def Fld.fabLinkStatusPeer (i : Nat) : Fld := ⟨0xF00004 + 0x40 * i, 3, 10, .ro, 0⟩
def Fld.fabLinkStatusPeerEpoch (i : Nat) : Fld := ⟨0xF00004 + 0x40 * i, 13, 8, .ro, 0⟩
def Fld.fabLinkStatusIsoCause (i : Nat) : Fld := ⟨0xF00004 + 0x40 * i, 21, 3, .ro, 0⟩
def Fld.fabLinkStatusTrainFails (i : Nat) : Fld := ⟨0xF00004 + 0x40 * i, 24, 8, .ctrAny, 0⟩
def Fld.fabLinkErrCrc (i : Nat) : Fld := ⟨0xF00008 + 0x40 * i, 0, 16, .ctrAny, 0⟩
def Fld.fabLinkErrReplays (i : Nat) : Fld := ⟨0xF00008 + 0x40 * i, 16, 16, .ctrAny, 0⟩
def Fld.fabLinkDropStale (i : Nat) : Fld := ⟨0xF0000C + 0x40 * i, 0, 16, .ctrAny, 0⟩
def Fld.fabLinkDropMalformed (i : Nat) : Fld := ⟨0xF0000C + 0x40 * i, 16, 16, .ctrAny, 0⟩
def Fld.fabCreditInit0Sub0 (i : Nat) : Fld := ⟨0xF00010 + 0x40 * i, 0, 10, .ro, 0⟩
def Fld.fabCreditInit0Sub1 (i : Nat) : Fld := ⟨0xF00010 + 0x40 * i, 16, 10, .ro, 0⟩
def Fld.fabCreditInit1Sub0 (i : Nat) : Fld := ⟨0xF00014 + 0x40 * i, 0, 10, .ro, 0⟩
def Fld.fabCreditInit1Sub1 (i : Nat) : Fld := ⟨0xF00014 + 0x40 * i, 16, 10, .ro, 0⟩
def Fld.fabCreditInit2Sub0 (i : Nat) : Fld := ⟨0xF00018 + 0x40 * i, 0, 10, .ro, 0⟩
def Fld.fabCreditInit2Sub1 (i : Nat) : Fld := ⟨0xF00018 + 0x40 * i, 16, 10, .ro, 0⟩
def Fld.fabCreditInit3Sub0 (i : Nat) : Fld := ⟨0xF0001C + 0x40 * i, 0, 10, .ro, 0⟩
def Fld.fabCreditInit3Sub1 (i : Nat) : Fld := ⟨0xF0001C + 0x40 * i, 16, 10, .ro, 0⟩
def Fld.fabSelfDevice : Fld := ⟨0xF00800, 0, 10, .ro, 0⟩
def Fld.fabSelfX : Fld := ⟨0xF00800, 10, 4, .ro, 0⟩
def Fld.fabSelfY : Fld := ⟨0xF00800, 14, 3, .ro, 0⟩
def Fld.fabSelfZ : Fld := ⟨0xF00800, 17, 3, .ro, 0⟩
def Fld.fabSelfRacks : Fld := ⟨0xF00800, 20, 4, .ro, 0⟩
def Fld.fabEpochEpoch : Fld := ⟨0xF00804, 0, 8, .ro, 0⟩
def Fld.fabAbsentAbsentUs : Fld := ⟨0xF00808, 0, 10, .rws, 0x14⟩
def Fld.fabExitCtlExit : Fld := ⟨0xF00810, 0, 1, .wo, 0⟩
def Fld.fabExitCtlDrained : Fld := ⟨0xF00810, 1, 1, .ro, 0⟩
def Fld.fabExitCtlForced : Fld := ⟨0xF00810, 2, 1, .ro, 0⟩
def Fld.fabExitCtlExitTimeoutUs : Fld := ⟨0xF00810, 16, 16, .rws, 0x3E8⟩
def Fld.fabPendingV : Fld := ⟨0xF00814, 0, 13, .ro, 0⟩
def Fld.fabAbsentDoneV : Fld := ⟨0xF00820, 0, 32, .ctrAny, 0⟩
def Fld.fabOrphanOrphan : Fld := ⟨0xF00824, 0, 16, .ctrAny, 0⟩
def Fld.fabOrphanStaleReply : Fld := ⟨0xF00824, 16, 16, .ctrAny, 0⟩
def Fld.fabNorouteNoroute : Fld := ⟨0xF00828, 0, 16, .ctrAny, 0⟩
def Fld.fabNorouteHopDiscard : Fld := ⟨0xF00828, 16, 16, .ctrAny, 0⟩
def Fld.fabTopoIndexDevice : Fld := ⟨0xF00840, 0, 10, .rw, 0⟩
def Fld.fabTopoDataState : Fld := ⟨0xF00844, 0, 2, .ro, 0⟩
def Fld.fabTopoDataEpoch : Fld := ⟨0xF00844, 2, 8, .ro, 0⟩
def Fld.fabTopoDataLinks : Fld := ⟨0xF00844, 10, 12, .ro, 0⟩
def Fld.fabTopoDataLost : Fld := ⟨0xF00844, 22, 1, .ro, 0⟩
def Fld.fabRouteDirs : Fld := ⟨0xF00848, 0, 3, .ro, 0⟩
def Fld.fabRouteReach : Fld := ⟨0xF00848, 3, 1, .ro, 0⟩
def Fld.fabRouteHops : Fld := ⟨0xF00848, 4, 5, .ro, 0⟩
def Fld.swlCfgBuild (i : Nat) : Fld := ⟨0x1000000 + 0x40 * i, 0, 1, .ro, swlCfg0 i 0⟩
def Fld.swlCfgPolicy (i : Nat) : Fld := ⟨0x1000000 + 0x40 * i, 1, 1, .ro, swlCfg0 i 1⟩
def Fld.swlCfgMark (i : Nat) : Fld := ⟨0x1000000 + 0x40 * i, 2, 1, .ro, swlCfg0 i 2⟩
def Fld.swlCfgPin (i : Nat) : Fld := ⟨0x1000000 + 0x40 * i, 3, 2, .ro, swlCfg0 i 3⟩
def Fld.swlCfgDepth (i : Nat) : Fld := ⟨0x1000000 + 0x40 * i, 8, 16, .ro, swlCfg0 i 8⟩
def Fld.swlOccW (i : Nat) : Fld := ⟨0x1000004 + 0x40 * i, 0, 16, .ro, 0⟩
def Fld.swlOccR (i : Nat) : Fld := ⟨0x1000004 + 0x40 * i, 16, 16, .ro, 0⟩
def Fld.swlWmHigh (i : Nat) : Fld := ⟨0x1000008 + 0x40 * i, 0, 16, .rws, swlWm0 i true⟩
def Fld.swlWmLow (i : Nat) : Fld := ⟨0x1000008 + 0x40 * i, 16, 16, .rws, swlWm0 i false⟩
def Fld.swlStatusEmptyR (i : Nat) : Fld := ⟨0x100000C + 0x40 * i, 0, 1, .ro, 1⟩
def Fld.swlStatusFullW (i : Nat) : Fld := ⟨0x100000C + 0x40 * i, 1, 1, .ro, 0⟩
def Fld.swlStatusWm (i : Nat) : Fld := ⟨0x100000C + 0x40 * i, 2, 1, .ro, 0⟩
def Fld.swlStatusState (i : Nat) : Fld := ⟨0x100000C + 0x40 * i, 3, 2, .ro, 0⟩
def Fld.swlStatusMismatch (i : Nat) : Fld := ⟨0x100000C + 0x40 * i, 5, 1, .w1c, 0⟩
def Fld.swlStatusParity (i : Nat) : Fld := ⟨0x100000C + 0x40 * i, 6, 1, .w1c, 0⟩
def Fld.swlLostV (i : Nat) : Fld := ⟨0x1000010 + 0x40 * i, 0, 32, .ctrAny, 0⟩
def Fld.swlDiscardedV (i : Nat) : Fld := ⟨0x1000014 + 0x40 * i, 0, 32, .ctrAny, 0⟩
def Fld.swlCountResets (i : Nat) : Fld := ⟨0x1000018 + 0x40 * i, 0, 16, .ctrAny, 0⟩
def Fld.swlCountPoisoned (i : Nat) : Fld := ⟨0x1000018 + 0x40 * i, 16, 16, .ctrAny, 0⟩
def Fld.swlCtlReset (i : Nat) : Fld := ⟨0x100001C + 0x40 * i, 0, 1, .wo, 0⟩
def Fld.swlCtlInject (i : Nat) : Fld := ⟨0x100001C + 0x40 * i, 1, 1, .rwl, 0⟩
def Fld.swlLastId : Fld := ⟨0x1008000, 0, 9, .ro, 0⟩
def Fld.swlLastCue : Fld := ⟨0x1008000, 16, 16, .ro, 0⟩
def Fld.lgtCtlBudgetEn : Fld := ⟨0x1100000, 0, 1, .rw, 0⟩
def Fld.lgtCtlDeepOff : Fld := ⟨0x1100000, 1, 1, .wo, 0⟩
def Fld.lgtStatusBrake : Fld := ⟨0x1100004, 0, 1, .ro, 0⟩
def Fld.lgtStatusBrakeSeen : Fld := ⟨0x1100004, 1, 1, .w1c, 0⟩
def Fld.lgtStatusAlert : Fld := ⟨0x1100004, 2, 1, .ro, 0⟩
def Fld.lgtStatusTrip : Fld := ⟨0x1100004, 3, 1, .ro, 0⟩
def Fld.lgtStatusDuty : Fld := ⟨0x1100004, 4, 4, .ro, 0xF⟩
def Fld.lgtCapCapMw : Fld := ⟨0x1100010, 0, 20, .rws, 0xDBBA0⟩
def Fld.lgtReserveV : Fld := ⟨0x1100014, 0, 32, .rws, 0⟩
def Fld.lgtThermSoft : Fld := ⟨0x1100018, 0, 10, .rws, 0x2A8⟩
def Fld.lgtThermHard : Fld := ⟨0x1100018, 10, 10, .rws, 0x320⟩
def Fld.lgtThermAlert : Fld := ⟨0x1100018, 20, 10, .rws, 0x2F8⟩
def Fld.lgtBrakeDuty : Fld := ⟨0x110001C, 0, 4, .rws, 7⟩
def Fld.lgtBrakeCount : Fld := ⟨0x110001C, 16, 16, .ctrBit16, 0⟩
def Fld.lgtTempT : Fld := ⟨0x1100020, 0, 10, .ro, 0⟩
def Fld.lgtBudgetV : Fld := ⟨0x1100024, 0, 32, .ro, 0⟩
def Fld.lgtEnergyV : Fld := ⟨0x1100028, 0, 32, .ro, 0⟩
def Fld.lgtDebtV : Fld := ⟨0x110002C, 0, 32, .ro, 0⟩
def Fld.lgtPowerV : Fld := ⟨0x1100030, 0, 20, .ro, 0⟩
def Fld.lgtDomCtlTarget (i : Nat) : Fld := ⟨0x1100100 + 0x8 * i, 0, 3, .rw, 0⟩
def Fld.lgtDomCtlIdleUs (i : Nat) : Fld := ⟨0x1100100 + 0x8 * i, 16, 16, .rw, 0x64⟩
def Fld.lgtDomStatusState (i : Nat) : Fld := ⟨0x1100104 + 0x8 * i, 0, 3, .ro, 0⟩
def Fld.lgtDomStatusPhase (i : Nat) : Fld := ⟨0x1100104 + 0x8 * i, 3, 2, .ro, 0⟩
def Fld.lgtDomStatusPendingOn (i : Nat) : Fld := ⟨0x1100104 + 0x8 * i, 5, 1, .ro, 0⟩
def Fld.lgtDomStatusPendingOff (i : Nat) : Fld := ⟨0x1100104 + 0x8 * i, 6, 1, .ro, 0⟩
def Fld.lgtDomStatusBlocked (i : Nat) : Fld := ⟨0x1100104 + 0x8 * i, 7, 1, .ro, 0⟩
def Fld.lgtDomStatusPgFail (i : Nat) : Fld := ⟨0x1100104 + 0x8 * i, 8, 1, .w1c, 0⟩
def Fld.splLoadAddrLoV : Fld := ⟨0x1200000, 0, 32, .rw, 0⟩
def Fld.splLoadAddrHiV : Fld := ⟨0x1200004, 0, 32, .rw, 0⟩
def Fld.splLoadCtlLoad : Fld := ⟨0x1200008, 0, 1, .wo, 0⟩
def Fld.splLoadStatusResult : Fld := ⟨0x120000C, 0, 4, .ro, 0⟩
def Fld.splLoadStatusFirstBad : Fld := ⟨0x120000C, 8, 8, .ro, 0⟩
def Fld.splSwapCtlReq : Fld := ⟨0x1200010, 0, 1, .wo, 0⟩
def Fld.splSwapCtlCancel : Fld := ⟨0x1200010, 1, 1, .wo, 0⟩
def Fld.splSwapAtLoV : Fld := ⟨0x1200014, 0, 32, .rw, 0⟩
def Fld.splSwapAtHiV : Fld := ⟨0x1200018, 0, 16, .rw, 0⟩
def Fld.splSwapStatusState : Fld := ⟨0x120001C, 0, 3, .ro, 0⟩
def Fld.splSwapStatusDirty : Fld := ⟨0x120001C, 3, 1, .ro, 0⟩
def Fld.splSwapStatusRbRange : Fld := ⟨0x120001C, 4, 1, .w1c, 0⟩
def Fld.splSwapStatusReason : Fld := ⟨0x120001C, 8, 4, .ro, 0⟩
def Fld.splRefuseMapV : Fld := ⟨0x1200020, 0, 32, .ro, 0⟩
def Fld.splActiveIdV : Fld := ⟨0x1200024, 0, 32, .ro, 0⟩
def Fld.splActiveSeqV : Fld := ⟨0x1200028, 0, 32, .ro, 0⟩
def Fld.splShadowIdV : Fld := ⟨0x120002C, 0, 32, .ro, 0⟩
def Fld.splShadowSeqV : Fld := ⟨0x1200030, 0, 32, .ro, 0⟩
def Fld.splDiffMapV : Fld := ⟨0x1200034, 0, 32, .ro, 0⟩
def Fld.splActiveRegAddrV : Fld := ⟨0x1200040, 0, 25, .rw, 0⟩
def Fld.splActiveRegDataV : Fld := ⟨0x1200044, 0, 32, .ro, 0⟩
def Fld.splRbSectSect : Fld := ⟨0x1200050, 0, 8, .rw, 0⟩
def Fld.splRbSectShadow : Fld := ⟨0x1200050, 8, 1, .rw, 0⟩
def Fld.splRbOffV : Fld := ⟨0x1200054, 0, 26, .rw, 0⟩
def Fld.splRbDataV : Fld := ⟨0x1200058, 0, 32, .ro, 0⟩
def Fld.splSceneCtlStart : Fld := ⟨0x1200080, 0, 1, .wo, 0⟩
def Fld.splSceneAtLoV : Fld := ⟨0x1200084, 0, 32, .rw, 0⟩
def Fld.splSceneAtHiV : Fld := ⟨0x1200088, 0, 16, .rw, 0⟩
def Fld.splSceneStatusState : Fld := ⟨0x120008C, 0, 3, .ro, 0⟩
def Fld.splSceneStatusResult : Fld := ⟨0x120008C, 8, 4, .ro, 0⟩
def Fld.splSceneStatusApplied : Fld := ⟨0x120008C, 16, 8, .ro, 0⟩
def Fld.splSceneTimeoutMs : Fld := ⟨0x1200090, 0, 20, .rw, 0xEA60⟩
def Fld.undCtlEn : Fld := ⟨0x1300000, 0, 1, .rw, 0⟩
def Fld.undCtlEwEn : Fld := ⟨0x1300000, 1, 1, .rw, 0⟩
def Fld.undCtlForce : Fld := ⟨0x1300000, 2, 1, .wo, 0⟩
def Fld.undTrigTimerCues : Fld := ⟨0x1300004, 0, 16, .rw, 0x200⟩
def Fld.undTrigMinGap : Fld := ⟨0x1300004, 16, 16, .rw, 0x10⟩
def Fld.undStepV : Fld := ⟨0x1300008, 0, 32, .rw, 0⟩
def Fld.undTimeoutCues : Fld := ⟨0x130000C, 0, 16, .rw, 0x100⟩
def Fld.undStatusState : Fld := ⟨0x1300010, 0, 2, .ro, 0⟩
def Fld.undStatusLastResult : Fld := ⟨0x1300010, 4, 2, .ro, 0⟩
def Fld.undStatusDrainFull : Fld := ⟨0x1300010, 7, 1, .w1c, 0⟩
def Fld.undStatusDraining : Fld := ⟨0x1300010, 8, 1, .ro, 0⟩
def Fld.undStatusAbandoned : Fld := ⟨0x1300010, 16, 16, .ctrBit16, 0⟩
def Fld.undLastCueLoV : Fld := ⟨0x1300014, 0, 32, .ro, 0⟩
def Fld.undLastCueHiV : Fld := ⟨0x1300018, 0, 16, .ro, 0⟩
def Fld.undLastSeqV : Fld := ⟨0x130001C, 0, 32, .ro, 0⟩
def Fld.undStallCountV : Fld := ⟨0x1300020, 0, 32, .ctrAny, 0⟩
def Fld.undStallMaxV : Fld := ⟨0x1300024, 0, 16, .ctrAny, 0⟩
def Fld.undBuddyBuddy : Fld := ⟨0x1300028, 0, 10, .ro, 0⟩
def Fld.undBuddyWcopyValid : Fld := ⟨0x1300028, 16, 1, .ro, 0⟩
def Fld.undDrainBaseLoV : Fld := ⟨0x1300030, 0, 32, .rwl, 0⟩
def Fld.undDrainBaseHiV : Fld := ⟨0x1300034, 0, 32, .rwl, 0⟩
def Fld.undDrainSizeV : Fld := ⟨0x1300038, 0, 32, .rwl, 0⟩
def Fld.undDrainCtlEvery : Fld := ⟨0x130003C, 0, 8, .rw, 0⟩
def Fld.undRestoreRestored : Fld := ⟨0x1300040, 0, 16, .ctrAny, 0⟩
def Fld.undRestoreLost : Fld := ⟨0x1300040, 16, 16, .ctrAny, 0⟩
def Fld.undWithdrawnWithdrawn : Fld := ⟨0x1300044, 0, 16, .ctrAny, 0⟩
def Fld.undHostAddrLoV : Fld := ⟨0x1300050, 0, 32, .rw, 0⟩
def Fld.undHostAddrHiV : Fld := ⟨0x1300054, 0, 32, .rw, 0⟩
def Fld.undHostCtlGo : Fld := ⟨0x1300058, 0, 1, .wo, 0⟩
def Fld.undHostResultResult : Fld := ⟨0x130005C, 0, 4, .ro, 0⟩
def Fld.pbkCtlEn : Fld := ⟨0x1400000, 0, 1, .rwl, 0⟩
def Fld.pbkCtlDigest : Fld := ⟨0x1400000, 1, 1, .rwl, 0⟩
def Fld.pbkAreaBaseLoV : Fld := ⟨0x1400004, 0, 32, .rwl, 0⟩
def Fld.pbkAreaBaseHiV : Fld := ⟨0x1400008, 0, 32, .rwl, 0⟩
def Fld.pbkAreaSizeV : Fld := ⟨0x140000C, 0, 32, .rwl, 0⟩
def Fld.pbkAreaHeadV : Fld := ⟨0x1400010, 0, 32, .rw, 0⟩
def Fld.pbkAreaTailV : Fld := ⟨0x1400014, 0, 32, .ro, 0⟩
def Fld.pbkStatusReplayable : Fld := ⟨0x1400018, 0, 1, .ro, 1⟩
def Fld.pbkStatusStalled : Fld := ⟨0x1400018, 1, 1, .ro, 0⟩
def Fld.pbkStatusCapsules : Fld := ⟨0x1400018, 16, 16, .ctrAny, 0⟩
def Fld.pbkSeqV : Fld := ⟨0x140001C, 0, 32, .ro, 0⟩
def Fld.pbkMnftLoV : Fld := ⟨0x1400040, 0, 32, .rw, 0⟩
def Fld.pbkMnftHiV : Fld := ⟨0x1400044, 0, 32, .rw, 0⟩
def Fld.pbkCapsLoV : Fld := ⟨0x1400048, 0, 32, .rw, 0⟩
def Fld.pbkCapsHiV : Fld := ⟨0x140004C, 0, 32, .rw, 0⟩
def Fld.pbkNcapsN : Fld := ⟨0x1400050, 0, 4, .rw, 0⟩
def Fld.pbkPromptsV : Fld := ⟨0x1400054, 0, 32, .rw, 0⟩
def Fld.pbkReplayCtlGo : Fld := ⟨0x1400058, 0, 1, .wo, 0⟩
def Fld.pbkReplayCtlAbort : Fld := ⟨0x1400058, 1, 1, .wo, 0⟩
def Fld.pbkReplayCtlEmit : Fld := ⟨0x1400058, 2, 1, .rw, 0⟩
def Fld.pbkReplayStatusState : Fld := ⟨0x140005C, 0, 3, .ro, 0⟩
def Fld.pbkReplayStatusResult : Fld := ⟨0x140005C, 4, 4, .ro, 0⟩
def Fld.pbkReplayStatusListDiff : Fld := ⟨0x140005C, 8, 1, .ro, 0⟩
def Fld.pbkReplayStatusLineDiff : Fld := ⟨0x140005C, 9, 1, .ro, 0⟩
def Fld.pbkReplayCueLoV : Fld := ⟨0x1400060, 0, 32, .ro, 0⟩
def Fld.pbkReplayCueHiV : Fld := ⟨0x1400064, 0, 16, .ro, 0⟩
def Fld.sdrStatusSealed : Fld := ⟨0x1500000, 0, 1, .ro, 0⟩
def Fld.sdrStatusCertified : Fld := ⟨0x1500000, 1, 1, .ro, 0⟩
def Fld.sdrStatusState : Fld := ⟨0x1500000, 2, 2, .ro, 0⟩
def Fld.sdrStatusHouseKey : Fld := ⟨0x1500000, 4, 1, .ro, 0⟩
def Fld.sdrStatusNeedSeed : Fld := ⟨0x1500000, 5, 1, .ro, 0⟩
def Fld.sdrStatusLastSealed : Fld := ⟨0x1500000, 6, 1, .ro, 0⟩
def Fld.sdrStatusSelftest : Fld := ⟨0x1500000, 8, 8, .ro, 0⟩
def Fld.sdrZeroCtlZeroise : Fld := ⟨0x1500004, 0, 1, .wo, 0⟩
def Fld.sdrZeroCtlTenantZero : Fld := ⟨0x1500004, 1, 1, .wo, 0⟩
def Fld.sdrZeroCtlTenant : Fld := ⟨0x1500004, 16, 12, .rw, 0⟩
def Fld.sdrTkeyTenantTenant : Fld := ⟨0x1500010, 0, 12, .rw, 0⟩
def Fld.sdrTkeyWrapV (i : Nat) : Fld := ⟨0x1500014 + 0x4 * i, 0, 32, .wo, 0⟩
def Fld.sdrTkeyAtLoV : Fld := ⟨0x150003C, 0, 32, .rw, 0⟩
def Fld.sdrTkeyAtHiV : Fld := ⟨0x1500040, 0, 16, .rw, 0⟩
def Fld.sdrTkeyImportImport : Fld := ⟨0x1500044, 0, 1, .wo, 0⟩
def Fld.sdrTkeyResultResult : Fld := ⟨0x1500048, 0, 3, .ro, 0⟩
def Fld.sdrTkeyResultValid : Fld := ⟨0x1500048, 3, 1, .ro, 0⟩
def Fld.sdrTkeyResultKcv : Fld := ⟨0x1500048, 8, 24, .ro, 0⟩
def Fld.sdrFloorSeq : Fld := ⟨0x1500050, 0, 32, .rwl, 0⟩
def Fld.sdrAuditIndexIndex : Fld := ⟨0x1500060, 0, 10, .rw, 0⟩
def Fld.sdrAuditNextV : Fld := ⟨0x1500064, 0, 32, .ro, 0⟩
def Fld.sdrAuditLostV : Fld := ⟨0x1500068, 0, 32, .ctrAny, 0⟩
def Fld.sdrSessionsV : Fld := ⟨0x1500070, 0, 3, .ro, 0⟩
def Fld.sdrAuditDataV (i : Nat) : Fld := ⟨0x1500080 + 0x4 * i, 0, 32, .ro, 0⟩
def Fld.ldgStatusState : Fld := ⟨0x1600000, 0, 2, .ro, 0⟩
def Fld.ldgStatusNoImage : Fld := ⟨0x1600000, 2, 1, .ro, 0⟩
def Fld.ldgStatusBooted : Fld := ⟨0x1600000, 3, 1, .ro, 0⟩
def Fld.ldgStatusPrefer : Fld := ⟨0x1600000, 4, 1, .ro, 0⟩
def Fld.ldgStatusFree : Fld := ⟨0x1600000, 16, 16, .ro, 0⟩
def Fld.ldgStoreCtlStore : Fld := ⟨0x1600010, 0, 1, .wo, 0⟩
def Fld.ldgStoreCtlSlot : Fld := ⟨0x1600010, 1, 1, .rw, 0⟩
def Fld.ldgStoreCtlPrefer : Fld := ⟨0x1600010, 2, 1, .rw, 0⟩
def Fld.ldgStoreStatusResult : Fld := ⟨0x1600014, 0, 4, .ro, 0⟩
def Fld.ldgRecoveryDup : Fld := ⟨0x1600020, 0, 8, .ctrAny, 0⟩
def Fld.ldgRecoveryTorn : Fld := ⟨0x1600020, 8, 8, .ctrAny, 0⟩
def Fld.ldgRecoveryRepoint : Fld := ⟨0x1600020, 16, 8, .ctrAny, 0⟩
def Fld.ldgRecoveryRetired : Fld := ⟨0x1600020, 24, 8, .ctrAny, 0⟩
def Fld.ldgWearLow : Fld := ⟨0x1600024, 0, 16, .ro, 0⟩
def Fld.ldgWearHigh : Fld := ⟨0x1600024, 16, 16, .ro, 0⟩
def Fld.fltStatusFatal : Fld := ⟨0x1700000, 0, 1, .ro, 0⟩
def Fld.fltStatusDegraded : Fld := ⟨0x1700000, 1, 1, .w1c, 0⟩
def Fld.fltStatusEw : Fld := ⟨0x1700000, 2, 1, .w1c, 0⟩
def Fld.fltStatusPin : Fld := ⟨0x1700000, 3, 1, .ro, 0⟩
def Fld.fltStatusNoticeDrop : Fld := ⟨0x1700000, 16, 16, .ctrBit16, 0⟩
def Fld.fltCtlPinDegraded : Fld := ⟨0x1700004, 0, 1, .rw, 0⟩
def Fld.fltCtlNoticeEn : Fld := ⟨0x1700004, 1, 1, .rw, 1⟩
def Fld.fltEwWindowCues : Fld := ⟨0x1700010, 0, 16, .rw, 0x40⟩
def Fld.fltEwLimitCorr : Fld := ⟨0x1700014, 0, 16, .rw, 0x100⟩
def Fld.fltEwLimitCont : Fld := ⟨0x1700014, 16, 16, .rw, 4⟩
def Fld.fltCountCorrV : Fld := ⟨0x1700020, 0, 32, .ctrAny, 0⟩
def Fld.fltCountContV : Fld := ⟨0x1700024, 0, 32, .ctrAny, 0⟩
def Fld.fltCountDegFatDegraded : Fld := ⟨0x1700028, 0, 16, .ctrAny, 0⟩
def Fld.fltCountDegFatFatal : Fld := ⟨0x1700028, 16, 16, .ctrAny, 0⟩
def Fld.fltWindowCorr : Fld := ⟨0x170002C, 0, 16, .ro, 0⟩
def Fld.fltWindowCont : Fld := ⟨0x170002C, 16, 16, .ro, 0⟩
def Fld.fltLoftEccCorr : Fld := ⟨0x1700030, 0, 16, .ctrAny, 0⟩
def Fld.fltLoftEccUncorr : Fld := ⟨0x1700030, 16, 16, .ctrAny, 0⟩
def Fld.fltCountNoteV : Fld := ⟨0x1700034, 0, 32, .ctrAny, 0⟩
def Fld.fltLogIndexIndex : Fld := ⟨0x1700040, 0, 8, .rw, 0⟩
def Fld.fltLogNextV : Fld := ⟨0x1700044, 0, 32, .ro, 0⟩
def Fld.fltPrstPrm : Fld := ⟨0x1700050, 0, 1, .wo, 0⟩
def Fld.fltPrstWdr : Fld := ⟨0x1700050, 1, 1, .wo, 0⟩
def Fld.fltPrstUnd : Fld := ⟨0x1700050, 2, 1, .wo, 0⟩
def Fld.fltPrstPbk : Fld := ⟨0x1700050, 3, 1, .wo, 0⟩
def Fld.fltPrstBusyPrm : Fld := ⟨0x1700050, 8, 1, .ro, 0⟩
def Fld.fltPrstBusyWdr : Fld := ⟨0x1700050, 9, 1, .ro, 0⟩
def Fld.fltPrstBusyUnd : Fld := ⟨0x1700050, 10, 1, .ro, 0⟩
def Fld.fltPrstBusyPbk : Fld := ⟨0x1700050, 11, 1, .ro, 0⟩
def Fld.fltInjectCode : Fld := ⟨0x1700058, 0, 16, .rwl, 0⟩
def Fld.fltCrashV : Fld := ⟨0x170005C, 0, 16, .ctrAny, 0⟩
def Fld.fltLogDataV (i : Nat) : Fld := ⟨0x1700060 + 0x4 * i, 0, 32, .ro, 0⟩

/-- One register, or a strided family of them: its first offset, stride, count and fields by index. -/
structure RegRow where
  off : Nat
  stride : Nat
  count : Nat
  deriving DecidableEq, Repr

/-- The fields of the register at offset `o` of function `f`'s window (Table HIU-2); none where unassigned (R853). -/
def winFields (f o : Nat) : List Fld :=
  if 0x0 ≤ o ∧ o < 0x20 ∧ (o - 0x0) % 0x8 = 0 then let i := (o - 0x0) / 0x8; [Fld.sqTailIdx f i] else
  if 0x20 ≤ o ∧ o < 0x40 ∧ (o - 0x20) % 0x8 = 0 then let i := (o - 0x20) / 0x8; [Fld.lqHeadIdx f i] else
  if o = 0x40 then [Fld.nqHeadIdx f] else
  if 0x1000 ≤ o ∧ o < 0x1080 ∧ (o - 0x1000) % 0x20 = 0 then let i := (o - 0x1000) / 0x20; [Fld.sqBaseLoV f i] else
  if 0x1004 ≤ o ∧ o < 0x1084 ∧ (o - 0x1004) % 0x20 = 0 then let i := (o - 0x1004) / 0x20; [Fld.sqBaseHiV f i] else
  if 0x1008 ≤ o ∧ o < 0x1088 ∧ (o - 0x1008) % 0x20 = 0 then let i := (o - 0x1008) / 0x20; [Fld.sqCtlEn f i, Fld.sqCtlLog2size f i] else
  if 0x100C ≤ o ∧ o < 0x108C ∧ (o - 0x100C) % 0x20 = 0 then let i := (o - 0x100C) / 0x20; [Fld.sqHeadIdx f i] else
  if 0x1080 ≤ o ∧ o < 0x1100 ∧ (o - 0x1080) % 0x20 = 0 then let i := (o - 0x1080) / 0x20; [Fld.lqBaseLoV f i] else
  if 0x1084 ≤ o ∧ o < 0x1104 ∧ (o - 0x1084) % 0x20 = 0 then let i := (o - 0x1084) / 0x20; [Fld.lqBaseHiV f i] else
  if 0x1088 ≤ o ∧ o < 0x1108 ∧ (o - 0x1088) % 0x20 = 0 then let i := (o - 0x1088) / 0x20; [Fld.lqCtlEn f i, Fld.lqCtlLog2size f i, Fld.lqCtlVec f i, Fld.lqCtlIthr f i] else
  if 0x108C ≤ o ∧ o < 0x110C ∧ (o - 0x108C) % 0x20 = 0 then let i := (o - 0x108C) / 0x20; [Fld.lqTailIdx f i] else
  if o = 0x1100 then [Fld.nqBaseLoV f] else
  if o = 0x1104 then [Fld.nqBaseHiV f] else
  if o = 0x1108 then [Fld.nqCtlEn f, Fld.nqCtlLog2size f, Fld.nqCtlVec f, Fld.nqCtlIthr f] else
  if o = 0x110C then [Fld.nqTailIdx f] else
  if o = 0x2000 then [Fld.fnStatusDbErr f, Fld.fnStatusCfgErr f, Fld.fnStatusWriteErr f, Fld.fnStatusError f, Fld.fnStatusGrace f, Fld.fnStatusDropped f] else
  if o = 0x2004 then [Fld.fnCtlReclaim f] else
  if o = 0x2008 then [Fld.fnLiveLive f] else
  []

/-- The registers of the HIU range (Table MAP-2). -/
def regsHIU (o : Nat) : List Fld :=
  if o = 0x100 then [Fld.hiuGraceGraceMs] else
  if o = 0x104 then [Fld.hiuLinkStatusRate, Fld.hiuLinkStatusWidth, Fld.hiuLinkStatusFlit, Fld.hiuLinkStatusHostAbsent] else
  if o = 0x108 then [Fld.hiuCallmapUsed] else
  if o = 0x110 then [Fld.hiuBootPhase, Fld.hiuBootFail, Fld.hiuBootWarm, Fld.hiuBootDeep, Fld.hiuBootBootMs] else
  []

/-- The registers of the BOX range (Table MAP-2). -/
def regsBOX (o : Nat) : List Fld :=
  if o = 0x100010 then [Fld.boxAdmitCtlAdmitEn, Fld.boxAdmitCtlHold, Fld.boxAdmitCtlCutoffUs, Fld.boxAdmitCtlThrottleCues] else
  if o = 0x100020 then [Fld.boxModelPrefillRate, Fld.boxModelDecodeSlots] else
  if o = 0x100024 then [Fld.boxBacklogV] else
  if o = 0x100040 then [Fld.boxIngressWmHigh, Fld.boxIngressWmLow] else
  if o = 0x100100 then [Fld.boxTenIndexTenant] else
  if o = 0x100104 then [Fld.boxTenRateV] else
  if o = 0x100108 then [Fld.boxTenBurstV] else
  if o = 0x10010C then [Fld.boxTenCapsLiveCap, Fld.boxTenCapsBlockCap] else
  if o = 0x100110 then [Fld.boxTenLevelV] else
  if o = 0x100114 then [Fld.boxTenLiveLive, Fld.boxTenLiveBlocks] else
  if o = 0x100118 then [Fld.boxTenHeldHeld] else
  if 0x100400 ≤ o ∧ o < 0x1005FD ∧ (o - 0x100400) % 0x4 = 0 then let i := (o - 0x100400) / 0x4; [Fld.boxFnTenantTenant i, Fld.boxFnTenantValid i] else
  if 0x100600 ≤ o ∧ o < 0x100645 ∧ (o - 0x100600) % 0x4 = 0 ∧ refuseCode ((o - 0x100600) / 4) = true then let i := (o - 0x100600) / 0x4; [Fld.boxRefuseCountV i] else
  []

/-- The registers of the STM range (Table MAP-2). -/
def regsSTM (o : Nat) : List Fld :=
  if o = 0x200000 then [Fld.stmCtlEn, Fld.stmCtlLead, Fld.stmCtlHold] else
  if o = 0x200010 then [Fld.stmComposeDecGroup, Fld.stmComposePushMaxChunks, Fld.stmComposeCutMarginUs] else
  if o = 0x200020 then [Fld.stmCastReadMin, Fld.stmCastReadMax, Fld.stmCastHyst, Fld.stmCastMaxStep] else
  if o = 0x200024 then [Fld.stmCastRatePfPair, Fld.stmCastRateDecPair] else
  if o = 0x200028 then [Fld.stmCastStatusReading, Fld.stmCastStatusLitPairs, Fld.stmCastStatusLastCast] else
  if o = 0x200040 then [Fld.stmCostIndexStage] else
  if o = 0x200044 then [Fld.stmCostFixV] else
  if o = 0x200048 then [Fld.stmCostDecV] else
  if o = 0x20004C then [Fld.stmCostPfV] else
  if o = 0x200050 then [Fld.stmBudgetV] else
  if o = 0x200060 then [Fld.stmReadyWmHigh, Fld.stmReadyWmLow] else
  if o = 0x200064 then [Fld.stmReadyCountV] else
  if o = 0x200080 then [Fld.stmCensusLostCalls, Fld.stmCensusAbandoned] else
  if o = 0x200084 then [Fld.stmRetiredRetired] else
  if o = 0x200088 then [Fld.stmDropTokenDrop, Fld.stmDropClErr] else
  if o = 0x200090 then [Fld.stmStats0NDec, Fld.stmStats0NPf] else
  if o = 0x200094 then [Fld.stmStats1NPfTokens] else
  if o = 0x200098 then [Fld.stmStats2Parked, Fld.stmStats2Held] else
  if o = 0x20009C then [Fld.stmStats3Trailing, Fld.stmStats3Skipped] else
  []

/-- The registers of the CUE range (Table MAP-2). -/
def regsCUE (o : Nat) : List Fld :=
  if o = 0x300000 then [Fld.cueCtlMonEn] else
  if o = 0x300004 then [Fld.cueStatusState, Fld.cueStatusPeriodErr, Fld.cueStatusPpsLost, Fld.cueStatusTodFar, Fld.cueStatusParent] else
  if o = 0x300008 then [Fld.cueNowLoV] else
  if o = 0x30000C then [Fld.cueNowHiV] else
  if o = 0x300010 then [Fld.cueNumberLoV] else
  if o = 0x300014 then [Fld.cueNumberHiV] else
  if o = 0x300018 then [Fld.cueOffsetV] else
  if o = 0x300020 then [Fld.cuePeriodNsV] else
  if o = 0x300024 then [Fld.cuePeriodNextV] else
  if o = 0x300028 then [Fld.cuePeriodAtLoV] else
  if o = 0x30002C then [Fld.cuePeriodAtHiV] else
  if o = 0x300030 then [Fld.cueTodLoV] else
  if o = 0x300034 then [Fld.cueTodHiV] else
  if o = 0x300040 then [Fld.cueLockLockPs, Fld.cueLockLossNs, Fld.cueLockHoldoverMs] else
  if 0x300080 ≤ o ∧ o < 0x3000AD ∧ (o - 0x300080) % 0x4 = 0 then let i := (o - 0x300080) / 0x4; [Fld.cueAsymV i] else
  if o = 0x3000C0 then [Fld.cueFrameCtlMissLimit] else
  if o = 0x3000C4 then [Fld.cueFrameMissedV] else
  []

/-- The registers of the PLY range (Table MAP-2). -/
def regsPLY (o : Nat) : List Fld :=
  if 0x400000 ≤ o ∧ o < 0x9F0001 ∧ (o - 0x400000) % 0x10000 = 0 then let i := (o - 0x400000) / 0x10000; [Fld.plySeqCtlHaltReq i, Fld.plySeqCtlRefetch i] else
  if 0x400004 ≤ o ∧ o < 0x9F0005 ∧ (o - 0x400004) % 0x10000 = 0 then let i := (o - 0x400004) / 0x10000; [Fld.plySeqStatusState i, Fld.plySeqStatusPc i] else
  if 0x400008 ≤ o ∧ o < 0x9F0009 ∧ (o - 0x400008) % 0x10000 = 0 then let i := (o - 0x400008) / 0x10000; [Fld.plyBeatBeat i, Fld.plyBeatCue i] else
  if 0x40000C ≤ o ∧ o < 0x9F000D ∧ (o - 0x40000C) % 0x10000 = 0 then let i := (o - 0x40000C) / 0x10000; [Fld.plyRoleRole i, Fld.plyRoleTroupe i, Fld.plyRoleInTroupe i, Fld.plyRolePair i] else
  if 0x400010 ≤ o ∧ o < 0x9F0011 ∧ (o - 0x400010) % 0x10000 = 0 then let i := (o - 0x400010) / 0x10000; [Fld.plyFaultWprot i, Fld.plyFaultBadop i, Fld.plyFaultIpar i, Fld.plyFaultPoisonIn i] else
  if 0x400014 ≤ o ∧ o < 0x9F0015 ∧ (o - 0x400014) % 0x10000 = 0 then let i := (o - 0x400014) / 0x10000; [Fld.plyFlagsNv i, Fld.plyFlagsDz i, Fld.plyFlagsOf i, Fld.plyFlagsUf i, Fld.plyFlagsIx i, Fld.plyFlagsSat i] else
  if 0x400020 ≤ o ∧ o < 0x9F0021 ∧ (o - 0x400020) % 0x10000 = 0 then let i := (o - 0x400020) / 0x10000; [Fld.plyIaddrWord i] else
  if 0x400024 ≤ o ∧ o < 0x9F0025 ∧ (o - 0x400024) % 0x10000 = 0 then let i := (o - 0x400024) / 0x10000; [Fld.plyIdataLoV i] else
  if 0x400028 ≤ o ∧ o < 0x9F0029 ∧ (o - 0x400028) % 0x10000 = 0 then let i := (o - 0x400028) / 0x10000; [Fld.plyIdataHiV i] else
  if o = 0x408000 then [Fld.plyLoftPartW, Fld.plyLoftPartC, Fld.plyLoftPartA] else
  if o = 0x408004 then [Fld.plyModeExact] else
  if o = 0x408010 then [Fld.plyWloadCtlBegin, Fld.plyWloadCtlDone] else
  if o = 0x408014 then [Fld.plyWloadStatusState, Fld.plyWloadStatusRefused] else
  if 0x408020 ≤ o ∧ o < 0x40804D ∧ (o - 0x408020) % 0x4 = 0 then let i := (o - 0x408020) / 0x4; [Fld.plyWdigestV i] else
  []

/-- The registers of the PRM range (Table MAP-2). -/
def regsPRM (o : Nat) : List Fld :=
  if o = 0xA00000 then [Fld.prmCtlEn, Fld.prmCtlDiagEn] else
  if o = 0xA00004 then [Fld.prmShardBaseV] else
  if o = 0xA00008 then [Fld.prmShardGeomWidth, Fld.prmShardGeomRank, Fld.prmShardGeomRanks, Fld.prmShardGeomLast] else
  if o = 0xA0000C then [Fld.prmVocabV] else
  if o = 0xA00010 then [Fld.prmFlagsNv, Fld.prmFlagsDz, Fld.prmFlagsOf, Fld.prmFlagsUf, Fld.prmFlagsIx, Fld.prmFlagsSat] else
  if o = 0xA00020 then [Fld.prmMergedV] else
  if o = 0xA00024 then [Fld.prmPicksGreedy, Fld.prmPicksInfPick] else
  if o = 0xA00028 then [Fld.prmEndsDeadEnd, Fld.prmEndsPoison, Fld.prmEndsListDrop] else
  if o = 0xA00040 then [Fld.prmDiagSlotSlot] else
  if o = 0xA00044 then [Fld.prmDiagUV] else
  if o = 0xA00048 then [Fld.prmDiagSLoV] else
  if o = 0xA0004C then [Fld.prmDiagSHiV] else
  if o = 0xA00050 then [Fld.prmDiagSelCands, Fld.prmDiagSelKept] else
  if o = 0xA00054 then [Fld.prmDiagTokenV] else
  if o = 0xA00058 then [Fld.prmDiagPosV] else
  if o = 0xA0005C then [Fld.prmDiagCueV] else
  if o = 0xA00080 then [Fld.prmLoadAddrLoV] else
  if o = 0xA00084 then [Fld.prmLoadAddrHiV] else
  if o = 0xA00088 then [Fld.prmLoadCtlLoad, Fld.prmLoadCtlWithdraw, Fld.prmLoadCtlKind, Fld.prmLoadCtlId] else
  if o = 0xA0008C then [Fld.prmLoadStatusResult] else
  if o = 0xA00090 then [Fld.prmScriptUseScripts, Fld.prmScriptUseStopSets] else
  if o = 0xA000A0 then [Fld.prmSpecHeads, Fld.prmSpecDepthMax] else
  if o = 0xA000A4 then [Fld.prmSpecDraftedV] else
  if o = 0xA000A8 then [Fld.prmSpecAcceptedV] else
  []

/-- The registers of the GRS range (Table MAP-2). -/
def regsGRS (o : Nat) : List Fld :=
  if o = 0xB00000 then [Fld.grsWindCtlRetest] else
  if o = 0xB00004 then [Fld.grsWindStatusState, Fld.grsWindStatusRctFail, Fld.grsWindStatusAptFail, Fld.grsWindStatusConsec] else
  if o = 0xB00008 then [Fld.grsWindCountV] else
  if o = 0xB00010 then [Fld.grsDomainLoV] else
  if o = 0xB00014 then [Fld.grsDomainHiV] else
  if o = 0xB00020 then [Fld.grsSeedStatusStale, Fld.grsSeedStatusSinceRekey] else
  if 0xB00040 ≤ o ∧ o < 0xB0004D ∧ (o - 0xB00040) % 0x4 = 0 then let i := (o - 0xB00040) / 0x4; [Fld.grsTestKeyV i] else
  if 0xB00050 ≤ o ∧ o < 0xB0005D ∧ (o - 0xB00050) % 0x4 = 0 then let i := (o - 0xB00050) / 0x4; [Fld.grsTestCtrV i] else
  if o = 0xB00060 then [Fld.grsTestGoGo, Fld.grsTestGoDone] else
  if 0xB00070 ≤ o ∧ o < 0xB0007D ∧ (o - 0xB00070) % 0x4 = 0 then let i := (o - 0xB00070) / 0x4; [Fld.grsTestOutV i] else
  []

/-- The registers of the WDR range (Table MAP-2). -/
def regsWDR (o : Nat) : List Fld :=
  if o = 0xC00000 then [Fld.wdrLoadAddrLoV] else
  if o = 0xC00004 then [Fld.wdrLoadAddrHiV] else
  if o = 0xC00008 then [Fld.wdrLoadCtlLoad, Fld.wdrLoadCtlRevoke, Fld.wdrLoadCtlRevokeAll, Fld.wdrLoadCtlTenant, Fld.wdrLoadCtlId] else
  if o = 0xC0000C then [Fld.wdrLoadStatusResult, Fld.wdrLoadStatusVersion] else
  if o = 0xC00010 then [Fld.wdrUse0Index, Fld.wdrUse0Resident] else
  if o = 0xC00014 then [Fld.wdrUse1Pages, Fld.wdrUse1Waiting] else
  if o = 0xC00020 then [Fld.wdrQueryId] else
  if o = 0xC00024 then [Fld.wdrQueryDataVersion, Fld.wdrQueryDataTenant, Fld.wdrQueryDataRefs] else
  []

/-- The registers of the MDW range (Table MAP-2). -/
def regsMDW (o : Nat) : List Fld :=
  if o = 0xD00000 then [Fld.mdwLayoutPoolBlocks] else
  if o = 0xD00004 then [Fld.mdwBlockBytesV] else
  if o = 0xD00008 then [Fld.mdwPoolBaseLoV] else
  if o = 0xD0000C then [Fld.mdwPoolBaseHiV] else
  if o = 0xD00010 then [Fld.mdwFreeV] else
  if o = 0xD00014 then [Fld.mdwReservedV] else
  if o = 0xD00018 then [Fld.mdwCachedV] else
  if o = 0xD0001C then [Fld.mdwHandleV] else
  if o = 0xD00020 then [Fld.mdwHitsV] else
  if o = 0xD00024 then [Fld.mdwMissHandleMiss, Fld.mdwMissConflict] else
  if o = 0xD00028 then [Fld.mdwEvictedV] else
  if o = 0xD00040 then [Fld.mdwHeathBaseLoV] else
  if o = 0xD00044 then [Fld.mdwHeathBaseHiV] else
  if o = 0xD00048 then [Fld.mdwHeathSizeV] else
  if o = 0xD0004C then [Fld.mdwHeathCtlEn] else
  if o = 0xD00050 then [Fld.mdwHeathStatusEntries, Fld.mdwHeathStatusFull] else
  if o = 0xD00054 then [Fld.mdwHeathPagesV] else
  if o = 0xD00060 then [Fld.mdwTableInvalTable, Fld.mdwTableInvalAll, Fld.mdwTableInvalIndex] else
  if o = 0xD00064 then [Fld.mdwTableStatusSweepCue] else
  if o = 0xD00070 then [Fld.mdwEccCorrected, Fld.mdwEccUncorrected] else
  []

/-- The registers of the HAY range (Table MAP-2). -/
def regsHAY (o : Nat) : List Fld :=
  if 0xE00100 ≤ o ∧ o < 0xE00161 ∧ (o - 0xE00100) % 0x20 = 0 then let i := (o - 0xE00100) / 0x20; [Fld.hqBaseLoV i] else
  if 0xE00104 ≤ o ∧ o < 0xE00165 ∧ (o - 0xE00104) % 0x20 = 0 then let i := (o - 0xE00104) / 0x20; [Fld.hqBaseHiV i] else
  if 0xE00108 ≤ o ∧ o < 0xE00169 ∧ (o - 0xE00108) % 0x20 = 0 then let i := (o - 0xE00108) / 0x20; [Fld.hqCtlEn i, Fld.hqCtlResume i, Fld.hqCtlLog2size i, Fld.hqCtlVec i] else
  if 0xE0010C ≤ o ∧ o < 0xE0016D ∧ (o - 0xE0010C) % 0x20 = 0 then let i := (o - 0xE0010C) / 0x20; [Fld.hqTailIdx i] else
  if 0xE00110 ≤ o ∧ o < 0xE00171 ∧ (o - 0xE00110) % 0x20 = 0 then let i := (o - 0xE00110) / 0x20; [Fld.hqHeadIdx i] else
  if 0xE00114 ≤ o ∧ o < 0xE00175 ∧ (o - 0xE00114) % 0x20 = 0 then let i := (o - 0xE00114) / 0x20; [Fld.hqStatusHalted i, Fld.hqStatusErr i] else
  if 0xE00118 ≤ o ∧ o < 0xE00179 ∧ (o - 0xE00118) % 0x20 = 0 then let i := (o - 0xE00118) / 0x20; [Fld.hqTagV i] else
  []

/-- The registers of the FAB range (Table MAP-2). -/
def regsFAB (o : Nat) : List Fld :=
  if 0xF00000 ≤ o ∧ o < 0xF002C1 ∧ (o - 0xF00000) % 0x40 = 0 then let i := (o - 0xF00000) / 0x40; [Fld.fabLinkCtlEn i] else
  if 0xF00004 ≤ o ∧ o < 0xF002C5 ∧ (o - 0xF00004) % 0x40 = 0 then let i := (o - 0xF00004) / 0x40; [Fld.fabLinkStatusState i, Fld.fabLinkStatusPeer i, Fld.fabLinkStatusPeerEpoch i, Fld.fabLinkStatusIsoCause i, Fld.fabLinkStatusTrainFails i] else
  if 0xF00008 ≤ o ∧ o < 0xF002C9 ∧ (o - 0xF00008) % 0x40 = 0 then let i := (o - 0xF00008) / 0x40; [Fld.fabLinkErrCrc i, Fld.fabLinkErrReplays i] else
  if 0xF0000C ≤ o ∧ o < 0xF002CD ∧ (o - 0xF0000C) % 0x40 = 0 then let i := (o - 0xF0000C) / 0x40; [Fld.fabLinkDropStale i, Fld.fabLinkDropMalformed i] else
  if 0xF00010 ≤ o ∧ o < 0xF002D1 ∧ (o - 0xF00010) % 0x40 = 0 then let i := (o - 0xF00010) / 0x40; [Fld.fabCreditInit0Sub0 i, Fld.fabCreditInit0Sub1 i] else
  if 0xF00014 ≤ o ∧ o < 0xF002D5 ∧ (o - 0xF00014) % 0x40 = 0 then let i := (o - 0xF00014) / 0x40; [Fld.fabCreditInit1Sub0 i, Fld.fabCreditInit1Sub1 i] else
  if 0xF00018 ≤ o ∧ o < 0xF002D9 ∧ (o - 0xF00018) % 0x40 = 0 then let i := (o - 0xF00018) / 0x40; [Fld.fabCreditInit2Sub0 i, Fld.fabCreditInit2Sub1 i] else
  if 0xF0001C ≤ o ∧ o < 0xF002DD ∧ (o - 0xF0001C) % 0x40 = 0 then let i := (o - 0xF0001C) / 0x40; [Fld.fabCreditInit3Sub0 i, Fld.fabCreditInit3Sub1 i] else
  if o = 0xF00800 then [Fld.fabSelfDevice, Fld.fabSelfX, Fld.fabSelfY, Fld.fabSelfZ, Fld.fabSelfRacks] else
  if o = 0xF00804 then [Fld.fabEpochEpoch] else
  if o = 0xF00808 then [Fld.fabAbsentAbsentUs] else
  if o = 0xF00810 then [Fld.fabExitCtlExit, Fld.fabExitCtlDrained, Fld.fabExitCtlForced, Fld.fabExitCtlExitTimeoutUs] else
  if o = 0xF00814 then [Fld.fabPendingV] else
  if o = 0xF00820 then [Fld.fabAbsentDoneV] else
  if o = 0xF00824 then [Fld.fabOrphanOrphan, Fld.fabOrphanStaleReply] else
  if o = 0xF00828 then [Fld.fabNorouteNoroute, Fld.fabNorouteHopDiscard] else
  if o = 0xF00840 then [Fld.fabTopoIndexDevice] else
  if o = 0xF00844 then [Fld.fabTopoDataState, Fld.fabTopoDataEpoch, Fld.fabTopoDataLinks, Fld.fabTopoDataLost] else
  if o = 0xF00848 then [Fld.fabRouteDirs, Fld.fabRouteReach, Fld.fabRouteHops] else
  []

/-- The registers of the SWL range (Table MAP-2). -/
def regsSWL (o : Nat) : List Fld :=
  if 0x1000000 ≤ o ∧ o < 0x1006FC1 ∧ (o - 0x1000000) % 0x40 = 0 ∧ swlExists ((o - 0x1000000) / 0x40) = true then let i := (o - 0x1000000) / 0x40; [Fld.swlCfgBuild i, Fld.swlCfgPolicy i, Fld.swlCfgMark i, Fld.swlCfgPin i, Fld.swlCfgDepth i] else
  if 0x1000004 ≤ o ∧ o < 0x1006FC5 ∧ (o - 0x1000004) % 0x40 = 0 ∧ swlExists ((o - 0x1000004) / 0x40) = true then let i := (o - 0x1000004) / 0x40; [Fld.swlOccW i, Fld.swlOccR i] else
  if 0x1000008 ≤ o ∧ o < 0x1006FC9 ∧ (o - 0x1000008) % 0x40 = 0 ∧ swlExists ((o - 0x1000008) / 0x40) = true then let i := (o - 0x1000008) / 0x40; [Fld.swlWmHigh i, Fld.swlWmLow i] else
  if 0x100000C ≤ o ∧ o < 0x1006FCD ∧ (o - 0x100000C) % 0x40 = 0 ∧ swlExists ((o - 0x100000C) / 0x40) = true then let i := (o - 0x100000C) / 0x40; [Fld.swlStatusEmptyR i, Fld.swlStatusFullW i, Fld.swlStatusWm i, Fld.swlStatusState i, Fld.swlStatusMismatch i, Fld.swlStatusParity i] else
  if 0x1000010 ≤ o ∧ o < 0x1006FD1 ∧ (o - 0x1000010) % 0x40 = 0 ∧ swlExists ((o - 0x1000010) / 0x40) = true then let i := (o - 0x1000010) / 0x40; [Fld.swlLostV i] else
  if 0x1000014 ≤ o ∧ o < 0x1006FD5 ∧ (o - 0x1000014) % 0x40 = 0 ∧ swlExists ((o - 0x1000014) / 0x40) = true then let i := (o - 0x1000014) / 0x40; [Fld.swlDiscardedV i] else
  if 0x1000018 ≤ o ∧ o < 0x1006FD9 ∧ (o - 0x1000018) % 0x40 = 0 ∧ swlExists ((o - 0x1000018) / 0x40) = true then let i := (o - 0x1000018) / 0x40; [Fld.swlCountResets i, Fld.swlCountPoisoned i] else
  if 0x100001C ≤ o ∧ o < 0x1006FDD ∧ (o - 0x100001C) % 0x40 = 0 ∧ swlExists ((o - 0x100001C) / 0x40) = true then let i := (o - 0x100001C) / 0x40; [Fld.swlCtlReset i, Fld.swlCtlInject i] else
  if o = 0x1008000 then [Fld.swlLastId, Fld.swlLastCue] else
  []

/-- The registers of the LGT range (Table MAP-2). -/
def regsLGT (o : Nat) : List Fld :=
  if o = 0x1100000 then [Fld.lgtCtlBudgetEn, Fld.lgtCtlDeepOff] else
  if o = 0x1100004 then [Fld.lgtStatusBrake, Fld.lgtStatusBrakeSeen, Fld.lgtStatusAlert, Fld.lgtStatusTrip, Fld.lgtStatusDuty] else
  if o = 0x1100010 then [Fld.lgtCapCapMw] else
  if o = 0x1100014 then [Fld.lgtReserveV] else
  if o = 0x1100018 then [Fld.lgtThermSoft, Fld.lgtThermHard, Fld.lgtThermAlert] else
  if o = 0x110001C then [Fld.lgtBrakeDuty, Fld.lgtBrakeCount] else
  if o = 0x1100020 then [Fld.lgtTempT] else
  if o = 0x1100024 then [Fld.lgtBudgetV] else
  if o = 0x1100028 then [Fld.lgtEnergyV] else
  if o = 0x110002C then [Fld.lgtDebtV] else
  if o = 0x1100030 then [Fld.lgtPowerV] else
  if 0x1100100 ≤ o ∧ o < 0x11002F9 ∧ (o - 0x1100100) % 0x8 = 0 then let i := (o - 0x1100100) / 0x8; [Fld.lgtDomCtlTarget i, Fld.lgtDomCtlIdleUs i] else
  if 0x1100104 ≤ o ∧ o < 0x11002FD ∧ (o - 0x1100104) % 0x8 = 0 then let i := (o - 0x1100104) / 0x8; [Fld.lgtDomStatusState i, Fld.lgtDomStatusPhase i, Fld.lgtDomStatusPendingOn i, Fld.lgtDomStatusPendingOff i, Fld.lgtDomStatusBlocked i, Fld.lgtDomStatusPgFail i] else
  []

/-- The registers of the SPL range (Table MAP-2). -/
def regsSPL (o : Nat) : List Fld :=
  if o = 0x1200000 then [Fld.splLoadAddrLoV] else
  if o = 0x1200004 then [Fld.splLoadAddrHiV] else
  if o = 0x1200008 then [Fld.splLoadCtlLoad] else
  if o = 0x120000C then [Fld.splLoadStatusResult, Fld.splLoadStatusFirstBad] else
  if o = 0x1200010 then [Fld.splSwapCtlReq, Fld.splSwapCtlCancel] else
  if o = 0x1200014 then [Fld.splSwapAtLoV] else
  if o = 0x1200018 then [Fld.splSwapAtHiV] else
  if o = 0x120001C then [Fld.splSwapStatusState, Fld.splSwapStatusDirty, Fld.splSwapStatusRbRange, Fld.splSwapStatusReason] else
  if o = 0x1200020 then [Fld.splRefuseMapV] else
  if o = 0x1200024 then [Fld.splActiveIdV] else
  if o = 0x1200028 then [Fld.splActiveSeqV] else
  if o = 0x120002C then [Fld.splShadowIdV] else
  if o = 0x1200030 then [Fld.splShadowSeqV] else
  if o = 0x1200034 then [Fld.splDiffMapV] else
  if o = 0x1200040 then [Fld.splActiveRegAddrV] else
  if o = 0x1200044 then [Fld.splActiveRegDataV] else
  if o = 0x1200050 then [Fld.splRbSectSect, Fld.splRbSectShadow] else
  if o = 0x1200054 then [Fld.splRbOffV] else
  if o = 0x1200058 then [Fld.splRbDataV] else
  if o = 0x1200080 then [Fld.splSceneCtlStart] else
  if o = 0x1200084 then [Fld.splSceneAtLoV] else
  if o = 0x1200088 then [Fld.splSceneAtHiV] else
  if o = 0x120008C then [Fld.splSceneStatusState, Fld.splSceneStatusResult, Fld.splSceneStatusApplied] else
  if o = 0x1200090 then [Fld.splSceneTimeoutMs] else
  []

/-- The registers of the UND range (Table MAP-2). -/
def regsUND (o : Nat) : List Fld :=
  if o = 0x1300000 then [Fld.undCtlEn, Fld.undCtlEwEn, Fld.undCtlForce] else
  if o = 0x1300004 then [Fld.undTrigTimerCues, Fld.undTrigMinGap] else
  if o = 0x1300008 then [Fld.undStepV] else
  if o = 0x130000C then [Fld.undTimeoutCues] else
  if o = 0x1300010 then [Fld.undStatusState, Fld.undStatusLastResult, Fld.undStatusDrainFull, Fld.undStatusDraining, Fld.undStatusAbandoned] else
  if o = 0x1300014 then [Fld.undLastCueLoV] else
  if o = 0x1300018 then [Fld.undLastCueHiV] else
  if o = 0x130001C then [Fld.undLastSeqV] else
  if o = 0x1300020 then [Fld.undStallCountV] else
  if o = 0x1300024 then [Fld.undStallMaxV] else
  if o = 0x1300028 then [Fld.undBuddyBuddy, Fld.undBuddyWcopyValid] else
  if o = 0x1300030 then [Fld.undDrainBaseLoV] else
  if o = 0x1300034 then [Fld.undDrainBaseHiV] else
  if o = 0x1300038 then [Fld.undDrainSizeV] else
  if o = 0x130003C then [Fld.undDrainCtlEvery] else
  if o = 0x1300040 then [Fld.undRestoreRestored, Fld.undRestoreLost] else
  if o = 0x1300044 then [Fld.undWithdrawnWithdrawn] else
  if o = 0x1300050 then [Fld.undHostAddrLoV] else
  if o = 0x1300054 then [Fld.undHostAddrHiV] else
  if o = 0x1300058 then [Fld.undHostCtlGo] else
  if o = 0x130005C then [Fld.undHostResultResult] else
  []

/-- The registers of the PBK range (Table MAP-2). -/
def regsPBK (o : Nat) : List Fld :=
  if o = 0x1400000 then [Fld.pbkCtlEn, Fld.pbkCtlDigest] else
  if o = 0x1400004 then [Fld.pbkAreaBaseLoV] else
  if o = 0x1400008 then [Fld.pbkAreaBaseHiV] else
  if o = 0x140000C then [Fld.pbkAreaSizeV] else
  if o = 0x1400010 then [Fld.pbkAreaHeadV] else
  if o = 0x1400014 then [Fld.pbkAreaTailV] else
  if o = 0x1400018 then [Fld.pbkStatusReplayable, Fld.pbkStatusStalled, Fld.pbkStatusCapsules] else
  if o = 0x140001C then [Fld.pbkSeqV] else
  if o = 0x1400040 then [Fld.pbkMnftLoV] else
  if o = 0x1400044 then [Fld.pbkMnftHiV] else
  if o = 0x1400048 then [Fld.pbkCapsLoV] else
  if o = 0x140004C then [Fld.pbkCapsHiV] else
  if o = 0x1400050 then [Fld.pbkNcapsN] else
  if o = 0x1400054 then [Fld.pbkPromptsV] else
  if o = 0x1400058 then [Fld.pbkReplayCtlGo, Fld.pbkReplayCtlAbort, Fld.pbkReplayCtlEmit] else
  if o = 0x140005C then [Fld.pbkReplayStatusState, Fld.pbkReplayStatusResult, Fld.pbkReplayStatusListDiff, Fld.pbkReplayStatusLineDiff] else
  if o = 0x1400060 then [Fld.pbkReplayCueLoV] else
  if o = 0x1400064 then [Fld.pbkReplayCueHiV] else
  []

/-- The registers of the SDR range (Table MAP-2). -/
def regsSDR (o : Nat) : List Fld :=
  if o = 0x1500000 then [Fld.sdrStatusSealed, Fld.sdrStatusCertified, Fld.sdrStatusState, Fld.sdrStatusHouseKey, Fld.sdrStatusNeedSeed, Fld.sdrStatusLastSealed, Fld.sdrStatusSelftest] else
  if o = 0x1500004 then [Fld.sdrZeroCtlZeroise, Fld.sdrZeroCtlTenantZero, Fld.sdrZeroCtlTenant] else
  if o = 0x1500010 then [Fld.sdrTkeyTenantTenant] else
  if 0x1500014 ≤ o ∧ o < 0x1500039 ∧ (o - 0x1500014) % 0x4 = 0 then let i := (o - 0x1500014) / 0x4; [Fld.sdrTkeyWrapV i] else
  if o = 0x150003C then [Fld.sdrTkeyAtLoV] else
  if o = 0x1500040 then [Fld.sdrTkeyAtHiV] else
  if o = 0x1500044 then [Fld.sdrTkeyImportImport] else
  if o = 0x1500048 then [Fld.sdrTkeyResultResult, Fld.sdrTkeyResultValid, Fld.sdrTkeyResultKcv] else
  if o = 0x1500050 then [Fld.sdrFloorSeq] else
  if o = 0x1500060 then [Fld.sdrAuditIndexIndex] else
  if o = 0x1500064 then [Fld.sdrAuditNextV] else
  if o = 0x1500068 then [Fld.sdrAuditLostV] else
  if o = 0x1500070 then [Fld.sdrSessionsV] else
  if 0x1500080 ≤ o ∧ o < 0x150009D ∧ (o - 0x1500080) % 0x4 = 0 then let i := (o - 0x1500080) / 0x4; [Fld.sdrAuditDataV i] else
  []

/-- The registers of the LDG range (Table MAP-2). -/
def regsLDG (o : Nat) : List Fld :=
  if o = 0x1600000 then [Fld.ldgStatusState, Fld.ldgStatusNoImage, Fld.ldgStatusBooted, Fld.ldgStatusPrefer, Fld.ldgStatusFree] else
  if o = 0x1600010 then [Fld.ldgStoreCtlStore, Fld.ldgStoreCtlSlot, Fld.ldgStoreCtlPrefer] else
  if o = 0x1600014 then [Fld.ldgStoreStatusResult] else
  if o = 0x1600020 then [Fld.ldgRecoveryDup, Fld.ldgRecoveryTorn, Fld.ldgRecoveryRepoint, Fld.ldgRecoveryRetired] else
  if o = 0x1600024 then [Fld.ldgWearLow, Fld.ldgWearHigh] else
  []

/-- The registers of the FLT range (Table MAP-2). -/
def regsFLT (o : Nat) : List Fld :=
  if o = 0x1700000 then [Fld.fltStatusFatal, Fld.fltStatusDegraded, Fld.fltStatusEw, Fld.fltStatusPin, Fld.fltStatusNoticeDrop] else
  if o = 0x1700004 then [Fld.fltCtlPinDegraded, Fld.fltCtlNoticeEn] else
  if o = 0x1700010 then [Fld.fltEwWindowCues] else
  if o = 0x1700014 then [Fld.fltEwLimitCorr, Fld.fltEwLimitCont] else
  if o = 0x1700020 then [Fld.fltCountCorrV] else
  if o = 0x1700024 then [Fld.fltCountContV] else
  if o = 0x1700028 then [Fld.fltCountDegFatDegraded, Fld.fltCountDegFatFatal] else
  if o = 0x170002C then [Fld.fltWindowCorr, Fld.fltWindowCont] else
  if o = 0x1700030 then [Fld.fltLoftEccCorr, Fld.fltLoftEccUncorr] else
  if o = 0x1700034 then [Fld.fltCountNoteV] else
  if o = 0x1700040 then [Fld.fltLogIndexIndex] else
  if o = 0x1700044 then [Fld.fltLogNextV] else
  if o = 0x1700050 then [Fld.fltPrstPrm, Fld.fltPrstWdr, Fld.fltPrstUnd, Fld.fltPrstPbk, Fld.fltPrstBusyPrm, Fld.fltPrstBusyWdr, Fld.fltPrstBusyUnd, Fld.fltPrstBusyPbk] else
  if o = 0x1700058 then [Fld.fltInjectCode] else
  if o = 0x170005C then [Fld.fltCrashV] else
  if 0x1700060 ≤ o ∧ o < 0x170007D ∧ (o - 0x1700060) % 0x4 = 0 then let i := (o - 0x1700060) / 0x4; [Fld.fltLogDataV i] else
  []

/-- PLY registers at window offset 0x8000 and above are device-wide and read the same through every window (R293). -/
def canonOff (o : Nat) : Nat :=
  if 0x400000 ≤ o ∧ o < 0xA00000 ∧ 0x8000 ≤ (o - 0x400000) % 0x10000 then 0x400000 + (o - 0x400000) % 0x10000 else o

/-- The fields of the block register at BAR0 offset `o`; none where unassigned (R853). -/
def blockFields (o0 : Nat) : List Fld :=
  let o := canonOff o0

  if o < 0x100000 then regsHIU o else
  if o < 0x200000 then regsBOX o else
  if o < 0x300000 then regsSTM o else
  if o < 0x400000 then regsCUE o else
  if o < 0xA00000 then regsPLY o else
  if o < 0xB00000 then regsPRM o else
  if o < 0xC00000 then regsGRS o else
  if o < 0xD00000 then regsWDR o else
  if o < 0xE00000 then regsMDW o else
  if o < 0xF00000 then regsHAY o else
  if o < 0x1000000 then regsFAB o else
  if o < 0x1100000 then regsSWL o else
  if o < 0x1200000 then regsLGT o else
  if o < 0x1300000 then regsSPL o else
  if o < 0x1400000 then regsUND o else
  if o < 0x1500000 then regsPBK o else
  if o < 0x1600000 then regsSDR o else
  if o < 0x1700000 then regsLDG o else
  if o < 0x1800000 then regsFLT o else
  []

/-- The fields a function reaches at offset `o` of its BAR0: the PF reaches its window at 0x0008_0000 and every block
register; a VF only its own window (R56, R846, R847). -/
def fieldsAt (fn o : Nat) : List Fld :=
  if fn = 0 then
    if 0x80000 ≤ o ∧ o < 0x84000 then winFields 0 (o - 0x80000) else blockFields o
  else winFields fn o

end Sys2Proof.Machine
end

