-- ==== Sys2Proof/Machine/State.lean ====
section
/-!
DEFINITION. The state of one Dolindur device, as plain data, block by block (INVENTORY.md, '## State'), the state right
after reset, and the reasons a step can stop. Register fields live in `Regs`, one value per field; everything the
device holds besides registers lives in the structure of its block. Every list is empty and every number 0 at reset
unless State.reset says otherwise (log entry 1).
-/
namespace Sys2Proof.Machine

/-- Register storage. `flds` holds every field's current value, and for an RWS field its shadow value, which is what a
read returns (R6); `act` holds the active value of every RWS field (R640, R650). -/
structure Regs where
  flds : AMap Nat
  act : AMap Nat
  deriving DecidableEq, Repr

/-- A Line or Notice ring as the device drives it (R62 to R65, R68): entries written since EN, entries since the last
interrupt, whether an entry is not covered by one, reserved Notice entries, and the entries not yet released. -/
structure Ring where
  written : Nat
  sinceIrq : Nat
  fresh : Bool
  resv : Nat
  out : List Nat
  deriving DecidableEq, Repr

/-- One outcome slot of 32 bytes (R65, R66) with what it waits for. -/
structure OutSlot where
  fn : Nat
  callId : Nat
  op : Nat
  tenant : Nat
  /-- tokens of a CONTINUE -/
  len : Nat
  /-- request tag when the card was forwarded (R531) -/
  tag : Option Nat
  /-- the card while its prompt is pulled or while it waits in the ingress Swale (R80, R149) -/
  card : Option Card
  notice : Option Notice
  /-- the prompt as pulled, and whether every check has passed so that the card can be forwarded (R80, R591) -/
  prompt : List Nat
  ready : Bool
  /-- the SUBMIT's own Call Map entry was made when it was fetched (R84, R142) -/
  made : Bool
  /-- order of acceptance over all Haywain queues of its prompt pull, for FENCE (R93) -/
  stamp : Nat
  deriving DecidableEq, Repr

/-- One Call Map entry (R84, R87, R587). -/
structure CallEnt where
  fn : Nat
  callId : Nat
  company : Nat
  lead : Nat
  ring : Nat
  tenant : Nat
  model : Nat
  forwarded : Bool
  decided : Bool
  /-- position of the next Line to be written (R183) -/
  next : Nat
  /-- first position after the prompt, and the CONTINUE spans whose positions produce no Line: first position and length (R42) -/
  base : Nat
  gaps : List (Nat × Nat)
  /-- Lines received and not yet written -/
  win : List Line
  /-- copies of written Lines the host has not consumed (R87) -/
  kept : List Line
  /-- Lines received -/
  lines : Nat
  admittedN : Option Notice
  finalN : Option Notice
  restoredN : Option Notice
  finalWritten : Bool
  /-- parked at the submitting device: Notice wait (R79), function Error (R102), host loss (R106) -/
  parkNotice : Bool
  parkErr : Bool
  parkHost : Bool
  /-- what the lead was last told of it: 0 runs, 2 parked for a Notice, 3 for an Error or host loss (log entry 139) -/
  told : Nat
  /-- Lines carry restored = 1 (R703) -/
  restored : Bool
  /-- FINAL Notice kept for RECLAIM until the host consumes it (R107) -/
  finalKept : Option Notice
  /-- tag under which the serving lead reports the Call's end (log entry 9) -/
  tag : Nat
  /-- most tokens the Call's context can reach (Table HIU-6) -/
  ctx : Nat
  /-- position of the final Line once written, and whether the Call ends without one -/
  finalPos : Option Nat
  noLine : Bool
  /-- Lines at the front of the window that a RECLAIM makes the device write again (R107) -/
  redo : Nat
  /-- resume position of the latest re-point (R689, R702) -/
  resume : Nat
  deriving DecidableEq, Repr

/-- A descriptor of a host queue in progress (R89 to R93). -/
structure HDesc where
  d : Desc
  finished : Bool
  err : Nat
  /-- order of acceptance over all Haywain queues, for FENCE (R93); 0 while the queue has not accepted it -/
  stamp : Nat
  deriving DecidableEq, Repr

/-- A PF host queue (Table HAY-1). -/
structure HostQ where
  q : List HDesc
  deriving DecidableEq, Repr

/-- HIU and Haywain (02). -/
structure Hiu where
  rings : AMap Ring
  rrFn : Nat
  rrSq : AMap Nat
  outcomes : List OutSlot
  devStore : List Notice
  callMap : List CallEnt
  /-- Handle Map: (tenant, handle, Company) (R487) -/
  handles : List (Nat × Nat × Nat)
  hqs : List HostQ
  hostLost : Bool
  /-- functions whose grace timer runs with its start, and functions it expired for with their ended Calls (R106, R110) -/
  grace : List (Nat × Nat)
  expired : List (Nat × Nat)
  flr : List Nat
  /-- transfers accepted so far by the Haywain's queues -/
  hqStamp : Nat
  /-- Lines and FINAL Notices written and not consumed, in the order written: (function, ring, entry), and those that a
  RECLAIM has the device write again (R107) -/
  unread : List (Nat × Nat × Nat)
  redo : List (Nat × Nat × Nat)
  /-- PCIe Revision ID register of each function (R2) -/
  revs : List Nat
  deriving DecidableEq, Repr

/-- A card in the decision queue with its prompt from the staging window (R589). -/
structure QCard where
  src : Nat
  fn : Nat
  tag : Nat
  card : Card
  prompt : List Nat
  deriving DecidableEq, Repr

/-- Prompt tokens in a fetching device's staging window (R527, R591). -/
structure Staged where
  src : Nat
  fn : Nat
  callId : Nat
  toks : List (Nat × List Nat)
  deriving DecidableEq, Repr

/-- What stood when the card at the head of the decision queue reached it: the first cue it is eligible for and the capacity
model in force (R132, R133, R153). -/
structure HeadRec where
  cue : Nat
  rate : Nat
  slots : Nat
  /-- the next cue to launch at that instant -/
  seen : Nat
  deriving DecidableEq, Repr

/-- Box Office (03). -/
structure Box where
  q : List QCard
  head : Option HeadRec
  /-- CARDs that wait for their prompt chunks -/
  waiting : List QCard
  staged : List Staged
  /-- signed token level of each tenant (R124) -/
  levels : AMap Int
  /-- tokens of Lines released per tenant in the cue in progress (R124) -/
  charges : AMap Nat
  deriving DecidableEq, Repr

/-- Scheduling states of Table STM-6. -/
inductive Phase
  | prefilling | decoding | parked | held | paused | ended
  deriving DecidableEq, Repr

/-- Heath states of Table MDW-5. -/
inductive HeathSt
  | none | spilling | inHeath | filling
  deriving DecidableEq, Repr

/-- A listing whose result has not reached the lead (R194, R196, R206). -/
structure Listing where
  cue : Nat
  /-- credits taken (R195) -/
  need : Nat
  start : Nat
  /-- prefill tokens of the span; 0 for a decode entry -/
  toks : Nat
  /-- the listing samples: a decode entry or a last prefill entry -/
  samples : Bool
  /-- tokens of the span reported done -/
  done : Nat
  deriving DecidableEq, Repr

/-- An operation card on a Call that waits for a boundary (R37, R41, R493, R497). -/
structure COp where
  op : Nat
  src : Nat
  tag : Nat
  ttl : Nat
  toks : List Nat
  deriving DecidableEq, Repr

/-- One Call on the Call Board of this lead (Table BOX-3, Table STM-6, Table UND-5). -/
structure Call where
  slot : Nat
  seq : Nat
  src : Nat
  fn : Nat
  callId : Nat
  tenant : Nat
  /-- tag of the SUBMIT, under which the Call's end is reported -/
  tag : Nat
  card : Card
  phase : Phase
  prev : Phase
  /-- tokens not yet listed for prefill, and the position of the first of them -/
  pend : List Nat
  start : Nat
  /-- position at which the span holds the last sampled token rather than a prompt token (R42) -/
  fed : Option Nat
  /-- last emitted token and its position -/
  tok : Nat
  pos : Nat
  gen : Nat
  /-- every token of the Call by position: prompt, emitted and CONTINUE tokens -/
  toks : List Nat
  kvLen : Nat
  credits : Nat
  /-- blocks reserved and not drawn -/
  resv : Nat
  /-- block table by ordinal: number and shared flag -/
  blocks : List (Nat × Bool)
  /-- full blocks already offered to the prefix table (R482), and chain value after them -/
  hashed : Nat
  costume : Option (Nat × Nat)
  ctx : GCtx
  /-- context not yet sent since admission, RESUME or restore (R422) -/
  ctxDue : Bool
  guesses : List Nat
  /-- first listing after a RESUME or restore (R402) -/
  depth0 : Bool
  listed : List Listing
  heldCues : Nat
  lookupDone : Bool
  /-- restored and not yet filled and re-pointed -/
  restoring : Bool
  /-- Frame Call: T0, next period not yet listed, consecutive misses (R238 to R240) -/
  t0 : Option Nat
  period : Nat
  misses : Nat
  /-- listed in the cue whose boundary comes next -/
  frameDue : Bool
  ops : List COp
  heath : HeathSt
  /-- ordinals spilled to Heath, expiry, members that reported, and the operation under way -/
  spilt : List Nat
  expiry : Nat
  reports : List Nat
  hop : Option COp
  /-- status the Call ends with at the next boundary, without a final Line -/
  doom : Option Nat
  /-- ended: status, and whether it has a final Line -/
  ending : Option (Nat × Bool)
  /-- first cue whose listings no longer count for an ended Call, and whether its end is still to be reported once the
  results of the earlier ones have come (R38, R378) -/
  endCue : Nat
  owed : Bool
  /-- its final Line has been released at the submitting device (R36) -/
  finalOut : Bool
  /-- parked at its submitting device, another device: 0 no, 2 for a Notice, 3 for an Error or host loss (R198; log entry
  139) -/
  away : Nat
  scriptState : Nat
  matcher : List Nat
  deriving DecidableEq, Repr

/-- One beat of the beat table (R160, R161). -/
structure Beat where
  idx : Nat
  ctr : Nat
  cue : Nat
  player : Nat
  push : Bool
  deadline : Nat
  seq : Nat
  poison : Bool
  fail : Bool
  issued : Bool
  abandoned : Bool
  void : Bool
  frame : Bool
  costume : Bool
  spec : Bool
  slots : List Nat
  chunks : Nat
  chunksDone : Nat
  flow : Nat
  ordinal : Nat
  entry : Nat
  lc : List Nat
  tokens : List Token
  /-- first position and tokens of a push beat's chunks -/
  start : Nat
  toks : Nat
  /-- step records a stage-0 beat awaits: (cue, slot) (R211, R398) -/
  waits : List (Nat × Nat)
  /-- its completion is the stage's result for its chunks (R194) -/
  result : Bool
  /-- Troupe of its operator instance (R261) -/
  troupe : Nat
  /-- tokens a stage-0 pull beat takes in: slot, position and id (R30, R385) -/
  ins : List (Nat × Nat × Nat)
  /-- its operator converts stochastically (R303) -/
  stoch : Bool
  deriving DecidableEq, Repr

/-- A prefill listing whose one result this last-stage device owes: its span, the tokens of it not yet completed, counted once for
each operator whose completion is a result, and the marks met (R194). -/
structure Span where
  cue : Nat
  slot : Nat
  start : Nat
  toks : Nat
  left : Nat
  poison : Bool
  fail : Bool
  deriving DecidableEq, Repr

/-- A step record that reached this device before the launch of the entry that waits for it (R211, R212). -/
structure Early where
  cue : Nat
  slot : Nat
  /-- position and id of its last token -/
  pos : Nat
  tok : Nat
  stop : Bool
  poison : Bool
  fail : Bool
  deriving DecidableEq, Repr

/-- A member's budget report (R186, R816). -/
structure Report where
  dev : Nat
  cue : Nat
  ready : Bool
  ew : Bool
  lit : Nat
  uj : Nat
  deriving DecidableEq, Repr

/-- What the lead knows of a cue and its other members need: the Reading count, and of each Call listed its slot, its deadline and whether
it is a Frame Call (R169, R200; log entry 168). -/
structure CueFacts where
  cue : Nat
  reading : Nat
  calls : List (Nat × Nat × Bool)
  deriving DecidableEq, Repr

/-- Stage Manager (04). -/
structure Stm where
  board : List Call
  beats : List Beat
  nextSeq : Nat
  /-- push slot of each Player: (Player, beat) (R172) -/
  pushSlots : AMap Nat
  reports : List Report
  /-- (prompt tokens admitted, n_dec) of the cues just ended, newest last (R201) -/
  hist : List (Nat × Nat)
  admittedToks : Nat
  /-- a Cue List has been composed since the Company started (R817) -/
  started : Bool
  /-- first cue whose composition has not begun -/
  nextComp : Nat
  /-- reading count chosen by the last composition -/
  reading : Nat
  /-- Cue Lists received for cues to come: (cue, tokens, broken) -/
  lists : List (Nat × List CueTok × Bool)
  /-- results sent per listing cue, for the LINES digest (Table PBK-1) -/
  results : List (Nat × Nat × Nat × Nat × Nat)
  /-- lowest undelivered ordinal of each flow, and its next ordinal (R180, R181) -/
  flows : AMap Nat
  flowNext : AMap Nat
  /-- completed beats of a flow held for a lower ordinal (R181) -/
  heldDone : List Beat
  /-- Cue-channel items this lead sent: (cue, device, slot) (R596) -/
  sent : List (Nat × Nat × Nat)
  /-- listings whose step record this stage-0 or last-stage device awaits: (cue, slot) (R398, R399) -/
  awaits : List (Nat × Nat)
  /-- beats that wait for a free entry of the beat table (R210) -/
  arriving : List Beat
  spans : List Span
  early : List Early
  /-- slots of which a table message was discarded here (R473) -/
  noTable : List Nat
  /-- what the lead said of recent cues (log entry 168) -/
  facts : List CueFacts
  deriving DecidableEq, Repr

/-- Cue Line (05). -/
structure Cue where
  anchorCue : Nat
  anchorSt : Nat
  pendAnchor : Option (Nat × Nat × Nat)
  /-- cue in progress, whether a cue was launched, and before that the first cue to launch (R810) -/
  num : Nat
  launched : Bool
  first : Nat
  /-- a first time exchange or a start as root has given the device its anchor (R808, R809) -/
  anchored : Bool
  rootPrimary : Bool
  /-- Stage Time of the latest slewed correction (R223) -/
  slewFrom : Nat
  inRun : Nat
  outRun : Nat
  holdoverSt : Nat
  todNew : Bool
  nowHi : Nat
  monSt : Option Nat
  deriving DecidableEq, Repr

/-- One Player's sequencer (R263 to R268). -/
structure Player where
  /-- copies of the words at PC to PC + 7 -/
  win : List Nat
  lc : List Nat
  beat : Option Nat
  cut : Bool
  chunk : Nat
  /-- PC has moved beyond word 0x3FFF (R274) -/
  beyond : Bool
  /-- host stores that wait for the pair to be Lit, oldest first: word and value (R857) -/
  stores : List (Nat × Nat)
  deriving DecidableEq, Repr

/-- A held Script or stop set (R362, R367). -/
structure Script where
  kind : Nat
  tenant : Nat
  id : Nat
  model : Nat
  start : Nat
  /-- (bitmap, default_next, edges) per state -/
  states : List (Nat × Nat × List (Nat × Nat))
  bitmaps : List Nat
  seqs : List (List Nat)
  withdrawn : Bool
  /-- bytes of the image -/
  bytes : Nat
  deriving DecidableEq, Repr

/-- Script binding and state of a slot on a last-stage device (R370, R372, R397). -/
structure Bind where
  script : Option (Nat × Nat)
  stop : Option Nat
  state : Nat
  matcher : List Nat
  /-- the image named is absent (R371) -/
  absent : Bool
  deriving DecidableEq, Repr

/-- One rank's candidate list in the merge list store (R335, R520). -/
structure CandL where
  slot : Nat
  cue16 : Nat
  pos : Nat
  rank : Nat
  /-- parts that have come, and the number of the last one once that one has -/
  got : List Nat
  final : Option Nat
  /-- discarded: what is still to come of it goes too (R359) -/
  bad : Bool
  poison : Bool
  fail : Bool
  ents : List (Nat × Nat)
  heads : List (Option (Nat × Nat))
  deriving DecidableEq, Repr

/-- A listing's sampling in progress on its merge rank (R386). -/
structure Merge where
  slot : Nat
  req : SampReq
  next : Nat
  emitted : List (Nat × Bool)
  deriving DecidableEq, Repr

/-- Prompter and Script (08, 09). -/
structure Prm where
  scripts : List Script
  /-- load in progress: the image and whether it passed (R364) -/
  load : Option Script
  /-- bytes of the image being loaded, and devices of the last stage where its copy is still to be put in place; none until copies go out
  (R364) -/
  image : List Byte
  copies : Option (List Nat)
  binds : AMap Bind
  lists : List CandL
  merges : List Merge
  /-- guesses held at a stage-0 device per slot (R397) -/
  guesses : AMap (List Nat)
  /-- logits a LOGITS_OUT handed over, by slot and position, with a poison tag (Table PLY-3) -/
  handed : List ((Nat × Nat) × List Word × Bool)
  deriving DecidableEq, Repr

/-- Gorse and Wind (10). -/
structure Grs where
  /-- contexts by slot: (context, poison) (R422) -/
  ctx : AMap (BitVec 256 × Bool)
  ready : List Nat
  reqs : List Nat
  rctLast : Option Bool
  rctRun : Nat
  aptN : Nat
  aptBit : Bool
  aptCnt : Nat
  kSeed : Nat
  c : Nat
  seeds : Nat
  due : Bool
  deriving DecidableEq, Repr

/-- An installed Costume version (R438 to R450). -/
structure Ver where
  tenant : Nat
  id : Nat
  ver : Nat
  digest : Nat
  model : Nat
  current : Bool
  /-- RESULT read DONE, and the version becomes current at the next boundary (R444) -/
  due : Bool
  pages : Nat
  resident : Bool
  copying : Bool
  /-- members that reported residency to this lead -/
  residents : List Nat
  lastListed : Nat
  /-- header and body in clear (R434) -/
  image : List Byte
  /-- pages of the Meadow Costume pool that hold this device's slice, and Costume pages of the Loft it is resident in (R438, R439) -/
  pool : List Nat
  loft : List Nat
  deriving DecidableEq, Repr

/-- Wardrobe (11). -/
structure Wdr where
  vers : List Ver
  load : Option Ver
  /-- members whose slice of the load is still to be put in place; none until slices go out (R432) -/
  copies : Option (List Nat)
  /-- revocations to act at the next boundary: (tenant, id, all) -/
  revokes : List (Nat × Nat × Bool)
  waiting : Nat
  deriving DecidableEq, Repr

/-- A KV block that is not free (R468 to R491): held by Calls or handles, or cached. -/
structure Blk where
  /-- admission sequence of the Call that drew it (R483) -/
  drawer : Nat
  /-- prefix-table key: parent and chain value (R482) -/
  key : Option (Option Nat × Nat)
  /-- token record (R475) -/
  toks : List Nat
  lastAtt : Nat
  deriving DecidableEq, Repr

/-- A prefix handle (R484). -/
structure Handle where
  tenant : Nat
  handle : Nat
  model : Nat
  costume : Option (Nat × Nat)
  blocks : List Nat
  deriving DecidableEq, Repr

/-- A Heath entry of this device (Table MDW-4): its pages, the ordinals spilled and what its tag authenticates. -/
structure HeathE where
  slot : Nat
  page : Nat
  pages : Nat
  hdr : BitVec 512
  ords : List Nat
  body : List Byte
  deriving DecidableEq, Repr

/-- A spill that this member owes, or has made, for a paused Call of its lead: what the header of its entry says of the Call, the ordinals,
and a fill that is due (R493, R497; log entry 167). -/
structure SpillJob where
  slot : Nat
  who : Nat
  ords : List Nat
  fill : Bool
  deriving DecidableEq, Repr

/-- Meadow and Heath, and the device's addressed memory: Loft and Meadow (06, 12). -/
structure Mdw where
  mem : List Host.Cell
  poison : AMap Nat
  blocks : AMap Blk
  /-- cached copies of table entries: address and value (R502) -/
  cached : AMap Nat
  lenPtr : AMap Nat
  handles : List Handle
  heath : List HeathE
  spills : List SpillJob
  /-- blocks of which a beat read poison since the last boundary, at the lead (R506) -/
  bad : List Nat
  stamp : Nat
  deriving DecidableEq, Repr

/-- A link (13): retry buffer, sequence numbers, credits held, credits to return, receive assembly. -/
structure Link where
  seqTx : Nat
  seqRx : Nat
  retry : List (Nat × BitVec 1936)
  replays : Nat
  credits : List Nat
  owed : List Nat
  body : List Byte
  drained : Bool
  /-- training waits 10 ms after an incomplete one (Table FAB-6) -/
  waiting : Bool
  lastRx : Nat
  deriving DecidableEq, Repr

/-- A topology entry (R538). -/
structure Topo where
  state : Nat
  epoch : Nat
  links : Nat
  lost : Bool
  deriving DecidableEq, Repr

/-- A pending entry (R531). -/
structure Pend where
  tag : Nat
  dst : Nat
  kind : Nat
  /-- token to complete with fail when the destination is lost (R550) -/
  beats : List Token
  /-- dirs of the request route and of the Reply route when it was sent (R598) -/
  dirs : Nat
  back : Nat
  deriving DecidableEq, Repr

/-- A Company's latest advertisement (Table FAB-9, R82). -/
structure Advert where
  company : Nat
  model : Nat
  admitting : Bool
  exact : Bool
  lost : Bool
  slots : Nat
  blocks : Nat
  cue : Nat
  deriving DecidableEq, Repr

/-- Fabric and Roll Call (13). -/
structure Fab where
  links : List Link
  topo : AMap Topo
  pend : List Pend
  nextTag : Nat
  adverts : List Advert
  lost : List Nat
  epoch : Nat
  firstUp : Bool
  exitWritten : Bool
  exitSt : Nat
  /-- packets held for an output without credit (R530) -/
  hold : List Packet
  silent : Option Nat
  /-- Request credits of forwarded cards that wait for the decision queue: (link, lane, units) (R148) -/
  heldCr : List (Nat × Nat × Nat)
  /-- requests that wait for a free pending entry: (kind, destination, tag, payload) (R531) -/
  reqWait : List (Nat × Nat × Nat × List Byte)
  deriving DecidableEq, Repr

/-- A Swale instance (14): items as lists of (word, bad parity), oldest first; the forced-reset state is in SWL_STATUS. -/
structure Sw where
  items : List (List (Nat × Bool))
  /-- entries read and not released on a marked instance, oldest first, and where the mark stands (R576 to R578) -/
  readOut : List (List (Nat × Bool))
  markAt : Nat
  deriving DecidableEq, Repr

/-- A power domain beside its status register (15): demand raised since it last settled, and the ladder code a fall in
progress ends in. -/
structure Dom where
  demand : Bool
  fall : Nat
  deriving DecidableEq, Repr

/-- Lighting Desk (15). -/
structure Lgt where
  doms : AMap Dom
  throttle : Bool
  trip : Bool
  releaseSt : Option Nat
  seenSince : Bool
  alertSince : Bool
  /-- budgets reported by cue -/
  budgets : List (Nat × Nat)
  deriving DecidableEq, Repr

/-- Scene change of this device's Company (16). -/
structure Scene where
  company : Nat
  cue : Nat
  startSt : Nat
  asked : List Nat
  applied : List Nat
  /-- every answer has come and none refuses -/
  accepted : Bool
  /-- refusal codes found in the answers so far -/
  found : List Nat
  /-- the active lead is present and is another device (R653) -/
  other : Bool
  /-- member devices, block_bytes, pool base and pool blocks before the change (R659, R707) -/
  devs : List Nat
  layout : List Nat
  /-- Calls held in the cut -/
  cutCalls : List Call
  deriving DecidableEq, Repr

/-- Stageplot engine (16). -/
structure Spl where
  active : Option Plot
  shadow : Option Plot
  image : List Byte
  swapAt : Option (Nat × Nat)
  scene : Option Scene
  /-- a scene change that the shadow lead, another device, told this member of: Company, cue S and that device (R653, R655, R665) -/
  passed : Option (Nat × Nat × Nat)
  /-- RWS register writes held during a swap or scene change, oldest first: the RWS fields and values of each (R11, R665) -/
  heldRws : List (List (Fld × Nat))
  /-- end of the interval in which a swap just made reads SWAPPING (R645) -/
  swapEnd : Nat
  deriving DecidableEq, Repr

/-- A complete snapshot's manifest as a holder keeps it (R685). -/
structure Manifest where
  company : Nat
  cue : Nat
  snapSeq : Nat
  model : Nat
  shards : List Shard
  /-- the manifest as signed, with its signature -/
  raw : List Byte
  deriving DecidableEq, Repr

/-- A Call in restore at its target lead (R700 to R703). -/
structure Rest where
  slot : Nat
  /-- tag of its REPOINT, 65536 in a replay -/
  tag : Nat
  repointed : Bool
  filled : Bool
  /-- block numbers in the source Company -/
  blocks : List Nat
  deriving DecidableEq, Repr

/-- A restored Call on its way to another Company's lead: its record, its Costume's record if it has one, key and value blocks by layer and
head, its model, and the Companies that were asked (R699, R891). -/
structure Offer where
  raw : List Byte
  costume : List Byte
  kv : List (Nat × Nat × List Byte)
  model : Nat
  tried : List Nat
  deriving DecidableEq, Repr

/-- Understudy (17). -/
structure Und where
  lastCut : Nat
  cutCue : Nat
  snapSeq : Nat
  triggers : Nat
  linesSince : Nat
  dueForce : Bool
  dueEw : Bool
  dueTimer : Bool
  dueStep : Bool
  scheduled : Bool
  acks : List Nat
  copiedBy : List Nat
  shards : List Shard
  mfAcks : List Nat
  cutCalls : List Call
  sceneCut : Bool
  manifests : List Manifest
  /-- a SNAP message held for a cue (R671) -/
  snapMsg : Option CueTok
  /-- frozen blocks and table pages not yet copied (R676) -/
  frozen : List Nat
  frozenPages : List Nat
  copying : Bool
  /-- shard bodies of the frozen view: (kind, body) (R686 to R688) -/
  bodies : List (Nat × List Byte)
  drainHalf : Bool
  sinceDrain : Nat
  /-- what the drain in progress writes -/
  draining : List Byte
  restore : List Rest
  /-- Lost Company whose Calls this device restores, and the manifests still to try, latest first (R697) -/
  restoring : Option Nat
  tries : List Manifest
  /-- SHARD_READs that wait for data: (tag, manifest, shard) -/
  reads : List (Nat × Manifest × Shard)
  /-- shards of the manifest under trial that passed R694 -/
  got : List (Shard × List Byte)
  /-- transfers received: (source, transfer id, bytes) (R680) -/
  transfers : List (Nat × Nat × List Byte)
  /-- Lost Companies whose restore has begun here, or is another coordinator's (R696) -/
  lostDone : List Nat
  /-- Calls that this coordinator offered to another Company's lead (R699) -/
  offered : List Offer
  /-- at the shadow lead: the manifest of a scene change's cut, and whether its shards are being read for the restart (R653, R659) -/
  sceneMan : Option Manifest
  sceneRead : Bool
  deriving DecidableEq, Repr

/-- A Prompt Book record, 64 bytes (Table PBK-2). -/
abbrev BookRec := BitVec 512

/-- A recorded cue that a replay runs: this device's cue, the recorded cue, its launch instant and period (R728, R729). -/
structure ReplCue where
  own : Nat
  cue : Nat
  launch : Nat
  period : Nat
  deriving DecidableEq, Repr

/-- Prompt Book (18). -/
structure Pbk where
  /-- capture Swale and records not yet in a closed frame -/
  recs : List BookRec
  lost : Nat
  /-- the capsule in progress: starting snapshot and cue, first page in the area, bytes used, records written -/
  capOpen : Bool
  capSeq : Nat
  capStart : Nat
  capPage : Nat
  capLen : Nat
  capCount : Nat
  /-- replay: records to come in seq order, prompts of the supply still unused, cues run, newest first -/
  replay : List BookRec
  prompts : List (List Nat)
  cues : List ReplCue
  /-- Company whose capsules a replay runs -/
  company : Nat
  /-- records of the output capsule (R732), and whether it waits to be written -/
  emit : List BookRec
  emitDue : Bool
  deriving DecidableEq, Repr

/-- A secured SPDM session (R753, R754). -/
structure Sess where
  id : Nat
  i3c : Bool
  key : Nat
  finished : Bool
  oper : Bool
  deriving DecidableEq, Repr

/-- Stage Door (19). -/
structure Sdr where
  hk : Option Nat
  tkeys : AMap Nat
  /-- import scheduled: tenant, key, cue (R746) -/
  imp : Option (Nat × Nat × Nat)
  sessions : List Sess
  /-- algorithms were agreed with the requester -/
  algs : Bool
  /-- large request under assembly: bytes, handle and next sequence number -/
  chunks : List Byte
  chunkHandle : Option (Nat × Nat)
  /-- large answer to be fetched in chunks, under its handle -/
  large : List Byte
  largeHandle : Nat
  drbg : Option Nat
  gens : Nat
  ivNext : Nat
  ivResv : Nat
  keys : AMap Nat
  revoked : List Nat
  floor : Nat
  lastSealed : Bool
  /-- latest audit records on die, newest last, and how many of the newest are not yet persisted -/
  audit : List (BitVec 256)
  /-- SEALED_DENIED events not yet covered by an AUDIT_LOSS record (R770) -/
  lossPend : Nat
  /-- how many of the unpersisted records, oldest first, were handed to the Ledger (R768) -/
  handed : Nat
  unpersisted : Nat
  zeroing : Bool
  deriving DecidableEq, Repr

/-- A pool block of the NAND: what its header names, its erase count, and whether it is retired (R773, R776, R777, R782). -/
structure PBlk where
  /-- spare bytes of page 0 and of page 63: block header and completion mark, empty when erased (Table LDG-2) -/
  head : List Byte
  mark : List Byte
  erases : Nat
  bad : Bool
  deriving DecidableEq, Repr

/-- A crash capsule: its header's fields, the fault records, and the RO registers of BAR0 by offset (R840). -/
structure Crash where
  device : Nat
  epoch : Nat
  code : Nat
  cue : Nat
  st : Nat
  records : List (BitVec 256)
  ros : AMap Nat
  deriving DecidableEq, Repr

/-- An image slot (Table LDG-5). -/
structure ImgSlot where
  state : Nat
  len : Nat
  seq : Nat
  plan : Nat
  count : Nat
  digest : Nat
  image : List Byte
  deriving DecidableEq, Repr

/-- Ledger (20). -/
structure Ldg where
  /-- pool blocks by number, and the pool block each logical block is mapped to (log entry 26) -/
  phys : AMap PBlk
  map : AMap Nat
  mapSeq : Nat
  /-- journal: free blocks, and pages programmed in the newest (R779) -/
  journalFree : Nat
  journalPages : Nat
  /-- audit records in the LOG region, newest last, and records handed over that wait for their page (R768, R781) -/
  log : List (BitVec 256)
  logPage : List (BitVec 256)
  /-- pages of the LOG ring programmed; fault records in it, and seq of the next one to go there (Table LDG-1) -/
  logPos : Nat
  faultLog : List (BitVec 256)
  faultNext : Nat
  slots : List ImgSlot
  prefer : Nat
  epoch : Nat
  ivResv : Nat
  /-- the latest 128 manifests, newest last -/
  manifests : List Manifest
  /-- the latest 256 crash capsules, newest last, how many were written, and whether one waits for the Ledger (R841) -/
  crashes : List Crash
  crashCount : Nat
  crashBusy : Bool
  lastMove : Option Nat
  storing : Option (Nat × ImgSlot)
  bootSlot : Option Nat
  deriving DecidableEq, Repr

/-- Fault block (22). -/
structure Flt where
  log : List (BitVec 256)
  ewCorr : Bool
  ewCont : Bool
  winStart : Nat
  winLen : Nat
  earlyWarn : Bool
  deriving DecidableEq, Repr

/-- Board side: supplies, straps, pins and boot progress (21, 24). Pin fields hold the level. -/
structure Brd where
  powered : Bool
  sealStrap : Bool
  sled : Nat
  perst : Bool
  warmLow : Bool
  warmHeld : Bool
  /-- a warm reset waits for the audit records to be persisted (R797) -/
  flushing : Bool
  /-- Stage Time at the last rise of PERST_N and at the end of RESET, moved along with a step of Stage Time (R802) -/
  cfgFrom : Int
  resetEnd : Int
  sdrDone : Bool
  windDone : Bool
  hbmOk : Bool
  faultPin : Bool
  thermPin : Bool
  ingressPin : Bool
  egressPin : Bool
  ingressDwell : Nat
  egressDwell : Nat
  brakePin : Bool
  monPin : Bool
  deriving DecidableEq, Repr

/-- What left the die, newest last: packets, control flits, host memory writes (address, bytes), MSI-X messages
(function, vector), SPDM answers, PCIe completions (status, and the Revision ID of a successful one). The model's own
logs. -/
structure Out where
  packets : List Packet
  ctrl : List (Nat × Nat × Nat)
  host : List (Nat × List Byte)
  msix : List (Nat × Nat)
  spdm : List (Nat × List Byte)
  pcie : List (Nat × Nat)
  deriving DecidableEq, Repr

/-- The device. -/
structure State where
  regs : Regs
  hiu : Hiu
  box : Box
  stm : Stm
  cue : Cue
  ply : List Player
  prm : Prm
  grs : Grs
  wdr : Wdr
  mdw : Mdw
  fab : Fab
  swl : AMap Sw
  lgt : Lgt
  spl : Spl
  und : Und
  pbk : Pbk
  sdr : Sdr
  ldg : Ldg
  flt : Flt
  brd : Brd
  out : Out
  /-- Stage Time of this device in ns (R217) -/
  st : Nat
  /-- the model's own counter of free values (log entry 3) -/
  freeCtr : Nat
  /-- commands that wait, first in first out -/
  pending : List Instr
  deriving DecidableEq, Repr

/-- Reasons a step ends in a fault. Every error the spec describes is a status, a flag or a record in a next state. -/
inductive Fault
  /-- an operand address of COMPUTE_WORD or PARTIALS names no byte of Loft or Meadow (R251 to R253, R464); safe -/
  | noAddress
  deriving DecidableEq, Repr

/-- Reasons a command is refused. -/
inductive Refusal
  /-- a command whose meaning has not been written; raised by Dispatch only (safe) -/
  | notModelled (mnemonic : String)
  deriving DecidableEq, Repr

/-- An empty ring. -/
def Ring.empty : Ring := ⟨0, 0, false, 0, []⟩

/-- A sequencer before its first fetch. -/
def Player.idle : Player := ⟨[], [0, 0, 0, 0], none, false, 0, false, []⟩

/-- A link that is OFF. -/
def Link.off : Link := ⟨0, 0, [], 0, [], [0, 0, 0, 0, 0, 0, 0, 0], [], false, false, 0⟩

/-- A topology entry that reads UNKNOWN (R805). -/
def Topo.unknown : Topo := ⟨0, 0, 0, false⟩

/-- An empty Swale. -/
def Sw.empty : Sw := ⟨[], [], 0⟩

/-- A domain at rest. -/
def Dom.rest : Dom := ⟨false, 0⟩

/-- A fresh pool block of the NAND. -/
def PBlk.fresh : PBlk := ⟨[], [], 0, false⟩

/-- An EMPTY image slot. -/
def ImgSlot.empty : ImgSlot := ⟨0, 0, 0, 0, 0, 0, []⟩

/-- The device right after reset, before boot has run: every register at its reset value (R854), no Stageplot set
active, every queue empty. What the spec gives no reset value is empty or 0 (log entry 1). -/
def State.reset : State where
  regs := ⟨[], []⟩
  hiu := ⟨[], 0, [], [], [], [], [], [⟨[]⟩, ⟨[]⟩, ⟨[]⟩, ⟨[]⟩], false, [], [], [], 0, [], [], List.replicate 128 0x10⟩
  box := ⟨[], none, [], [], [], []⟩
  stm := ⟨[], [], 0, [], [], [], 0, false, 0, 0, [], [], [], [], [], [], [], [], [], [], [], []⟩
  cue := ⟨0, 0, none, 0, false, 0, false, true, 0, 0, 0, 0, false, 0, none⟩
  ply := List.replicate 96 Player.idle
  prm := ⟨[], none, [], none, [], [], [], [], []⟩
  grs := ⟨[], [], [], none, 0, 0, false, 0, 0, 0, 0, true⟩
  wdr := ⟨[], none, none, [], 0⟩
  mdw := ⟨[], [], [], [], [], [], [], [], [], 0⟩
  fab := ⟨List.replicate 12 Link.off, [], [], 0, [], [], 0, false, false, 0, [], none, [], []⟩
  swl := []
  lgt := ⟨[], false, false, none, false, false, []⟩
  spl := ⟨none, none, [], none, none, none, [], 0⟩
  und := ⟨0, 0, 0, 0, 0, false, false, false, false, false, [], [], [], [], [], false, [], none, [], [], false, [], false, 0,
    [], [], none, [], [], [], [], [], [], none, false⟩
  pbk := ⟨[], 0, false, 0, 0, 0, 0, 0, [], [], [], 0, [], false⟩
  sdr := ⟨none, [], none, [], false, [], none, [], 0, none, 0, 0, 0, [], [], 0, false, [], 0, 0, 0, false⟩
  ldg := ⟨[], [], 0, 31, 0, [], [], 0, [], 0, [ImgSlot.empty, ImgSlot.empty], 0, 0, 0, [], [], 0, false, none, none, none⟩
  flt := ⟨[], false, false, 0, 64, false⟩
  brd := ⟨true, false, 0, true, false, false, false, 0, 0, false, false, true, false, false, false, false, 0, 0, false, false⟩
  out := ⟨[], [], [], [], [], []⟩
  st := 0
  freeCtr := 0
  pending := []

def State.onRegs (s : State) (f : Regs → Regs) : State := { s with regs := f s.regs }
def State.onHiu (s : State) (f : Hiu → Hiu) : State := { s with hiu := f s.hiu }
def State.onBox (s : State) (f : Box → Box) : State := { s with box := f s.box }
def State.onStm (s : State) (f : Stm → Stm) : State := { s with stm := f s.stm }
def State.onCue (s : State) (f : Cue → Cue) : State := { s with cue := f s.cue }
def State.onPly (s : State) (f : List Player → List Player) : State := { s with ply := f s.ply }
def State.onPrm (s : State) (f : Prm → Prm) : State := { s with prm := f s.prm }
def State.onGrs (s : State) (f : Grs → Grs) : State := { s with grs := f s.grs }
def State.onWdr (s : State) (f : Wdr → Wdr) : State := { s with wdr := f s.wdr }
def State.onMdw (s : State) (f : Mdw → Mdw) : State := { s with mdw := f s.mdw }
def State.onFab (s : State) (f : Fab → Fab) : State := { s with fab := f s.fab }
def State.onSwl (s : State) (f : AMap Sw → AMap Sw) : State := { s with swl := f s.swl }
def State.onLgt (s : State) (f : Lgt → Lgt) : State := { s with lgt := f s.lgt }
def State.onSpl (s : State) (f : Spl → Spl) : State := { s with spl := f s.spl }
def State.onUnd (s : State) (f : Und → Und) : State := { s with und := f s.und }
def State.onPbk (s : State) (f : Pbk → Pbk) : State := { s with pbk := f s.pbk }
def State.onSdr (s : State) (f : Sdr → Sdr) : State := { s with sdr := f s.sdr }
def State.onLdg (s : State) (f : Ldg → Ldg) : State := { s with ldg := f s.ldg }
def State.onFlt (s : State) (f : Flt → Flt) : State := { s with flt := f s.flt }
def State.onBrd (s : State) (f : Brd → Brd) : State := { s with brd := f s.brd }
def State.onOut (s : State) (f : Out → Out) : State := { s with out := f s.out }
def State.setSt (s : State) (t : Nat) : State := { s with st := t }
def State.setFree (s : State) (n : Nat) : State := { s with freeCtr := n }
def State.setPending (s : State) (q : List Instr) : State := { s with pending := q }

end Sys2Proof.Machine
end

