-- ==== Sys2Proof/Machine/Operands.lean ====
section
/-!
DEFINITION. The operand forms: fields of the wire formats (Tables HIU-3, HIU-7, HIU-8, HIU-12, HAY-2, STM-1, STM-3 to
STM-5, FAB-3, GRS-4, MDW-3, UND-2, PRM-9, FAULT-3, SDR-10) and the functions that build them.
-/
namespace Sys2Proof.Machine

/-! Call Card (Table HIU-3): byte b is bit 8b. -/

def cardOp (c : Card) : Nat := bits c 0 8
def cardVersion (c : Card) : Nat := bits c 8 8
def cardFlags (c : Card) : Nat := bits c 16 16
def cardFlag (c : Card) (i : Nat) : Bool := bit c (16 + i)
def cardCallId (c : Card) : Nat := bits c 32 32
def cardTenant (c : Card) : Nat := bits c 64 12
def cardCompany (c : Card) : Nat := bits c 80 16
def cardModel (c : Card) : Nat := bits c 96 16
def cardCostume (c : Card) : Nat := bits c 112 14
def cardSeed (c : Card) : Nat := bits c 128 64
def cardPromptAddr (c : Card) : Nat := bits c 192 64
def cardPromptLen (c : Card) : Nat := bits c 256 20
def cardMaxNew (c : Card) : Nat := bits c 288 20
def cardDeadline (c : Card) : Nat := bits c 320 64
def cardPrefixIn (c : Card) : Nat := bits c 384 48
def cardPrefixOut (c : Card) : Nat := bits c 448 48
def cardTemp (c : Card) : Nat := bits c 512 32
def cardTopP (c : Card) : Nat := bits c 544 32
def cardTopK (c : Card) : Nat := bits c 576 11
def cardRing (c : Card) : Nat := bits c 592 2
def cardChorus (c : Card) : Nat := bits c 600 3
def cardScript (c : Card) : Nat := bits c 608 16
def cardStopSet (c : Card) : Nat := bits c 624 16
def cardStopTok (c : Card) (i : Nat) : Nat := bits c (640 + 24 * i) 24
def cardTtl (c : Card) : Nat := bits c 736 18
def cardFramePeriod (c : Card) : Nat := bits c 768 32
def flagUseCostume : Nat := 0
def flagRebind : Nat := 1
def flagExact : Nat := 2
def flagLogprob : Nat := 3
def flagNotifyAdmit : Nat := 4
def flagFrame : Nat := 5
def flagPrefixIn : Nat := 6
def flagPrefixOut : Nat := 7
def flagNoHash : Nat := 8

/-- Deadline used for ordering: absent counts as all ones (R169). -/
def cardOrder (c : Card) : Nat := if cardDeadline c = 0 then 2 ^ 64 - 1 else cardDeadline c

/-- Effective k (R336). -/
def cardK (c : Card) : Nat := if cardTopK c = 0 then 1024 else cardTopK c

/-- A non-zero reserved bit in a field the card's op uses (R69, Table HIU-5). -/
def cardReserved (c : Card) : Bool :=
  let op := cardOp c
  let z (lo w : Nat) : Bool := bits c lo w ≠ 0
  z 800 224 || z 76 4 ||
    (op = 1 && (z 25 7 || z 126 2 || z 276 12 || z 308 12 || z 432 16 || z 496 16 || z 587 5 || z 594 6 || z 603 5 ||
      z 754 14)) ||
    (op = 2 && z 276 12) || (op = 3 && z 754 14) || (op = 6 && (z 496 16 || z 25 7))

/-! Line record (Tables HIU-12 and HIU-7). -/

def lineCallId (l : Line) : Nat := bits l 0 32
def linePos (l : Line) : Nat := bits l 32 20
def lineFinal (l : Line) : Bool := bit l 53
def lineStop (l : Line) : Nat := bits l 54 4
def lineToken (l : Line) : Nat := bits l 64 24

/-- Build a Line with phase 0 (R72 to R75). -/
def mkLine (callId pos stop stopIdx tok logprob cue : Nat) (final draft lpv : Bool) : Line :=
  BitVec.ofNat 128 (place 0 32 callId + place 32 20 pos + place 53 1 (b2n final) + place 54 4 stop +
    place 58 1 (b2n draft) + place 59 1 (b2n lpv) + place 64 24 tok + place 88 8 stopIdx + place 96 16 logprob +
    place 112 16 cue)

/-- Set a single bit of a wire format. -/
def setBit {n : Nat} (v : BitVec n) (i : Nat) (b : Bool) : BitVec n :=
  BitVec.ofNat n (v.toNat - place i 1 (b2n (bit v i)) + place i 1 (b2n b))

/-! Notice (Tables HIU-8, HIU-9). -/

def noPos : Nat := 0xFFFFF

def mkNotice (callId fn kind status ring detail pos tenant count cue : Nat) : Notice :=
  BitVec.ofNat 256 (place 0 32 callId + place 32 7 fn + place 40 8 kind + place 48 8 status + place 56 2 ring +
    place 64 64 detail + place 128 20 pos + place 148 12 tenant + place 160 32 count + place 192 48 cue)

def noticeCallId (n : Notice) : Nat := bits n 0 32
def noticeKind (n : Notice) : Nat := bits n 40 8
def noticeStatus (n : Notice) : Nat := bits n 48 8

/-! Status codes (Table FAULT-5). -/

def stOk : Nat := 0x00
def stBudget : Nat := 0x01
def stDeadline : Nat := 0x02
def stCapacity : Nat := 0x03
def stBadCard : Nat := 0x04
def stAdapterAbsent : Nat := 0x05
def stRevoked : Nat := 0x06
def stPrefixUnknown : Nat := 0x07
def stDeadlineMissed : Nat := 0x08
def stCancelled : Nat := 0x09
def stPoison : Nat := 0x0A
def stCompanyLost : Nat := 0x0B
def stRestored : Nat := 0x0C
def stHeathExpired : Nat := 0x0D
def stAbsentPeer : Nat := 0x0E
def stDeadEnd : Nat := 0x0F
def stSealedDenied : Nat := 0x10
def stLostWork : Nat := 0x11
def stHostLost : Nat := 0x12
def stPending : Nat := 0x13
def stSwapRefused : Nat := 0x14

/-! Completion token (Table STM-1). -/

def tokBeat (t : Token) : Nat := bits t 0 14
def tokPoison (t : Token) : Bool := bit t 14
def tokFail (t : Token) : Bool := bit t 15
def tokCount (t : Token) : Nat := bits t 16 4
def tokDevice (t : Token) : Nat := bits t 20 10
def tokCue (t : Token) : Nat := bits t 32 16
def tokSource (t : Token) : Nat := bits t 48 8

/-- A token of a cue sheet with the marks and cue of the beat that sends it (R166, R167, R272). -/
def stampTok (t : Token) (poison fail : Bool) (cue src : Nat) : Token :=
  BitVec.ofNat 64 (place 0 14 (tokBeat t) + place 14 1 (b2n poison) + place 15 1 (b2n fail) + place 16 4 (tokCount t) +
    place 20 10 (tokDevice t) + place 32 16 cue + place 48 8 src)

/-! Cue List tokens (Tables STM-3 to STM-5), table messages (Table MDW-3), SNAP (Table UND-2). -/

def clKind (t : CueTok) : Nat := bits t 0 8

def mkHeader (reading company cue nDec nPf : Nat) : CueTok :=
  BitVec.ofNat 128 (1 + place 8 6 reading + place 16 16 company + place 32 48 cue + place 80 12 nDec + place 92 13 nPf)

def mkEnd (cue entries : Nat) : CueTok := BitVec.ofNat 128 (4 + place 32 48 cue + place 80 13 entries)

def mkCostume (c : Option (Nat × Nat)) : Nat :=
  match c with
  | some (i, v) => place 96 8 v + place 104 14 i + place 118 1 1
  | none => 0

def mkDec (depth slot pos tok : Nat) (trailing budgetStop : Bool) (cos : Option (Nat × Nat)) : CueTok :=
  BitVec.ofNat 128 (2 + place 8 3 depth + place 11 1 (b2n trailing) + place 12 1 (b2n budgetStop) + place 16 14 slot +
    place 32 20 pos + place 64 24 (if trailing then 0 else tok) + mkCostume cos)

def mkPf (slot start toks : Nat) (last : Bool) (cos : Option (Nat × Nat)) : CueTok :=
  BitVec.ofNat 128 (3 + place 8 1 (b2n last) + place 16 14 slot + place 32 20 start + place 64 17 toks + mkCostume cos)

def clSlot (t : CueTok) : Nat := bits t 16 14
def clPos (t : CueTok) : Nat := bits t 32 20
def clDepth (t : CueTok) : Nat := bits t 8 3
def clTrailing (t : CueTok) : Bool := bit t 11
def clToks (t : CueTok) : Nat := bits t 64 17
def clLast (t : CueTok) : Bool := bit t 8
def clCostume (t : CueTok) : Bool := bit t 118
def clHdrCompany (t : CueTok) : Nat := bits t 16 16
def clHdrCue (t : CueTok) : Nat := bits t 32 48
def clHdrReading (t : CueTok) : Nat := bits t 8 6
def clHdrDec (t : CueTok) : Nat := bits t 80 12
def clHdrPf (t : CueTok) : Nat := bits t 92 13
def clEndEntries (t : CueTok) : Nat := bits t 80 13

def mkBlockSet (slot ord blk : Nat) (shared : Bool) (cue : Nat) : CueTok :=
  BitVec.ofNat 128 (0x11 + place 16 14 slot + place 32 14 ord + place 64 22 blk + place 86 1 (b2n shared) +
    place 112 16 cue)

def mkTableClear (slot cue : Nat) : CueTok := BitVec.ofNat 128 (0x12 + place 16 14 slot + place 112 16 cue)

def mkSnap (triggers company cue seq : Nat) : CueTok :=
  BitVec.ofNat 128 (0x13 + place 8 5 triggers + place 16 16 company + place 32 48 cue + place 80 32 seq)

def snapCue (t : CueTok) : Nat := bits t 32 48
def snapSeqOf (t : CueTok) : Nat := bits t 80 32
def snapScene (t : CueTok) : Bool := bit t 12

/-- Block table entry (R471). -/
def mkEntry (blk : Nat) (shared : Bool) : Nat := place 0 22 blk + place 22 1 (b2n shared) + 2 ^ 31

/-! Step record (Table PRM-9). -/

def mkStep (slot cue pos accepted stop : Nat) (guesses : List Nat) (poison fail : Bool) (tok stopIdx status state : Nat) :
    StepRec :=
  BitVec.ofNat 256 (place 0 14 slot + place 16 16 cue + place 32 20 pos + place 52 3 accepted +
    place 55 3 guesses.length + place 58 4 stop + place 62 1 (b2n poison) + place 63 1 (b2n fail) + place 64 24 tok +
    place 88 8 stopIdx + place 96 8 status + place 128 24 (guesses.getD 0 0xFFFFFF) +
    place 152 24 (guesses.getD 1 0xFFFFFF) + place 176 24 (guesses.getD 2 0xFFFFFF) +
    place 200 24 (guesses.getD 3 0xFFFFFF) + place 224 16 state)

def stepSlot (r : StepRec) : Nat := bits r 0 14
def stepCue (r : StepRec) : Nat := bits r 16 16
def stepPos (r : StepRec) : Nat := bits r 32 20
def stepAccepted (r : StepRec) : Nat := bits r 52 3
def stepGuesses (r : StepRec) : List Nat := (List.range (bits r 55 3)).map fun i => bits r (128 + 24 * i) 24
def stepStop (r : StepRec) : Nat := bits r 58 4
def stepPoison (r : StepRec) : Bool := bit r 62
def stepFail (r : StepRec) : Bool := bit r 63
def stepToken (r : StepRec) : Nat := bits r 64 24
def stepStopIdx (r : StepRec) : Nat := bits r 88 8
def stepStatus (r : StepRec) : Nat := bits r 96 8
def stepState (r : StepRec) : Nat := bits r 224 16

/-- Reserved bits of a step record (R399). -/
def stepReserved (r : StepRec) : Bool := bits r 14 2 ≠ 0 || bits r 104 24 ≠ 0 || bits r 240 16 ≠ 0

/-! Haywain descriptor (Table HAY-2). -/

def dOp (d : Desc) : Nat := bits d 0 8
def dIrq (d : Desc) : Bool := bit d 8
def dLen (d : Desc) : Nat := bits d 32 32
def dHost (d : Desc) : Nat := bits d 64 64
def dDev (d : Desc) : Nat := bits d 128 64
def dTag (d : Desc) : Nat := bits d 192 32

/-! Packet header (Table FAB-3). -/

def pKind (p : Packet) : Nat := bits p.hdr 0 8
def pVc (p : Packet) : Nat := bits p.hdr 8 2
def pSub (p : Packet) : Nat := bits p.hdr 10 1
def pDst (p : Packet) : Nat := bits p.hdr 12 10
def pSrc (p : Packet) : Nat := bits p.hdr 22 10
def pEpoch (p : Packet) : Nat := bits p.hdr 32 8
def pLen (p : Packet) : Nat := bits p.hdr 40 13
def pDirs (p : Packet) : Nat := bits p.hdr 53 3
def pTag (p : Packet) : Nat := bits p.hdr 64 16

def mkHdr (kind vc sub dst src epoch len dirs tag cue : Nat) (poison : Bool) : BitVec 128 :=
  BitVec.ofNat 128 (place 0 8 kind + place 8 2 vc + place 10 1 sub + place 11 1 (b2n poison) + place 12 10 dst +
    place 22 10 src + place 32 8 epoch + place 40 13 len + place 53 3 dirs + place 64 16 tag + place 80 16 cue)

/-- Virtual channel of each packet kind (Table FAB-8); none for a reserved kind. -/
def kindVc (k : Nat) : Option Nat :=
  if 0x10 ≤ k ∧ k ≤ 0x14 then some 0
  else if 0x20 ≤ k ∧ k ≤ 0x26 then some 1
  else if 0x30 ≤ k ∧ k ≤ 0x36 then some 2
  else if 0x40 ≤ k ∧ k ≤ 0x43 then some 3
  else none

/-! Gorse context (Table GRS-4). -/

def mkCtx (key : List Nat) (base seed source : Nat) : GCtx :=
  BitVec.ofNat 256 (place 0 32 (key.getD 0 0) + place 32 32 (key.getD 1 0) + place 64 32 (key.getD 2 0) +
    place 96 32 (key.getD 3 0) + place 128 32 base + place 160 64 seed + place 224 8 source)

def ctxKey (c : GCtx) : List Nat := [bits c 0 32, bits c 32 32, bits c 64 32, bits c 96 32]
def ctxBase (c : GCtx) : Nat := bits c 128 32
def ctxSeed (c : GCtx) : Nat := bits c 160 64

/-! Fault record (Table FAULT-3) and audit record (Table SDR-10). -/

def mkFault (code cls block inst cue st count detail seq : Nat) : BitVec 256 :=
  BitVec.ofNat 256 (place 0 16 code + place 16 3 cls + place 24 8 block + place 32 16 inst + place 48 48 cue +
    place 96 64 st + place 160 16 count + place 192 32 detail + place 224 32 seq)

def frCode (r : BitVec 256) : Nat := bits r 0 16
def frInst (r : BitVec 256) : Nat := bits r 32 16
def frCue (r : BitVec 256) : Nat := bits r 48 48
def frCount (r : BitVec 256) : Nat := bits r 160 16
def frDetail (r : BitVec 256) : Nat := bits r 192 32

/-- The record with its count one higher (R824, R769: the count sits at a different place in an audit record). -/
def addAt (r : BitVec 256) (lo : Nat) : BitVec 256 := BitVec.ofNat 256 (r.toNat + 2 ^ lo)

def mkAudit (code cue st fn : Nat) (spdm : Bool) (status detail seq : Nat) : BitVec 256 :=
  BitVec.ofNat 256 (place 0 16 code + place 16 16 1 + place 32 48 cue + place 96 64 st + place 160 7 fn +
    place 167 1 (b2n spdm) + place 168 8 status + place 192 32 detail + place 224 32 seq)

def auCount (r : BitVec 256) : Nat := bits r 16 16

/-- Same code, function, status and detail, in the same cue (R769). -/
def auSame (a b : BitVec 256) : Bool :=
  bits a 0 16 = bits b 0 16 && bits a 160 16 = bits b 160 16 && bits a 192 32 = bits b 192 32 &&
    bits a 32 48 = bits b 32 48

/-- The bytes of a wire format, in ascending order (R5). -/
def wireBytes {n : Nat} (v : BitVec n) : List Byte := leBytes (n / 8) v.toNat

/-- Little-endian field of `n` bytes at offset `o`. -/
def fieldAt (bs : List Byte) (o n : Nat) : Nat := ofLeBytes ((bs.drop o).take n)

end Sys2Proof.Machine
end

