-- ==== Sys2Proof/Machine/Queries.lean ====
section
/-!
DEFINITION. What the state tells without changing it: register fields, the cue in hand, the device's Company, the topology
record and routes, the block pool, tenants, and the Stageplot sets. View.lean reads registers through these.
-/
namespace Sys2Proof.Machine

/-! Register fields (R6). -/

/-- Current value of a field; for an RWS field, its shadow value. -/
def get (s : State) (f : Fld) : Nat := s.regs.flds.getD f.key f.rst

/-- Value in force of an RWS field (R650). -/
def getA (s : State) (f : Fld) : Nat := s.regs.act.getD f.key f.rst

def isSet (s : State) (f : Fld) : Bool := get s f ≠ 0

/-! Cue instants (R227, R230). -/

/-- L(n), under the anchor that holds for cue n. -/
def launchSt (s : State) (n : Nat) : Nat :=
  let base := s.cue.anchorSt + n * get s Fld.cuePeriodNsV - s.cue.anchorCue * get s Fld.cuePeriodNsV
  match s.cue.pendAnchor with
  | some (ac, ast, p) => if ac ≤ n then ast + (n - ac) * p else base
  | none => base

/-- Stage Time that deadlines, Frame periods and Heath expiry are judged against at L(n): in a replay the recorded one
(R729). -/
def judgeSt (s : State) (n : Nat) : Nat :=
  match s.pbk.cues.find? (fun c => decide (c.own ≤ n)) with
  | some c => c.launch + (n - c.own) * c.period
  | none => launchSt s n

/-- The cue in progress. -/
def cueNum (s : State) : Nat := s.cue.num

/-- The next cue to launch (R227, R810). -/
def nextCue (s : State) : Nat := if s.cue.launched then s.cue.num + 1 else s.cue.first

/-! The device and its Company. -/

/-- BOOTED, and the set in force. -/
def booted (s : State) : Bool := get s Fld.hiuBootPhase = 4

def sealedMode (s : State) : Bool := isSet s Fld.sdrStatusSealed

def selfDev (s : State) : Nat := get s Fld.fabSelfDevice

/-- This device is a front-of-house lead (R20). -/
def isLead (s : State) : Bool := match s.spl.active with | some p => p.isLead | none => false

def ownCompany (s : State) : Option CompanyInfo := s.spl.active.bind Plot.own

def ownId (s : State) : Nat := match ownCompany s with | some c => c.id | none => 0xFFFF

def memberDevs (s : State) : List Nat := match ownCompany s with | some c => c.members.map (·.dev) | none => []

/-- Members of the Company other than this device. -/
def otherMembers (s : State) : List Nat := (memberDevs s).filter fun d => d ≠ selfDev s

/-- The lead of this device's Company. -/
def leadDev (s : State) : Option Nat := (ownCompany s).bind CompanyInfo.lead

/-- Device is at the last pipeline stage (R330). -/
def atLast (s : State) : Bool := isSet s Fld.prmShardGeomLast

/-! Topology and routes (R509, R521). -/

def topoOf (s : State) (d : Nat) : Topo := s.fab.topo.getD d Topo.unknown

def houseSize (s : State) : Nat := 128 * get s Fld.fabSelfRacks

/-- Coordinates of a device number (R509). -/
def coords (d : Nat) : Nat × Nat × Nat := (d / 64, d % 64 / 8, d % 8)

def devAt (p : Nat × Nat × Nat) : Nat := p.1 * 64 + p.2.1 * 8 + p.2.2

/-- Moves along one ring from `a` to `b`: the coordinates visited. -/
def ringWalk (ring : Nat) (minus : Bool) (b : Nat) : Nat → Nat → List Nat
  | 0, _ => []
  | fuel + 1, a =>
    if a = b then []
    else
      let a' := if minus then (a + ring - 1) % ring else (a + 1) % ring
      a' :: ringWalk ring minus b fuel a'

/-- Devices a packet passes after its source for one choice of dirs (R521). -/
def pathOf (racks me dst dirs : Nat) : List Nat :=
  let m := coords me
  let t := coords dst
  let xs := ringWalk (2 * racks) (dirs % 2 = 1) t.1 (2 * racks) m.1
  let ys := ringWalk 8 (dirs / 2 % 2 = 1) t.2.1 8 m.2.1
  let zs := ringWalk 8 (dirs / 4 % 2 = 1) t.2.2 8 m.2.2
  xs.map (fun x => devAt (x, m.2.1, m.2.2)) ++ ys.map (fun y => devAt (t.1, y, m.2.2)) ++
    zs.map (fun z => devAt (t.1, t.2.1, z))

/-- A route between two devices by this device's topology record (R521): dirs and hops, or none. Ties go to plus. -/
def routeFrom (s : State) (me dst : Nat) : Option (Nat × Nat) :=
  let racks := get s Fld.fabSelfRacks
  (List.range 8).foldl (fun best d =>
    let p := pathOf racks me dst d
    if p.all (fun v => (topoOf s v).state = 1) then
      match best with
      | none => some (d, p.length)
      | some (_, h) => if p.length < h then some (d, p.length) else best
    else best) none

/-- The route entry of this device. -/
def route (s : State) (dst : Nat) : Option (Nat × Nat) := routeFrom s (selfDev s) dst

def reachable (s : State) (dst : Nat) : Bool := dst < houseSize s && (route s dst).isSome

/-! Power domains (R604 to R606). -/

def domState (s : State) (d : Nat) : Nat := get s (Fld.lgtDomStatusState d)
/-- 0 Settled, 1 FALLING, 2 RISING. -/
def domPhase (s : State) (d : Nat) : Nat := get s (Fld.lgtDomStatusPhase d)

/-- The domain is Lit. -/
def domLit (s : State) (d : Nat) : Bool := domState s d = 0 && domPhase s d = 0

/-! The pool (R468, R489 to R491). -/

def poolSize (s : State) : Nat := match s.spl.active with | some p => p.poolBlocks | none => 0

def heldByCall (s : State) (b : Nat) : Bool := s.stm.board.any fun c => c.blocks.any fun x => x.1 = b

def heldByHandle (s : State) (b : Nat) : Bool := s.mdw.handles.any fun h => decide (b ∈ h.blocks)

/-- A cached block (R489). -/
def isCached (s : State) (b : Nat) (k : Blk) : Bool := k.key.isSome && !heldByCall s b && !heldByHandle s b

def cachedBlocks (s : State) : List (Nat × Blk) := s.mdw.blocks.filter fun p => isCached s p.1 p.2

def freeBlocks (s : State) : Nat := poolSize s - s.mdw.blocks.length

/-- Blocks reserved and not drawn. -/
def reservedBlocks (s : State) : Nat := (s.stm.board.map (·.resv)).sum

/-- Blocks counted for a tenant (R127, R483): reservations, blocks of its live Calls, blocks under its handles. -/
def tenBlocks (s : State) (t : Nat) : Nat :=
  ((s.stm.board.filter (fun c => c.tenant = t)).map (·.resv)).sum +
    (s.mdw.blocks.filter fun p =>
      (s.stm.board.any fun c => c.tenant = t && c.seq = p.2.drawer) ||
        (s.mdw.handles.any fun h => h.tenant = t && decide (p.1 ∈ h.blocks))).length

/-- Live Calls of a tenant (R126). -/
def tenLive (s : State) (t : Nat) : Nat := (s.stm.board.filter (fun c => c.tenant = t)).length

/-! Tenants, backlog and budgets (R124, R134, R186). -/

def levelOf (s : State) (t : Nat) : Int := s.box.levels.getD t 0

/-- Prompt tokens among the `k` tokens of a Call from position `p` on: all but a last sampled token that a CONTINUE's span starts
with (R42). -/
def promptToks (c : Call) (p k : Nat) : Nat :=
  match c.fed with | some f => if p ≤ f ∧ f < p + k then k - 1 else k | none => k

/-- Admitted prompt tokens not yet prefilled (R134, BOX_BACKLOG). -/
def backlog (s : State) : Nat :=
  ((s.stm.board.filter fun c => c.ending.isNone).map fun c => promptToks c c.start c.pend.length +
    (c.listed.map fun l => promptToks c (l.start + l.done) (l.toks - l.done)).sum +
    ((c.ops.filter (fun o => o.op = 2)).map (fun o => o.toks.length)).sum).sum

/-- The latest report of a member for cue `n` or before. -/
def reportOf (s : State) (n dev : Nat) : Option Report :=
  (sortBy (·.cue) (s.stm.reports.filter fun r => r.dev = dev && decide (r.cue ≤ n))).getLast?

def ownMembers (s : State) : List Member := match ownCompany s with | some c => c.members | none => []

/-- The minimum budget of a stage (R186); a member that never reported counts at 0. -/
def stageBudget (s : State) (n stage : Nat) : Nat :=
  let bs := ((ownMembers s).filter (fun m => m.stage = stage)).map fun m =>
    match reportOf s n m.dev with | some r => r.uj | none => 0
  bs.foldl min (bs.headD 0)

/-! The Stageplot sets (R633, R647, Table SPL-4). -/

/-- Ids of Table SPL-4. -/
def sectionIds : List Nat := [0x01, 0x02, 0x03, 0x08, 0x09, 0x0A, 0x0B, 0x0C, 0x10, 0x11, 0x12, 0x13, 0x14, 0x15]

/-- Class of a section: 0 S, 1 D, 2 P. -/
def sectionClass (id : Nat) : Nat := if id < 8 then 2 else if id < 0x10 then 1 else 0

/-- The RWS field stored under a key, if it is one. -/
def rwsOf (key : Nat) : Option Fld :=
  let off := key / 32
  ((blockFields (off % 0x10000000)).find? fun f => f.lo = key % 32 && f.acc = .rws).map fun f => { f with off := off }

/-- Section an RWS field belongs to. -/
def rwsSection (off : Nat) : Nat :=
  let o := off % 0x10000000
  if o = 0x100040 then 0x13
  else if 0x100104 ≤ o ∧ o ≤ 0x10010C then 0x11
  else if o < 0x300000 then 0x10
  else if o < 0x400000 then 0x14
  else if o < 0xF00000 then 0x10
  else if o < 0x1000000 then 0x14
  else if o < 0x1100000 then 0x13
  else 0x15

/-- Keys at which shadow and active values differ. -/
def rwsDiffer (s : State) : List Nat :=
  ((s.regs.flds ++ s.regs.act).map Prod.fst).dedup.filter fun k =>
    match rwsOf k with
    | some f => get s f ≠ getA s f
    | none => false

def sectWords (p : Plot) (id : Nat) : List Nat := ((p.words.find? fun x => x.1 = id).map Prod.snd).getD []

/-- Sections in which shadow and active set differ (SPL_DIFF_MAP). The class S sections are compared by their settings. -/
def sectsDiffer (s : State) : List Nat :=
  match s.spl.active, s.spl.shadow with
  | some a, some b =>
    let ks := (rwsDiffer s).map fun k => rwsSection (k / 32)
    sectionIds.filter fun id =>
      if sectionClass id ≠ 0 then sectWords a id ≠ sectWords b id
      else decide (id ∈ ks) || (id = 0x12 && a.prefs ≠ b.prefs) || (id = 0x15 && a.targets ≠ b.targets)
  | none, some _ => sectionIds
  | _, none => []

/-- Bitmap of section ids. -/
def sectMap (ids : List Nat) : Nat := (ids.dedup.map fun i => 2 ^ i).sum

def sdrState (s : State) : Nat := get s Fld.sdrStatusState

/-- The device is in its certified configuration (R760, Table SDR-7). -/
def certified (s : State) : Bool :=
  Config.certifiedPart && Config.certifiedBank && sealedMode s && sdrState s ≠ 2 &&
    !(s.spl.active.any fun p => p.nonApproved || (isSet s Fld.pbkCtlEn && !isSet s Fld.pbkCtlDigest))

/-- The field that stores what register field `f` shows: TEN_LIMITS by tenant (R159), stage costs by stage (R216), and
BOX_INGRESS_WM as the watermark of Swale 0 (R149, R583). -/
def stored (s : State) (f : Fld) : Fld :=
  if f.off = 0x100104 ∨ f.off = 0x100108 ∨ f.off = 0x10010C then f.ix (get s Fld.boxTenIndexTenant)
  else if f.off = 0x200044 ∨ f.off = 0x200048 ∨ f.off = 0x20004C then f.ix (get s Fld.stmCostIndexStage)
  else if f.off = 0x100040 then (if f.lo = 0 then Fld.swlWmHigh 0 else Fld.swlWmLow 0)
  else f

/-- The active value of the RWS register at a BAR0 offset, other fields 0 (R650). -/
def activeWord (s : State) (off : Nat) : Nat :=
  (blockFields off).foldl (fun a f => if f.acc = .rws then a + getA s (stored s f) * 2 ^ f.lo else a) 0

/-- The word SPL_RB selects, if the section has it (R651). -/
def rbWord (s : State) : Option Nat :=
  let set? := if isSet s Fld.splRbSectShadow then s.spl.shadow else s.spl.active
  match set? with
  | none => none
  | some p =>
    let ws := ((p.words.find? (fun x => x.1 = get s Fld.splRbSectSect)).map Prod.snd).getD []
    ws[get s Fld.splRbOffV / 4]?

end Sys2Proof.Machine
end

