-- ==== Sys2Proof/Machine/View.lean ====
section
/-!
DEFINITION. What a register read returns (R6, R848, R852 to R854): the fields the state stores, and those it derives. Two reads
have an effect of their own and are commands (CUE_NOW_READ, RB_DATA_READ).
-/
namespace Sys2Proof.Machine

/-- Tenant that BOX_TEN_INDEX selects, and the Call counts of its window (R159). -/
def viewTenant (s : State) (f : Fld) : Nat :=
  let t := get s Fld.boxTenIndexTenant
  if f = Fld.boxTenLevelV then ((levelOf s t) % 2 ^ 32).toNat
  else if f = Fld.boxTenLiveLive then tenLive s t
  else if f = Fld.boxTenLiveBlocks then tenBlocks s t
  else (s.stm.board.filter fun c => c.tenant = t && c.phase = .held).length

/-- MDW_POOL_STATUS, valid on a lead. -/
def viewPool (s : State) (f : Fld) : Nat :=
  if !isLead s then 0
  else if f = Fld.mdwFreeV then freeBlocks s
  else if f = Fld.mdwReservedV then reservedBlocks s
  else if f = Fld.mdwCachedV then (cachedBlocks s).length
  else (s.mdw.blocks.filter fun p => heldByHandle s p.1).length

/-- FAB_TOPO_DATA and FAB_ROUTE of the device FAB_TOPO_INDEX selects; 0 outside the House. -/
def viewTopo (s : State) (f : Fld) : Nat :=
  let d := get s Fld.fabTopoIndexDevice
  if houseSize s ≤ d then 0
  else
    let t := topoOf s d
    if f = Fld.fabTopoDataState then t.state
    else if f = Fld.fabTopoDataEpoch then t.epoch
    else if f = Fld.fabTopoDataLinks then t.links
    else if f = Fld.fabTopoDataLost then b2n t.lost
    else
      match route s d with
      | none => 0
      | some (dirs, hops) =>
        if f = Fld.fabRouteDirs then dirs else if f = Fld.fabRouteReach then 1 else hops

/-- Word `i` of a 256-bit record of a ring whose index is the record's seq modulo the ring's size. -/
def ringWordOf (rs : List (BitVec 256)) (size ix i : Nat) : Nat :=
  match rs.find? fun r => bits r 224 32 % size = ix with
  | some r => bits r (32 * i) 32
  | none => 0

/-- SDR fields of the slot, of the part and of the audit store. -/
def viewSdr (s : State) (f : Fld) : Nat :=
  if f = Fld.sdrStatusCertified then b2n (certified s)
  else if f = Fld.sdrTkeyResultValid then b2n (s.sdr.tkeys.get? (get s Fld.sdrTkeyTenantTenant)).isSome
  else if f = Fld.sdrTkeyResultKcv then
    match s.sdr.tkeys.get? (get s Fld.sdrTkeyTenantTenant) with
    | some k => Config.kcv k % 2 ^ 24
    | none => 0
  else ringWordOf s.sdr.audit 1024 (get s Fld.sdrAuditIndexIndex) ((f.off - 0x1500080) / 4)

/-- Current value of a field as a read returns it. -/
def viewField (s : State) (f : Fld) : Nat :=
  if 0x4000000 ≤ f.off ∧ f.off < 0x10000000 ∧ (f.off - 0x4000000) % 0x4000 = 0x2008 then
    (s.hiu.callMap.filter fun e => e.fn = (f.off - 0x4000000) / 0x4000).length
  else if f = Fld.hiuCallmapUsed then s.hiu.callMap.length
  else if f = Fld.boxBacklogV then backlog s
  else if 0x100110 ≤ f.off ∧ f.off ≤ 0x100118 then viewTenant s f
  else if f = Fld.stmBudgetV then stageBudget s (nextCue s) (get s Fld.stmCostIndexStage)
  else if f = Fld.cueNowLoV then s.st
  else if f = Fld.cueNowHiV then s.cue.nowHi
  else if f = Fld.cueNumberLoV then cueNum s
  else if f = Fld.cueNumberHiV then cueNum s / 2 ^ 32
  else if 0xD00010 ≤ f.off ∧ f.off ≤ 0xD0001C then viewPool s f
  else if f.off = 0xF00844 ∨ f.off = 0xF00848 then viewTopo s f
  else if f = Fld.splSwapStatusState ∧ get s f = 2 ∧ s.spl.swapEnd ≤ s.st then (if s.spl.swapAt.isSome then 1 else 3)
  else if f = Fld.stmCastStatusLitPairs then ((List.range 48).filter (domLit s)).length
  else if f = Fld.splDiffMapV then sectMap (sectsDiffer s)
  else if f = Fld.splActiveRegDataV then activeWord s (get s Fld.splActiveRegAddrV)
  else if f = Fld.splRbDataV then (rbWord s).getD 0
  else if f = Fld.sdrStatusCertified ∨ f = Fld.sdrTkeyResultValid ∨ f = Fld.sdrTkeyResultKcv then viewSdr s f
  else if 0x1500080 ≤ f.off ∧ f.off < 0x15000A0 then viewSdr s f
  else if 0x1700060 ≤ f.off ∧ f.off < 0x1700080 then
    ringWordOf s.flt.log 256 (get s Fld.fltLogIndexIndex) ((f.off - 0x1700060) / 4)
  else get s (stored s f)

/-- A register read by function `fn` at an offset: each field's value in its place, WO fields, reserved bits and unassigned
offsets 0 (R6, R852, R853). -/
def readReg (s : State) (fn off : Nat) : Nat :=
  ((fieldsAt fn off).map fun f => if f.acc = .wo then 0 else (viewField s f % 2 ^ f.width) * 2 ^ f.lo).sum

end Sys2Proof.Machine
end

