-- ==== Sys2Proof/Machine/Ops.lean ====
section
/-!
DEFINITION. The named operations the meanings share: register fields, free values, cue instants, memory, Notices, fault
records, audit records, Prompt Book records, routing and packet sending.
-/
namespace Sys2Proof.Machine

/-! Register fields (R6, R7) and free values. -/

/-- Set a field, cut to its width. -/
def set (s : State) (f : Fld) (v : Nat) : State :=
  s.onRegs fun r => { r with flds := r.flds.setD f.key f.rst (v % 2 ^ f.width) }

/-- Set the active value of an RWS field. -/
def setA (s : State) (f : Fld) (v : Nat) : State :=
  s.onRegs fun r => { r with act := r.act.setD f.key f.rst (v % 2 ^ f.width) }

/-- Saturating count (R7). -/
def inc (s : State) (f : Fld) (k : Nat) : State := set s f (satAdd f.width (get s f) k)

/-- The next free value (log entry 3). -/
def fresh (s : State) : Nat := Config.freeNat s.freeCtr

def advance (s : State) : State := s.setFree (s.freeCtr + 1)

/-! Memory: Loft and Meadow as one space of bytes (R251, R464); a byte nothing has written reads 0 (R887). -/

def loftEnd : Nat := 96 * 0x600000
def weightBase : Nat := 0x100000000
def meadowBase : Nat := 0x1000000000
def meadowEnd : Nat := 0x1C00000000

/-- The canonical form of memory: addresses strictly rising, no listed byte equal to what an unlisted one reads as. -/
def Memory.wf (m : List Host.Cell) : Bool := AMap.wf (V := Byte) m 0

def readByte (s : State) (a : Nat) : Byte := AMap.getD (V := Byte) s.mdw.mem a 0

/-- A write replaces both the data and the poison tag of the word (R833). -/
def writeByte (s : State) (a : Nat) (b : Byte) : State :=
  s.onMdw fun m => { m with mem := AMap.setD (V := Byte) m.mem a 0 b, poison := m.poison.setD (a / 8) 0 0 }

def readBytes (s : State) (a n : Nat) : List Byte := (List.range n).map fun i => readByte s (a + i)

def writeBytes (s : State) (a : Nat) : List Byte → State
  | [] => s
  | b :: r => writeBytes (writeByte s a b) (a + 1) r

def readLe (s : State) (a n : Nat) : Nat := ofLeBytes (readBytes s a n)

def writeLe (s : State) (a n v : Nat) : State := writeBytes s a (leBytes n v)

/-- Any word of the range carries a poison tag (R832, R833). -/
def poisoned (s : State) (a n : Nat) : Bool := s.mdw.poison.any fun p => decide (a / 8 ≤ p.1) && decide (p.1 * 8 < a + n)

def setPoison (s : State) (a : Nat) : State := s.onMdw fun m => { m with poison := m.poison.setD (a / 8) 0 1 }

/-- The weight view's physical address (R252). -/
def weightPhys (a : Nat) : Nat :=
  let o := a - weightBase
  let ln := o / 4096
  ln % 96 * 0x600000 + 0x20000 + (ln / 96 * 4096 + o % 4096)

/-- A device address as the physical byte it names (R251 to R253). -/
def physOf (a : Nat) : Nat := if weightBase ≤ a ∧ a < meadowBase then weightPhys a else a

/-- W granules in force. -/
def wGran (s : State) : Nat := get s Fld.plyLoftPartW

def inWeightView (s : State) (a n : Nat) : Bool :=
  decide (weightBase ≤ a) && decide (a + n ≤ weightBase + 96 * wGran s * 0x10000)

/-! Notices and interrupts. -/

/-- A DEVICE Notice enters the DEVICE store, or is dropped and counted (R67, R826). -/
def deviceNotice (s : State) (n : Notice) : State :=
  if s.hiu.devStore.length < 256 then s.onHiu fun h => { h with devStore := h.devStore ++ [n] }
  else inc s Fld.fltStatusNoticeDrop 1

/-! Fault records (22). -/

/-- Class of a code of Table FAULT-2; none for a code that is never raised (R822). -/
def faultClass (c : Nat) : Option Nat :=
  if c = 0x1202 ∨ c = 0x1203 then some 0
  else if c = 0x0404 ∨ c = 0x0801 ∨ c = 0x0A01 then some 1
  else if c ∈ [0x0201, 0x0202, 0x0203, 0x0401, 0x0402, 0x0403, 0x0405, 0x0501, 0x0502, 0x0802, 0x0803, 0x0A04, 0x0B01,
    0x0B02, 0x0B03, 0x0E01, 0x1101] then some 2
  else if c ∈ [0x0301, 0x0303, 0x0601, 0x0A02, 0x0A03, 0x0A05, 0x0C01, 0x1102, 0x1103, 0x1104] then some 3
  else if c ∈ [0x0302, 0x0804, 0x0C02, 0x1001, 0x1201] then some 4
  else none

/-- FAULT_N follows FATAL and, with PIN_DEGRADED, DEGRADED (R827, R828). -/
def faultPin (s : State) : State :=
  let p := isSet s Fld.fltStatusFatal || (isSet s Fld.fltCtlPinDegraded && isSet s Fld.fltStatusDegraded)
  (set s Fld.fltStatusPin (b2n p)).onBrd fun b => { b with faultPin := p }

/-- Record layout (Table PBK-2). -/
def mkBook (cue kind : Nat) (ten : Option Nat) (st seq payload : Nat) : BookRec :=
  BitVec.ofNat 512 (place 0 8 kind + place 8 1 (b2n ten.isNone) + place 16 12 (ten.getD 0) + place 32 48 cue +
    place 96 32 seq + place 128 64 st + place 192 320 payload)

/-- Prompt Book record of cue `cue` (R712, R713, Table PBK-2): kind, tenant or house frame, payload as a number. A full capture Swale
displaces its oldest record, which clears REPLAYABLE (R582, R721). -/
def bookAt (s : State) (cue kind : Nat) (ten : Option Nat) (payload : Nat) : State :=
  if isSet s Fld.pbkCtlEn && (isLead s || kind = 0x0D) then
    let r := mkBook cue kind ten s.st (get s Fld.pbkSeqV) payload
    let s := set s Fld.pbkSeqV (get s Fld.pbkSeqV + 1)
    if isSet s (Fld.swlStatusState 0xA1) then
      (set (inc s (Fld.swlLostV 0xA1) 1) Fld.pbkStatusReplayable 0).onPbk fun b => { b with lost := b.lost + 1 }
    else if s.pbk.recs.length < 16384 then s.onPbk fun b => { b with recs := b.recs ++ [r] }
    else
      let s := inc s (Fld.swlLostV 0xA1) 1
      (set s Fld.pbkStatusReplayable 0).onPbk fun b => { b with recs := b.recs.drop 1 ++ [r], lost := b.lost + 1 }
  else s

/-- A record of the cue in progress. -/
def book (s : State) (kind : Nat) (ten : Option Nat) (payload : Nat) : State := bookAt s (cueNum s) kind ten payload

/-- A record enters the log or folds into the newest (R823, R824). The second component tells a new record. -/
def logFault (s : State) (code cls inst detail : Nat) : State × Bool :=
  let fold := match s.flt.log.getLast? with
    | some r => frCode r = code && frInst r = inst && frDetail r = detail && frCue r = cueNum s && frCount r < 65535
    | none => false
  if fold then
    (s.onFlt fun f => { f with log := f.log.dropLast ++ (f.log.getLast?.map (addAt · 160)).toList }, false)
  else
    let r := mkFault code cls (code / 256) inst (cueNum s) s.st 1 detail (get s Fld.fltLogNextV)
    ((set s Fld.fltLogNextV (get s Fld.fltLogNextV + 1)).onFlt fun f => { f with log := keepLast 256 (f.log ++ [r]) }, true)

/-- The DEVICE Notice of a record (R826). -/
def faultNotice (s : State) (code cls detail : Nat) : State :=
  if isSet s Fld.fltCtlNoticeEn then
    deviceNotice s (mkNotice 0xFFFFFFFF 0 6 stOk 0 (code + cls * 2 ^ 16 + detail * 2 ^ 32) noPos 0 1 (cueNum s))
  else s

/-- The EARLY_WARNING record and its signal to the Understudy (R831, R668). -/
def earlyWarning (s : State) (code cond : Nat) : State :=
  let d := code + cond * 2 ^ 16
  let (s, new) := logFault s 0x1203 0 0xFFFF d
  let s := set (inc s Fld.fltCountNoteV 1) Fld.fltStatusEw 1
  let s := s.onFlt fun f => { f with earlyWarn := true }
  if new then faultNotice s 0x1203 0 d else s

/-! The Ledger's rewrite order (R774, R776, R778, R779). -/

/-- Logical blocks and the pool's bounds (R773, R774). -/
def logicalBlocks : Nat := 2706

/-- The pool block a logical block is mapped to; before its first rewrite, the one in the same place (log entry 26). -/
def poolOf (s : State) (lb : Nat) : Nat := s.ldg.map.getD lb (lb + 32)

/-- One byte's 8 steps of CRC-32 (log entry 166). -/
def crc32Bit : Nat → Nat → Nat
  | 0, c => c
  | n + 1, c => crc32Bit n (if c % 2 = 1 then Nat.xor (c / 2) 0xEDB88320 else c / 2)

/-- CRC-32 of a run of bytes. -/
def crc32 (bs : List Byte) : Nat :=
  Nat.xor (bs.foldl (fun c b => crc32Bit 8 (Nat.xor c b.toNat)) 0xFFFFFFFF) 0xFFFFFFFF

/-- A block header or completion mark (Table LDG-2). -/
def spare (lb seq : Nat) : List Byte :=
  let b := leBytes 4 lb ++ leBytes 8 seq
  b ++ leBytes 4 (crc32 b)

/-- Logical block and map_seq of a header. -/
def PBlk.logical (b : PBlk) : Nat := ofLeBytes (b.head.take 2) % 4096
def PBlk.mapSeq (b : PBlk) : Nat := ofLeBytes ((b.head.drop 4).take 8)

/-- The bytes are a header or mark that passes its CRC. -/
def spareOk (bs : List Byte) : Bool := bs.length = 16 && ofLeBytes (bs.drop 12) = crc32 (bs.take 12) % 2 ^ 32

/-- The pool block is a complete copy: its header and its mark pass their CRC and agree in logical block and map_seq (R777). -/
def PBlk.complete (b : PBlk) : Bool := spareOk b.head && spareOk b.mark && b.head.take 12 = b.mark.take 12

/-- A pool block before anything is written: those of the first mapping are complete copies, the rest erased (log entry 26). -/
def PBlk.first (p : Nat) : PBlk :=
  if 32 ≤ p ∧ p < 32 + logicalBlocks then ⟨spare (p - 32) 0, spare (p - 32) 0, 0, false⟩ else PBlk.fresh

def pblk (s : State) (p : Nat) : PBlk := s.ldg.phys.getD p (PBlk.first p)

def onPblk (s : State) (p : Nat) (f : PBlk → PBlk) : State :=
  s.onLdg fun l => { l with phys := l.phys.setD p (PBlk.first p) (f (l.phys.getD p (PBlk.first p))) }

/-- The complete new contents of a logical block are programmed; a block is erased (R776). -/
def PBlk.program (lb seq : Nat) (b : PBlk) : PBlk := { b with head := spare lb seq, mark := spare lb seq }
def PBlk.erase (b : PBlk) : PBlk := { b with head := [], mark := [], erases := b.erases + 1 }

/-- A pool block that is neither mapped nor retired. -/
def poolFree (s : State) (p : Nat) : Bool :=
  decide (32 ≤ p) && decide (p < 16384) && !(pblk s p).bad && !(s.ldg.map.any fun x => x.2 = p) &&
    !(decide (p < 32 + logicalBlocks) && poolOf s (p - 32) = p)

/-- Free pool blocks. -/
def poolCount (s : State) : Nat := 16352 - logicalBlocks - (s.ldg.phys.filter (·.2.bad)).length

/-- A free pool block at or after `p`, in turn. -/
def findFree (s : State) : Nat → Nat → Option Nat
  | 0, _ => none
  | n + 1, p => if poolFree s (32 + p % 16352) then some (32 + p % 16352) else findFree s n (p + 1)

/-- LDG_STATUS.FREE and LDG_WEAR. -/
def ledgerShow (s : State) : State :=
  let es := s.ldg.phys.map (·.2.erases)
  let low := if es.length < 16352 then 0 else es.foldl min (es.headD 0)
  set (set (set s Fld.ldgStatusFree (poolCount s)) Fld.ldgWearLow low) Fld.ldgWearHigh (es.foldl max 0 / 4)

/-- One map record: its journal page is programmed; with fewer than 4 journal blocks free a checkpoint of 2,707 records is
written and the older blocks are erased (R778, R779). -/
def journalAdd (s : State) : State :=
  s.onLdg fun l =>
    let full := l.journalPages = 64
    let l := { l with
      mapSeq := l.mapSeq + 1, journalPages := if full then 1 else l.journalPages + 1
      journalFree := if full then l.journalFree - 1 else l.journalFree }
    if l.journalFree < 4 then { l with mapSeq := l.mapSeq + logicalBlocks, journalFree := 31, journalPages := 22 } else l

/-- A logical block moves to a free pool block with its complete new contents: program, commit, erase (R776). -/
def rewriteTo (s : State) (lb p : Nat) : State :=
  let old := poolOf s lb
  let s := onPblk s p (PBlk.program lb (s.ldg.mapSeq + 1))
  let s := (journalAdd s).onLdg fun l => { l with map := l.map.setD lb (lb + 32) p }
  ledgerShow (onPblk s old PBlk.erase)

/-- The contents of a logical block change, unless the Ledger is READ_ONLY (R782). Which free block is taken is a free choice. -/
def storeBlock (s : State) (lb : Nat) : State :=
  match (if get s Fld.ldgStatusState = 2 then none else findFree s 16352 (fresh s)) with
  | some p => rewriteTo (advance s) lb p
  | none => s

/-- Logical block of the device state: epoch, IV reservation, PREFER and boot record (Table LDG-1). -/
def stateBlock : Nat := 522

/-- An RO register of BAR0 that a crash capsule shows (R840): not of a function window or the Prompter's diagnostic record. A PLY
register that reads the same through every window (R293) counts once. -/
def roRegister (o : Nat) : Bool :=
  let fs := blockFields o
  decide (canonOff o = o) && !(decide (0x80000 ≤ o) && decide (o < 0x84000)) && !(decide (0xA00040 ≤ o) && decide (o < 0xA00080)) &&
    !fs.isEmpty && fs.all fun f => decide (f.acc ∈ [.ro, .ctrAny, .ctrBit16])

/-- Every RO register with its offset and its value, in ascending offset (R840). -/
def roRegisters (s : State) : AMap Nat :=
  ((List.range 0x600000).filter fun i => roRegister (4 * i)).map fun i => (4 * i, readReg s 0 (4 * i))

/-- A crash capsule goes to the Ledger, when it can be written (R840, R841). -/
def crashCapsule (s : State) (code : Nat) : State :=
  if booted s then
    if get s Fld.ldgStatusState = 1 then
      let c : Crash := ⟨selfDev s, get s Fld.fabEpochEpoch, code, cueNum s, s.st, s.flt.log, roRegisters s⟩
      let base := 1682 + 4 * (s.ldg.crashCount % 256)
      let s := (inc s Fld.fltCrashV 1).onLdg fun l => { l with
        crashes := keepLast 256 (l.crashes ++ [c]), crashCount := l.crashCount + 1 }
      [base, base + 1, base + 2, base + 3].foldl storeBlock s
    else s.onLdg fun l => { l with crashBusy := true }
  else s

/-- Counters, windows, status bits and early warning of a report (R824, R827 to R831). -/
def countFault (s : State) (code cls : Nat) (new : Bool) : State :=
  if cls = 1 then
    let s := inc (inc s Fld.fltCountCorrV 1) Fld.fltWindowCorr 1
    let lim := get s Fld.fltEwLimitCorr
    if lim ≠ 0 ∧ lim ≤ get s Fld.fltWindowCorr ∧ s.flt.ewCorr = false then
      earlyWarning (s.onFlt fun f => { f with ewCorr := true }) code 0
    else s
  else if cls = 2 then
    let s := inc (inc s Fld.fltCountContV 1) Fld.fltWindowCont 1
    let lim := get s Fld.fltEwLimitCont
    if lim ≠ 0 ∧ lim ≤ get s Fld.fltWindowCont ∧ s.flt.ewCont = false then
      earlyWarning (s.onFlt fun f => { f with ewCont := true }) code 1
    else s
  else if cls = 3 then
    let s := set (inc s Fld.fltCountDegFatDegraded 1) Fld.fltStatusDegraded 1
    if new then earlyWarning s code 2 else s
  else if cls = 4 then set (inc s Fld.fltCountDegFatFatal 1) Fld.fltStatusFatal 1
  else inc s Fld.fltCountNoteV 1

/-- A fault report (R822 to R831, R840); `injected` for FLT_INJECT and RWL injections (R844). -/
def reportAs (s : State) (injected : Bool) (code inst detail : Nat) : State :=
  match faultClass code with
  | none => s
  | some cls =>
    let (s, new) := logFault s code cls inst detail
    let s := if new ∧ (3 ≤ cls ∨ code = 0x1203) then faultNotice s code cls detail else s
    let s := countFault s code cls new
    let s := if code = 0x1203 then set s Fld.fltStatusEw 1 else s
    let s := book s 0x0D none (place 0 16 (selfDev s) + place 16 1 (b2n injected) + place 32 32 code +
      place 64 16 (if code / 256 = 11 then inst else 0xFFFF))
    let s := if cls = 4 ∧ injected = false then crashCapsule s code else s
    faultPin s

def report (s : State) (code inst detail : Nat) : State := reportAs s false code inst detail

/-! Audit records (19). -/

/-- Records not yet handed over go to the Ledger's page (R768). -/
def handAudit (s : State) (k : Nat) : State :=
  let open' := keepLast (s.sdr.unpersisted - s.sdr.handed) s.sdr.audit
  (s.onSdr fun d => { d with handed := d.handed + (open'.take k).length }).onLdg fun l =>
    { l with logPage := l.logPage ++ open'.take k }

/-- An audit event (R768 to R770): it increments the last record while that is open and equal, else adds one; with
1,024 records not persisted it is lost and counted. -/
def audit (s : State) (code fn : Nat) (spdm : Bool) (status detail : Nat) : State :=
  if 1024 ≤ s.sdr.unpersisted then
    if code = 1 then (inc s Fld.sdrAuditLostV 1).onSdr fun d => { d with lossPend := d.lossPend + 1 } else s
  else
    let r := mkAudit code (cueNum s) s.st fn spdm status detail (get s Fld.sdrAuditNextV)
    match s.sdr.audit.getLast? with
    | some l =>
      if s.sdr.handed < s.sdr.unpersisted ∧ auSame l r ∧ auCount l < 65535 then
        let s := s.onSdr fun d => { d with audit := d.audit.dropLast ++ [addAt l 16] }
        if auCount l = 65534 then handAudit s s.sdr.unpersisted else s
      else
        (set s Fld.sdrAuditNextV (get s Fld.sdrAuditNextV + 1)).onSdr fun d =>
          { d with audit := keepLast 1024 (d.audit ++ [r]), unpersisted := d.unpersisted + 1 }
    | none =>
      (set s Fld.sdrAuditNextV (get s Fld.sdrAuditNextV + 1)).onSdr fun d =>
        { d with audit := [r], unpersisted := d.unpersisted + 1 }

/-- Room for one more audited operation (R770). -/
def auditRoom (s : State) : Bool := s.sdr.unpersisted < 1024

/-! Links and packets (R510 to R531). -/

/-- A link carries packets: UP, or on its way out (R545, R546). -/
def linkRuns (s : State) (l : Nat) : Bool := decide (get s (Fld.fabLinkStatusState l) ∈ [3, 4])

/-- Output link of a packet at this device: direction of the next hop, then link base + (src + dst) mod 2, the other
one of the pair when that link is not UP (R523). -/
def outLink (s : State) (src dst dirs : Nat) : Nat :=
  let m := coords (selfDev s)
  let t := coords dst
  let dim := if m.1 ≠ t.1 then 0 else if m.2.1 ≠ t.2.1 then 1 else 2
  let base := dim * 4 + 2 * (dirs / 2 ^ dim % 2)
  let l := base + (src + dst) % 2
  let m' := base + (src + dst + 1) % 2
  if get s (Fld.fabLinkStatusState l) = 3 then l else if get s (Fld.fabLinkStatusState m') = 3 then m'
  else if linkRuns s l then l else m'

/-- The hop of this device along the packet's route is the wrap hop of its dimension (R524). -/
def wrapHop (s : State) (dst dirs : Nat) : Bool :=
  let m := coords (selfDev s)
  let t := coords dst
  let (dim, pos, ring) := if m.1 ≠ t.1 then (0, m.1, 2 * get s Fld.fabSelfRacks)
    else if m.2.1 ≠ t.2.1 then (1, m.2.1, 8) else (2, m.2.2, 8)
  if dirs / 2 ^ dim % 2 = 1 then pos = 0 else pos + 1 = ring

/-- The dimension of the next hop at a device. -/
def hopDim (dev dst : Nat) : Nat :=
  let m := coords dev
  let t := coords dst
  if m.1 ≠ t.1 then 0 else if m.2.1 ≠ t.2.1 then 1 else 2

def linkAt (s : State) (l : Nat) : Link := s.fab.links.getD l Link.off

def onLink (s : State) (l : Nat) (f : Link → Link) : State := s.onFab fun b => { b with links := b.links.modify l f }

/-- Credits for freed receive space of a sub-lane are owed to the link partner (R530). -/
def owe (s : State) (l lane n : Nat) : State :=
  onLink s l fun k => { k with owed := k.owed.set lane (k.owed.getD lane 0 + n) }

/-- 242-byte flit bodies of a packet (R512, R516). -/
def flitBodies : Nat → List Byte → List (BitVec 1936)
  | 0, _ => []
  | n + 1, bs => if bs.isEmpty then [] else BitVec.ofNat 1936 (ofLeBytes (bs.take 242)) :: flitBodies n (bs.drop 242)

/-- Keep data flits in the retry buffer under rising seq (R532). -/
def keepFlits (l : Link) : List (BitVec 1936) → Link
  | [] => l
  | b :: r => keepFlits { l with retry := l.retry ++ [(l.seqTx, b)], seqTx := (l.seqTx + 1) % 4096 } r

/-- Output link, 256-byte units and flits of a packet, when it may leave now: credit for its whole length and retry space are
there, and the device is not silent (R530, R532, R533, R597). -/
def mayLeave (s : State) (p : Packet) : Bool :=
  let l := outLink s (pSrc p) (pDst p) (pDirs p)
  let k := linkAt s l
  linkRuns s l && s.fab.silent.isNone && decide (ceilDiv (16 + p.body.length) 256 ≤ k.credits.getD (2 * pVc p + pSub p) 0) &&
    decide (k.retry.length + (flitBodies 18 (wireBytes p.hdr ++ p.body)).length ≤ 512)

/-- Put a packet on its output link: it takes credits, and its flits stay in the retry buffer. -/
def putOut (s : State) (p : Packet) : State :=
  let l := outLink s (pSrc p) (pDst p) (pDirs p)
  let k := linkAt s l
  let i := 2 * pVc p + pSub p
  let need := ceilDiv (16 + p.body.length) 256
  let bodies := flitBodies 18 (wireBytes p.hdr ++ p.body)
  (onLink s l fun _ => keepFlits { k with credits := k.credits.set i (k.credits.getD i 0 - need) } bodies).onOut fun o =>
    { o with packets := o.packets ++ [p] }

/-- A packet of this device leaves, or waits behind any earlier one of its VC and destination (R525). -/
def emit (s : State) (p : Packet) : State :=
  if mayLeave s p && !(s.fab.hold.any fun q => pVc q = pVc p && pDst q = pDst p) then putOut s p
  else s.onFab fun b => { b with hold := b.hold ++ [p] }

/-- Send a packet from this device: the source sets dirs from its route entry; an unreachable destination discards it
(R521, R522, R524). -/
def sendPkt (s : State) (kind dst tag epoch : Nat) (poison : Bool) (body : List Byte) : State :=
  match (if dst < houseSize s then route s dst else none) with
  | none => inc s Fld.fabNorouteNoroute 1
  | some (dirs, _) =>
    emit s ⟨mkHdr kind ((kindVc kind).getD 0) (b2n (wrapHop s dst dirs)) dst (selfDev s) epoch body.length dirs tag
      (cueNum s % 65536) poison, body⟩

/-- The epoch field of a packet no request asked for: this device's own, or on Reply the epoch known of its receiver, which checks it against
its own (Table FAB-3, R555; log entry 170). -/
def packetEpoch (s : State) (kind dst : Nat) : Nat := if kindVc kind = some 1 then (topoOf s dst).epoch else get s Fld.fabEpochEpoch

def send (s : State) (kind dst : Nat) (body : List Byte) : State := sendPkt s kind dst 0 (packetEpoch s kind dst) false body

/-- Send to every device of a list but this one. -/
def sendAll (s : State) (kind : Nat) (ds : List Nat) (body : List Byte) : State :=
  ds.foldl (fun s d => if d = selfDev s then s else send s kind d body) s

/-- A Reply copies the requester's epoch and tag (Table FAB-3). -/
def reply (s : State) (kind dst tag epoch : Nat) (body : List Byte) : State := sendPkt s kind dst tag epoch false body

/-- A STATUS payload (Table FAB-9). -/
def statusBody (code outcome value detail : Nat) : List Byte :=
  leBytes 16 (place 0 8 code + place 8 8 outcome + place 32 32 value + place 64 64 detail)

/-- A member report to its lead (Table FAB-9, REPORT). -/
def reportBody (code company cue slot value : Nat) : List Byte :=
  leBytes 16 (place 0 8 code + place 16 16 company + place 32 48 cue + place 80 16 slot + place 96 32 value)

/-- A tag no pending entry, waiting request or Call Map entry uses. -/
def freeTag (s : State) : Nat → Nat → Nat
  | 0, t => t % 65536
  | n + 1, t =>
    if s.fab.pend.any (fun p => p.tag = t % 65536) || s.fab.reqWait.any (fun r => r.2.2.1 = t % 65536) ||
        s.hiu.callMap.any (fun e => e.tag = t % 65536) || s.hiu.outcomes.any (fun o => o.tag = some (t % 65536)) then
      freeTag s n (t + 1)
    else t % 65536

/-- Take the next free tag. -/
def takeTag (s : State) : Nat × State :=
  let t := freeTag s 16384 s.fab.nextTag
  (t, s.onFab fun b => { b with nextTag := t + 1 })

/-- A request leaves with its pending entry reserved (R531). -/
def issue (s : State) (kind dst tag : Nat) (beats : List Token) (body : List Byte) : State :=
  let dirs := ((route s dst).getD (0, 0)).1
  let back := ((routeFrom s dst (selfDev s)).getD (0, 0)).1
  let s := s.onFab fun b => { b with pend := b.pend ++ [⟨tag, dst, kind, beats, dirs, back⟩] }
  sendPkt (set s Fld.fabPendingV s.fab.pend.length) kind dst tag (get s Fld.fabEpochEpoch) false body

/-- A request to this destination would complete at once with ABSENT_PEER (R522, R544). -/
def requestFails (s : State) (dst : Nat) : Bool := !(reachable s dst && (topoOf s dst).state = 1)

/-- Send a request that expects a Reply under its tag, or let it wait for a pending entry (R531). -/
def request (s : State) (kind dst tag : Nat) (body : List Byte) : State :=
  if s.fab.pend.length < 4096 then issue s kind dst tag [] body
  else s.onFab fun b => { b with reqWait := b.reqWait ++ [(kind, dst, tag, body)] }

/-- Requests that waited take pending entries as they free. -/
def issueWaiting (s : State) : State :=
  match s.fab.reqWait with
  | [] => s
  | (kind, dst, tag, body) :: r =>
    if s.fab.pend.length < 4096 then issue (s.onFab fun b => { b with reqWait := r }) kind dst tag [] body else s

/-- Announce a topology update on every UP link but one (R539); a silent device sends none (R597). -/
def announce (s : State) (dev state epoch : Nat) (but : Option Nat) : State :=
  (List.range 12).foldl (fun s l =>
    if get s (Fld.fabLinkStatusState l) = 3 ∧ but ≠ some l ∧ s.fab.silent.isNone then
      s.onOut fun o => { o with ctrl := o.ctrl ++ [(l, 4, dev + state * 1024 + epoch * 4096)] }
    else s) s

def putTopo (s : State) (d : Nat) (t : Topo) : State := s.onFab fun b => { b with topo := b.topo.setD d Topo.unknown t }

/-! Demand on a power domain (15_lighting_desk.md): a block that needs a domain raises demand on it and waits until it is Lit (R610). -/

def domOf (s : State) (d : Nat) : Dom := s.lgt.doms.getD d Dom.rest
def onDom (s : State) (d : Nat) (f : Dom → Dom) : State :=
  s.onLgt fun l => { l with doms := l.doms.setD d Dom.rest (f (l.doms.getD d Dom.rest)) }

/-- Start the return to Lit. -/
def startRise (s : State) (d : Nat) : State :=
  set (set s (Fld.lgtDomStatusPhase d) 2) (Fld.lgtDomStatusPendingOff d) 0

/-- Demand on a domain (Table LGT-4, R610, R614). Domain 63 leaves Struck only through a reset (R608). -/
def demandDom (s : State) (d : Nat) : State :=
  let s := onDom s d fun x => { x with demand := true }
  if domPhase s d = 1 then set s (Fld.lgtDomStatusPendingOn d) 1
  else if domPhase s d = 0 ∧ domState s d ≠ 0 ∧ d ≠ 63 then startRise s d
  else s

end Sys2Proof.Machine
end

