-- ==== Sys2Proof/Machine/RegAccess.lean ====
section
/-!
DEFINITION. Register writes and the two reads with an effect (spec/00_scope.md R6 to R13, spec/23_register_map.md): the
commands REGISTER_WRITE, HELD_RWS_WRITE_LANDS, CUE_NOW_READ and RB_DATA_READ, and the shared operations by which every
other register command applies the fields of its word that have no command of their own.
-/
namespace Sys2Proof.Machine

/-- Offset is in function `fn`'s window. -/
def inWindow (fn off : Nat) : Bool := fn ≠ 0 || (decide (0x80000 ≤ off) && decide (off < 0x84000))

/-- A write at this offset reaches the register: the always-on domain has power, the window's Function Level Reset is not running (R858), and before
BOOTED only the HIU, SDR, LDG and FLT ranges take writes (R801). -/
def writable (s : State) (fn off : Nat) : Bool :=
  if !s.brd.powered || get s (Fld.lgtDomStatusState 63) = 4 then false
  else if inWindow fn off then decide (fn ∉ s.hiu.flr)
  else booted s || decide (off < 0x100000) || (decide (0x1500000 ≤ off) && decide (off < 0x1800000))

/-- A field whose write is a command of its own: doorbells, action bits, and the RW or RWL fields of HALT_REQ,
IDATA_STORE, PERIOD_REQUEST, TARGET_WRITE, LINK_EN, FLOOR_WRITE and FAULT_INJECT. -/
def ownRow (f : Fld) : Bool :=
  (f.acc = .wo && !(decide (0x1500014 ≤ f.off) && decide (f.off ≤ 0x1500038))) ||
  (decide (0x4000000 ≤ f.off) && decide ((f.off - 0x4000000) % 0x4000 < 0x1000)) ||
  f = Fld.plySeqCtlHaltReq ((f.off - 0x400000) / 0x10000) ||
  f = Fld.plyIdataHiV ((f.off - 0x400000) / 0x10000) ||
  f = Fld.cuePeriodAtHiV ||
  f = Fld.lgtDomCtlTarget ((f.off - 0x1100100) / 8) ||
  f = Fld.fabLinkCtlEn ((f.off - 0xF00000) / 0x40) ||
  f = Fld.hqTailIdx ((f.off - 0xE00100) / 0x20) ||
  f = Fld.sdrFloorSeq || f = Fld.fltInjectCode

/-- The value a written word carries for a field. -/
def carried (f : Fld) (v : Word) : Nat := bits v f.lo f.width

/-- A swap that has passed reads SWAPPING for 2 µs (R645 allows less: log entry 140). -/
def swapping (s : State) : Bool := get s Fld.splSwapStatusState = 2 && decide (s.st < s.spl.swapEnd)

/-- RWS writes are held: during a swap (R11) and between START and restart (R665). -/
def rwsHeld (s : State) : Bool := swapping s || s.spl.scene.isSome || s.spl.passed.isSome

/-- An RWS field's shadow value is set (R6, R639). -/
def setShadow (s : State) (f : Fld) (v : Nat) : State := set (set s f v) Fld.splSwapStatusDirty 1

/-- One held register write lands in the shadow, all its RWS fields together (R11). -/
def landWrite (s : State) (w : List (Fld × Nat)) : State := w.foldl (fun s x => setShadow s x.1 x.2) s

/-- Once nothing holds them, held writes land in their order, ahead of any later write (R11, R665). -/
def landHeld (s : State) : State :=
  if rwsHeld s then s
  else s.spl.heldRws.foldl landWrite (s.onSpl fun p => { p with heldRws := [] })

/-- A ring is bound (R881): `n` is 0 to 3 for LQn, 4 for the Notice ring. -/
def bound (s : State) (fn n : Nat) : Bool :=
  if n < 4 then s.hiu.callMap.any fun e => e.fn = fn && e.ring = n
  else s.hiu.callMap.any (fun e => e.fn = fn) || s.hiu.outcomes.any (fun o => o.fn = fn) ||
    decide (0 < (s.hiu.rings.getD (fn * 8 + 4) Ring.empty).resv) || (fn = 0 && !s.hiu.devStore.isEmpty)

/-- What a write of `new` to a function-window or host-queue field does: kept, or ignored with CFG_ERR (R58, R881).
`w` is the offset in the window, `en` the ring's EN. LOG2SIZE, a field of four bits, takes 6 to 15 (log entry 141). -/
def ringRule (s : State) (fn w lo old new : Nat) (en : Bool) : Bool :=
  if w % 0x20 = 8 then
    if lo = 4 then decide (6 ≤ new) && (!en || new = old)
    else if lo = 0 ∧ 0x1080 ≤ w then !(new = 0 && bound s fn ((w - 0x1080) / 0x20))
    else true
  else if w % 0x20 = 0 ∨ w % 0x20 = 4 then !en || new = old
  else true

/-- EN of the ring that the window register at `w` configures. -/
def ringEn (s : State) (fn w : Nat) : Bool :=
  isSet s ⟨winBase fn + (w / 0x20 * 0x20 + 8), 0, 1, .rw, 0⟩

/-- Whether a field takes a value written to it, and whether an ignored value sets CFG_ERR: the limits of the register
tables ("values … are ignored"). -/
def takes (s : State) (f : Fld) (new : Nat) : Bool × Bool :=
  let old := get s f
  if 0x4000000 ≤ f.off ∧ f.off < 0x10000000 then
    let fn := (f.off - 0x4000000) / 0x4000
    let w := (f.off - 0x4000000) % 0x4000
    if 0x1000 ≤ w ∧ w < 0x1120 then
      let ok := ringRule s fn w f.lo old new (ringEn s fn w)
      (ok, !ok)
    else (true, false)
  else if 0xE00100 ≤ f.off ∧ f.off < 0xE00180 then
    let k := (f.off - 0xE00100) / 0x20
    let ok := ringRule s 0 ((f.off - 0xE00100) % 0x20) f.lo old new (isSet s (Fld.hqCtlEn k))
    (ok, !ok)
  else if f = Fld.hiuGraceGraceMs then (decide (1000 ≤ new) && decide (new ≤ 600000), false)
  else if f.off % 0x10000000 = 0x100108 then (decide (new < 2 ^ 31), false)
  else if f = Fld.stmCostIndexStage then (decide (new ≤ 11), false)
  else if f = Fld.mdwHeathBaseLoV ∨ f = Fld.mdwHeathBaseHiV ∨ f = Fld.mdwHeathSizeV then
    (!isSet s Fld.mdwHeathCtlEn, false)
  else if f = Fld.mdwHeathCtlEn then (!(new = 0 && !s.mdw.heath.isEmpty), false)
  else if f = Fld.pbkAreaBaseLoV ∨ f = Fld.pbkAreaBaseHiV then (!isSet s Fld.pbkCtlEn, false)
  else (true, false)

/-- Function whose FN_STATUS a field's CFG_ERR lands in: a window's own, the PF for a host queue. -/
def cfgFn (f : Fld) : Nat := if 0x4000000 ≤ f.off then (f.off - 0x4000000) / 0x4000 else 0

/-- Write the carried value to a field that takes it, judged by the state `s0` before the write (R58). -/
def setTaken (s0 s : State) (f : Fld) (new : Nat) : State :=
  let (ok, err) := takes s0 f new
  if ok then set s f new else if err then set s (Fld.fnStatusCfgErr (cfgFn f)) 1 else s

/-- One field acts on a full-word write by its access code (R6, R7, R12); `s0` is the state before the write. -/
def writeField (s0 : State) (v : Word) (s : State) (f0 : Fld) : State :=
  let f := stored s0 f0
  let new := carried f0 v
  match f0.acc with
  | .rw => setTaken s0 s f new
  | .ro => s
  | .wo => if ownRow f0 then s else set s f new
  | .w1c => set s f (Nat.land (get s f) (Nat.xor new (2 ^ f.width - 1)))
  | .w1s => set s f (Nat.lor (get s f) new)
  | .rws => if (takes s0 f new).1 && !rwsHeld s0 then setShadow s f new else s
  | .rwl => if sealedMode s0 then s else setTaken s0 s f new
  | .ctrAny => set s f 0
  | .ctrBit16 => if bit v 16 then set s f 0 else s

/-- The audit event of a write that carries another value for an RWL field while Sealed (R13). -/
def sealedAudit (s : State) (fn off : Nat) (fs : List Fld) (v : Word) : State :=
  if sealedMode s && fs.any (fun f => f.acc = .rwl && carried f v ≠ get s f) then
    audit s 1 fn false stSealedDenied off
  else s

/-- EN of a Line or Notice ring goes from 0 to 1: the ring starts again from its first entry (R62; log entry 8). A submission
ring keeps its indices: it is fetched up to the last TAIL written (R59). -/
def ringStart (s0 s : State) (fn w : Nat) : State :=
  if ringEn s0 fn w = false ∧ ringEn s fn w = true ∧ 0x1080 ≤ w then
    let n := (w - 0x1080) / 0x20
    let s := if n < 4 then set (set s (Fld.lqTailIdx fn n) 0) (Fld.lqHeadIdx fn n) 0
      else set (set s (Fld.nqTailIdx fn) 0) (Fld.nqHeadIdx fn) 0
    let r : Ring := ⟨0, 0, false, (s.hiu.rings.getD (fn * 8 + n) Ring.empty).resv, []⟩
    s.onHiu fun h => { h with rings := h.rings.setD (fn * 8 + n) Ring.empty r }
  else s

/-- An enabled host queue accepts its descriptors in order, with at most 64 outstanding (R90, R93). -/
def acceptHq (s : State) (k : Nat) : State :=
  if isSet s (Fld.hqCtlEn k) && !isSet s (Fld.hqStatusHalted k) then
    s.onHiu fun h =>
      let q := (h.hqs.getD k ⟨[]⟩).q
      let new := (q.take 64).filter fun d => d.stamp = 0
      let old := (q.take 64).filter fun d => d.stamp ≠ 0
      let acc := (new.zip (List.range new.length)).map fun p => { p.1 with stamp := h.hqStamp + p.2 + 1 }
      { h with hqs := h.hqs.set k ⟨old ++ acc ++ q.drop 64⟩, hqStamp := h.hqStamp + new.length }
  else s

/-- What follows the fields of some registers: rings that start, FAULT_N (R827, R828), a completed CUE_TOD_NEXT
(R224), STM_CTL.EN refused while the weights are not VALID (R815). -/
def afterWrite (s0 s : State) (fn off : Nat) : State :=
  let s := if inWindow fn off then
      let w := if fn = 0 then off - 0x80000 else off
      if 0x1000 ≤ w ∧ w < 0x1120 ∧ w % 0x20 = 8 then ringStart s0 s fn w else s
    else s
  if fn = 0 ∧ (off = 0x1700000 ∨ off = 0x1700004) then faultPin s
  else if fn = 0 ∧ off = 0x300034 then s.onCue fun c => { c with todNew := true }
  else if fn = 0 ∧ off = 0x200000 ∧ isSet s Fld.stmCtlEn = true ∧ get s Fld.plyWloadStatusState ≠ 3 then
    set (set s Fld.stmCtlEn (get s0 Fld.stmCtlEn)) Fld.plyWloadStatusRefused 1
  else if fn = 0 ∧ 0xE00100 ≤ off ∧ off < 0xE00180 ∧ (off - 0xE00100) % 0x20 = 8 ∧
      isSet s0 (Fld.hqCtlEn ((off - 0xE00100) / 0x20)) = false ∧
      isSet s (Fld.hqCtlEn ((off - 0xE00100) / 0x20)) = true then
    acceptHq s ((off - 0xE00100) / 0x20)
  else s

/-- Registers that only a front-of-house lead writes, with the RESULT code NOT_LEAD (R404, R463); CUE_PERIOD belongs
to the acting root (R231). -/
def roleDenied (s : State) (fn off : Nat) : Option State :=
  if fn ≠ 0 then none
  else if (off = 0xA00080 ∨ off = 0xA00084 ∨ off = 0xA00088) ∧ isLead s = false then
    some (set s Fld.prmLoadStatusResult 7)
  else if off = 0xC00008 ∧ isLead s = false then some (set s Fld.wdrLoadStatusResult 6)
  else if (off = 0x300024 ∨ off = 0x300028 ∨ off = 0x30002C) ∧ get s Fld.cueStatusState ≠ 4 then
    some (set s Fld.cueStatusPeriodErr 1)
  else none

/-- The RWS fields of a written word are held together while a swap or a scene change holds them (R11, R665). -/
def holdRws (s : State) (v : Word) (fs : List Fld) : State :=
  let ws := (fs.filter fun f => f.acc = .rws && (takes s (stored s f) (carried f v)).1).map fun f =>
    (stored s f, carried f v)
  if rwsHeld s && !ws.isEmpty then s.onSpl fun p => { p with heldRws := p.heldRws ++ [ws] } else s

/-- The fields of a written word that have no command of their own act by their access codes. -/
def writeWord (s : State) (fn off : Nat) (v : Word) : State :=
  let s := landHeld s
  let fs := (fieldsAt fn off).filter (fun f => !ownRow f)
  afterWrite s (fs.foldl (writeField s v) (sealedAudit (holdRws s v fs) fn off fs v)) fn off

/-- A register command's word reaches its register: the write is not gated and its role is right. -/
def reaches (s : State) (fn off : Nat) : Bool := writable s fn off && (roleDenied s fn off).isNone

/-- What a register command's word does besides its action. -/
def commandWord (s : State) (fn off : Nat) (v : Word) : State :=
  if writable s fn off && !(fieldsAt fn off).isEmpty then
    match roleDenied s fn off with
    | some t => t
    | none => writeWord s fn off v
  else s

/-- A word that carries a new value for an RWL field with a command of its own, while Sealed, is discarded and audited
(R12, R13). -/
def lockedOut (s : State) (fn off : Nat) (f : Fld) (v : Word) : State := sealedAudit s fn off [f] v

/-- REGISTER_WRITE (R6): a write that enables all four bytes (R850) acts on every field of its register. -/
def execRegisterWrite (fn : Fin 128) (off : Nat) (be : BitVec 4) (v : Word) (s : State) :
    Host.Outcome State Fault Refusal :=
  .next (if be = 0xF#4 then commandWord s fn.val off v else s)

/-- HELD_RWS_WRITE_LANDS (R11, R665): the oldest held write lands in the new shadow once the swap or restart has
completed. The command stands for the instant of that completion. -/
def execHeldRwsWriteLands (s : State) : Host.Outcome State Fault Refusal :=
  .next (if s.spl.scene.isSome || s.spl.passed.isSome then s
    else
      let s := if get s Fld.splSwapStatusState = 2 then
          (set s Fld.splSwapStatusState (if s.spl.swapAt.isSome then 1 else 3)).setSt (max s.st s.spl.swapEnd) else s
      match s.spl.heldRws with
      | [] => s
      | w :: r => landWrite (s.onSpl fun p => { p with heldRws := r }) w)

/-- CUE_NOW_READ (R849): the read of CUE_NOW_LO latches CUE_NOW_HI. -/
def execCueNowRead (s : State) : Host.Outcome State Fault Refusal :=
  .next (if booted s then s.onCue fun c => { c with nowHi := s.st / 2 ^ 32 % 2 ^ 32 } else s)

/-- RB_DATA_READ (R651): a read beyond the section's length returns 0 and sets RB_RANGE. -/
def execRbDataRead (s : State) : Host.Outcome State Fault Refusal :=
  .next (if booted s then (match rbWord s with | some _ => s | none => set s Fld.splSwapStatusRbRange 1) else s)

end Sys2Proof.Machine
end

