-- ==== Sys2Proof/Machine/SwaleOps.lean ====
section
/-!
DEFINITION. Swale occupancy and watermarks (spec/14_swales.md). The items of the ingress, decision, merge, retry,
descriptor and capture Swales are held by their blocks, so their occupancy is read off the block's state; the items of
every other instance stand in `State.swl`.
-/
namespace Sys2Proof.Machine

def swOf (s : State) (i : Nat) : Sw := s.swl.getD i Sw.empty

def onSw (s : State) (i : Nat) (f : Sw → Sw) : State := s.onSwl fun m => m.setD i Sw.empty (f (m.getD i Sw.empty))

/-- Lines of a window that stand in position order from the next one to write: they may move on (R183, R586). -/
def orderedLines (e : CallEnt) : Nat :=
  (List.range 64).foldl (fun n i => if i = n ∧ e.win.any (fun l => linePos l = e.next + i) then n + 1 else n) 0

/-- Notices waiting at this device. -/
def waitingNotices (s : State) : Nat :=
  (s.hiu.outcomes.filter (·.notice.isSome)).length +
    (s.hiu.callMap.map fun e => b2n e.admittedN.isSome + b2n e.finalN.isSome + b2n e.restoredN.isSome).sum +
    s.hiu.devStore.length

/-- Items an instance's block holds. -/
def blockOcc (s : State) (i : Nat) : Nat :=
  if i = 0 then (s.hiu.outcomes.filter (fun o => o.card.isSome && o.tag.isNone)).length +
    ((s.box.waiting ++ s.box.q).filter fun q => q.src = selfDev s).length
  else if i = 1 then s.box.q.length
  else if i = 2 then min 8192 ((s.hiu.callMap.map orderedLines).sum + waitingNotices s)
  else if i = 5 then s.prm.lists.length
  else if 8 ≤ i ∧ i < 20 then (linkAt s (i - 8)).retry.length
  else if 0x9C ≤ i ∧ i < 0xA0 then min 64 ((s.hiu.hqs.getD (i - 0x9C) ⟨[]⟩).q.length)
  else if i = 0xA1 then s.pbk.recs.length
  else 0

/-- Occupancy (R565, R567, R577). -/
def swOcc (s : State) (i : Nat) : Nat := blockOcc s i + (swOf s i).items.length + (swOf s i).readOut.length

/-- Depth of an instance (Table SWL-4). -/
def swDepth (s : State) (i : Nat) : Nat := get s (Fld.swlCfgDepth i)

/-- A write is not accepted: no room, or the instance is in FLUSH or HOLD (R567, Table SWL-2). -/
def swFull (s : State) (i : Nat) : Bool := decide (swDepth s i ≤ swOcc s i) || get s (Fld.swlStatusState i) ≠ 0

/-- A watermark pin follows its instance unless a dwell of 100 ns runs (R585, R867). -/
def wmPin (s : State) (i : Nat) : State :=
  let on := isSet s (Fld.swlStatusWm i)
  if i = 0 then
    if s.brd.ingressPin ≠ on ∧ s.brd.ingressDwell ≤ s.st then
      s.onBrd fun b => { b with ingressPin := on, ingressDwell := s.st + 100 }
    else s
  else if i = 2 then
    if s.brd.egressPin ≠ on ∧ s.brd.egressDwell ≤ s.st then
      s.onBrd fun b => { b with egressPin := on, egressDwell := s.st + 100 }
    else s
  else s

/-- The watermark state after a change of occupancy (R583), with the status bits EMPTY_R and FULL_W, which reads 1 in FLUSH and
HOLD. -/
def wmUpdate (s : State) (i : Nat) : State :=
  let o := swOcc s i
  let s := if getA s (Fld.swlWmHigh i) ≤ o then set s (Fld.swlStatusWm i) 1
    else if o ≤ getA s (Fld.swlWmLow i) then set s (Fld.swlStatusWm i) 0 else s
  let s := set s (Fld.swlOccW i) o
  let s := set s (Fld.swlOccR i) o
  let s := set s (Fld.swlStatusEmptyR i) (b2n (o = 0))
  wmPin (set s (Fld.swlStatusFullW i) (b2n (swFull s i))) i

end Sys2Proof.Machine
end

