-- ==== Sys2Proof/Machine/Host.lean ====
section
/-!
DEFINITION. Host attachment (spec/02_host_attachment.md): rings, card checks at fetch, forwarding, Lines and Notices; the
commands SQ_TAIL_DOORBELL, LQ_HEAD_DOORBELL, NQ_HEAD_DOORBELL, CARD_FETCH, PROMPT_PULL_DONE, LINE_WRITE, NOTICE_WRITE,
RECLAIM, LINE, CREDIT, CARD and PROMPT.
-/
namespace Sys2Proof.Machine

/-! Rings: `n` is 0 to 3 for LQn and 4 for the Notice ring. -/

def ringOf (s : State) (fn n : Nat) : Ring := s.hiu.rings.getD (fn * 8 + n) Ring.empty

def putRing (s : State) (fn n : Nat) (r : Ring) : State :=
  s.onHiu fun h => { h with rings := h.rings.setD (fn * 8 + n) Ring.empty r }

def ringSize (s : State) (fn n : Nat) : Nat :=
  2 ^ (if n < 4 then get s (Fld.lqCtlLog2size fn n) else get s (Fld.nqCtlLog2size fn))

def ringOn (s : State) (fn n : Nat) : Bool :=
  if n < 4 then isSet s (Fld.lqCtlEn fn n) else isSet s (Fld.nqCtlEn fn)

/-- A Notice entry that is neither outstanding nor reserved (R65). -/
def nqFree (s : State) (fn : Nat) : Bool :=
  ringOn s fn 4 && decide ((ringOf s fn 4).out.length + (ringOf s fn 4).resv < ringSize s fn 4)

def reserveNq (s : State) (fn : Nat) : State :=
  putRing s fn 4 { ringOf s fn 4 with resv := (ringOf s fn 4).resv + 1 }

def unreserveNq (s : State) (fn : Nat) : State :=
  putRing s fn 4 { ringOf s fn 4 with resv := (ringOf s fn 4).resv - 1 }

/-- The host can be reached from this function. -/
def hostUp (s : State) (fn : Nat) : Bool := !s.hiu.hostLost && decide (fn ∉ s.hiu.flr)

/-- One entry of `bytes` bytes goes to host memory at the ring's tail (R62 to R64); it raises the vector at ITHR
entries (R68). `id` names the entry until the host releases it. -/
def ringWrite (s : State) (fn n id : Nat) (bytes : Bool → List Byte) : State :=
  let r := ringOf s fn n
  let size := ringSize s fn n
  let idx := r.written % size
  let phase := r.written / size % 2 = 0
  let b := bytes phase
  let base := if n < 4 then get s (Fld.lqBaseLoV fn n) + get s (Fld.lqBaseHiV fn n) * 2 ^ 32
    else get s (Fld.nqBaseLoV fn) + get s (Fld.nqBaseHiV fn) * 2 ^ 32
  let thr := max 1 (if n < 4 then get s (Fld.lqCtlIthr fn n) else get s (Fld.nqCtlIthr fn))
  let vec := if n < 4 then get s (Fld.lqCtlVec fn n) else get s (Fld.nqCtlVec fn)
  let s := s.onOut fun o => { o with host := o.host ++ [(base + b.length * idx, b)] }
  let tail := (r.written + 1) % size
  let s := if n < 4 then set s (Fld.lqTailIdx fn n) tail else set s (Fld.nqTailIdx fn) tail
  if thr ≤ r.sinceIrq + 1 then
    putRing (s.onOut fun o => { o with msix := o.msix ++ [(fn, vec)] }) fn n
      { r with written := r.written + 1, sinceIrq := 0, fresh := false, out := r.out ++ [id] }
  else
    putRing s fn n { r with written := r.written + 1, sinceIrq := r.sinceIrq + 1, fresh := true, out := r.out ++ [id] }

/-- At a cue boundary a ring with an entry no interrupt covers raises its vector (R68). -/
def ringBoundary (s : State) : State :=
  s.hiu.rings.foldl (fun s p =>
    if p.2.fresh then
      let fn := p.1 / 8
      let n := p.1 % 8
      let vec := if n < 4 then get s (Fld.lqCtlVec fn n) else get s (Fld.nqCtlVec fn)
      putRing (s.onOut fun o => { o with msix := o.msix ++ [(fn, vec)] }) fn n { p.2 with sinceIrq := 0, fresh := false }
    else s) s

/-! Call Map (R84). -/

def entOf (s : State) (fn callId : Nat) : Option CallEnt :=
  s.hiu.callMap.find? (fun e => e.fn = fn && e.callId = callId)

def onEnt (s : State) (fn callId : Nat) (f : CallEnt → CallEnt) : State :=
  s.onHiu fun h => { h with callMap := mapIf (fun e => e.fn = fn && e.callId = callId) f h.callMap }

def dropEnt (s : State) (fn callId : Nat) : State :=
  s.onHiu fun h => { h with callMap := h.callMap.filter (fun e => !(e.fn = fn && e.callId = callId)) }

/-- A Call waits for a Notice entry of its function: an ADMITTED or RESTORED Notice has found none (R79). -/
def noticeWaits (s : State) (e : CallEnt) : Bool :=
  e.parkNotice || ((e.admittedN.isSome || e.restoredN.isSome) && !nqFree s e.fn)

/-- What parks a Call of this device: 2 a Notice, 3 a function Error or host loss, 0 nothing (R198). -/
def parkCode (s : State) (e : CallEnt) : Nat :=
  if noticeWaits s e then 2 else if e.parkErr || e.parkHost then 3 else 0

/-! Notices of a Call. -/

/-- OP_RESULT of a slot's operation (Tables HIU-8, HIU-9): ring and tenant are the Call's, and those of the card where no Call is
named. -/
def opNotice (s : State) (o : OutSlot) (status pos : Nat) : Notice :=
  let e := if o.op = 6 then none else entOf s o.fn o.callId
  mkNotice o.callId o.fn 5 status (match e with | some e => e.ring | none => 0) o.op pos
    (match e with | some e => e.tenant | none => o.tenant) 0 (cueNum s)

/-- Length of a Call as its submitting device knows it: the position of its newest Line, or its prompt (log entry 38). -/
def knownLen (e : CallEnt) : Nat :=
  if e.lines = 0 then e.next else e.win.foldl (fun a l => max a (linePos l)) (e.next - 1)

/-- Change the slot at index `i`. -/
def onSlot (s : State) (i : Nat) (f : OutSlot → OutSlot) : State :=
  s.onHiu fun h => { h with outcomes := h.outcomes.modify i f }

/-- Free the slot at index `i` and its reserved Notice entry (R114). -/
def releaseSlot (s : State) (i : Nat) : State :=
  match s.hiu.outcomes[i]? with
  | some o => wmUpdate (unreserveNq (s.onHiu fun h => { h with outcomes := h.outcomes.eraseIdx i }) o.fn) 0
  | none => s

/-- A card refused with a status: its Notice waits in its slot (R66, R71, R141). `count`: it adds to
BOX_REFUSE_COUNT, as a refused SUBMIT does (R159; log entry 148). -/
def refuseSlot (s : State) (i status : Nat) (count : Bool) : State :=
  match s.hiu.outcomes[i]? with
  | none => s
  | some o =>
    if o.op = 1 then
      let ring := match o.card with | some c => cardRing c | none => 0
      let n := mkNotice o.callId o.fn 2 status ring 0 noPos o.tenant 0 (cueNum s)
      let s := onSlot s i fun o => { o with card := none, prompt := [], tag := none, notice := some n }
      wmUpdate (if count && refuseCode status then inc s (Fld.boxRefuseCountV status) 1 else s) 0
    else
      let pos := if o.op = 6 then noPos else match entOf s o.fn o.callId with | some e => knownLen e | none => noPos
      let n := opNotice s o status pos
      wmUpdate (onSlot s i fun o => { o with card := none, prompt := [], tag := none, notice := some n }) 0

/-! Card checks (Table HIU-6). -/

def plotOf? (s : State) : Option Plot := s.spl.active

/-- Temperature is a positive finite number or a zero. -/
def tempOk (t : Nat) : Bool := t ≤ 0x7F7FFFFF || t = 0x80000000

/-- The first check of Table HIU-6 that a SUBMIT fails, of those that need no prompt; 0 for none. -/
def submitCheck (s : State) (fn : Nat) (c : Card) : Nat :=
  match plotOf? s with
  | none => stBadCard
  | some p =>
    let named := p.companyInfo (cardCompany c)
    if cardPromptLen c = 0 || cardMaxNew c = 0 then stBadCard
    else if 1048576 < cardPromptLen c + cardMaxNew c then stBadCard
    else if cardPromptAddr c % 4 ≠ 0 then stBadCard
    else if !tempOk (cardTemp c) then stBadCard
    else if 1024 < cardTopK c || 4 < cardChorus c then stBadCard
    else if !isSet s (Fld.lqCtlEn fn (cardRing c)) then stBadCard
    else if (p.model (cardModel c)).isNone then stBadCard
    else if cardCompany c ≠ 0xFFFF &&
        (match named with
         | some i => i.model ≠ cardModel c || (cardFlag c flagExact && !i.exact)
         | none => true) then stBadCard
    else if cardFlag c flagFrame && cardFramePeriod c = 0 then stBadCard
    else if (entOf s fn (cardCallId c)).isSome then stBadCard
    else if 4096 ≤ s.hiu.callMap.length then stCapacity
    else if cardCompany c ≠ 0xFFFF && decide (cardCompany c ∈ s.fab.lost) then stCapacity
    else 0

/-- A card dropped without a Notice (R112). -/
def dropped : Nat := 256

/-- The first check of Table HIU-6 that an operation on a Call or a handle fails. -/
def opCheck (s : State) (fn : Nat) (c : Card) : Nat :=
  if cardOp c = 6 then
    match s.hiu.handles.find? (fun h => h.1 = cardTenant c && h.2.1 = cardPrefixOut c) with
    | some h => if h.2.2 ∈ s.fab.lost then stPrefixUnknown else 0
    | none => stPrefixUnknown
  else
    match entOf s fn (cardCallId c) with
    | none => if cardOp c = 5 then dropped else stBadCard
    | some e =>
      if cardOp c = 2 && cardPromptAddr c % 4 ≠ 0 then stBadCard
      else if cardOp c = 2 && decide (1048576 < e.ctx + cardPromptLen c) then stBadCard
      else if cardOp c = 3 && (cardTtl c = 0 || decide (259200 < cardTtl c)) then stBadCard
      else 0

/-- Checks at fetch: format first (R69), then the op's own. -/
def cardCheck (s : State) (fn : Nat) (c : Card) : Nat :=
  if cardOp c = 0 || 6 < cardOp c || cardVersion c ≠ 1 || cardReserved c then stBadCard
  else if cardOp c = 1 then submitCheck s fn c
  else opCheck s fn c

/-- The Company of a SUBMIT (R81, R82). -/
def chooseCompany (s : State) (c : Card) : Option Nat :=
  if cardCompany c ≠ 0xFFFF then some (cardCompany c)
  else
    match plotOf? s with
    | none => none
    | some p =>
      let l := ((p.prefs.find? (fun x => x.1 = cardModel c)).map Prod.snd).getD []
      let l := if cardFlag c flagExact then
          l.filter (fun i => (p.companyInfo i).any (·.exact)) else l
      let ok (i : Nat) : Bool := s.fab.adverts.any fun a => a.company = i && a.admitting && decide (1 ≤ a.slots)
      (l.find? ok).orElse fun _ => l.head?

def leadOf (s : State) (company : Nat) : Option Nat :=
  (plotOf? s).bind fun p => (p.companyInfo company).bind CompanyInfo.lead

/-! Arrival of a card and its prompt at the lead (R527, R589, R591). -/

/-- Split a list in pieces of `n`. -/
def pieces {α : Type} (n : Nat) : Nat → List α → List (List α)
  | 0, _ => []
  | k + 1, l => if l.isEmpty then [] else l.take n :: pieces n k (l.drop n)

/-- Bytes travel in TRANSFER packets under an id of the sender's own choice (Table FAB-9; log entry 22). -/
def sendTransfer (s : State) (dst id : Nat) (bs : List Byte) : State :=
  (pieces 4080 (bs.length / 4080 + 1) bs).zipIdx.foldl (fun s x =>
    send s 0x43 dst (leBytes 4 id ++ leBytes 8 (4080 * x.2) ++ leBytes 4 0 ++ x.1)) s

/-- Tag of the model's own messages, which no request awaits (log entries 9, 23 and 139). -/
def lostTag : Nat := 0xFFFF

/-- Outcome bytes of the messages under that tag: a final Line released, what parks a Call, a scene change that stops a Company, one that
failed, the copy of a load in place, an image withdrawn, a version dropped, asked for, listed, evicted, an offer accepted, declined, the
Heath entries of a slot freed, filled from, no room in a Handle Map, a block that reads poison, a Company that is Lost, the cut of a scene change complete, a scene change over, the new lead
of a Call, and its answer when the Call has ended (log entry 139). -/
def outFinal : Nat := 3
def outPark : Nat := 4
def outScene : Nat := 5
def outSceneFails : Nat := 6
def outHeld : Nat := 7
def outWithdraw : Nat := 8
def outDrop : Nat := 9
def outWant : Nat := 10
def outListed : Nat := 11
def outEvict : Nat := 12
def outAccept : Nat := 13
def outDecline : Nat := 14
def outUnheath : Nat := 15
def outRefill : Nat := 16
def outNoHandle : Nat := 17
def outBadBlock : Nat := 18
def outLost : Nat := 19
def outCut : Nat := 20
def outServes : Nat := 21
def outLead : Nat := 22
def outGone : Nat := 23

/-- A message of the model's own to other devices. -/
def tellDevs (s : State) (ds : List Nat) (outcome value detail : Nat) : State :=
  ds.foldl (fun s d => if d = selfDev s then s else
    reply s 0x20 d lostTag (topoOf s d).epoch (statusBody stOk outcome value detail)) s

/-- First cue a card that reaches the head of the decision queue now is eligible for (R133). -/
def eligibleNow (s : State) : Nat :=
  let n := nextCue s
  if s.st + getA s Fld.boxAdmitCtlCutoffUs * 1000 ≤ launchSt s n then n else n + 1

/-- A card has reached the head of the decision queue: its cue and the capacity model are those of this instant (R132, R133). -/
def noteHead (s : State) : State :=
  if s.box.head.isSome || s.box.q.isEmpty then s
  else
    let r : HeadRec := ⟨eligibleNow s, get s Fld.boxModelPrefillRate, get s Fld.boxModelDecodeSlots, nextCue s⟩
    s.onBox fun b => { b with head := some r }

/-- A card has found its place in the decision queue: the Request credits of one that waited are owed back (R148). -/
def freeRequest (s : State) : State :=
  match s.fab.heldCr with
  | [] => s
  | (l, lane, n) :: r => owe (s.onFab fun b => { b with heldCr := r }) l lane n

/-- Cards whose prompt is whole enter the decision queue in arrival order while it has room, never ahead of an earlier
waiting card of the same Call (R85, R148, R527). -/
def enterQueue (s : State) : State :=
  let w := s.box.waiting
  noteHead (w.foldl (fun s q =>
    let earlier := s.box.waiting.takeWhile (fun x => x ≠ q)
    let blocked := earlier.any fun x => x.src = q.src && x.fn = q.fn && cardCallId x.card = cardCallId q.card
    let st := s.box.staged.find? fun x => x.src = q.src && x.fn = q.fn && x.callId = cardCallId q.card
    let need := cardPromptLen q.card
    let carries := (cardOp q.card = 1 || cardOp q.card = 2) && decide (0 < need)
    let toks := match st with | some x => (x.toks.map Prod.snd).flatten | none => []
    if blocked || swFull s 1 || (carries && decide (toks.length < need)) then s
    else
      let s := s.onBox fun b => { b with
        q := b.q ++ [{ q with prompt := if carries then toks.take need else [] }]
        waiting := b.waiting.erase q
        staged := if carries then (match st with | some x => b.staged.erase x | none => b.staged) else b.staged }
      wmUpdate (if q.src = selfDev s then s else freeRequest s) 1) s)

/-- A forwarded card arrives (CARD). -/
def arriveCard (s : State) (src fn tag : Nat) (c : Card) : State :=
  enterQueue (s.onBox fun b => { b with waiting := b.waiting ++ [⟨src, fn, tag, c, []⟩] })

/-- A prompt chunk arrives (PROMPT): first index 0 opens a staged prompt, any other extends the latest. -/
def arrivePrompt (s : State) (src fn callId first : Nat) (toks : List Nat) : State :=
  let isIt (x : Staged) : Bool := x.src = src && x.fn = fn && x.callId = callId
  let s :=
    if first = 0 then s.onBox fun b => { b with staged := b.staged ++ [⟨src, fn, callId, [(0, toks)]⟩] }
    else s.onBox fun b => { b with
      staged := (mapFirst isIt (fun x => { x with toks := x.toks ++ [(first, toks)] }) b.staged.reverse).reverse }
  enterQueue s

/-! Forwarding (R80, R81, R85, R591, R708). -/

/-- Tokens of this device's cards in its staging window at a lead. -/
def windowUsed (s : State) (lead : Nat) : Nat :=
  (s.hiu.outcomes.map fun o =>
    if o.tag.isSome && (entOf s o.fn o.callId).any (fun e => e.lead = lead) then o.prompt.length
    else 0).sum

/-- Company and lead a slot's card goes to. -/
def slotDst (s : State) (o : OutSlot) : Option (Nat × Nat) :=
  if o.op = 6 then
    match o.card with
    | none => none
    | some c =>
      (s.hiu.handles.find? (fun h => h.1 = cardTenant c && h.2.1 = cardPrefixOut c)).bind fun h =>
        (leadOf s h.2.2).map fun l => (h.2.2, l)
  else (entOf s o.fn o.callId).map fun e => (e.company, e.lead)

/-- The prompt chunks of a card, then the card (R80). -/
def sendCard (s : State) (dst tag : Nat) (o : OutSlot) (c : Card) : State :=
  let chunks := pieces 1020 1100 o.prompt
  let off := if o.prompt.isEmpty then 0xFFFFFFFF else windowUsed s dst
  let s := (chunks.foldl (fun (a : State × Nat) ts =>
      (send a.1 0x40 dst (leBytes 8 (place 0 32 o.callId + place 32 7 o.fn) ++ leBytes 4 a.2 ++ leBytes 4 ts.length ++
        (ts.map (leBytes 4)).flatten), a.2 + ts.length)) (s, 0)).1
  request s 0x10 dst tag (wireBytes c ++ leBytes 4 (place 0 10 (selfDev s) + place 16 7 o.fn) ++ leBytes 4 off ++
    leBytes 8 0)

/-- The tenant of a card is bound to its function, by this device's own binding (check 1 of Table BOX-1, R158; log entry 12). -/
def boundTenant (s : State) (fn t : Nat) : Bool :=
  isSet s (Fld.boxFnTenantValid fn) && get s (Fld.boxFnTenantTenant fn) = t

/-- Forward the card of slot `i` if it may go. -/
def forwardSlot (s : State) (i : Nat) : State :=
  match s.hiu.outcomes[i]? with
  | none => s
  | some o =>
    let waits (x : OutSlot) : Bool := x.fn = o.fn && x.callId = o.callId && x.card.isSome && x.tag.isNone
    if !o.ready || o.tag.isSome || o.notice.isSome || (s.hiu.outcomes.take i).any waits then s
    else
      match o.card, slotDst s o with
      | some c, some (co, lead) =>
        if co ∈ s.fab.lost then (if o.op = 1 then refuseSlot s i stCapacity true else s)
        else if lead ≠ selfDev s ∧ boundTenant s o.fn o.tenant = false then refuseSlot s i stBadCard true
        else if lead ≠ selfDev s ∧ requestFails s lead = true then
          (if o.op = 1 then refuseSlot s i stCapacity true else s)
        else if (plotOf? s).all (fun p => decide (p.window < windowUsed s lead + o.prompt.length)) && !o.prompt.isEmpty then s
        else
          let (tag, s) := takeTag s
          let s' := onSlot s i fun o => { o with tag := some tag }
          let s' := if o.op = 1 then onEnt s' o.fn o.callId fun e => { e with tag := tag } else s'
          wmUpdate (if lead = selfDev s then
              let s' := if o.prompt.isEmpty then s' else arrivePrompt s' (selfDev s) o.fn o.callId 0 o.prompt
              arriveCard s' (selfDev s) o.fn tag c
            else sendCard s' lead tag o c) 0
      | _, _ => s

/-- A held operation whose Call has ended, or whose entry is gone, before it could be forwarded (R708, R500, R114). -/
def opGone (s : State) (o : OutSlot) : Bool :=
  decide (2 ≤ o.op) && decide (o.op ≤ 5) && o.ready && o.tag.isNone && o.notice.isNone &&
    match entOf s o.fn o.callId with
    | none => true
    | some e => decide (e.company ∈ s.fab.lost) && (e.finalN.isSome || e.finalWritten)

/-- Those operations are dropped: each frees its slot and its reserved Notice entry (R114). -/
def dropGone (s : State) : State :=
  (s.hiu.outcomes.filter (opGone s)).foldl (fun s o =>
    unreserveNq (s.onHiu fun h => { h with outcomes := h.outcomes.erase o }) o.fn) s

/-- Forward every card that may go, oldest first. -/
def forwardReady (s : State) : State :=
  let s := dropGone s
  (List.range s.hiu.outcomes.length).foldl forwardSlot s

/-! Decisions coming back (R66, R78, R114, R141, R142). -/

/-- Position of the Call's `k`-th token from 0, past the spans of its CONTINUEs (R29, R42). -/
def tokPos (e : CallEnt) (k : Nat) : Nat := e.gaps.foldl (fun p g => if g.1 ≤ p then p + g.2 else p) (e.base + k)

/-- The Line of a cancelled Call's last token, the `n`-th, becomes its final Line (R38; log entry 10); one already written stays
as it is. -/
def markCancelled (e : CallEnt) (n : Nat) : CallEnt :=
  let top := tokPos e (n - 1)
  let mark (l : Line) : Line :=
    BitVec.ofNat 128 ((setBit l 53 true).toNat - place 54 4 (lineStop l) + place 54 4 6 -
      place 88 8 (bits l 88 8) + place 88 8 0xFF)
  { e with
    win := e.win.map fun l => if linePos l = top then mark l else l
    finalPos := if top < e.next then some top else e.finalPos }

/-- The Call of a submitting device's message at the lead. -/
def onSrcCall (s : State) (src fn callId : Nat) (f : Call → Call) : State :=
  s.onStm fun t => { t with board := mapIf (fun c => c.src = src && c.fn = fn && c.callId = callId) f t.board }

/-- A message of the submitting device about a Call reaches its lead (R36, R198; log entry 139). -/
def srcTells (s : State) (src outcome fn callId code : Nat) : State :=
  if outcome = outFinal then onSrcCall s src fn callId fun c => { c with finalOut := true }
  else if outcome = outPark then onSrcCall s src fn callId fun c => { c with away := code }
  else s

/-- The submitting device tells the lead of one of its Calls. -/
def tellLead (s : State) (e : CallEnt) (outcome code : Nat) : State :=
  if e.lead = selfDev s then srcTells s (selfDev s) outcome e.fn e.callId code
  else reply s 0x20 e.lead lostTag (topoOf s e.lead).epoch (statusBody code outcome e.callId e.fn)

/-- Once its final Line has been released, a Call's lead is told (R36). -/
def tellFinal (s : State) (fn callId : Nat) : State :=
  match entOf s fn callId with
  | some e => if e.finalPos.isSome then tellLead s e outFinal 0 else s
  | none => s

/-- A handle created by a Call of this device: `value` holds the tenant and the Company (R487; log entry 9). -/
def handleHere (s : State) (value handle : Nat) : State :=
  s.onHiu fun x => { x with
    handles := if x.handles.length < 1024 then x.handles ++ [(value % 65536, handle, value / 65536)] else x.handles }

/-- A handle that the lead `src` keeps; with the Handle Map full the lead lets its blocks go (R485; log entry 139). -/
def handleFrom (s : State) (src value handle : Nat) : State :=
  if s.hiu.handles.length < 1024 then handleHere s value handle
  else tellDevs s [src] outNoHandle (value % 65536) handle

/-- A Line of a token past the last one that the FINAL Notice counts: it was sampled after its Call's end took effect (R38, R206;
log entry 10). The final Line of a dead end carries no token and is none of these. -/
def lateLine (e : CallEnt) (l : Line) : Bool :=
  match e.finalN with
  | some n => !e.restored && (noticeStatus n = stLostWork || (decide (tokPos e (bits n 160 32) ≤ linePos l) &&
      (e.noLine || noticeStatus n = stCancelled || !lineFinal l)))
  | none => e.finalWritten

/-- The lead reports a Call's end: its FINAL Notice waits in the Call Map entry (R587). `value` bits [20:0] are the
tokens generated, bit 31 tells that no final Line comes; `detail` is the seed (log entry 9). With LOST_WORK the Lines
still in the window are discarded, and the count is of those released (R206). -/
def arriveFinal (s : State) (e : CallEnt) (code value detail : Nat) : State :=
  let count := if code = stLostWork then e.lines - e.win.length else value % 2 ^ 21
  let n := mkNotice e.callId e.fn 3 code e.ring detail noPos e.tenant count (cueNum s)
  let none' := value / 2 ^ 31 % 2 = 1
  let s := onEnt s e.fn e.callId fun e =>
    let e := { e with finalN := some n, noLine := none' }
    let e := { e with win := e.win.filter fun l => !lateLine e l }
    if code = stCancelled ∧ ¬ none' then markCancelled e count else e
  tellFinal s e.fn e.callId

/-- The answer to the card of slot `i`. -/
def decideSlot (s : State) (i code outcome value detail : Nat) : State :=
  match s.hiu.outcomes[i]? with
  | none => s
  | some o =>
    if outcome = 1 then forwardReady (releaseSlot s i)
    else if o.op = 1 then
      if code = 0 then
        let s' := s.onHiu fun h => { h with outcomes := h.outcomes.eraseIdx i }
        let notify := match o.card with | some c => cardFlag c flagNotifyAdmit | none => false
        let s' := onEnt s' o.fn o.callId fun e =>
          { e with
            decided := true
            admittedN := if notify then some (mkNotice o.callId o.fn 1 stOk e.ring
              (place 0 16 e.company + place 16 8 detail) value o.tenant 0 (cueNum s)) else none
            parkNotice := notify && !nqFree s o.fn }
        forwardReady s'
      else forwardReady (refuseSlot s i code false)
    else
      let s' := if code = 0 ∧ o.op = 2 then
          onEnt s o.fn o.callId fun e => { e with gaps := e.gaps ++ [(detail, o.len)], ctx := e.ctx + o.len }
        else if code = 0 ∧ o.op = 6 then
          (match o.card with
           | some c => s.onHiu fun h =>
              { h with handles := h.handles.filter (fun x => !(x.1 = cardTenant c && x.2.1 = cardPrefixOut c)) }
           | none => s)
        else s
      let n := opNotice s o code value
      forwardReady (onSlot s' i fun o => { o with card := none, prompt := [], tag := none, notice := some n })

/-- The answer to the request under `tag`, wherever it waits at this device: an outcome slot, or a Call Map entry whose
Call ends. -/
def decideTag (s : State) (tag code outcome value detail : Nat) : State :=
  match findIdx (fun o => o.tag = some tag) s.hiu.outcomes with
  | some i => decideSlot s i code outcome value detail
  | none =>
    match s.hiu.callMap.find? (fun e => e.tag = tag && e.decided) with
    | some e => arriveFinal s e code value detail
    | none => s

/-- A lead answers a card: on the Reply channel (R141), or at once when the card is its own. -/
def answer (s : State) (src tag code outcome value detail : Nat) : State :=
  if src = selfDev s then decideTag s tag code outcome value detail
  else reply s 0x20 src tag (topoOf s src).epoch (statusBody code outcome value detail)

/-! Lines (R183, R586, R702) and credits (R87, R196). -/

/-- This device is a member of the Call's serving Company, as far as Lines go (R702). -/
def servesCall (s : State) (e : CallEnt) (src : Nat) : Bool :=
  match (plotOf? s).bind (fun p => p.companyInfo e.company) with
  | some c => c.members.any (fun m => m.dev = src)
  | none => false

/-- Lines arrive and wait in their Calls' release windows. -/
def arriveLine (s : State) (src fn : Nat) (lines : List Line) : State :=
  let s := lines.foldl (fun s l =>
    match entOf s fn (lineCallId l) with
    | none => s
    | some e =>
      if servesCall s e src ∧ e.next ≤ linePos l ∧ e.win.length < 64 ∧ e.win.any (fun x => linePos x = linePos l) = false ∧
          lateLine e l = false
      then onEnt s fn e.callId fun e =>
        let e := { e with win := e.win ++ [if e.restored then setBit l 60 true else l], lines := e.lines + 1 }
        match e.finalN with
        | some n => if noticeStatus n = stCancelled ∧ ¬ e.noLine then markCancelled e (bits n 160 32) else e
        | none => e
      else s) s
  wmUpdate s 2

/-- Credits arrive at the lead (R196). -/
def arriveCredit (s : State) (src : Nat) (ents : List (Nat × Nat × Nat)) : State :=
  s.onStm fun t => { t with board := t.board.map fun c =>
    let k := (ents.map fun e => if c.src = src ∧ c.callId = e.1 ∧ c.fn = e.2.1 then e.2.2 else 0).sum
    { c with credits := min 64 (c.credits + k) } }

/-- Return one credit per Line to the leads of their Calls (R87). -/
def returnCredits (s : State) (fn : Nat) (calls : List CallEnt) : State :=
  let leads := (calls.map (·.lead)).dedup
  leads.foldl (fun s l =>
    let ids := ((calls.filter (fun e => e.lead = l)).map (·.callId))
    let ents := ids.dedup.map fun i => (i, fn, ids.count i)
    if l = selfDev s then arriveCredit s l ents
    else send s 0x25 l ((ents.map fun e => leBytes 8 (place 0 32 e.1 + place 32 7 e.2.1 + place 40 8 e.2.2)).flatten)) s

/-! The commands. -/

/-- Index of a doorbell word, when it lies in the ring (R61). -/
def doorbell (s : State) (fn size : Nat) (v : Word) : Option Nat := if bits v 0 16 < size ∧ fn ∉ s.hiu.flr then some (bits v 0 16) else none

/-- A doorbell out of range sets DB_ERR (R61), unless the window is in reset (R858). -/
def doorbellErr (s : State) (fn : Nat) : State := if fn ∈ s.hiu.flr then s else set s (Fld.fnStatusDbErr fn) 1

/-- SQ_TAIL_DOORBELL (R59, R61). -/
def execSqTailDoorbell (fn : Fin 128) (n : Fin 4) (v : Word) (s : State) : Host.Outcome State Fault Refusal :=
  .next (match doorbell s fn.val (2 ^ get s (Fld.sqCtlLog2size fn.val n.val)) v with
    | some i => set s (Fld.sqTailIdx fn.val n.val) i
    | none => doorbellErr s fn.val)

/-- Entries that a HEAD doorbell of index `i` passes; over a full ring the old index stands for the whole ring (R64, R87; log
entry 28). -/
def headSteps (size held head i : Nat) : Nat := if i = head ∧ held = size then size else (i + size - head) % size

/-- Entries that the host has consumed are no longer written again by a RECLAIM (R107). -/
def forgetRead (s : State) (fn n : Nat) (ids : List Nat) : State :=
  s.onHiu fun h => { h with unread := h.unread.filter fun x => !(x.1 = fn && x.2.1 = n && decide (x.2.2 ∈ ids)) }

/-- LQ_HEAD_DOORBELL (R61, R64, R87): the entries passed are released, their copies dropped and a credit returned for
each. -/
def execLqHeadDoorbell (fn : Fin 128) (n : Fin 4) (v : Word) (s : State) : Host.Outcome State Fault Refusal :=
  .next (match doorbell s fn.val (ringSize s fn.val n.val) v with
    | none => doorbellErr s fn.val
    | some i =>
      let size := ringSize s fn.val n.val
      let r := ringOf s fn.val n.val
      let k := min r.out.length (headSteps size r.out.length (get s (Fld.lqHeadIdx fn.val n.val)) i)
      let s := putRing (set s (Fld.lqHeadIdx fn.val n.val) i) fn.val n.val { r with out := r.out.drop k }
      let passed := r.out.take k
      let key (e : CallEnt) (l : Line) : Nat := (e.callId * 2 ^ 20 + linePos l) * 2 + b2n (bit l 60)
      let owners := (passed.map fun id =>
        s.hiu.callMap.filter fun e => e.fn = fn.val && e.kept.any (fun l => key e l = id)).flatten
      let s := s.onHiu fun h => { h with callMap := h.callMap.map fun e =>
        if e.fn = fn.val then { e with kept := e.kept.filter (fun l => decide (key e l ∉ passed)) } else e }
      let s := forgetRead s fn.val n.val passed
      wmUpdate (returnCredits s fn.val owners) 2)

/-- NQ_HEAD_DOORBELL (R61, R64, R88): the entries passed are released, and the Call Map entry of each FINAL Notice passed
is freed. -/
def execNqHeadDoorbell (fn : Fin 128) (v : Word) (s : State) : Host.Outcome State Fault Refusal :=
  .next (match doorbell s fn.val (ringSize s fn.val 4) v with
    | none => doorbellErr s fn.val
    | some i =>
      let size := ringSize s fn.val 4
      let r := ringOf s fn.val 4
      let k := min r.out.length (headSteps size r.out.length (get s (Fld.nqHeadIdx fn.val)) i)
      let s := putRing (set s (Fld.nqHeadIdx fn.val) i) fn.val 4 { r with out := r.out.drop k }
      let s := forgetRead s fn.val 4 (r.out.take k)
      (r.out.take k).foldl (fun s id => if id % 2 = 1 then dropEnt s fn.val (id / 2) else s) s)

/-- A ring of this function has a card to fetch. The indices run modulo the size, so a TAIL that overruns HEAD skips cards (R60
allows more; log entry 142). -/
def sqReady (s : State) (fn n : Nat) : Bool :=
  isSet s (Fld.sqCtlEn fn n) && get s (Fld.sqHeadIdx fn n) ≠ get s (Fld.sqTailIdx fn n)

def fnReady (s : State) (fn : Nat) : Bool :=
  hostUp s fn && !isSet s (Fld.fnStatusError fn) && nqFree s fn && (List.range 4).any (sqReady s fn)

/-- The function and ring the HIU serves next (R86). -/
def nextCard (s : State) : Option (Nat × Nat) :=
  ((List.range 128).map fun i => (s.hiu.rrFn + 1 + i) % 128).find? (fnReady s) |>.bind fun fn =>
    (((List.range 4).map fun i => (s.hiu.rrSq.getD fn 3 + 1 + i) % 4).find? (sqReady s fn)).map fun n => (fn, n)

/-- The Call Map entry of a SUBMIT on its way to a lead. -/
def newEnt (fn company lead : Nat) (c : Card) : CallEnt :=
  { fn := fn, callId := cardCallId c, company := company, lead := lead, ring := cardRing c, tenant := cardTenant c,
    model := cardModel c, forwarded := true, decided := false, next := cardPromptLen c, base := cardPromptLen c, gaps := [],
    win := [], kept := [], lines := 0, admittedN := none, finalN := none, restoredN := none, finalWritten := false,
    parkNotice := false, parkErr := false, parkHost := false, told := 0, restored := false,
    finalKept := none, tag := 65536,
    ctx := cardPromptLen c + cardMaxNew c, finalPos := none, noLine := false, redo := 0, resume := 0 }

/-- The next card of ring `n` of function `fn` leaves its ring for an outcome slot with a reserved Notice entry (R65, R86). -/
def fetched (s : State) (fn n : Nat) (card : Card) : State :=
  let s := set s (Fld.sqHeadIdx fn n)
    ((get s (Fld.sqHeadIdx fn n) + 1) % 2 ^ get s (Fld.sqCtlLog2size fn n))
  let s := reserveNq s fn
  let len := if cardOp card = 2 then cardPromptLen card else 0
  let o : OutSlot := ⟨fn, cardCallId card, cardOp card, cardTenant card, len, none, some card, none, [], false, false,
    s.hiu.hqStamp + 1⟩
  wmUpdate (s.onHiu fun h => { h with
    rrFn := fn, rrSq := h.rrSq.setD fn 3 n, outcomes := h.outcomes ++ [o], hqStamp := h.hqStamp + 1 }) 0

/-- A card just fetched into the last outcome slot is checked, and goes on to its prompt pull or its lead. -/
def admitFetched (s : State) (fn : Nat) (c : Card) : State :=
  let i := s.hiu.outcomes.length - 1
  let st := cardCheck s fn c
  if st = dropped then releaseSlot (inc s (Fld.fnStatusDropped fn) 1) i
  else if st ≠ 0 then refuseSlot s i st true
  else if cardOp c = 1 then
    match chooseCompany s c with
    | none => refuseSlot s i stCapacity true
    | some co =>
      match (if co ∈ s.fab.lost then none else leadOf s co) with
      | none => refuseSlot s i stCapacity true
      | some l => onSlot (s.onHiu fun h => { h with callMap := h.callMap ++ [newEnt fn co l c] }) i fun o =>
        { o with made := true }
  else if cardOp c = 2 ∧ 0 < cardPromptLen c then s
  else forwardReady (onSlot s i fun o => { o with ready := true })

/-- CARD_FETCH (R65, R69 to R71, R82, R86, R148): the next card in round-robin order, as read from host memory. -/
def execCardFetch (card : Card) (s : State) : Host.Outcome State Fault Refusal :=
  .next (if !booted s || s.hiu.hostLost || decide (8192 ≤ s.hiu.outcomes.length) || swFull s 0 ||
      (isLead s && swFull s 1) then s
    else
      match nextCard s with
      | none => s
      | some (fn, n) => if domLit s 56 then admitFetched (fetched s fn n card) fn card else demandDom s 56)

/-- PROMPT_PULL_DONE (R80, R101, Table HIU-6): the prompt of the oldest card of this Call that waits for one. -/
def execPromptPullDone (fn : Fin 128) (callId : Word) (toks : List Word) (poison fault : Bool) (s : State) :
    Host.Outcome State Fault Refusal :=
  .next (match findIdx (fun o => o.fn = fn.val && o.callId = callId.toNat && o.card.isSome && !o.ready)
      s.hiu.outcomes with
    | none => s
    | some i =>
      let vocab := match entOf s fn.val callId.toNat with
        | some e => match (plotOf? s).bind (fun p => p.model e.model) with | some m => m.vocab | none => 0
        | none => 0
      if fault then refuseSlot s i stBadCard true
      else if poison then refuseSlot s i stPoison true
      else if toks.any (fun t => decide (2 ^ 24 ≤ t.toNat) || decide (vocab ≤ t.toNat)) then refuseSlot s i stBadCard true
      else forwardReady (onSlot s i fun o => { o with ready := true, prompt := toks.map (·.toNat) }))

/-- The next Line a Call may write: one to write again, or the one whose lower positions are all written (R107, R183). -/
def nextLine (e : CallEnt) : Option Line :=
  if 0 < e.redo then e.win.head?
  else
    (e.win.find? (fun l => linePos l = e.next)).orElse fun _ =>
      let due := e.gaps.foldl (fun p g => if g.1 = p then p + g.2 else p) e.next
      e.win.find? fun l => linePos l = due

/-- From the fetch of a CANCEL of its Call until the lead has answered it, a Call's Lines wait: one of them may become the final Line (R38; log
entry 10). -/
def heldForCancel (s : State) (e : CallEnt) (l : Line) : Bool :=
  !lineFinal l && e.finalN.isNone &&
    s.hiu.outcomes.any fun o => o.op = 5 && o.fn = e.fn && o.callId = e.callId && o.notice.isNone

/-- The Line that a Call writes next, unless it is held. -/
def dueLine (s : State) (e : CallEnt) : Option Line := (nextLine e).filter fun l => !heldForCancel s e l

/-- A Line or Notice write failed (R102): the function enters its Error state and its Calls park. -/
def writeFailed (s : State) (fn : Nat) : State :=
  (set (set s (Fld.fnStatusWriteErr fn) 1) (Fld.fnStatusError fn) 1).onHiu fun h =>
    { h with callMap := mapIf (fun e => e.fn = fn) (fun e => { e with parkErr := true }) h.callMap }

/-- The name of a Line's ring entry until the host releases it. -/
def lineId (e : CallEnt) (l : Line) : Nat := (e.callId * 2 ^ 20 + linePos l) * 2 + b2n (bit l 60)

/-- The entry after its Line `l` has been written. -/
def lineWritten (e : CallEnt) (l : Line) : CallEnt :=
  if 0 < e.redo then { e with win := e.win.drop 1, kept := e.kept ++ [l], redo := e.redo - 1 }
  else
    { e with
      win := e.win.erase l
      kept := e.kept ++ [l]
      next := linePos l + 1
      finalPos := if lineFinal l then some (linePos l) else e.finalPos }

/-- A RECLAIM has the function's unconsumed Lines and FINAL Notices written again in their original order: only the first of them
may be written, and nothing while none is left (R107). -/
def inTurn (s : State) (fn n id : Nat) : Bool :=
  match s.hiu.redo.find? (fun x => x.1 = fn) with
  | some x => decide (x.2 = (n, id))
  | none => true

/-- One of them has been written. After the last the function's Calls unpark (R107). -/
def redoDone (s : State) (fn n id : Nat) : State :=
  if s.hiu.redo.any (fun x => x.1 = fn) then
    let s := s.onHiu fun h => { h with redo := h.redo.erase (fn, n, id) }
    if s.hiu.redo.any (fun x => x.1 = fn) then s
    else s.onHiu fun h => { h with callMap := mapIf (fun e => e.fn = fn) (fun e => { e with parkHost := false }) h.callMap }
  else s

/-- An entry written counts as unconsumed from now on. -/
def noteWritten (s : State) (fn n id : Nat) : State :=
  redoDone (s.onHiu fun h => { h with unread := h.unread ++ [(fn, n, id)] }) fn n id

/-- LINE_WRITE (R62 to R64, R68, R102, R107, R183, R586). -/
def execLineWrite (fn : Fin 128) (callId : Word) (ok : Bool) (s : State) : Host.Outcome State Fault Refusal :=
  .next (match entOf s fn.val callId.toNat with
    | none => s
    | some e =>
      match dueLine s e with
      | none => s
      | some l =>
        if !hostUp s fn.val || !ringOn s fn.val e.ring ||
            decide (ringSize s fn.val e.ring ≤ (ringOf s fn.val e.ring).out.length) ||
            !inTurn s fn.val e.ring (lineId e l) then s
        else if !domLit s 56 then demandDom s 56
        else if !ok then writeFailed s fn.val
        else
          let s := ringWrite s fn.val e.ring (lineId e l) (fun ph => wireBytes (setBit l 52 ph))
          let s := noteWritten (onEnt s fn.val e.callId fun e => lineWritten e l) fn.val e.ring (lineId e l)
          wmUpdate (if lineFinal l then tellFinal s fn.val e.callId else s) 2)

/-- The FINAL Notice may be written: no Line is left to write again, and its final Line has been written, or none comes and no
Line can still be written (R77, R107). -/
def finalReady (e : CallEnt) : Bool := e.redo = 0 && (e.finalPos.isSome || (e.noLine && (nextLine e).isNone))

/-- A DEVICE Notice about a fault record carries the record's count when it is written (R826). -/
def withCount (s : State) (n : Notice) : Notice :=
  if noticeStatus n = stOk then
    match s.flt.log.reverse.find? (fun r => frCode r = bits n 64 16 && frDetail r = bits n 96 32) with
    | some r => BitVec.ofNat 256 (n.toNat - place 160 32 (bits n 160 32) + place 160 32 (frCount r))
    | none => n
  else n

/-- A restored Call of this device becomes a candidate at its lead, when that is this device, once its RESTORED Notice is
written (R703). -/
def restoredHere (s : State) (fn callId : Nat) : State :=
  s.onStm fun t => { t with
    board := mapIf (fun c => c.src = selfDev s && c.fn = fn && c.callId = callId) (fun c => { c with restoring := false })
      t.board }

/-- The Notice a ring write takes, its function, and the state once it is written. -/
def pickNotice (s : State) (fn : Nat) (sel : NoticeSel) : Option (Notice × Bool × Nat × (State → State)) :=
  match sel with
  | .call callId kind =>
    match entOf s fn callId.toNat with
    | none => none
    | some e =>
      let upd (f : CallEnt → CallEnt) (s : State) : State := onEnt s fn e.callId f
      if kind = 1 then
        e.admittedN.map fun n => (n, false, 0, upd fun e => { e with admittedN := none, parkNotice := e.restoredN.isSome && e.parkNotice })
      else if kind = 4 then
        e.restoredN.map fun n => (n, false, 0, fun s => restoredHere (upd (fun e => { e with
          restoredN := none, parkNotice := e.admittedN.isSome && e.parkNotice }) s) fn e.callId)
      else if kind = 3 ∧ finalReady e = true then
        e.finalN.map fun n =>
          let n := BitVec.ofNat 256 (n.toNat - place 128 20 noPos + place 128 20 (e.finalPos.getD noPos))
          (n, true, e.callId * 2 + 1, upd fun x => { x with finalN := none, finalWritten := true, finalKept := e.finalN })
      else none
  | .outcome i =>
    match s.hiu.outcomes[i]? with
    | some o =>
      if o.fn = fn then
        o.notice.map fun n => (n, true, 0, fun s =>
          let s := s.onHiu fun h => { h with outcomes := h.outcomes.eraseIdx i }
          if o.op = 1 then
            (if o.made then dropEnt s fn o.callId else s)
          else s)
      else none
    | none => none
  | .device =>
    if fn = 0 then
      s.hiu.devStore.head?.map fun n => (withCount s n, false, 0, fun s => s.onHiu fun h => { h with devStore := h.devStore.drop 1 })
    else none

/-- NOTICE_WRITE (R62 to R64, R66 to R68, R77 to R79, R102, R142): into a reserved entry, or into a free unreserved one
for an ADMITTED, RESTORED or DEVICE Notice. -/
def execNoticeWrite (fn : Fin 128) (sel : NoticeSel) (ok : Bool) (s : State) : Host.Outcome State Fault Refusal :=
  .next (match pickNotice s fn.val sel with
    | none => s
    | some (n, reserved, id, done) =>
      let room := if reserved then
          ringOn s fn.val 4 && decide ((ringOf s fn.val 4).out.length < ringSize s fn.val 4)
        else nqFree s fn.val
      if !hostUp s fn.val || !room || (id % 2 = 1 && !inTurn s fn.val 4 id) then s
      else if !domLit s 56 then demandDom s 56
      else if !ok then writeFailed s fn.val
      else
        let s := if reserved then unreserveNq s fn.val else s
        let s := ringWrite s fn.val 4 id (fun ph => wireBytes (setBit n 39 ph))
        wmUpdate (if id % 2 = 1 then noteWritten (done s) fn.val 4 id else done s) 2)

/-- RECLAIM (R107, R110): before expiry the unconsumed Lines and FINAL Notices are to be written again and the
function's Calls unpark after the last; the first one after expiry raises a DEVICE Notice. -/
def execReclaim (fn : Fin 128) (v : Word) (s : State) : Host.Outcome State Fault Refusal :=
  let off := if fn.val = 0 then 0x82004 else 0x2004
  .next (if !writable s fn.val off || !bit v 0 then s
    else if s.hiu.grace.any (fun g => g.1 = fn.val) then
      let redoes := s.hiu.callMap.filter (fun e => e.fn = fn.val && e.finalWritten)
      let s := redoes.foldl (fun s _ => reserveNq s fn.val) s
      let s := s.onHiu fun h => { h with
        grace := h.grace.filter fun g => g.1 ≠ fn.val
        redo := h.redo.filter (fun x => x.1 ≠ fn.val) ++ (h.unread ++ h.redo).filter fun x => x.1 = fn.val
        unread := h.unread.filter fun x => x.1 ≠ fn.val
        callMap := mapIf (fun e => e.fn = fn.val) (fun e =>
          { e with
            win := e.kept ++ e.win, kept := [], redo := e.redo + e.kept.length
            parkHost := e.parkHost && (h.unread ++ h.redo).any (fun x => x.1 = fn.val)
            finalN := if e.finalWritten then e.finalKept else e.finalN, finalWritten := false }) h.callMap }
      set s (Fld.fnStatusGrace fn.val) 0
    else
      match s.hiu.expired.find? (fun x => x.1 = fn.val) with
      | some x =>
        let s := s.onHiu fun h => { h with expired := h.expired.erase x }
        deviceNotice s (mkNotice 0xFFFFFFFF fn.val 6 stHostLost 0 0 noPos 0 x.2 (cueNum s))
      | none => s)

/-- LINE (R183, R586, R702). -/
def execLine (src : Fin 1024) (fn : Fin 128) (lines : List Line) (s : State) : Host.Outcome State Fault Refusal :=
  .next (arriveLine s src.val fn.val lines)

/-- CREDIT (R87, R196). -/
def execCredit (src : Fin 1024) (ents : List (Word × Fin 128 × Nat)) (s : State) : Host.Outcome State Fault Refusal :=
  .next (arriveCredit s src.val (ents.map fun e => (e.1.toNat, e.2.1.val, e.2.2)))

/-- CARD (R527, R589). -/
def execCard (src : Fin 1024) (fn : Fin 128) (tag : BitVec 16) (_off : Word) (card : Card) (s : State) :
    Host.Outcome State Fault Refusal :=
  .next (if isLead s then arriveCard s src.val fn.val tag.toNat card else s)

/-- PROMPT (R527, R591). -/
def execPrompt (src : Fin 1024) (fn : Fin 128) (callId : Word) (first : Nat) (toks : List Word) (s : State) :
    Host.Outcome State Fault Refusal :=
  .next (if isLead s then arrivePrompt s src.val fn.val callId.toNat first (toks.map (·.toNat)) else s)

end Sys2Proof.Machine
end

