-- ==== Sys2Proof/Machine/Haywain.lean ====
section
/-!
DEFINITION. The Haywain's host queues (spec/02_host_attachment.md, R89 to R101, R880): the commands HQ_TAIL_DOORBELL,
H2D, D2H, FENCE, DESCRIPTOR_COMPLETE and HQ_RESUME.
-/
namespace Sys2Proof.Machine

def hqOf (s : State) (k : Nat) : List HDesc := (s.hiu.hqs.getD k ⟨[]⟩).q

def putHq (s : State) (k : Nat) (q : List HDesc) : State :=
  s.onHiu fun h => { h with hqs := h.hqs.set k ⟨q⟩ }

/-- The device range [a, a + n) meets the range [lo, lo + len) of some Player's Loft (R251). -/
def touchesLoft (a n lo len : Nat) : Bool :=
  decide (a < loftEnd) && (List.range ((a + n - 1) / 0x600000 - a / 0x600000 + 1)).any fun i =>
    let b := (a / 0x600000 + i) * 0x600000 + lo
    decide (a < b + len) && decide (b < a + n)

/-- The range lies in the Loft, in the weight view's span or in Meadow (R253). -/
def rangeOk (s : State) (a n : Nat) : Bool :=
  decide (a + n ≤ loftEnd) || inWeightView s a n || (decide (meadowBase ≤ a) && decide (a + n ≤ meadowEnd))

/-- A legal descriptor (Table HAY-2, R95, R253, R811). -/
def descLegal (s : State) (d : Desc) : Bool :=
  bits d 9 23 = 0 && bits d 224 32 = 0 &&
    (dOp d = 3 ||
      ((dOp d = 1 || dOp d = 2) && decide (4 ≤ dLen d) && decide (dLen d ≤ 16777216) && dLen d % 4 = 0 &&
        dHost d % 4 = 0 && dDev d % 4 = 0 && rangeOk s (dDev d) (dLen d) &&
        !(touchesLoft (dDev d) (dLen d) 0x20000 ((wGran s + get s Fld.plyLoftPartC) * 0x10000)) &&
        !(dOp d = 1 && decide (weightBase ≤ dDev d) && decide (dDev d < meadowBase) &&
          get s Fld.plyWloadStatusState ≠ 1)))

/-- The oldest descriptor of queue `k` that has not finished, if it is accepted and the queue runs (R89, R90). -/
def hqNext (s : State) (k : Nat) : Option (Nat × HDesc) :=
  if !isSet s (Fld.hqCtlEn k) || isSet s (Fld.hqStatusHalted k) || s.hiu.hostLost then none
  else
    match findIdx (fun d => !d.finished) ((hqOf s k).takeWhile fun d => d.stamp ≠ 0) with
    | some i => ((hqOf s k)[i]?).map fun d => (i, d)
    | none => none

/-- Descriptor `i` of queue `k` has finished with an error code of HAY_HQ_STATUS.ERR, 0 for none. -/
def hqFinish (s : State) (k i err : Nat) : State :=
  putHq s k ((hqOf s k).modify i fun d => { d with finished := true, err := err })

/-- The queue accepts what it can, and HEAD of a host queue is the next descriptor to accept (R90). -/
def hqHead (s : State) (k : Nat) : State :=
  let s := acceptHq s k
  let size := 2 ^ get s (Fld.hqCtlLog2size k)
  let wait := ((hqOf s k).filter fun d => d.stamp = 0).length
  wmUpdate (set s (Fld.hqHeadIdx k) ((get s (Fld.hqTailIdx k) + size - wait % size) % size)) (0x9C + k)

/-- Write bytes at a device address as the Haywain does: through the weight view where the address lies in it (R252). -/
def writeDevice (s : State) (a : Nat) (bs : List Byte) : State :=
  ((bs.zip (List.range bs.length)).foldl (fun s p => writeByte s (physOf (a + p.2)) p.1)) s

/-- The address a register command of host queue `k` writes. -/
def hqCtlOff (k : Nat) : Nat := 0xE00108 + 0x20 * k

/-- HQ_TAIL_DOORBELL (R61, R89, R90): the descriptors between the old tail and the new one are given to the queue. -/
def execHqTailDoorbell (k : Fin 4) (v : Word) (descs : List Desc) (s : State) : Host.Outcome State Fault Refusal :=
  .next (let size := 2 ^ get s (Fld.hqCtlLog2size k.val)
    if !writable s 0 (hqCtlOff k.val) then s
    else if size ≤ bits v 0 16 then set s (Fld.fnStatusDbErr 0) 1
    else
      let n := (bits v 0 16 + size - get s (Fld.hqTailIdx k.val)) % size
      let s := set s (Fld.hqTailIdx k.val) (bits v 0 16)
      hqHead (putHq s k.val (hqOf s k.val ++ (descs.take n).map fun d => ⟨d, false, 0, 0⟩)) k.val)

/-- H2D (R89, R99, R100, R290, R811, R880): the oldest open descriptor of the queue reads host memory into the device. Granules are
counted from the descriptor's first byte (log entry 143). -/
def execH2d (k : Fin 4) (data : List Byte) (x : Xfer) (s : State) : Host.Outcome State Fault Refusal :=
  .next (match hqNext s k.val with
    | none => s
    | some (i, h) =>
      let d := h.d
      if dOp d ≠ 1 || !descLegal s d then s
      else if !domLit s 56 then demandDom s 56
      else if sealedMode s && touchesLoft (dDev d) (dLen d) 0 0x20000 then
        hqFinish (audit s 1 0 false stSealedDenied (0x80000000 + (28 + k.val))) k.val i 5
      else
        let bs := data.take (dLen d)
        let mark (s : State) (n : Nat) : State :=
          x.poison.foldl (fun s o => if o < n then setPoison s (physOf (dDev d + o)) else s) s
        match x.fault with
        | some g =>
          let s := if x.wrote then mark (writeDevice s (dDev d) (bs.take (64 * g))) (min (64 * g) (dLen d)) else s
          hqFinish s k.val i 2
        | none =>
          let s := mark (writeDevice s (dDev d) bs) (dLen d)
          hqFinish s k.val i (if x.poison.isEmpty then 0 else 3))

/-- D2H (R89, R94, R99, R100, R836): the oldest open descriptor of the queue writes host memory from the device. -/
def execD2h (k : Fin 4) (x : Xfer) (s : State) : Host.Outcome State Fault Refusal :=
  .next (match hqNext s k.val with
    | none => s
    | some (i, h) =>
      let d := h.d
      if dOp d ≠ 2 || !descLegal s d then s
      else if !domLit s 56 then demandDom s 56
      else if sealedMode s then hqFinish (audit s 1 0 false stSealedDenied (0x80000000 + (28 + k.val))) k.val i 5
      else
        let bs := (List.range (dLen d)).map fun o => readByte s (physOf (dDev d + o))
        let poison := (List.range (dLen d / 4)).any fun o => poisoned s (physOf (dDev d + 4 * o)) 4
        let put (s : State) (bs : List Byte) : State := s.onOut fun o => { o with host := o.host ++ [(dHost d, bs)] }
        match x.fault with
        | some g => hqFinish (if x.wrote then put s (bs.take (64 * g)) else s) k.val i 2
        | none => hqFinish (put s bs) k.val i (if poison then 3 else 0))

/-- A queue of the device's own holds a transfer that a FENCE accepted as `stamp` waits for: prompt pulls in queues 0 to 3, Heath
spills and fills in 8 to 15, a checkpoint drain in 16 to 23, a capsule or a Costume load in 24 to 27 (Table HAY-1). The queues of
one owner count as one (log entry 144). -/
def ownBusy (s : State) (j stamp : Nat) : Bool :=
  if j < 4 then s.hiu.outcomes.any fun o => o.card.isSome && !o.ready && decide (o.stamp < stamp)
  else if j < 8 then false
  else if j < 16 then
    (s.stm.board.any fun c => decide (c.heath = .spilling ∨ c.heath = .filling) && decide (selfDev s ∉ c.reports)) ||
      s.mdw.spills.any fun x => x.fill || !s.mdw.heath.any fun h => h.slot = x.slot
  else if j < 24 then !s.und.draining.isEmpty
  else s.pbk.emitDue || s.wdr.load.isSome

/-- FENCE (R93): done once every descriptor accepted earlier into its queue and the masked ones has completed. -/
def execFence (k : Fin 4) (s : State) : Host.Outcome State Fault Refusal :=
  .next (match hqNext s k.val with
    | none => s
    | some (i, h) =>
      let clear := (List.range 32).all fun j =>
        j = 28 + k.val || !bit h.d (32 + j) ||
          (if j < 28 then !ownBusy s j h.stamp
          else !((hqOf s (j - 28)).any fun e => decide (e.stamp ≠ 0) && decide (e.stamp < h.stamp)))
      if dOp h.d = 3 && descLegal s h.d && i = 0 && clear then hqFinish s k.val i 0 else s)

/-- DESCRIPTOR_COMPLETE (R91, R95): the head of the queue is reported; an illegal one moves nothing and halts it. -/
def execDescriptorComplete (k : Fin 4) (s : State) : Host.Outcome State Fault Refusal :=
  .next (match hqOf s k.val with
    | [] => s
    | h :: r =>
      if isSet s (Fld.hqStatusHalted k.val) then s
      else if h.finished then
        let s := set (set (putHq s k.val r) (Fld.hqTagV k.val) (dTag h.d)) (Fld.hqStatusErr k.val) h.err
        let s := if dIrq h.d then s.onOut fun o => { o with msix := o.msix ++ [(0, get s (Fld.hqCtlVec k.val))] } else s
        hqHead s k.val
      else if h.stamp = 0 || !isSet s (Fld.hqCtlEn k.val) then s
      else if !descLegal s h.d then
        let s := set (set (putHq s k.val r) (Fld.hqTagV k.val) (dTag h.d)) (Fld.hqStatusErr k.val) 1
        hqHead (set s (Fld.hqStatusHalted k.val) 1) k.val
      else s)

/-- HQ_RESUME (R95): a halt is cleared and the queue goes on after the failed descriptor. -/
def execHqResume (k : Fin 4) (v : Word) (s : State) : Host.Outcome State Fault Refusal :=
  .next (let t := commandWord s 0 (hqCtlOff k.val) v
    if writable s 0 (hqCtlOff k.val) && bit v 1 then hqHead (set t (Fld.hqStatusHalted k.val) 0) k.val else t)

/-- Every outstanding descriptor of a queue completes with error ABORTED (R103, R106, R599). -/
def abortQueue (s : State) (k : Nat) : State :=
  match ((hqOf s k).takeWhile fun d => d.stamp ≠ 0).getLast? with
  | none => s
  | some l => hqHead (set (set (putHq s k ((hqOf s k).filter fun d => d.stamp = 0)) (Fld.hqTagV k) (dTag l.d)) (Fld.hqStatusErr k) 4) k

def abortQueues (s : State) : State := (List.range 4).foldl abortQueue s

end Sys2Proof.Machine
end

