-- ==== Sys2Proof/Machine/Gorse.lean ====
section
/-!
DEFINITION. Keys derived from the House key, the IV counter, SipHash, and Gorse and Wind (spec/10_gorse_and_wind.md,
R478, R739, R743): the commands WIND_BLOCK, STARTUP_TESTS_DONE, RETEST, GORSE_TEST_GO and CONTEXT.
-/
namespace Sys2Proof.Machine

/-! Keys and IVs. -/

/-- Bytes of `v`, most significant first. -/
def beBytes (n v : Nat) : List Byte := (leBytes n v).reverse

/-- The House KDF of R739: the leading `b` bits of the HMAC. -/
def houseKdf (hk : Nat) (label : List Byte) (house b : Nat) : Nat :=
  Config.hmac384 hk (beBytes 4 1 ++ label ++ [0] ++ leBytes 8 house ++ beBytes 4 b) / 2 ^ (384 - b)

def ascii (s : String) : List Byte := s.toList.map fun c => BitVec.ofNat 8 c.toNat

def houseId (s : State) : Nat := match s.spl.active with | some p => p.houseId | none => 0

/-- A House key of Table SDR-2, while the device holds the House key. -/
def houseKey (s : State) (label : String) (b : Nat) : Option Nat :=
  s.sdr.hk.map fun hk => houseKdf hk (ascii label) (houseId s) b

/-- The Stage Door performs cryptographic operations: it is not in ERROR (R764). -/
def cryptoOn (s : State) : Bool := get s Fld.sdrStatusState ≠ 2

/-- Tenant key slot (R745). -/
def tenantKey (s : State) (t : Nat) : Option Nat :=
  if cryptoOn s then s.sdr.tkeys.get? t else none

/-- The next value of the device-wide IV counter, reserving a further 2^20 from the Ledger when the reservation is used
up (R743). -/
def takeIv (s : State) : Nat × State :=
  let s := if s.sdr.ivNext < s.sdr.ivResv then s
    else
      storeBlock ((s.onSdr fun d => { d with ivResv := d.ivNext + 2 ^ 20 }).onLdg fun l =>
        { l with ivResv := s.sdr.ivNext + 2 ^ 20 }) stateBlock
  (s.sdr.ivNext, s.onSdr fun d => { d with ivNext := d.ivNext + 1 })

/-- A 12-byte IV: device in bytes 0 to 1, counter in bytes 2 to 9 (Table MDW-4, Table PBK-4). -/
def ivOf (s : State) (c : Nat) : Nat := selfDev s + c % 2 ^ 64 * 2 ^ 16

/-! SipHash-2-4 (R478). -/

def rotl64 (v r : Nat) : Nat := (v * 2 ^ r) % 2 ^ 64 + v / 2 ^ (64 - r)

def add64 (a b : Nat) : Nat := (a + b) % 2 ^ 64

/-- One SipRound. -/
def sipRound (v : Nat × Nat × Nat × Nat) : Nat × Nat × Nat × Nat :=
  let (a, b, c, d) := v
  let a := add64 a b
  let b := Nat.xor (rotl64 b 13) a
  let a := rotl64 a 32
  let c := add64 c d
  let d := Nat.xor (rotl64 d 16) c
  let a := add64 a d
  let d := Nat.xor (rotl64 d 21) a
  let c := add64 c b
  let b := Nat.xor (rotl64 b 17) c
  let c := rotl64 c 32
  (a, b, c, d)

/-- SipHash-2-4 of 8-byte words, the last one already carrying the length byte. -/
def sipWords (key : Nat) (ws : List Nat) : Nat :=
  let k0 := key % 2 ^ 64
  let k1 := key / 2 ^ 64 % 2 ^ 64
  let v := (Nat.xor k0 0x736F6D6570736575, Nat.xor k1 0x646F72616E646F6D, Nat.xor k0 0x6C7967656E657261,
    Nat.xor k1 0x7465646279746573)
  let v := ws.foldl (fun v m =>
    let (a, b, c, d) := sipRound (sipRound (v.1, v.2.1, v.2.2.1, Nat.xor v.2.2.2 m))
    (Nat.xor a m, b, c, d)) v
  let (a, b, c, d) := sipRound (sipRound (sipRound (sipRound (v.1, v.2.1, Nat.xor v.2.2.1 0xFF, v.2.2.2))))
  Nat.xor (Nat.xor a b) (Nat.xor c d)

/-- SipHash-2-4 of a message of whole 8-byte words. -/
def sipHash (key : Nat) (ws : List Nat) : Nat := sipWords key (ws ++ [8 * ws.length % 256 * 2 ^ 56])

/-- Pairs of 32-bit tokens as 8-byte words. -/
def tokWords : List Nat → List Nat
  | a :: b :: r => (a % 2 ^ 32 + b % 2 ^ 32 * 2 ^ 32) :: tokWords r
  | [a] => [a % 2 ^ 32]
  | [] => []

/-! Gorse (R414 to R419). -/

def rotl32 (v r : Nat) : Nat := (v * 2 ^ r) % 2 ^ 32 + v / 2 ^ (32 - r)

/-- One round of the block function. -/
def gorseRound (k x : List Nat) (r : Nat) : List Nat :=
  let rk := (k.getD (r % 4) 0 + 0x9E3779B9 * (r + 1)) % 2 ^ 32
  let a := (x.getD 0 0 + rk) % 2 ^ 32
  let b := Nat.xor (x.getD 1 0) (rotl32 a 7)
  let c := (x.getD 2 0 + b) % 2 ^ 32
  let d := Nat.xor (x.getD 3 0) (rotl32 c 13)
  let a := (a + d) % 2 ^ 32
  let b := Nat.xor b (rotl32 a 18)
  [b, c, d, a]

/-- gorse_block (R414). -/
def gorseBlock (k x : List Nat) : List Nat :=
  let y := (List.range 10).foldl (gorseRound k) x
  (List.range 4).map fun i => (y.getD i 0 + k.getD i 0) % 2 ^ 32

/-- A counter (Table GRS-2). -/
def gorseCtr (pos stream index base : Nat) : List Nat := [place 0 20 pos + place 20 8 stream, index % 2 ^ 32, 0, base]

/-- Output word 0 of a draw under a Call's context. -/
def gorseDraw (c : GCtx) (pos stream index : Nat) : Nat :=
  (gorseBlock (ctxKey c) (gorseCtr pos stream index (ctxBase c))).getD 0 0

/-- u of the sampling stream at a position (R346, Table GRS-3). -/
def gorseU (c : GCtx) (pos : Nat) : Nat := gorseDraw c pos 1 0

/-- r of the stochastic-rounding stream (Table GRS-3, R418). -/
def gorseR (c : GCtx) (pos site elem : Nat) : Nat := gorseDraw c pos 3 (site % 2 ^ 12 * 2 ^ 20 + elem % 2 ^ 20) % 65536

/-- A Call's context from the seed actually used (R415, R416, R421). -/
def newCtx (s : State) (seed source base : Nat) : GCtx :=
  let kd := [get s Fld.grsDomainLoV, get s Fld.grsDomainHiV, 0x476F7273, 0x65446F6D]
  mkCtx (gorseBlock kd [seed % 2 ^ 32, seed / 2 ^ 32, 0, 0]) base seed source

/-- The context with another stream base (R419). -/
def ctxWithBase (c : GCtx) (base : Nat) : GCtx := mkCtx (ctxKey c) (base % 2 ^ 32) (ctxSeed c) (bits c 224 8)

/-! Wind blocks and the seed generator (R410 to R413, R885). -/

def windHealthy (s : State) : Bool := get s Fld.grsWindStatusState = 1

/-- Consumers of Wind blocks. -/
def windForSeed : Nat := 0
def windForDrbg : Nat := 1

/-- A delivered block reaches its consumer: a rekey (R412) or the DRBG (R750). -/
def windDeliver (s : State) (who blk : Nat) : State :=
  if who = windForSeed then
    (set (set s Fld.grsSeedStatusStale 0) Fld.grsSeedStatusSinceRekey 0).onGrs fun g =>
      { g with kSeed := blk % 2 ^ 128, c := 0, seeds := 0, due := false }
  else
    (set s Fld.sdrStatusNeedSeed 0).onSdr fun d => { d with drbg := some (Config.drbgInit blk), gens := 0 }

/-- A refused request (R410): the seed generator goes stale (R413), the DRBG waits for a seed (R751). -/
def windRefuse (s : State) (who : Nat) : State :=
  if who = windForSeed then set s Fld.grsSeedStatusStale 1 else set s Fld.sdrStatusNeedSeed 1

/-- A request for a block: served from the oldest one ready, waiting while HEALTHY, refused otherwise (R410, R885). -/
def windRequest (s : State) (who : Nat) : State :=
  if !windHealthy s then windRefuse s who
  else
    match s.grs.ready with
    | b :: r => windDeliver (s.onGrs fun g => { g with ready := r }) who b
    | [] => if who ∈ s.grs.reqs then s else s.onGrs fun g => { g with reqs := g.reqs ++ [who] }

/-- A rekey that is due is attempted (R412, R413). -/
def tryRekey (s : State) : State := if s.grs.due then windRequest s windForSeed else s

/-- The first counter from `c` on whose block gives a seed other than 0, among the first `n`: the seed and the counter after it. -/
def seedFrom (k : List Nat) : Nat → Nat → Option (Nat × Nat)
  | 0, _ => none
  | n + 1, c =>
    let o := gorseBlock k [c % 2 ^ 32, c / 2 ^ 32 % 2 ^ 32, 0x5EED0000, 0]
    let v := o.getD 0 0 + o.getD 1 0 * 2 ^ 32
    if v = 0 then seedFrom k n (c + 1) else some (v, (c + 1) % 2 ^ 64)

/-- next_seed (R411): the loop over a whole round of the 64-bit counter. The spec's loop does not end for a key that gives 0 at every
counter; there the seed is a free value other than 0 (log entry 165). -/
def nextSeed (kSeed c : Nat) : Nat × Nat :=
  let k := (List.range 4).map fun i => kSeed / 2 ^ (32 * i) % 2 ^ 32
  (seedFrom k (2 ^ 64) c).getD (Config.freeNat c % (2 ^ 64 - 1) + 1, c)

/-- Count one supplied seed, the generator's counter at `c` after it (R411, R413). -/
def countSeed (s : State) (c : Nat) : State :=
  let s := s.onGrs fun g => { g with c := c, seeds := g.seeds + 1, due := g.due || decide (65536 ≤ g.seeds + 1) }
  set s Fld.grsSeedStatusSinceRekey (min 65535 (get s Fld.grsSeedStatusSinceRekey + 1))

/-- Rekey at once after seed 65,536 (R412). -/
def rekeyIfSpent (s : State) : State := if s.grs.seeds = 65536 then tryRekey s else s

/-- Supply one seed (R411 to R413). -/
def takeSeed (s : State) : Nat × State :=
  let s := tryRekey s
  let p := nextSeed s.grs.kSeed s.grs.c
  (p.1, rekeyIfSpent (countSeed s p.2))

/-- Wind enters STARTUP (R886): waiting requests are refused. -/
def windStartup (s : State) : State :=
  let s := s.grs.reqs.foldl windRefuse s
  let s := set (set s Fld.grsWindStatusState 0) Fld.grsWindStatusConsec 0
  s.onGrs fun g => { g with ready := [], reqs := [], rctLast := none, rctRun := 0, aptN := 0, aptCnt := 0 }

/-- Wind enters FAILED with a WIND fault; waiting requests are refused. -/
def windFail (s : State) : State :=
  let s := set s Fld.grsWindStatusState 2
  let s := (s.grs.reqs.foldl windRefuse s).onGrs fun g => { g with reqs := [] }
  report (advance s) 0x0601 0xFFFF (fresh s % 2 ^ 32)

/-- State of the two continuous tests and which failed. -/
structure Health where
  last : Option Bool
  run : Nat
  n : Nat
  aptBit : Bool
  cnt : Nat
  rct : Bool
  apt : Bool
  deriving DecidableEq, Repr

/-- One raw bit through both tests (R406): a run of 41 equal bits, or 624 equal to the first of a window of 1,024. -/
def healthBit (h : Health) (b : Bool) : Health :=
  let run := if h.last = some b then h.run + 1 else 1
  let first := h.n = 0
  let aptBit := if first then b else h.aptBit
  let cnt := if first then 1 else if b = h.aptBit then h.cnt + 1 else h.cnt
  let n := (h.n + 1) % 1024
  { last := some b, run := run, n := n, aptBit := aptBit, cnt := cnt, rct := h.rct || decide (41 ≤ run),
    apt := h.apt || decide (624 ≤ cnt) }

/-- Raw bits, bit 0 first. -/
def healthBits {n : Nat} (v : BitVec n) (h : Health) : Health :=
  (List.range n).foldl (fun h i => healthBit h (bit v i)) h

def putHealth (s : State) (h : Health) : State :=
  let s := if h.rct then set s Fld.grsWindStatusRctFail 1 else s
  let s := if h.apt then set s Fld.grsWindStatusAptFail 1 else s
  s.onGrs fun g => { g with rctLast := h.last, rctRun := h.run, aptN := h.n, aptBit := h.aptBit, aptCnt := h.cnt }

/-! The commands. -/

/-- WIND_BLOCK (R406, R407, R409, R885). -/
def execWindBlock (raw : BitVec 1536) (s : State) : Host.Outcome State Fault Refusal :=
  .next (if !windHealthy s then s
    else
      let g := s.grs
      let h := healthBits raw ⟨g.rctLast, g.rctRun, g.aptN, g.aptBit, g.aptCnt, false, false⟩
      let s := putHealth s h
      if h.rct || h.apt then
        let s := inc s Fld.grsWindCountV 1
        let k := get s Fld.grsWindStatusConsec + 1
        let s := set s Fld.grsWindStatusConsec k
        if 3 ≤ k then windFail s else s
      else
        let s := set s Fld.grsWindStatusConsec 0
        let blk := Config.sha384 (wireBytes raw)
        match s.grs.reqs with
        | w :: r => windDeliver (s.onGrs fun g => { g with reqs := r }) w blk
        | [] => if s.grs.ready.length < 4 then s.onGrs fun g => { g with ready := g.ready ++ [blk] } else s)

/-- The start-up tests of Wind have finished at boot: SELFTEST may go on (Table BRING-3). -/
def windBootDone (s : State) : State := s.onBrd fun b => { b with windDone := true }

/-- STARTUP_TESTS_DONE (R408, R409): the 4,096 bits are discarded. -/
def startupTests (raw : BitVec 4096) (s : State) : State :=
  if get s Fld.grsWindStatusState ≠ 0 then s
  else
    let h := healthBits raw ⟨none, 0, 0, false, 0, false, false⟩
    let s := putHealth s h
    if h.rct || h.apt then windFail s
    else
      let s := set s Fld.grsWindStatusState 1
      let s := tryRekey s
      if s.sdr.drbg.isNone then windRequest s windForDrbg else s

/-- RETEST (R409, R886). -/
def execRetest (v : Word) (s : State) : Host.Outcome State Fault Refusal :=
  .next (let off := Fld.grsWindCtlRetest.off
    let t := commandWord s 0 off v
    if reaches s 0 off && bit v 0 && decide (get s Fld.grsWindStatusState ≠ 0) then windStartup t else t)

/-- GORSE_TEST_GO (R414, R430). -/
def execGorseTestGo (v : Word) (s : State) : Host.Outcome State Fault Refusal :=
  .next (let off := Fld.grsTestGoGo.off
    let t := commandWord s 0 off v
    if reaches s 0 off && bit v 0 then
      let k := (List.range 4).map fun i => get s (Fld.grsTestKeyV i)
      let x := (List.range 4).map fun i => get s (Fld.grsTestCtrV i)
      let y := gorseBlock k x
      set ((List.range 4).foldl (fun t i => set t (Fld.grsTestOutV i) (y.getD i 0)) t) Fld.grsTestGoDone 1
    else t)

/-- Store a Call's context in the slot-indexed table (R422, R427). -/
def putCtx (s : State) (slot : Nat) (c : GCtx) (poison : Bool) : State :=
  s.onGrs fun g => { g with ctx := g.ctx.put slot (c, poison) }

/-- The lead of this device's Company sent it. -/
def fromLead (s : State) (src : Nat) : Bool := decide (leadDev s = some src)

/-- CONTEXT (R422, R427). -/
def execContext (src : Fin 1024) (slot : Fin 16384) (ctx : GCtx) (poison : Bool) (s : State) :
    Host.Outcome State Fault Refusal :=
  .next (if fromLead s src.val then putCtx s slot.val ctx poison else s)

end Sys2Proof.Machine
end

