-- ==== Sys2Proof/Machine/Meadow.lean ====
section
/-!
DEFINITION. Meadow: the block pool, block tables, the prefix table and prefix handles (spec/12_meadow_and_heath.md); the
commands PREFIX_LOOKUP, BLOCK_SET, TABLE_CLEAR and TABLE_INVALIDATE.
-/
namespace Sys2Proof.Machine

/-! The Call Board. -/

def callAt (s : State) (slot : Nat) : Option Call := s.stm.board.find? (fun c => c.slot = slot)

def onCall (s : State) (slot : Nat) (f : Call → Call) : State :=
  s.onStm fun t => { t with board := mapIf (fun c => c.slot = slot) f t.board }

/-- The live Call a card names (R23). -/
def callOf (s : State) (src fn callId : Nat) : Option Call :=
  s.stm.board.find? (fun c => c.src = src && c.fn = fn && c.callId = callId && c.phase ≠ .ended)

/-! The pool (R468, R489 to R491). -/

/-- Free blocks, cached ones among them, that no reservation covers (check 8 of Table BOX-1, R489). -/
def unreserved (s : State) : Nat := freeBlocks s + (cachedBlocks s).length - reservedBlocks s

/-- Blocks that nothing holds and that are not in the prefix table return to the pool. -/
def sweepBlocks (s : State) : State :=
  s.onMdw fun m => { m with blocks := m.blocks.filter fun p => p.2.key.isSome || heldByCall s p.1 || heldByHandle s p.1 }

/-- Evict one cached block: one with no cached child first, and of those the least recently attached (R490). -/
def evict (s : State) : State :=
  let cs := cachedBlocks s
  let child (b : Nat) : Bool := cs.any fun p => match p.2.key with | some (some q, _) => q = b | _ => false
  match (sortBy (fun p : Nat × Blk => p.2.lastAtt) (cs.filter fun p => !child p.1) ++
      sortBy (fun p : Nat × Blk => p.2.lastAtt) cs).head? with
  | some (b, _) => (inc s Fld.mdwEvictedV 1).onMdw fun m => { m with blocks := m.blocks.del b }
  | none => s

/-- Draw one block for the Call admitted as `seq` (R469, R490). Which free block it is, is a free value. -/
def drawBlock (s : State) (seq : Nat) : Nat × State :=
  let s := if freeBlocks s = 0 then evict s else s
  let start := fresh s
  let n := poolSize s
  let b := ((List.range (s.mdw.blocks.length + 1)).map fun i => (start + i) % n).find? fun b => (s.mdw.blocks.get? b).isNone
  let b := b.getD 0
  (b, (advance s).onMdw fun m => { m with blocks := m.blocks.put b ⟨seq, none, [], m.stamp⟩ })

/-- Draw `k` blocks. -/
def drawBlocks (s : State) (seq : Nat) : Nat → List Nat × State
  | 0 => ([], s)
  | k + 1 =>
    let (b, s) := drawBlock s seq
    let (bs, s) := drawBlocks s seq k
    (b :: bs, s)

/-! Block tables (R471 to R473, R501 to R504). -/

def tableAddr (s : State) (slot ord : Nat) : Nat :=
  (match s.spl.active with | some p => p.tableBase | none => 0) + slot * 65536 + 4 * ord

/-- A table entry as a unit of this device reads it: the cached copy, or Meadow, which it then caches (R502). -/
def readEntry (s : State) (slot ord : Nat) : Nat × State :=
  let a := tableAddr s slot ord
  match s.mdw.cached.get? a with
  | some v => (v, s)
  | none => let v := readLe s a 4; (v, s.onMdw fun m => { m with cached := m.cached.put a v })

/-- Drop cached copies whose address satisfies `p`. -/
def uncache (s : State) (p : Nat → Bool) : State := s.onMdw fun m => { m with cached := m.cached.filter fun e => !p e.1 }

/-- Set a run of bytes to 0. -/
def clearRange (s : State) (a n : Nat) : State :=
  s.onMdw fun m => { m with
    mem := m.mem.filter fun c => !(decide (a ≤ c.1) && decide (c.1 < a + n))
    poison := m.poison.filter fun c => !(decide (a ≤ 8 * c.1 + 7) && decide (8 * c.1 < a + n)) }

/-- Reserved bits of a table message (Table MDW-3). -/
def tableMsgBad (s : State) (m : CueTok) : Bool :=
  if clKind m = 0x11 then
    bits m 8 8 ≠ 0 || bits m 30 2 ≠ 0 || bits m 46 18 ≠ 0 || bits m 87 25 ≠ 0 || decide (poolSize s ≤ bits m 64 22)
  else if clKind m = 0x12 then bits m 8 8 ≠ 0 || bits m 30 82 ≠ 0
  else true

/-- Number of the flow of an operator's beats for a Call, from 1 on, and its slot (R180; log entry 55). -/
def flowId (slot op : Nat) : Nat := 1 + slot * 2 ^ 16 + op
def flowSlot (f : Nat) : Nat := (f - 1) / 2 ^ 16

/-- The device's own entry for a slot is freed. -/
def dropHeath (s : State) (slot : Nat) : State :=
  let s := s.onMdw fun m => { m with
    heath := m.heath.filter fun h => h.slot ≠ slot, spills := m.spills.filter fun x => x.slot ≠ slot }
  set (set s Fld.mdwHeathStatusEntries s.mdw.heath.length) Fld.mdwHeathPagesV ((s.mdw.heath.map (·.pages)).sum)

/-- A block, or a slot's page of the tables, that the cut froze is about to be written: it is copied first (R676). How long that takes, at most
3 µs (R677), is a free value (log entry 172). -/
def copyFirst (s : State) (page : Bool) (n : Nat) : State :=
  if s.und.copying && (if page then decide (n ∈ s.und.frozenPages) else decide (n ∈ s.und.frozen)) then
    let w := fresh s % 3001
    let s := (advance s).onUnd fun u => if page then { u with frozenPages := u.frozenPages.erase n }
      else { u with frozen := u.frozen.erase n }
    set (inc s Fld.undStallCountV 1) Fld.undStallMaxV (max (get s Fld.undStallMaxV) w)
  else s

/-- A table message acts on this device's Meadow and on its cached copies (R473). A cleared slot's flows end with it (R180). With a
BLOCK_SET discarded the Call's beats find no table here: none is instantiated, so that its listings end under R206. -/
def applyTable (s : State) (m : CueTok) : State :=
  if tableMsgBad s m then
    let s := report (advance s) 0x0803 0xFFFF (fresh s % 2 ^ 32)
    if clKind m = 0x12 then s
    else s.onStm fun t => { t with noTable := t.noTable.filter (fun x => x ≠ clSlot m) ++ [clSlot m] }
  else if clKind m = 0x11 then
    let a := tableAddr s (clSlot m) (bits m 32 14)
    let s := copyFirst s true (clSlot m)
    uncache (writeLe s a 4 (mkEntry (bits m 64 22) (bit m 86))) (fun x => x = a)
  else
    let a := tableAddr s (clSlot m) 0
    let s := copyFirst (dropHeath s (clSlot m)) true (clSlot m)
    let s := s.onPrm fun p => { p with
      binds := p.binds.del (clSlot m), guesses := p.guesses.del (clSlot m), lists := p.lists.filter fun x => x.slot ≠ clSlot m
      merges := p.merges.filter fun x => x.slot ≠ clSlot m, handed := p.handed.filter fun x => x.1.1 ≠ clSlot m }
    let s := s.onStm fun t => { t with
      flows := t.flows.filter fun x => flowSlot x.1 ≠ clSlot m, flowNext := t.flowNext.filter fun x => flowSlot x.1 ≠ clSlot m
      heldDone := t.heldDone.filter fun b => flowSlot b.flow ≠ clSlot m
      spans := t.spans.filter fun x => x.slot ≠ clSlot m, early := t.early.filter fun x => x.slot ≠ clSlot m
      noTable := t.noTable.filter fun x => x ≠ clSlot m }
    uncache (clearRange s a 65536) (fun x => decide (a ≤ x) && decide (x < a + 65536))

/-- Cue-channel items of a Call sent to members in the cue in progress (R596). -/
def noteSent (s : State) (cue slot : Nat) (devs : List Nat) : State :=
  s.onStm fun t => { t with
    sent := t.sent.filter (fun x => decide (cue ≤ x.1 + 3)) ++ devs.map fun d => (cue, d, slot) }

/-- A table message to every member, this device among them (R472). -/
def announceTable (s : State) (m : CueTok) : State :=
  sendAll (noteSent (applyTable s m) (cueNum s) (clSlot m) (memberDevs s)) 0x31 (memberDevs s) (wireBytes m)

/-- BLOCK_SETs for the ordinals from `i` on (R472). -/
def announceBlocks (s : State) (slot cue : Nat) : List (Nat × Bool) → Nat → State
  | [], _ => s
  | (b, sh) :: r, i => announceBlocks (announceTable s (mkBlockSet slot i b sh (cue % 65536))) slot cue r (i + 1)

/-! The hash chain (R478). -/

def blockHashKey (s : State) : Nat := (houseKey s "BLOCKHASH" 128).getD (Config.hmac384 0 [] % 2 ^ 128)

/-- Pieces of 64 tokens, whole ones only. -/
def fullBlocks (toks : List Nat) (n : Nat) : List (List Nat) := (pieces 64 (n + 1) toks).take n

/-- The chain values of the first `n` full blocks. -/
def chainOf (s : State) (c : Call) (n : Nat) : List Nat :=
  let k := blockHashKey s
  let (id, ver, ok) := match c.costume with | some (i, v) => (i, v, 1) | none => (0, 0, 0)
  let h0 := sipHash k [c.tenant + cardModel c.card * 2 ^ 12 + id * 2 ^ 28 + ver * 2 ^ 42 + ok * 2 ^ 50]
  ((fullBlocks c.toks n).foldl (fun (acc : List Nat × Nat) ts =>
    let h := sipHash k (acc.2 :: tokWords ts)
    (acc.1 ++ [h], h)) ([], h0)).1

/-- The prefix-table entry under a key (R479). -/
def prefixFind (s : State) (parent : Option Nat) (h : Nat) : Option (Nat × Blk) :=
  s.mdw.blocks.find? fun p => p.2.key = some (parent, h)

/-- Blocks found by hash from `n` on (R479, R480). -/
def hashRun (s : State) (limit : Nat) (hs : List Nat) (ts : List (List Nat)) : Nat → Nat → Option Nat → List Nat
  | 0, _, _ => []
  | fuel + 1, n, parent =>
    if limit ≤ n then []
    else
      match prefixFind s parent (hs.getD n 0) with
      | some (b, k) => if k.toks = ts.getD n [] then b :: hashRun s limit hs ts fuel (n + 1) (some b) else []
      | none => []

/-- The handle a card names, when it matches (R479). -/
def handleMatch (s : State) (c : Call) (limit : Nat) (ts : List (List Nat)) : Option Handle :=
  (s.mdw.handles.find? fun h => h.tenant = c.tenant && h.handle = cardPrefixIn c.card).filter fun h =>
    decide (h.blocks.length ≤ limit) && h.model = cardModel c.card && h.costume = c.costume &&
      (h.blocks.zip ts).all fun p => match s.mdw.blocks.get? p.1 with | some k => k.toks = p.2 | none => false

/-- The blocks that the lookup of a SUBMIT attaches, and whether it counts HANDLE_MISS (R476, R479). -/
def lookupBlocks (s : State) (c : Call) : List Nat × Bool :=
  let limit := (cardPromptLen c.card - 1) / 64
  let ts := fullBlocks c.toks limit
  let hd := if cardFlag c.card flagPrefixIn then handleMatch s c limit ts else none
  let first := match hd with | some h => h.blocks | none => []
  let rest := if cardFlag c.card flagNoHash then []
    else hashRun s limit (chainOf s c limit) ts (limit + 1) first.length first.getLast?
  (first ++ rest, cardFlag c.card flagPrefixIn && hd.isNone)

/-- Token records of full blocks, and their prefix-table entries unless NO_HASH, a present key or a full table forbids
(R475, R482, R505). -/
def insertFull (s : State) (c : Call) : State :=
  let n := min (c.kvLen / 64) c.blocks.length
  if n ≤ c.hashed then s
  else
    let hs := chainOf s c n
    let ts := fullBlocks c.toks n
    let cap := match s.spl.active with | some p => p.prefixEntries | none => 0
    let s := ((List.range n).drop c.hashed).foldl (fun s i =>
      let b := (c.blocks.getD i (0, false)).1
      let parent := if i = 0 then none else some (c.blocks.getD (i - 1) (0, false)).1
      match s.mdw.blocks.get? b with
      | none => s
      | some k =>
        let key := (parent, hs.getD i 0)
        let may := !cardFlag c.card flagNoHash && k.key.isNone && (prefixFind s key.1 key.2).isNone &&
          decide ((s.mdw.blocks.filter fun p => p.2.key.isSome).length < cap)
        s.onMdw fun m => { m with
          blocks := m.blocks.put b { k with toks := ts.getD i [], key := if may then some key else k.key } }) s
    onCall s c.slot fun c => { c with hashed := n }

/-- Blocks of which a beat read poison leave the prefix table at the boundary, and are freed when their last reference ends (R506; log
entry 169). -/
def dropBad (s : State) : State :=
  sweepBlocks (s.onMdw fun m => { m with
    bad := [], blocks := m.blocks.map fun x => if x.1 ∈ m.bad then (x.1, { x.2 with key := none }) else x })

/-- Every full block of this boundary is inserted, lower slots first (R482, R505). -/
def insertAll (s : State) : State := (sortBy (·.slot) s.stm.board).foldl insertFull s

/-! Handles (R484 to R488). -/

/-- Keep the full blocks of a released Call under its handle; false when the handle conflicts (R484, R485). -/
def keepHandle (s : State) (c : Call) : State × Bool :=
  let h := cardPrefixOut c.card
  if (s.mdw.handles.any fun x => x.tenant = c.tenant && x.handle = h) || decide (4096 ≤ s.mdw.handles.length) ||
      (c.src = selfDev s && decide (1024 ≤ s.hiu.handles.length)) then
    (inc s Fld.mdwMissConflict 1, false)
  else
    (s.onMdw fun m => { m with handles := m.handles ++
      [⟨c.tenant, h, cardModel c.card, c.costume, (c.blocks.take (c.kvLen / 64)).map Prod.fst⟩] }, true)

/-- Free a handle (R488), and one that its submitting device has no room for (R485). -/
def freeHandle (s : State) (t h : Nat) : State :=
  sweepBlocks (s.onMdw fun m => { m with handles := m.handles.filter fun x => !(x.tenant = t && x.handle = h) })

def noHandle (s : State) (t h : Nat) : State :=
  if s.mdw.handles.any fun x => x.tenant = t && x.handle = h then freeHandle (inc s Fld.mdwMissConflict 1) t h else s

/-! The commands. -/

/-- PREFIX_LOOKUP (R139, R470, R476 to R481): the blocks drawn for covered ordinals return to the pool, and the Call's
table goes out. -/
def execPrefixLookup (slot : Fin 16384) (s : State) : Host.Outcome State Fault Refusal :=
  .next (match callAt s slot.val with
    | none => s
    | some c =>
      if c.lookupDone || c.phase = .ended then s
      else
        let (bs, miss) := lookupBlocks s c
        let n := bs.length
        let s := if miss then inc s Fld.mdwMissHandleMiss 1 else s
        let s := inc s Fld.mdwHitsV n
        let tbl := bs.map (fun b => (b, true)) ++ c.blocks.drop n
        let s := onCall s c.slot fun c => { c with
          blocks := tbl, pend := c.pend.drop (64 * n), start := 64 * n, kvLen := 64 * n, hashed := n, lookupDone := true }
        let s := bs.foldl (fun s b => s.onMdw fun m => { m with
          stamp := m.stamp + 1
          blocks := match m.blocks.get? b with
            | some k => m.blocks.put b { k with lastAtt := m.stamp + 1 }
            | none => m.blocks }) s
        announceBlocks (sweepBlocks s) c.slot (nextCue s) tbl 0)

/-- BLOCK_SET (R472, R473). -/
def execBlockSet (msg : CueTok) (s : State) : Host.Outcome State Fault Refusal := .next (applyTable s msg)

/-- TABLE_CLEAR (R472, R473). -/
def execTableClear (msg : CueTok) (s : State) : Host.Outcome State Fault Refusal := .next (applyTable s msg)

/-- TABLE_INVALIDATE (R501, R508): cached copies of the block tables of the slot named, or of every slot, go. The other
tables are cached in no unit whose reads this model shows. -/
def execTableInvalidate (v : Word) (s : State) : Host.Outcome State Fault Refusal :=
  .next (let off := Fld.mdwTableInvalTable.off
    let t := commandWord s 0 off v
    if reaches s 0 off && bits v 0 3 = 1 then
      let a := tableAddr s (bits v 8 24) 0
      uncache t fun x => bit v 3 || (decide (a ≤ x) && decide (x < a + 65536))
    else t)

end Sys2Proof.Machine
end

