-- ==== Sys2Proof/Machine/Box.lean ====
section
/-!
DEFINITION. The Box Office (spec/03_box_office.md): the decision on the card at the head of the decision queue, for the
commands SUBMIT, CONTINUE, PAUSE, RESUME, CANCEL and RELEASE_PREFIX.
-/
namespace Sys2Proof.Machine

/-! Company state. -/

/-- Cue S of the scene change that stops this Company: one accepted here, or one that the shadow lead passed to this active lead (R653). -/
def sceneAt (s : State) : Option Nat :=
  match s.spl.scene.filter (·.accepted) with
  | some c => some c.cue
  | none => s.spl.passed.map (·.2.1)

/-- The Company is stopped by a scene change: composition of cue S would have begun (R48, Table SPL-5). -/
def stopped (s : State) : Bool := (sceneAt s).any fun n => decide (n < s.stm.nextComp)

/-- A scene change of the Company is under way (Table SPL-5, from START accepted). -/
def sceneOn (s : State) : Bool := (sceneAt s).isSome

/-- A replay runs (R727). -/
def replaying (s : State) : Bool := decide (get s Fld.pbkReplayStatusState ∈ [1, 2])

/-- The Company admits (check 2 of Table BOX-1, R695). -/
def admitting (s : State) : Bool := !stopped s && !decide (ownId s ∈ s.fab.lost)

/-- Every card is refused (ADMIT_EN 0, R727). -/
def refusesAll (s : State) : Bool := !isSet s Fld.boxAdmitCtlAdmitEn || replaying s

/-- The admission hold is in force (R146). -/
def holding (s : State) : Bool := isSet s Fld.boxAdmitCtlHold

/-! Budgets (R123 to R127). -/

/-- Set a level, saturating at −2^31 (R124). -/
def setLevel (s : State) (t : Nat) (v : Int) : State :=
  s.onBox fun b => { b with levels := b.levels.setD t 0 (max v (-2147483648)) }

def liveCap (s : State) (t : Nat) : Nat := getA s (Fld.boxTenCapsLiveCap.ix t)
def blockCap (s : State) (t : Nat) : Nat := getA s (Fld.boxTenCapsBlockCap.ix t)

/-! Deadlines (R131 to R137). -/

/-- Cutoff of composition in ns for a cue of this length (R184, R233). -/
def cutoffNs (s : State) (len : Nat) : Nat :=
  let c := getA s Fld.boxAdmitCtlCutoffUs * 1000
  if len < 4 * c then len / 4 else c

/-- What the card at the head is decided against: the state of things when it reached the head, or when the hold ended (R132,
R133, R153). -/
def headRec (s : State) : HeadRec :=
  s.box.head.getD ⟨eligibleNow s, get s Fld.boxModelPrefillRate, get s Fld.boxModelDecodeSlots, nextCue s⟩

/-- First cue the card at the head is eligible for (R133). -/
def eligibleCue (s : State) : Nat := (headRec s).cue

/-- A Call of the decode set: decoding, or parked or held from there (R134). -/
def inDecodeSet (c : Call) : Bool :=
  c.phase = .decoding || ((c.phase = .parked || c.phase = .held) && c.prev = .decoding)

def decodeCount (s : State) : Nat := (s.stm.board.filter inDecodeSet).length

/-- The computation of R134. -/
def feasible (deadline promptLen maxNew rate slots tFirst p back nDec : Nat) : Bool :=
  if deadline = 0 then true
  else if rate = 0 ∨ slots = 0 then false
  else
    let pc := ceilDiv (back + promptLen) rate
    let tail := maxNew - 1
    let dc := if nDec + 1 ≤ slots then tail else ceilDiv (tail * (nDec + 1)) slots
    decide (tFirst + p * (pc + dc) ≤ deadline)

/-- Check 9 of Table BOX-1 (R134, R136, R137). -/
def deadlineOk (s : State) (c : Card) : Bool :=
  let n := eligibleCue s
  let tFirst := launchSt s n
  let p := launchSt s (n + 1) - tFirst
  if cardFlag c flagFrame && decide (cardFramePeriod c * 1000 < p) then false
  else if cardDeadline c = 0 then true
  else if cardDeadline c ≤ tFirst then false
  else feasible (cardDeadline c) (cardPromptLen c) (cardMaxNew c) (headRec s).rate (headRec s).slots tFirst p (backlog s)
    (decodeCount s)

/-! Costumes at admission (R119, R444). -/

/-- The installed versions of a tenant's Costume. -/
def versOf (s : State) (t id : Nat) : List Ver := s.wdr.vers.filter fun v => v.tenant = t && v.id = id

/-- The version an admission binds: the current one. -/
def bindVer (s : State) (t id : Nat) : Option (Nat × Nat) :=
  ((versOf s t id).find? (·.current)).orElse (fun _ => (versOf s t id).getLast?) |>.map fun v => (v.id, v.ver)

/-! Table BOX-1. -/

/-- Check 1 of a card at its lead: the submitting device has made it for a forwarded card (R158; log entry 12). -/
def boundHere (s : State) (q : QCard) : Bool :=
  decide (q.src ≠ selfDev s) || boundTenant s q.fn (cardTenant q.card)

/-- Block need of a SUBMIT (R120). -/
def blockNeed (c : Card) : Nat := ceilDiv (cardPromptLen c + cardMaxNew c) 64

/-- The first failing check of Table BOX-1, 0 for none (R117). A card that fails check 1 while the Company is stopped gets BAD_CARD
(R157; log entry 147). -/
def admitCheck (s : State) (q : QCard) : Nat :=
  let c := q.card
  let t := cardTenant c
  if refusesAll s then stCapacity
  else if !boundHere s q then stBadCard
  else if !admitting s then stCapacity
  else if cardFlag c flagUseCostume && (versOf s t (cardCostume c)).isEmpty then stAdapterAbsent
  else if liveCap s t ≤ tenLive s t then stBudget
  else if levelOf s t < cardPromptLen c then stBudget
  else if blockCap s t < tenBlocks s t + blockNeed c then stBudget
  else if 16384 ≤ s.stm.board.length then stCapacity
  else if unreserved s < blockNeed c then stCapacity
  else if !deadlineOk s c then stDeadline
  else 0

/-! Prompt Book records of a card (Table PBK-1, R715). -/

/-- PROMPT records of a prompt, eight tokens each, or its PROMPT_DIGEST. -/
def bookPrompt (s : State) (t : Nat) (prompt : List Nat) : State :=
  if isSet s Fld.pbkCtlDigest then
    let d := Config.sha384 (prompt.map (leBytes 4)).flatten
    book s 6 (some t) (place 0 32 prompt.length + ofLeBytes ((beBytes 48 d).take 32) * 2 ^ 64)
  else
    (pieces 8 (prompt.length + 1) prompt).foldl (fun s ts =>
      book s 5 (some t) (place 0 8 ts.length + ofLeBytes ((ts.map (leBytes 4)).flatten) * 2 ^ 64)) s

/-- CARD, its four CARD_BODY records and its prompt. -/
def bookCard (s : State) (q : QCard) (status slot : Nat) : State :=
  let c := q.card
  let t := cardTenant c
  let s := book s 3 (some t) (place 0 16 q.src + place 16 8 q.fn + place 24 8 (cardOp c) + place 32 32 (cardCallId c) +
    place 64 8 status + place 80 16 slot + place 96 48 (eligibleCue s))
  let s := (List.range 4).foldl (fun s i =>
    book s 4 (some t) (place 0 8 i + bits c (256 * i) 256 * 2 ^ 64)) s
  if cardOp c = 1 ∨ cardOp c = 2 then bookPrompt s t q.prompt else s

/-- OP record (Table PBK-1). -/
def bookOp (s : State) (c : Call) (op status : Nat) : State :=
  book s 8 (some c.tenant) (place 0 32 c.callId + place 32 16 c.slot + place 48 8 op + place 56 8 status +
    place 64 48 (cueNum s))

/-! Admission (R118, Table BOX-3). -/

/-- A free Call Board slot; which one is a free value. -/
def freeSlot (s : State) : Nat × State :=
  let start := fresh s
  let n := ((List.range (s.stm.board.length + 1)).map fun i => (start + i) % 16384).find? fun n => (callAt s n).isNone
  (n.getD 0, advance s)

/-- The head of the decision queue leaves it, and waiting cards move up. -/
def popHead (s : State) : State :=
  enterQueue (wmUpdate (wmUpdate (s.onBox fun b => { b with q := b.q.drop 1, head := none }) 1) 0)

/-- A Call at admission. -/
def newCall (slot seq : Nat) (q : QCard) (resv : Nat) (blocks : List (Nat × Bool)) (costume : Option (Nat × Nat))
    (ctx : GCtx) : Call :=
  { slot := slot, seq := seq, src := q.src, fn := q.fn, callId := cardCallId q.card, tenant := cardTenant q.card,
    tag := q.tag, card := q.card, phase := .prefilling, prev := .prefilling, pend := q.prompt, start := 0,
    fed := none, tok := 0xFFFFFF, pos := 0, gen := 0, toks := q.prompt, kvLen := 0, credits := 64, resv := resv, blocks := blocks,
    hashed := 0, costume := costume, ctx := ctx, ctxDue := true, guesses := [], depth0 := false, listed := [],
    heldCues := 0, lookupDone := false, restoring := false, t0 := none, period := 0, misses := 0, frameDue := false, ops := [],
    heath := .none, spilt := [], expiry := 0, reports := [], hop := none, doom := none, ending := none,
    endCue := 0, owed := false, finalOut := false, away := 0,
    scriptState := 0, matcher := [] }

/-- Commit everything of Table BOX-3, answer the card and return the new state. -/
def admitCall (s : State) (q : QCard) : State :=
  let c := q.card
  let t := cardTenant c
  let (slot, s) := freeSlot s
  let seq := s.stm.nextSeq
  let drawn := ceilDiv (cardPromptLen c) 64
  let (bs, s) := drawBlocks s seq drawn
  let costume := if cardFlag c flagUseCostume then bindVer s t (cardCostume c) else none
  let s := setLevel s t (levelOf s t - cardPromptLen c)
  let wind := cardSeed c = 0
  let (seed, s) := if wind then takeSeed s else (cardSeed c, s)
  let call := newCall slot seq q (blockNeed c - drawn) (bs.map fun b => (b, false)) costume
    (newCtx s seed (b2n wind) 0)
  let s := s.onStm fun m => { m with
    board := m.board ++ [call], nextSeq := seq + 1, admittedToks := m.admittedToks + cardPromptLen c }
  let s := bookCard s q stOk slot
  let s := if wind then book s 7 (some t) (place 0 32 call.callId + place 32 16 slot + place 64 64 seed) else s
  answer (popHead s) q.src q.tag stOk 0 (cardPromptLen c) (match costume with | some (_, v) => v | none => 0)

/-- The head card, when it has this op and the Box Office decides it now: no hold, or a Company that takes no card
(R116, R146, R157). -/
def headCard (s : State) (op : Nat) : Option QCard :=
  match s.box.q with
  | [] => none
  | q :: _ => if cardOp q.card = op ∧ (holding s = false ∨ stopped s = true) then some q else none

/-- Refuse the head card (R118, R141). -/
def refuseHead (s : State) (q : QCard) (status value : Nat) : State :=
  answer (popHead (bookCard s q status 0xFFFF)) q.src q.tag status 0 value 0

/-- An operation that the lead drops (R114, R500). -/
def dropHead (s : State) (q : QCard) : State := answer (popHead s) q.src q.tag 0 1 0 0

/-- A CANCEL that the submitting device makes itself ends its Call with the status it carries, and has no answer (R103, R109; log
entry 139). -/
def endFor (s : State) (q : QCard) : State :=
  let it (c : Call) : Bool := c.src = q.src && c.fn = q.fn && c.callId = cardCallId q.card
  popHead (s.onStm fun m => { m with board := mapIf it (fun c => { c with
    doom := some (cardTtl q.card), tag := 65536, owed := false, finalOut := true }) m.board })

/-- An operation on a live Call: refused for the whole Company or for its tenant, dropped when the Call has ended, else
decided by `f`. -/
def decideOp (s : State) (op : Nat) (f : QCard → Call → State) : State :=
  match headCard s op with
  | none => s
  | some q =>
    if q.tag = lostTag then endFor s q else
    match callOf s q.src q.fn (cardCallId q.card) with
    | none => dropHead s q
    | some c =>
      if refusesAll s then refuseHead s q stCapacity c.kvLen
      else if !boundHere s q then refuseHead s q stBadCard c.kvLen
      else if op ≠ 5 && (!admitting s || sceneOn s) then refuseHead s q stCapacity c.kvLen
      else f q c

/-- The operation waits for its boundary. -/
def queueOp (s : State) (q : QCard) (c : Call) : State :=
  let o : COp := ⟨cardOp q.card, q.src, q.tag, cardTtl q.card, q.prompt⟩
  popHead (bookCard (onCall s c.slot fun c => { c with ops := c.ops ++ [o] }) q stOk c.slot)

/-! The commands. -/

/-- SUBMIT (R116 to R120, R134 to R143, R157). -/
def execSubmit (s : State) : Host.Outcome State Fault Refusal :=
  .next (match headCard s 1 with
    | none => s
    | some q =>
      let st := admitCheck s q
      if st ≠ 0 then
        -- BOX_REFUSE_COUNT of this device as a lead (R159)
        refuseHead (if refuseCode st then inc s (Fld.boxRefuseCountV st) 1 else s) q st noPos
      else admitCall s q)

/-- CONTINUE (R41, R125, R144, R145). -/
def execContin (s : State) : Host.Outcome State Fault Refusal :=
  .next (decideOp s 2 fun q c =>
    let n := cardPromptLen q.card
    let nb := ceilDiv n 64
    if levelOf s c.tenant < n ∨ blockCap s c.tenant < tenBlocks s c.tenant + nb then refuseHead s q stBudget c.kvLen
    else if unreserved s < nb then refuseHead s q stCapacity c.kvLen
    else
      let s := setLevel s c.tenant (levelOf s c.tenant - n)
      let s := onCall s c.slot fun c => { c with resv := c.resv + nb }
      queueOp (s.onStm fun m => { m with admittedToks := m.admittedToks + n }) q c)

/-- PAUSE (R493, R749). -/
def execPause (s : State) : Host.Outcome State Fault Refusal :=
  .next (decideOp s 3 fun q c =>
    if (tenantKey s c.tenant).isNone then refuseHead s q stBadCard c.kvLen else queueOp s q c)

/-- RESUME (R497): Table BOX-4 is judged where it takes effect. -/
def execResume (s : State) : Host.Outcome State Fault Refusal := .next (decideOp s 4 fun q c => queueOp s q c)

/-- CANCEL (R37, R39, R500). -/
def execCancel (s : State) : Host.Outcome State Fault Refusal := .next (decideOp s 5 fun q c => queueOp s q c)

/-- RELEASE_PREFIX (R157, R488). The handle named is freed whatever the flag PREFIX_OUT holds (R70; log entry 146). -/
def execReleasePrefix (s : State) : Host.Outcome State Fault Refusal :=
  .next (match headCard s 6 with
    | none => s
    | some q =>
      let t := cardTenant q.card
      let h := cardPrefixOut q.card
      if refusesAll s then refuseHead s q stCapacity noPos
      else if !boundHere s q then refuseHead s q stBadCard noPos
      else if !admitting s then refuseHead s q stCapacity noPos
      else if s.mdw.handles.any fun x => x.tenant = t && x.handle = h then
        answer (popHead (bookCard (freeHandle s t h) q stOk 0xFFFF)) q.src q.tag stOk 0 noPos 0
      else refuseHead s q stPrefixUnknown noPos)

end Sys2Proof.Machine
end

