-- ==== Sys2Proof/Machine/Board.lean ====
section
/-!
DEFINITION. The Call Board at a front-of-house lead: how Calls end and are released, how results return, what takes effect
on a Call at a cue boundary, and the Heath states of a paused Call (spec/01_the_house.md R36 to R47, spec/04_stage_manager.md
R194 to R208, spec/12_meadow_and_heath.md R492 to R500); the commands CHUNK_DONE, SPILLED, FILLED, HEATH_SPILL_DONE and
HEATH_FILL_DONE.
-/
namespace Sys2Proof.Machine

/-! Endings (R36, R140, R484). -/

/-- The submitting device is not absent (R47, R538). -/
def srcThere (s : State) (d : Nat) : Bool := d = selfDev s || (topoOf s d).state ≠ 3

/-- A record of a replay's output capsule: 0x20 a Line, 0x21 a Notice (R732). -/
def emitRec (s : State) (kind t payload : Nat) : State :=
  if replaying s && isSet s Fld.pbkReplayCtlEmit then
    s.onPbk fun b => { b with emit := b.emit ++ [mkBook (cueNum s) kind (some t) s.st b.emit.length payload] }
  else s

def emitNotice (s : State) (t : Nat) (n : Notice) : State := emitRec s 0x21 t n.toNat

/-- The end of a Call goes to its submitting device (log entry 9). -/
def reportEnd (s : State) (c : Call) (code : Nat) (final : Bool) : State :=
  if 65536 ≤ c.tag then emitNotice s c.tenant (mkNotice c.callId c.fn 3 code (cardRing c.card) (ctxSeed c.ctx)
    (if final then c.pos else noPos) c.tenant c.gen (cueNum s))
  else if srcThere s c.src then
    answer s c.src c.tag code 0 (c.gen % 2 ^ 21 + b2n (!final) * 2 ^ 31) (ctxSeed c.ctx)
  else s

/-- The handle kept at a Call's release goes to its submitting device's Handle Map (R487; log entry 9). -/
def reportHandle (s : State) (c : Call) : State :=
  if 65536 ≤ c.tag ∨ srcThere s c.src = false then s
  else if c.src = selfDev s then handleHere s (c.tenant + 65536 * ownId s) (cardPrefixOut c.card)
  else reply s 0x20 c.src lostTag (topoOf s c.src).epoch
    (statusBody stOk 0 (c.tenant + 65536 * ownId s) (cardPrefixOut c.card))

/-- The answer to an operation that waited at the lead; a replayed one has none (R727). -/
def answerOp (s : State) (o : COp) (code outcome value : Nat) : State :=
  if 65536 ≤ o.tag then s else answer s o.src o.tag code outcome value 0

/-- A block number no pool has: the place of a block that is in Heath. -/
def noBlock : Nat := 2 ^ 22

/-- END record, for a cause not computed from tokens (Table PBK-1). -/
def bookEnd (s : State) (c : Call) (code : Nat) : State :=
  if code ∈ [stLostWork, stPoison, stAbsentPeer, stHostLost, stRevoked, stCancelled, stCompanyLost] then
    book s 12 (some c.tenant) (place 0 32 c.callId + place 32 16 c.slot + place 48 8 code)
  else s

/-- The operations of a Call that has ended are dropped (R500). -/
def dropOps (s : State) (c : Call) : State := (c.ops ++ c.hop.toList).foldl (fun s o => answerOp s o 0 1 0) s

/-- A Call's blocks may stay under its handle at its release: not with the submitting device absent, its host lost or its function
reset (R47, R103, R109, R484). -/
def keepsBlocks (s : State) (c : Call) : Bool :=
  cardFlag c.card flagPrefixOut && srcThere s c.src && (c.doom.isNone || decide (c.tag < 65536)) &&
    (c.blocks.take (c.kvLen / 64)).all fun x => decide (x.1 < noBlock)

/-- Release a Call's slot, reservation and blocks, or keep its full blocks under its handle (R36, R140, R484). -/
def freeCall (s : State) (c : Call) : State :=
  let (s, kept) := if keepsBlocks s c then keepHandle s c else (s, false)
  let s := s.onStm fun m => { m with board := m.board.filter fun x => x.slot ≠ c.slot }
  let s := announceTable (sweepBlocks s) (mkTableClear c.slot (cueNum s % 65536))
  let s := s.onStm fun m => { m with sent := m.sent.filter fun x => x.2.2 ≠ c.slot }
  if kept then reportHandle s c else s

/-- End a Call at a boundary and release it. -/
def releaseCall (s : State) (c : Call) (code : Nat) (final : Bool) : State :=
  dropOps (reportEnd (bookEnd (freeCall s c) c code) c code final) c

/-- An ended Call still awaits results of listings that count: sampled before its end took effect (R38, R378). -/
def stillOwed (c : Call) : Bool := c.owed && c.listed.any fun l => l.samples && decide (l.cue < c.endCue)

/-- A Call whose end has just been decided raises its FINAL Notice, unless results that count are still to come; its slot stays
until its final Line is released (R35, R36). A cancelled Call without a token has no final Line. -/
def reportStop (s : State) (slot : Nat) : State :=
  match callAt s slot with
  | some c =>
    (match c.ending with
     | some (code, final) =>
       if stillOwed c then s
       else
         let final := final && !(decide (code = stCancelled) && decide (c.gen = 0))
         let s := onCall s slot fun c => { c with owed := false, ending := some (code, final), ops := [] }
         dropOps (reportEnd s c code final) c
     | none => s)
  | none => s

/-- End a Call at a boundary without a final Line. -/
def endCall (s : State) (slot code : Nat) : State :=
  match callAt s slot with
  | some c => if c.ending.isSome then s else releaseCall s c code false
  | none => s

/-! Results (R194, R196, R199, R392). -/

/-- Position of the input token of a listing that samples. -/
def Listing.last (l : Listing) : Nat := if l.toks = 0 then l.start else l.start + l.toks - 1

/-- The listing of a slot that a result names. -/
def listingOf (c : Call) (cue16 : Nat) (samples : Bool) : Option Listing :=
  c.listed.find? fun l => l.cue % 65536 = cue16 && l.samples = samples

/-- Tokens a step record emits, from the guesses it accepts and its last token (R386, R396). -/
def stepTokens (c : Call) (r : StepRec) (n : Nat) : List Nat :=
  if stepToken r = 0xFFFFFF then c.guesses.take (n - 1) else c.guesses.take (n - 1) ++ [stepToken r]

/-- The Call after a good result of `n` Lines. A stop found before the Call's end took effect is its end (R401). -/
def afterResult (c : Call) (l : Listing) (r : StepRec) (n : Nat) : Call :=
  let ts := stepTokens c r n
  let c := { c with
    listed := c.listed.erase l, credits := min 64 (c.credits + (l.need - n)), gen := c.gen + ts.length
    toks := c.toks.take (l.last + 1) ++ ts, guesses := stepGuesses r, scriptState := stepState r
    matcher := keepLast 7 (c.matcher ++ ts) }
  -- an entry listed meanwhile takes the last token as its input, wherever it stands (R30, R392)
  let c := match ts.getLast? with
    | some t => { c with
        tok := t, pos := l.last + ts.length, kvLen := l.last + ts.length
        listed := mapIf (fun x => x.samples && x.toks = 0 && decide (l.cue < x.cue)) (fun x => { x with start := l.last + ts.length })
          c.listed }
    | none => c
  let dec (p : Phase) : Phase := if p = .prefilling ∧ c.pend.isEmpty then .decoding else p
  if stepStop r ≠ 0 ∨ stepStatus r ≠ 0 then
    { c with phase := .ended, ending := some (stepStatus r, stepStatus r ≠ stBadCard && stepStop r ≠ 0) }
  else { c with phase := dec c.phase, prev := dec c.prev }

/-- The Call after a result that produced no Line: the listing's credits return (R196). -/
def dropListing (l : Listing) (c : Call) : Call :=
  { c with listed := c.listed.erase l, credits := min 64 (c.credits + l.need) }

/-- The Call after a poisoned or a failed result. Of both marks poison counts, and of several results the latest (R207, R208; log
entry 150). -/
def badResult (poison : Bool) (l : Listing) (c : Call) : Call :=
  let c := dropListing l c
  if c.ending.isSome then c else { c with doom := some (if poison then stPoison else stAbsentPeer) }

/-- A result of an ended Call still counts (R38, R378, R401). -/
def countsFor (c : Call) (l : Listing) : Bool := c.ending.isNone || (c.owed && decide (l.cue < c.endCue))

/-- A step record reaches the lead as the result of a listing (R194, R196, R207, R208, R396). -/
def leadStep (s : State) (r : StepRec) : State :=
  match callAt s (stepSlot r) with
  | none => s
  | some c =>
    match listingOf c (stepCue r) true with
    | none => s
    | some l =>
      if !countsFor c l then onCall s c.slot (dropListing l)
      else if stepPoison r || stepFail r then
        let s := onCall s c.slot (badResult (stepPoison r) l)
        if c.owed then reportStop s c.slot else s
      else
        let n := if stepStatus r = stBadCard then 0 else stepPos r - l.last
        let s := onCall s c.slot fun c => afterResult c l r n
        let s := s.onStm fun m => { m with
          results := m.results ++ [(l.cue, c.slot, stepPos r, stepToken r, stepStop r)] }
        let s := s.onUnd fun u => { u with linesSince := u.linesSince + n }
        reportStop (s.onBox fun b => { b with charges := b.charges.put c.tenant (b.charges.getD c.tenant 0 + n) }) c.slot

/-- One chunk-done report at the lead (R194, R674). -/
def leadChunk (s : State) (slot cue16 start toks : Nat) (poison fail : Bool) : State :=
  match callAt s slot with
  | none => s
  | some c =>
    let l? := (listingOf c cue16 false).orElse fun _ => listingOf c cue16 true
    match l? with
    | none => s
    | some l =>
      if poison || fail then
        let s := onCall s slot (badResult poison l)
        if c.owed then reportStop s slot else s
      else
        onCall s slot fun c => { c with
          kvLen := max c.kvLen (start + toks)
          listed := if l.samples || decide (l.done + toks < l.toks) then
              mapIf (fun x => x = l) (fun x => { x with done := x.done + toks }) c.listed
            else c.listed.erase l }

/-- CHUNK_DONE (R194, R196). -/
def execChunkDone (src : Fin 1024) (ents : List ChunkRep) (s : State) : Host.Outcome State Fault Refusal :=
  .next (if isLead s && decide (src.val ∈ memberDevs s) then
    ents.foldl (fun s e => leadChunk s e.slot.val e.cue16.toNat e.start.toNat e.toks.toNat e.poison e.fail) s
  else s)

/-! The Heath states of a paused Call (Table MDW-5). -/

/-- The entries of a slot are freed on every member (Table MDW-5; log entry 167). -/
def freeHeath (s : State) (slot : Nat) : State := tellDevs (dropHeath s slot) (otherMembers s) outUnheath slot 0

/-- The spill is abandoned: the Call returns to its previous state and the PAUSE is refused. -/
def abandonSpill (s : State) (c : Call) : State :=
  let s := freeHeath (onCall s c.slot fun c => { c with
    phase := c.prev, heath := .none, spilt := [], reports := [], hop := none }) c.slot
  match c.hop with
  | some o => answerOp s o stCapacity 0 c.kvLen
  | none => s

/-- A member's spill report reaches the lead (R496, Table MDW-5). -/
def leadSpilled (s : State) (src slot res : Nat) : State :=
  match callAt s slot with
  | some c =>
    if c.heath ≠ .spilling then s
    else if res ≠ 0 then abandonSpill s c
    else onCall s slot fun c => { c with reports := c.reports ++ [src] }
  | none => s

/-- A member's fill report reaches the lead: 1 for a tag failure or poison, 2 for any other fault, or for an entry lost with its host
before its fill (Table MDW-5). -/
def leadFilled (s : State) (src slot res : Nat) : State :=
  match callAt s slot with
  | some c =>
    if c.heath = .inHeath ∧ res = 2 then onCall s slot fun c => { c with doom := some stHeathExpired }
    else if c.heath ≠ .filling then s
    else if res = 1 then onCall s slot fun c => { c with doom := some stPoison }
    else if res ≠ 0 then onCall s slot fun c => { c with doom := some stHeathExpired }
    else onCall s slot fun c => { c with reports := c.reports ++ [src] }
  | none => s

/-- SPILLED (R496). -/
def execSpilled (src : Fin 1024) (slot : Fin 16384) (res : Nat) (s : State) : Host.Outcome State Fault Refusal :=
  .next (if isLead s && decide (src.val ∈ memberDevs s) then leadSpilled s src.val slot.val res else s)

/-- FILLED (R497). -/
def execFilled (src : Fin 1024) (slot : Fin 16384) (res : Nat) (s : State) : Host.Outcome State Fault Refusal :=
  .next (if isLead s && decide (src.val ∈ memberDevs s) then leadFilled s src.val slot.val res else s)

/-- A member's report to its lead, local or by packet. -/
def toLead (s : State) (code slot value : Nat) (loc : State → State) : State :=
  match leadDev s with
  | none => s
  | some l =>
    if l = selfDev s then loc s else send s 0x36 l (reportBody code (ownId s) (cueNum s) slot value)

/-- Device bytes of KV block `b` (R468). -/
def blockAddr (s : State) (b : Nat) : Nat :=
  match s.spl.active with | some p => p.poolBase + b * p.blockBytes | none => 0

def blockBytes (s : State) : Nat := match s.spl.active with | some p => p.blockBytes | none => 0

/-- What the header of a Heath entry says of a Call (Table MDW-4). -/
def heathWho (c : Call) : Nat :=
  place 16 12 c.tenant + place 32 32 c.callId + place 64 7 c.fn + place 80 10 c.src + place 128 32 c.kvLen + place 192 64 c.expiry

/-- The spill of a slot on this member: the lead's own, or as the lead told it (R493; log entry 167). -/
def jobOf (s : State) (slot : Nat) : Option SpillJob :=
  if isLead s then (callAt s slot).map fun c => ⟨slot, heathWho c, c.spilt, c.heath = .filling⟩
  else s.mdw.spills.find? fun x => x.slot = slot

/-- First word of a TRANSFER that tells a member of a spill. -/
def spillMark : Nat := 0x4C495053

/-- The lead tells the other members of a spill: the slot, what the entry's header says of the Call, and the ordinals. -/
def tellSpill (s : State) (c : Call) (ords : List Nat) : State :=
  match otherMembers s with
  | [] => s
  | ds =>
    let bs := leBytes 4 spillMark ++ leBytes 4 ords.length ++ leBytes 4 c.slot ++ leBytes 64 (heathWho c) ++ (ords.map (leBytes 2)).flatten
    let id := fresh s % 2 ^ 32
    ds.foldl (fun s d => sendTransfer s d id bs) (advance s)

/-- A spill that the lead asks for reaches a member. -/
def gotSpill (s : State) (bs : List Byte) : State :=
  let j : SpillJob := ⟨fieldAt bs 8 4, fieldAt bs 12 64, (List.range (fieldAt bs 4 4)).map fun i => fieldAt bs (76 + 2 * i) 2, false⟩
  (dropHeath s j.slot).onMdw fun m => { m with spills := m.spills ++ [j] }

/-- The ordinals of a slot that this member spills (R493). -/
def spillOrds (s : State) (slot : Nat) : List Nat := match jobOf s slot with | some j => j.ords | none => []

/-- First fit of `n` pages in the arena (R492). -/
def heathFit (s : State) (n : Nat) : Option Nat :=
  let starts := 0 :: s.mdw.heath.map fun h => h.page + h.pages
  (sortBy id starts).find? fun p =>
    decide (p + n ≤ get s Fld.mdwHeathSizeV) &&
      s.mdw.heath.all fun h => decide (p + n ≤ h.page) || decide (h.page + h.pages ≤ p)

/-- The state record of Heath (R423, R495): a member other than the lead has the context it was sent and, in the last stage, the Script state and
the matcher of the slot's binding. -/
def stateRecord (s : State) (slot : Nat) : List Byte :=
  let put (ctx : GCtx) (st : Nat) (m : List Nat) : List Byte :=
    (wireBytes ctx ++ leBytes 2 st ++ leBytes 1 m.length ++ (m.map (leBytes 4)).flatten ++ List.replicate 64 0).take 64
  match callAt s slot with
  | some c => put c.ctx c.scriptState c.matcher
  | none =>
    let b := s.prm.binds.get? slot
    put ((s.grs.ctx.get? slot).map Prod.fst |>.getD 0) (match b with | some b => b.state | none => 0)
      (match b with | some b => b.matcher | none => [])

/-- The header of a Heath entry without its tag (Table MDW-4). -/
def heathHdr (s : State) (who n iv : Nat) : Nat :=
  1 + who + place 96 10 (selfDev s) + place 112 16 n + place 160 32 (blockBytes s) + place 256 96 iv

/-- The spilled bytes of a slot: its state record and its blocks. -/
def spillBody (s : State) (slot : Nat) : List Byte :=
  stateRecord s slot ++ ((spillOrds s slot).map fun o =>
    readBytes s (blockAddr s (readLe s (tableAddr s slot o) 4 % 2 ^ 22)) (blockBytes s)).flatten

def spillPages (s : State) (slot : Nat) : Nat := ceilDiv (128 + (spillOrds s slot).length * blockBytes s) 4096

/-- The key of the tenant whose Call a slot's entry holds (R495). -/
def spillKey (s : State) (slot : Nat) : Option Nat := (jobOf s slot).bind fun j => tenantKey s (j.who / 2 ^ 16 % 2 ^ 12)

/-- The arena entry of a slot's spill under IV `iv` at a page, and the bytes that go to host memory (Table MDW-4). -/
def spillEntry (s : State) (slot page iv key : Nat) : HeathE × List Byte :=
  let ords := spillOrds s slot
  let body := spillBody s slot
  let hdr := heathHdr s (match jobOf s slot with | some j => j.who | none => 0) ords.length (ivOf s iv)
  let ct := Config.gcmSeal key (ivOf s iv) body (leBytes 64 hdr)
  let h : BitVec 512 := BitVec.ofNat 512 (hdr + place 352 128 ct.2)
  (⟨slot, page, spillPages s slot, h, ords, body⟩, wireBytes h ++ ct.1)

/-- An entry joins the arena. -/
def putHeath (s : State) (h : HeathE) (bytes : List Byte) : State :=
  let base := get s Fld.mdwHeathBaseLoV + get s Fld.mdwHeathBaseHiV * 2 ^ 32 + h.page * 4096
  let s := s.onMdw fun m => { m with heath := m.heath ++ [h] }
  let s := set (set s Fld.mdwHeathStatusEntries s.mdw.heath.length) Fld.mdwHeathPagesV ((s.mdw.heath.map (·.pages)).sum)
  s.onOut fun o => { o with host := o.host ++ [(base, bytes)] }

/-- The spill of a slot into the arena at a page. -/
def spillTo (s : State) (slot page : Nat) : State :=
  let iv := takeIv s
  let e := spillEntry iv.2 slot page iv.1 ((spillKey s slot).getD 0)
  putHeath iv.2 e.1 e.2

/-- This member owes the spill of a slot. -/
def spillDue (s : State) (slot : Nat) : Bool :=
  if isLead s then (callAt s slot).any fun c => c.heath = .spilling && decide (selfDev s ∉ c.reports)
  else (jobOf s slot).isSome && !(s.mdw.heath.any fun h => h.slot = slot)

/-- The transfer cannot end well: the host is lost, or the tenant's key is gone. -/
def spillLost (s : State) (slot : Nat) : Bool := s.hiu.hostLost || (spillKey s slot).isNone

/-- HEATH_SPILL_DONE (R96, R492 to R495): the entry is allocated, encrypted and written, and reported. `res` other than 0 is
a write fault. -/
def execHeathSpillDone (slot : Fin 16384) (res : Nat) (s : State) : Host.Outcome State Fault Refusal :=
  .next (if !spillDue s slot.val then s
    else
      let fit := if isSet s Fld.mdwHeathCtlEn then heathFit s (spillPages s slot.val) else none
      let res := if spillLost s slot.val then max 1 res else res
      if res ≠ 0 then toLead s 8 slot.val 1 fun s => leadSpilled s (selfDev s) slot.val 1
      else
        match fit with
        | none => toLead (inc s Fld.mdwHeathStatusFull 1) 8 slot.val 1 fun s => leadSpilled s (selfDev s) slot.val 1
        | some page => toLead (spillTo s slot.val page) 8 slot.val 0 fun s => leadSpilled s (selfDev s) slot.val 0)

/-- A slot's spilled blocks return to the blocks its table names (R497). -/
def fillFrom (s : State) (h : HeathE) : State :=
  (h.ords.zip (List.range h.ords.length)).foldl (fun s p =>
    writeBytes s (blockAddr s (readLe s (tableAddr s h.slot p.1) 4 % 2 ^ 22))
      ((h.body.drop (64 + p.2 * blockBytes s)).take (blockBytes s))) s

/-- This member owes the fill of a slot. -/
def fillDue (s : State) (slot : Nat) : Bool :=
  (jobOf s slot).any (·.fill) && !(callAt s slot).any fun c => decide (selfDev s ∈ c.reports)

/-- HEATH_FILL_DONE (R497, Table MDW-5): with a good tag the spilled blocks stand in the blocks the lead drew for them.
`res` is 0 for good, 1 for a tag failure or poison, 2 for another transfer fault. -/
def execHeathFillDone (slot : Fin 16384) (res : Nat) (s : State) : Host.Outcome State Fault Refusal :=
  .next (match s.mdw.heath.find? (fun h => h.slot = slot.val) with
    | none => s
    | some h =>
      if !fillDue s slot.val || s.hiu.hostLost then s
      else
        let res := if res = 0 ∧ (spillKey s slot.val).isNone then 1 else res
        let s := if res = 0 then fillFrom s h else s
        let s := s.onMdw fun m => { m with spills := mapIf (fun x => x.slot = slot.val) (fun x => { x with fill := false }) m.spills }
        toLead s 9 slot.val res fun s => leadFilled s (selfDev s) slot.val res)

/-! What takes effect on a Call at the boundary of cue `n` (Table STM-6, Table MDW-5). -/

/-- Ordinals of the blocks that only this Call references (R493). -/
def ownOrds (s : State) (c : Call) : List Nat :=
  (List.range c.blocks.length).filter fun o =>
    let b := (c.blocks.getD o (noBlock, false)).1
    decide (b < noBlock) && !heldByHandle s b &&
      !(s.stm.board.any fun x => decide (x.slot ≠ c.slot) && x.blocks.any fun y => y.1 = b)

/-- PAUSE takes effect (R493, R494). -/
def pauseNow (s : State) (c : Call) (n : Nat) (o : COp) : State :=
  let ords := ownOrds s c
  let s := onCall s c.slot fun c => { c with
    ops := c.ops.erase o, prev := if c.phase = .parked ∨ c.phase = .held then c.prev else c.phase
    phase := .paused, heath := .spilling, spilt := ords, expiry := judgeSt s n + o.ttl * 1000000000
    reports := [], hop := some o }
  let s := match callAt s c.slot with | some c => tellSpill s c ords | none => s
  bookOp s c 3 stOk

/-- RESUME takes effect (R497, Table MDW-5, Table BOX-4). -/
def resumeNow (s : State) (c : Call) (n : Nat) (o : COp) : State :=
  let s := onCall s c.slot fun c => { c with ops := c.ops.erase o }
  if c.phase ≠ .paused then answerOp (bookOp s c 4 stOk) o stOk 0 c.kvLen
  else
    match c.heath with
    | .spilling =>
      let s := freeHeath (onCall s c.slot fun c => { c with
        phase := .decoding, heath := .none, spilt := [], reports := [], hop := none, ctxDue := true, depth0 := true }) c.slot
      let s := match c.hop with | some p => answerOp s p stOk 0 c.kvLen | none => s
      answerOp (bookOp s c 4 stOk) o stOk 0 c.kvLen
    | .inHeath =>
      if unreserved s < c.spilt.length then answerOp (bookOp s c 4 stCapacity) o stCapacity 0 c.kvLen
      else
        let (bs, s) := drawBlocks s c.seq c.spilt.length
        let pairs := c.spilt.zip bs
        let tbl := (List.range c.blocks.length).map fun i =>
          match pairs.find? (fun p => p.1 = i) with
          | some p => (p.2, false)
          | none => c.blocks.getD i (noBlock, false)
        let s := onCall s c.slot fun c => { c with blocks := tbl, heath := .filling, reports := [], hop := some o }
        let s := pairs.foldl (fun s p => announceTable s (mkBlockSet c.slot p.1 p.2 false (n % 65536))) s
        tellDevs s (otherMembers s) outRefill c.slot 0
    | _ => s

/-- CONTINUE takes effect (R41, R42, R374): its span starts with the Call's last token, or follows the tokens not yet prefilled, those of
an earlier CONTINUE among them (log entry 145). The answer's detail is the position of its first token (log entry 9). -/
def continueNow (s : State) (c : Call) (o : COp) : State :=
  let start := match s.prm.scripts.find? (fun x => x.kind ≠ 3 && x.id = cardScript c.card) with
    | some x => x.start
    | none => 0
  let s := onCall s c.slot fun c =>
    let (pend, from', fed) := if c.pend.isEmpty then
        (if c.gen = 0 then (o.toks, c.start, c.fed) else (c.tok :: o.toks, c.pos, some c.pos))
      else (c.pend ++ o.toks, c.start, c.fed)
    { c with
      ops := c.ops.erase o, pend := pend, start := from', fed := fed, toks := c.toks ++ o.toks, phase := .prefilling
      prev := .prefilling, matcher := [], scriptState := start, guesses := [] }
  let s := bookOp s c 2 stOk
  if 65536 ≤ o.tag then s else answer s o.src o.tag stOk 0 c.kvLen c.toks.length

/-- CANCEL takes effect at the boundary of cue `n` (R37, R38, R499): listings of earlier cues still count, and the slot stays until the
final Line is released (R36). A Call in Heath, and one without a token to come, is released at once. -/
def cancelNow (s : State) (c : Call) (n : Nat) : State :=
  let s := bookOp s c 5 stOk
  let out := c.listed.any fun l => l.samples && decide (l.cue < n)
  if c.heath ≠ .none ∨ (c.gen = 0 ∧ out = false) then releaseCall s c stCancelled false
  else reportStop (bookEnd (onCall s c.slot fun c => { c with
    phase := .ended, ending := some (stCancelled, true), endCue := n, owed := out }) c stCancelled) c.slot

/-- An operation other than CANCEL takes effect at this boundary: a CONTINUE once the lead holds every result of a Call that is not
paused (R41), a PAUSE unless the Call is Prefilling (Table STM-6), a RESUME always (R497). -/
def opActs (c : Call) (o : COp) : Bool :=
  if o.op = 2 then c.listed.isEmpty && c.phase ≠ .paused
  else if o.op = 3 then c.phase ≠ .prefilling
  else true

/-- The operations of a Call that take effect at this boundary, in order (R37, R38, R41, R493, R497). -/
def takeOps (n slot : Nat) : Nat → State → State
  | 0, s => s
  | fuel + 1, s =>
    match callAt s slot with
    | none => s
    | some c =>
      if c.ending.isSome then s
      else if replaying s then
        -- a replayed operation acts at its OP record; a RESUME starts to fill at its boundary (R728)
        (match c.ops.find? (fun o => o.op = 4) with
         | some o => if c.heath = .inHeath then resumeNow s c n o else s
         | none => s)
      else if c.ops.any (fun o => o.op = 5) then
        cancelNow s c n
      else
        match c.ops.find? (opActs c) with
        | none => s
        | some o =>
          takeOps n slot fuel (if o.op = 2 then continueNow s c o
            else if o.op = 4 then resumeNow s c n o
            else if c.phase = .paused then
              answerOp (onCall s slot fun c => { c with ops := c.ops.erase o }) o stOk 0 c.kvLen
            else pauseNow s c n o)

/-- Heath reports and expiry at the boundary of cue `n` (R496 to R498). -/
def heathBoundary (s : State) (n slot : Nat) : State :=
  match callAt s slot with
  | none => s
  | some c =>
    let all := (memberDevs s).all fun d => decide (d ∈ c.reports)
    match c.heath with
    | .spilling =>
      if all then
        let freed := c.spilt.map fun o => (c.blocks.getD o (noBlock, false)).1
        let s := onCall s slot fun c => { c with
          heath := .inHeath, reports := [], hop := none
          blocks := (List.range c.blocks.length).map fun o =>
            if o ∈ c.spilt then (noBlock, false) else c.blocks.getD o (noBlock, false) }
        let s := freed.foldl (fun s b => s.onMdw fun m => { m with
          blocks := match m.blocks.get? b with
            | some k => m.blocks.put b { k with drawer := 2 ^ 64 }
            | none => m.blocks }) s
        match c.hop with
        | some o => answerOp (sweepBlocks s) o stOk 0 c.kvLen
        | none => sweepBlocks s
      else s
    | .inHeath => if c.expiry ≤ judgeSt s n then endCall s slot stHeathExpired else s
    | .filling =>
      if all && !replaying s then
        let s := freeHeath (onCall s slot fun c => { c with
          heath := .none, spilt := [], reports := [], hop := none, phase := .decoding, ctxDue := true, depth0 := true })
          slot
        match c.hop with
        | some o => answerOp (bookOp s c 4 stOk) o stOk 0 c.kvLen
        | none => s
      else s
    | .none => s

/-- Frame periods that ended without a listing (R240, R245); none is counted while the Company is stopped (R657). -/
def frameBoundary (s : State) (n slot : Nat) : State :=
  match callAt s slot with
  | none => s
  | some c =>
    match c.t0 with
    | none => s
    | some t0 =>
      let p := cardFramePeriod c.card * 1000
      let now := (judgeSt s n - t0) / p
      let k := now - c.period
      let s := if stopped s then onCall s slot fun c => { c with period := max c.period now }
        else inc (onCall s slot fun c => { c with period := max c.period now, misses := c.misses + k })
          Fld.cueFrameMissedV k
      let lim := getA s Fld.cueFrameCtlMissLimit
      if stopped s = false ∧ 0 < k ∧ lim ≠ 0 ∧ lim ≤ c.misses + k then endCall s slot stDeadlineMissed
      else if c.frameDue then onCall s slot fun c => { c with period := c.period + 1, misses := 0, frameDue := false }
      else s

/-- Why a Call ends at the boundary of cue `n` without a final Line, if it does: a result that failed or was poisoned, its
submitting device absent, or its work lost (R47, R206, R207, R553). -/
def boundaryEnd (s : State) (n : Nat) (c : Call) : Option Nat :=
  if replaying s then none else
  match c.doom with
  | some d => if d = stAbsentPeer ∧ ownId s ∈ s.fab.lost then none else some d
  | none =>
    if !srcThere s c.src then some stAbsentPeer
    else if c.listed.any (fun l => decide (l.cue + 2 ≤ n)) then some stLostWork
    else none

/-- An ended Call at the boundary of cue `n`: results that the census gives up are no longer awaited (R206), and once its final Line
has been released, or where none comes, its slot and blocks are freed (R36). -/
def endedBoundary (s : State) (n : Nat) (c : Call) (final : Bool) : State :=
  if c.owed then
    reportStop (onCall s c.slot fun c => { c with listed := c.listed.filter fun l => decide (n < l.cue + 2) }) c.slot
  else if !final || c.finalOut || decide (65536 ≤ c.tag) || !srcThere s c.src then dropOps (freeCall s c) c
  else s

/-- The Calls of the board at the boundary of cue `n`: releases, endings, operations, Heath, frames. -/
def boardBoundary (s : State) (n : Nat) : State :=
  let s := dropBad (insertAll s)
  let slots := (sortBy (·.slot) s.stm.board).map (·.slot)
  slots.foldl (fun s slot =>
    match callAt s slot with
    | none => s
    | some c =>
      match c.ending with
      | some (_, final) => endedBoundary s n c final
      | none =>
        match boundaryEnd s n c with
        | some code =>
          endCall (if code = stLostWork ∧ c.doom.isNone then inc s Fld.stmCensusLostCalls 1 else s) slot code
        | none => frameBoundary (takeOps n slot (c.ops.length + 1) (heathBoundary s n slot)) n slot) s

/-- Levels are charged and refilled (R124), and the charges of the cue just ended are cleared. -/
def budgetBoundary (s : State) : State :=
  let fromRegs := s.regs.act.filterMap fun p =>
    let off := p.1 / 32
    if off % 0x10000000 = 0x100104 ∧ 0x10000000 ≤ off then some (off / 0x10000000 - 1) else none
  let ts := (fromRegs ++ s.box.levels.map Prod.fst ++ s.box.charges.map Prod.fst).dedup
  let s := ts.foldl (fun s t =>
    let v := max (levelOf s t - (s.box.charges.getD t 0 : Int)) (-2147483648)
    setLevel s t (min (v + getA s (Fld.boxTenRateV.ix t)) (getA s (Fld.boxTenBurstV.ix t)))) s
  s.onBox fun b => { b with charges := [] }

/-- The capacity model of the cue just composed (R131, R190). A cost of 0 leaves the quotient of its stage unstated: the free value
`z` (log entry 3). -/
def capModel (budget fix dec pf : List Nat) (stages : List Nat) (decCap pfCap nDec z : Nat) : Nat × Nat :=
  let left (i : Nat) : Int := (budget.getD i 0 : Int) - fix.getD i 0
  let quot (a : Int) (b : Nat) : Int := if b = 0 then (z : Int) else a / (b : Int)
  let dm := stages.foldl (fun (a : Int) i => min a (quot (left i) (dec.getD i 0))) (decCap : Int)
  let d := max 0 (min (decCap : Int) dm)
  let n := min (nDec : Int) d
  let p := stages.foldl (fun (a : Int) i => min a (quot (left i - n * dec.getD i 0) (pf.getD i 0))) (pfCap : Int)
  ((max p 0).toNat, d.toNat)

end Sys2Proof.Machine
end

