-- ==== Sys2Proof/Machine/Compose.lean ====
section
/-!
DEFINITION. Composition of a Cue List by the lead and casting (spec/04_stage_manager.md R184 to R203; R129, R378, R383, R440,
R447, R817).
-/
namespace Sys2Proof.Machine

/-! Budgets and reports (R186, R201, R817). -/

/-- Stages of the Company, ascending. -/
def ownStages (s : State) : List Nat := (List.range 12).filter fun i => (ownMembers s).any fun m => m.stage = i

/-- Every member has reported ready for cue `n` (R817). -/
def allReady (s : State) (n : Nat) : Bool :=
  (memberDevs s).all fun d => s.stm.reports.any fun r => r.dev = d && r.cue = n && r.ready

/-- Fewest Lit Troupe 0 pairs reported by any member (R201, R260). -/
def litPairs (s : State) (n : Nat) : Nat :=
  let ls := (memberDevs s).map fun d => match reportOf s n d with | some r => r.lit | none => 0
  ls.foldl min (ls.headD 0)

def costFix (s : State) (i : Nat) : Nat := getA s (Fld.stmCostFixV.ix i)
def costDec (s : State) (i : Nat) : Nat := getA s (Fld.stmCostDecV.ix i)
def costPf (s : State) (i : Nat) : Nat := getA s (Fld.stmCostPfV.ix i)

/-! Casting (R200, R201). -/

/-- The Reading count for the coming 64 cues. With a casting rate of 0 the rule states no count, which is the free value `z`
(log entry 3). -/
def castCount (s : State) (n z : Nat) : Nat :=
  -- the 64 cues just ended, the one in progress at the composition the latest of them
  let hist := keepLast 63 s.stm.hist ++ [(s.stm.admittedToks, decodeCount s)]
  let cur := s.stm.reading
  let pf := (hist.map Prod.fst).sum / 64 + ceilDiv (backlog s) 64
  let dec := (hist.map Prod.snd).foldl max 0
  let perf := if getA s Fld.stmCastRateDecPair = 0 then z else ceilDiv dec (getA s Fld.stmCastRateDecPair)
  let read := if getA s Fld.stmCastRatePfPair = 0 then z else ceilDiv pf (getA s Fld.stmCastRatePfPair)
  let want := min (read : Int) ((litPairs s n : Int) - perf)
  let want := max (getA s Fld.stmCastReadMin : Int) (min (getA s Fld.stmCastReadMax : Int) want)
  let diff := (want - cur).natAbs
  if diff < getA s Fld.stmCastHyst then cur
  else
    let step := min diff (getA s Fld.stmCastMaxStep)
    if (cur : Int) < want then cur + step else cur - step

def decCap (s : State) (n r : Nat) : Nat := min 2048 ((litPairs s n - r) * getA s Fld.stmCastRateDecPair)
def pfCap (s : State) (n r : Nat) : Nat := min 65536 (min r (litPairs s n) * getA s Fld.stmCastRatePfPair)

/-! Candidates (R128, R129, R195 to R199, R239, R440). -/

/-- What a replay fixes of a composition (R728). -/
structure Over where
  /-- stage budgets -/
  budgets : List Nat
  /-- held tenants, Calls not eligible with their reason, Decoding candidates listed as trailing -/
  held : List Nat
  defer : List (Nat × Nat)
  trail : List Nat
  reading : Nat
  deriving DecidableEq, Repr

/-- The level of a tenant holds its Calls (R128). -/
def heldTenant (s : State) (ov : Option Over) (t : Nat) : Bool :=
  match ov with | some o => decide (t ∈ o.held) | none => decide (levelOf s t < 0)

/-- A Call waits with a listing whose sampled result has not arrived (R211). -/
def isTrailing (ov : Option Over) (c : Call) : Bool :=
  match ov with | some o => decide (c.slot ∈ o.trail) | none => c.listed.any (·.samples)

/-- A version is resident on every member (R440). -/
def residentAll (s : State) (c : Call) : Bool :=
  match c.costume with
  | none => true
  | some (id, v) =>
    match s.wdr.vers.find? (fun x => x.tenant = c.tenant && x.id = id && x.ver = v) with
    | some x => (memberDevs s).all fun d => decide (d ∈ x.residents)
    | none => false

/-- Deadline a Call counts with (R169, R239). -/
def callDeadline (s : State) (n : Nat) (c : Call) : Nat :=
  if cardFlag c.card flagFrame then
    let p := cardFramePeriod c.card * 1000
    let t0 := c.t0.getD (judgeSt s n)
    t0 + ((judgeSt s n - t0) / p + 1) * p
  else cardOrder c.card

/-- A Frame Call may be listed in this period (R239). -/
def frameOk (s : State) (n : Nat) (c : Call) : Bool :=
  !cardFlag c.card flagFrame || (match c.t0 with
    | none => true
    | some t0 => decide (c.period ≤ (judgeSt s n - t0) / (cardFramePeriod c.card * 1000)))

/-- What composition decides of one Call: its new phase, whether it is a candidate, whether it carries budget_stop, and
why it is deferred (Table PBK-1, DEFER). -/
structure Verdict where
  phase : Phase
  prev : Phase
  cand : Bool
  stop : Bool
  reason : Option Nat
  deriving DecidableEq, Repr

/-- Wait at its submitting device that parks a Call (R198); another device has told of it (log entry 139). -/
def parkReason (s : State) (c : Call) : Option Nat :=
  let k := if c.src = selfDev s then (match entOf s c.fn c.callId with | some e => parkCode s e | none => 0) else c.away
  if k = 0 then none else some k

/-- The entry of a candidate is a decode entry: it is Decoding, or its last prefill result is still awaited (R30, R211, R212, Table
STM-6; log entry 30). Tokens not yet prefilled come first. -/
def asDecode (c : Call) : Bool :=
  c.pend.isEmpty && (c.phase = .decoding || (c.phase = .prefilling && c.listed.any (·.samples)))

/-- The Call is out of the composition's reach: ended, ending or paused (Table STM-6). -/
def offBoard (c : Call) : Bool := c.ending.isSome || c.doom.isSome || c.phase = .paused || c.phase = .ended

/-- The Call cannot be listed yet, whatever its state: a restore, a prefix lookup or a CONTINUE has not ended, its Frame period has
been served, or it has no work to list (R41, R239, R480, R703; log entry 29). -/
def cannotList (s : State) (n : Nat) (dec : Bool) (c : Call) : Bool :=
  c.restoring || !c.lookupDone || c.ops.any (fun o => o.op = 2) || !frameOk s n c || (!dec && c.pend.isEmpty)

/-- Table STM-6 at composition, and R195, R440. Only a decode entry can carry budget_stop (Table STM-4; log entry 152). -/
def verdict (s : State) (n : Nat) (ov : Option Over) (c : Call) : Verdict :=
  let base := if c.phase = .parked ∨ c.phase = .held then c.prev else c.phase
  let dec := asDecode { c with phase := base }
  let park : Option Nat := match ov with
    | some o => (o.defer.find? (fun d => d.1 = c.slot)).map Prod.snd
    | none => parkReason s c
  let away := decide (park = some 2 ∨ park = some 3)
  let thr := getA s Fld.boxAdmitCtlThrottleCues
  let low : Option Nat := if away then park else if c.credits < 64 then some 0 else none
  let absent := if ov.isSome then decide (park = some 1) else !residentAll s c
  if offBoard c then ⟨c.phase, c.prev, false, false, if c.ending.isSome then none else low⟩
  else if heldTenant s ov c.tenant then
    let due := decide (thr ≠ 0) && decide (thr ≤ c.heldCues) && dec && decide (0 < c.credits) && !away &&
      !cannotList s n dec c && !absent
    ⟨.held, base, due, due, low⟩
  else if away || (dec && c.credits = 0) || (c.credits = 0 && !c.pend.isEmpty && decide (c.pend.length ≤ 512)) then
    ⟨.parked, base, false, false, some (if away then park.getD 0 else 0)⟩
  else if cannotList s n dec c then ⟨base, c.prev, false, false, low⟩
  else if absent then ⟨c.phase, c.prev, false, false, some 1⟩
  else ⟨base, c.prev, true, false, low⟩

/-! Selection (R187, R188, R383). -/

/-- A listed entry: `toks` is 0 for a decode entry. -/
structure Entry where
  slot : Nat
  toks : Nat
  depth : Nat
  trailing : Bool
  stop : Bool
  last : Bool
  deriving DecidableEq, Repr

/-- A scan in progress: energy spent per stage, decode entries, prefill tokens and entries, what is listed. -/
structure Scan where
  spent : List Nat
  nDec : Nat
  nPf : Nat
  ents : Nat
  listed : List Entry
  skipped : Nat
  deriving DecidableEq, Repr

def fits (stages spent budget cost : List Nat) (k : Nat) : Bool :=
  stages.all fun i => decide (spent.getD i 0 + cost.getD i 0 * k ≤ budget.getD i 0)

def addCost (spent cost : List Nat) (k : Nat) : List Nat :=
  (spent.zip cost).map fun p => p.1 + p.2 * k

/-- Tokens in the longest run of whole chunks of a span of `n` tokens that fits `cap` (R187, R188). -/
def wholeChunks (n cap : Nat) : Nat := if n ≤ cap then n else 512 * (cap / 512)

/-- One chunk shorter. -/
def chunkShorter (k : Nat) : Nat := if k % 512 = 0 then k - 512 else k - k % 512

/-- The longest run that also fits the budget. -/
def fitRun (stages spent budget pf : List Nat) : Nat → Nat → Nat
  | 0, _ => 0
  | fuel + 1, k =>
    if k = 0 then 0 else if fits stages spent budget pf k then k else fitRun stages spent budget pf fuel (chunkShorter k)

/-- Speculation depth of a decode entry (R383, R402). -/
def depthOf (s : State) (c : Call) (trailing stop : Bool) : Nat :=
  if trailing || stop || cardFlag c.card flagFrame || c.guesses.isEmpty || c.depth0 then 0
  else
    [get s Fld.prmSpecHeads, getA s Fld.prmSpecDepthMax, c.guesses.length, c.credits - 1,
      cardMaxNew c.card - c.gen - 1].foldl min (cardChorus c.card)

/-- One candidate of the scan. -/
def scanOne (s : State) (ov : Option Over) (stages budget dec pf : List Nat) (dCap pCap : Nat) (sc : Scan)
    (p : Call × Bool) : Scan :=
  let c := p.1
  if asDecode c then
    if sc.nDec < dCap ∧ fits stages sc.spent budget dec 1 = true then
      let tr := isTrailing ov c
      { sc with
        spent := addCost sc.spent dec 1, nDec := sc.nDec + 1
        listed := sc.listed ++ [⟨c.slot, 0, depthOf s c tr p.2, tr, p.2, false⟩] }
    else { sc with skipped := sc.skipped + 1 }
  else if sc.ents = 4096 then { sc with skipped := sc.skipped + 1 }
  else
    let n := c.pend.length
    let k := wholeChunks n (pCap - sc.nPf)
    -- with no window credit the last chunk of the prompt is not listed (Table STM-6)
    let k := if c.credits = 0 ∧ k = n then chunkShorter k else k
    let k := fitRun stages sc.spent budget pf 130 k
    if k = 0 then { sc with skipped := sc.skipped + 1 }
    else
      { sc with
        spent := addCost sc.spent pf k, nPf := sc.nPf + k, ents := sc.ents + 1
        listed := sc.listed ++ [⟨c.slot, k, 0, false, false, k = n⟩] }

/-! Listing: blocks, contexts, credits (R138, R195, R196, R422, R469). -/

/-- Position of the input token of a decode entry (R211: behind an awaited result, one past its input). -/
def entryPos (c : Call) (trailing : Bool) : Nat :=
  if trailing then (match (c.listed.filter (·.samples)).getLast? with | some l => l.last + 1 | none => c.pos) else c.pos

/-- Guesses that the awaited result may accept, by which a trailing entry's input moves on (R392). -/
def awaitedDepth (c : Call) (trailing : Bool) : Nat :=
  if trailing then (match (c.listed.filter (·.samples)).getLast? with | some l => l.need - 1 | none => 0) else 0

/-- First position of an entry, and the last one it may compute. -/
def entrySpan (c : Call) (e : Entry) : Nat × Nat :=
  if e.toks = 0 then (entryPos c e.trailing, entryPos c e.trailing + awaitedDepth c e.trailing + e.depth) else (c.start, c.start + e.toks - 1)

/-- The context of a Call to every member (R422). -/
def sendCtx (s : State) (slot : Nat) (x : GCtx) : State :=
  sendAll (noteSent (putCtx s slot x false) (cueNum s) slot (memberDevs s)) 0x32 (memberDevs s)
    (leBytes 16 slot ++ wireBytes x)

/-- The Call after its listing in cue `n`. -/
def listCall (s : State) (n : Nat) (e : Entry) (c : Call) : Call :=
  let sp := entrySpan c e
  let samples := e.toks = 0 || e.last
  let need := if samples then 1 + e.depth else 0
  let now := match c.t0 with | some t => (judgeSt s n - t) / (cardFramePeriod c.card * 1000) | none => 0
  let c := { c with
    credits := c.credits - need, listed := c.listed ++ [⟨n, need, sp.1, e.toks, samples, 0⟩]
    pend := c.pend.drop e.toks, start := c.start + e.toks, heldCues := if e.stop then 0 else c.heldCues
    ctxDue := false, depth0 := false }
  if cardFlag c.card flagFrame then
    { c with t0 := some (c.t0.getD (judgeSt s n)), frameDue := true, ctx := ctxWithBase c.ctx now } else c

/-- List one entry: draw the blocks its positions reach, send what must go ahead of it, and account for it. -/
def listEntry (n : Nat) (s : State) (e : Entry) : State :=
  match callAt s e.slot with
  | none => s
  | some c =>
    let want := (entrySpan c e).2 / 64 + 1
    let (bs, s) := drawBlocks s c.seq (want - c.blocks.length)
    let new := bs.map fun b => (b, false)
    let s := onCall s e.slot fun c => { c with blocks := c.blocks ++ new, resv := c.resv - bs.length }
    let s := announceBlocks s e.slot n new c.blocks.length
    let c' := listCall s n e c
    let s := if c.ctxDue || decide (c'.ctx ≠ c.ctx) then sendCtx s e.slot c'.ctx else s
    let s := match c.costume with
      | some (id, v) => s.onWdr fun w => { w with
          vers := mapIf (fun x => x.tenant = c.tenant && x.id = id && x.ver = v) (fun x => { x with lastListed := n }) w.vers }
      | none => s
    onCall s e.slot (listCall s n e)

/-- The Cue List token of an entry (Tables STM-4, STM-5; R384). -/
def entryTok (s : State) (e : Entry) : CueTok :=
  match callAt s e.slot with
  | none => 0#128
  | some c =>
    let sp := entrySpan c e
    if e.toks = 0 then mkDec e.depth e.slot sp.1 c.tok e.trailing e.stop c.costume
    else mkPf e.slot sp.1 e.toks e.last c.costume

/-- Packets of at most 256 tokens to the other stage-0 devices; this device keeps its own copy (R192). -/
def sendCueList (s : State) (n : Nat) (toks : List CueTok) : State :=
  let front := ((ownMembers s).filter (fun m => m.stage = 0)).map (·.dev)
  let s := (pieces 256 (toks.length + 1) toks).foldl (fun s ts => sendAll s 0x30 front (ts.map wireBytes).flatten) s
  s.onStm fun m => { m with lists := m.lists.filter (fun l => l.1 ≠ n) ++ [(n, toks, false)] }

/-! Before the scan (R378, R441, R447). -/

/-- Deadline stops (R378, R379, R657, R729). Lines of the listings made before still count. -/
def deadlineStops (s : State) (n : Nat) : State :=
  let l1 := judgeSt s (n + 1)
  let late (c : Call) : Bool := decide (cardDeadline c.card ≠ 0) && decide (cardDeadline c.card < l1)
  let runs (c : Call) : Bool := c.phase ≠ .paused && c.phase ≠ .ended && c.ending.isNone && !c.restoring
  let f (c : Call) : Call := { c with phase := .ended, ending := some (stDeadlineMissed, false), endCue := n, owed := true }
  let slots := (s.stm.board.filter fun c => runs c && late c).map (·.slot)
  slots.foldl reportStop (s.onStm fun m => { m with board := mapIf (fun c => runs c && late c) f m.board })

/-- A REBIND Call moves to the current version (R447). -/
def rebind (s : State) : State :=
  let f (c : Call) : Call :=
    match c.costume with
    | some (id, _) =>
      (match (versOf s c.tenant id).find? (·.current) with
       | some x => { c with costume := some (id, x.ver) }
       | none => c)
    | none => c
  s.onStm fun m => { m with board := mapIf (fun c => cardFlag c.card flagRebind && c.ending.isNone) f m.board }

/-- Versions of candidates are asked to become resident on every member where they are not (R441; log entry 163). -/
def askResident (s : State) : State :=
  let tell (s : State) (x : Ver) : State := tellDevs s ((memberDevs s).filter fun d => decide (d ∉ x.residents)) outWant
    (place 0 12 x.tenant + place 12 14 x.id) x.ver
  let wants (x : Ver) : Bool := s.stm.board.any fun c =>
    c.tenant = x.tenant && c.costume = some (x.id, x.ver) && c.ending.isNone && c.phase ≠ .paused
  (s.wdr.vers.filter wants).foldl tell (s.onWdr fun w => { w with
    vers := mapIf (fun x => !x.resident && wants x) (fun x => { x with copying := true }) w.vers })

/-- The other members learn which versions a cue lists, for their evictions (R442; log entry 163). -/
def tellListed (s : State) (n : Nat) : State :=
  (s.wdr.vers.filter fun x => x.lastListed = n).foldl (fun s x =>
    tellDevs s (memberDevs s) outListed (place 0 12 x.tenant + place 12 14 x.id) (x.ver + 256 * n)) s

/-- First word of a TRANSFER of a cue's facts. -/
def factsMark : Nat := 0x54434146

/-- What the other members need of a cue and only the lead knows (R169, R200; log entry 168). -/
def sendFacts (s : State) (n r : Nat) (slots : List Nat) : State :=
  match otherMembers s with
  | [] => s
  | ds =>
    let one (x : Nat) : List Byte :=
      match callAt s x with
      | some c => leBytes 2 x ++ leBytes 2 (b2n (cardFlag c.card flagFrame)) ++ leBytes 8 (callDeadline s n c)
      | none => leBytes 12 0
    let bs := leBytes 4 factsMark ++ leBytes 4 slots.length ++ leBytes 8 n ++ leBytes 4 r ++ (slots.map one).flatten
    let id := fresh s % 2 ^ 32
    ds.foldl (fun s d => sendTransfer s d id bs) (advance s)

/-- The facts of a cue reach a member. -/
def gotFacts (s : State) (bs : List Byte) : State :=
  let one (i : Nat) : Nat × Nat × Bool := (fieldAt bs (20 + 12 * i) 2, fieldAt bs (24 + 12 * i) 8, fieldAt bs (22 + 12 * i) 2 = 1)
  let f : CueFacts := ⟨fieldAt bs 8 8, fieldAt bs 16 4, (List.range (fieldAt bs 4 4)).map one⟩
  s.onStm fun m => { m with facts := keepLast 4 (m.facts.filter (fun x => x.cue ≠ f.cue) ++ [f]) }

/-! Records of a composition (R714). -/

def bookComposed (s : State) (n r nDec nPf : Nat) (budget : List Nat) (toks : List CueTok)
    (held : List Nat) (defer : List (Nat × Nat × Nat)) (trail : List Nat) : State :=
  let d := Config.sha384 (toks.map wireBytes).flatten
  let s := bookAt s n 1 none (place 0 64 (launchSt s n) + place 64 32 (launchSt s (n + 1) - launchSt s n) + place 96 8 r +
    place 112 16 nDec + place 128 16 nPf + ofLeBytes ((beBytes 48 d).take 16) * 2 ^ 144)
  let s := (pieces 9 3 budget).foldl (fun (a : State × Nat) bs =>
    (bookAt a.1 n 2 none (place 0 8 a.2 + place 8 8 bs.length + ofLeBytes ((bs.map (leBytes 4)).flatten) * 2 ^ 32),
      a.2 + bs.length)) (s, 0) |>.1
  let s := held.foldl (fun s t => bookAt s n 9 (some t) ((levelOf s t % 2 ^ 32).toNat)) s
  let s := defer.foldl (fun s x =>
    match callAt s x.1 with
    | some c => bookAt s n 10 (some c.tenant) (place 0 16 x.1 + place 16 8 x.2.1 + place 32 8 x.2.2)
    | none => s) s
  trail.foldl (fun s x => match callAt s x with | some c => bookAt s n 11 (some c.tenant) x | none => s) s

/-- STM_CUE_STATS of the cue just composed (R216). -/
def putStats (s : State) (sc : Scan) : State :=
  let cnt (p : Call → Bool) : Nat := (s.stm.board.filter p).length
  let s := set (set s Fld.stmStats0NDec sc.nDec) Fld.stmStats0NPf sc.ents
  let s := set (set s Fld.stmStats1NPfTokens sc.nPf) Fld.stmStats2Parked (cnt fun c => c.phase = .parked)
  let s := set (set s Fld.stmStats2Held (cnt fun c => c.phase = .held)) Fld.stmStats3Trailing
    ((sc.listed.filter (·.trailing)).length)
  set s Fld.stmStats3Skipped sc.skipped

/-- The lead composes the Cue List of cue `n` (R184 to R203). -/
def composeCue (s : State) (n : Nat) (ov : Option Over) : State :=
  let s := askResident (rebind (deadlineStops s n))
  let r := match ov with
    | some o => o.reading
    | none => if n % 64 = 0 then castCount s n (fresh s) else s.stm.reading
  let s := advance s
  let vs := s.stm.board.map fun c => (c, verdict s n ov c)
  let cands := (vs.filter (fun p => p.2.cand)).map fun p =>
    ({ p.1 with phase := if p.2.phase = .held then p.2.prev else p.2.phase }, p.2.stop)
  let cands := sortBy (fun p : Call × Bool =>
    (callDeadline s n p.1 * 2 + b2n (!asDecode p.1)) * 2 ^ 64 + p.1.seq) cands
  let heldTens := ((vs.filter fun p => p.2.phase = .held).map fun p => p.1.tenant).dedup
  let waiting := (vs.filter fun p => p.2.reason = some 1).length
  let settle (c : Call) (v : Verdict) : Call := { c with
    phase := v.phase, prev := v.prev
    heldCues := if v.phase = .held then c.heldCues + 1 else 0 }
  let s := s.onStm fun m => { m with board := vs.map fun p => settle p.1 p.2 }
  let s := set s Fld.wdrUse1Waiting waiting
  let stages := ownStages s
  let budget := match ov with
    | some o => o.budgets
    | none => (List.range 12).map (stageBudget s n)
  let fix := (List.range 12).map (costFix s)
  let dec := (List.range 12).map (costDec s)
  let pf := (List.range 12).map (costPf s)
  let sc := cands.foldl (scanOne s ov stages budget dec pf (decCap s n r) (pfCap s n r)) ⟨fix, 0, 0, 0, [], 0⟩
  let s := s.onStm fun m => { m with reading := r, started := true }
  let defer := (vs.filter fun p => p.2.reason.isSome).map fun p => (p.1.slot, p.2.reason.getD 0, p.1.credits)
  let trail := (sc.listed.filter (·.trailing)).map (·.slot)
  let nPf := (sc.listed.filter fun e => e.toks ≠ 0).length
  let body := (sc.listed.filter (fun e => e.toks = 0) ++ sc.listed.filter (fun e => e.toks ≠ 0)).map (entryTok s)
  let toks := mkHeader r (ownId s) n sc.nDec nPf :: body ++ [mkEnd n body.length]
  let s := sendFacts (tellListed (sc.listed.foldl (listEntry n) s) n) n r (sc.listed.map (·.slot))
  let front := ((ownMembers s).filter (fun m => m.stage = 0)).map (·.dev)
  let s := sc.listed.foldl (fun s e => noteSent s (cueNum s) e.slot front) s
  bookComposed (putStats (sendCueList s n toks) sc) n r sc.nDec nPf (budget.take (stages.length)) toks heldTens defer trail

/-- Instant at which composition of cue `n` begins (R184, R233). -/
def composeSt (s : State) (n : Nat) : Nat := launchSt s n - cutoffNs s (if n = 0 then launchSt s 1 - launchSt s 0 else launchSt s n - launchSt s (n - 1))

/-- Whether a cue can be launched in this lock state (R228): LOCKED, HOLDOVER or ROOT. -/
def canLaunch (s : State) : Bool := decide (get s Fld.cueStatusState ∈ [1, 2, 4])

end Sys2Proof.Machine
end

