-- ==== Sys2Proof/Machine/Lighting.lean ====
section
/-!
DEFINITION. The Lighting Desk (spec/15_lighting_desk.md): power domains, the cue's energy budget and the brake; the
commands DOMAIN_DEMAND, DOMAIN_IDLE, TARGET_WRITE, SHUTDOWN_COMPLETE, POWERUP_COMPLETE, PG_FAIL, DEEP_OFF, BUDGET_COMPUTE,
BUDGET, PWR_BRAKE_FALL, PWR_BRAKE_RISE and BRAKE_LOOP_TICK.
-/
namespace Sys2Proof.Machine

/-! Domains (R604 to R615). -/

/-- The state a domain rests in: a Meadow PHY has no Dark state (R607). -/
def domTarget (s : State) (d : Nat) : Nat :=
  let t := get s (Fld.lgtDomCtlTarget d)
  if (d = 54 ∨ d = 55) ∧ t = 2 then 3 else t

/-- The Stage Manager's leave for an engine pair (R179). -/
def pairLeave (s : State) (k : Nat) : Bool := !(s.stm.beats.any fun b => b.issued && b.player / 2 = k)

def isSwing (s : State) : Bool := match s.spl.active with | some p => p.swing | none => true

/-- A link is OFF or ISOLATED. -/
def linkDown (s : State) (l : Nat) : Bool := decide (get s (Fld.fabLinkStatusState l) ∈ [0, 5])

/-- The operations a domain above 58 runs. -/
def opInProgress (s : State) (d : Nat) : Bool :=
  if d = 59 then s.wdr.load.isSome || s.wdr.vers.any (·.copying)
  else if d = 60 then s.und.copying || isSet s Fld.undStatusDraining || !s.und.restore.isEmpty
  else if d = 61 then s.ldg.storing.isSome || !s.ldg.logPage.isEmpty
  else if d = 62 then decide (get s Fld.splLoadStatusResult = 1) || decide (get s Fld.splSwapStatusState = 2)
  else false

/-- Condition of Table LGT-3 to go below Lit. -/
def mayLeaveLit (s : State) (d : Nat) : Bool :=
  if d < 48 then pairLeave s d
  else if d < 54 then
    (linkDown s (2 * (d - 48)) && linkDown s (2 * (d - 48) + 1)) || isSet s Fld.fabExitCtlDrained
  else if d < 56 then true
  else if d = 56 then s.hiu.hqs.all fun q => q.q.isEmpty
  else if d < 59 then !isSet s Fld.prmCtlEn
  else if d < 63 then !opInProgress s d
  else false

/-- Condition of Table LGT-3 to go below Dark as well. -/
def mayLeaveDark (s : State) (d : Nat) : Bool :=
  if d < 48 then !isSet s Fld.stmCtlEn || isSwing s
  else if d = 54 ∨ d = 55 then
    !isSet s Fld.stmCtlEn && !opInProgress s 60 && !(s.stm.board.any fun c => c.heath = .spilling || c.heath = .filling)
  else if d = 56 then s.brd.perst
  else mayLeaveLit s d

def mayFall (s : State) (d t : Nat) : Bool := mayLeaveLit s d && (decide (t ≤ 2) || mayLeaveDark s d)

/-- Start a fall to state `t`. -/
def startFall (s : State) (d t : Nat) : State :=
  let s := set (set s (Fld.lgtDomStatusPhase d) 1) (Fld.lgtDomStatusBlocked d) 0
  -- the links of a pair whose domain leaves Lit go OFF (Table FAB-6)
  let s := if 48 ≤ d ∧ d < 54 then
      [2 * (d - 48), 2 * (d - 48) + 1].foldl (fun s l => set s (Fld.fabLinkStatusState l) 0) s
    else s
  onDom s d fun x => { x with fall := t, demand := false }

/-- The idle rule of Table LGT-4 for a Settled domain (R611). -/
def idleRule (s : State) (d : Nat) : State :=
  let t := domTarget s d
  if domState s d < t then
    (if mayFall s d t then startFall s d t else set s (Fld.lgtDomStatusBlocked d) 1)
  else set s (Fld.lgtDomStatusBlocked d) 0

/-- What a domain keeps (R605): in Struck an engine pair's Loft and a Meadow stack are lost, and read as memory does after
power-on (log entry 1). -/
def loseContents (s : State) (d : Nat) : State :=
  if d < 48 then clearRange s (2 * d * 0x600000) (2 * 0x600000)
  else if d = 54 then (clearRange s meadowBase ((meadowEnd - meadowBase) / 2)).onMdw fun m => { m with
    handles := [], blocks := m.blocks.map fun x => (x.1, { x.2 with key := none, toks := [] }) }
  else if d = 55 then clearRange s (meadowBase + (meadowEnd - meadowBase) / 2) ((meadowEnd - meadowBase) / 2)
  else s

/-- A domain reaches Dark or a deeper state: its logic state is cleared (Table LGT-2). A pair's Players lose their window and loop counters; what
of another block's is logic state is not stated (log entry 171). -/
def clearLogic (s : State) (d : Nat) : State :=
  if d < 48 then
    [2 * d, 2 * d + 1].foldl (fun s p => s.onPly fun ps => ps.modify p fun x => { x with win := [], lc := [0, 0, 0, 0], beyond := false }) s
  else s

/-- The domain settles in state `x`, having lost what it does not keep there. -/
def settle (s : State) (d x : Nat) : State :=
  let s := set (set s (Fld.lgtDomStatusPhase d) 0) (Fld.lgtDomStatusState d) x
  let s := if 2 ≤ x then clearLogic s d else s
  if x = 4 then loseContents s d else s

/-- After a trip and DRAINED every domain but 63 goes towards Struck (R625); the Ledger's waits for a crash capsule (R841). -/
def tripFall (s : State) : State :=
  if s.lgt.trip && isSet s Fld.fabExitCtlDrained then
    (List.range 63).foldl (fun s d =>
      if domPhase s d = 0 ∧ domState s d ≠ 4 ∧ !(d = 61 && s.ldg.crashBusy) then startFall s d 4 else s) s
  else s

/-- DOMAIN_DEMAND (R606, R610, R613, R614). -/
def execDomainDemand (d : Fin 64) (s : State) : Host.Outcome State Fault Refusal := .next (demandDom s d.val)

/-- DOMAIN_IDLE (R609, R611, R612, R613): IDLE_US have passed since the last demand on the domain ended. -/
def execDomainIdle (d : Fin 64) (s : State) : Host.Outcome State Fault Refusal :=
  .next (let s := onDom s d.val fun x => { x with demand := false }
    if domPhase s d.val = 0 ∧ d.val ≠ 63 then idleRule s d.val else s)

/-- TARGET_WRITE (R607, R612, R613): codes 5 to 7, and any but Lit for domain 63, are ignored. -/
def execTargetWrite (d : Fin 64) (v : Word) (s : State) : Host.Outcome State Fault Refusal :=
  .next (let off := (Fld.lgtDomCtlTarget d.val).off
    let t := commandWord s 0 off v
    let x := bits v 0 3
    if !reaches s 0 off || decide (5 ≤ x) || (d.val = 63 && decide (x ≠ 0)) then t
    else
      let t := set t (Fld.lgtDomCtlTarget d.val) x
      if x = 0 ∧ domState t d.val ≠ 0 ∧ domPhase t d.val = 0 ∧ d.val ≠ 63 then startRise t d.val
      else if x = 0 ∧ domPhase t d.val = 1 then set t (Fld.lgtDomStatusPendingOn d.val) 1
      else if domPhase t d.val = 2 ∧ x ≠ 0 then set t (Fld.lgtDomStatusPendingOff d.val) 1
      else if domPhase t d.val = 0 ∧ (domOf t d.val).demand = false then idleRule t d.val
      else t)

/-- Address of a word of Player `p`'s instruction store (R251). -/
def iAddr (p w : Nat) : Nat := p * 0x600000 + 8 * w

/-- Host stores to a pair's instruction stores that waited for it complete in their order (R857). -/
def landStores (s : State) (d : Nat) : State :=
  [2 * d, 2 * d + 1].foldl (fun s p =>
    let ws := (s.ply.getD p Player.idle).stores
    let s := s.onPly fun ps => ps.modify p fun x => { x with stores := [] }
    ws.foldl (fun s w => writeLe s (iAddr p w.1) 8 w.2) s) s

/-- SHUTDOWN_COMPLETE (R613, R614). -/
def execShutdownComplete (d : Fin 64) (s : State) : Host.Outcome State Fault Refusal :=
  .next (if domPhase s d.val ≠ 1 then s
    else
      let s := settle s d.val (domOf s d.val).fall
      if isSet s (Fld.lgtDomStatusPendingOn d.val) then startRise (set s (Fld.lgtDomStatusPendingOn d.val) 0) d.val
      else if s.lgt.trip then tripFall s
      else if domState s d.val < domTarget s d.val then idleRule s d.val
      else s)

/-- POWERUP_COMPLETE (R613 to R615). -/
def execPowerupComplete (d : Fin 64) (s : State) : Host.Outcome State Fault Refusal :=
  .next (if domPhase s d.val ≠ 2 then s
    else
      let off := isSet s (Fld.lgtDomStatusPendingOff d.val)
      let s := set (set s (Fld.lgtDomStatusPhase d.val) 0) (Fld.lgtDomStatusState d.val) 0
      let s := set s (Fld.lgtDomStatusPendingOff d.val) 0
      let s := if d.val < 48 then landStores s d.val else s
      let s := if 48 ≤ d.val ∧ d.val < 54 then
          [2 * (d.val - 48), 2 * (d.val - 48) + 1].foldl (fun s l =>
            if isSet s (Fld.fabLinkCtlEn l) && get s (Fld.fabLinkStatusState l) = 0 then set s (Fld.fabLinkStatusState l) 1
            else s) s
        else s
      if s.lgt.trip then tripFall s
      else if off && !(domOf s d.val).demand then idleRule s d.val else s)

/-- PG_FAIL (R613): the domain settles Struck. -/
def execPgFail (d : Fin 64) (s : State) : Host.Outcome State Fault Refusal :=
  .next (if domPhase s d.val ≠ 2 then s
    else
      let s := set (settle s d.val 4) (Fld.lgtDomStatusPgFail d.val) 1
      report (advance s) 0x0C01 0xFFFF (fresh s % 2 ^ 32))

/-- DEEP_OFF (R608). -/
def execDeepOff (v : Word) (s : State) : Host.Outcome State Fault Refusal :=
  .next (let off := Fld.lgtCtlDeepOff.off
    let t := commandWord s 0 off v
    if reaches s 0 off && bit v 1 && isSet s Fld.fabExitCtlDrained &&
        (List.range 63).all (fun d => domState s d = 4 && domPhase s d = 0) then
      set t (Fld.lgtDomStatusState 63) 4
    else t)

/-! The cue's energy budget (R616 to R620). -/

/-- therm_limit of R616. -/
def thermLimit (t soft hard : Nat) : Nat :=
  if t ≤ soft then 900000
  else if hard ≤ t then 495000
  else 900000 - 405000 * (t - soft) / (hard - soft)

/-- budget of R616, from the debt. -/
def energyBudget (cap t soft hard : Nat) (brakeSeen : Bool) (period reserve debt : Nat) : Nat :=
  let p := min cap (thermLimit t soft hard)
  let p := if brakeSeen then min p 495000 else p
  p * period / 1000000 - reserve - debt

/-- Every condition of Table BRING-4 (R816). -/
def readyNow (s : State) : Bool :=
  booted s && get s Fld.sdrStatusState = 1 && s.sdr.hk.isSome && decide (get s Fld.cueStatusState ∈ [1, 4]) &&
    s.cue.launched && (memberDevs s).all (fun d => (topoOf s d).state = 1 && reachable s d) &&
    get s Fld.plyWloadStatusState = 3 && (!atLast s || isSet s Fld.prmCtlEn) && isSet s Fld.stmCtlEn

/-- A budget report reaches the lead (R186): the three latest of each member are kept. -/
def leadBudget (s : State) (r : Report) : State :=
  let mine := (s.stm.reports.filter fun x => x.dev = r.dev && decide (x.cue ≠ r.cue)) ++ [r]
  s.onStm fun m => { m with reports := (m.reports.filter fun x => x.dev ≠ r.dev) ++ keepLast 3 mine }

/-- Lit Troupe 0 pairs of this device, in the cast order (R200, R260). -/
def litCast (s : State) : List Nat :=
  match s.spl.active with
  | some p => p.castOrder.filter fun k => domLit s k && p.troupes.getD k 4 = 0
  | none => []

/-- Energy owed from the cue before last (R618). -/
def budgetDebt (s : State) (n meas : Nat) : Nat :=
  match s.lgt.budgets.find? (fun b => b.1 + 2 = n) with
  | some b => if s.cue.launched && decide (s.cue.first + 2 ≤ n) then meas - b.2 else 0
  | none => 0

/-- The budget of cue `n` in µJ at the highest junction reading (R616, R617, R620). -/
def budgetOf (s : State) (n t meas : Nat) : Nat :=
  let period := launchSt s (n + 1) - launchSt s n
  let cap := getA s Fld.lgtCapCapMw
  if isSet s Fld.lgtCtlBudgetEn then
    energyBudget cap t (getA s Fld.lgtThermSoft) (getA s Fld.lgtThermHard) (s.lgt.seenSince || isSet s Fld.lgtStatusBrake)
      period (getA s Fld.lgtReserveV) (budgetDebt s n meas)
  else cap * period / 1000000

/-- The registers and the desk's record of a computed budget. -/
def putBudget (s : State) (n t meas e : Nat) : State :=
  let debt := if isSet s Fld.lgtCtlBudgetEn then budgetDebt s n meas else 0
  let s := set (set (set (set s Fld.lgtTempT t) Fld.lgtBudgetV e) Fld.lgtEnergyV meas) Fld.lgtDebtV debt
  let s := s.onLgt fun l => { l with
    budgets := keepLast 4 (l.budgets ++ [(n, e)]), seenSince := false, alertSince := false }
  s.onFlt fun f => { f with earlyWarn := false }

/-- The budget report goes to the lead (R186). -/
def sendBudget (s : State) (n e : Nat) (ew : Bool) : State :=
  let r : Report := ⟨selfDev s, n, readyNow s, ew, (litCast s).length, e⟩
  match leadDev s with
  | none => s
  | some l =>
    if l = selfDev s then leadBudget s r
    else send s 0x33 l (leBytes 16 (place 0 48 n + place 48 1 (b2n r.ready) + place 49 1 (b2n ew) +
      place 56 8 r.lit + place 64 32 e))

/-- BUDGET_COMPUTE (R616 to R618, R620, R646, R668, R816): the budget of the next cue, from the junction readings and the
energy of the cue before last. -/
def execBudgetCompute (temps : List Nat) (meas : Nat) (s : State) : Host.Outcome State Fault Refusal :=
  .next (if !booted s || (leadDev s).isNone || s.lgt.budgets.any (fun b => b.1 = nextCue s) then s
    else
      let n := nextCue s
      let s := s.setSt (max s.st (composeSt s n - 4000))
      let t := temps.foldl max 0
      let e := budgetOf s n t meas
      let ew := s.flt.earlyWarn || s.lgt.alertSince || isSet s Fld.lgtStatusAlert
      sendBudget (putBudget s n t meas e) n e ew)

/-- BUDGET (R186). -/
def execBudget (src : Fin 1024) (cue : Nat) (ready ew : Bool) (lit uj : Nat) (s : State) :
    Host.Outcome State Fault Refusal :=
  .next (if isLead s && decide (src.val ∈ memberDevs s) then leadBudget s ⟨src.val, cue, ready, ew, lit, uj⟩ else s)

/-! The brake (R621 to R623). -/

/-- Initial throttle: BRAKE_DUTY sixteenths, less one in LGT_STATUS. -/
def brakeDuty (s : State) : Nat := max 1 (getA s Fld.lgtBrakeDuty) - 1

/-- Every running push beat is cut at its next chunk boundary (R215). -/
def cutPush (s : State) : State :=
  s.onPly fun ps => ps.map fun p =>
    match p.beat with
    | some i => if s.stm.beats.any fun b => b.idx = i && b.push then { p with cut := true } else p
    | none => p

/-- Issue is throttled and push issue stops. -/
def applyThrottle (s : State) : State :=
  (cutPush (set s Fld.lgtStatusDuty (brakeDuty s))).onLgt fun l => { l with throttle := true, releaseSt := none }

/-- PWR_BRAKE_FALL (R215, R621, R623). -/
def execPwrBrakeFall (s : State) : Host.Outcome State Fault Refusal :=
  .next (let s := set (set s Fld.lgtStatusBrake 1) Fld.lgtStatusBrakeSeen 1
    let s := (inc s Fld.lgtBrakeCount 1).onBrd fun b => { b with brakePin := true }
    (applyThrottle s).onLgt fun l => { l with seenSince := true })

/-- PWR_BRAKE_RISE (R621, R878): the release is recognised; the throttle lifts at a later launch. -/
def execPwrBrakeRise (s : State) : Host.Outcome State Fault Refusal :=
  .next (if isSet s Fld.lgtStatusBrake then
      ((set s Fld.lgtStatusBrake 0).onBrd fun b => { b with brakePin := false }).onLgt fun l =>
        { l with releaseSt := some s.st }
    else s)

/-- BRAKE_LOOP_TICK (R621): the duty moves one sixteenth towards the limit of 495 W. -/
def execBrakeLoopTick (mw : Nat) (s : State) : Host.Outcome State Fault Refusal :=
  .next (if s.lgt.throttle then
      let d := get s Fld.lgtStatusDuty
      let s := set s Fld.lgtPowerV mw
      if 495000 < mw then set s Fld.lgtStatusDuty (d - 1)
      else if mw < 495000 then set s Fld.lgtStatusDuty (min 15 (d + 1))
      else s
    else set s Fld.lgtPowerV mw)

/-- At a launch the throttle lifts, 10 µs or more after the release and never after a trip (R621, R625). -/
def liftThrottle (s : State) : State :=
  match s.lgt.releaseSt with
  | some t =>
    if s.lgt.trip = false ∧ t + 10000 ≤ s.st then
      (set s Fld.lgtStatusDuty 15).onLgt fun l => { l with throttle := false, releaseSt := none }
    else s
  | none => s

/-- Push issue is stopped (R215, R625). -/
def pushStopped (s : State) : Bool := s.lgt.throttle

end Sys2Proof.Machine
end

