-- ==== Sys2Proof/Machine/Beats.lean ====
section
/-!
DEFINITION. Beats (spec/04_stage_manager.md R160 to R183, R204 to R214): the beat table, completion tokens, ordered flows,
casting, what a cue's launch instantiates, and the census; the commands COMPLETION, CUE_LIST, ACTIVATION and PARTIALS.
-/
namespace Sys2Proof.Machine

/-! The beat table and the ready lists (R161, R163, R168). -/

def beatAt (s : State) (i : Nat) : Option Beat := s.stm.beats.find? (fun b => b.idx = i)

def onBeat (s : State) (i : Nat) (f : Beat → Beat) : State :=
  s.onStm fun m => { m with beats := mapIf (fun b => b.idx = i) f m.beats }

/-- Every input is there and the beat is not issued. -/
def Beat.ready (b : Beat) : Bool := b.ctr = 0 && b.waits.isEmpty && !b.issued

/-- A ready beat that completes at once: poisoned, failed or void (R166, R167, R212). -/
def Beat.dead (b : Beat) : Bool := b.ready && (b.poison || b.fail || b.void)

/-- Deadline, then cue, then instantiation order (R168). -/
def Beat.order (b : Beat) : Nat := (b.deadline * 2 ^ 48 + b.cue) * 2 ^ 64 + b.seq

def readyList (s : State) (p : Nat) (push : Bool) : List Beat :=
  sortBy Beat.order (s.stm.beats.filter fun b => b.ready && b.player = p && b.push = push)

/-- STM_READY_COUNT and the admission hold of a lead (R209, R146). -/
def noteReady (s : State) : State :=
  let n := (s.stm.beats.filter Beat.ready).length
  let s := set s Fld.stmReadyCountV n
  if isLead s && decide (getA s Fld.stmReadyWmHigh ≤ n) then set (set s Fld.stmCtlHold 1) Fld.boxAdmitCtlHold 1
  else if n ≤ getA s Fld.stmReadyWmLow then
    -- a card that the hold kept waiting over a cue boundary is decided against what stands now (R153)
    let past := isSet s Fld.boxAdmitCtlHold && s.box.head.any fun h => h.seen ≠ nextCue s
    let s := set (set s Fld.stmCtlHold 0) Fld.boxAdmitCtlHold 0
    if past then noteHead (s.onBox fun b => { b with head := none }) else s
  else s

/-- A running push beat is flagged for a cut when a push beat heads its Player's list with a deadline earlier by the margin
(R174 to R176); one running its last chunk is not. -/
def cutChecks (s : State) : State :=
  let m := getA s Fld.stmComposeCutMarginUs * 1000
  s.onPly fun ps => ps.mapIdx fun p x =>
    match x.beat.bind (beatAt s), (readyList s p true).head? with
    | some b, some h => if b.push && decide (h.deadline + m ≤ b.deadline) && decide (x.chunk + 1 < b.chunks) then
        { x with cut := true } else x
    | _, _ => x

/-- A beat takes a free entry of the table; which one is a free value (log entry 13). -/
def enterBeat (s : State) (b : Beat) : State :=
  let start := fresh s
  let i := (((List.range (s.stm.beats.length + 1)).map fun i => (start + i) % 16384).find? fun i => (beatAt s i).isNone).getD 0
  (advance s).onStm fun m => { m with beats := m.beats ++ [{ b with idx := i, seq := m.nextSeq }], nextSeq := m.nextSeq + 1 }

/-- Arrivals enter while the table has room; the rest wait (R161, R210). -/
def enterArriving (s : State) : State :=
  let k := 16384 - s.stm.beats.length
  let bs := s.stm.arriving.take k
  bs.foldl enterBeat (s.onStm fun m => { m with arriving := m.arriving.drop k })

/-! Completion (R163 to R167, R180 to R182, R272). -/

/-- Tokens a completed beat sends: with its marks and cue, from its Player, or from the Stage Manager when it did not run;
none when it was abandoned (R166, R167, R205). -/
def beatTokens (b : Beat) : List Token :=
  if b.abandoned then []
  else b.tokens.map fun t => stampTok t b.poison b.fail (b.cue % 65536) (if b.issued then b.player else 0xFF)

/-- The chunk-done report of a span, its listing's one result (R194). -/
def reportSpan (s : State) (x : Span) : State :=
  match leadDev s with
  | none => s
  | some l =>
    if l = selfDev s then leadChunk s x.slot (x.cue % 65536) x.start x.toks x.poison x.fail
    else send s 0x23 l (leBytes 16 (place 0 14 x.slot + place 16 16 x.cue + place 32 32 x.start + place 64 32 x.toks +
      place 96 1 (b2n x.poison) + place 97 1 (b2n x.fail)))

/-- A result beat has completed at the last stage: its span counts it, and reports once all of it is done (R194). -/
def reportChunks (s : State) (b : Beat) : State :=
  if b.abandoned || !b.result || !b.push then s
  else
    match s.stm.spans.find? fun x => x.cue = b.cue && decide (x.slot ∈ b.slots) with
    | none => s
    | some x =>
      let y := { x with left := x.left - b.toks, poison := x.poison || b.poison, fail := x.fail || b.fail }
      if y.left = 0 then reportSpan (s.onStm fun m => { m with spans := m.spans.erase x }) y
      else s.onStm fun m => { m with spans := mapFirst (fun z => z = x) (fun _ => y) m.spans }

/-- Completions of a flow go on in ordinal order (R181). -/
def deliver (flow : Nat) : Nat → State → List Token → State × List Token
  | 0, s, ts => (s, ts)
  | fuel + 1, s, ts =>
    let low := s.stm.flows.getD flow 0
    match s.stm.heldDone.find? (fun b => b.flow = flow && b.ordinal = low) with
    | none => (s, ts)
    | some b =>
      let s := s.onStm fun m => { m with
        heldDone := m.heldDone.erase b, flows := m.flows.put flow (low + b.chunks) }
      deliver flow fuel (reportChunks s b) (ts ++ beatTokens b)

/-- A completion reaches its consumers, or waits in its flow. -/
def emitDone (s : State) (b : Beat) : State × List Token :=
  if b.flow = 0 then (reportChunks s b, beatTokens b)
  else
    let s := s.onStm fun m => { m with heldDone := m.heldDone ++ [b] }
    deliver b.flow s.stm.heldDone.length s []

/-- A beat completes and leaves the table. -/
def complete (s : State) (b : Beat) : State × List Token :=
  emitDone (s.onStm fun m => { m with beats := m.beats.filter fun x => x.idx ≠ b.idx }) b

/-- Tokens for other devices leave in COMPLETION packets of up to 256 (Table FAB-8). -/
def sendTokens (s : State) (ts : List Token) : State :=
  ((ts.map tokDevice).dedup).foldl (fun s d =>
    let mine := ts.filter fun t => tokDevice t = d
    (pieces 256 (mine.length + 1) mine).foldl (fun s p => send s 0x21 d (p.map wireBytes).flatten) s) s

/-- A token that changes no counter (R165). -/
def tokenBad (s : State) (t : Token) : Bool :=
  tokCount t = 0 || tokDevice t ≠ selfDev s ||
    !(decide (tokSource t < 96) || tokSource t = 0xF0 || tokSource t = 0xFF) ||
    match beatAt s (tokBeat t) with
    | none => true
    | some b => tokCue t ≠ b.cue % 65536 || decide (b.ctr < tokCount t)

/-- A discarded token is counted and reported. -/
def dropToken (s : State) : State := report (inc (advance s) Fld.stmDropTokenDrop 1) 0x0201 0xFFFF (fresh s % 2 ^ 32)

/-- Tokens act one after another; a marked beat that reaches zero completes at once and its own tokens follow. -/
def pump : Nat → List Token → State → State
  | 0, _, s => s
  | _ + 1, [], s => s
  | fuel + 1, t :: r, s =>
    if tokenBad s t then pump fuel r (dropToken s)
    else
      let s := onBeat s (tokBeat t) fun b => { b with
        ctr := b.ctr - tokCount t, poison := b.poison || tokPoison t, fail := b.fail || tokFail t }
      match (beatAt s (tokBeat t)).filter Beat.dead with
      | none => pump fuel r s
      | some b =>
        let (s, ts) := complete s b
        let (loc, rem) := ts.partition fun t => tokDevice t = selfDev s
        pump fuel (r ++ loc) (sendTokens s rem)

/-- Tokens that local beats can still send: a bound on the work of `pump`. -/
def tokenBound (s : State) : Nat :=
  ((s.stm.beats ++ s.stm.heldDone).map fun b => b.tokens.length).sum

/-- Tokens that arrived at this device act (R163). -/
def arriveTokens (s : State) (ts : List Token) : State :=
  cutChecks (noteReady (enterArriving (pump (ts.length + tokenBound s + 1) ts s)))

/-- Tokens of a beat that completed here. -/
def runTokens (s : State) (ts : List Token) : State :=
  let (loc, rem) := ts.partition fun t => tokDevice t = selfDev s
  arriveTokens (sendTokens s rem) loc

/-- Complete one beat with added marks. -/
def finishBeat (s : State) (b : Beat) (poison fail : Bool) : State :=
  let (s, ts) := complete s { b with poison := b.poison || poison, fail := b.fail || fail }
  runTokens s ts

/-- Every marked or void beat whose inputs are all there completes at once. -/
def sweepDead (s : State) : State :=
  s.stm.beats.foldl (fun s b =>
    match (beatAt s b.idx).filter (fun x => x.seq = b.seq && x.dead) with
    | some x => finishBeat s x false false
    | none => s) s

/-- Beats are instantiated (R161, R210). -/
def instantiate (s : State) (bs : List Beat) : State :=
  cutChecks (noteReady (sweepDead (enterArriving (s.onStm fun m => { m with arriving := m.arriving ++ bs }))))

/-! Casting (R200 to R203, R260 to R262). -/

/-- Roles for a Reading count. A pair that is not Lit keeps its role, and one that was never cast is Performing. -/
def castRoles (s : State) (r : Nat) : State :=
  match s.spl.active with
  | none => s
  | some p =>
    let lit := litCast s
    let s := set s Fld.stmCastStatusReading r
    (List.range 48).foldl (fun s k =>
      let t := p.troupes.getD k 4
      let role := if 4 ≤ t then 0 else if t ≠ 0 then 2
        else if k ∈ lit.take r then 1 else if k ∈ lit ∨ get s (Fld.plyRoleRole (2 * k)) = 0 then 2 else get s (Fld.plyRoleRole (2 * k))
      [2 * k, 2 * k + 1].foldl (fun s i =>
        set (set (set s (Fld.plyRoleRole i) role) (Fld.plyRoleTroupe i) (if t < 4 then t else 0))
          (Fld.plyRoleInTroupe i) (b2n (t < 4))) s) s

/-! Instantiation from a Cue List or from activations (R162, R173, R189, R211, R277). -/

/-- Casting takes effect at the launch of a cue whose number is a multiple of 64, or of one whose header names another count (Table CUE-1,
R201). -/
def castBoundary (s : State) (n r : Nat) : State :=
  let s := if n % 64 = 0 then set s Fld.stmCastStatusLastCast n else s
  if n % 64 = 0 ∨ get s Fld.stmCastStatusReading ≠ r then castRoles s r else s

/-- Operator instances of one kind that apply: pull on Performing Players, push on Reading ones (R170), with their places. -/
def sheets (s : State) (push stage0 : Bool) : List (Template × Nat) :=
  match s.spl.active with
  | none => []
  | some p => p.templates.zipIdx.filter fun t =>
      t.1.push = push && t.1.stage0 = stage0 && get s (Fld.plyRoleRole t.1.player) = (if push then 1 else 2)

/-- A beat of an operator instance. -/
def mkBeat (t : Template) (n deadline : Nat) (slots : List Nat) (frame costume spec : Bool) : Beat where
  idx := 0
  ctr := t.ctr
  cue := n
  player := t.player
  push := t.push
  deadline := deadline
  seq := 0
  poison := false
  fail := false
  issued := false
  abandoned := false
  void := false
  frame := t.frame || frame
  costume := costume
  spec := spec
  slots := slots
  chunks := 1
  chunksDone := 0
  flow := 0
  ordinal := 0
  entry := t.entry
  lc := t.lc
  tokens := t.tokens
  start := 0
  toks := 0
  waits := []
  result := t.result
  troupe := t.troupe
  ins := []
  stoch := t.stoch

/-- Push beats of a span: runs of at most PUSH_MAX_CHUNKS chunks of 512 positions from its start (R173). The prefill chunks of one Call
are one flow for each operator, numbered on from listing to listing (R180; log entry 55). -/
def pushBeats (s : State) (n slot start toks deadline : Nat) (frame costume spec : Bool) (t : Template × Nat) : List Beat :=
  let m := max 1 (getA s Fld.stmComposePushMaxChunks)
  let k := ceilDiv toks 512
  (List.range (ceilDiv k m)).map fun i =>
    let c := min m (k - i * m)
    let a := start + 512 * m * i
    { mkBeat t.1 n deadline [slot] frame costume spec with
      chunks := c, ordinal := s.stm.flowNext.getD (flowId slot t.2) 0 + i * m, flow := flowId slot t.2, start := a
      toks := min (512 * c) (start + toks - a) }

/-- The flows of a listed span's operators go on behind its chunks. -/
def numberFlows (s : State) (slot toks : Nat) (ops : List (Template × Nat)) : State :=
  s.onStm fun m => { m with flowNext := ops.foldl (fun a t =>
    a.put (flowId slot t.2) (a.getD (flowId slot t.2) 0 + ceilDiv toks 512)) m.flowNext }

/-- A last-stage device owes the result of a prefill listing that does not sample (R194). -/
def noteSpan (s : State) (cue slot start toks : Nat) (ops : List (Template × Nat)) : State :=
  let k := (ops.filter fun t => t.1.result).length
  if atLast s && decide (0 < k) then
    s.onStm fun m => { m with spans := m.spans ++ [⟨cue, slot, start, toks, toks * k, false, false⟩] }
  else s

/-- What the lead said of a slot's Call in cue `n`: its deadline, and whether it is a Frame Call (log entry 168). -/
def factOf (s : State) (n slot : Nat) : Option (Nat × Bool) :=
  (s.stm.facts.find? fun f => f.cue = n).bind fun f => (f.calls.find? fun x => x.1 = slot).map Prod.snd

/-- Deadline of a slot's Call (R169): the lead's own, or as the lead said; a free value with no word of the lead (log entry 168). -/
def slotDeadline (s : State) (n slot : Nat) : Nat × State :=
  match (if isLead s then callAt s slot else none) with
  | some c => (callDeadline s n c, s)
  | none =>
    match factOf s n slot with
    | some f => (f.1, s)
    | none => (fresh s % 2 ^ 64, advance s)

/-- The earliest deadline of a group (R169). -/
def groupDeadline (s : State) (n : Nat) (slots : List Nat) : Nat × State :=
  slots.foldl (fun (a : Nat × State) x => let (d, s) := slotDeadline a.2 n x; (min a.1 d, s)) (2 ^ 64 - 1, s)

def isFrameCall (s : State) (n slot : Nat) : Bool :=
  ((callAt s slot).any fun c => cardFlag c.card flagFrame) || (factOf s n slot).any Prod.snd

/-- The length pointer of a slot (R393, R474). -/
def setLen (s : State) (slot pos : Nat) : State := s.onMdw fun m => { m with lenPtr := m.lenPtr.setD slot 0 pos }

/-- Step records of earlier listings of the slots that have not come yet (R211, R398). -/
def awaited (s : State) (n : Nat) (slots : List Nat) : List (Nat × Nat) :=
  s.stm.awaits.filter fun a => decide (a.2 ∈ slots) && decide (a.1 < n)

/-- A listing's step record is awaited from now on. -/
def await (s : State) (n slot : Nat) : State :=
  s.onStm fun m => { m with awaits := if (n, slot) ∈ m.awaits then m.awaits else m.awaits ++ [(n, slot)] }

/-- The step record that a trailing entry of cue `n` waits for, when it has come before the launch (R211, R212). -/
def earlyFor (s : State) (n : Nat) (t : CueTok) : Option Early :=
  if clTrailing t then s.stm.early.find? fun e => e.cue + 1 = n && e.slot = clSlot t else none

/-- Tokens a decode entry takes in: its input token at P, and the guesses held here for its slot at P + 1 to P + D (R30, R385). The token of a
trailing entry comes with its record. -/
def entryIns (s : State) (n : Nat) (t : CueTok) : List (Nat × Nat × Nat) :=
  let gs := (s.prm.guesses.getD (clSlot t) []).take (clDepth t)
  let first := match earlyFor s n t with
    | some e => [(clSlot t, e.pos, e.tok)]
    | none => if clTrailing t then [] else [(clSlot t, clPos t, bits t 64 24)]
  first ++ gs.zipIdx.map fun g => (clSlot t, clPos t + 1 + g.2, g.1)

/-- One decode group forms one pull beat per operator (R189). An entry whose awaited record, come before the launch, carries a stop is
void, as is one whose table this device lacks (R473); poison or fail of such a record marks the beat (R212). -/
def launchGroup (n : Nat) (s : State) (g : List CueTok) : State :=
  let gone (t : CueTok) : Bool := (earlyFor s n t).any (·.stop) || decide (clSlot t ∈ s.stm.noTable)
  let runs := g.filter fun t => !gone t
  let slots := runs.map clSlot
  let early := runs.filterMap (earlyFor s n)
  let (d, s) := groupDeadline s n slots
  let w := awaited s n slots
  let bs := (sheets s false true).map fun t =>
    { mkBeat t.1 n d slots (slots.any (isFrameCall s n)) (runs.any clCostume) (runs.any fun t => clDepth t ≠ 0) with
      waits := w, void := runs.isEmpty, poison := early.any (·.poison), fail := early.any (·.fail)
      ins := (runs.map (entryIns s n)).flatten }
  let s := runs.foldl (fun s t =>
    await (setLen s (clSlot t) (match earlyFor s n t with | some e => e.pos | none => clPos t)) n (clSlot t)) s
  instantiate s bs

/-- One prefill entry forms its push beats (R173). -/
def launchSpan (n : Nat) (s : State) (t : CueTok) : State :=
  if clSlot t ∈ s.stm.noTable then s else
  let (d, s) := slotDeadline s n (clSlot t)
  let w := awaited s n [clSlot t]
  let ops := sheets s true true
  let bs := (ops.map (pushBeats s n (clSlot t) (clPos t) (clToks t) d (isFrameCall s n (clSlot t)) (clCostume t) false)).flatten
  let s := numberFlows (setLen s (clSlot t) (clPos t)) (clSlot t) (clToks t) ops
  let s := if clLast t then await s n (clSlot t) else noteSpan s n (clSlot t) (clPos t) (clToks t) ops
  instantiate s (bs.map fun b => { b with waits := w })

/-- A Cue List of cue `n` as received is broken (R213). -/
def listBroken (n : Nat) (toks : List CueTok) : Bool :=
  match toks with
  | [] => true
  | h :: r =>
    let ents := r.filter fun t => clKind t = 2 || clKind t = 3
    clKind h ≠ 1 || toks.any (fun t => clKind t = 0 || decide (4 < clKind t)) || decide (2048 < clHdrDec h) ||
      decide (4096 < clHdrPf h) || ents.any (fun t => clKind t = 2 && decide (4 < clDepth t)) ||
      ents.any (fun t => clKind t = 3 && (clToks t = 0 || decide (65536 < clToks t) || decide (4 < bits t 9 3))) ||
      match r.getLast? with
      | some e => clKind e ≠ 4 || clHdrCue e ≠ n || clEndEntries e ≠ clHdrDec h + clHdrPf h ||
          clEndEntries e ≠ ents.length
      | none => true

/-- A broken list is counted and reported (R214). -/
def clError (s : State) : State := report (inc (advance s) Fld.stmDropClErr 1) 0x0202 0xFFFF (fresh s % 2 ^ 32)

/-- A Cue List whose end token is still to come. -/
def listOpen (l : Nat × List CueTok × Bool) : Bool := !(l.2.1.getLast?.any fun e => clKind e = 4)

/-- What is left of the list of a launched cue: it takes in the tokens that still belong to it. -/
def listRest (l : Nat × List CueTok × Bool) : Nat × List CueTok × Bool := (l.1, [], true)

/-- Launch at a front-of-house device: its stage-0 beats are instantiated and the casting of the header takes effect
(Table STM-2, R200). A list whose header came after its launch is counted here; one already counted is not (log entry 57). -/
def launchList (s : State) (n : Nat) : State :=
  let late := s.stm.lists.filter fun l => decide (l.1 < n) && l.2.1.head?.any fun t => clKind t = 1
  let mine := s.stm.lists.find? fun l => l.1 = n
  let s := s.onStm fun m => { m with
    lists := ((m.lists.filter fun l => decide (l.1 ≤ n) && listOpen l).map listRest) ++ m.lists.filter fun l => decide (n < l.1) }
  let s := late.foldl (fun s _ => clError s) s
  match mine with
  | none => s
  | some (_, toks, bad) =>
    if bad || listBroken n toks then clError s
    else
      let s := castBoundary s n (clHdrReading (toks.headD 0#128))
      let s := (pieces (max 1 (getA s Fld.stmComposeDecGroup)) (toks.length + 1)
        (toks.filter fun t => clKind t = 2)).foldl (launchGroup n) s
      (toks.filter fun t => clKind t = 3).foldl (launchSpan n) s

/-- Casting at a device that receives no Cue List (R162, R200): the lead's Reading count, which the lead tells; with no word of it a free
value (log entries 16, 168). -/
def launchOther (s : State) (n : Nat) : State :=
  if n % 64 = 0 then
    match s.stm.facts.find? fun f => f.cue = n with
    | some f => castBoundary s n f.reading
    | none => castBoundary (advance s) n (fresh s % 49)
  else s

/-- A merge or a list of a listing that no longer awaits its record: the census resolves its position (R358, R883). -/
def starved (s : State) (slot cue16 : Nat) : Bool := !(s.stm.awaits.any fun a => a.2 = slot && a.1 % 65536 = cue16)

/-- The census at the launch of cue `n` (R204, R205, R358). -/
def census (s : State) (n : Nat) : State :=
  let old (b : Beat) : Bool := decide (b.cue + 2 ≤ n)
  let gone := s.stm.beats.filter fun b => old b && !b.issued
  let left := s.stm.beats.filter fun b => old b && b.issued && !b.abandoned
  let s := inc (inc s Fld.stmRetiredRetired gone.length) Fld.stmCensusAbandoned left.length
  let s := s.onStm fun m => { m with
    beats := (m.beats.filter fun b => !(old b && !b.issued)).map fun b => if old b then { b with abandoned := true } else b
    spans := m.spans.filter fun x => decide (n < x.cue + 2)
    early := m.early.filter fun e => decide (n ≤ e.cue + 1)
    heldDone := m.heldDone.filter fun b => !old b
    awaits := m.awaits.filter fun a => decide (n < a.1 + 2) }
  let s := s.onPrm fun p => { p with
    merges := p.merges.filter fun m => !starved s m.slot (m.req.cue % 65536), lists := p.lists.filter fun x => !starved s x.slot x.cue16 }
  let s := left.foldl (fun s _ => report (advance s) 0x0203 0xFFFF (fresh s % 2 ^ 32)) s
  cutChecks (noteReady (enterArriving s))

/-! A step record as the input of stage-0 beats (R211, R212). -/

/-- A beat after the record of a listing it awaits: it goes on with the record's token; with a stop the waiting entry is void, with poison
or fail the beat carries the mark. -/
def Beat.withStep (e : Early) (b : Beat) : Beat :=
  if (e.cue, e.slot) ∈ b.waits then
    let slots := if e.stop then b.slots.filter (fun x => x ≠ e.slot) else b.slots
    { b with
      waits := b.waits.erase (e.cue, e.slot), slots := slots, void := b.void || slots.isEmpty
      poison := b.poison || e.poison, fail := b.fail || e.fail
      ins := if e.stop then b.ins.filter (fun x => x.1 ≠ e.slot) else b.ins ++ [(e.slot, e.pos, e.tok)] }
  else b

/-- The record of a listing has come: beats that await it go on, and where the entry that takes its token is launched the length
pointer follows the token (R393). Before that launch the record is kept for it. -/
def stepArrived (s : State) (e : Early) : State :=
  let waited := (s.stm.beats ++ s.stm.arriving).any fun b => decide ((e.cue, e.slot) ∈ b.waits)
  let s := if waited && !e.stop then setLen s e.slot e.pos else s
  let s := s.onStm fun m => { m with
    awaits := m.awaits.erase (e.cue, e.slot), beats := m.beats.map (Beat.withStep e), arriving := m.arriving.map (Beat.withStep e)
    early := if nextCue s ≤ e.cue + 1 then m.early ++ [e] else m.early }
  cutChecks (noteReady (sweepDead s))

/-! The commands. -/

/-- COMPLETION (R163 to R167). -/
def execCompletion (toks : List Token) (s : State) : Host.Outcome State Fault Refusal := .next (arriveTokens s toks)

/-- One Cue List token at a front-of-house device (R192, R213). -/
def absorbTok (s : State) (t : CueTok) : State :=
  let ls := s.stm.lists
  let ls' := if clKind t = 1 then ls ++ [(clHdrCue t, [t], false)]
    else
      match ls.getLast?.filter listOpen with
      | some (n, ts, bad) => ls.dropLast ++ [(n, ts ++ [t], bad)]
      | none => ls ++ [(nextCue s, [t], true)]
  s.onStm fun m => { m with lists := ls' }

/-- This device's pipeline stage. -/
def selfStage (s : State) : Option Nat := (s.spl.active.bind Plot.self).map (·.stage)

/-- CUE_LIST (R192, R193, R213). -/
def execCueList (src : Fin 1024) (toks : List CueTok) (s : State) : Host.Outcome State Fault Refusal :=
  .next (if fromLead s src.val && selfStage s = some 0 then toks.foldl absorbTok s else s)

/-- The `n` bytes from address `a` are bytes of Loft or Meadow (R251 to R253, R464). -/
def addrOk (s : State) (a n : Nat) : Bool :=
  decide (a + n ≤ loftEnd) || inWeightView s a n || (decide (meadowBase ≤ a) && decide (a + n ≤ meadowEnd))

/-- Write a run of bytes at a device address, with poison tags when asked (R252, R833). -/
def writeAt (s : State) (a : Nat) (poison : Bool) (bs : List Byte) : State :=
  let put (s : State) (x : Byte × Nat) : State := writeByte s (physOf (a + x.2)) x.1
  let s := bs.zipIdx.foldl put s
  if poison then (List.range bs.length).foldl (fun s i => setPoison s (physOf (a + i))) s else s

/-- A Loft byte no Player may store to: a weight or Costume region, or another Player's instruction store (R249, R256). -/
def protectedByte (s : State) (p a : Nat) : Bool :=
  decide (a < loftEnd) &&
    let o := a % 0x600000
    (decide (o < 0x20000) && decide (a / 0x600000 ≠ p)) ||
      (decide (0x20000 ≤ o) && decide (o < 0x20000 + (wGran s + get s Fld.plyLoftPartC) * 0x10000))

/-- Bytes that arrive for a weight or Costume region or an instruction store are not written (R257; log entry 161). -/
def guarded (s : State) (a n : Nat) : Bool := (List.range n).any fun i => protectedByte s 96 (physOf (a + i))

/-- ACTIVATION (R162, R173, R393): what SEND writes goes to its place, and the beats of the listing are instantiated at a device past
stage 0. -/
def execActivation (src : Fin 1024) (cue : Nat) (push : Bool) (slots : List (Fin 16384 × BitVec 20)) (toks deadline : Nat)
    (frame costume spec : Bool) (body : ActBody) (s : State) : Host.Outcome State Fault Refusal :=
  .next (if decide (src.val ∈ memberDevs s) && (selfStage s).any (fun i => i ≠ 0) then
      let slots := slots.filter fun x => decide (x.1.val ∉ s.stm.noTable)
      let s := if addrOk s body.addr body.data.length && !guarded s body.addr body.data.length then
        writeAt s body.addr body.poison body.data else s
      let s := slots.foldl (fun s x => setLen s x.1.val x.2.toNat) s
      let s := if body.samples && atLast s then slots.foldl (fun s x => await s cue x.1.val) s else s
      let ops := sheets s true false
      let bs := if push then
          (slots.map fun x => (ops.map (pushBeats s cue x.1.val x.2.toNat toks deadline frame costume spec)).flatten).flatten
        else (sheets s false false).map fun t => mkBeat t.1 cue deadline (slots.map fun x => x.1.val) frame costume spec
      let s := if push then
          slots.foldl (fun s x =>
            let s := numberFlows s x.1.val toks ops
            if body.samples then s else noteSpan s cue x.1.val x.2.toNat toks ops) s
        else s
      instantiate s bs
    else s)

/-- PARTIALS (R163, R257, R279, R280): a rank's partials are written and count as one fabric arrival of their beat. -/
def execPartials (_src : Fin 1024) (beat : Fin 16384) (cue16 : BitVec 16) (addr : Nat) (data : List Byte)
    (poison fail : Bool) (s : State) : Host.Outcome State Fault Refusal :=
  if addrOk s addr data.length then
    .next (
      let t : Token := BitVec.ofNat 64 (place 0 14 beat.val + place 14 1 (b2n poison) + place 15 1 (b2n fail) +
        place 16 4 1 + place 20 10 (selfDev s) + place 32 16 cue16.toNat + place 48 8 0xF0)
      arriveTokens (if guarded s addr data.length then s else writeAt s addr poison data) [t])
  else .fault .noAddress

end Sys2Proof.Machine
end

