-- ==== Sys2Proof/Machine/Flags.lean ====
section
/-!
DEFINITION. Numerics (spec/07_numerics.md): every operation as its exact result rounded once, with the sticky flags of
Table NUM-2. A result is an encoding and a flag word: bit 0 NV, 1 DZ, 2 OF, 3 UF, 4 IX, 5 SAT.
exp and ln are computed with 320 fraction bits and a sticky bit (log entry 7).
-/
namespace Sys2Proof.Machine

/-- Encoding and flags of a result. -/
structure Res where
  v : Nat
  fl : Nat
  deriving DecidableEq, Repr

def fNV : Nat := 1
def fDZ : Nat := 2
def fOF : Nat := 4
def fUF : Nat := 8
def fIX : Nat := 16
def fSAT : Nat := 32

/-- Union of flag words. -/
def orFl (a b : Nat) : Nat := Nat.lor a b

/-- Parameters of a format of Table NUM-1. -/
structure FmtP where
  eb : Nat
  fb : Nat
  bias : Nat
  /-- largest finite encoding, encoding of infinity (E4M3: none), canonical NaN -/
  maxE : Nat
  inf : Option Nat
  nan : Nat
  deriving DecidableEq, Repr

def fmtP : Fmt → FmtP
  | .fp32 => ⟨8, 23, 127, 0x7F7FFFFF, some 0x7F800000, 0x7FC00000⟩
  | .fp16 => ⟨5, 10, 15, 0x7BFF, some 0x7C00, 0x7E00⟩
  | .bf16 => ⟨8, 7, 127, 0x7F7F, some 0x7F80, 0x7FC0⟩
  | .e4m3 => ⟨4, 3, 7, 0x7E, none, 0x7F⟩
  | .e5m2 => ⟨5, 2, 15, 0x7B, some 0x7C, 0x7E⟩
  | .int8 => ⟨0, 8, 0, 127, none, 0⟩

def signBit (p : FmtP) : Nat := 2 ^ (p.eb + p.fb)

def withSign (p : FmtP) (neg : Bool) (v : Nat) : Nat := v + (if neg then signBit p else 0)

/-! Decoding an encoding. -/

def isNeg (p : FmtP) (w : Nat) : Bool := w / signBit p % 2 = 1
def magOf (p : FmtP) (w : Nat) : Nat := w % signBit p
def isInf (p : FmtP) (w : Nat) : Bool := p.inf = some (magOf p w)
def isNan (p : FmtP) (w : Nat) : Bool := match p.inf with | some i => i < magOf p w | none => magOf p w = 0x7F
/-- Signalling NaNs exist in FP32, FP16 and BF16 (R297). -/
def isSNan (p : FmtP) (w : Nat) : Bool := isNan p w && 7 ≤ p.fb && magOf p w / 2 ^ (p.fb - 1) % 2 = 0

/-- Magnitude of a finite encoding in units of 2^(1 − bias − fb). -/
def unitsOf (p : FmtP) (w : Nat) : Nat :=
  let m := magOf p w
  let e := m / 2 ^ p.fb
  if e = 0 then m % 2 ^ p.fb else (2 ^ p.fb + m % 2 ^ p.fb) * 2 ^ (e - 1)

/-- Exponent of the unit as a power: value = units / 2^unitNeg. -/
def unitNeg (p : FmtP) : Nat := p.bias + p.fb - 1

/-- Signed value of a finite FP32 encoding in units of 2^−149. -/
def u32 (w : Nat) : Int := let p := fmtP .fp32; if isNeg p w then -(unitsOf p w : Int) else unitsOf p w

/-! Rounding (R300, R302, Table NUM-2). -/

/-- floor of log2 of num / den, for positive num and den. -/
def floorLog (num den : Nat) : Int :=
  let a : Int := Nat.log2 num
  let b : Int := Nat.log2 den
  let e := a - b
  let ge : Bool := if 0 ≤ e then den * 2 ^ e.toNat ≤ num else den ≤ num * 2 ^ (-e).toNat
  if ge then e else e - 1

/-- Overflow threshold of a format, as a fraction (Table NUM-1). -/
def threshold (p : FmtP) : Nat × Nat :=
  match p.inf with
  | none => (464, 1)
  | some _ =>
    let emax := 2 ^ p.eb - 2 - p.bias
    ((2 ^ (p.fb + 2) - 1) * 2 ^ emax, 2 ^ (p.fb + 1))

/-- The exact value (−1)^neg × num / den rounded once to nearest even, with OF, UF, IX and SAT (R302, R317). -/
def roundTo (f : Fmt) (neg : Bool) (num den : Nat) : Res :=
  let p := fmtP f
  if num = 0 then ⟨withSign p neg 0, 0⟩
  else
    let (tn, td) := threshold p
    if tn * den ≤ num * td then
      match p.inf with
      | some i => ⟨withSign p neg i, fOF + fIX⟩
      | none => ⟨withSign p neg p.maxE, fOF + fIX + fSAT⟩
    else
      let e := floorLog num den
      let emin : Int := 1 - p.bias
      let q : Int := max e emin - p.fb
      let (n', d') : Nat × Nat := if 0 ≤ q then (num, den * 2 ^ q.toNat) else (num * 2 ^ (-q).toNat, den)
      let n := n' / d'
      let r := n' % d'
      let n := if d' < 2 * r ∨ (2 * r = d' ∧ n % 2 = 1) then n + 1 else n
      let bexp := (q + p.fb + p.bias).toNat
      let enc := if n < 2 ^ p.fb then n else bexp * 2 ^ p.fb + (n - 2 ^ p.fb)
      let enc := min enc p.maxE
      let ix := if r = 0 then 0 else fIX
      let uf := if r ≠ 0 ∧ enc < 2 ^ p.fb then fUF else 0
      ⟨withSign p neg enc, ix + uf⟩

def qNaN : Nat := 0x7FC00000
def pInf : Nat := 0x7F800000
def nInf : Nat := 0xFF800000

def p32 : FmtP := fmtP .fp32

/-- Sign and magnitude of an exact sum in units of 2^−k. -/
def roundInt (v : Int) (k : Nat) (zeroNeg : Bool) : Res :=
  if v = 0 then ⟨if zeroNeg then 0x80000000 else 0, 0⟩ else roundTo .fp32 (v < 0) v.natAbs (2 ^ k)

def nanFl (ws : List Nat) : Nat := if ws.any (isSNan p32) then fNV else 0

/-- Addition (Table NUM-3). -/
def fAdd (a b : Nat) : Res :=
  if isNan p32 a || isNan p32 b then ⟨qNaN, nanFl [a, b]⟩
  else if isInf p32 a && isInf p32 b then (if a = b then ⟨a, 0⟩ else ⟨qNaN, fNV⟩)
  else if isInf p32 a then ⟨a, 0⟩
  else if isInf p32 b then ⟨b, 0⟩
  else roundInt (u32 a + u32 b) 149 (isNeg p32 a && isNeg p32 b)

def fNeg (a : Nat) : Nat := if a < 0x80000000 then a + 0x80000000 else a - 0x80000000

def fSub (a b : Nat) : Res := if isNan p32 b then fAdd a b else fAdd a (fNeg b)

/-- Multiplication. -/
def fMul (a b : Nat) : Res :=
  let neg := isNeg p32 a != isNeg p32 b
  let z (w : Nat) : Bool := magOf p32 w = 0
  if isNan p32 a || isNan p32 b then ⟨qNaN, nanFl [a, b]⟩
  else if (isInf p32 a && z b) || (z a && isInf p32 b) then ⟨qNaN, fNV⟩
  else if isInf p32 a || isInf p32 b then ⟨withSign p32 neg pInf, 0⟩
  else roundTo .fp32 neg (unitsOf p32 a * unitsOf p32 b) (2 ^ 298)

/-- Fused multiply-add a × b + c; a zero and an infinite factor set NV even with a quiet NaN addend (Table NUM-2). -/
def fFma (a b c : Nat) : Res :=
  let neg := isNeg p32 a != isNeg p32 b
  let z (w : Nat) : Bool := magOf p32 w = 0
  let bad := (isInf p32 a && z b) || (z a && isInf p32 b)
  if isNan p32 a || isNan p32 b then ⟨qNaN, nanFl [a, b, c]⟩
  else if bad then ⟨qNaN, fNV⟩
  else if isNan p32 c then ⟨qNaN, nanFl [c]⟩
  else if isInf p32 a || isInf p32 b then
    (if isInf p32 c ∧ (isNeg p32 c != neg) then ⟨qNaN, fNV⟩ else ⟨withSign p32 neg pInf, 0⟩)
  else if isInf p32 c then ⟨c, 0⟩
  else
    let pr : Int := unitsOf p32 a * unitsOf p32 b
    roundInt ((if neg then -pr else pr) + u32 c * 2 ^ 149) 298 (neg && isNeg p32 c)

/-- Division. -/
def fDiv (a b : Nat) : Res :=
  let neg := isNeg p32 a != isNeg p32 b
  let z (w : Nat) : Bool := magOf p32 w = 0
  if isNan p32 a || isNan p32 b then ⟨qNaN, nanFl [a, b]⟩
  else if (isInf p32 a && isInf p32 b) || (z a && z b) then ⟨qNaN, fNV⟩
  else if isInf p32 a then ⟨withSign p32 neg pInf, 0⟩
  else if isInf p32 b then ⟨withSign p32 neg 0, 0⟩
  else if z b then ⟨withSign p32 neg pInf, fDZ⟩
  else roundTo .fp32 neg (unitsOf p32 a) (unitsOf p32 b)

/-- Integer square root. -/
def isqrt (n : Nat) : Nat :=
  (List.range (Nat.log2 n / 2 + 1)).reverse.foldl (fun r i => if (r + 2 ^ i) * (r + 2 ^ i) ≤ n then r + 2 ^ i else r) 0

/-- Square root, from an integer root with 64 further bits and a sticky bit. -/
def fSqrt (a : Nat) : Res :=
  if isNan p32 a then ⟨qNaN, nanFl [a]⟩
  else if magOf p32 a = 0 then ⟨a, 0⟩
  else if isNeg p32 a then ⟨qNaN, fNV⟩
  else if isInf p32 a then ⟨a, 0⟩
  else
    let n := unitsOf p32 a * 2 * 2 ^ 128
    let r := isqrt n
    roundTo .fp32 false (2 * r + b2n (r * r != n)) (2 ^ (1 + 75 + 64))

/-- Reciprocal square root. -/
def fRsqrt (a : Nat) : Res :=
  if isNan p32 a then ⟨qNaN, nanFl [a]⟩
  else if magOf p32 a = 0 then ⟨withSign p32 (isNeg p32 a) pInf, fDZ⟩
  else if isNeg p32 a then ⟨qNaN, fNV⟩
  else if isInf p32 a then ⟨0, 0⟩
  else
    let n := unitsOf p32 a * 2
    let y := isqrt (2 ^ 600 / n)
    roundTo .fp32 false ((2 * y + b2n (n * y * y != 2 ^ 600)) * 2 ^ 75) (2 ^ 301)

/-- 320-bit fixed-point exponential of x / 2^320 for |x| at most 128 × 2^320. -/
def expFix (x : Int) : Nat :=
  let r : Int := x / 256
  let t := (List.range 80).foldl (fun (acc : Int × Int) (i : Nat) =>
    let term := acc.2 * r / 2 ^ 320 / ((i + 1 : Nat) : Int)
    (acc.1 + term, term)) ((2 ^ 320 : Int), (2 ^ 320 : Int))
  (List.range 8).foldl (fun y _ => y * y / 2 ^ 320) t.1.toNat

/-- exp, correctly rounded (R300). -/
def fExp (a : Nat) : Res :=
  if isNan p32 a then ⟨qNaN, nanFl [a]⟩
  else if a = pInf then ⟨pInf, 0⟩
  else if a = nInf then ⟨0, 0⟩
  else if magOf p32 a = 0 then ⟨0x3F800000, 0⟩
  else
    let x := u32 a
    if 90 * 2 ^ 149 ≤ x then ⟨pInf, fOF + fIX⟩
    else if x ≤ -(105 * 2 ^ 149) then ⟨0, fUF + fIX⟩
    else roundTo .fp32 false (2 * expFix (x * 2 ^ 171) + 1) (2 ^ 321)

/-- 320-bit fixed-point logarithm of (num / den) for 1 ≤ num / den < 2: 2 artanh((num − den) / (num + den)). -/
def lnFix (num den : Nat) : Nat :=
  let z := (num - den) * 2 ^ 320 / (num + den)
  let z2 := z * z / 2 ^ 320
  2 * ((List.range 110).foldl (fun (acc : Nat × Nat) i => (acc.1 + acc.2 / (2 * i + 1), acc.2 * z2 / 2 ^ 320)) (0, z)).1

/-- ln(q / s) rounded once to BF16 (R349). -/
def lnBf16 (q s : Nat) : Nat :=
  if q = 0 ∨ s ≤ q then 0
  else
    let k := (floorLog s q).toNat
    let v := k * lnFix 2 1 + lnFix s (q * 2 ^ k)
    (roundTo .bf16 true (2 * v + 1) (2 ^ 321)).v

/-- Order of two non-NaN FP32 values, with +0 and −0 equal (R299). -/
def fVal (a : Nat) : Int := if a = pInf then 2 ^ 300 else if a = nInf then -(2 ^ 300) else u32 a

def fLt (a b : Nat) : Bool := fVal a < fVal b

/-- max (R299): of two zeros, +0. -/
def fMax (a b : Nat) : Res :=
  if isNan p32 a || isNan p32 b then ⟨qNaN, nanFl [a, b]⟩
  else if magOf p32 a = 0 ∧ magOf p32 b = 0 then ⟨if isNeg p32 a && isNeg p32 b then 0x80000000 else 0, 0⟩
  else ⟨if fLt a b then b else a, 0⟩

/-! Conversions (R317 to R319, Table NUM-4). -/

/-- FP32 to a format under round to nearest even. -/
def fConv (f : Fmt) (a : Nat) : Res :=
  let p := fmtP f
  match f with
  | .int8 =>
    if isNan p32 a then ⟨0, fNV⟩
    else if a = pInf then ⟨127, fIX + fSAT⟩
    else if a = nInf then ⟨128, fIX + fSAT⟩
    else
      let u := unitsOf p32 a
      let n := u / 2 ^ 149
      let r := u % 2 ^ 149
      let n := if 2 ^ 149 < 2 * r ∨ (2 * r = 2 ^ 149 ∧ n % 2 = 1) then n + 1 else n
      let lim := if isNeg p32 a then 128 else 127
      if lim < n then ⟨lim, fIX + fSAT⟩
      else ⟨if isNeg p32 a then (256 - n) % 256 else n, if r = 0 then 0 else fIX⟩
  | .fp32 => if isNan p32 a then ⟨qNaN, nanFl [a]⟩ else ⟨a, 0⟩
  | _ =>
    if isNan p32 a then ⟨p.nan, nanFl [a]⟩
    else if isInf p32 a then
      match p.inf with
      | some i => ⟨withSign p (isNeg p32 a) i, 0⟩
      | none => ⟨withSign p (isNeg p32 a) p.maxE, fOF + fIX + fSAT⟩
    else roundTo f (isNeg p32 a) (unitsOf p32 a) (2 ^ 149)

/-- A format to FP32, exact (R319). -/
def fWiden (f : Fmt) (a : Nat) : Res :=
  match f with
  | .int8 =>
    let a := a % 256
    if 128 ≤ a then roundTo .fp32 true (256 - a) 1 else roundTo .fp32 false a 1
  | .fp32 => if isNan p32 a then ⟨qNaN, nanFl [a]⟩ else ⟨a, 0⟩
  | _ =>
    let p := fmtP f
    if isNan p a then ⟨qNaN, if isSNan p a then fNV else 0⟩
    else if isInf p a then ⟨withSign p32 (isNeg p a) pInf, 0⟩
    else roundTo .fp32 (isNeg p a) (unitsOf p a) (2 ^ unitNeg p)

/-- Stochastic conversion of an FP32 value with the 16-bit draw r (R303 to R305, R326, R327). -/
def fStoch (f : Fmt) (a r : Nat) : Res :=
  let p := fmtP f
  let (tn, td) := threshold p
  let u := unitsOf p32 a
  if isNan p32 a || isInf p32 a || decide (tn * 2 ^ 149 ≤ u * td) then fConv f a
  else
    let near := roundTo f false u (2 ^ 149)
    if near.fl = 0 then ⟨withSign p (isNeg p32 a) near.v, 0⟩
    else
      -- neighbours by encoding: the largest encoding not above the value, and the next one
      let below : Bool := unitsOf p near.v * 2 ^ 149 ≤ u * 2 ^ unitNeg p
      let lo := if below then near.v else near.v - 1
      let lov := unitsOf p lo * 2 ^ 149
      let hiv := unitsOf p (lo + 1) * 2 ^ 149
      let x := u * 2 ^ unitNeg p
      let frac := (x - lov) * 65536 / (hiv - lov)
      let enc := if p.maxE ≤ lo then lo else if 65536 ≤ frac + r then lo + 1 else lo
      ⟨withSign p (isNeg p32 a) enc, fIX + (if enc < 2 ^ p.fb then fUF else 0)⟩

/-! Reductions (R279, R281, R882). -/

/-- Left-to-right sum, one rounding per add. -/
def sumLR : List Nat → Nat → Nat → Res
  | [], acc, fl => ⟨acc, fl⟩
  | x :: r, acc, fl => let s := fAdd acc x; sumLR r s.v (orFl fl s.fl)

/-- Standard-mode sum of a row (R279); every NaN delivered is the canonical one (R296). -/
def sumStd : List Nat → Res
  | [] => ⟨0, 0⟩
  | x :: r => if isNan p32 x then sumLR r qNaN (nanFl [x]) else sumLR r x 0

/-- One block of at most 256 elements, summed exactly and rounded once (R281, R882). -/
def blockSum (xs : List Nat) : Res :=
  if xs.any (isNan p32) then ⟨qNaN, nanFl xs⟩
  else
    let pi := xs.any (· == pInf)
    let ni := xs.any (· == nInf)
    if pi && ni then ⟨qNaN, fNV⟩ else if pi then ⟨pInf, 0⟩ else if ni then ⟨nInf, 0⟩
    else roundInt ((xs.map u32).foldl (· + ·) 0) 149 (!xs.isEmpty && xs.all (· == 0x80000000))

/-- Blocks of 256 consecutive elements. -/
def blocksOf : Nat → List Nat → List (List Nat)
  | 0, _ => []
  | n + 1, xs => if xs.isEmpty then [] else xs.take 256 :: blocksOf n (xs.drop 256)

/-- One level of the fixed tree: values paired in index order. -/
def treeLevel : List Nat → List Nat × Nat
  | a :: b :: r => let s := fAdd a b; let t := treeLevel r; (s.v :: t.1, orFl s.fl t.2)
  | [a] => ([a], 0)
  | [] => ([], 0)

def tree : Nat → List Nat → Nat → Res
  | 0, xs, fl => ⟨xs.headD 0, fl⟩
  | n + 1, xs, fl =>
    match xs with
    | [] => ⟨0, fl⟩
    | [a] => ⟨a, fl⟩
    | xs => let t := treeLevel xs; tree n t.1 (orFl fl t.2)

/-- Exact-mode sum of a row (R281). -/
def sumExact (xs : List Nat) : Res :=
  let bs := (blocksOf (xs.length + 1) xs).map blockSum
  tree (bs.length + 1) (bs.map (·.v)) (bs.foldl (fun f b => orFl f b.fl) 0)

/-- Sum of a row in the Company's mode. -/
def sumRow (exact : Bool) (xs : List Nat) : Res := if exact then sumExact xs else sumStd xs

/-- Map an operation over a row, collecting flags. -/
def mapRes (f : Nat → Res) (xs : List Nat) : List Nat × Nat :=
  let rs := xs.map f
  (rs.map (·.v), rs.foldl (fun a r => orFl a r.fl) 0)

/-- stable_softmax (R320): the row of results and its flags. -/
def softmaxRow (exact : Bool) (xs : List Nat) : List Nat × Nat :=
  if xs.any (isNan p32) then (xs.map fun _ => qNaN, fNV)
  else
    let m := xs.foldl (fun a v => if fLt a v then v else a) nInf
    if m = pInf then
      let c := (xs.filter (· == pInf)).length
      let q := roundTo .fp32 false 1 c
      (xs.map (fun v => if v = pInf then q.v else 0), q.fl)
    else if m = nInf then (xs.map (fun _ => 0), fNV)
    else
      let d := mapRes (fun v => fSub v m) xs
      let e := mapRes fExp d.1
      let t := sumRow exact e.1
      let q := mapRes (fun v => fDiv v t.v) e.1
      (q.1, orFl (orFl d.2 e.2) (orFl t.fl q.2))

/-- Arithmetic mean divisor as FP32. -/
def ofNat32 (n : Nat) : Nat := (roundTo .fp32 false n 1).v

/-- RMS normalisation with gains (R301): x × rsqrt(mean(x²) + eps) × gain, each step rounded. -/
def rmsNorm (exact : Bool) (row gains : List Nat) (eps : Nat) : List Nat × Nat :=
  let sq := mapRes (fun x => fMul x x) row
  let t := sumRow exact sq.1
  let m := fDiv t.v (ofNat32 row.length)
  let a := fAdd m.v eps
  let r := fRsqrt a.v
  let y := mapRes (fun x => fMul x r.v) row
  let z := (List.zip y.1 gains).map fun p => fMul p.1 p.2
  (z.map (·.v), z.foldl (fun f x => orFl f x.fl)
    (orFl (orFl sq.2 t.fl) (orFl (orFl m.fl a.fl) (orFl r.fl y.2))))

/-- SiLU(g) × u with SiLU(x) = x / (1 + exp(−x)) (R301). -/
def gateOp (g u : Nat) : Res :=
  let e := fExp (fNeg g)
  let d := fAdd 0x3F800000 e.v
  let q := fDiv g d.v
  let r := fMul q.v u
  ⟨r.v, orFl (orFl e.fl d.fl) (orFl q.fl r.fl)⟩

/-! MATMUL (R313 to R315, R279, R280). -/

/-- Smallest k with the row's largest magnitude × 2^−k at most 448; 0 for a zero row (R313). -/
def rowScale (row : List Nat) : Int :=
  let m := row.foldl (fun a w => max a (unitsOf p32 w)) 0
  if m = 0 then 0
  else
    -- m / 2^149 ≤ 448 × 2^k, and 448 = 7 × 2^6
    let e := floorLog m (448 * 2 ^ 149)
    let fits : Bool := if 0 ≤ e then m ≤ 448 * 2 ^ 149 * 2 ^ e.toNat else m * 2 ^ (-e).toNat ≤ 448 * 2 ^ 149
    if fits then e else e + 1

/-- An activation quantised to E4M3 under the row's scale (R313), with its conversion flags. -/
def quant (k : Int) (w : Nat) : Res :=
  if 0 ≤ k then roundTo .e4m3 (isNeg p32 w) (unitsOf p32 w) (2 ^ 149 * 2 ^ k.toNat)
  else roundTo .e4m3 (isNeg p32 w) (unitsOf p32 w * 2 ^ (-k).toNat) (2 ^ 149)

/-- Signed E4M3 value in units of 2^−9. -/
def uE4 (w : Nat) : Int := let p := fmtP .e4m3; if isNeg p w then -(unitsOf p w : Int) else unitsOf p w

/-- An integer in units of 2^−18 times 2^e, rounded once to FP32. -/
def scaled18 (v e : Int) : Res :=
  if v = 0 then ⟨0, 0⟩
  else if 0 ≤ e then roundTo .fp32 (v < 0) (v.natAbs * 2 ^ e.toNat) (2 ^ 18)
  else roundTo .fp32 (v < 0) v.natAbs (2 ^ 18 * 2 ^ (-e).toNat)

/-- Exact dot product of quantised values in units of 2^−18 (R280). -/
def dotUnits (a b : List Nat) : Int := ((List.zip a b).map fun p => uE4 p.1 * uE4 p.2).foldl (· + ·) 0

/-- An FP32 value times 2^e, rounded once. -/
def scaleBy (w : Nat) (e : Int) : Res :=
  if isNan p32 w then ⟨qNaN, nanFl [w]⟩
  else if isInf p32 w || magOf p32 w = 0 then ⟨w, 0⟩
  else if 0 ≤ e then roundTo .fp32 (isNeg p32 w) (unitsOf p32 w * 2 ^ e.toNat) (2 ^ 149)
  else roundTo .fp32 (isNeg p32 w) (unitsOf p32 w) (2 ^ 149 * 2 ^ (-e).toNat)

/-- One MATMUL output: the row quantised, products exact, the sum in the Company's mode, the output scaled by 2^(k + scale)
(R313 to R315; log entry 154). A row with a NaN or an infinity gives the canonical NaN with NV (R314). -/
def dotOp (exact : Bool) (row : List Nat) (col : List Nat) (scale : Int) : Res :=
  if row.any (fun w => isNan p32 w || isInf p32 w) then ⟨qNaN, fNV⟩
  else
    let k := rowScale row
    let q := mapRes (quant k) row
    if col.any (isNan (fmtP .e4m3)) then ⟨qNaN, q.2⟩
    else if exact then
      let r := scaled18 (dotUnits q.1 col) (k + scale)
      ⟨r.v, orFl q.2 r.fl⟩
    else
      let s := sumStd ((List.zip q.1 col).map fun p => (scaled18 (uE4 p.1 * uE4 p.2) 0).v)
      let r := scaleBy s.v (k + scale)
      ⟨r.v, orFl q.2 (orFl s.fl r.fl)⟩

/-- The Exact-mode cross-rank partial of a MATMUL output: the 64-bit integer and the exponent of its combined scale, with the flags of
the row's conversion (R280, R310); none for a row or a column that no integer can stand for (log entry 155). -/
def partialOp (row : List Nat) (col : List Nat) (scale : Int) : Option (BitVec 64) × Int × Nat :=
  if row.any (fun w => isNan p32 w || isInf p32 w) then (none, scale, fNV)
  else
    let k := rowScale row
    let q := mapRes (quant k) row
    (if col.any (isNan (fmtP .e4m3)) then none else some (BitVec.ofInt 64 (dotUnits q.1 col)), k + scale, q.2)

/-- The COSTUME delta (x × A) × B added to a MATMUL output with one rounding (R451, R454). -/
def costumeOp (exact : Bool) (row : List Nat) (a : List (List Nat × Int)) (b : List Nat) (bScale : Int) (out : Nat) : Res :=
  let h := a.map fun c => dotOp exact row c.1 c.2
  let d := dotOp exact (h.map (·.v)) b bScale
  let r := fAdd out d.v
  ⟨r.v, h.foldl (fun f x => orFl f x.fl) (orFl d.fl r.fl)⟩

/-- ALLREDUCE in Standard mode: partials added in ascending rank order (R279). In Exact mode: 64-bit integers, each with the exponent of
its combined scale, summed exactly and converted once (R280; log entry 155). -/
def allreduceExact (parts : List (BitVec 64 × Int)) : Res :=
  let m := parts.foldl (fun a p => min a p.2) (parts.headD (0, 0)).2
  scaled18 ((parts.map fun p => p.1.toInt * 2 ^ (p.2 - m).toNat).foldl (· + ·) 0) m

/-- ROPE of a pair: x × cos − y × sin and x × sin + y × cos, each sum of products with one rounding fewer when fused (log entry 156). -/
def ropeOp (x y c s : Nat) (fused : Bool) : Res × Res :=
  let a := fMul x c
  let b := fMul x s
  if fused then
    let r := fFma (fNeg y) s a.v
    let t := fFma y c b.v
    (⟨r.v, orFl a.fl r.fl⟩, ⟨t.v, orFl b.fl t.fl⟩)
  else
    let p := fMul y s
    let q := fMul y c
    let r := fSub a.v p.v
    let t := fAdd b.v q.v
    (⟨r.v, orFl (orFl a.fl p.fl) r.fl⟩, ⟨t.v, orFl (orFl b.fl q.fl) t.fl⟩)

/-- Sum of products of two rows of FP32 values, in the mode of the Company (R279, R281). -/
def sumProds (exact : Bool) (xs ys : List Nat) : Res :=
  let ps := (List.zip xs ys).map fun p => fMul p.1 p.2
  let t := sumRow exact (ps.map (·.v))
  ⟨t.v, ps.foldl (fun f r => orFl f r.fl) t.fl⟩

/-- ATTEND of one query: a score for each position, the stable softmax of the scores (R320), and for each element the sum over the positions
of probability × value. In Exact mode the row maximum is one pass over the positions, the sums another, and every sum follows R281 in
position order (R282; log entry 157). -/
def attendOp (exact : Bool) (q : List Nat) (keys values : List (List Nat)) (scale : Nat) : List Nat × Nat :=
  let sc := keys.map fun k =>
    let d := sumProds exact q k
    let r := fMul d.v scale
    (⟨r.v, orFl d.fl r.fl⟩ : Res)
  let p := softmaxRow exact (sc.map (·.v))
  let outs := (List.range q.length).map fun i => sumProds exact p.1 (values.map fun v => v.getD i 0)
  (outs.map (·.v), outs.foldl (fun f r => orFl f r.fl) (sc.foldl (fun f r => orFl f r.fl) p.2))

/-- POOL: the greatest pixel, or the mean of them. -/
def poolOp (exact greatest : Bool) (px : List Nat) : Res :=
  if greatest then px.tail.foldl (fun a x => let r := fMax a.v x; ⟨r.v, orFl a.fl r.fl⟩) ⟨px.headD 0, 0⟩
  else
    let t := sumRow exact px
    let r := fDiv t.v (ofNat32 px.length)
    ⟨r.v, orFl t.fl r.fl⟩

end Sys2Proof.Machine
end

