-- ==== Sys2Proof/Machine/Players.lean ====
section
/-!
DEFINITION. The Players' sequencers (spec/06_players.md R263 to R293): the commands PUSH_SLOT_FILL, TAKE, REFETCH, BRANCH,
DONE, CHUNK, HALT, COMPUTE_WORD, BADOP, IPAR, RELOAD_DONE, HALT_REQ, SEQ_REFETCH and IDATA_STORE. A sequencer command acts
on the word at the front of the Player's window, and has no effect when that word is of another class.
-/
namespace Sys2Proof.Machine

/-! The window (R263 to R269). -/

def playerOf (s : State) (p : Nat) : Player := s.ply.getD p Player.idle
def onPlayer (s : State) (p : Nat) (f : Player → Player) : State := s.onPly fun ps => ps.modify p f
def pcOf (s : State) (p : Nat) : Nat := get s (Fld.plySeqStatusPc p)
/-- 0 IDLE, 1 RUNNING, 2 HALTED, 3 RELOAD. -/
def seqState (s : State) (p : Nat) : Nat := get s (Fld.plySeqStatusState p)
def setSeq (s : State) (p v : Nat) : State := set s (Fld.plySeqStatusState p) v

def fetchWord (s : State) (p w : Nat) : Nat := readLe s (iAddr p w) 8

/-- Words `w` to `w + 7`, excluding addresses above 0x3FFF (R266). -/
def windowAt (s : State) (p w : Nat) : List Nat :=
  (List.range 8).filterMap fun i => if w + i ≤ 0x3FFF then some (fetchWord s p (w + i)) else none

/-- Discard the window and refill it from word `w` (R268). -/
def refill (s : State) (p w : Nat) : State :=
  let ws := windowAt s p w
  onPlayer (set s (Fld.plySeqStatusPc p) w) p fun x => { x with win := ws, beyond := false }

/-- PC advances by one: the front word leaves and the word at PC + 7 enters (R266, R267). -/
def advancePc (s : State) (p : Nat) : State :=
  let w := pcOf s p
  if w = 0x3FFF then onPlayer s p fun x => { x with win := [], beyond := true }
  else
    let new := if w + 8 ≤ 0x3FFF then [fetchWord s p (w + 8)] else []
    onPlayer (set s (Fld.plySeqStatusPc p) (w + 1)) p fun x => { x with win := x.win.drop 1 ++ new }

/-- The window before the first fetch is filled from PC. -/
def withWindow (s : State) (p : Nat) : State :=
  if (playerOf s p).win.isEmpty && !(playerOf s p).beyond then refill s p (pcOf s p) else s

/-- Class of a word (Table PLY-2). -/
def wordClass (w : Nat) : Nat := w / 2 ^ 56

/-- A reserved word: its class is reserved, a reserved bit is set, or a BRANCH has condition 0xF (R264, R274). -/
def badWord (w : Nat) : Bool :=
  let c := wordClass w
  if c = 3 then w / 2 ^ 14 % 4 ≠ 0 || w / 2 ^ 21 % 2 ^ 35 ≠ 0 || w / 2 ^ 16 % 16 = 15
  else if c ∈ [1, 2, 4, 5, 6] then w % 2 ^ 56 ≠ 0
  else !(decide (0x10 ≤ c) && decide (c ≤ 0xEF))

/-- The word the sequencer executes next, when it may execute. -/
def frontWord (s : State) (p : Nat) : Option Nat :=
  if seqState s p < 2 then (playerOf s p).win.head? else none

/-- The front word is a good word of class `c`. -/
def frontIs (s : State) (p c : Nat) : Bool := (frontWord s p).any fun w => wordClass w = c && !badWord w

/-- Beat in hand. -/
def inHand (s : State) (p : Nat) : Option Beat := (playerOf s p).beat.bind (beatAt s)

def onHand (s : State) (p : Nat) (f : Beat → Beat) : State :=
  match (playerOf s p).beat with
  | some i => onBeat s i f
  | none => s

/-- The front word of the window is TAKE. -/
def atTake (s : State) (p : Nat) : Bool := ((playerOf s p).win.head?).any fun w => wordClass w = 1 && !badWord w

/-- Control passes to word 0 with no beat in hand. At a TAKE the Player waits, or halts with HALT_REQ; with another word there it runs on
(R289). -/
def toWordZero (s : State) (p : Nat) : State :=
  let s := onPlayer (refill s p 0) p fun x => { x with beat := none, cut := false, chunk := 0 }
  setSeq s p (if !atTake s p then 1 else if isSet s (Fld.plySeqCtlHaltReq p) then 2 else 0)

/-- The beat in hand, if any, completes with added marks, and control passes to word 0. -/
def endBeat (s : State) (p : Nat) (poison fail : Bool) : State :=
  match inHand s p with
  | some b => finishBeat (toWordZero s p) b poison fail
  | none => toWordZero s p

/-! Issue (R170 to R172, R177, R178, R182, R203). -/

/-- A beat of the other channel is still issued to the Player's pair. -/
def otherChannel (s : State) (p : Nat) (push : Bool) : Bool :=
  s.stm.beats.any fun b => b.issued && b.push ≠ push && b.player / 2 = p / 2

/-- The beat at the head of a ready list, when it may be issued now. -/
def issuable (s : State) (p : Nat) (push : Bool) : Option Beat :=
  ((readyList s p push).head?).filter fun b =>
    isSet s Fld.stmCtlEn && domLit s (p / 2) && isSet s (Fld.plyRoleInTroupe p) && b.troupe = get s (Fld.plyRoleTroupe p) && !otherChannel s p push &&
      (b.flow = 0 || decide (b.ordinal < s.stm.flows.getD b.flow 0 + 16))

/-- A ready beat whose pair is not Lit asks for it (R178). -/
def askLit (s : State) (p : Nat) (push : Bool) : State :=
  if (readyList s p push).isEmpty || domLit s (p / 2) then s else demandDom s (p / 2)

/-- PUSH_SLOT_FILL (R172, R215). -/
def execPushSlotFill (p : Fin 96) (s : State) : Host.Outcome State Fault Refusal :=
  .next (if get s (Fld.plyRoleRole p) = 1 ∧ s.stm.pushSlots.get? p.val = none ∧ pushStopped s = false ∧
        seqState s p ≠ 3 then
      let s := askLit s p true
      match issuable s p true with
      | some b =>
        noteReady ((onBeat s b.idx fun b => { b with issued := true }).onStm fun m => { m with
          pushSlots := m.pushSlots.put p b.idx })
      | none => s
    else s)

/-- A beat is handed to its Player: its loop counters are loaded and the sequencer jumps to its entry point (R265, R268). A push beat that
starts to run under the brake is cut at its next chunk boundary (R215). -/
def handOver (s : State) (p : Nat) (b : Beat) : State :=
  let s := onBeat s b.idx fun b => { b with issued := true }
  let s := s.onStm fun m => { m with pushSlots := if b.push then m.pushSlots.del p else m.pushSlots }
  let s := set (set s (Fld.plyBeatBeat p) b.idx) (Fld.plyBeatCue p) (b.cue % 65536)
  let s := onPlayer (refill s p (b.entry % 2 ^ 14)) p fun x => { x with
    lc := (List.range 4).map fun i => b.lc.getD i 0 % 65536, beat := some b.idx
    cut := b.push && pushStopped s && decide (1 < b.chunks), chunk := 0 }
  cutChecks (noteReady (setSeq s p 1))

/-- TAKE (R171, R203, R270, R289): the beat in the push slot, or on a Performing Player the head of the pull list; else the
Player waits. -/
def execTake (p : Fin 96) (s : State) : Host.Outcome State Fault Refusal :=
  .next (let s := withWindow s p
    if !frontIs s p 1 then s
    else if isSet s (Fld.plySeqCtlHaltReq p) then setSeq s p 2
    else
      match (s.stm.pushSlots.get? p.val).bind (beatAt s) with
      | some b => handOver s p b
      | none =>
        let s := setSeq s p 0
        if get s (Fld.plyRoleRole p) = 2 then
          let s := askLit s p false
          match issuable s p false with
          | some b => handOver s p b
          | none => s
        else s)

/-- REFETCH (R268): refill from the next word. -/
def execRefetch (p : Fin 96) (s : State) : Host.Outcome State Fault Refusal :=
  .next (let s := withWindow s p
    if !frontIs s p 2 then s
    else if pcOf s p = 0x3FFF then advancePc s p
    else setSeq (refill s p (pcOf s p + 1)) p 1)

/-- The truth of a BRANCH condition and the loop counters after it (Table PLY-8). -/
def branchCond (s : State) (p cond : Nat) : Bool × List Nat :=
  let x := playerOf s p
  let b := inHand s p
  if 1 ≤ cond ∧ cond ≤ 4 then
    let v := x.lc.getD (cond - 1) 0
    (decide (1 < v), x.lc.set (cond - 1) (v - 1))
  else
    let t := if cond = 0 then true
      else if cond = 5 then b.any (·.push)
      else if cond = 6 then x.cut
      else if cond = 7 then b.any fun b => decide (b.chunks ≤ x.chunk + 1)
      else if cond = 8 then b.any (·.poison)
      else if cond = 9 then b.any (·.costume)
      else if cond = 10 then isSet s Fld.plyModeExact
      else if cond = 11 then b.any (·.spec)
      else if cond = 12 then atLast s
      else if cond = 13 then b.any (·.frame)
      else x.chunk = 0
    (t, x.lc)

/-- BRANCH (R265). -/
def execBranch (p : Fin 96) (s : State) : Host.Outcome State Fault Refusal :=
  .next (let s := withWindow s p
    match (frontWord s p).filter (fun w => wordClass w = 3 && !badWord w) with
    | none => s
    | some w =>
      let (t, lc) := branchCond s p (w / 2 ^ 16 % 16)
      let s := setSeq (onPlayer s p fun x => { x with lc := lc }) p 1
      if t ≠ (w / 2 ^ 20 % 2 = 1) then refill s p (w % 2 ^ 14) else advancePc s p)

/-- DONE (R272). -/
def execDone (p : Fin 96) (s : State) : Host.Outcome State Fault Refusal :=
  .next (let s := withWindow s p
    if frontIs s p 4 then endBeat s p false false else s)

/-- A cut beat completes for the chunks it has finished; the rest is a new beat of the same flow and deadline, which keeps
the completion tokens and the marks met so far (R175; log entries 14 and 149). -/
def cutBeat (s : State) (p : Nat) (b : Beat) (k : Nat) : State :=
  let piece := { b with chunks := k, toks := min b.toks (512 * k), tokens := [] }
  let rest := { b with
    chunks := b.chunks - k, ordinal := b.ordinal + k, start := b.start + 512 * k, toks := b.toks - 512 * k
    issued := false, chunksDone := 0 }
  let s := toWordZero s p
  let (s, ts) := complete s piece
  instantiate (runTokens s ts) [rest]

/-- CHUNK (R173, R273). -/
def execChunk (p : Fin 96) (s : State) : Host.Outcome State Fault Refusal :=
  .next (let s := withWindow s p
    if !frontIs s p 5 then s
    else
      let x := playerOf s p
      match (inHand s p).filter (·.push) with
      | none => setSeq (advancePc s p) p 1
      | some b =>
        let k := x.chunk + 1
        if x.cut && decide (k < b.chunks) then cutBeat s p b k
        else
          let s := onBeat s b.idx fun b => { b with chunksDone := min k b.chunks }
          setSeq (advancePc (onPlayer s p fun x => { x with chunk := k }) p) p 1)

/-- HALT (Table PLY-2). -/
def execHalt (p : Fin 96) (s : State) : Host.Outcome State Fault Refusal :=
  .next (let s := withWindow s p
    if frontIs s p 6 then setSeq (advancePc s p) p 2 else s)

/-! Compute words (R256, R258, R275, R276, R307; Tables PLY-3, NUM-3, NUM-4). -/

/-- Set the sticky flags of a result (R307). -/
def setFlags (s : State) (p fl : Nat) : State :=
  [(fNV, Fld.plyFlagsNv p), (fDZ, Fld.plyFlagsDz p), (fOF, Fld.plyFlagsOf p), (fUF, Fld.plyFlagsUf p),
    (fIX, Fld.plyFlagsIx p), (fSAT, Fld.plyFlagsSat p)].foldl (fun s x => if fl / x.1 % 2 = 1 then set s x.2 1 else s) s

/-- Physical address of Costume page `k`: the granules of the Costume regions, Player by Player (R249, R251, R439; log entry 162). -/
def costumePageAddr (s : State) (k : Nat) : Nat :=
  let c := get s Fld.plyLoftPartC
  k / c * 0x600000 + 0x20000 + (wGran s + k % c) * 0x10000

/-- A version with a poisoned resident page is reloaded from Meadow (R462). -/
def redress (s : State) : State :=
  let hit (v : Ver) : Bool := v.resident && v.loft.any fun k => poisoned s (costumePageAddr s k) 65536
  s.onWdr fun w => { w with
    vers := mapIf hit (fun v => { v with
      resident := false, copying := true, loft := [], residents := v.residents.filter fun d => d ≠ selfDev s }) w.vers }

/-- A Player's store; one to a protected byte is discarded and the beat completes with fail (R256, R275). -/
def playerStore (s : State) (p a : Nat) (poison : Bool) (bs : List Byte) : State :=
  if (List.range bs.length).any fun i => protectedByte s p (physOf (a + i)) then
    onHand (report (set (advance s) (Fld.plyFaultWprot p) 1) 0x0401 p (fresh s % 2 ^ 32)) p fun b => { b with fail := true }
  else writeAt s a poison bs

/-- Poison met by the beat in hand (R275). -/
def meetPoison (s : State) (p : Nat) (poison : Bool) : State :=
  if poison then onHand (set s (Fld.plyFaultPoisonIn p) 1) p fun b => { b with poison := true } else s

/-- Bytes of an encoding of a format. -/
def fmtBytes (f : Fmt) : Nat :=
  match f with
  | .fp32 => 4
  | .fp16 => 2
  | .bf16 => 2
  | .e4m3 => 1
  | .e5m2 => 1
  | .int8 => 1

/-- The n-th free value from here, and the state after `n` of them (log entry 3). -/
def freshAt (s : State) (n : Nat) : Nat := Config.freeNat (s.freeCtr + n)
def skipFree (s : State) (n : Nat) : State := s.setFree (s.freeCtr + n)

/-- The number that `n` bytes at a device address spell. -/
def devLe (s : State) (n a : Nat) : Nat := ofLeBytes ((List.range n).map fun i => readByte s (physOf (a + i)))

/-- The run of device addresses of each element of a row. -/
def cells (r : Row) (n : Nat) : List (Nat × Nat) := (List.range r.len).map fun i => (r.base + i * r.stride, n)

/-- The elements of a row. -/
def rowVals (s : State) (n : Nat) (r : Row) : List Nat := (cells r n).map fun c => devLe s n c.1

/-- A row of weights, named by its offset in the weight view (R255). -/
def inView (r : Row) : Row := { r with base := weightBase + r.base }

/-- Device address of a position's elements at an offset of the slot's block (R468, R471; log entry 15). -/
def kvAddr (s : State) (slot pos off step : Nat) : Nat :=
  blockAddr s ((readEntry s slot (pos / 64)).1 % 2 ^ 22) + off + pos % 64 * step

/-- Elements of one position, one byte each. -/
def kvRow (s : State) (slot pos n off step : Nat) : Row := ⟨kvAddr s slot pos off step, n, 1⟩

/-- The id EMBED gathers a row for: the token a pull beat takes in, or at the lead the prompt token of a push beat's span; a free value
where neither gives one (log entry 158). -/
def embedTok (s : State) (p i : Nat) : Nat :=
  let b := inHand s p
  match b.bind fun b => if b.push then ((callAt s (b.slots.headD 0)).bind fun c => c.toks[b.start + i]?) else (b.ins[i]?).map (·.2.2) with
  | some t => t
  | none => freshAt s 0

/-- The runs of device addresses an operation reads. -/
def opReads (s : State) (p : Nat) (op : VecOp) : List (Nat × Nat) :=
  let words (l : List Nat) : List (Nat × Nat) := l.map fun a => (a, 4)
  match op with
  | .add a b _ => words [a, b]
  | .sub a b _ => words [a, b]
  | .mul a b _ => words [a, b]
  | .fma a b c _ => words [a, b, c]
  | .div a b _ => words [a, b]
  | .sqrt a _ => words [a]
  | .rsqrt a _ => words [a]
  | .exp a _ => words [a]
  | .max a b _ => words [a, b]
  | .embed i table n scales _ => cells (inView ⟨table + embedTok s p i * n, scales.length, 1⟩) 1
  | .gate g u _ => words [g, u]
  | .reduce r _ => cells r 4
  | .norm r g _ => cells r 4 ++ cells (inView g) 4
  | .softmax r _ => cells r 4
  | .matmul r c _ _ _ => cells r 4 ++ cells (inView c) 1
  | .costume valid r aCols b _ out _ =>
    if valid then cells r 4 ++ (aCols.map fun c => cells c.1 1).flatten ++ cells b 1 ++ words [out] else words [out]
  | .rope x y c n _ _ => words [x, y, c, n]
  | .kvAppend _ _ r _ _ _ _ => cells r 4
  | .attend slot pos q key value step _ _ =>
    cells q 4 ++ ((List.range (pos.toNat + 1)).map fun j =>
      cells (kvRow s slot.val j q.len key step) 1 ++ cells (kvRow s slot.val j q.len value step) 1).flatten
  | .allreduce parts exps _ =>
    if isSet s Fld.plyModeExact then (parts.map fun a => (a, 8)) ++ words exps else words parts
  | .share _ a n _ => [(a, n)]
  | .send a n _ => [(a, n)]
  | .logitsOut _ _ r => cells r 4
  | .conv2d f px wf w _ => cells px (fmtBytes f) ++ cells (inView w) (fmtBytes wf)
  | .pool f px _ _ => cells px (fmtBytes f)
  | .resize f px c _ => cells px (fmtBytes f) ++ cells c 4
  | .conv _ a _ => words [a]
  | .widen f a _ => [(a, fmtBytes f)]
  | .stoch _ a _ _ _ _ _ => words [a]
  | .store _ _ => []
  | .load a n _ => [(a, n)]

/-- What an operation delivers: bytes for device addresses, flags, whether a Gorse context it drew from is poisoned, and the free values it
took. -/
structure OpRes where
  out : List (Nat × List Byte)
  fl : Nat
  poison : Bool
  used : Nat
  deriving DecidableEq, Repr

/-- Formats stochastic rounding applies to (R303). -/
def stochFmt (f : Fmt) : Bool := f = .e4m3 || f = .e5m2 || f = .bf16

/-- One conversion from FP32 by the operator in hand: stochastic where it is selected and the format allows it, with the draw of an element
(R303 to R306, R418), else to nearest even. A slot whose context this device was never sent draws the free value numbered `i`. -/
def convElem (s : State) (p : Nat) (f : Fmt) (a slot pos site elem i : Nat) : Res :=
  if stochFmt f && (inHand s p).any (·.stoch) then
    fStoch f a (match s.grs.ctx.get? slot with | some c => gorseR c.1 pos site elem | none => freshAt s i % 65536)
  else fConv f a

/-- Whether the conversions of an operation draw from a poisoned context. -/
def drawPoison (s : State) (p : Nat) (f : Fmt) (slot : Nat) : Bool :=
  stochFmt f && (inHand s p).any (·.stoch) && (s.grs.ctx.get? slot).any (·.2)

/-- Pixels or coefficients of a format as FP32 (R319, R328), with their flags. -/
def widened (s : State) (f : Fmt) (r : Row) : List Nat × Nat := mapRes (fWiden f) (rowVals s (fmtBytes f) r)

/-- Epsilon of the Company's model in the active Stageplot (R301). -/
def planEps (s : State) : Nat :=
  match s.spl.active.bind fun p => p.own.bind fun c => p.model c.model with
  | some m => m.eps
  | none => 0

/-- The results of an operation of Player `p` (Table PLY-3, R279 to R282, R294 to R320, R451). -/
def opRes (s : State) (p : Nat) (op : VecOp) : OpRes :=
  let ex := isSet s Fld.plyModeExact
  let w (a : Nat) : Nat := devLe s 4 a
  let one (d : Nat) (r : Res) : OpRes := ⟨[(d, leBytes 4 r.v)], r.fl, false, 0⟩
  let row (d : Nat) (r : List Nat × Nat) : OpRes := ⟨[(d, (r.1.map (leBytes 4)).flatten)], r.2, false, 0⟩
  match op with
  | .add a b d => one d (fAdd (w a) (w b))
  | .sub a b d => one d (fSub (w a) (w b))
  | .mul a b d => one d (fMul (w a) (w b))
  | .fma a b c d => one d (fFma (w a) (w b) (w c))
  | .div a b d => one d (fDiv (w a) (w b))
  | .sqrt a d => one d (fSqrt (w a))
  | .rsqrt a d => one d (fRsqrt (w a))
  | .exp a d => one d (fExp (w a))
  | .max a b d => one d (fMax (w a) (w b))
  | .embed i table n scales d =>
    let t := rowVals s 1 (inView ⟨table + embedTok s p i * n, scales.length, 1⟩)
    let rs := (List.zip t scales).map fun x => scaleBy (fWiden .e4m3 x.1).v x.2
    { row d (rs.map (·.v), rs.foldl (fun f r => orFl f r.fl) 0) with used := 1 }
  | .gate g u d => one d (gateOp (w g) (w u))
  | .reduce r d => one d (sumRow ex (rowVals s 4 r))
  | .norm r g d => row d (rmsNorm ex (rowVals s 4 r) (rowVals s 4 (inView g)) (planEps s))
  | .softmax r d => row d (softmaxRow ex (rowVals s 4 r))
  | .matmul r c sc part d =>
    match (if ex then part else none) with
    | some d' =>
      let (v, e, fl) := partialOp (rowVals s 4 r) (rowVals s 1 (inView c)) sc
      ⟨[(d, leBytes 8 (match v with | some v => v.toNat | none => freshAt s 0 % 2 ^ 64)), (d', leBytes 4 (BitVec.ofInt 32 e).toNat)],
        fl, false, 1⟩
    | none => one d (dotOp ex (rowVals s 4 r) (rowVals s 1 (inView c)) sc)
  | .costume valid r aCols b bs out d =>
    one d (if valid then costumeOp ex (rowVals s 4 r) (aCols.map fun c => (rowVals s 1 c.1, c.2)) (rowVals s 1 b) bs (w out)
      else ⟨w out, 0⟩)
  | .rope x y c n fused d =>
    let (a, b) := ropeOp (w x) (w y) (w c) (w n) fused
    row d ([a.v, b.v], orFl a.fl b.fl)
  | .kvAppend slot pos r site elem off step =>
    let rs := (rowVals s 4 r).zipIdx.map fun x => convElem s p .e4m3 x.1 slot.val pos.toNat site.toNat (elem.toNat + x.2) x.2
    ⟨[(kvAddr s slot.val pos.toNat off step, (rs.map fun r => leBytes 1 r.v).flatten)], rs.foldl (fun f r => orFl f r.fl) 0,
      drawPoison s p .e4m3 slot.val, r.len⟩
  | .attend slot pos q key value step sc d =>
    let kv (off : Nat) : List (List Nat) := (List.range (pos.toNat + 1)).map fun j =>
      (widened s .e4m3 (kvRow s slot.val j q.len off step)).1
    row d (attendOp ex (rowVals s 4 q) (kv key) (kv value) sc.toNat)
  | .allreduce parts exps d =>
    one d (if ex then allreduceExact ((List.zip parts exps).map fun x => (BitVec.ofNat 64 (devLe s 8 x.1), (BitVec.ofNat 32 (w x.2)).toInt))
      else sumStd (parts.map w))
  | .share _ _ _ _ => ⟨[], 0, false, 0⟩
  | .send _ _ _ => ⟨[], 0, false, 0⟩
  | .logitsOut _ _ _ => ⟨[], 0, false, 0⟩
  | .conv2d f px wf wt d =>
    let x := widened s f px
    let y := widened s wf (inView wt)
    let r := sumProds ex x.1 y.1
    one d ⟨r.v, orFl (orFl x.2 y.2) r.fl⟩
  | .pool f px g d =>
    let x := widened s f px
    let r := poolOp ex g x.1
    one d ⟨r.v, orFl x.2 r.fl⟩
  | .resize f px c d =>
    let x := widened s f px
    let r := sumProds ex x.1 (rowVals s 4 c)
    one d ⟨r.v, orFl x.2 r.fl⟩
  | .conv f a d => let r := fConv f (w a); ⟨[(d, leBytes (fmtBytes f) r.v)], r.fl, false, 0⟩
  | .widen f a d => one d (fWiden f (devLe s (fmtBytes f) a))
  | .stoch f a slot pos site elem d =>
    let r := convElem s p f (w a) slot.val pos.toNat site.toNat elem.toNat 0
    ⟨[(d, leBytes (fmtBytes f) r.v)], r.fl, drawPoison s p f slot.val, 1⟩
  | .store a d => ⟨[(a, d)], 0, false, 0⟩
  | .load a n d => ⟨[(d, (List.range n).map fun i => readByte s (physOf (a + i)))], 0, false, 0⟩

/-- The addresses an operation touches are bytes of Loft or Meadow. -/
def opAddrOk (s : State) (p : Nat) (op : VecOp) : Bool :=
  (opReads s p op).all (fun x => addrOk s x.1 x.2) && (opRes s p op).out.all fun x => addrOk s x.1 x.2.length

/-- An operation reads a poisoned word, or draws from a poisoned context (R275). -/
def opPoison (s : State) (p : Nat) (op : VecOp) : Bool :=
  (opReads s p op).any (fun x => (List.range x.2).any fun i => poisoned s (physOf (x.1 + i)) 1) || (opRes s p op).poison

/-- The block table entries an operation goes through stay cached (R473). -/
def withTables (s : State) (op : VecOp) : State :=
  match op with
  | .kvAppend slot pos _ _ _ _ _ => (readEntry s slot.val (pos.toNat / 64)).2
  | .attend slot pos _ _ _ _ _ _ => (List.range (pos.toNat / 64 + 1)).foldl (fun s o => (readEntry s slot.val o).2) s
  | _ => s

/-- Other ranks of this member's stage, and its peer of the same rank in the next stage. -/
def stagePeers (s : State) : List Nat :=
  match ownCompany s, s.spl.active.bind Plot.self with
  | some c, some m => (c.members.filter fun x => x.stage = m.stage && x.dev ≠ m.dev).map (·.dev)
  | _, _ => []

def nextPeer (s : State) : List Nat :=
  match ownCompany s, s.spl.active.bind Plot.self with
  | some c, some m => (c.members.filter fun x => x.stage = m.stage + 1 && x.rank = m.rank).map (·.dev)
  | _, _ => []

/-- Bytes go out on the Bulk channel in words of 4 bytes, each packet with 16 bytes that name the beat, its cue and the address they go to
(Table FAB-8; log entry 159). -/
def sendBulk (s : State) (kind : Nat) (devs : List Nat) (poison : Bool) (beat cue a n dst : Nat) : State :=
  let bs := (List.range (ceilDiv n 4 * 4)).map fun i => if i < n then readByte s (physOf (a + i)) else 0
  let ps := (pieces 4080 (bs.length + 1) bs).zipIdx.map fun b =>
    leBytes 16 (place 0 14 beat + place 14 1 (b2n poison) + place 16 16 cue + place 64 64 (dst + 4080 * b.2)) ++ b.1
  devs.foldl (fun s d => ps.foldl (fun s b => sendPkt s kind d 0 (get s Fld.fabEpochEpoch) poison b) s) s

/-- Blocks of which a read over the cache meets poison. -/
def badBlocks (s : State) (slot pos len key value step : Nat) : List Nat :=
  let met (off j : Nat) : Bool := (cells (kvRow s slot j len off step) 1).any fun x => poisoned s (physOf x.1) 1
  (((List.range (pos + 1)).filter fun j => met key j || met value j).map fun j => (readEntry s slot (j / 64)).1 % 2 ^ 22).dedup

/-- The lead learns of them (R506; log entry 169). -/
def tellBad (s : State) (bs : List Nat) : State :=
  match leadDev s with
  | none => s
  | some l =>
    if l = selfDev s then s.onMdw fun m => { m with bad := m.bad ++ bs }
    else bs.foldl (fun s b => tellDevs s [l] outBadBlock b 0) s

/-- What an operation does beside its stores. -/
def opSends (s : State) (p : Nat) (op : VecOp) (poison : Bool) : State :=
  let cue := match inHand s p with | some b => b.cue | none => cueNum s
  match op with
  | .share beat a n d => sendBulk s 0x42 (stagePeers s) poison beat.val cue a n d
  | .send a n d => sendBulk s 0x41 (nextPeer s) poison 0 cue a n d
  | .logitsOut slot pos r =>
    s.onPrm fun m => { m with
      handed := m.handed.filter (fun x => x.1 ≠ (slot.val, pos.toNat)) ++
        [((slot.val, pos.toNat), (rowVals s 4 r).map (BitVec.ofNat 32), poison)] }
  | .attend slot pos q key value step _ _ => if poison then tellBad s (badBlocks s slot.val pos.toNat q.len key value step) else s
  | .costume .. => if poison then redress s else s
  | _ => s

/-- The effect of one operation of Player `p`: its flags, the poison it meets, its stores with that poison, and what it sends. A store of
opaque bytes is tagged when its beat is poisoned. -/
def runOp (s : State) (p : Nat) (op : VecOp) : State :=
  match op with
  | .store a d => playerStore s p a ((inHand s p).any (·.poison)) d
  | _ =>
    let r := opRes s p op
    let po := opPoison s p op
    let t := skipFree (setFlags (meetPoison (withTables s op) p po) p r.fl) r.used
    opSends (r.out.foldl (fun t x => playerStore t p x.1 po x.2) t) p op po

/-- The block an append writes is frozen for the Understudy and not yet copied: the beat waits (R179, R676). -/
def opWaits (s : State) (op : VecOp) : Bool :=
  match op with
  | .kvAppend slot pos _ _ _ _ _ => decide ((readEntry s slot.val (pos.toNat / 64)).1 % 2 ^ 22 ∈ s.und.frozen)
  | _ => false

/-- COMPUTE_WORD (Table PLY-2). -/
def execComputeWord (p : Fin 96) (op : VecOp) (s : State) : Host.Outcome State Fault Refusal :=
  let s := withWindow s p
  if !((frontWord s p).any fun w => decide (0x10 ≤ wordClass w) && decide (wordClass w ≤ 0xEF)) || opWaits s op then .next s
  else if !opAddrOk s p op then .fault .noAddress
  else .next (setSeq (advancePc (runOp s p op) p) p 1)

/-! Bad words and parity (R274, R291, R292). -/

/-- BADOP (R274). -/
def execBadop (p : Fin 96) (s : State) : Host.Outcome State Fault Refusal :=
  .next (let s := withWindow s p
    if decide (seqState s p < 2) && ((playerOf s p).beyond || (frontWord s p).any badWord) then
      endBeat (report (set (advance s) (Fld.plyFaultBadop p) 1) 0x0402 p (fresh s % 2 ^ 32)) p false true
    else s)

/-- IPAR (R291). -/
def execIpar (p : Fin 96) (s : State) : Host.Outcome State Fault Refusal :=
  .next (if seqState s p < 2 then
      setSeq (endBeat (report (set (advance s) (Fld.plyFaultIpar p) 1) 0x0403 p (fresh s % 2 ^ 32)) p true false) p 3
    else s)

/-- The instruction store of Player `p` as the active Stageplot gives it; words it does not list are 0. -/
def loadSheets (s : State) (p : Nat) : State :=
  match s.spl.active with
  | none => s
  | some pl => (pl.cueWords.filter fun w => w.1 / 2 ^ 14 = p).foldl (fun s w => writeLe s (iAddr p (w.1 % 2 ^ 14)) 8 w.2)
      (clearRange s (iAddr p 0) 0x20000)

/-- RELOAD_DONE (R292). -/
def execReloadDone (p : Fin 96) (s : State) : Host.Outcome State Fault Refusal :=
  .next (if seqState s p = 3 then toWordZero (loadSheets s p) p else s)

/-! Registers of a Player (R287 to R290, R293). -/

def seqCtlOff (p : Nat) : Nat := 0x400000 + 0x10000 * p

/-- HALT_REQ (R289): a Player waiting at TAKE halts; a halted one resumes when the bit clears. -/
def execHaltReq (p : Fin 96) (v : Word) (s : State) : Host.Outcome State Fault Refusal :=
  .next (let t := commandWord s 0 (seqCtlOff p) v
    if !reaches s 0 (seqCtlOff p) then t
    else
      let t := set t (Fld.plySeqCtlHaltReq p) (bits v 0 1)
      if bit v 0 && decide (seqState t p = 0) then (if atTake (withWindow t p) p then setSeq (withWindow t p) p 2 else t)
      else if bits v 0 1 = 0 ∧ seqState t p = 2 then setSeq t p (b2n (playerOf t p).beat.isSome)
      else t)

/-- SEQ_REFETCH (R268). -/
def execSeqRefetch (p : Fin 96) (v : Word) (s : State) : Host.Outcome State Fault Refusal :=
  .next (let t := commandWord s 0 (seqCtlOff p) v
    if reaches s 0 (seqCtlOff p) && bit v 1 && !(playerOf t p).beyond then refill t p (pcOf t p) else t)

/-- A word goes to a Player's instruction store at PLY_IADDR.WORD, which then rises, wrapping from 0x3FFF to 0 (R287). For a pair below Lit it raises
demand, and the store completes once the pair is Lit (R857). -/
def idataStore (s : State) (p hi : Nat) : State :=
  let w := get s (Fld.plyIaddrWord p)
  let x := get s (Fld.plyIdataLoV p) + hi * 2 ^ 32
  let s := set (set s (Fld.plyIdataHiV p) hi) (Fld.plyIaddrWord p) (w + 1)
  if domLit s (p / 2) then writeLe s (iAddr p w) 8 x
  else demandDom (onPlayer s p fun y => { y with stores := y.stores ++ [(w, x)] }) (p / 2)

/-- IDATA_STORE (R12, R287, R293, R857). -/
def execIdataStore (fn : Fin 128) (p : Fin 96) (v : Word) (s : State) : Host.Outcome State Fault Refusal :=
  .next (let off := 0x400028 + 0x10000 * p.val
    if fn.val ≠ 0 || !reaches s 0 off then s
    else if sealedMode s then lockedOut s 0 off (Fld.plyIdataHiV p) v
    else idataStore s p.val v.toNat)

end Sys2Proof.Machine
end

