-- ==== Sys2Proof/Machine/Prompter.lean ====
section
/-!
DEFINITION. The Prompter, Script, stops and speculation (spec/08_prompter_sampling.md, spec/09_script_stops_speculation.md):
the commands LOCAL_PASS, CAND_LIST, MERGE_PASS, STEP, SCRIPT_LOAD, SCRIPT_LOAD_DONE and WITHDRAW.
-/
namespace Sys2Proof.Machine

/-! Images (R362 to R369; Tables PRM-5 to PRM-7). -/

/-- Bytes of an image, from its header and the vocabulary of its model. -/
def imageLen (h : List Byte) (vocab : Nat) : Nat :=
  if fieldAt h 0 1 = 3 then 64 + 16 * 36
  else 64 + 8 * fieldAt h 8 2 + 8 * fieldAt h 12 4 + fieldAt h 10 2 * (ceilDiv vocab 512 * 64)

/-- Header rules of Table PRM-5. -/
def headerOk (h : List Byte) : Bool :=
  let k := fieldAt h 0 1
  let ns := fieldAt h 8 2
  let nb := fieldAt h 10 2
  let ne := fieldAt h 12 4
  let st := fieldAt h 16 2
  fieldAt h 1 1 = 1 && decide (fieldAt h 2 2 < 4096) && decide (1 ≤ fieldAt h 4 2) &&
    (h.drop 18).all (fun b => b = 0#8) &&
    (if k = 1 then ns = 1 && nb = 1 && ne = 0 && st = 0
     else if k = 2 then decide (1 ≤ ns) && decide (ns ≤ 16384) && decide (1 ≤ nb) && decide (nb ≤ 1024) &&
       decide (ne ≤ 1048576) && decide (st < ns)
     else k = 3 && ns = 0 && nb = 0 && ne = 0 && st = 0)

/-- One 36-byte entry of a stop set: its sequence, or none when it breaks Table PRM-7. -/
def stopEntry (vocab : Nat) (e : List Byte) : Option (List Nat) :=
  let n := fieldAt e 0 1
  let ts := (List.range 8).map fun i => fieldAt e (4 + 4 * i) 4
  if n ≤ 8 && fieldAt e 1 3 = 0 && (ts.take n).all (fun t => decide (t < vocab)) && (ts.drop n).all (fun t => t = 0) then
    some (ts.take n)
  else none

/-- One edge: token and next state, or none when it breaks Table PRM-6. -/
def edgeOf (vocab ns v : Nat) : Option (Nat × Nat) :=
  let t := v % 2 ^ 24
  let n := v / 2 ^ 32 % 2 ^ 14
  if t < vocab ∧ n < ns ∧ v / 2 ^ 24 % 2 ^ 8 = 0 ∧ v / 2 ^ 46 = 0 then some (t, n) else none

/-- One state: bitmap, default_next and its edges, or none. -/
def stateOf (ns nb ne : Nat) (edges : List (Nat × Nat)) (v : Nat) : Option (Nat × Nat × List (Nat × Nat)) :=
  let bm := v % 2 ^ 10
  let dn := v / 2 ^ 16 % 2 ^ 14
  let f := v / 2 ^ 32 % 2 ^ 20
  let c := v / 2 ^ 52
  let es := (edges.drop f).take c
  if bm < nb ∧ dn < ns ∧ f + c ≤ ne ∧ v / 2 ^ 10 % 2 ^ 6 = 0 ∧ v / 2 ^ 30 % 4 = 0 ∧
      (es.map Prod.fst).Pairwise (· < ·) then some (bm, dn, es)
  else none

/-- The image that `bs` spells for a vocabulary, or none when it breaks a rule (R365, R366). -/
def parseImage (vocab : Nat) (bs : List Byte) : Option Script :=
  let h := bs.take 64
  let base (states : List (Nat × Nat × List (Nat × Nat))) (bitmaps : List Nat) (seqs : List (List Nat)) : Script :=
    ⟨fieldAt h 0 1, fieldAt h 2 2, fieldAt h 4 2, fieldAt h 6 2, fieldAt h 16 2, states, bitmaps, seqs, false, bs.length⟩
  if !headerOk h || bs.length ≠ imageLen h vocab then none
  else if fieldAt h 0 1 = 3 then
    match ((List.range 16).map fun i => (bs.drop (64 + 36 * i)).take 36).mapM (stopEntry vocab) with
    | some seqs => if seqs.all (·.isEmpty) then none else some (base [] [] seqs)
    | none => none
  else
    let ns := fieldAt h 8 2
    let nb := fieldAt h 10 2
    let ne := fieldAt h 12 4
    let bb := ceilDiv vocab 512 * 64
    let eo := 64 + 8 * ns
    let bo := eo + 8 * ne
    match ((List.range ne).map fun i => fieldAt bs (eo + 8 * i) 8).mapM (edgeOf vocab ns) with
    | none => none
    | some edges =>
      match ((List.range ns).map fun i => fieldAt bs (64 + 8 * i) 8).mapM (stateOf ns nb ne edges) with
      | none => none
      | some states =>
        let maps := (List.range nb).map fun i => fieldAt bs (bo + bb * i) bb
        if maps.all fun m => decide (m < 2 ^ vocab) then some (base states maps []) else none

/-- Vocabulary of a model of the Stageplot. -/
def vocabOf (s : State) (model : Nat) : Option Nat := (s.spl.active.bind fun p => p.model model).map (·.vocab)

/-- The image at a device address of Meadow (R364, R365). -/
def readImage (s : State) (a : Nat) : Option Script :=
  if a % 64 ≠ 0 ∨ a < meadowBase ∨ meadowEnd < a + 64 then none
  else
    let h := readBytes s a 64
    match vocabOf s (fieldAt h 6 2) with
    | none => none
    | some v => if meadowEnd < a + imageLen h v then none else parseImage v (readBytes s a (imageLen h v))

/-- The bytes of the image at a device address. -/
def imageBytes (s : State) (a : Nat) : List Byte :=
  match vocabOf s (fieldAt (readBytes s a 64) 6 2) with
  | some v => readBytes s a (imageLen (readBytes s a 64) v)
  | none => []

def isStopSet (x : Script) : Bool := x.kind = 3

/-- PRM_SCRIPT_USE follows the images held. -/
def noteScripts (s : State) : State :=
  let n := (s.prm.scripts.filter fun x => !isStopSet x).length
  if isLead s || atLast s then
    set (set s Fld.prmScriptUseScripts n) Fld.prmScriptUseStopSets (s.prm.scripts.length - n)
  else s

/-- A Call is bound to an image: at a last-stage device by its slot's binding, at the lead by a live Call that has reached
its first sampled position. -/
def imageBound (s : State) (x : Script) : Bool :=
  let ids (c : Card) : Nat := if isStopSet x then cardStopSet c else cardScript c
  (s.prm.binds.any fun b => if isStopSet x then b.2.stop = some x.id else (b.2.script.map Prod.snd) = some x.id) ||
    s.stm.board.any fun c => ids c.card = x.id && c.tenant = x.tenant &&
      (decide (0 < c.gen) || c.listed.any (·.samples))

/-- A withdrawn image is freed when no Call is bound to it (R369). -/
def freeScripts (s : State) : State :=
  noteScripts (s.onPrm fun p => { p with scripts := p.scripts.filter fun x => !x.withdrawn || imageBound s x })

/-- PRM_LOAD_ADDR (R364). -/
def loadAddr (s : State) : Nat := get s Fld.prmLoadAddrLoV + get s Fld.prmLoadAddrHiV * 2 ^ 32

/-- Devices of the last stage. -/
def lastDevs (s : State) : List Nat :=
  match ownCompany s with
  | some c => (c.members.filter fun m => m.stage = c.last).map (·.dev)
  | none => []

/-- Devices of the last stage other than this one, where the lead puts copies (R364). -/
def copyDevs (s : State) : List Nat := (lastDevs s).filter fun d => d ≠ selfDev s

/-- RESULT of the id-use and space checks of an image (R364, R367, R368). -/
def loadVerdict (s : State) (x : Script) : Nat :=
  let same := s.prm.scripts.filter fun y => isStopSet y = isStopSet x
  let store := match s.spl.active with | some p => p.scriptStore | none => 0
  if same.any fun y => y.id = x.id then 5
  else if 1024 ≤ same.length ∨ store < (s.prm.scripts.map (·.bytes)).sum + x.bytes then 4
  else 2

/-- A valid image goes to every other device of the last stage (R364). -/
def sendScript (s : State) : State :=
  let id := fresh s % 2 ^ 32
  (copyDevs s).foldl (fun s d => sendTransfer s d id s.prm.image) ((advance s).onPrm fun p => { p with copies := some (copyDevs s) })

/-- Every copy of the image is in place. -/
def scriptCopied (s : State) : Bool := (copyDevs s).isEmpty || s.prm.copies = some []

/-- SCRIPT_LOAD (R363, R364): the image is read from Meadow, checked and copied to the last stage. Ignored while BUSY and with WITHDRAW set
in the same write. -/
def execScriptLoad (v : Word) (s : State) : Host.Outcome State Fault Refusal :=
  .next (let off := Fld.prmLoadCtlLoad.off
    let t := commandWord s 0 off v
    if reaches s 0 off && bit v 0 && !bit v 1 && decide (get t Fld.prmLoadStatusResult ≠ 1) then
      let img := readImage t (loadAddr t)
      let u := (set t Fld.prmLoadStatusResult 1).onPrm fun p => { p with
        load := img, image := if img.isSome then imageBytes t (loadAddr t) else [], copies := none }
      if img.any (fun x => loadVerdict u x = 2) then sendScript u else u
    else t)

/-- SCRIPT_LOAD_DONE (R364 to R368): the checks in order; a valid image is held, and RESULT reads DONE, once every copy of it is in place.
Copies that an id or space freed since the LOAD allows now go out. -/
def execScriptLoadDone (s : State) : Host.Outcome State Fault Refusal :=
  .next (if get s Fld.prmLoadStatusResult ≠ 1 then s
    else
      let fin (s : State) (r : Nat) : State :=
        (set s Fld.prmLoadStatusResult r).onPrm fun p => { p with load := none, image := [], copies := none }
      match s.prm.load with
      | none => fin s 3
      | some x =>
        if loadVerdict s x ≠ 2 then fin s (loadVerdict s x)
        else if scriptCopied s then noteScripts ((fin s 2).onPrm fun p => { p with scripts := p.scripts ++ [x] })
        else if s.prm.copies.isNone then sendScript s
        else s)

/-- WITHDRAW (R369). -/
def execWithdraw (v : Word) (s : State) : Host.Outcome State Fault Refusal :=
  .next (let off := Fld.prmLoadCtlWithdraw.off
    let t := commandWord s 0 off v
    if reaches s 0 off && bit v 1 && !bit v 0 && decide (get t Fld.prmLoadStatusResult ≠ 1) then
      let k := get t Fld.prmLoadCtlKind
      let hit (x : Script) : Bool := x.id = get t Fld.prmLoadCtlId && ((k = 1 && !isStopSet x) || (k = 2 && isStopSet x))
      if t.prm.scripts.any hit then
        let t := freeScripts ((set t Fld.prmLoadStatusResult 2).onPrm fun p => { p with
          scripts := mapIf hit (fun x => { x with withdrawn := true }) p.scripts })
        tellDevs t (copyDevs t) outWithdraw (b2n (k = 2)) (get t Fld.prmLoadCtlId)
      else set t Fld.prmLoadStatusResult 6
    else t)

/-- The lead's WITHDRAW reaches a copy of the image: it is marked here too, and freed when no Call is bound to it (R369). -/
def copyWithdrawn (s : State) (stop : Bool) (id : Nat) : State :=
  freeScripts (s.onPrm fun p => { p with
    scripts := mapIf (fun x => x.id = id && isStopSet x = stop) (fun x => { x with withdrawn := true }) p.scripts })

/-! Bindings, masks and Script states (R370 to R375). -/

/-- The image a card names, when it may bind (R371). -/
def bindable (s : State) (c : Card) (id : Nat) (stop : Bool) : Option Script :=
  s.prm.scripts.find? fun x => x.id = id && isStopSet x = stop && !x.withdrawn && x.tenant = cardTenant c &&
    x.model = cardModel c

/-- The binding made at a Call's first sampled position (R370, R371). -/
def bindCall (s : State) (c : Card) : Bind :=
  let a := bindable s c (cardScript c) false
  let b := bindable s c (cardStopSet c) true
  ⟨if cardScript c = 0 then none else a.map fun x => (x.kind, x.id), if cardStopSet c = 0 then none else b.map (·.id),
    match a with | some x => x.start | none => 0, [],
    (cardScript c ≠ 0 && a.isNone) || (cardStopSet c ≠ 0 && b.isNone)⟩

/-- A held Script or stop set, withdrawn or not (R403). -/
def heldImage (s : State) (id : Nat) (stop : Bool) : Option Script :=
  s.prm.scripts.find? fun x => x.id = id && isStopSet x = stop

def scriptOfBind (s : State) (b : Bind) : Option Script := b.script.bind fun x => heldImage s x.2 false

/-- State after a token (R372). An ALLOW Script has one state. -/
def scriptStep (x : Script) (st tok : Nat) : Nat :=
  if x.kind ≠ 2 then st
  else
    let e := x.states.getD st (0, 0, [])
    match e.2.2.find? (fun p => p.1 = tok) with
    | some p => p.2
    | none => e.2.1

def scriptSteps (s : State) (b : Bind) (toks : List Nat) : Nat :=
  match scriptOfBind s b with
  | some x => toks.foldl (scriptStep x) b.state
  | none => 0

/-- The token is allowed in a state (R373). -/
def allowed (s : State) (b : Bind) (st tok : Nat) : Bool :=
  match scriptOfBind s b with
  | some x => (x.bitmaps.getD (x.states.getD st (0, 0, [])).1 0).testBit tok
  | none => true

/-- The binding of a slot as a sampling listing meets it: made at the first position, reset after a CONTINUE (R374); after a restore it has the
Script state and the matcher that came with the Call (R402). -/
def bindFor (s : State) (slot : Nat) (q : SampReq) : Bind :=
  let b := if q.first then bindCall s q.card else (s.prm.binds.get? slot).getD (bindCall s q.card)
  let b := match q.resumed with | some (st, m) => { b with state := st, matcher := m } | none => b
  if q.fresh then { b with matcher := [], state := match scriptOfBind s b with | some x => x.start | none => 0 } else b

/-! The local pass (R330, R334 to R338, R351, R381). -/

def prmRank (s : State) : Nat := get s Fld.prmShardGeomRank
def prmRanks (s : State) : Nat := max 1 (get s Fld.prmShardGeomRanks)

/-- Merge rank of a slot (R331). -/
def mergeRank (s : State) (slot : Nat) : Nat := slot % prmRanks s

/-- The device of a rank of the last stage. -/
def rankDev (s : State) (r : Nat) : Option Nat :=
  match ownCompany s with
  | some c => (c.members.find? fun m => m.stage = c.last && m.rank = r).map (·.dev)
  | none => none

/-- Key of R337: value descending, then token id ascending. -/
def candKey (c : Nat × Nat) : Nat := (2 ^ 301 - fVal c.2).toNat * 2 ^ 24 + c.1

/-- Greedy selection is asked for (R323, R341). -/
def isGreedy (c : Card) : Bool := cardTemp c % 2 ^ 31 = 0

/-- One logit masked and scaled, with its flags (R321 to R323). -/
def scaleLogit (c : Card) (ok : Bool) (l : Nat) : Res :=
  let nan := isNan p32 l
  let v := if nan || !ok then nInf else l
  let f := if nan then fNV else 0
  if isGreedy c || v = nInf || v = pInf then ⟨v, f⟩
  else
    let r := fDiv v (cardTemp c)
    ⟨r.v, orFl f r.fl⟩

/-- The local list: entries and flags (R338). -/
def localList (s : State) (b : Bind) (st : Nat) (c : Card) (logits : List Word) : List (Nat × Nat) × Nat :=
  let base := get s Fld.prmShardBaseV
  let vs := (logits.zipIdx.map fun p => (base + p.2, p.1.toNat)).filter fun p => decide (p.1 < get s Fld.prmVocabV)
  let rs := vs.map fun p => (p.1, scaleLogit c (allowed s b st p.1) p.2)
  (((sortBy candKey ((rs.map fun p => (p.1, p.2.v)).filter fun p => p.2 ≠ nInf))).take (cardK c),
    rs.foldl (fun f p => orFl f p.2.fl) 0)

/-- A head's best token of this shard (R381). -/
def localHead (s : State) (logits : List Word) : Option (Nat × Nat) :=
  let base := get s Fld.prmShardBaseV
  let vs := (logits.zipIdx.map fun p => (base + p.2, p.1.toNat)).filter fun p =>
    decide (p.1 < get s Fld.prmVocabV) && !isNan p32 p.2 && p.2 ≠ nInf
  (sortBy candKey vs).head?

/-- PRM_FLAGS (R311, R351). -/
def prmFlags (s : State) (fl : Nat) : State :=
  [(fNV, Fld.prmFlagsNv), (fDZ, Fld.prmFlagsDz), (fOF, Fld.prmFlagsOf), (fUF, Fld.prmFlagsUf), (fIX, Fld.prmFlagsIx),
    (fSAT, Fld.prmFlagsSat)].foldl (fun s x => if fl / x.1 % 2 = 1 then set s x.2 1 else s) s

/-- A list a merge rank discards (R359). -/
def dropList (s : State) : State := report (inc (advance s) Fld.prmEndsListDrop 1) 0x0501 0xFFFF (fresh s % 2 ^ 32)

/-- Largest list the merge of a slot and cue takes. -/
def mergeK (s : State) (slot cue16 : Nat) : Nat :=
  match s.prm.merges.find? (fun m => m.slot = slot && m.req.cue % 65536 = cue16) with
  | some m => cardK m.req.card
  | none => 1024

/-- An id lies in the shard of a rank (R332). -/
def inShard (s : State) (rank id : Nat) : Bool :=
  match s.spl.active with
  | some p => (p.shards[rank]?).any fun x => decide (x.1 ≤ id) && decide (id < x.1 + x.2)
  | none => false

/-- Every part of a list is there (R520). -/
def CandL.whole (x : CandL) : Bool := x.final.any fun n => x.got.length = n + 1

/-- A list with one part more. -/
def CandL.withPart (x : CandL) (part : Nat) (last fail poison : Bool) (ents : List (Nat × Nat)) (heads : List (Option (Nat × Nat))) :
    CandL :=
  { x with
    got := x.got ++ [part], final := if last then some part else x.final, poison := x.poison || poison, fail := x.fail || fail
    ents := x.ents ++ ents, heads := if heads.isEmpty then x.heads else heads }

/-- The store without the list `x`, or with `y` in its place while parts of it are still to come. -/
def keepCand (s : State) (x y : CandL) : State :=
  s.onPrm fun p => { p with lists := p.lists.filter (fun z => z ≠ x) ++ (if y.bad && y.whole then [] else [y]) }

/-- One part of a list arrives at the merge rank; parts may overtake each other (R335, R359, R520, R526). A list to discard goes whole: it
is counted once, and the rest of it is not. -/
def arriveList (s : State) (slot cue16 pos rank part : Nat) (last fail poison : Bool) (ents : List (Nat × Nat))
    (heads : List (Option (Nat × Nat))) : State :=
  let due := mergeRank s slot = prmRank s && atLast s && s.stm.awaits.any fun a => a.2 = slot && a.1 % 65536 = cue16
  let here (x : CandL) : Bool := x.slot = slot && x.cue16 = cue16 && x.pos = pos && x.rank = rank
  let none0 : CandL := ⟨slot, cue16, pos, rank, [], none, false, false, false, [], []⟩
  match s.prm.lists.find? fun x => here x && x.bad && !decide (part ∈ x.got) with
  | some x => wmUpdate (keepCand s x (x.withPart part last fail poison [] [])) 5
  | none =>
    let x := (s.prm.lists.find? fun x => here x && !x.bad).getD none0
    if !due || x.whole || decide (part ∈ x.got) then
      wmUpdate (keepCand (dropList s) none0 ({ none0 with bad := true }.withPart part last fail poison [] [])) 5
    else if decide (prmRanks s ≤ rank) || decide (mergeK s slot cue16 < x.ents.length + ents.length) ||
        ents.any (fun e => !inShard s rank e.1) then
      wmUpdate (keepCand (dropList s) x ({ x with bad := true, ents := [], heads := [] }.withPart part last fail poison [] [])) 5
    else wmUpdate (keepCand s x (x.withPart part last fail poison ents heads)) 5

/-- Bytes of one CAND_LIST part (Table FAB-9); the head guesses follow the entries of the first part (log entry 17). -/
def listBody (slot cue16 pos rank part : Nat) (last fail : Bool) (ents : List (Nat × Nat)) (heads : List (Option (Nat × Nat))) :
    List Byte :=
  let ent (e : Nat × Nat) : List Byte := leBytes 8 (place 0 24 e.1 + place 32 32 e.2)
  leBytes 16 (place 0 14 slot + place 16 16 cue16 + place 32 20 pos + place 64 8 rank + place 72 8 part +
    place 80 1 (b2n last) + place 81 1 (b2n fail) + place 96 16 ents.length) ++
    (ents.map ent).flatten ++ (heads.map fun h => ent (h.getD (0xFFFFFF, 0))).flatten

/-- The list goes to the merge rank in parts of up to 510 entries, head guesses among them (R335, R382, R520). -/
def sendList (s : State) (slot cue16 pos : Nat) (fail poison : Bool) (ents : List (Nat × Nat))
    (heads : List (Option (Nat × Nat))) : State :=
  let r := prmRank s
  if mergeRank s slot = r then arriveList s slot cue16 pos r 0 true fail poison ents heads
  else
    match rankDev s (mergeRank s slot) with
    | none => s
    | some d =>
      let n := 510 - heads.length
      let ps := ents.take n :: pieces 510 (ents.length + 1) (ents.drop n)
      ps.zipIdx.foldl (fun s x => sendPkt s 0x11 d 0 (get s Fld.fabEpochEpoch) poison
        (listBody slot cue16 pos r x.2 (x.2 + 1 = ps.length) fail x.1 (if x.2 = 0 then heads else []))) s

/-- A listing's merge becomes known on its merge rank; lists already held that are too long for it go (R359). -/
def openMerge (s : State) (slot : Nat) (q : SampReq) : State :=
  if mergeRank s slot ≠ prmRank s || s.prm.merges.any (fun m => m.slot = slot && m.req.cue = q.cue) then s
  else
    let long (x : CandL) : Bool := x.slot = slot && x.cue16 = q.cue % 65536 && decide (cardK q.card < x.ents.length)
    let gone := s.prm.lists.filter long
    let s := s.onPrm fun p => { p with merges := p.merges ++ [⟨slot, q, q.base.toNat + 1, []⟩] }
    wmUpdate (gone.foldl (fun s x => keepCand (dropList s) x { x with bad := true, ents := [], heads := [] }) s) 5

/-- Logits of the shard for a position: those a LOGITS_OUT handed over, with their poison tag, else those the command brings (Table PLY-3; log
entry 160). -/
def shardLogits (s : State) (slot pos : Nat) (logits : List Word) (poison : Bool) : List Word × Bool :=
  match s.prm.handed.find? fun h => h.1 = (slot, pos) with
  | some h => (h.2.1, h.2.2 || poison)
  | none => (logits, poison)

/-- LOCAL_PASS (R330, R335, R338, R370, R373, R381, R398): the first one of a listing waits for the step record of the one
before. -/
def execLocalPass (slot : Fin 16384) (pos : BitVec 20) (req : SampReq) (logits : List Word) (heads : List (List Word))
    (poison fail : Bool) (s : State) : Host.Outcome State Fault Refusal :=
  .next (let base := req.base.toNat
    let p := pos.toNat
    if !atLast s || !isSet s Fld.prmCtlEn || decide (p ≤ base) || decide (base + req.depth + 1 < p) ||
        (p = base + 1 && !(awaited s req.cue [slot.val]).isEmpty) then s
    else if !domLit s 57 then demandDom s 57
    else
      let b := if p = base + 1 then bindFor s slot req else (s.prm.binds.get? slot.val).getD (bindFor s slot req)
      let s := if p = base + 1 then
          openMerge (await (s.onPrm fun x => { x with binds := x.binds.put slot b }) req.cue slot) slot req
        else s
      let st := scriptSteps s b (req.guesses.take (p - base - 1))
      let (ls, poison) := shardLogits s slot p logits poison
      let s := s.onPrm fun x => { x with handed := x.handed.filter fun h => h.1 ≠ (slot.val, p) }
      let (ents, fl) := if fail then ([], 0) else localList s b st req.card ls
      let hs := if fail then [] else heads.map (localHead s)
      sendList (prmFlags s fl) slot (req.cue % 65536) p fail poison ents hs)

/-- CAND_LIST (R335, R359, R520). -/
def execCandList (_src : Fin 1024) (slot : Fin 16384) (cue16 : BitVec 16) (pos : BitVec 20) (rank part : Nat)
    (last fail poison : Bool) (ents : List (Nat × Word)) (heads : List (Option (Nat × Word))) (s : State) :
    Host.Outcome State Fault Refusal :=
  .next (arriveList s slot cue16.toNat pos.toNat rank part last fail poison (ents.map fun e => (e.1, e.2.toNat))
    (heads.map fun h => h.map fun e => (e.1, e.2.toNat)))

/-! Step records (R396 to R399). -/

/-- A step record at a device that has the listing pending: the lead's result, the Script state, the matcher, the guesses and
the beats that await it. -/
def takeStep (s : State) (r : StepRec) : State :=
  let slot := stepSlot r
  let mine := s.stm.awaits.find? fun a => a.2 = slot && a.1 % 65536 = stepCue r
  let lead := isLead s && ((callAt s slot).bind fun c => listingOf c (stepCue r) true).isSome
  if stepReserved r || (mine.isNone && !lead) then report (advance s) 0x0502 0xFFFF (fresh s % 2 ^ 32)
  else
    let s := if lead then leadStep s r else s
    match mine with
    | none => s
    | some a =>
      let old := s.prm.guesses.getD slot []
      let toks := old.take (stepAccepted r) ++ (if stepToken r = 0xFFFFFF then [] else [stepToken r])
      let f (b : Bind) : Bind := { b with state := scriptSteps s b toks, matcher := keepLast 7 (b.matcher ++ toks) }
      let s := s.onPrm fun p => { p with
        binds := match p.binds.get? slot with | some b => p.binds.put slot (f b) | none => p.binds
        guesses := p.guesses.setD slot [] (stepGuesses r) }
      stepArrived s ⟨a.1, slot, stepPos r, toks.getLastD (stepToken r), stepStop r ≠ 0 || stepStatus r ≠ 0, stepPoison r, stepFail r⟩

/-- STEP (R194, R397, R399). -/
def execStep (src : Fin 1024) (r : StepRec) (s : State) : Host.Outcome State Fault Refusal :=
  .next (if src.val ∈ memberDevs s then takeStep s r else s)

/-! The merge pass (R339 to R350, R376, R377, R386, R389). -/

/-- What a merge pass selects: the token, its logprob, the diagnostic values and the flags. -/
structure Pick where
  tok : Option Nat
  logprob : Nat
  u : Nat
  total : Nat
  kept : Nat
  cands : Nat
  greedy : Bool
  inf : Bool
  fl : Nat
  deriving DecidableEq, Repr

/-- Probability as Q0.32 (R344). -/
def q032 (w : Nat) : Nat := min (unitsOf p32 w / 2 ^ 117) (2 ^ 32 - 1)

/-- Cumulative sums. -/
def cumSums (qs : List Nat) : List Nat := (qs.foldl (fun (a : List Nat × Nat) q => (a.1 ++ [a.2 + q], a.2 + q)) ([], 0)).1

/-- cut_and_draw (R345): candidate index, kept count and kept total. -/
def cutAndDraw (qs : List Nat) (cut u : Nat) : Nat × Nat × Nat :=
  let cum := cumSums qs
  let kept := if cut = 0 then qs.length else
    match findIdx (fun c => decide (cut ≤ c)) cum with
    | some j => j + 1
    | none => qs.length
  let t := cum.getD (kept - 1) 0
  let x := u * t / 2 ^ 32
  ((findIdx (fun c => decide (x < c)) (cum.take kept)).getD 0, kept, t)

/-- Selection over the candidates in key order, with uniform `u`. -/
def pick (exact : Bool) (c : Card) (u : Nat) (cands : List (Nat × Nat)) : Pick :=
  let n := cands.length
  match cands with
  | [] => ⟨none, 0, 0, 0, 0, 0, false, false, 0⟩
  | (t, v) :: _ =>
    if v = pInf then ⟨some t, 0, 0, 0, 1, n, false, true, 0⟩
    else if isGreedy c then ⟨some t, 0, 0, 0, 1, n, true, false, 0⟩
    else
      let (ps, fl) := softmaxRow exact (cands.map Prod.snd)
      let qs := ps.map q032
      let (i, kept, tot) := cutAndDraw qs (cardTopP c) u
      ⟨some (cands.getD i (0, 0)).1, lnBf16 (qs.getD i 0) tot, u, tot, kept, n, false, false, fl⟩

/-- Index of the lowest stop sequence that a token completes (R377). -/
def stopSeq (s : State) (b : Bind) (sofar : List Nat) : Option Nat :=
  match b.stop.bind fun id => heldImage s id true with
  | some x => findIdx (fun q => !q.isEmpty && keepLast q.length sofar = q) x.seqs
  | none => none

/-- The first stop of Table PRM-8 that applies to an emitted token: reason, index and status. `sofar` are the tokens the
matcher has seen, this one last; `count` is the Call's generated count with it. -/
def stopOf (s : State) (q : SampReq) (b : Bind) (sofar : List Nat) (tok count : Nat) (draft : Bool) : Option (Nat × Nat × Nat) :=
  match (List.range 4).find? fun i => cardStopTok q.card i ≠ 0xFFFFFF && cardStopTok q.card i = tok with
  | some i => some (1, i, stOk)
  | none =>
    match stopSeq s b sofar with
    | some i => some (2, i, stOk)
    | none =>
      if cardMaxNew q.card ≤ count then some (3, 0xFF, stOk)
      else if cardDeadline q.card ≠ 0 && !draft && decide (cardDeadline q.card < judgeSt s (q.cue + 2)) then
        some (4, 0xFF, stDeadlineMissed)
      else if q.budgetStop then some (5, 0xFF, stOk)
      else none

/-- Guesses of the heads at a position: the best over the ranks, up to the first head with none (R381, R382). -/
def headGuesses (s : State) (ls : List CandL) : List Nat :=
  let hs := (List.range (min 4 (get s Fld.prmSpecHeads))).map fun h =>
    ((sortBy candKey (ls.filterMap fun l => (l.heads.getD h none))).head?).map Prod.fst
  (hs.takeWhile Option.isSome).filterMap id

/-- A Line goes to the submitting device (R183, R352). -/
def sendLine (s : State) (q : SampReq) (l : Line) : State :=
  if replaying s then emitRec s 0x20 (cardTenant q.card) l.toNat
  else if q.src.val = selfDev s then arriveLine s q.src q.fn [l] else send s 0x24 q.src (wireBytes l)

/-- A step record goes to the lead, every stage-0 device and every other last-stage device (R396). -/
def sendStep (s : State) (r : StepRec) : State :=
  let front := ((ownMembers s).filter fun m => m.stage = 0).map (·.dev)
  sendAll (takeStep s r) 0x22 ((leadDev s).toList ++ front ++ lastDevs s).dedup (wireBytes r)

/-- The diagnostic record (R361). -/
def diag (s : State) (slot cue pos : Nat) (k : Pick) : State :=
  if isSet s Fld.prmCtlDiagEn ∧ get s Fld.prmDiagSlotSlot = slot then
    let s := set (set s Fld.prmDiagUV k.u) Fld.prmDiagSLoV (k.total % 2 ^ 32)
    let s := set (set s Fld.prmDiagSHiV (k.total / 2 ^ 32)) Fld.prmDiagSelCands k.cands
    let s := set (set s Fld.prmDiagSelKept k.kept) Fld.prmDiagTokenV (k.tok.getD 0xFFFFFF)
    set (set s Fld.prmDiagPosV pos) Fld.prmDiagCueV (cue % 65536)
  else s

/-- A listing's sampling ends: its lists go and its record leaves. -/
def endMerge (s : State) (m : Merge) (r : StepRec) : State :=
  let drafts := (m.emitted.filter Prod.snd).length
  let s := inc (inc s Fld.prmSpecDraftedV m.req.depth) Fld.prmSpecAcceptedV drafts
  let s := s.onPrm fun p => { p with
    merges := p.merges.filter fun x => !(x.slot = m.slot && x.req.cue = m.req.cue)
    lists := p.lists.filter fun x => !(x.slot = m.slot && x.cue16 = m.req.cue % 65536) }
  sendStep (wmUpdate s 5) r

/-- u of a position from the slot's Gorse context, and its poison tag; a free value where no context was sent (R346). -/
def uOf (s : State) (slot pos : Nat) : Nat × Bool × State :=
  match s.grs.ctx.get? slot with
  | some (c, poison) => (gorseU c pos, poison, s)
  | none => (fresh s % 2 ^ 32, false, advance s)

/-- A merge pass that selects: its Line, and the listing's record when it ends there. -/
def mergeSelect (s : State) (m : Merge) (b : Bind) (ls : List CandL) (k : Pick) : State :=
  let q := m.req
  let pos := m.next
  let lpv := cardFlag q.card flagLogprob
  let prior := m.emitted.map Prod.fst
  let acc := (m.emitted.filter Prod.snd).length
  let line (tok stop idx lp : Nat) (fin draft : Bool) : Line :=
    mkLine (cardCallId q.card) pos stop idx tok (if lpv then lp else 0) (q.cue % 65536) fin draft lpv
  match k.tok with
  | none =>
    let s := sendLine (inc s Fld.prmEndsDeadEnd 1) q (line 0xFFFFFF 7 0xFF 0 true false)
    endMerge s m (mkStep m.slot q.cue pos acc 7 [] false false 0xFFFFFF 0xFF stDeadEnd (scriptSteps s b prior))
  | some t =>
    let i := pos - q.base.toNat
    let draft := decide (i ≤ q.depth) && q.guesses[i - 1]? = some t
    let emitted := m.emitted ++ [(t, draft)]
    let stop := stopOf s q b (b.matcher ++ prior ++ [t]) t (q.gen + emitted.length) draft
    let (why, idx, code) := stop.getD (0, 0xFF, stOk)
    let s := sendLine s q (line t why idx k.logprob stop.isSome draft)
    let m := { m with emitted := emitted, next := pos + 1 }
    if stop.isNone && draft then
      s.onPrm fun p => { p with merges := mapIf (fun x => x.slot = m.slot && x.req.cue = q.cue) (fun _ => m) p.merges }
    else
      endMerge s m (mkStep m.slot q.cue pos (acc + b2n draft) why (headGuesses s ls) false false t idx code
        (scriptSteps s b (prior ++ [t])))

/-- The whole lists of a merge's next position (R339). -/
def mergeLists (s : State) (m : Merge) : List CandL :=
  s.prm.lists.filter fun l => l.slot = m.slot && l.cue16 = m.req.cue % 65536 && l.pos = m.next && l.whole && !l.bad

/-- The best top_k entries of the lists (R339, R340). -/
def mergeCands (m : Merge) (ls : List CandL) : List (Nat × Nat) :=
  (sortBy candKey (ls.map (·.ents)).flatten).take (cardK m.req.card)

/-- The pass draws: neither greedy nor led by a positive infinity (R341, R342). -/
def mergeDraws (m : Merge) (cands : List (Nat × Nat)) : Bool :=
  match cands with
  | (_, v) :: _ => v ≠ pInf && !isGreedy m.req.card
  | [] => false

/-- A pass that selects nothing because its Call's image was absent (R371). -/
def mergeAbsent (s : State) (m : Merge) : State :=
  endMerge (diag s m.slot m.req.cue m.next ⟨none, 0, 0, 0, 0, 0, false, false, 0⟩) m
    (mkStep m.slot m.req.cue m.next 0 0 [] false false 0xFFFFFF 0xFF stBadCard 0)

/-- A pass that selects nothing because a list carries a mark (R356, R357). -/
def mergeMarked (s : State) (m : Merge) (poison fail : Bool) : State :=
  let s := if poison then inc s Fld.prmEndsPoison 1 else s
  endMerge (diag s m.slot m.req.cue m.next ⟨none, 0, 0, 0, 0, 0, false, false, 0⟩) m
    (mkStep m.slot m.req.cue m.next (m.emitted.filter Prod.snd).length 0 [] poison fail 0xFFFFFF 0xFF stOk 0)

/-- A pass that selects over the candidates with uniform `u`. -/
def mergePicked (s : State) (m : Merge) (b : Bind) (ls : List CandL) (u : Nat) : State :=
  let k := pick (isSet s Fld.plyModeExact) m.req.card u (mergeCands m ls)
  let s := if k.inf then inc s Fld.prmPicksInfPick 1 else if k.greedy then inc s Fld.prmPicksGreedy 1 else s
  mergeSelect (diag (prmFlags s k.fl) m.slot m.req.cue m.next k) m b ls k

/-- A merge pass whose lists are all there (R331, R339, R352, R356 to R358, R371). -/
def runMerge (s : State) (m : Merge) (b : Bind) (ls : List CandL) (u : Nat) (poison fail : Bool) : State :=
  let s := inc s Fld.prmMergedV 1
  if b.absent then mergeAbsent s m
  else if poison || fail then mergeMarked s m poison fail
  else mergePicked s m b ls u

/-- MERGE_PASS (R331, R339, R352, R356 to R358, R371, R386): it waits until the last part of every rank's list is there. -/
def execMergePass (slot : Fin 16384) (pos : BitVec 20) (s : State) : Host.Outcome State Fault Refusal :=
  .next (match s.prm.merges.find? fun m => m.slot = slot.val && m.next = pos.toNat with
    | none => s
    | some m =>
      let ls := mergeLists s m
      if !isSet s Fld.prmCtlEn || ls.length ≠ prmRanks s then s
      else if !domLit s 58 then demandDom s 58
      else
        let b := (s.prm.binds.get? m.slot).getD (bindFor s m.slot m.req)
        let d := if mergeDraws m (mergeCands m ls) then uOf s m.slot m.next else (0, false, s)
        runMerge d.2.2 m b ls d.1 (ls.any (·.poison) || d.2.1) (ls.any (·.fail)))

end Sys2Proof.Machine
end

