-- ==== Sys2Proof/Machine/Wardrobe.lean ====
section
/-!
DEFINITION. The Wardrobe (spec/11_wardrobe.md): Costume images, versions and residency; the commands COSTUME_LOAD,
COSTUME_LOAD_DONE, PENDING_LOAD_RESUME, REVOKE, RESIDENCY_COPY_DONE and RESIDENT.
-/
namespace Sys2Proof.Machine

/-! Images (R433, R434, R437; Table WDR-1). -/

/-- The targets of an image: bits 0 to 6 of its targets field, in bit order. -/
def imgTargets (h : List Byte) : List Nat := (List.range 7).filter fun i => fieldAt h 10 2 / 2 ^ i % 2 = 1

/-- Bytes of A and of its scales, of B and of its scales for one target. -/
def targetBytes (din dout rank : Nat) : Nat := din * rank + rank + (rank * dout + dout)

/-- Bytes of a member's slice of one target: the output columns of B, or the input rows of A for output and down (R437). -/
def sliceBytes (t din dout rank ranks : Nat) : Nat :=
  if t = 3 ∨ t = 6 then din / ranks * rank + rank + (rank * dout + dout)
  else din * rank + rank + (rank * (dout / ranks) + dout / ranks)

/-- Layers of a stage that an image covers. -/
def stageLayerCount (s : State) (stage first last : Nat) : Nat :=
  match s.spl.active with
  | some p =>
    let (a, n) := p.stageLayers.getD stage (0, 0)
    ((List.range n).filter fun i => decide (first ≤ a + i) && decide (a + i ≤ last)).length
  | none => 0

/-- Tensor ranks of the Company. -/
def ownRanks (s : State) : Nat := match ownCompany s with | some c => max 1 c.ranks | none => 1

/-- Bytes of the slice of an image at a stage of the Company. -/
def stageSlice (s : State) (h : List Byte) (m : ModelInfo) (stage : Nat) : Nat :=
  stageLayerCount s stage (fieldAt h 12 2) (fieldAt h 14 2) *
    ((imgTargets h).map fun t =>
      sliceBytes t (m.dims.getD t (0, 0)).1 (m.dims.getD t (0, 0)).2 (fieldAt h 8 2) (ownRanks s)).sum

/-- Bytes of this member's slice of an image. -/
def ownSlice (s : State) (h : List Byte) (m : ModelInfo) : Nat := ((selfStage s).map (stageSlice s h m)).getD 0

/-- Range and reserved-field rules of Table WDR-1, and the body length (R433). -/
def costumeOk (h : List Byte) (m : ModelInfo) (len : Nat) : Bool :=
  let enc := fieldAt h 1 1 = 1
  let rank := fieldAt h 8 2
  let first := fieldAt h 12 2
  let last := fieldAt h 14 2
  let body := (last + 1 - first) *
    ((imgTargets h).map fun t => targetBytes (m.dims.getD t (0, 0)).1 (m.dims.getD t (0, 0)).2 rank).sum
  fieldAt h 0 1 = 1 && decide (fieldAt h 1 1 < 2) && decide (fieldAt h 2 2 < 2 ^ 12) && decide (fieldAt h 4 2 < 2 ^ 14) &&
    decide (1 ≤ rank) && decide (rank ≤ 128) && decide (fieldAt h 10 2 < 128) && fieldAt h 10 2 ≠ 0 &&
    decide (first ≤ last) && decide (last < m.layers) && fieldAt h 16 4 = body && len = 64 + body &&
    (enc || (fieldAt h 20 12 = 0 && fieldAt h 32 16 = 0)) && fieldAt h 48 16 = 0

/-- The body of an image in clear: an encrypted one is decrypted under its tenant's key, its header with the tag field at 0 as additional
data; Sealed, an image in clear is refused (R434; log entry 4). -/
def clearBody (s : State) (h body : List Byte) : Option (List Byte) :=
  if fieldAt h 1 1 = 1 then
    match tenantKey s (fieldAt h 2 2) with
    | some k => Config.gcmOpen k (fieldAt h 20 12) body (h.take 32 ++ List.replicate 16 0 ++ h.drop 48) (fieldAt h 32 16)
    | none => none
  else if sealedMode s then none else some body

/-- The header of an image whose body is in clear. -/
def clearHead (h : List Byte) : List Byte :=
  h.take 1 ++ [0] ++ (h.drop 2).take 18 ++ List.replicate 28 0 ++ h.drop 48

/-- Columns `a` to `a + n` of `rows` rows of `w` bytes. -/
def columns (bs : List Byte) (rows w a n : Nat) : List Byte :=
  ((List.range rows).map fun i => (bs.drop (i * w + a)).take n).flatten

/-- A member's slice of one target's arrays: the output columns of B, or the input rows of A for output and down (R437). -/
def targetSlice (t din dout rank me ranks : Nat) (bs : List Byte) : List Byte :=
  let a := bs.take (din * rank)
  let b := bs.drop (din * rank + rank)
  let n := dout / ranks
  if t = 3 ∨ t = 6 then (a.drop (din / ranks * me * rank)).take (din / ranks * rank) ++ (bs.drop (din * rank)).take (rank + rank * dout + dout)
  else a ++ (bs.drop (din * rank)).take rank ++ columns b rank dout (n * me) n ++ ((b.drop (rank * dout)).drop (n * me)).take n

/-- This member's slice of an image: the layers of its stage, in the order of the body (R437). -/
def sliceOf (s : State) (img : List Byte) (m : ModelInfo) : List Byte :=
  let first := fieldAt img 12 2
  let rank := fieldAt img 8 2
  let ts := (imgTargets img).map fun t => (t, (m.dims.getD t (0, 0)).1, (m.dims.getD t (0, 0)).2)
  let size (x : Nat × Nat × Nat) : Nat := targetBytes x.2.1 x.2.2 rank
  let layer := (ts.map size).sum
  match s.spl.active, s.spl.active.bind Plot.self with
  | some p, some me =>
    let (a, n) := p.stageLayers.getD me.stage (0, 0)
    let mine := (List.range (fieldAt img 14 2 + 1 - first)).filter fun i => decide (a ≤ first + i) && decide (first + i < a + n)
    (mine.map fun i => (ts.zipIdx.map fun x =>
      targetSlice x.1.1 x.1.2.1 x.1.2.2 rank me.rank (ownRanks s)
        ((img.drop (64 + layer * i + ((ts.take x.2).map size).sum)).take (size x.1))).flatten).flatten
  | _, _ => []

/-- First word of a TRANSFER that carries a Costume (log entry 163). -/
def costumeMark : Nat := 0x31524457

/-- Number of the version a load of (tenant, id) installs: the one after the newest, which is current or becomes so at the next boundary
(R436, R450). -/
def nextVer (s : State) (t id : Nat) : Nat :=
  let vs := versOf s t id
  match (vs.filter fun v => v.current || v.due).getLast?.or vs.getLast? with
  | some v => if v.ver = 255 then 1 else v.ver + 1
  | none => 1

/-- The version an image installs, or none for a bad image. -/
def parseCostume (s : State) (img : List Byte) : Option Ver :=
  let h := img.take 64
  match s.spl.active.bind fun p => p.model (fieldAt h 6 2) with
  | none => none
  | some m =>
    match (if costumeOk h m img.length then clearBody s h (img.drop 64) else none) with
    | some body =>
      let t := fieldAt h 2 2
      let id := fieldAt h 4 2
      some ⟨t, id, nextVer s t id, Config.sha384 img, m.id, false, true, ceilDiv (ownSlice s h m) 65536, false, false, [],
        0, clearHead h ++ body, [], []⟩
    | none => none

/-! The index, the pool and the pages (R438, R439, R442). -/

/-- Calls that reference a version (R445). -/
def verRefs (s : State) (v : Ver) : Nat :=
  (s.stm.board.filter fun c => c.tenant = v.tenant && c.costume = some (v.id, v.ver)).length

def costumePages (s : State) : Nat := 96 * get s Fld.plyLoftPartC

def usedPages (s : State) : Nat := ((s.wdr.vers.filter (·.resident)).map (·.pages)).sum

/-- WDR_USE follows the versions held. -/
def noteWdr (s : State) : State :=
  let s := set s Fld.wdrUse0Index s.wdr.vers.length
  let s := set s Fld.wdrUse0Resident (s.wdr.vers.filter (·.resident)).length
  set s Fld.wdrUse1Pages (usedPages s)

/-- Pages of a version's slice at a stage of the Company. -/
def pagesAt (s : State) (stage : Nat) (v : Ver) : Nat :=
  match s.spl.active.bind fun p => p.model v.model with
  | some m => ceilDiv (stageSlice s (v.image.take 64) m stage) 65536
  | none => v.pages

/-- Room in the index and in every member's pool for a version, and its number free (R438, R450). The pool is counted in the pages of the
slices. -/
def verRoom (s : State) (v : Ver) : Bool :=
  let pool := match s.spl.active with | some p => p.costumePool | none => 0
  let stages := match ownCompany s with | some c => (c.members.map Member.stage).dedup | none => []
  let fits (need : Ver → Nat) : Bool := decide (((s.wdr.vers.map need).sum + need v) * 65536 ≤ pool)
  decide (s.wdr.vers.length < 16384) && fits Ver.pages && stages.all (fun st => fits (pagesAt s st)) &&
    !(s.wdr.vers.any fun x => x.tenant = v.tenant && x.id = v.id && x.ver = v.ver)

/-- First device address of the Costume pool, after the KV pool (Table MDW-1; log entry 162). -/
def costumeBase (s : State) : Nat :=
  match s.spl.active with
  | some p => ceilDiv (p.poolBase + p.poolBlocks * p.blockBytes) (2 ^ 20) * 2 ^ 20
  | none => meadowBase

def poolPageAddr (s : State) (k : Nat) : Nat := costumeBase s + k * 65536

/-- The `n` lowest of `all` pages that no version holds. -/
def lowPages (all n : Nat) (held : List Nat) : List Nat := ((List.range all).filter fun k => decide (k ∉ held)).take n

/-- Bytes over pages of 64 KiB. -/
def putPages (s : State) (addr : Nat → Nat) (ks : List Nat) (bs : List Byte) : State :=
  ks.zipIdx.foldl (fun s k => writeBytes s (addr k.1) ((bs.drop (65536 * k.2)).take 65536)) s

/-- A version is held on this device: its slice goes to pages of the Meadow Costume pool (R437, R438). -/
def holdVer (s : State) (v : Ver) : State :=
  let pool := match s.spl.active with | some p => p.costumePool / 65536 | none => 0
  let ks := lowPages pool v.pages (s.wdr.vers.map (·.pool)).flatten
  let bs := match s.spl.active.bind fun p => p.model v.model with
    | some m => sliceOf s v.image m
    | none => []
  noteWdr ((putPages s (poolPageAddr s) ks bs).onWdr fun w => { w with vers := w.vers ++ [{ v with pool := ks }] })

/-- A load goes out to the other members, each of which keeps its slice: the version, the digest and the image (R432; log entry 163). -/
def sendVer (s : State) (v : Ver) : State :=
  let id := fresh s % 2 ^ 32
  let bs := leBytes 4 costumeMark ++ leBytes 4 v.ver ++ leBytes 48 v.digest ++ v.image
  (otherMembers s).foldl (fun s d => sendTransfer s d id bs) (advance s)

/-- The slices of a load go out, and DONE waits for them. -/
def sendLoad (s : State) (v : Ver) : State := (sendVer s v).onWdr fun w => { w with copies := some (otherMembers s) }

/-- Every slice of the load is in place. -/
def slicesHeld (s : State) : Bool := (otherMembers s).isEmpty || s.wdr.copies = some []

/-- The version of a load is installed at the lead. -/
def installVer (s : State) (v : Ver) : State :=
  set ((holdVer s v).onWdr fun w => { w with load := none, copies := none }) Fld.wdrLoadStatusResult 2

/-- With room for it, a load installs once every slice is in place; slices that room freed since now go out. -/
def installLoad (s : State) (v : Ver) : State :=
  if slicesHeld s then installVer s v else if s.wdr.copies.isNone then sendLoad s v else s

/-- Least recently listed resident version that may be evicted: none of its Calls listed in the cue being composed or the two
before it (R442). -/
def evictable (s : State) : Option Ver :=
  (sortBy (·.lastListed) (s.wdr.vers.filter fun v => v.resident && decide (v.lastListed + 2 < nextCue s))).head?

def sameVer (a b : Ver) : Bool := a.tenant = b.tenant && a.id = b.id && a.ver = b.ver

/-- A version's tenant and id, and its number, as the model's own messages carry them. -/
def verKey (v : Ver) : Nat := place 0 12 v.tenant + place 12 14 v.id
def keyIs (value ver : Nat) (v : Ver) : Bool := verKey v = value && v.ver = ver

/-- A member's residency reaches the lead (R441), and its end. -/
def leadResident (s : State) (src tenant id ver : Nat) : State :=
  s.onWdr fun w => { w with
    vers := mapIf (fun x => x.tenant = tenant && x.id = id && x.ver = ver && !decide (src ∈ x.residents))
      (fun x => { x with residents := x.residents ++ [src] }) w.vers }

def leadEvicted (s : State) (src : Nat) (value ver : Nat) : State :=
  s.onWdr fun w => { w with
    vers := mapIf (keyIs value ver) (fun x => { x with residents := x.residents.filter fun d => d ≠ src }) w.vers }

/-- A version leaves the Loft of this device; the lead is told (R440, R442; log entry 163). -/
def undress (s : State) (v : Ver) : State :=
  let s := s.onWdr fun w => { w with
    vers := mapIf (sameVer v) (fun x => { x with
      resident := false, loft := [], residents := x.residents.filter fun d => d ≠ selfDev s }) w.vers }
  match leadDev s with
  | some l => tellDevs s [l] outEvict (verKey v) v.ver
  | none => s

/-- Evict until `need` pages and a place are free. -/
def makePages (need : Nat) : Nat → State → State
  | 0, s => s
  | fuel + 1, s =>
    if usedPages s + need ≤ costumePages s ∧ (s.wdr.vers.filter (·.resident)).length < 512 then s
    else
      match evictable s with
      | none => s
      | some v => makePages need fuel (undress s v)

/-- A run of bytes copied with its poison tags (R833). -/
def copyRun (s : State) (src dst n : Nat) : State :=
  (List.range n).foldl (fun t i => if poisoned s (src + i) 1 then setPoison t (dst + i) else t) (writeBytes s dst (readBytes s src n))

/-- The slice of a version goes from its pool pages to free Costume pages (R439, R441). -/
def dress (s : State) (v : Ver) : State :=
  let ks := lowPages (costumePages s) v.pages ((s.wdr.vers.filter (·.resident)).map (·.loft)).flatten
  let s := (List.zip v.pool ks).foldl (fun s k => copyRun s (poolPageAddr s k.1) (costumePageAddr s k.2) 65536) s
  s.onWdr fun w => { w with vers := mapIf (sameVer v) (fun x => { x with resident := true, copying := false, loft := ks }) w.vers }

/-- Versions go from this device; at the lead, the other members are told (R449, R459; log entry 163). -/
def dropVers (s : State) (p : Ver → Bool) : State :=
  let gone := s.wdr.vers.filter p
  let s := s.onWdr fun w => { w with vers := w.vers.filter fun v => !p v }
  gone.foldl (fun s v => tellDevs s (otherMembers s) outDrop (verKey v) v.ver) s

/-! At a cue boundary (R444, R449, R458, R459). -/

/-- Versions that were not current and had no Call before this boundary go; loaded ones become current; revocations end
Calls. -/
def wardrobeBoundary (s : State) : State :=
  if !isLead s then s
  else
  let s := dropVers s fun v => !(v.current || v.due || decide (0 < verRefs s v))
  let dues := s.wdr.vers.filter (·.due)
  let s := dues.foldl (fun s v => s.onWdr fun w => { w with
    vers := w.vers.map fun x =>
      if sameVer v x then { x with current := true, due := false }
      else if x.tenant = v.tenant ∧ x.id = v.id then { x with current := false } else x }) s
  let s := s.wdr.revokes.foldl (fun s r =>
    let (t, id, all) := r
    let hit (c : Call) : Bool := c.tenant = t && c.ending.isNone && s.wdr.vers.any fun v =>
      v.tenant = t && v.id = id && c.costume = some (id, v.ver) && (all || !v.current)
    let s := (s.stm.board.filter hit).foldl (fun s c => endCall s c.slot stRevoked) s
    if all then dropVers s (fun v => v.tenant = t && v.id = id) else s) s
  noteWdr (s.onWdr fun w => { w with revokes := [] })

/-! The commands. -/

/-- The register word starts a command of WDR_LOAD_CTL: not while BUSY or PENDING (R463). -/
def wdrIdle (s : State) : Bool := decide (get s Fld.wdrLoadStatusResult ∉ [1, 7])

/-- No other tenant holds the id of a load (R435). -/
def idFree (s : State) (v : Ver) : Bool := !(s.wdr.vers.any fun x => x.id = v.id && x.tenant ≠ v.tenant)

/-- COSTUME_LOAD (R431, R432, R436): the image comes from the host; VERSION reads the number it will install under. With room for it, its
slices go out. -/
def execCostumeLoad (v : Word) (img : List Byte) (s : State) : Host.Outcome State Fault Refusal :=
  .next (let off := Fld.wdrLoadCtlLoad.off
    let t := commandWord s 0 off v
    if reaches s 0 off && bit v 0 && wdrIdle s then
      let x := parseCostume t img
      let t := set t Fld.wdrLoadStatusResult 1
      let t := match x with | some x => set t Fld.wdrLoadStatusVersion x.ver | none => t
      let t := (demandDom t 59).onWdr fun w => { w with load := x, copies := none }
      match x with
      | some x => if idFree t x && verRoom t x then sendLoad t x else t
      | none => t
    else t)

/-- COSTUME_LOAD_DONE (R432, R433, R435, R438, R450, R456, R457): DONE only once every slice is in place. -/
def execCostumeLoadDone (s : State) : Host.Outcome State Fault Refusal :=
  .next (if get s Fld.wdrLoadStatusResult ≠ 1 then s
    else if !domLit s 59 then demandDom s 59
    else
      match s.wdr.load with
      | none => set s Fld.wdrLoadStatusResult 3
      | some v =>
        if !idFree s v then (set s Fld.wdrLoadStatusResult 4).onWdr fun w => { w with load := none, copies := none }
        else if verRoom s v then installLoad s v
        else
          let s := set s Fld.wdrLoadStatusResult 7
          deviceNotice s (mkNotice 0xFFFFFFFF 0 6 stPending 0 (v.id + place 16 12 v.tenant + place 32 8 v.ver) noPos 0 0
            (cueNum s)))

/-- PENDING_LOAD_RESUME (R456). -/
def execPendingLoadResume (s : State) : Host.Outcome State Fault Refusal :=
  .next (match s.wdr.load with
    | some v =>
      if get s Fld.wdrLoadStatusResult = 7 ∧ verRoom s v = true then
        (if domLit s 59 then installLoad s v else demandDom s 59)
      else s
    | none => s)

/-- REVOKE (R458, R459): it acts at the next cue boundary. -/
def execRevoke (v : Word) (s : State) : Host.Outcome State Fault Refusal :=
  .next (let off := Fld.wdrLoadCtlRevoke.off
    let t := commandWord s 0 off v
    if reaches s 0 off && bit v 1 && wdrIdle s then
      let ten := get t Fld.wdrLoadCtlTenant
      let id := get t Fld.wdrLoadCtlId
      if (versOf t ten id).isEmpty then set t Fld.wdrLoadStatusResult 5
      else
        (set t Fld.wdrLoadStatusResult 2).onWdr fun w => { w with
          revokes := w.revokes ++ [(ten, id, isSet t Fld.wdrLoadCtlRevokeAll)] }
    else t)

/-- RESIDENCY_COPY_DONE (R439, R441 to R443): with pages free, if need be after eviction, the version is resident and the
lead learns it; else it waits. Copies pause while the brake or a trip throttles (R621, R625). -/
def execResidencyCopyDone (tenant id ver : Nat) (s : State) : Host.Outcome State Fault Refusal :=
  .next (match s.wdr.vers.find? fun v => v.tenant = tenant && v.id = id && v.ver = ver && v.copying with
    | none => s
    | some v =>
      if s.lgt.throttle then s
      else if !domLit s 59 then demandDom s 59
      else
      let s := makePages v.pages s.wdr.vers.length s
      if usedPages s + v.pages ≤ costumePages s ∧ (s.wdr.vers.filter (·.resident)).length < 512 then
        toLead (noteWdr (dress s v)) 7 0xFFFF (id + ver * 2 ^ 16) fun s => leadResident s (selfDev s) tenant id ver
      else noteWdr s)

/-- A TRANSFER that brings a load or a restored version: this member keeps its slice and tells the lead (R432; log entry 163). -/
def gotCostume (s : State) (src : Nat) (bs : List Byte) : State :=
  let img := bs.drop 56
  match s.spl.active.bind fun p => p.model (fieldAt img 6 2) with
  | none => s
  | some m =>
    let v : Ver := ⟨fieldAt img 2 2, fieldAt img 4 2, fieldAt bs 4 4, fieldAt bs 8 48, m.id, false, false,
      ceilDiv (ownSlice s (img.take 64) m) 65536, false, false, [], 0, img, [], []⟩
    if fromLead s src && costumeOk (img.take 64) m img.length then
      let s := if s.wdr.vers.any (sameVer v) then s else holdVer s v
      tellDevs s [src] outHeld 1 v.id
    else s

/-- The lead's requests about a version reach a member: it goes, it is to become resident, or a cue lists it (R441, R442, R449). -/
def verTold (s : State) (outcome value detail : Nat) : State :=
  let p := keyIs value (detail % 256)
  if outcome = outDrop then noteWdr (s.onWdr fun w => { w with vers := w.vers.filter fun v => !p v })
  else if outcome = outWant then
    s.onWdr fun w => { w with vers := mapIf (fun v => p v && !v.resident) (fun v => { v with copying := true }) w.vers }
  else s.onWdr fun w => { w with vers := mapIf p (fun v => { v with lastListed := detail / 256 }) w.vers }

/-- A copy of a load is in place (R364, R432): the last one completes it. -/
def copyHeld (s : State) (src value : Nat) : State :=
  let f (c : Option (List Nat)) : Option (List Nat) := c.map fun ds => ds.filter fun d => d ≠ src
  if value = 0 then s.onPrm fun p => { p with copies := f p.copies } else s.onWdr fun w => { w with copies := f w.copies }

/-- RESIDENT (R441). -/
def execResident (src : Fin 1024) (company : Nat) (tenant id ver : Nat) (s : State) : Host.Outcome State Fault Refusal :=
  .next (if isLead s && decide (company = ownId s) && decide (src.val ∈ memberDevs s) then
      leadResident s src.val tenant id ver else s)

end Sys2Proof.Machine
end

