-- ==== Sys2Proof/Machine/Understudy.lean ====
section
/-!
DEFINITION. The Understudy (spec/17_understudy.md): snapshots, the copy, the manifest, drains and restores; the commands
SNAP, CUT_ACK, COPIED, NO_SPACE, COPY_FAULT, MANIFEST_ACK, SNAPSHOT_FORCE, SNAPSHOT_COPY_DONE, COPY_BEFORE_WRITE,
SNAPSHOT_TIMEOUT, DRAIN_DONE, WCOPY_REFRESH_DONE, UND_HOST_GO, REPOINT, SHARD_READ, SHARD_DATA, RESTORE_FILL_DONE and
TRANSFER.
-/
namespace Sys2Proof.Machine

/-! Call records (R673, R674, R688; Table UND-5). -/

/-- State code of a record. -/
def phaseCode (p : Phase) : Nat :=
  match p with
  | .prefilling => 0
  | .decoding => 1
  | .parked => 2
  | .held => 3
  | .paused => 4
  | .ended => 4

/-- Host-supplied tokens not yet prefilled, behind the committed length. -/
def pendToks (c : Call) : List Nat :=
  if c.phase = .prefilling then (c.toks.drop c.kvLen).take (c.start + c.pend.length - c.kvLen) else []

/-- Pad with zeros to a multiple of `n` bytes. -/
def padTo (n : Nat) (bs : List Byte) : List Byte := bs ++ List.replicate ((n - bs.length % n) % n) 0

/-- A Call record. -/
def recordBytes (c : Call) : List Byte :=
  let ps := pendToks c
  padTo 64 (wireBytes c.card ++ wireBytes c.ctx ++ leBytes 2 c.src ++ leBytes 1 c.fn ++ leBytes 1 (phaseCode c.phase) ++
    leBytes 4 c.kvLen ++ leBytes 4 (if c.phase = .prefilling then 0xFFFFFF else c.tok) ++ leBytes 4 c.gen ++
    leBytes 4 ps.length ++ leBytes 1 (match c.costume with | some (_, v) => v | none => 0) ++
    leBytes 1 c.matcher.length ++ leBytes 2 c.scriptState ++
    ((List.range 7).map fun i => leBytes 4 (c.matcher.getD i 0)).flatten ++ leBytes 4 c.period ++
    leBytes 4 c.blocks.length ++ leBytes 4 (c.blocks.length + c.resv) ++ List.replicate 32 0 ++
    (c.blocks.map fun b => leBytes 4 (mkEntry b.1 b.2)).flatten ++ (ps.map (leBytes 4)).flatten)

/-- A record as read back. -/
structure Rec where
  card : Card
  ctx : GCtx
  src : Nat
  fn : Nat
  state : Nat
  kvLen : Nat
  tok : Nat
  gen : Nat
  ver : Nat
  script : Nat
  matcher : List Nat
  period : Nat
  res : Nat
  blocks : List Nat
  pend : List Nat
  /-- its bytes -/
  raw : List Byte
  deriving DecidableEq, Repr

/-- Bytes of a record from its first 256. -/
def recLen (bs : List Byte) : Nat := ceilDiv (256 + 4 * fieldAt bs 0xD8 4 + 4 * fieldAt bs 0xB0 4) 64 * 64

def parseRec (bs : List Byte) : Rec where
  card := BitVec.ofNat 1024 (fieldAt bs 0 128)
  ctx := BitVec.ofNat 256 (fieldAt bs 0x80 32)
  src := fieldAt bs 0xA0 2 % 1024
  fn := fieldAt bs 0xA2 1 % 128
  state := fieldAt bs 0xA3 1
  kvLen := fieldAt bs 0xA4 4
  tok := fieldAt bs 0xA8 4
  gen := fieldAt bs 0xAC 4
  ver := fieldAt bs 0xB4 1
  script := fieldAt bs 0xB6 2
  matcher := (List.range (min 7 (fieldAt bs 0xB5 1))).map fun i => fieldAt bs (0xB8 + 4 * i) 4
  period := fieldAt bs 0xD4 4
  res := fieldAt bs 0xDC 4
  blocks := (List.range (fieldAt bs 0xD8 4)).map fun i => fieldAt bs (0x100 + 4 * i) 4 % 2 ^ 22
  pend := (List.range (fieldAt bs 0xB0 4)).map fun i => fieldAt bs (0x100 + 4 * fieldAt bs 0xD8 4 + 4 * i) 4
  raw := bs.take (recLen bs)

/-- The records of a CALLS shard. -/
def parseRecs : Nat → List Byte → List Rec
  | 0, _ => []
  | n + 1, bs => if bs.length < 256 then [] else parseRec bs :: parseRecs n (bs.drop (recLen bs))

/-- Resume position of a record (R689). -/
def Rec.resume (r : Rec) : Nat := if r.state = 0 then r.kvLen + r.pend.length else r.kvLen + 1

/-! The view and its shards (R672, R675, R680, R686, R687). -/

/-- Calls of a cut (R673). -/
def cutSet (s : State) : List Call := sortBy (·.slot) (s.stm.board.filter fun c => c.phase ≠ .ended && c.ending.isNone)

/-- Block numbers of the valid entries of this device's tables. -/
def tableBlocks (s : State) : List Nat :=
  let base := match s.spl.active with | some p => p.tableBase | none => 0
  (s.mdw.mem.filter fun c => decide (base ≤ c.1) && decide (c.1 < base + 2 ^ 30) && c.1 % 4 = 3 && decide (128 ≤ c.2.toNat)).map
    fun c => readLe s (c.1 - 3) 4 % 2 ^ 22

/-- Slots whose table has an entry. -/
def tablePages (s : State) : List Nat :=
  let base := match s.spl.active with | some p => p.tableBase | none => 0
  ((s.mdw.mem.filter fun c => decide (base ≤ c.1) && decide (c.1 < base + 2 ^ 30)).map fun c => (c.1 - base) / 65536).dedup

/-- Blocks that the frozen tables name. -/
def frozenBlocks (s : State) : List Nat :=
  sortBy id (if isLead s then (((cutSet s).map fun c => c.blocks.map Prod.fst).flatten.filter fun b => decide (b < noBlock)).dedup
    else (tableBlocks s).dedup)

/-- Versions bound by the Calls of the cut; a member other than the lead holds those resident on it. -/
def boundVers (s : State) : List Ver :=
  s.wdr.vers.filter fun v => if isLead s then decide (0 < verRefs s v) else v.resident

/-- Record of a version in a COSTUME shard: the lead's with the full image, another member's with its slice (R460, R687; log entry 105). -/
def costumeRec (s : State) (v : Ver) : List Byte :=
  leBytes 2 v.tenant ++ leBytes 2 v.id ++ leBytes 1 v.ver ++ leBytes 3 0 ++ leBytes 8 v.digest ++
    (if isLead s then v.image
     else match s.spl.active.bind fun p => p.model v.model with | some m => sliceOf s v.image m | none => [])

/-- The shard bodies of the view as it stands at the cut: (kind, body). -/
def viewBodies (s : State) : List (Nat × List Byte) :=
  let bs := frozenBlocks s
  let n := blockBytes s
  (if isLead s then [(1, ((cutSet s).map recordBytes).flatten)] else []) ++
    [(2, (bs.map (leBytes 4)).flatten ++ (bs.map fun b => readBytes s (blockAddr s b) n).flatten)] ++
    (if (boundVers s).isEmpty then [] else [(3, ((boundVers s).map (costumeRec s)).flatten)])

/-- First layer and number of layers of a stage of the own Company, and first key-value head and number of heads of a rank. -/
def ownSlices (s : State) (stage rank : Nat) : (Nat × Nat) × (Nat × Nat) :=
  let kv := match ownCompany s with
    | some c => (match s.spl.active.bind fun p => p.model c.model with | some m => m.kvHeads / ownRanks s | none => 0)
    | none => 0
  (match s.spl.active with | some p => p.stageLayers.getD stage (0, 0) | none => (0, 0), (rank * kv, kv))

/-- Shard entries of this member (Table UND-4). -/
def ownShards (s : State) : List Shard :=
  let me := s.spl.active.bind Plot.self
  let st := match me with | some m => m.stage | none => 0xFF
  let rk := match me with | some m => m.rank | none => 0xFF
  let (ls, hs) := ownSlices s st rk
  s.und.bodies.map fun b =>
    ⟨b.1, if b.1 = 1 then 0xFF else st, if b.1 = 1 then 0xFF else rk, selfDev s, get s Fld.undBuddyBuddy, b.2.length,
      Config.sha384 b.2, if b.1 = 1 then (0, 0) else (ls.1, ls.1 + ls.2 - 1), if b.1 = 1 then (0, 0) else hs⟩

/-- A shard entry's bytes (Table UND-4). -/
def shardBytes (x : Shard) : List Byte :=
  leBytes 1 x.kind ++ leBytes 1 x.stage ++ leBytes 1 x.rank ++ leBytes 1 0 ++ leBytes 2 x.layers.1 ++ leBytes 2 x.layers.2 ++
    leBytes 1 x.heads.1 ++ leBytes 1 x.heads.2 ++ leBytes 2 x.source ++ leBytes 2 x.holder ++ List.replicate 10 0 ++
    leBytes 8 x.length ++ List.replicate 8 255 ++ beBytes 48 x.digest ++ List.replicate 8 0

def parseShard (bs : List Byte) : Shard where
  kind := fieldAt bs 0 1
  stage := fieldAt bs 1 1
  rank := fieldAt bs 2 1
  source := fieldAt bs 10 2 % 1024
  holder := fieldAt bs 12 2 % 1024
  length := fieldAt bs 0x18 8
  digest := ofLeBytes (((bs.drop 0x28).take 48).reverse)
  layers := (fieldAt bs 4 2, fieldAt bs 6 2)
  heads := (fieldAt bs 8 1, fieldAt bs 9 1)

/-! Manifests (R685; Table UND-3). -/

/-- Build and sign the manifest of the snapshot under way. -/
def buildManifest (s : State) : Manifest :=
  let co := ownCompany s
  let model := match co with | some c => c.model | none => 0
  let sh := s.und.shards
  let body := leBytes 4 0x54464E4D ++ leBytes 1 1 ++ leBytes 1 (get s Fld.plyModeExact) ++ leBytes 2 (ownId s) ++
    leBytes 8 s.und.cutCue ++ leBytes 8 (launchSt s s.und.cutCue) ++ leBytes 4 (get s Fld.splActiveIdV) ++
    leBytes 4 s.und.snapSeq ++ leBytes 2 model ++ leBytes 1 (match co with | some c => c.last + 1 | none => 1) ++
    leBytes 1 (ownRanks s) ++ leBytes 2 s.und.triggers ++ leBytes 2 (selfDev s) ++ leBytes 4 sh.length ++
    leBytes 4 s.und.cutCalls.length ++ leBytes 4 (blockBytes s) ++ List.replicate 76 0 ++
    (sh.map shardBytes).flatten
  let sig := beBytes 96 (Config.ecdsaSign Config.uniqueSecret (Config.sha384 body))
  ⟨ownId s, s.und.cutCue, s.und.snapSeq, model, sh, body ++ sig⟩

/-- The manifest that `bs` begins with, when it is whole. -/
def parseManifest (bs : List Byte) : Option Manifest :=
  let n := fieldAt bs 0x28 4
  let len := 128 + 96 * n + 96
  if fieldAt bs 0 4 = 0x54464E4D ∧ fieldAt bs 4 1 = 1 ∧ 1 ≤ n ∧ n ≤ 1024 ∧ len ≤ bs.length then
    some ⟨fieldAt bs 6 2, fieldAt bs 8 6, fieldAt bs 0x1C 4, fieldAt bs 0x20 2,
      (List.range n).map fun i => parseShard ((bs.drop (128 + 96 * i)).take 96), bs.take len⟩
  else none

/-- The signature of a manifest verifies under its signer's identity key (R685, R697). -/
def manifestSigned (m : Manifest) : Bool :=
  let n := m.raw.length - 96
  Config.ecdsaVerify (Config.deviceKey (fieldAt m.raw 0x26 2 % 1024)) (Config.sha384 (m.raw.take n))
    (ofLeBytes ((m.raw.drop n).reverse))

/-- Each holder keeps the two latest manifests of a Company (R685). -/
def keepManifest (s : State) (m : Manifest) : State :=
  s.onUnd fun u => { u with
    manifests := (u.manifests.filter fun x => x.company ≠ m.company) ++
      keepLast 2 ((u.manifests.filter fun x => x.company = m.company && x.snapSeq ≠ m.snapSeq) ++ [m]) }

/-! Drains (R683, R684). -/

def ckptKey (s : State) : Nat := (houseKey s "CHECKPOINT" 256).getD 0

/-- A shard as it leaves the die: IV, ciphertext and tag (R96). -/
def sealShard (s : State) (bs : List Byte) : List Byte × State :=
  let (c, s) := takeIv s
  let iv := ivOf s c
  let (ct, tag) := Config.gcmSeal (ckptKey s) iv bs []
  (leBytes 12 iv ++ ct ++ leBytes 16 tag, s)

/-- Bytes of a drain: the manifest, then each shard encrypted. -/
def drainBytes (s : State) (m : Manifest) : List Byte × State :=
  s.und.bodies.foldl (fun (a : List Byte × State) b =>
    let (x, s) := sealShard a.2 b.2
    (a.1 ++ x, s)) (m.raw, s)

/-- After a complete snapshot a drain may fall due. -/
def drainAfter (s : State) (m : Manifest) : State :=
  let every := get s Fld.undDrainCtlEvery
  if every = 0 then s
  else
    let k := s.und.sinceDrain + 1
    if k < every then s.onUnd fun u => { u with sinceDrain := k }
    else
      let s := s.onUnd fun u => { u with sinceDrain := 0 }
      if isSet s Fld.undStatusDraining then s
      else
        let need := m.raw.length + (s.und.bodies.map fun b => b.2.length + 28).sum
        if get s Fld.undDrainSizeV * 4096 / 2 < need then set s Fld.undStatusDrainFull 1
        else
          let (bs, s) := drainBytes s m
          (set s Fld.undStatusDraining 1).onUnd fun u => { u with draining := bs }

/-! Snapshot states (R667 to R672, R690, R691). -/

def undState (s : State) : Nat := get s Fld.undStatusState

/-- The copy stops at this member. -/
def dropView (s : State) : State := s.onUnd fun u => { u with copying := false, frozen := [], frozenPages := [], bodies := [] }

/-- The lead abandons the snapshot under way (R691). -/
def abandonSnap (s : State) : State :=
  if undState s = 0 then s
  else
    let s := set (set (inc s Fld.undStatusAbandoned 1) Fld.undStatusState 0) Fld.undStatusLastResult 2
    (dropView s).onUnd fun u => { u with acks := [], copiedBy := [], shards := [], mfAcks := [], cutCalls := [] }

/-- Triggers due at the composition of cue `n` (Table UND-1, R669). -/
def dueTriggers (s : State) (n : Nat) : Nat :=
  let u := s.und
  let t := get s Fld.undTrigTimerCues
  let step := get s Fld.undStepV
  let ew := isSet s Fld.undCtlEwEn && s.stm.reports.any fun r => r.cue = n && r.ew
  b2n (u.dueTimer || (t ≠ 0 && decide (u.lastCut + t ≤ n))) +
    2 * b2n (u.dueStep || (step ≠ 0 && decide (step ≤ u.linesSince))) + 4 * b2n (u.dueEw || ew) + 8 * b2n u.dueForce

/-- A SNAP message leaves for every member, and this device holds it. -/
def sendSnap (s : State) (n triggers : Nat) : State :=
  let seq := (s.und.snapSeq + 1) % 2 ^ 32
  let m := mkSnap triggers (ownId s) n seq
  let s := s.onUnd fun u => { u with snapSeq := seq, triggers := triggers, scheduled := true, snapMsg := some m }
  sendAll s 0x35 (memberDevs s) (wireBytes m)

/-- The lead evaluates its triggers at the composition of cue `n` (R667, R669, R670). -/
def undCompose (s : State) (n : Nat) : State :=
  if !isSet s Fld.undCtlEn then s.onUnd fun u => { u with dueForce := false }
  else
    let d := dueTriggers s n
    if d = 0 then s
    else if undState s = 0 ∧ s.und.scheduled = false ∧
        (s.und.lastCut = 0 ∨ s.und.lastCut + get s Fld.undTrigMinGap ≤ n) then
      (sendSnap s n d).onUnd fun u => { u with dueForce := false, dueEw := false, dueTimer := false, dueStep := false }
    else
      s.onUnd fun u => { u with
        dueTimer := d % 2 = 1, dueStep := d / 2 % 2 = 1, dueEw := d / 4 % 2 = 1, dueForce := d / 8 % 2 = 1 }

/-- A member's report counts at the lead while the snapshot it names is under way. -/
def leadCutAck (s : State) (src cue : Nat) : State :=
  if undState s = 1 ∧ cue = s.und.cutCue then
    s.onUnd fun u => { u with acks := if src ∈ u.acks then u.acks else u.acks ++ [src] }
  else s

/-- The snapshot is complete (R685, R690). A scene change's cut lets the members apply (R692, Table SPL-5). -/
def snapComplete (s : State) (m : Manifest) : State :=
  let s := set (set s Fld.undStatusState 0) Fld.undStatusLastResult 1
  let s := set (set s Fld.undLastCueLoV s.und.cutCue) Fld.undLastCueHiV (s.und.cutCue / 2 ^ 32)
  let s := set s Fld.undLastSeqV s.und.snapSeq
  let s := dropView (drainAfter s m)
  let s := s.onUnd fun u => { u with acks := [], copiedBy := [], shards := [], mfAcks := [] }
  if !s.und.sceneCut then s
  else if get s Fld.splSceneStatusState = 2 then
    let cs := s.und.cutCalls
    (set (s.onUnd fun u => { u with sceneMan := some m }) Fld.splSceneStatusState 3).onSpl fun p => { p with
      scene := p.scene.map fun c => { c with cutCalls := cs } }
  else
    -- the shadow lead, another device, restores the Calls from this cut (R653)
    match s.spl.passed with
    | some (c, _, d) => tellDevs (sendTransfer (advance s) d (fresh s % 2 ^ 32) m.raw) [d] outCut c m.snapSeq
    | none => s

/-- A manifest acknowledgement counts at the lead. -/
def leadManifestAck (s : State) (src seq : Nat) : State :=
  if undState s = 2 ∧ seq = s.und.snapSeq then
    let s := s.onUnd fun u => { u with mfAcks := if src ∈ u.mfAcks then u.mfAcks else u.mfAcks ++ [src] }
    if (memberDevs s).all fun d => decide (d ∈ s.und.mfAcks) then
      match s.und.manifests.find? fun m => m.company = ownId s && m.snapSeq = seq with
      | some m => snapComplete s m
      | none => s
    else s
  else s

/-- Every member has reported: the manifest is built, sent and stored (R685). -/
def sealSnap (s : State) : State :=
  let m := buildManifest s
  let s := keepManifest (set s Fld.undStatusState 2) m
  let holders := (memberDevs s ++ s.und.shards.map (·.holder)).dedup.filter fun d => d ≠ selfDev s
  let s := holders.foldl (fun s d => sendTransfer s d (fresh s % 2 ^ 32) m.raw) s
  let s := (advance s).onLdg fun l => { l with manifests := keepLast 128 (l.manifests ++ [m]) }
  let s := storeBlock s (530 + m.snapSeq % 128)
  leadManifestAck s (selfDev s) m.snapSeq

/-- A COPIED report reaches the lead (R685). -/
def leadCopied (s : State) (src cue : Nat) (shards : List Shard) : State :=
  if undState s = 1 ∧ cue = s.und.cutCue ∧ src ∉ s.und.copiedBy then
    let s := s.onUnd fun u => { u with copiedBy := u.copiedBy ++ [src], shards := u.shards ++ shards }
    if (memberDevs s).all fun d => decide (d ∈ s.und.copiedBy) then sealSnap s else s
  else s

/-- The cut at L(n) on a member that holds a valid SNAP message (R671 to R673). -/
def takeCut (s : State) (n : Nat) : State :=
  match s.und.snapMsg with
  | none => s
  | some m =>
    let s := s.onUnd fun u => { u with snapMsg := none, scheduled := false }
    if snapCue m ≠ n then s
    else
      let bodies := viewBodies s
      let s := s.onUnd fun u => { u with
        frozen := frozenBlocks s, frozenPages := tablePages s, copying := true, bodies := bodies, cutCue := n
        snapSeq := snapSeqOf m }
      if isLead s then
        (set s Fld.undStatusState 1).onUnd fun u => { u with
          lastCut := n, linesSince := 0, acks := [selfDev s], copiedBy := [], shards := [], mfAcks := []
          cutCalls := cutSet s, sceneCut := snapScene m }
      else
        match leadDev s with
        | some l => send s 0x36 l (reportBody 1 (ownId s) n 0xFFFF 0)
        | none => s

/-- What the lead checks at the boundary of cue `n` (Table UND-6): a CUT_ACK missing one cue after the cut, or a member gone. -/
def undBoundary (s : State) (n : Nat) : State :=
  let gone := (memberDevs s).any fun d => decide (d ≠ selfDev s) && decide ((topoOf s d).state ≠ 1)
  let late := undState s = 1 && decide (s.und.cutCue + 1 ≤ n) && !((memberDevs s).all fun d => decide (d ∈ s.und.acks))
  if isLead s && (late || (gone && undState s ≠ 0)) then abandonSnap s else s

/-- The active lead's cut for a scene change is complete: the members may apply their shadows (R653, Table SPL-5). -/
def cutTold (s : State) (company seq : Nat) : State :=
  if s.spl.scene.any (fun c => c.company = company && c.other) && get s Fld.splSceneStatusState = 2 then
    let m := s.und.manifests.find? fun m => m.company = company && m.snapSeq = seq
    set (s.onUnd fun u => { u with sceneMan := m }) Fld.splSceneStatusState 3
  else s

/-! The commands of a snapshot. -/

/-- Reserved bits of a SNAP message. -/
def snapBad (m : CueTok) : Bool := clKind m ≠ 0x13 || bits m 13 3 ≠ 0 || bits m 112 16 ≠ 0

/-- SNAP (R670, R671). -/
def execSnap (msg : CueTok) (listCue : Nat) (s : State) : Host.Outcome State Fault Refusal :=
  .next (if snapBad msg || (!snapScene msg && decide (snapCue msg ≠ listCue)) then
      report (advance s) 0x0E01 0xFFFF (fresh s % 2 ^ 32)
    else s.onUnd fun u => { u with snapMsg := some msg })

def ofCompany (s : State) (src company : Nat) : Bool :=
  isLead s && decide (company = ownId s) && decide (src ∈ memberDevs s)

/-- CUT_ACK (R690). -/
def execCutAck (src : Fin 1024) (company cue : Nat) (s : State) : Host.Outcome State Fault Refusal :=
  .next (if ofCompany s src.val company then leadCutAck s src.val cue else s)

/-- COPIED (R682, R685). -/
def execCopied (src : Fin 1024) (company cue : Nat) (shards : List Shard) (s : State) : Host.Outcome State Fault Refusal :=
  .next (if ofCompany s src.val company then leadCopied s src.val cue shards else s)

/-- NO_SPACE (R690, R691). -/
def execNoSpace (src : Fin 1024) (company cue : Nat) (s : State) : Host.Outcome State Fault Refusal :=
  .next (if ofCompany s src.val company && undState s = 1 && decide (cue = s.und.cutCue) then abandonSnap s else s)

/-- COPY_FAULT (R690, R691). -/
def execCopyFault (src : Fin 1024) (company cue : Nat) (s : State) : Host.Outcome State Fault Refusal :=
  .next (if ofCompany s src.val company && undState s = 1 && decide (cue = s.und.cutCue) then abandonSnap s else s)

/-- MANIFEST_ACK (R685, R690). -/
def execManifestAck (src : Fin 1024) (company seq : Nat) (s : State) : Host.Outcome State Fault Refusal :=
  .next (if ofCompany s src.val company then leadManifestAck s src.val seq else s)

/-- SNAPSHOT_FORCE (R667). -/
def execSnapshotForce (v : Word) (s : State) : Host.Outcome State Fault Refusal :=
  .next (let off := Fld.undCtlForce.off
    let t := commandWord s 0 off v
    if reaches s 0 off && bit v 2 then t.onUnd fun u => { u with dueForce := true } else t)

/-- SNAPSHOT_COPY_DONE (R680, R682, R836): the shards have reached the buddy. -/
def execSnapshotCopyDone (poison : Bool) (s : State) : Host.Outcome State Fault Refusal :=
  .next (if !s.und.copying then s
    else if !domLit s 60 then demandDom s 60
    else
      let s := s.onUnd fun u => { u with copying := false, frozen := [], frozenPages := [] }
      let cue := s.und.cutCue
      if poison then
        if isLead s then abandonSnap s
        else
          match leadDev s with
          | some l => send (dropView s) 0x36 l (reportBody 4 (ownId s) cue 0xFFFF 0)
          | none => dropView s
      else
        let sh := ownShards s
        let s := s.und.bodies.foldl (fun s b => sendTransfer (advance s) (get s Fld.undBuddyBuddy) (fresh s % 2 ^ 32) b.2) s
        if isLead s then leadCopied s (selfDev s) cue sh
        else
          match leadDev s with
          | some l => send s 0x36 l (reportBody 2 (ownId s) cue 0xFFFF 0 ++ (sh.map shardBytes).flatten)
          | none => s)

/-- COPY_BEFORE_WRITE (R676, R677): the block or table page is copied, and the write that waited goes on. -/
def execCopyBeforeWrite (page : Bool) (n : Nat) (waitNs : Nat) (s : State) : Host.Outcome State Fault Refusal :=
  .next (if s.und.copying && domLit s 60 && (if page then decide (n ∈ s.und.frozenPages) else decide (n ∈ s.und.frozen)) then
      let s := s.onUnd fun u => if page then { u with frozenPages := u.frozenPages.erase n }
        else { u with frozen := u.frozen.erase n }
      set (inc s Fld.undStallCountV 1) Fld.undStallMaxV (max (get s Fld.undStallMaxV) (min waitNs 65535))
    else s)

/-- SNAPSHOT_TIMEOUT (R690): TIMEOUT_CUES cues have passed since the cut. -/
def execSnapshotTimeout (s : State) : Host.Outcome State Fault Refusal :=
  .next (if isLead s && decide (s.und.cutCue + max 1 (get s Fld.undTimeoutCues) ≤ cueNum s) then abandonSnap s else s)

/-- DRAIN_DONE (R96, R683, R684, Table FAULT-4): the drain is in its half; a poisoned one leaves nothing there to use and is
reported as a copy fault, as is one the Stage Door gave up (R764, R765). Drains pause while the brake or a trip throttles (R621, R625). -/
def execDrainDone (poison : Bool) (s : State) : Host.Outcome State Fault Refusal :=
  .next (if !isSet s Fld.undStatusDraining || s.lgt.throttle then s
    else if !domLit s 60 then demandDom s 60
    else
      let base := get s Fld.undDrainBaseLoV + get s Fld.undDrainBaseHiV * 2 ^ 32 +
        (if s.und.drainHalf then get s Fld.undDrainSizeV * 4096 / 2 else 0)
      let bs := s.und.draining
      let s := (set s Fld.undStatusDraining 0).onUnd fun u => { u with draining := [] }
      if poison || bs.isEmpty || !cryptoOn s then
        match leadDev s with
        | some l =>
          if l = selfDev s then abandonSnap s else send s 0x36 l (reportBody 4 (ownId s) s.und.cutCue 0xFFFF 0)
        | none => s
      else
        (s.onUnd fun u => { u with drainHalf := !u.drainHalf }).onOut fun o => { o with host := o.host ++ [(base, bs)] })

/-- WCOPY_REFRESH_DONE (R681). -/
def execWcopyRefreshDone (s : State) : Host.Outcome State Fault Refusal :=
  .next (if get s Fld.plyWloadStatusState ≠ 3 then s
    else if !domLit s 60 then demandDom s 60
    else set s Fld.undBuddyWcopyValid 1)

/-! Re-pointing (R701, R702, R708). -/

/-- A re-point at the submitting device; the flag tells that it answers ENDED. The lead reports the Call's end under the tag
of the re-point from then on (log entry 9). -/
def repointHere (s : State) (fn callId company lead pos tag : Nat) : State × Bool :=
  match entOf s fn callId with
  | none => (s, true)
  | some e =>
    if e.finalN.isSome || e.finalWritten then (s, true)
    else
      let s := onEnt s fn callId fun e => { e with
        company := company, lead := lead, win := e.win.filter fun l => decide (linePos l < pos)
        lines := e.lines - (e.win.filter fun l => decide (pos ≤ linePos l)).length
        next := min e.next pos, restored := true, resume := pos, decided := true, tag := tag }
      (forwardReady (wmUpdate s 2), false)

/-- The answer to the re-point of a Call in restore (R701). -/
def restAnswer (s : State) (slot : Nat) (ended : Bool) : State :=
  if ended then
    let s := s.onStm fun m => { m with board := m.board.filter fun c => c.slot ≠ slot }
    let s := (inc s Fld.undWithdrawnWithdrawn 1).onUnd fun u => { u with restore := u.restore.filter fun r => r.slot ≠ slot }
    announceTable (sweepBlocks s) (mkTableClear slot (cueNum s % 65536))
  else s.onUnd fun u => { u with restore := mapIf (fun r => r.slot = slot) (fun r => { r with repointed := true }) u.restore }

/-- REPOINT (R701, R702, R708). -/
def execRepoint (src : Fin 1024) (tag : BitVec 16) (fn : Fin 128) (callId : Word) (company : Nat) (lead : Fin 1024)
    (pos : BitVec 20) (s : State) : Host.Outcome State Fault Refusal :=
  .next (let (t, ended) := repointHere s fn.val callId.toNat company lead.val pos.toNat tag.toNat
    reply t 0x20 src.val tag.toNat (topoOf t src.val).epoch (statusBody 0 (if ended then 2 else 0) 0 0))

/-! Restores (R693 to R704, R156, R461, R707, R891). -/

/-- Preference list of a model (R82). -/
def prefList (s : State) (model : Nat) : List Nat :=
  match s.spl.active with | some p => ((p.prefs.find? fun x => x.1 = model).map Prod.snd).getD [] | none => []

/-- A Company serves and is not Lost, as its advertisement shows; this device knows its own. -/
def serving (s : State) (c : Nat) : Bool :=
  !decide (c ∈ s.fab.lost) &&
    (if c = ownId s then admitting s else s.fab.adverts.any fun a => a.company = c && a.admitting && !a.lost)

/-- Versions in a lead's COSTUME shard: (tenant, id, version, digest, image). -/
def parseCostumes : Nat → List Byte → List (Nat × Nat × Nat × Nat × List Byte)
  | 0, _ => []
  | n + 1, bs =>
    if bs.length < 80 then []
    else
      let k := 64 + fieldAt bs 32 4
      (fieldAt bs 0 2, fieldAt bs 2 2, fieldAt bs 4 1, fieldAt bs 8 8, (bs.drop 16).take k) :: parseCostumes n (bs.drop (16 + k))

/-- A version from a snapshot's image, whose body is in clear. -/
def restoredVer (s : State) (x : Nat × Nat × Nat × Nat × List Byte) : Option Ver :=
  let img := x.2.2.2.2
  match s.spl.active.bind fun p => p.model (fieldAt img 6 2) with
  | none => none
  | some m =>
    if costumeOk (img.take 64) m img.length then
      some ⟨x.1, x.2.1, x.2.2.1, x.2.2.2.1, m.id, false, false, ceilDiv (ownSlice s (img.take 64) m) 65536, false, false, [], 0, img, [], []⟩
    else none

/-- The Costume of a restored Call (R461): an installed version with the same digest is shared, else the snapshot's image is
installed; none when that conflicts. -/
def restoreCostume (s : State) (imgs : List (Nat × Nat × Nat × Nat × List Byte)) (r : Rec) :
    Option (Option (Nat × Nat) × State) :=
  if !cardFlag r.card flagUseCostume then some (none, s)
  else
    let t := cardTenant r.card
    let id := cardCostume r.card
    let bound : Option (Nat × Nat) := some (id, r.ver)
    match imgs.find? fun x => x.1 = t && x.2.1 = id && x.2.2.1 = r.ver with
    | none => none
    | some x =>
      match s.wdr.vers.find? fun v => v.tenant = t && v.id = id && v.ver = r.ver with
      | some v => if v.digest % 2 ^ 64 = x.2.2.2.1 then some (bound, s) else none
      | none =>
        match restoredVer s x with
        | some v => if verRoom s v then some (bound, sendVer (holdVer s v) v) else none
        | none => none

/-- This lead accepts the Call's Script and stop set (R891). -/
def acceptsScript (s : State) (r : Rec) : Bool :=
  (cardScript r.card = 0 || (match bindable s r.card (cardScript r.card) false with
    | some x => x.kind ≠ 2 || decide (r.script < x.states.length)
    | none => false)) &&
    (cardStopSet r.card = 0 || (bindable s r.card (cardStopSet r.card) true).isSome)

/-- The Call of a record in the slot and blocks drawn for it (R700, R703). -/
def restoredCall (slot seq tag : Nat) (r : Rec) (blocks : List (Nat × Bool)) (costume : Option (Nat × Nat)) : Call :=
  let q : QCard := ⟨r.src, r.fn, tag, r.card, r.pend⟩
  let ph := if r.state = 0 then Phase.prefilling else .decoding
  { newCall slot seq q (r.res - blocks.length) blocks costume r.ctx with
    phase := ph, prev := ph, start := r.kvLen, tok := r.tok, pos := r.kvLen, gen := r.gen
    toks := List.replicate r.kvLen 0 ++ (if r.state = 0 then r.pend else [r.tok]), kvLen := r.kvLen, hashed := 2 ^ 40
    depth0 := true, lookupDone := true, restoring := true, period := r.period, scriptState := r.script
    matcher := r.matcher }

/-- A Call takes a slot and blocks at this lead, under the tag its end is reported with; none when a check of R156, R461 or
R891 fails. -/
def takeIn (s : State) (imgs : List (Nat × Nat × Nat × Nat × List Byte)) (tag : Nat) (r : Rec) : Option (Nat × State) :=
  if 16384 ≤ s.stm.board.length ∨ unreserved s < r.res ∨ acceptsScript s r = false then none
  else
    match restoreCostume s imgs r with
    | none => none
    | some (cos, s) =>
      let (slot, s) := freeSlot s
      let seq := s.stm.nextSeq
      let (bs, s) := drawBlocks s seq (ceilDiv r.kvLen 64)
      let c := restoredCall slot seq tag r (bs.map fun b => (b, false)) cos
      let s := s.onStm fun m => { m with board := m.board ++ [c], nextSeq := seq + 1 }
      let s := s.onUnd fun u => { u with restore := u.restore ++ [⟨slot, tag, false, false, r.blocks⟩] }
      let s := if atLast s then s.onPrm fun p => { p with
          binds := p.binds.put slot { bindCall s r.card with state := r.script, matcher := r.matcher } } else s
      some (slot, announceBlocks s slot (nextCue s) c.blocks 0)

/-- Restore a Call into this lead's Company and re-point its submitting device (R700, R701). -/
def restoreHere (s : State) (imgs : List (Nat × Nat × Nat × Nat × List Byte)) (r : Rec) : Option State :=
  let (tag, s) := takeTag s
  (takeIn s imgs tag r).map fun (slot, s) =>
    if r.src = selfDev s then
      let (s, ended) := repointHere s r.fn (cardCallId r.card) (ownId s) (selfDev s) r.resume tag
      restAnswer s slot ended
    else if requestFails s r.src then restAnswer s slot true
    else
      request s 0x12 r.src tag (leBytes 4 (cardCallId r.card) ++ leBytes 1 r.fn ++ leBytes 1 0 ++
        leBytes 2 (ownId s) ++ leBytes 2 (selfDev s) ++ leBytes 2 0 ++ leBytes 4 r.resume)

/-- A Call of a Lost Company ends at its submitting device with COMPANY_LOST (R46, R704). -/
def endLostHere (s : State) (fn callId : Nat) : State :=
  match entOf s fn callId with
  | some e =>
    if e.finalN.isSome || e.finalWritten then s
    else
      let n := mkNotice e.callId e.fn 3 stCompanyLost e.ring 0 noPos e.tenant (e.lines - e.win.length) (cueNum s)
      forwardReady (onEnt s fn callId fun e => { e with finalN := some n, noLine := true, win := [] })
  | none => s

/-- A Call that cannot be restored (R46, R704). -/
def endLost (s : State) (r : Rec) : State :=
  let s := inc s Fld.undRestoreLost 1
  if r.src = selfDev s then endLostHere s r.fn (cardCallId r.card)
  else reply s 0x20 r.src lostTag (topoOf s r.src).epoch (statusBody stCompanyLost 0 (cardCallId r.card) r.fn)

/-- Calls of this device's Call Map that a Lost Company served and no restored snapshot holds (R46, R697). -/
def endUnheldHere (s : State) (company : Nat) (held : List (Nat × Nat)) : State :=
  let es := s.hiu.callMap.filter fun e =>
    e.company = company && e.finalN.isNone && !e.finalWritten && !decide ((e.fn, e.callId) ∈ held)
  es.foldl (fun s e => endLostHere (inc s Fld.undRestoreLost 1) e.fn e.callId) s

/-- First words of the TRANSFERs of a restore: Calls held, an offer of a Call, blocks to fill (log entry 108). -/
def heldMark : Nat := 0x31444C48
def offerMark : Nat := 0x31524643
def fillMark : Nat := 0x314C4946

/-- Each submitting device ends its Calls of a Lost Company that no restored snapshot holds (R46, R697): the others present are told which
ones it holds. `held` are submitting device, function and call id. -/
def endUnheld (s : State) (company : Nat) (held : List (Nat × Nat × Nat)) : State :=
  let mine (d : Nat) : List (Nat × Nat) := (held.filter fun h => h.1 = d).map Prod.snd
  let s := endUnheldHere s company (mine (selfDev s))
  let ds := (List.range (houseSize s)).filter fun d => d ≠ selfDev s && (topoOf s d).state = 1
  let id := fresh s % 2 ^ 32
  ds.foldl (fun s d => sendTransfer s d id (leBytes 4 heldMark ++ leBytes 4 company ++ leBytes 4 (mine d).length ++
    ((mine d).map fun h => leBytes 4 h.1 ++ leBytes 4 h.2).flatten)) (advance s)

/-- Room that a Company's advertisement shows for a Call, less what this restore placed there (R699). -/
def advertRoom (s : State) (placed : List (Nat × Nat)) (c res : Nat) : Bool :=
  let mine := placed.filter fun p => p.1 = c
  s.fab.adverts.any fun a => a.company = c && decide (mine.length < a.slots) &&
    decide ((mine.map Prod.snd).sum + res ≤ a.blocks)

/-- Blocks of `n` bytes of a KV shard body by number (R686). -/
def bodyBlocks (n : Nat) (body : List Byte) : List (Nat × List Byte) :=
  let k := body.length / (4 + n)
  (List.range k).map fun i => (fieldAt body (4 * i) 4, (body.drop (4 * k + n * i)).take n)

/-- A KV shard body of blocks. -/
def blocksBody (bs : List (Nat × List Byte)) : List Byte := (bs.map fun b => leBytes 4 b.1).flatten ++ (bs.map Prod.snd).flatten

/-- Bytes that one head of one layer has in a block: key and value of 64 slots, 128 values each (R686). -/
def headBytes : Nat := 16384

/-- A KV shard of blocks of `n` bytes, cut into what each head of each layer has in its blocks: layer, head, blocks (R686, R693). -/
def cutShard (n : Nat) (keep : Nat → Bool) (g : Shard × List Byte) : List (Nat × Nat × List Byte) :=
  let bs := (bodyBlocks n g.2).filter fun b => keep b.1
  (List.range ((g.1.layers.2 + 1 - g.1.layers.1) * g.1.heads.2)).map fun i =>
    (g.1.layers.1 + i / g.1.heads.2, g.1.heads.1 + i % g.1.heads.2,
      blocksBody (bs.map fun b => (b.1, (b.2.drop (headBytes * i)).take headBytes)))

/-- block_bytes of a manifest. -/
def manBlock (m : Manifest) : Nat := fieldAt m.raw 0x30 4

/-- The key and value blocks of the shards read, by layer and head. -/
def gotKv (s : State) (m : Manifest) (keep : Nat → Bool) : List (Nat × Nat × List Byte) :=
  ((s.und.got.filter fun g => g.1.kind = 2).map (cutShard (manBlock m) keep)).flatten

/-- A block as a member whose stage holds the layers `ls` and whose rank holds the heads `hs` takes it, when every part of it is there (R693). -/
def sliceBlock (kv : List (Nat × Nat × List Byte)) (ls hs : Nat × Nat) (b : Nat) : Option (List Byte) :=
  let part (i : Nat) : Option (List Byte) :=
    ((kv.find? fun k => k.1 = ls.1 + i / hs.2 && k.2.1 = hs.1 + i % hs.2).bind fun k =>
      (bodyBlocks headBytes k.2.2).find? fun x => x.1 = b).map Prod.snd
  let ps := (List.range (ls.2 * hs.2)).map part
  if ps.all (·.isSome) then some (ps.map fun p => p.getD []).flatten else none

/-- An offer of a Call: its record, its Costume's, and its blocks. -/
def offerBytes (o : Offer) : List Byte :=
  let body := o.raw ++ o.costume ++
    (o.kv.map fun k => leBytes 2 k.1 ++ leBytes 2 k.2.1 ++ leBytes 4 k.2.2.length ++ k.2.2).flatten
  leBytes 4 offerMark ++ leBytes 4 body.length ++ leBytes 4 o.raw.length ++ leBytes 4 o.costume.length ++ leBytes 4 o.kv.length ++ body

/-- Blocks by layer and head, as an offer carries them. -/
def parseKv : Nat → List Byte → List (Nat × Nat × List Byte)
  | 0, _ => []
  | n + 1, bs =>
    let k := fieldAt bs 4 4
    (fieldAt bs 0 2, fieldAt bs 2 2, (bs.drop 8).take k) :: parseKv n (bs.drop (8 + k))

/-- Place one Call: the first Company of the preference list, among those not asked yet, that takes it (R699, R707, R891). Another
Company's lead is sent the Call (log entry 108). -/
def placeOne (imgs : List (Nat × Nat × Nat × Nat × List Byte)) (o : Offer) (a : State × List (Nat × Nat)) : State × List (Nat × Nat) :=
  let (s, placed) := a
  let r := parseRec o.raw
  let exactOk (c : Nat) : Bool := !cardFlag r.card flagExact ||
    (s.spl.active.any fun p => (p.companyInfo c).any (·.exact))
  let cand := if r.state = 4 then [] else (prefList s o.model).filter fun c => serving s c && exactOk c && !decide (c ∈ o.tried)
  let leadOf (c : Nat) : Option Nat := (s.spl.active.bind fun p => p.companyInfo c).bind CompanyInfo.lead
  let try' (c : Nat) : Option State :=
    if c = ownId s then restoreHere s imgs r
    else if advertRoom s placed c r.res then
      (leadOf c).map fun d =>
        (sendTransfer (advance s) d (fresh s % 2 ^ 32) (offerBytes o)).onUnd fun u => { u with
          offered := u.offered ++ [{ o with tried := o.tried ++ [c] }] }
    else none
  match cand.find? fun c => (try' c).isSome with
  | some c =>
    match try' c with
    | some t => if c = ownId s then (inc t Fld.undRestoreRestored 1, placed) else (t, placed ++ [(c, r.res)])
    | none => (s, placed)
  | none => (endLost s r, placed)

/-- A record read from a manifest of a model, as an offer no Company has been asked about. -/
def offerOf (s : State) (m : Manifest) (imgs : List (Nat × Nat × Nat × Nat × List Byte)) (r : Rec) : Offer :=
  let cos := if cardFlag r.card flagUseCostume then
      imgs.find? fun x => x.1 = cardTenant r.card && x.2.1 = cardCostume r.card && x.2.2.1 = r.ver else none
  ⟨r.raw, match cos with
    | some x => leBytes 2 x.1 ++ leBytes 2 x.2.1 ++ leBytes 1 x.2.2.1 ++ leBytes 3 0 ++ leBytes 8 x.2.2.2.1 ++ x.2.2.2.2
    | none => [], gotKv s m (fun b => decide (b ∈ r.blocks)), m.model, []⟩

def placeCall (m : Manifest) (imgs : List (Nat × Nat × Nat × Nat × List Byte)) (a : State × List (Nat × Nat)) (r : Rec) :
    State × List (Nat × Nat) := placeOne imgs (offerOf a.1 m imgs r) a

/-- Call records and Costume images of the shards read. -/
def gotRecs (s : State) : List Rec × List (Nat × Nat × Nat × Nat × List Byte) :=
  let calls := ((s.und.got.filter fun g => g.1.kind = 1).map Prod.snd).flatten
  (parseRecs (calls.length / 256 + 1) calls,
    ((s.und.got.filter fun g => g.1.kind = 3 && g.1.stage = 0 && g.1.rank = 0).map fun g =>
      parseCostumes (g.2.length / 80 + 1) g.2).flatten)

/-- Blocks go to the pool of this device. -/
def putBlocks (s : State) (bs : List (Nat × List Byte)) : State :=
  bs.foldl (fun s b => writeBytes (copyFirst s false b.1) (blockAddr s b.1) b.2) s

/-- The blocks of a restored Call go to the blocks drawn for them, each member's layers and heads of them, on this member and, by TRANSFER, on
the others (R693, R700; log entry 108). -/
def fillCall (s : State) (kv : List (Nat × Nat × List Byte)) (r : Rest) : State :=
  match callAt s r.slot, ownCompany s with
  | some c, some i =>
    i.members.foldl (fun s m =>
      let (ls, hs) := ownSlices s m.stage m.rank
      let bs := (r.blocks.zip (c.blocks.map Prod.fst)).filterMap fun p => (sliceBlock kv ls hs p.1).map fun b => (p.2, b)
      if m.dev = selfDev s then putBlocks s bs
      else if bs.isEmpty then s
      else sendTransfer (advance s) m.dev (fresh s % 2 ^ 32) (leBytes 4 fillMark ++ leBytes 4 bs.length ++ blocksBody bs)) s
  | _, _ => s

/-- Key and value blocks of the shards read go to the blocks drawn for them (R693). -/
def fillOwn (s : State) (m : Manifest) : State :=
  let kv := gotKv s m fun _ => true
  s.und.restore.foldl (fun s r => fillCall s kv r) s

/-- The shards read are no longer kept. -/
def endReads (s : State) : State :=
  s.onUnd fun u => { u with restoring := none, tries := [], reads := [], got := [], sceneMan := none, sceneRead := false }

/-- Every shard of the manifest has passed: the Calls are placed in ascending old slot order (R699). -/
def placeAll (s : State) (m : Manifest) : State :=
  let (rs, imgs) := gotRecs s
  let held := rs.map fun r => (r.src, r.fn, cardCallId r.card)
  let (s, _) := rs.foldl (placeCall m imgs) (s, [])
  endReads (fillOwn (endUnheld s m.company held) m)

/-- Another coordinator's Call is offered to this lead (R699, R700, R891): it is taken in and filled, or declined. -/
def gotOffer (s : State) (src : Nat) (bs : List Byte) : State :=
  let a := fieldAt bs 8 4
  let b := fieldAt bs 12 4
  let r := parseRec ((bs.drop 20).take a)
  let imgs := parseCostumes 1 ((bs.drop (20 + a)).take b)
  let kv := parseKv (fieldAt bs 16 4) (bs.drop (20 + a + b))
  let tell (s : State) (out : Nat) : State := tellDevs s [src] out (cardCallId r.card) (r.fn + 128 * r.src)
  match (if isLead s && admitting s then restoreHere s imgs r else none) with
  | some t =>
    match t.und.restore.find? fun x => (callAt t x.slot).any fun c => c.src = r.src && c.fn = r.fn && c.callId = cardCallId r.card with
    | some x => tell (fillCall t kv x) outAccept
    | none => tell t outAccept
  | none => tell s outDecline

/-- The answer to an offer reaches its coordinator: a Call taken is restored; one declined is offered to the next Company (R699, R891). -/
def offerAnswer (s : State) (accepted : Bool) (callId who : Nat) : State :=
  let mine (o : Offer) : Bool :=
    let r := parseRec o.raw
    cardCallId r.card = callId && r.fn + 128 * r.src = who
  match s.und.offered.find? mine with
  | none => s
  | some o =>
    let s := s.onUnd fun u => { u with offered := u.offered.erase o }
    if accepted then inc s Fld.undRestoreRestored 1
    else
      let r := parseRec o.raw
      let n := s.und.restore.length
      let s := (placeOne (parseCostumes 1 o.costume) o (s, [])).1
      (s.und.restore.drop n).foldl (fun s x => if (callAt s x.slot).any fun c => c.callId = cardCallId r.card then fillCall s o.kv x else s) s

/-- Blocks that the lead of a restored Call's Company sends (R700). -/
def gotFill (s : State) (src : Nat) (bs : List Byte) : State :=
  if fromLead s src then putBlocks s (bodyBlocks (blockBytes s) (bs.drop 8)) else s

/-- The coordinator's list of held Calls reaches a submitting device (R46). -/
def gotHeld (s : State) (bs : List Byte) : State :=
  endUnheldHere s (fieldAt bs 4 4) ((List.range (fieldAt bs 8 4)).map fun i => (fieldAt bs (12 + 8 * i) 4, fieldAt bs (16 + 8 * i) 4))

/-- A replay restores the manifest's Calls at this lead, with no re-point and no Notice, and runs (R727, R728). -/
def replayPlace (s : State) (m : Manifest) : State :=
  let (rs, imgs) := gotRecs s
  let s := rs.foldl (fun s r =>
    if r.state = 4 then s
    else
      match takeIn s imgs 65536 r with
      | some (slot, s) => onCall s slot fun c => { c with restoring := false }
      | none => s) s
  let s := endReads (fillOwn s m)
  (set s Fld.pbkReplayStatusState 2).onUnd fun u => { u with restore := u.restore.filter fun r => r.tag ≠ 65536 }

/-- What the shards of a manifest were read for: a replay, the restart of a scene change, whose boundary takes them, or a restore. -/
def placeFor (s : State) (m : Manifest) : State :=
  if get s Fld.pbkReplayStatusState = 1 then replayPlace s m else if s.und.sceneRead then s else placeAll s m

/-- Bytes of a shard that this device holds: its own body, or a transfer with its digest. -/
def heldShard (s : State) (x : Shard) : Option (List Byte) :=
  ((s.und.bodies.map Prod.snd ++ s.und.transfers.map fun t => t.2.2).find? fun b => b.length = x.length &&
    Config.sha384 b = x.digest)

/-- Start on the next manifest to try, if any (R697): every shard is read from its holder. A shard whose holder is absent has
failed (R694). -/
def tryManifest : Nat → State → State
  | 0, s => s
  | fuel + 1, s =>
    let s := s.onUnd fun u => { u with reads := [], got := [] }
    match s.und.tries with
    | [] =>
      -- a replay whose manifest cannot be read ends (R724)
      let s := if get s Fld.pbkReplayStatusState = 1 then
          (set (set s Fld.pbkReplayStatusState 3) Fld.pbkReplayStatusResult 5).onPbk fun b => { b with replay := [], prompts := [] }
        else if s.und.sceneRead then s
        else
          match s.und.restoring with
          | some c => endUnheld s c []
          | none => s
      s.onUnd fun u => { u with restoring := none }
    | m :: rest =>
      let bad := m.shards.any fun x => if x.holder = selfDev s then (heldShard s x).isNone else requestFails s x.holder
      if !manifestSigned m || bad then tryManifest fuel (s.onUnd fun u => { u with tries := rest })
      else
        let s := m.shards.zipIdx.foldl (fun s x =>
          match (if x.1.holder = selfDev s then heldShard s x.1 else none) with
          | some b => s.onUnd fun u => { u with got := u.got ++ [(x.1, b)] }
          | none =>
            let (tag, s) := takeTag s
            let s := s.onUnd fun u => { u with reads := u.reads ++ [(tag, m, x.1)] }
            request s 0x13 x.1.holder tag (leBytes 4 m.snapSeq ++ leBytes 2 m.company ++ leBytes 2 x.2 ++ leBytes 4 0 ++
              leBytes 4 (2 ^ 32 - 1))) s
        if s.und.reads.isEmpty then placeFor s m else s

/-- The restore of a Lost Company begins at its coordinator (R696, R697). -/
def beginRestore (s : State) (company : Nat) : State :=
  let ms := (sortBy (·.cue) (s.und.manifests.filter fun m => m.company = company)).reverse.take 2
  let model := match s.spl.active.bind fun p => p.companyInfo company with | some c => c.model | none => 0
  if isLead s ∧ (prefList s model).find? (serving s) = some (ownId s) then
    tryManifest (ms.length + 1) (s.onUnd fun u => { u with restoring := some company, tries := ms })
  else s

/-- A shard under trial failed: the next manifest is tried (R694, R697). -/
def shardFailed (s : State) : State :=
  tryManifest (s.und.tries.length + 1) (s.onUnd fun u => { u with tries := u.tries.drop 1 })

/-- SHARD_READ (R693): the holder answers with the blocks asked for, or with poison where it holds no such shard. -/
def execShardRead (src : Fin 1024) (tag : BitVec 16) (seq company shard first count : Nat) (s : State) :
    Host.Outcome State Fault Refusal :=
  .next (let ep := (topoOf s src.val).epoch
    let m := s.und.manifests.find? fun m => m.company = company && m.snapSeq = seq
    match (m.bind fun m => m.shards[shard]?).bind fun x => (heldShard s x).map fun b => (x, b) with
    | none => sendPkt s 0x26 src.val tag.toNat ep true []
    | some (x, b) =>
      let n := fieldAt ((m.map (·.raw)).getD []) 0x30 4
      let k := b.length / (4 + n)
      let data := if x.kind = 2 ∧ 0 < first then
          ((b.drop (4 * first)).take (4 * min count (k - first))) ++
            ((b.drop (4 * k + n * first)).take (n * min count (k - first)))
        else if x.kind = 2 ∧ count < k then (b.take (4 * count)) ++ ((b.drop (4 * k)).take (n * count))
        else b
      let ps := if data.isEmpty then [[]] else pieces 4096 (data.length / 4096 + 1) data
      ps.foldl (fun s p => sendPkt s 0x26 src.val tag.toNat ep false p) s)

/-- SHARD_DATA (R693, R694, R531): the data of one read, whole. -/
def execShardData (src : Fin 1024) (tag : BitVec 16) (epoch : BitVec 8) (data : List Byte) (poison : Bool) (s : State) :
    Host.Outcome State Fault Refusal :=
  .next (if epoch.toNat ≠ get s Fld.fabEpochEpoch then inc s Fld.fabOrphanStaleReply 1
    else
      match s.fab.pend.find? fun p => p.tag = tag.toNat && p.dst = src.val with
      | none => inc s Fld.fabOrphanOrphan 1
      | some p =>
        let s := s.onFab fun b => { b with pend := b.pend.erase p }
        let s := issueWaiting (set s Fld.fabPendingV s.fab.pend.length)
        match s.und.reads.find? fun r => r.1 = tag.toNat with
        | none => s
        | some (_, m, x) =>
          if poison || decide (data.length ≠ x.length) || decide (Config.sha384 data ≠ x.digest) then shardFailed s
          else
            let s := s.onUnd fun u => { u with
              reads := u.reads.filter fun r => r.1 ≠ tag.toNat, got := u.got ++ [(x, data)] }
            if s.und.reads.isEmpty then placeFor s m else s)

/-- RESTORE_FILL_DONE (R44, R79, R423, R588, R703): every target member has filled the Call's blocks. At the submitting device
a re-pointed Call gets its RESTORED Notice; at the target lead it may be listed once re-pointed, and where the submitting
device is another one, from here on. -/
def execRestoreFillDone (fn : Fin 128) (callId : Word) (s : State) : Host.Outcome State Fault Refusal :=
  .next (let mine (r : Rest) : Bool := (callAt s r.slot).any fun c => c.fn = fn.val && c.callId = callId.toNat
    let s := s.onUnd fun u => { u with restore := mapIf mine (fun r => { r with filled := true }) u.restore }
    let done := s.und.restore.filter fun r => mine r && r.repointed
    let s := done.foldl (fun s r =>
      let s := s.onUnd fun u => { u with restore := u.restore.erase r }
      onCall s r.slot fun c => { c with restoring := c.src = selfDev s }) s
    match entOf s fn.val callId.toNat with
    | some e =>
      if e.restored && !e.finalN.isSome && !e.finalWritten then
        let n := mkNotice e.callId e.fn 4 stRestored e.ring e.company e.resume e.tenant 0 (cueNum s)
        wmUpdate (onEnt s fn.val e.callId fun e => { e with
          restoredN := some n, parkNotice := e.parkNotice || !nqFree s fn.val }) 2
      else s
    | none => s)

/-- Bytes of one drained shard in Staging: decrypted, or none. -/
def openDrained (s : State) (a len : Nat) : Option (List Byte) :=
  Config.gcmOpen (ckptKey s) (readLe s a 12) (readBytes s (a + 12) len) [] (readLe s (a + 12 + len) 16)

/-- The shards of a drained manifest, in order behind it (log entry 21). -/
def openShards (s : State) : List Shard → Nat → Option (List (Shard × List Byte))
  | [], _ => some []
  | x :: r, a =>
    match openDrained s a x.length with
    | some b =>
      if Config.sha384 b = x.digest then (openShards s r (a + 28 + x.length)).map fun l => (x, b) :: l else none
    | none => none

/-- UND_HOST_GO (R709, R710). -/
def execUndHostGo (v : Word) (s : State) : Host.Outcome State Fault Refusal :=
  .next (let off := Fld.undHostCtlGo.off
    let t := commandWord s 0 off v
    if !reaches s 0 off || !bit v 0 then t
    else if !isLead t then set t Fld.undHostResultResult 6
    else
      let a := get t Fld.undHostAddrLoV + get t Fld.undHostAddrHiV * 2 ^ 32
      match parseManifest (readBytes t a (224 + 96 * min 1024 (readLe t (a + 0x28) 4))) with
      | none => set t Fld.undHostResultResult 3
      | some m =>
        if m.company ∉ t.fab.lost then set t Fld.undHostResultResult 5
        else if !manifestSigned m then set t Fld.undHostResultResult 3
        else
          match openShards t m.shards (a + m.raw.length) with
          | none => set t Fld.undHostResultResult 4
          | some got => set (placeAll (t.onUnd fun u => { u with got := got }) m) Fld.undHostResultResult 2)

/-! Transfers (R680, R685, R706). -/

/-- A whole manifest of a Company that this device serves or holds shards of is kept and acknowledged to its lead (R685). -/
def gotManifest (s : State) (src : Nat) (m : Manifest) : State :=
  let s := keepManifest s m
  if m.company = ownId s ∧ src ≠ selfDev s then
    let s := dropView (drainAfter s m)
    send s 0x36 src (reportBody 5 m.company m.cue 0xFFFF m.snapSeq)
  else s

/-- A whole Script image from the lead is held by a last-stage device, and the lead is told (R364; log entry 18). -/
def gotScript (s : State) (src : Nat) (bs : List Byte) : State :=
  match vocabOf s (fieldAt bs 6 2) with
  | some v =>
    if fromLead s src && atLast s && 64 ≤ bs.length && headerOk (bs.take 64) && bs.length = imageLen (bs.take 64) v then
      match parseImage v bs with
      | some x =>
        let same (y : Script) : Bool := isStopSet y = isStopSet x && y.id = x.id
        let s := if s.prm.scripts.any fun y => same y && !y.withdrawn then s
          else noteScripts (s.onPrm fun p => { p with scripts := p.scripts.filter (fun y => !same y) ++ [x] })
        tellDevs s [src] outHeld 0 x.id
      | none => s
    else s
  | none => s

/-- TRANSFER (R590, R685, R706): the bytes join those of the same source and id; offset 0 starts anew, a gap or poison
drops them. -/
def execTransfer (src : Fin 1024) (id : Word) (off : Nat) (data : List Byte) (poison : Bool) (s : State) :
    Host.Outcome State Fault Refusal :=
  .next (let key (t : Nat × Nat × List Byte) : Bool := t.1 = src.val && t.2.1 = id.toNat
    let old := match s.und.transfers.find? key with | some t => t.2.2 | none => []
    let rest := s.und.transfers.filter fun t => !key t
    if poison || (off ≠ 0 && decide (off ≠ old.length)) then s.onUnd fun u => { u with transfers := rest }
    else
      let bs := (if off = 0 then [] else old) ++ data
      let s := s.onUnd fun u => { u with transfers := rest ++ [(src.val, id.toNat, bs)] }
      match (parseManifest bs).filter fun m => m.raw.length = bs.length && manifestSigned m with
      | some m => gotManifest s src.val m
      | none =>
        let mark := fieldAt bs 0 4
        if mark = costumeMark then gotCostume s src.val bs
        else if mark = spillMark ∧ bs.length = 76 + 2 * fieldAt bs 4 4 then (if fromLead s src.val then gotSpill s bs else s)
        else if mark = factsMark ∧ bs.length = 20 + 12 * fieldAt bs 4 4 then (if fromLead s src.val then gotFacts s bs else s)
        else if mark = heldMark ∧ bs.length = 12 + 8 * fieldAt bs 8 4 then gotHeld s bs
        else if mark = offerMark ∧ bs.length = 20 + fieldAt bs 4 4 then gotOffer s src.val bs
        else if mark = fillMark ∧ bs.length = 8 + fieldAt bs 4 4 * (4 + blockBytes s) then gotFill s src.val bs
        else gotScript s src.val bs)

end Sys2Proof.Machine
end

