-- ==== Sys2Proof/Machine/Stageplot.lean ====
section
/-!
DEFINITION. The Stageplot engine (spec/16_stageplot.md): images, the shadow and active sets, swaps and scene changes; the
commands STAGEPLOT_LOAD, STAGEPLOT_LOAD_DONE, SWAP_REQ, SWAP_CANCEL, SCENE_START, SCENE_QUERY, APPLY_DONE, APPLIED and
SCENE_TIMEOUT.
-/
namespace Sys2Proof.Machine

/-! Images (R630 to R632; Tables SPL-1 to SPL-4). -/

/-- Every byte of a run is 0. -/
def zeros (bs : List Byte) (o n : Nat) : Bool := ((bs.drop o).take n).all fun b => b = 0#8

/-- Field rules of Table SPL-1. -/
def imageHeadOk (h : List Byte) : Bool :=
  let len := fieldAt h 8 4
  decide (128 ≤ h.length) && fieldAt h 0 4 = 0x4C505453 && fieldAt h 4 1 = 1 && fieldAt h 5 1 = 0x10 &&
    fieldAt h 6 2 = 0 && len % 64 = 0 && decide (4096 ≤ len) && decide (len ≤ 67108864) &&
    fieldAt h 12 2 = sectionIds.length && decide (fieldAt h 14 2 < 1024) && zeros h 0x24 0x5C

/-- The section header at index `i`. -/
def sectHead (img : List Byte) (i : Nat) : List Byte := (img.drop (128 + 32 * i)).take 32

/-- A section header against Table SPL-3, for the section expected at its place (R632). -/
def sectOk (len id : Nat) (h : List Byte) : Bool :=
  let off := fieldAt h 4 4
  let n := fieldAt h 8 4
  fieldAt h 0 2 = id && fieldAt h 2 1 = sectionClass id && fieldAt h 3 1 = 1 && off % 64 = 0 &&
    decide (128 + 32 * sectionIds.length ≤ off) && n % 4 = 0 && decide (4 ≤ n) && decide (off + n + 128 ≤ len) &&
    (id = 8 || fieldAt h 12 2 = 0xFFFF) && zeros h 14 18

/-- No two bodies overlap (R632). -/
def bodiesApart (img : List Byte) : Bool :=
  let rs := (List.range sectionIds.length).map fun i => (fieldAt (sectHead img i) 4 4, fieldAt (sectHead img i) 8 4)
  decide (rs.Pairwise fun a b => a.1 + a.2 ≤ b.1 ∨ b.1 + b.2 ≤ a.1)

/-- Tables SPL-1 to SPL-3 and R632 hold of an image. -/
def imageOk (img : List Byte) : Bool :=
  let len := fieldAt img 8 4
  imageHeadOk (img.take 128) && img.length = len &&
    sectionIds.zipIdx.all (fun x => sectOk len x.1 (sectHead img x.2)) && bodiesApart img &&
    zeros img (len - 128 + 4) 0x1C

/-- Body of a section. -/
def sectBody (img : List Byte) (i : Nat) : List Byte :=
  (img.drop (fieldAt (sectHead img i) 4 4)).take (fieldAt (sectHead img i) 8 4)

/-- Little-endian words of a body (R651). -/
def wordsOf : Nat → List Byte → List Nat
  | 0, _ => []
  | n + 1, bs => if bs.isEmpty then [] else ofLeBytes (bs.take 4) :: wordsOf n (bs.drop 4)

/-- The set an image gives: its sections' settings (log entry 6), and what header and bodies say of themselves. -/
def plotFrom (img : List Byte) : Option Plot :=
  let ws (x : Nat × Nat) : Nat × List Nat := (x.1, wordsOf ((sectBody img x.2).length / 4 + 1) (sectBody img x.2))
  (Config.plotOf img).map fun (p : Plot) => { p with
    planId := fieldAt img 0x10 4
    seq := fieldAt img 0x14 4
    houseId := fieldAt img 0x18 8
    device := fieldAt img 14 2
    digest := Config.sha384 (sectBody img 0)
    imgDigest := Config.sha384 img
    words := sectionIds.zipIdx.map ws }

/-- Key digest of a verification key that may sign images: key 0 in ROM, or a provisioned key not revoked (Table SDR-2,
R741). -/
def signKey (s : State) (i : Nat) : Option Nat :=
  if i = 0 then some Config.vendorKey
  else if i < 4 ∧ i ∉ s.sdr.revoked then s.sdr.keys.get? i
  else none

/-- The signature of an image (R631). -/
def imageSigned (s : State) (img : List Byte) : Bool :=
  let n := img.length - 128
  match signKey s (fieldAt img n 4) with
  | some k => Config.ecdsaVerify k (Config.sha384 (img.take n)) (fieldAt img (n + 0x20) 96)
  | none => false

/-! Verification of a set's content (R637). -/

/-- The shards of a Company tile the vocabulary (R332, R333). -/
def shardsOk (vocab : Nat) (shards : List (Nat × Nat)) : Bool :=
  let xs := sortBy Prod.fst shards
  let ends := xs.foldl (fun (a : Option Nat) x =>
    match a with
    | some e => if x.1 = e ∧ e < vocab ∧ x.2 ≤ 65536 then some (e + x.2) else none
    | none => none) (some 0)
  match ends with
  | some e => decide (vocab ≤ e)
  | none => false

/-- The word TAKE. -/
def takeWord : Nat := 2 ^ 56

/-- Link neighbours of a device (R509). -/
def neighbours (racks d : Nat) : List Nat :=
  let c := coords d
  let r := 2 * racks
  [devAt ((c.1 + 1) % r, c.2.1, c.2.2), devAt ((c.1 + r - 1) % r, c.2.1, c.2.2), devAt (c.1, (c.2.1 + 1) % 8, c.2.2),
    devAt (c.1, (c.2.1 + 7) % 8, c.2.2), devAt (c.1, c.2.1, (c.2.2 + 1) % 8), devAt (c.1, c.2.1, (c.2.2 + 7) % 8)]

/-- Sections whose content fails verification, lowest first (R161, R200, R250, R260, R261, R271, R283, R333, R420, R465, R529, R678, R679). -/
def plotBad (p : Plot) : List Nat :=
  let exact := p.own.any (·.exact)
  let model := p.own.bind fun c => p.model c.model
  (if p.credits.any (fun c => decide (c < 17)) then [0x02] else []) ++
    (if !p.swing && ((match model with | some m => !shardsOk m.vocab p.shards | none => true) ||
        !decide (p.buddy ∈ neighbours p.racks p.device)) then [0x08] else []) ++
    (if decide (85 < p.wGran) || decide (8 < p.cGran) || decide (92 < p.wGran + p.cGran) ||
        p.castOrder.any (fun k => p.troupes.getD k 4 ≠ 0) || p.troupes.any (fun t => decide (4 < t)) then [0x09] else []) ++
    (if decide (48 * 1024 < p.regionMiB) || decide (2 ^ 20 < p.blockBytes) then [0x0A] else []) ++
    (if (p.cueWords.any fun w => !(p.cueWords.any fun x => x.1 = w.1 / 2 ^ 14 * 2 ^ 14 && x.2 = takeWord)) ||
        p.models.any (fun m => decide (2 ^ 20 < m.maxRow) || decide (4096 < m.sites)) ||
        p.templates.any (fun t => decide (4095 < t.ctr) || p.troupes.getD (t.player / 2) 4 ≠ t.troupe) then [0x0B] else []) ++
    (if p.models.any (fun m => decide (262144 < m.vocab)) || (exact && model.any fun m => decide (2 ^ 27 < m.maxTerms)) then
      [0x0C] else [])

/-! RWS fields of the class S sections (R633, Table SPL-4). -/

/-- Watermarks of the receive buffers at reset: the depth, which is their credits, and half of it (Table SWL-4). -/
def rxMarks (s : State) (p : Plot) : State :=
  (List.range 96).foldl (fun s i =>
    let d := p.credits.getD i 0
    set (set s (Fld.swlWmHigh (0x20 + i)) d) (Fld.swlWmLow (0x20 + i)) (d / 2)) s

/-- The whole shadow is the one an image gives: fields the image does not list are at reset (R638). -/
def putShadow (s : State) (p : Plot) : State :=
  let s := rxMarks (s.onRegs fun r => { r with flds := r.flds.filter fun x => (rwsOf x.1).isNone }) p
  let s := p.rws.foldl (fun s x =>
    match rwsOf x.1 with
    | some f => set s (stored s f) x.2
    | none => s) s
  let s := s.onSpl fun x => { x with shadow := some p }
  set (set (set s Fld.splShadowIdV p.planId) Fld.splShadowSeqV p.seq) Fld.splSwapStatusDirty 0

/-- The shadow values of all RWS fields become active (R645, R658). -/
def shadowActs (s : State) : State :=
  s.onRegs fun r => { r with act := r.flds.filter fun x => (rwsOf x.1).isSome }

/-- The shadow set becomes the active set (R647). -/
def shadowIn (s : State) : State :=
  let s := (shadowActs s).onSpl fun x => { x with active := x.shadow }
  let s := set (set s Fld.splActiveIdV (get s Fld.splShadowIdV)) Fld.splActiveSeqV (get s Fld.splShadowSeqV)
  set s Fld.splSwapStatusDirty 0

/-! Loading (R636 to R638). -/

/-- The image at a device address of Meadow. -/
def stagedImage (s : State) (a : Nat) : List Byte :=
  if a % 64 ≠ 0 ∨ a < meadowBase ∨ meadowEnd < a + 128 then []
  else
    let n := readLe s (a + 8) 4
    if 67108864 < n ∨ meadowEnd < a + n then [] else readBytes s a n

/-- SPL_LOAD_ADDR (R636). -/
def imageAddr (s : State) : Nat := get s Fld.splLoadAddrLoV + get s Fld.splLoadAddrHiV * 2 ^ 32

/-- STAGEPLOT_LOAD (R636): the image in Staging is taken. -/
def execStageplotLoad (v : Word) (s : State) : Host.Outcome State Fault Refusal :=
  .next (let off := Fld.splLoadCtlLoad.off
    let t := commandWord s 0 off v
    if reaches s 0 off && bit v 0 && decide (get t Fld.splLoadStatusResult ∉ [1, 6]) && auditRoom t then
      let img := stagedImage t (imageAddr t)
      (set (demandDom t 62) Fld.splLoadStatusResult 1).onSpl fun p => { p with image := img }
    else t)

/-- Result and FIRST_BAD of an image, in the order of R637; `none` for an image that goes into the shadow. What is first bad
in an image whose sections spell no settings is a free value. -/
def imageVerdict (s : State) (img : List Byte) : Option (Nat × Nat) :=
  if !imageOk img || decide (fieldAt img 14 2 ≠ selfDev s) then some (3, 0)
  else
    match plotFrom img with
    | none => some (3, fresh s % 256)
    | some p =>
      match (plotBad p).head? with
      | some id => some (3, id)
      | none =>
        if !imageSigned s img then some (4, 0)
        else if sealedMode s && decide (p.seq < get s Fld.splActiveSeqV) then some (5, 0)
        else if s.spl.swapAt.isSome || s.spl.scene.isSome then some (6, 0)
        else none

/-- STAGEPLOT_LOAD_DONE with its audit record (Table SDR-11; R250, R271, R283, R333, R420, R465, R529, R631, R632, R637, R638, R678, R679). -/
def execStageplotLoadDone (s : State) : Host.Outcome State Fault Refusal :=
  .next (if get s Fld.splLoadStatusResult ≠ 1 then s
    else if !domLit s 62 then demandDom s 62
    else
      let img := s.spl.image
      let t := s.onSpl fun p => { p with image := [] }
      match imageVerdict s img with
      | some (r, b) => audit (advance (set (set t Fld.splLoadStatusResult r) Fld.splLoadStatusFirstBad b)) 7 0 false stOk r
      | none =>
        match plotFrom img with
        | some p =>
          putShadow (audit (set (set t Fld.splLoadStatusResult 2) Fld.splLoadStatusFirstBad 0) 7 0 false stOk 2) p
        | none => t)

/-! Swaps (R640 to R649, R664, R890). -/

/-- STATE of SPL_SWAP_STATUS, but for a swap just made, which reads SWAPPING on (R11, R645). -/
def setSwapState (s : State) (v : Nat) : State := if swapping s then s else set s Fld.splSwapStatusState v

/-- A refusal: STATE stays SCHEDULED where a schedule stands; the Notice carries map and reason (R644, R664). -/
def swapRefused (s : State) (reason map : Nat) : State :=
  let s := set (set s Fld.splSwapStatusReason reason) Fld.splRefuseMapV map
  let s := if s.spl.swapAt.isSome then s else setSwapState s 4
  deviceNotice s (mkNotice 0xFFFFFFFF 0 6 stSwapRefused 0 (map % 2 ^ 32) noPos 0 reason (cueNum s))

/-- A scheduled swap is withdrawn before its cue launches (R648). -/
def cancelSwap (s : State) : State :=
  match s.spl.swapAt with
  | some (n, _) =>
    if s.st < launchSt s n then (setSwapState s 0).onSpl fun p => { p with swapAt := none } else s
  | none => s

/-- The cue a REQ names: 0 is the next boundary. -/
def swapCue (s : State) : Nat :=
  let c := get s Fld.splSwapAtLoV + get s Fld.splSwapAtHiV * 2 ^ 32
  if c = 0 then nextCue s else c

/-- SWAP_REQ (R640, R664, and the refusal during a scene change). -/
def execSwapReq (fn : Fin 128) (v : Word) (s : State) : Host.Outcome State Fault Refusal :=
  .next (let off := Fld.splSwapCtlReq.off
    if fn.val ≠ 0 then s
    else
      let t := commandWord s 0 off v
      if !reaches s 0 off || !bit v 0 then t
      else
        let t := if bit v 1 then cancelSwap t else t
        let n := swapCue t
        if t.spl.scene.isSome || t.spl.passed.isSome then swapRefused t 5 0
        else if launchSt t n ≤ t.st ∧ get t Fld.splSwapAtLoV + get t Fld.splSwapAtHiV ≠ 0 then swapRefused t 4 0
        else (setSwapState t 1).onSpl fun p => { p with swapAt := some (n, fn.val) })

/-- SWAP_CANCEL (R648). -/
def execSwapCancel (v : Word) (s : State) : Host.Outcome State Fault Refusal :=
  .next (let off := Fld.splSwapCtlCancel.off
    let t := commandWord s 0 off v
    if reaches s 0 off && bit v 1 && !bit v 0 then cancelSwap t else t)

/-- Class S sections of the shadow that hold a field which breaks a rule (R185, R191, R584, R619 and the limits of the
register tables). -/
def rangeBad (s : State) : List Nat :=
  let g := get s
  let cut := g Fld.boxAdmitCtlCutoffUs * 1000
  let stages := List.range 12
  let swls := (List.range 0x1C0).filter swlExists
  (if decide (cut < 16000) || decide (get s Fld.cuePeriodNsV < 4 * cut) ||
      stages.any (fun i => g (Fld.stmCostDecV.ix i) = 0 || g (Fld.stmCostPfV.ix i) = 0) ||
      decide (g Fld.stmComposeDecGroup < 16) || decide (256 < g Fld.stmComposeDecGroup) ||
      decide (g Fld.stmComposePushMaxChunks < 1) || decide (16 < g Fld.stmComposePushMaxChunks) ||
      decide (g Fld.stmCastReadMax < g Fld.stmCastReadMin) || decide (48 < g Fld.stmCastReadMax) ||
      g Fld.stmCastRatePfPair = 0 || g Fld.stmCastRateDecPair = 0 ||
      decide (g Fld.stmReadyWmHigh ≤ g Fld.stmReadyWmLow) || decide (4 < g Fld.prmSpecDepthMax) then [0x10] else []) ++
    (if swls.any fun i => decide (g (Fld.swlWmHigh i) ≤ g (Fld.swlWmLow i)) ||
        decide (g (Fld.swlCfgDepth i) < g (Fld.swlWmHigh i)) then [0x13] else []) ++
    (if decide (g Fld.fabAbsentAbsentUs < 2) || decide (1000 < g Fld.fabAbsentAbsentUs) then [0x14] else []) ++
    (if decide (g Fld.lgtCapCapMw < 300000) || decide (900000 < g Fld.lgtCapCapMw) ||
        decide (g Fld.lgtThermHard ≤ g Fld.lgtThermSoft) then [0x15] else [])

/-- Every tenant's level is clipped to the burst in force (R154). -/
def clipLevels (s : State) : State :=
  s.onBox fun b => { b with levels := b.levels.filterMap fun x =>
    let v := min x.2 (getA s (Fld.boxTenBurstV.ix x.1) : Int)
    if v = 0 then none else some (x.1, v) }

/-- The scheduled swap at the boundary of cue `n` (R641 to R645, R647, R890). -/
def swapBoundary (s : State) (n : Nat) : State :=
  match s.spl.swapAt with
  | none => if get s Fld.splSwapStatusState = 2 ∧ s.spl.swapEnd ≤ s.st then set s Fld.splSwapStatusState 3 else s
  | some (c, fn) =>
    if n < c then (if get s Fld.splSwapStatusState = 2 ∧ s.spl.swapEnd ≤ s.st then set s Fld.splSwapStatusState 1 else s)
    else
      let s := s.onSpl fun p => { p with swapAt := none }
      let cls := (sectsDiffer s).filter fun id => sectionClass id ≠ 0
      let rng := rangeBad s
      let dirty := sealedMode s && isSet s Fld.splSwapStatusDirty
      let s := if dirty then audit s 1 fn false stSealedDenied 0x01200010 else s
      if !cls.isEmpty || !rng.isEmpty || dirty then
        swapRefused s (if !cls.isEmpty then 1 else if !rng.isEmpty then 2 else 3) (sectMap (cls ++ rng))
      else
        (set (set (clipLevels (shadowIn s)) Fld.splSwapStatusState 2) Fld.splSwapStatusReason 0).onSpl fun p =>
          { p with swapEnd := launchSt s n + 2000 }

/-! Scene changes (R652 to R662; Table SPL-5). -/

/-- The Company of the shadow's COMPANY section. -/
def shadowOwn (s : State) : Option CompanyInfo := s.spl.shadow.bind Plot.own

/-- This device is the shadow lead (R652). -/
def isShadowLead (s : State) : Bool := (shadowOwn s).any fun c => c.lead = some (selfDev s)

def shadowDevs (s : State) : List Nat := match shadowOwn s with | some c => c.members.map (·.dev) | none => []

/-- Members of Company `c` as the active set knows it. -/
def activeDevs (s : State) (c : Nat) : List Nat :=
  match s.spl.active.bind fun p => p.companyInfo c with | some i => i.members.map (·.dev) | none => []

def present (s : State) (d : Nat) : Bool := d = selfDev s || (topoOf s d).state = 1

def setScene (s : State) (st : Nat) : State := set s Fld.splSceneStatusState st

/-- A Company is marked Lost (R552, R661). -/
def markLost (s : State) (c : Nat) : State :=
  let s := s.onFab fun b => { b with lost := if c ∈ b.lost then b.lost else b.lost ++ [c] }
  (activeDevs s c).foldl (fun s d => putTopo s d { topoOf s d with lost := true }) s

/-- The Lost flag of a Company clears (R552, Table SPL-5). -/
def clearLost (s : State) (c : Nat) : State :=
  let s := (s.onFab fun b => { b with lost := b.lost.filter fun x => x ≠ c }).onUnd fun u => { u with
    lostDone := u.lostDone.filter fun x => x ≠ c }
  (activeDevs s c).foldl (fun s d => putTopo s d { topoOf s d with lost := false }) s

/-- The shadow lead's message to every old and new member of the Company. -/
def tellScene (s : State) (c : Scene) (outcome : Nat) : State :=
  tellDevs s (shadowDevs s ++ c.devs).dedup outcome c.company c.cue

/-- The devices of the House that the record shows present. -/
def allPresent (s : State) : List Nat := (List.range (houseSize s)).filter fun d => d ≠ selfDev s && (topoOf s d).state = 1

/-- A member is told of a scene change: its swap is withdrawn, and held RWS writes wait (R655, R665). The active lead stops at cue S and
abandons a snapshot in progress (R653, Table UND-6). A change that failed is over. -/
def sceneTold (s : State) (src outcome company cue : Nat) : State :=
  let mine := isLead s && decide (ownId s = company)
  if outcome = outScene then
    (cancelSwap (if mine then abandonSnap s else s)).onSpl fun p => { p with passed := some (company, cue, src) }
  else if s.spl.passed.any fun x => x.1 = company && x.2.2 = src then s.onSpl fun p => { p with passed := none }
  else s

/-- The shadow lead's word on the Company to the whole House: it is Lost (R661), or serves again and its Lost flag clears (R552). -/
def sceneEnds (s : State) (src company : Nat) (serves : Bool) : State :=
  let s := if s.spl.passed.any fun x => x.1 = company && x.2.2 = src then s.onSpl fun p => { p with passed := none } else s
  if serves then clearLost s company else markLost s company

/-- The scene change fails: the Company is Lost (R661). -/
def sceneFails (s : State) : State :=
  match s.spl.scene with
  | some c =>
    let s := tellScene (set (setScene s 5) Fld.splSceneStatusResult 7) c outSceneFails
    let s := tellDevs s (allPresent s) outLost c.company 1
    markLost ((s.onSpl fun p => { p with scene := none }).onUnd fun u => { u with sceneMan := none, sceneRead := false }) c.company
  | none => s

/-- A request refused before anything stops (R654). -/
def sceneRefused (s : State) (result : Nat) : State :=
  (set s Fld.splSceneStatusResult result).onSpl fun p => { p with scene := none }

/-- The first refusal of R654 among those found, in the order of its table. -/
def sceneVerdict (found : List Nat) : Option Nat := [3, 2, 4, 6].find? fun r => decide (r ∈ found)

/-- With every answer in, the request is refused or accepted; swaps of this member are withdrawn (R655). -/
def sceneDecide (s : State) : State :=
  match s.spl.scene with
  | none => s
  | some c =>
    if c.accepted || !c.asked.isEmpty then s
    else
      match sceneVerdict c.found with
      | some r => sceneRefused s r
      | none =>
        let s := setScene (set (set s Fld.splSceneStatusResult 0) Fld.splSceneStatusApplied 0) 1
        let s := tellScene (cancelSwap (abandonSnap s)) c outScene
        s.onSpl fun p => { p with scene := some { c with accepted := true } }

/-- An answer of a queried device, or its absence, arrives. -/
def sceneAnswer (s : State) (dev : Nat) (found : List Nat) : State :=
  match s.spl.scene with
  | some c =>
    if c.accepted = false ∧ dev ∈ c.asked then
      sceneDecide (s.onSpl fun p => { p with
        scene := some { c with asked := c.asked.erase dev, found := c.found ++ found } })
    else s
  | none => s

/-- What the STATUS of a SCENE_QUERY says (Table FAB-9): plan_id, a class P difference, another serving Company, another
block count; and, by its outcome byte, a swap SCHEDULED on the active lead (log entry 139). -/
def sceneStatus (s : State) (dev outcome value detail : Nat) : State :=
  sceneAnswer s dev ((if value ≠ get s Fld.splShadowIdV then [3] else []) ++ (if detail % 2 = 1 then [2] else []) ++
    (if detail / 2 % 2 = 1 ∨ detail / 4 % 2 = 1 then [4] else []) ++ (if outcome = 1 then [6] else []))

/-- Refusals this device can see by itself (R654). -/
def sceneLocal (s : State) (company n : Nat) : List Nat :=
  (if (sectsDiffer s).any (fun id => sectionClass id = 2) then [2] else []) ++
    (if (shadowDevs s).any (fun d => !present s d || (s.spl.active.any fun p => p.companies.any fun i =>
        decide (i.id ≠ company) && decide (i.id ∉ s.fab.lost) && i.members.any fun m => m.dev = d)) then [4] else []) ++
    (if s.spl.swapAt.isSome || decide (n < s.stm.nextComp) || decide (composeSt s n ≤ s.st) then [6] else [])

/-- The cue S of a request: 0 is the next cue whose composition has not begun (R652). -/
def sceneCue (s : State) : Nat :=
  let c := get s Fld.splSceneAtLoV + get s Fld.splSceneAtHiV * 2 ^ 32
  let n := nextCue s
  if c ≠ 0 then c else if s.stm.nextComp ≤ n ∧ s.st < composeSt s n then n else n + 1

/-- block_bytes, pool base and pool blocks in force. -/
def poolLayout (s : State) : List Nat :=
  match s.spl.active with | some p => [p.blockBytes, p.poolBase, p.poolBlocks] | none => []

/-- SCENE_START (R652 to R656, R663). -/
def execSceneStart (v : Word) (s : State) : Host.Outcome State Fault Refusal :=
  .next (let off := Fld.splSceneCtlStart.off
    let t := commandWord s 0 off v
    if !reaches s 0 off || !bit v 0 then t
    else if !isShadowLead t then set t Fld.splSceneStatusResult 5
    else if t.spl.scene.isSome then set t Fld.splSceneStatusResult 6
    else
      match shadowOwn t with
      | none => t
      | some co =>
        let t := if get t Fld.splSceneStatusState = 5 then setScene t 0 else t
        let n := sceneCue t
        let all := ((shadowDevs t ++ activeDevs t co.id).dedup.filter fun d => d ≠ selfDev t && present t d)
        let lead := (t.spl.active.bind fun p => p.companyInfo co.id).bind CompanyInfo.lead
        let c : Scene := ⟨co.id, n, t.st, all, [], false, sceneLocal t co.id n,
          lead.any (fun d => d ≠ selfDev t && present t d && decide (co.id ∉ t.fab.lost)), activeDevs t co.id, poolLayout t, []⟩
        let t := t.onSpl fun p => { p with scene := some c }
        let body := leBytes 16 (place 0 32 (get t Fld.splShadowIdV) + place 32 16 co.id)
        let t := all.foldl (fun t d =>
          if requestFails t d then sceneAnswer t d (if d ∈ shadowDevs t then [4] else [])
          else
            let (tag, t) := takeTag t
            request t 0x14 d tag body) t
        sceneDecide t)

/-- SCENE_QUERY (R654, Table FAB-9): this device's shadow plan and differences. Another serving Company is one that is
neither the queried one nor Lost. What the answering device compares its block count with is not stated: that bit is a free
value. -/
def execSceneQuery (src : Fin 1024) (tag : BitVec 16) (plan : Word) (company : Nat) (s : State) :
    Host.Outcome State Fault Refusal :=
  .next (let _ := plan
    let other := (ownCompany s).any fun c => decide (c.id ≠ company) && decide (c.id ∉ s.fab.lost)
    let d := b2n ((sectsDiffer s).any fun id => sectionClass id = 2) + 2 * b2n other +
      4 * (fresh s % 2)
    let busy := isLead s && decide (ownId s = company) && s.spl.swapAt.isSome
    reply (advance s) 0x20 src.val tag.toNat (topoOf s src.val).epoch (statusBody 0 (b2n busy) (get s Fld.splShadowIdV) d))

/-- Registers that show class D settings of a set (R249, R278, R332, R466, R679, R380). -/
def plotRegsD (s : State) (p : Plot) : State :=
  let s := set (set (set s Fld.plyLoftPartW p.wGran) Fld.plyLoftPartC p.cGran) Fld.plyLoftPartA (94 - p.wGran - p.cGran)
  let own := p.own
  let me := p.self
  let s := set s Fld.plyModeExact (b2n (own.any (·.exact)))
  let s := set s Fld.stmCtlLead (b2n p.isLead)
  let last := match own, me with | some c, some m => m.stage = c.last | _, _ => false
  let model := own.bind fun c => p.model c.model
  let s := set (set s Fld.prmShardBaseV (if last then p.shardBase else 0)) Fld.prmShardGeomWidth
    (if last then p.shardWidth else 0)
  let s := set (set s Fld.prmShardGeomRank (match me with | some m => m.rank | none => 0)) Fld.prmShardGeomRanks
    (match own with | some c => c.ranks | none => 0)
  let s := set (set s Fld.prmShardGeomLast (b2n last)) Fld.prmVocabV (match model with | some m => m.vocab | none => 0)
  let s := set s Fld.prmSpecHeads (match model with | some m => m.heads | none => 0)
  let s := set (set s Fld.mdwLayoutPoolBlocks p.poolBlocks) Fld.mdwBlockBytesV p.blockBytes
  let s := set (set s Fld.mdwPoolBaseLoV p.poolBase) Fld.mdwPoolBaseHiV (p.poolBase / 2 ^ 32)
  set s Fld.undBuddyBuddy p.buddy

/-- Boot TARGETs (R635). -/
def bootTargets (s : State) (p : Plot) : State :=
  p.targets.zipIdx.foldl (fun s x => if x.2 < 64 then set s (Fld.lgtDomCtlTarget x.2) x.1 else s) s

/-- Weights are loaded anew, from a weight copy or the host (R257, R658, R706): the bytes and their digest are free values (log entry
164). -/
def reloadWeights (s : State) : State :=
  let n := 96 * wGran s * 0x10000
  let s := (List.range n).foldl (fun t i => writeByte t (physOf (weightBase + i)) (BitVec.ofNat 8 (freshAt s i))) s
  let d := freshAt s n
  let s := set (set (skipFree s (n + 1)) Fld.plyWloadStatusState 3) Fld.undBuddyWcopyValid 0
  (List.range 12).foldl (fun s i => set s (Fld.plyWdigestV i) (d / 2 ^ (32 * i))) s

/-- The new set gives this device other weights or another weight region: another model, stage, rank or layers, or another W (R658). -/
def weightsMove (old : Option Plot) (p : Plot) : Bool :=
  match old with
  | none => true
  | some o =>
    let place (x : Plot) : Option (Nat × Nat) × Option (Option ModelInfo × Nat) × List (Nat × Nat) :=
      (x.self.map fun m => (m.stage, m.rank), x.own.map fun c => (x.model c.model, c.ranks), x.stageLayers)
    o.wGran ≠ p.wGran || place o ≠ place p

/-- This member makes its shadow active and does what the changed sections require (R658). -/
def applyShadow (s : State) : State :=
  match s.spl.shadow with
  | none => s
  | some p =>
    let diff := sectsDiffer s
    let old := s.spl.active
    let s := bootTargets (plotRegsD (shadowIn s) p) p
    let s := if 0x0B ∈ diff then (List.range 96).foldl loadSheets s else s
    let s := if weightsMove old p then reloadWeights s else s
    -- Costume regions that move hold nothing; their versions become resident again as compositions ask
    let s := if 0x09 ∈ diff then s.onWdr fun w => { w with
        vers := w.vers.map fun v => { v with resident := false, loft := [], residents := [] } } else s
    -- Troupes and roles follow the new LOFT section (R293)
    let s := castRoles s (get s Fld.stmCastStatusReading)
    s.onMdw fun m => { m with cached := [] }

/-- The restart needs the cut's shards: the Calls come from another lead, or the members or the pool changed (R653, R659). -/
def restartReads (s : State) (c : Scene) : Bool :=
  s.und.sceneMan.isSome && (c.other || memberDevs s ≠ c.devs || poolLayout s ≠ c.layout)

/-- They are read from their holders. -/
def readCut (s : State) (c : Scene) : State :=
  match s.und.sceneMan with
  | some m =>
    if restartReads s c && s.und.restoring.isNone && !s.und.sceneRead then
      tryManifest 2 (s.onUnd fun u => { u with sceneRead := true, restoring := some c.company, tries := [m] })
    else s
  | none => s

/-- A member's APPLIED reaches the shadow lead (Table SPL-5). -/
def leadApplied (s : State) (src : Nat) : State :=
  match s.spl.scene with
  | some c =>
    if get s Fld.splSceneStatusState ≠ 3 ∨ src ∉ shadowDevs s ∨ src ∈ c.applied then s
    else
      let c := { c with applied := c.applied ++ [src] }
      let s := set (s.onSpl fun p => { p with scene := some c }) Fld.splSceneStatusApplied (min 255 c.applied.length)
      if (shadowDevs s).all (fun d => decide (d ∈ c.applied)) then readCut (setScene s 4) c else s
  | none => s

/-- APPLY_DONE (R635, R658, R706): at the shadow lead while it applies; at any other device when it has been told to apply. -/
def execApplyDone (s : State) : Host.Outcome State Fault Refusal :=
  .next (match s.spl.scene with
    | some c =>
      if c.accepted = true ∧ get s Fld.splSceneStatusState = 3 then leadApplied (applyShadow s) (selfDev s) else s
    | none =>
      match shadowOwn s with
      | some co =>
        let s := applyShadow s
        -- a lead that the new configuration makes none lets its Call Board go (R653)
        let s := if isLead s then s else s.onStm fun m => { m with board := [], sent := [] }
        match co.lead with
        | some l => if l = selfDev s then s else send s 0x36 l (reportBody 6 co.id (cueNum s) 0xFFFF 0)
        | none => s
      | none => applyShadow s)

/-- APPLIED (R656). -/
def execApplied (src : Fin 1024) (company : Nat) (s : State) : Host.Outcome State Fault Refusal :=
  .next (if s.spl.scene.any fun c => c.company = company then leadApplied s src.val else s)

/-- SCENE_TIMEOUT (R656, R661). -/
def execSceneTimeout (s : State) : Host.Outcome State Fault Refusal :=
  .next (match s.spl.scene with
    | some c =>
      if c.accepted then
        sceneFails (s.setSt (max s.st (c.startSt + max 1 (get s Fld.splSceneTimeoutMs) * 1000000)))
      else s
    | none => s)

/-- A device named in the scene change becomes ABSENT or EXITING: a query of it fails, an accepted change ends in FAILED
(R654, R656). -/
def sceneGone (s : State) (d : Nat) : State :=
  match s.spl.scene with
  | some c =>
    let named := decide (d ∈ shadowDevs s) || decide (d ∈ c.devs)
    if c.accepted then (if named then sceneFails s else s)
    else sceneAnswer s d (if d ∈ shadowDevs s then [4] else [])
  | none => s

/-- The restored Call of a restart (R657, R659): no listing is outstanding, and it is listed again at depth 0. -/
def restartCall (c : Call) : Call :=
  { c with
    credits := min 64 (c.credits + (c.listed.map (·.need)).sum), listed := [], ctxDue := true, depth0 := true
    guesses := [], frameDue := false }

/-- The new configuration does not hold what a Call needs (R660), or its Heath entries cannot stay (R707). -/
def restartEnds (s : State) (c : Scene) (x : Call) : Bool :=
  let noVer := match x.costume with
    | some (id, v) => !(s.wdr.vers.any fun y => y.tenant = x.tenant && y.id = id && y.ver = v)
    | none => false
  -- a bound image, withdrawn or not, is held; a Call not yet bound meets an absent image at its first sampled position (R371, R403)
  let noImg (id : Nat) (stop : Bool) : Bool := decide (id ≠ 0) && decide (0 < x.gen) && (heldImage s id stop).isNone
  let same := decide (memberDevs s = c.devs) && (poolLayout s).head? = c.layout.head?
  !((ownCompany s).any fun i => i.model = cardModel x.card) || noVer || noImg (cardScript x.card) false ||
    noImg (cardStopSet x.card) true || (x.phase = .paused && !same)

/-- With another pool every Call draws its blocks anew, lower slots first, and its table goes out again (R659). Handles and
cached prefixes of the old pool go. -/
def rebuildPool (s : State) (n : Nat) : State :=
  let s := s.onMdw fun m => { m with blocks := [], handles := [] }
  (sortBy (·.slot) s.stm.board).foldl (fun s c =>
    let (bs, s) := drawBlocks s c.seq c.blocks.length
    let s := onCall s c.slot fun c => { c with blocks := bs.map (fun b => (b, false)), hashed := 2 ^ 40 }
    announceBlocks s c.slot n (bs.map fun b => (b, false)) 0) s

/-- The submitting device's entry follows a Call to its new lead, with the tag under which its end is reported; no Line is withdrawn and no
Notice raised (R659; log entry 139). The flag tells that the Call has ended there. -/
def leadMoves (s : State) (fn callId company lead tag : Nat) : State × Bool :=
  match entOf s fn callId with
  | none => (s, true)
  | some e =>
    if e.finalN.isSome || e.finalWritten then (s, true)
    else (forwardReady (onEnt s fn callId fun e => { e with company := company, lead := lead, tag := tag }), false)

/-- A Call that its submitting device has let go is gone from this lead too. -/
def callGone (s : State) (fn callId src : Nat) : State :=
  match s.stm.board.find? fun c => c.src = src && c.fn = fn && c.callId = callId with
  | some c =>
    let s := s.onStm fun m => { m with board := m.board.filter fun x => x.slot ≠ c.slot }
    announceTable (sweepBlocks s) (mkTableClear c.slot (cueNum s % 65536))
  | none => s

/-- The new lead of a Call tells its submitting device, or the answer that the Call has ended (log entry 139). -/
def leadTold (s : State) (src callId detail : Nat) : State :=
  let (t, ended) := leadMoves s (detail % 128) callId (detail / 2 ^ 23 % 2 ^ 16) src (detail / 128 % 65536)
  if ended then tellDevs t [src] outGone callId (detail % 128) else t

/-- A Call of the cut that the new configuration does not hold ends at its submitting device (R660). -/
def restartEnd (s : State) (r : Rec) : State :=
  if r.src = selfDev s then endLostHere s r.fn (cardCallId r.card)
  else reply s 0x20 r.src lostTag (topoOf s r.src).epoch (statusBody stCompanyLost 0 (cardCallId r.card) r.fn)

/-- A Call of the cut comes to this lead, which was not the active lead: it keeps its positions and is listed again at depth 0 (R653, R659). One
that the new configuration does not hold ends (R660), as does a paused one whose Heath entries cannot stay (R707). -/
def restartTake (same : Bool) (imgs : List (Nat × Nat × Nat × Nat × List Byte)) (s : State) (r : Rec) : State :=
  let id := cardCallId r.card
  let (tag, s) := takeTag s
  if r.state = 4 ∧ same = false then restartEnd s r
  else
  match takeIn s imgs tag r with
  | none => restartEnd s r
  | some (slot, s) =>
    let s := onCall s slot fun c =>
      if r.state = 4 then { c with restoring := false, phase := .paused, heath := .inHeath } else { c with restoring := false }
    if r.src = selfDev s then
      let (s, ended) := leadMoves s r.fn id (ownId s) (selfDev s) tag
      if ended then callGone s r.fn id r.src else s
    else tellDevs s [r.src] outLead id (r.fn + 128 * tag + 2 ^ 23 * ownId s)

/-- Calls of the board as the restore of their records' blocks (R659). -/
def restartRests (s : State) (rs : List Rec) : List Rest :=
  rs.filterMap fun r =>
    (s.stm.board.find? fun c => c.src = r.src && c.fn = r.fn && c.callId = cardCallId r.card).map fun c =>
      ⟨c.slot, 65536, true, true, r.blocks⟩

/-- The Calls restart: ended ones go, the others are listed again, with their cache re-sliced from the cut when it was read (R659, R660). -/
def restartCalls (s : State) (n : Nat) (c : Scene) : State :=
  let (rs, imgs) := gotRecs s
  let keep := s.und.restore
  let same := decide (memberDevs s = c.devs) && (poolLayout s).head? = c.layout.head?
  let s := if c.other then rs.foldl (restartTake same imgs) s
    else
      let s := (s.stm.board.filter (restartEnds s c)).foldl (fun s x => endCall s x.slot stCompanyLost) s
      if poolLayout s = c.layout then s else rebuildPool s n
  let s := match s.und.sceneMan with
    | some m => if s.und.sceneRead then
        fillOwn (s.onUnd fun u => { u with restore := restartRests s rs }) m else s
    | none => s
  let s := s.onUnd fun u => { u with restore := keep }
  let s := s.onStm fun m => { m with board := m.board.map restartCall, started := false }
  if s.und.sceneRead then endReads s else s.onUnd fun u => { u with sceneMan := none }

/-- RESTARTING at the boundary of cue `n` (R552, R659, R660; Table SPL-5). Where the cut has to be read, the restart waits for its shards; a
shard that failed fails the change (R694; log entry 173). -/
def sceneRestart (s : State) (n : Nat) (c : Scene) : State :=
  if restartReads s c && !s.und.sceneRead then readCut s c
  else if s.und.sceneRead && !s.und.reads.isEmpty then s
  else if s.und.sceneRead && s.und.got.isEmpty then sceneFails s
  else
    let s := restartCalls (s.onSpl fun p => { p with scene := none }) n c
    tellDevs (clearLost (set (setScene s 0) Fld.splSceneStatusResult 1) c.company) (allPresent s) outServes c.company 0

/-- A scene change at the boundary of cue `n`: the cut after the census at L(S + 1), empty where the active lead is absent or
the Company is Lost, and the restart (R653, R656, R705). -/
def sceneBoundary (s : State) (n : Nat) : State :=
  match s.spl.scene with
  | none => s
  | some c =>
    let st := get s Fld.splSceneStatusState
    if st = 1 ∧ c.cue + 1 ≤ n then
      let s := setScene s 2
      if c.other then s
      else if isLead s ∧ ownId s = c.company ∧ c.company ∉ s.fab.lost then s
      else setScene s 3
    else if st = 4 then sceneRestart s n c
    else s

end Sys2Proof.Machine
end

