-- ==== Sys2Proof/Machine/PromptBook.lean ====
section
/-!
DEFINITION. The Prompt Book (spec/18_prompt_book.md): frames and capsules, and replays; the commands REPLAY_GO and
REPLAY_ABORT.
-/
namespace Sys2Proof.Machine

/-! Records (Tables PBK-1, PBK-2). -/

def bkKind (r : BookRec) : Nat := bits r 0 8
def bkTenant (r : BookRec) : Option Nat := if bit r 8 then none else some (bits r 16 12)
def bkCue (r : BookRec) : Nat := bits r 32 48
def bkSeq (r : BookRec) : Nat := bits r 96 32

/-- Payload bits. -/
def bkPay (r : BookRec) (lo w : Nat) : Nat := bits r (192 + lo) w

/-- Payload fields of a kind: first bit and width; BUDGET and PROMPT have as many values as their count says. -/
def bkFields (r : BookRec) : List (Nat × Nat) :=
  match bkKind r with
  | 1 => [(0, 64), (64, 32), (96, 8), (112, 16), (128, 16), (144, 128)]
  | 2 => [(0, 8), (8, 8), (32, 32 * min 9 (bkPay r 8 8))]
  | 3 => [(0, 16), (16, 8), (24, 8), (32, 32), (64, 8), (80, 16), (96, 48)]
  | 4 => [(0, 8), (64, 256)]
  | 5 => [(0, 8), (64, 32 * min 8 (bkPay r 0 8))]
  | 6 => [(0, 32), (64, 256)]
  | 7 => [(0, 32), (32, 16), (64, 64)]
  | 8 => [(0, 32), (32, 16), (48, 8), (56, 8), (64, 48)]
  | 9 => [(0, 32)]
  | 10 => [(0, 16), (16, 8), (32, 8)]
  | 11 => [(0, 16)]
  | 12 => [(0, 32), (32, 16), (48, 8)]
  | 13 => [(0, 16), (16, 8), (32, 32), (64, 16)]
  | 14 => [(0, 48), (64, 32), (96, 128)]
  | 15 => [(0, 32)]
  | 16 => [(0, 32), (32, 32)]
  | _ => []

/-- A kind outside 0x01 to 0x10, or a reserved bit set (R716). -/
def bkBad (r : BookRec) : Bool :=
  bkKind r = 0 || decide (16 < bkKind r) || bits r 9 7 ≠ 0 || bits r 28 4 ≠ 0 || bits r 80 16 ≠ 0 ||
    (bit r 8 && bits r 16 12 ≠ 0) || bkPay r 0 320 ≠ ((bkFields r).map fun f => place f.1 f.2 (bkPay r f.1 f.2)).sum

/-! Frames and capsules (R717 to R722; Tables PBK-3, PBK-4). -/

/-- Bytes 0x06 to 0x0F of the capsule header. -/
def capTail (s : State) (seq : Nat) : List Byte := leBytes 2 (ownId s) ++ leBytes 2 (selfDev s) ++ leBytes 2 0 ++ leBytes 4 seq

/-- The header of a closed capsule. -/
def capHeader (s : State) (seq start stop : Nat) : List Byte :=
  leBytes 4 0x434B4250 ++ leBytes 1 1 ++
    leBytes 1 (get s Fld.pbkStatusReplayable + 2 * get s Fld.pbkCtlDigest) ++ capTail s seq ++ leBytes 8 start ++
    leBytes 8 stop ++ leBytes 4 (get s Fld.splActiveIdV) ++ List.replicate 28 0

/-- A frame: header with its tag, and ciphertext (R719). -/
def sealFrame (s : State) (seq : Nat) (f : Option Nat × List BookRec) : List Byte × State :=
  let (c, s) := takeIv s
  let iv := ivOf s c
  let h := leBytes 2 (f.1.getD 0xFFFF) ++ leBytes 2 f.2.length ++ leBytes 12 iv
  let key := match f.1 with | none => ckptKey s | some t => (tenantKey s t).getD 0
  let (ct, tag) := Config.gcmSeal key iv (f.2.map wireBytes).flatten (h ++ List.replicate 16 0 ++ capTail s seq)
  (h ++ leBytes 16 tag ++ ct, s)

def sealFrames (s : State) (seq : Nat) (fs : List (Option Nat × List BookRec)) : List Byte × State :=
  fs.foldl (fun (a : List Byte × State) f => let (b, s) := sealFrame a.2 seq f; (a.1 ++ b, s)) ([], s)

/-- Tenants of a run of records, in order of first appearance; `none` is the House. -/
def bkTenants (rs : List BookRec) : List (Option Nat) :=
  rs.foldl (fun acc r => if bkTenant r ∈ acc then acc else acc ++ [bkTenant r]) []

/-- Frames of a run of records: one tenant each, at most 64 records, in order of their first records. -/
def framesOf (rs : List BookRec) : List (Option Nat × List BookRec) :=
  let fs := ((bkTenants rs).map fun t =>
    (pieces 64 (rs.length + 1) (rs.filter fun r => bkTenant r = t)).map fun p => (t, p)).flatten
  sortBy (fun f => (findIdx (fun r => f.2.head? = some r) rs).getD 0) fs

/-- Pages of the area not yet written and behind HEAD (R720; log entry 24). -/
def areaRoom (s : State) : Nat :=
  let p := get s Fld.pbkAreaSizeV
  (get s Fld.pbkAreaHeadV + p - get s Fld.pbkAreaTailV) % p

/-- Write bytes to the capsule area at an offset, around the end of the ring. -/
def areaWrite (s : State) (off : Nat) (bs : List Byte) : State :=
  let size := 4096 * get s Fld.pbkAreaSizeV
  let base := get s Fld.pbkAreaBaseLoV + get s Fld.pbkAreaBaseHiV * 2 ^ 32
  let o := off % size
  let (a, b) := bs.splitAt (size - o)
  s.onOut fun x => { x with host := x.host ++ [(base + o, a)] ++ (if b.isEmpty then [] else [(base, b)]) }

/-- Extend the capsule in progress by `n` bytes when the pages they reach are free. -/
def capRoom (s : State) (n : Nat) : Bool :=
  !s.hiu.hostLost &&
    decide (ceilDiv (max 64 s.pbk.capLen + n) 4096 - ceilDiv s.pbk.capLen 4096 ≤ areaRoom s)

/-- Append bytes to the capsule in progress. -/
def capPut (s : State) (bs : List Byte) : State :=
  let at' := max 64 s.pbk.capLen
  let s := areaWrite s (4096 * s.pbk.capPage + at') bs
  let s := s.onPbk fun b => { b with capLen := at' + bs.length }
  set s Fld.pbkAreaTailV ((s.pbk.capPage + ceilDiv s.pbk.capLen 4096) % max 1 (get s Fld.pbkAreaSizeV))

/-- Bytes of the frames of some records. -/
def frameLen (rs : List BookRec) : Nat := ((framesOf rs).map fun f => 32 + 64 * f.2.length).sum

/-- Records whose tenant has no key slot are lost, and all of them while the Stage Door is in ERROR (R721, R749, R764). -/
def noKey (s : State) (r : BookRec) : Bool :=
  match bkTenant r with | some t => (tenantKey s t).isNone | none => !cryptoOn s

/-- Close the frames of `rs` into the capsule in progress. Without room the records stay and the area reads STALLED. -/
def closeFrames (s : State) (rs : List BookRec) : State :=
  let gone := rs.filter (noKey s)
  let good := rs.filter fun r => !noKey s r
  if !s.pbk.capOpen then s.onPbk fun b => { b with recs := b.recs.filter fun r => decide (r ∉ rs) }
  else if good.isEmpty ∧ gone.isEmpty then s
  else if !capRoom s (frameLen good) then set s Fld.pbkStatusStalled 1
  else
    let (bs, s) := sealFrames (set s Fld.pbkStatusStalled 0) s.pbk.capSeq (framesOf good)
    let s := if gone.isEmpty then s else set s Fld.pbkStatusReplayable 0
    (capPut s bs).onPbk fun b => { b with
      recs := b.recs.filter fun r => decide (r ∉ rs), capCount := b.capCount + good.length, lost := b.lost + gone.length }

/-- The capsule in progress ends at the cut of cue `n`: SEAL, then the header (R718, R720). Where the area is full it ends
without them. -/
def closeCapsule (s : State) (n : Nat) : State :=
  if !s.pbk.capOpen then s
  else if !capRoom s 96 then (set s Fld.pbkStatusStalled 1).onPbk fun b => { b with capOpen := false }
  else
    let seq := get s Fld.pbkSeqV
    let r := mkBook n 16 none s.st seq (place 0 32 (s.pbk.capCount + 1) + place 32 32 seq)
    let (bs, s) := sealFrames (set s Fld.pbkSeqV (seq + 1)) s.pbk.capSeq [(none, [r])]
    let s := capPut s bs
    let s := areaWrite s (4096 * s.pbk.capPage) (capHeader s s.pbk.capSeq s.pbk.capStart n)
    (inc s Fld.pbkStatusCapsules 1).onPbk fun b => { b with capOpen := false }

/-- The output capsule of a replay takes pages of the area while no capsule is in progress (R732). -/
def putEmit (s : State) : State :=
  if !s.pbk.emitDue || s.pbk.capOpen then s
  else
    let rs := s.pbk.emit
    let cue (r : Option BookRec) : Nat := match r with | some r => bkCue r | none => 0
    let t := s.onPbk fun b => { b with capPage := get s Fld.pbkAreaTailV, capLen := 0 }
    if !capRoom t (frameLen rs) then s
    else
      let (bs, t) := sealFrames t 0 (framesOf rs)
      let t := capPut t bs
      let t := areaWrite t (4096 * t.pbk.capPage) (capHeader t 0 (cue rs.head?) (cue rs.getLast? + 1))
      t.onPbk fun b => { b with emit := [], emitDue := false }

/-- A capsule begins at the cut of cue `n` with the snapshot sequence number of the SNAP message (R718, R722). -/
def openCapsule (s : State) (n : Nat) : State :=
  let s := putEmit s
  (set s Fld.pbkStatusReplayable 1).onPbk fun b => { b with
    capOpen := true, capSeq := s.und.snapSeq, capStart := n, capPage := get s Fld.pbkAreaTailV, capLen := 0, capCount := 0 }

/-- A LOSS record once the capture Swale has room (R721). -/
def bookLoss (s : State) : State :=
  if s.pbk.lost = 0 ∨ 16384 ≤ s.pbk.recs.length then s
  else book (s.onPbk fun b => { b with lost := 0 }) 15 none (min s.pbk.lost (2 ^ 32 - 1))

/-- First 16 bytes of the digest of the results of a listing cue, in slot and position order, and their number. -/
def linesDigest (s : State) (cue : Nat) : Nat × Nat :=
  let rs := sortBy (fun r => r.2.1 * 2 ^ 20 + r.2.2.1) (s.stm.results.filter fun r => r.1 = cue)
  let d := Config.sha384 ((rs.map fun r => leBytes 4 r.2.1 ++ leBytes 4 r.2.2.1 ++ leBytes 4 r.2.2.2.1 ++
    leBytes 4 r.2.2.2.2)).flatten
  (rs.length, ofLeBytes ((beBytes 48 d).take 16))

/-- The Prompt Book at L(n): the LINES record of listing cue n − 2 (R714), every frame closed (R717), and with `cut` the end
of one capsule and the start of the next. Records of cue `n` belong to the capsule that starts there. -/
def bookBoundary (s : State) (n : Nat) (cut : Bool) : State :=
  if !isSet s Fld.pbkCtlEn then s
  else
    let s := if isLead s && decide (2 ≤ n) then
        let (k, d) := linesDigest s (n - 2)
        bookAt s n 14 none (place 0 48 (n - 2) + place 64 32 k + d * 2 ^ 96)
      else s
    let s := if cut then
        let s := closeFrames s (s.pbk.recs.filter fun r => decide (bkCue r < n))
        let s := openCapsule (closeCapsule s n) n
        let left := s.pbk.recs.filter fun r => decide (bkCue r < n)
        -- records the full area never took are lost with the capsule they belong to
        if left.isEmpty then s
        else s.onPbk fun b => { b with recs := b.recs.filter fun r => decide (n ≤ bkCue r), lost := b.lost + left.length }
      else s
    bookLoss (wmUpdate (closeFrames s s.pbk.recs) 0xA1)

/-! Replays: reading a chain (R724, R725; Table PBK-7). -/

/-- Frames of a capsule at an address: its records, the address after them, and whether it is sealed; none when a tag
fails. -/
def readFrames (s : State) (tail : List Byte) : Nat → Nat → Option (List BookRec × Nat × Bool)
  | 0, a => some ([], a, false)
  | fuel + 1, a =>
    let n := readLe s (a + 2) 2
    if n = 0 ∨ 64 < n then some ([], a, false)
    else
      let t := readLe s a 2
      let key := if t = 0xFFFF then ckptKey s else (tenantKey s t).getD 0
      match Config.gcmOpen key (readLe s (a + 4) 12) (readBytes s (a + 32) (64 * n))
          (readBytes s a 16 ++ List.replicate 16 0 ++ tail) (readLe s (a + 16) 16) with
      | none => none
      | some bs =>
        let rs := (List.range n).map fun i => BitVec.ofNat 512 (fieldAt bs (64 * i) 64)
        if rs.any fun r => bkKind r = 16 then some (rs, a + 32 + 64 * n, true)
        else (readFrames s tail fuel (a + 32 + 64 * n)).map fun x => (rs ++ x.1, x.2.1, x.2.2)

/-- Records in the order of their sequence numbers. -/
def inOrder (rs : List BookRec) : List BookRec :=
  match rs.head? with
  | some r0 => sortBy (fun r => (bkSeq r + 2 ^ 32 - bkSeq r0) % 2 ^ 32) rs
  | none => []

/-- The capsules of a chain at an address: `seq` is the snapshot of the first one, `start` the end of the one before. The
last one may lack its header (R734). -/
def readChain (s : State) (company : Nat) : Nat → Nat → Option Nat → Option Nat → Option (List BookRec)
  | 0, _, _, _ => some []
  | k + 1, a, seq, start =>
    let magic := readLe s a 4 = 0x434B4250 && readLe s (a + 4) 1 = 1
    if !magic && k = 0 && seq.isNone then some []
    else if !magic || readLe s (a + 6) 2 ≠ company || (seq.any fun x => readLe s (a + 12) 4 ≠ x) ||
        (start.any fun x => readLe s (a + 0x10) 8 ≠ x) then none
    else
      match readFrames s (readBytes s (a + 6) 10) ((match s.spl.active with | some p => p.stagingLen | none => 0) / 96 + 1)
          (a + 64) with
      | none => none
      | some (rs, e, sealed) =>
        if rs.any bkBad || (!sealed && k ≠ 0) then none
        else (readChain s company k e none (some (readLe s (a + 0x18) 8))).map fun l => inOrder rs ++ l

/-- Prompts of a supply, `n` of them. -/
def readPrompts (s : State) : Nat → Nat → List (List Nat)
  | 0, _ => []
  | n + 1, a =>
    let k := readLe s a 4
    (List.range k).map (fun i => readLe s (a + 4 + 4 * i) 4) :: readPrompts s n (a + 4 + 4 * k)

/-- The prompts that the digests of the chain need; none when the supply is missing, malformed or short (R723, R725). -/
def supplyFor (s : State) (rs : List BookRec) : Option (List (List Nat)) :=
  let need := (rs.filter fun r => bkKind r = 6).length
  let a := get s Fld.pbkCapsLoV + get s Fld.pbkCapsHiV * 2 ^ 32 + get s Fld.pbkPromptsV
  if get s Fld.pbkPromptsV = 0 then (if need = 0 then some [] else none)
  else if readLe s a 4 ≠ 0x504B4250 ∨ readLe s (a + 4) 1 ≠ 1 ∨ readLe s (a + 5) 3 ≠ 0 ∨ readLe s (a + 12) 4 ≠ 0 ∨
      readLe s (a + 8) 4 < need then none
  else some (readPrompts s need (a + 16))

/-! Replays: the end (R727, R731). -/

/-- A replay ends with a result; no Call is kept. -/
def endReplay (s : State) (result : Nat) : State :=
  let slots := s.stm.board.map (·.slot)
  let s := slots.foldl (fun s x =>
    announceTable (dropHeath (s.onStm fun m => { m with board := m.board.filter fun c => c.slot ≠ x }) x)
      (mkTableClear x (cueNum s % 65536))) s
  let s := set (set (sweepBlocks s) Fld.pbkReplayStatusState 3) Fld.pbkReplayStatusResult result
  let s := s.onPbk fun b => { b with replay := [], prompts := [], cues := [], emitDue := !b.emit.isEmpty }
  putEmit (endReads s)

/-- REPLAY_GO (R716, R723 to R727, R736). -/
def execReplayGo (v : Word) (s : State) : Host.Outcome State Fault Refusal :=
  .next (let off := Fld.pbkReplayCtlGo.off
    let t := commandWord s 0 off v
    let finish (t : State) (r : Nat) : State := set (set t Fld.pbkReplayStatusState 3) Fld.pbkReplayStatusResult r
    if !reaches s 0 off || !bit v 0 then t
    else if !isLead t then set t Fld.pbkReplayStatusResult 8
    else if replaying t then t
    else
      let t := set (set (set t Fld.pbkReplayStatusResult 0) Fld.pbkReplayStatusListDiff 0) Fld.pbkReplayStatusLineDiff 0
      let a := get t Fld.pbkMnftLoV + get t Fld.pbkMnftHiV * 2 ^ 32
      match parseManifest (readBytes t a (224 + 96 * min 1024 (readLe t (a + 0x28) 4))) with
      | none => finish t 5
      | some m =>
        let model := match ownCompany t with | some c => c.model | none => 0
        if !t.stm.board.isEmpty ∨ m.model ≠ model ∨ fieldAt m.raw 5 1 ≠ get t Fld.plyModeExact then
          set t Fld.pbkReplayStatusResult 6
        else
          let n := get t Fld.pbkNcapsN
          let chain := if n = 0 ∨ 8 < n ∨ manifestSigned m = false then none
            else readChain t m.company n (get t Fld.pbkCapsLoV + get t Fld.pbkCapsHiV * 2 ^ 32) (some m.snapSeq) none
          match chain.bind fun rs => (supplyFor t rs).map fun ps => (rs, ps) with
          | none => finish t 5
          | some (rs, ps) =>
            let t := (set t Fld.pbkReplayStatusState 1).onPbk fun b => { b with
              replay := rs, prompts := ps, cues := [], company := m.company, emit := [], emitDue := false }
            tryManifest 2 (t.onUnd fun u => { u with tries := [m] }))

/-- REPLAY_ABORT (R736). -/
def execReplayAbort (v : Word) (s : State) : Host.Outcome State Fault Refusal :=
  .next (let off := Fld.pbkReplayCtlAbort.off
    let t := commandWord s 0 off v
    if reaches s 0 off && bit v 1 && replaying t then endReplay t 9 else t)

/-! Replays: one recorded cue per cue (R728 to R731, R735). -/

/-- What a replay still has to do with the records at hand: the state, and the result it ends with, if it does. -/
abbrev RStep := State × Option Nat

/-- A CARD record with its card, prompt and seed: the state without those records, and a result when a supplied prompt does
not match. -/
def gatherCard (s : State) (r : BookRec) : State × Card × List Nat × Nat × Option Nat :=
  let rs := s.pbk.replay
  let mine (x : BookRec) : Bool := bkTenant x = bkTenant r
  let body := (rs.filter fun x => mine x && bkKind x = 4).take 4
  let card : Card := BitVec.ofNat 1024 (body.map fun x => bkPay x 64 256 * 2 ^ (256 * (bkPay x 0 8 % 4))).sum
  let takes := cardOp card = 1 || cardOp card = 2
  let ps := rs.filter fun x => mine x && (bkKind x = 5 || bkKind x = 6)
  let used := if !takes then []
    else match ps with
      | x :: _ => if bkKind x = 6 then [x] else (ps.filter fun x => bkKind x = 5).take (ceilDiv (cardPromptLen card) 8)
      | [] => []
  let wind := (rs.find? fun x => mine x && bkKind x = 7 && bkPay x 0 32 = cardCallId card).filter fun _ =>
    cardOp card = 1 && cardSeed card = 0 && bkPay r 64 8 = 0
  let s' := s.onPbk fun b => { b with replay := b.replay.filter fun x => decide (x ∉ body ++ used ++ wind.toList) }
  let seed := match wind with | some x => bkPay x 64 64 | none => cardSeed card
  match used with
  | x :: _ =>
    if bkKind x = 6 then
      let p := s'.pbk.prompts.headD []
      let d := ofLeBytes ((beBytes 48 (Config.sha384 (p.map (leBytes 4)).flatten)).take 32)
      let s' := s'.onPbk fun b => { b with prompts := b.prompts.drop 1 }
      (s', card, p, seed, if d = bkPay x 64 256 ∧ p.length = bkPay x 0 32 then none else some 7)
    else (s', card, (used.map fun y => (List.range (bkPay y 0 8)).map fun i => bkPay y (64 + 32 * i) 32).flatten, seed, none)
  | [] => (s', card, [], seed, none)

/-- A recorded decision is taken as it is (R728). -/
def replayCard (s : State) (r : BookRec) : RStep :=
  let (s, card, prompt, seed, bad) := gatherCard s r
  let src := bkPay r 0 16 % 1024
  let fn := bkPay r 16 8 % 128
  let slot := bkPay r 80 16
  if bad.isSome then (s, bad)
  else if bkPay r 64 8 ≠ 0 then (s, none)
  else if cardOp card = 1 then
    let q : QCard := ⟨src, fn, 65536, card, prompt⟩
    let seq := s.stm.nextSeq
    let drawn := ceilDiv (cardPromptLen card) 64
    let (bs, s) := drawBlocks s seq drawn
    let costume := if cardFlag card flagUseCostume then bindVer s (cardTenant card) (cardCostume card) else none
    let call := newCall slot seq q (blockNeed card - drawn) (bs.map fun b => (b, false)) costume
      (newCtx s seed (b2n (cardSeed card = 0)) 0)
    let s := s.onStm fun m => { m with board := m.board ++ [call], nextSeq := seq + 1 }
    (if cardFlag card flagNotifyAdmit then
      emitNotice s call.tenant (mkNotice call.callId fn 1 stOk (cardRing card)
        (place 0 16 (ownId s) + place 16 8 (match costume with | some (_, v) => v | none => 0)) (cardPromptLen card)
        call.tenant 0 (cueNum s))
    else s, none)
  else if cardOp card = 6 then (freeHandle s (cardTenant card) (cardPrefixOut card), none)
  else
    let o : COp := ⟨cardOp card, src, 65536, cardTtl card, prompt⟩
    let nb := if cardOp card = 2 then ceilDiv (cardPromptLen card) 64 else 0
    (onCall s slot fun c => { c with ops := c.ops ++ [o], resv := c.resv + nb }, none)

/-- A recorded operation takes effect or completes (R728, R735). -/
def replayOp (s : State) (r : BookRec) : State :=
  match callAt s (bkPay r 32 16) with
  | none => s
  | some c =>
    let op := bkPay r 48 8
    if c.callId ≠ bkPay r 0 32 ∨ c.ending.isSome then s
    else if op = 5 then releaseCall s c stCancelled (decide (0 < c.gen) && c.heath = .none)
    else if op = 4 ∧ c.phase = .paused then
      let s := if bkPay r 56 8 = 0 ∧ c.heath = .inHeath then
          (match c.ops.find? (fun o => o.op = 4) with | some o => resumeNow s c s.cue.num o | none => s) else s
      let s := onCall s c.slot fun c => { c with ops := c.ops.filter fun o => o.op ≠ 4 }
      if bkPay r 56 8 ≠ 0 then s
      else freeHeath (onCall s c.slot fun c => { c with
        heath := .none, spilt := [], reports := [], hop := none, phase := .decoding, ctxDue := true, depth0 := true }) c.slot
    else
      match c.ops.find? fun o => o.op = op with
      | none => s
      | some o =>
        if op = 2 then continueNow s c o
        else if op = 3 then pauseNow s c s.cue.num o
        else onCall s c.slot fun c => { c with ops := c.ops.erase o }

/-- Own cue in which a recorded cue ran. -/
def ownCue (s : State) (cue : Nat) : Option Nat := (s.pbk.cues.find? fun c => c.cue = cue).map (·.own)

def setReplayCue (s : State) (cue : Nat) : State := set (set s Fld.pbkReplayCueLoV cue) Fld.pbkReplayCueHiV (cue / 2 ^ 32)

/-- The recorded digest of a listing cue is compared (R730). -/
def replayLines (s : State) (r : BookRec) : RStep :=
  match ownCue s (bkPay r 0 48) with
  | none => (s, none)
  | some n =>
    if linesDigest s n = (bkPay r 64 32, bkPay r 96 128) then (s, none)
    else (setReplayCue (set s Fld.pbkReplayStatusLineDiff 1) (bkPay r 0 48), some 2)

/-- Records that fix the composition of the cue of a CUE_MARK. -/
def fixes (r x : BookRec) : Bool := decide (bkKind x ∈ [2, 9, 10, 11]) && bkCue x = bkCue r

/-- Compose cue `n` as its records fix it, and compare the Cue List's digest (R728, R730). -/
def replayCompose (s : State) (n : Nat) (r : BookRec) : RStep :=
  let xs := s.pbk.replay.filter (fixes r)
  let of (k : Nat) : List BookRec := xs.filter fun x => bkKind x = k
  let slotOf (x : BookRec) : Nat := bkPay x 0 16
  let budgets := (sortBy (fun x => bkPay x 0 8) (of 2)).map fun x => (List.range (bkPay x 8 8)).map fun i => bkPay x (32 + 32 * i) 32
  let ov : Over := ⟨budgets.flatten, (of 9).filterMap bkTenant, (of 10).map fun x => (slotOf x, bkPay x 16 8),
    (of 11).map slotOf, bkPay r 96 8⟩
  let s := s.onPbk fun b => { b with
    replay := b.replay.filter fun x => !fixes r x
    cues := (⟨n, bkCue r, bkPay r 0 64, bkPay r 64 32⟩ :: b.cues).take 8 }
  let credit (c : Call) : Nat := match (of 10).find? fun x => slotOf x = c.slot with | some x => bkPay x 32 8 | none => 64
  let s := s.onStm fun m => { m with board := m.board.map fun c => { c with credits := credit c } }
  let s := setReplayCue (composeCue s n (some ov)) (bkCue r)
  let toks := match s.stm.lists.find? fun l => l.1 = n with | some l => l.2.1 | none => []
  let h := toks.headD 0#128
  let rec' := mkHeader (clHdrReading h) s.pbk.company (bkCue r) (clHdrDec h) (clHdrPf h) :: toks.dropLast.drop 1 ++
    [mkEnd (bkCue r) (toks.length - 2)]
  let d := ofLeBytes ((beBytes 48 (Config.sha384 (rec'.map wireBytes).flatten)).take 16)
  if d = bkPay r 144 128 then (s, none) else (set s Fld.pbkReplayStatusListDiff 1, some 2)

/-- Records act in seq order up to the next CUE_MARK, whose cue is composed as cue `n`. -/
def replayRecords (n : Nat) : Nat → State → RStep
  | 0, s => (s, some 4)
  | fuel + 1, s =>
    match s.pbk.replay with
    | [] => (s, some 4)
    | r :: rest =>
      let s := s.onPbk fun b => { b with replay := rest }
      let next (x : RStep) : RStep := if x.2.isSome then x else replayRecords n fuel x.1
      match bkKind r with
      | 1 => replayCompose s n r
      | 3 => next (replayCard s r)
      | 8 => next (replayOp s r, none)
      | 12 =>
        next ((match callAt s (bkPay r 32 16) with
          | some c => if c.callId = bkPay r 0 32 then endCall s c.slot (bkPay r 48 8) else s
          | none => s), none)
      | 14 => next (replayLines s r)
      | 15 => (s, some 3)
      | 16 => if rest.isEmpty then (s, some 1) else next (s, none)
      | _ => next (s, none)

/-- A replay at the composition of cue `n`: one recorded cue. -/
def replayCue (s : State) (n : Nat) : State :=
  let (s, r) := replayRecords n (s.pbk.replay.length + 1) s
  match r with
  | some r => endReplay s r
  | none => s

end Sys2Proof.Machine
end

