-- ==== Sys2Proof/Machine/CueLine.lean ====
section
/-!
DEFINITION. The Cue Line's place in the time tree (spec/05_cue_line.md R217, R218, R235, R241 to R243): the acting root, the
time parent of this device, and what happens to its lock when the parent or the root goes.
-/
namespace Sys2Proof.Machine

/-- Device of the acting root, as this device knows it. -/
def rootDev (s : State) : Nat :=
  match s.spl.active with
  | some p => if s.cue.rootPrimary then p.rootPrimary else p.rootSecondary
  | none => 1024

/-- This device is one of the two time roots of the Stageplot. -/
def isRoot (s : State) (primary : Bool) : Bool :=
  s.spl.active.any fun p => (if primary then p.rootPrimary else p.rootSecondary) = selfDev s

def cueState (s : State) : Nat := get s Fld.cueStatusState

def linkPeer (s : State) (l : Nat) : Nat := get s (Fld.fabLinkStatusPeer l)

/-- Hops from a link's neighbour to the root, where the link is UP, the neighbour PRESENT and the root reached. -/
def rootHops (s : State) (l : Nat) : Option Nat :=
  let v := linkPeer s l
  if get s (Fld.fabLinkStatusState l) ≠ 3 ∨ (topoOf s v).state ≠ 1 then none
  else if v = rootDev s then some 0 else (routeFrom s v (rootDev s)).map Prod.snd

/-- The time parent's link (R218): fewest hops, ties to the lowest link number. -/
def bestParent (s : State) : Option Nat :=
  if rootDev s = selfDev s then none else
  ((List.range 12).foldl (fun (a : Option (Nat × Nat)) l =>
    match rootHops s l, a with
    | some h, some (_, b) => if h < b then some (l, h) else a
    | some h, none => some (l, h)
    | none, _ => a) none).map Prod.fst

/-- LOCKED is left for HOLDOVER. -/
def loseLock (s : State) : State :=
  if cueState s = 1 then (set s Fld.cueStatusState 2).onCue fun c => { c with holdoverSt := s.st, inRun := 0, outRun := 0 }
  else s

/-- Enter ROOT with the Stage Time as it stands. -/
def becomeRoot (s : State) (primary : Bool) : State :=
  (set (set s Fld.cueStatusState 4) Fld.cueStatusParent 0xF).onCue fun c => { c with
    rootPrimary := primary, inRun := 0, outRun := 0 }

/-- First cue whose launch instant lies after the Stage Time under an anchor, not before its anchor cue (R810). -/
def cueAfter (st anchorCue anchorSt period : Nat) : Nat :=
  if st < anchorSt then anchorCue else anchorCue + (st - anchorSt) / max 1 period + 1

/-- Before its first launch, a device that is LOCKED or ROOT launches from the first cue still to come (R810). -/
def setFirst (s : State) : State :=
  if s.cue.launched ∨ cueState s ∉ [1, 4] then s
  else
    let n := cueAfter s.st s.cue.anchorCue s.cue.anchorSt (get s Fld.cuePeriodNsV)
    let n := match s.cue.pendAnchor with
      | some (ac, ast, p) => if ac ≤ n then cueAfter s.st ac ast p else n
      | none => n
    s.onCue fun c => { c with first := n }

/-- An anchor and period come into force at once. -/
def putAnchor (s : State) (ac ast p : Nat) : State :=
  (set s Fld.cuePeriodNsV p).onCue fun c => { c with anchorCue := ac, anchorSt := ast, pendAnchor := none, anchored := true }

/-- The acting root enters ROOT at boot, with the anchor of the HOUSE section (R808). -/
def enterRoot (s : State) (primary : Bool) : State :=
  let s := becomeRoot s primary
  if s.cue.launched then s
  else
    match s.spl.active with
    | some p => setFirst (putAnchor s p.anchorCue (ceilDiv (s.st + 10000000) (max 1 p.period) * p.period) p.period)
    | none => s

/-- The time tree after a change of links or topology (R218, R235, R241, R242): where the acting root is absent the other
root takes over, with its own Stage Time; a device whose parent went takes a new one and leaves LOCKED. With both roots absent each change
names the other one (log entry 151). A root that never had the anchor takes that of the HOUSE section (R808; log entry 65). -/
def cueTopo (s : State) : State :=
  let gone := (topoOf s (rootDev s)).state = 3
  let s := if gone then s.onCue fun c => { c with rootPrimary := !c.rootPrimary } else s
  if gone && booted s && isRoot s s.cue.rootPrimary && decide (cueState s ∈ [0, 1, 2]) then
    (if s.cue.anchored || s.cue.launched then setFirst (becomeRoot s s.cue.rootPrimary) else enterRoot s s.cue.rootPrimary)
  else if cueState s = 4 ∨ cueState s = 3 then s
  else
    let old := get s Fld.cueStatusParent
    let lost := old < 12 && ((rootHops s old).isNone || gone)
    let new := (bestParent s).getD 0xF
    let s := if lost || new = 0xF then loseLock s else s
    if new = old then s
    else (set s Fld.cueStatusParent new).onCue fun c => { c with inRun := 0, outRun := 0 }

end Sys2Proof.Machine
end

