-- ==== Sys2Proof/Machine/Fabric.lean ====
section
/-!
DEFINITION. The Fabric and Roll Call (spec/13_fabric.md): links, flits, packets in transit, the topology record, exits and
absences; the commands FLIT_RECEIVE, PACKET_FORWARD, IDLE_FLIT, REPLAY_TIMEOUT, LINK_EN, TRAINING_COMPLETE, TRAIN_TIMEOUT,
TRAIN_RESTART, IDENTITY_RECORD, LINK_SIGNAL_LOSS, LINK_SILENCE, TOPOLOGY_UPDATE, EXIT, EXIT_FENCE, EXIT_ACK, EXIT_ACK_SEND,
EXIT_TIMEOUT, STATUS and ADVERT.
-/
namespace Sys2Proof.Machine

/-! Links. -/

def linkState (s : State) (l : Nat) : Nat := get s (Fld.fabLinkStatusState l)

def setLink (s : State) (l st : Nat) : State := set s (Fld.fabLinkStatusState l) st

/-- A control flit leaves on a link: 0 acknowledgement and credits, 1 time, 2 Exit fence, 3 EXIT_ACK, 4 topology update,
5 identity, 6 NAK. A silent device sends none (R597). -/
def ctrl (s : State) (l kind v : Nat) : State :=
  if s.fab.silent.isSome then s else s.onOut fun o => { o with ctrl := o.ctrl ++ [(l, kind, v)] }

/-- Initial credits of a link's VC and sub-lane (FAB_LINK_CREDIT_INIT). -/
def creditInit (s : State) (l : Nat) : List Nat :=
  [Fld.fabCreditInit0Sub0 l, Fld.fabCreditInit0Sub1 l, Fld.fabCreditInit1Sub0 l, Fld.fabCreditInit1Sub1 l,
    Fld.fabCreditInit2Sub0 l, Fld.fabCreditInit2Sub1 l, Fld.fabCreditInit3Sub0 l, Fld.fabCreditInit3Sub1 l].map (get s)

/-! The CRC (Table FAB-2; ECMA-182). -/

def crcPoly : Nat := 0x42F0E1EBA9EA3693

def crcBit : Nat → Nat → Nat
  | 0, c => c
  | n + 1, c => crcBit n (if 2 ^ 63 ≤ c then Nat.xor (c * 2 % 2 ^ 64) crcPoly else c * 2)

/-- CRC-64 of a run of bytes, most significant bit first, from 0. -/
def crc64 (bs : List Byte) : Nat := bs.foldl (fun c b => crcBit 8 (Nat.xor c (b.toNat * 2 ^ 56))) 0

/-! Randomness for nonces (R750, R751). -/

/-- One DRBG value, or none while a seed is wanted; a reseed follows every 2^20 requests. -/
def drbgTake (s : State) : Option (Nat × State) :=
  if isSet s Fld.sdrStatusNeedSeed then none
  else
    s.sdr.drbg.map fun d =>
      let (v, d') := Config.drbgGen d
      let s := s.onSdr fun x => { x with drbg := some d', gens := x.gens + 1 }
      (v, if 2 ^ 20 ≤ s.sdr.gens then windRequest s windForDrbg else s)

/-- An operation that needs a random value fails with ENTROPY (R751). -/
def entropyFail (s : State) (spdm : Bool) : State := audit s 0x0E 0 spdm 0 0

/-! Pending entries that complete with ABSENT_PEER (R550, R598). -/

/-- What the end of a request means for its owner: a SUBMIT is refused and counted (log entry 148), an operation waits for its Call's re-point (R708), a
re-point counts as ended, a shard read as failed. -/
def pendFails (s : State) (p : Pend) : State :=
  let s := s.onFab fun b => { b with pend := b.pend.erase p }
  let s := inc (issueWaiting (set s Fld.fabPendingV s.fab.pend.length)) Fld.fabAbsentDoneV 1
  let s := if p.kind = 0x10 then
      (match findIdx (fun o => o.tag = some p.tag) s.hiu.outcomes with
       | some i =>
         if (s.hiu.outcomes[i]?).any fun o => o.op = 1 then forwardReady (refuseSlot s i stCapacity true)
         else onSlot s i fun o => { o with tag := none }
       | none => s)
    else if p.kind = 0x12 then
      (match s.und.restore.find? fun r => r.tag = p.tag with
       | some r => restAnswer s r.slot true
       | none => s)
    else if p.kind = 0x13 ∧ s.und.reads.any (fun r => r.1 = p.tag) then shardFailed s
    else s
  if p.beats.isEmpty then s
  else runTokens s (p.beats.map fun t => stampTok t false true (tokCue t) 0xF0)

/-- A pending entry to an ABSENT device, or whose request or Reply route passes through one. -/
def pendCut (s : State) (d : Nat) (p : Pend) : Bool :=
  let racks := get s Fld.fabSelfRacks
  p.dst = d || decide (d ∈ pathOf racks (selfDev s) p.dst p.dirs) || decide (d ∈ pathOf racks p.dst (selfDev s) p.back)

/-! Packets held (R530, R551). -/

/-- Next device of a packet at this one. -/
def nextHop (s : State) (p : Packet) : Nat :=
  ((pathOf (get s Fld.fabSelfRacks) (selfDev s) (pDst p) (pDirs p)).headD (pDst p))

/-- The header with another sub-lane and dirs. -/
def reHead (p : Packet) (sub dirs : Nat) : Packet :=
  { p with hdr := BitVec.ofNat 128 (p.hdr.toNat - place 10 1 (bits p.hdr 10 1) - place 53 3 (bits p.hdr 53 3) +
      place 10 1 sub + place 53 3 dirs) }

/-- A packet that has not left its source takes the route entry as it stands now (R521, R551). -/
def reSend (s : State) (p : Packet) : State :=
  match route s (pDst p) with
  | some (dirs, _) => emit s (reHead p (b2n (wrapHop s (pDst p) dirs)) dirs)
  | none => inc s Fld.fabNorouteNoroute 1

/-- Packets that waited for credit, retry space or a link go when they can. -/
def sendHeld (s : State) : State := s.fab.hold.foldl reSend (s.onFab fun b => { b with hold := [] })

/-- A packet in transit as the words of a receive buffer item, and back. -/
def pktItem (p : Packet) : List (Nat × Bool) :=
  let bs := wireBytes p.hdr ++ p.body
  (pieces 8 (bs.length / 8 + 1) bs).map fun w => (ofLeBytes w, false)

def itemPkt (ws : List (Nat × Bool)) : Packet :=
  let bs := (ws.map fun w => leBytes 8 w.1).flatten
  let h : BitVec 128 := BitVec.ofNat 128 (ofLeBytes (bs.take 16))
  ⟨h, (bs.drop 16).take (bits h 40 13)⟩

/-- Receive buffer of a packet that came on a link (Table SWL-4). -/
def rxBuf (l : Nat) (p : Packet) : Nat := 0x20 + 8 * l + 2 * pVc p + pSub p

/-- Credit units of a packet. -/
def pktUnits (p : Packet) : Nat := ceilDiv (16 + p.body.length) 256

/-- Units standing in a receive buffer. -/
def rxUnits (s : State) (i : Nat) : Nat := ((swOf s i).items.map fun w => pktUnits (itemPkt w)).sum

/-- Transit packets whose destination or next hop is ABSENT are discarded (R551). -/
def dropTransit (s : State) : State :=
  (List.range 96).foldl (fun s i =>
    let gone (w : List (Nat × Bool)) : Bool :=
      let p := itemPkt w
      (topoOf s (pDst p)).state = 3 || (topoOf s (nextHop s p)).state = 3
    let bad := (swOf s (0x20 + i)).items.filter gone
    if bad.isEmpty then s
    else
      let s := onSw s (0x20 + i) fun w => { w with items := w.items.filter fun x => !gone x }
      let s := owe s (i / 8) (i % 8) ((bad.map fun w => pktUnits (itemPkt w)).sum)
      wmUpdate (inc s Fld.fabNorouteHopDiscard bad.length) (0x20 + i)) s

/-! The topology record (R538 to R542). -/

/-- Epoch `a` is newer than the recorded `b` (R540). -/
def newerEpoch (a b : Nat) : Bool := b = 0 || (decide (1 ≤ (a + 255 - b) % 255) && decide ((a + 255 - b) % 255 ≤ 127))

/-- A report about another device changes the record (R540). -/
def topoChanges (s : State) (d st ep : Nat) : Bool :=
  let t := topoOf s d
  d ≠ selfDev s && ep ≠ 0 && decide (st ∈ [1, 2, 3]) && decide (d < houseSize s) &&
    (newerEpoch ep t.epoch || (t.epoch ≠ 0 && ep % 255 = t.epoch % 255 && decide (t.state < st)))

/-- What the record's new state of a device brings with it at this device (R544, R550, R551, R598, R656, R661). -/
def topoActs (s : State) (d st : Nat) : State :=
  let s := if st = 3 then
      let s := (s.fab.pend.filter (pendCut s d)).foldl pendFails s
      dropTransit s
    else s
  let s := if st ≠ 1 then sceneGone s d else s
  cueTopo (sendHeld s)

/-- Change the record, announce the change on every UP link but the one it came on (R539), and act on it. -/
def updateTopo (s : State) (d st ep : Nat) (but : Option Nat) : State :=
  if topoChanges s d st ep then
    topoActs (announce (putTopo s d { topoOf s d with state := st, epoch := ep }) d st ep but) d st
  else s

/-- This device declares a neighbour ABSENT (R549, R889). -/
def declareAbsent (s : State) (d : Nat) : State :=
  let t := topoOf s d
  let s := report s 0x0A05 0xFFFF (d % 1024 + t.epoch * 1024)
  topoActs (announce (putTopo s d { t with state := 3, links := 0 }) d 3 t.epoch none) d 3

/-- The absence check: no link to the neighbour is UP or EXIT (R537). -/
def absenceCheck (s : State) (d : Nat) : State :=
  if (List.range 12).any fun l => linkRuns s l && linkPeer s l = d then s else declareAbsent s d

/-- DRAINED is reached: what waits for it goes on (R546, R625, R819). -/
def drainedNow (s : State) : State :=
  let s := set s Fld.fabExitCtlDrained 1
  let s := if s.brd.warmHeld then s.onBrd fun b => { b with warmHeld := false, flushing := true } else s
  tripFall s

/-- DRAINED once every link out has been acknowledged and no pending entry is left (R546, R558). -/
def checkDrained (s : State) : State :=
  if s.fab.exitWritten && !isSet s Fld.fabExitCtlDrained && s.fab.pend.isEmpty &&
      (List.range 12).all (fun l => linkState s l ≠ 3 && (linkState s l ≠ 4 || (linkAt s l).drained)) then drainedNow s
  else s

/-- A link leaves UP or EXIT for TRAIN (R888), and the absence check follows. -/
def leaveUp (s : State) (l : Nat) : State :=
  let d := linkPeer s l
  let s := report s 0x0A02 l d
  let s := onLink (setLink s l 1) l fun _ => Link.off
  let s := putTopo s d { topoOf s d with links := (topoOf s d).links - place (Nat.xor l 2) 1 ((topoOf s d).links / 2 ^ Nat.xor l 2) }
  checkDrained (cueTopo (sendHeld (absenceCheck s d)))

/-- A link goes OFF: EN was cleared. -/
def linkOff (s : State) (l : Nat) : State :=
  checkDrained (cueTopo (sendHeld (onLink (setLink s l 0) l fun _ => Link.off)))

/-! Exits (R543 to R548). -/

/-- EXIT is written: the device is announced as EXITING and a fence leaves on every UP link. -/
def writeExit (s : State) : State :=
  if s.fab.exitWritten then s
  else
    let me := selfDev s
    let up := (List.range 12).filter fun l => linkState s l = 3
    let s := s.onFab fun b => { b with exitWritten := true, exitSt := s.st }
    let s := announce (putTopo s me { topoOf s me with state := 2 }) me 2 (get s Fld.fabEpochEpoch) none
    let s := up.foldl (fun s l => ctrl (onLink (setLink s l 4) l fun k => { k with drained := false }) l 2 0) s
    checkDrained (sceneGone s me)

/-! Retry (R532, R534, R580). -/

/-- Flits that an ack passes are released. -/
def release (k : Link) (ack : Nat) : Link :=
  let kept := k.retry.dropWhile fun f => f.1 ≠ ack
  if ack = k.seqTx ∨ !kept.isEmpty then
    { k with retry := kept, replays := if kept.length < k.retry.length then 0 else k.replays }
  else k

/-- Transmission goes back to the oldest flit held; the 16th replay in a row takes the link out of UP. -/
def replay (s : State) (l : Nat) : State :=
  if (linkAt s l).retry.isEmpty then s
  else
    let s := inc (onLink s l fun k => { k with replays := k.replays + 1 }) (Fld.fabLinkErrReplays l) 1
    if 16 ≤ (linkAt s l).replays then leaveUp s l else s

/-! Receiving (R512, R515 to R519, R600). -/

/-- A packet that R517 and R519 call malformed. -/
def pktBad (s : State) (p : Packet) : Bool :=
  pKind p = 0 || kindVc (pKind p) ≠ some (pVc p) || decide (4096 < pLen p) || pLen p % 4 ≠ 0 ||
    bits p.hdr 56 8 ≠ 0 || bits p.hdr 96 32 ≠ 0 || decide (houseSize s ≤ pDst p)

/-- A forwarded card has come while the decision queue is full: its Request credits wait with it (R148). -/
def cardWaits (s : State) (p : Packet) : Bool := pKind p = 0x10 && isLead s && swFull s 1

/-- A whole packet has come on a link: its own arrival command carries what it does here, and a packet for another device
waits in its receive buffer. -/
def gotPacket (s : State) (l : Nat) (p : Packet) : State :=
  let lane := 2 * pVc p + pSub p
  if pktBad s p then
    owe (report (inc (advance s) (Fld.fabLinkDropMalformed l) 1) 0x0A04 l (fresh s % 2 ^ 32)) l lane (pktUnits p)
  else if pDst p = selfDev s then
    (if cardWaits s p then s.onFab fun b => { b with heldCr := b.heldCr ++ [(l, lane, pktUnits p)] }
    else owe s l lane (pktUnits p))
  else if (topoOf s (pDst p)).state = 3 ∨ (topoOf s (nextHop s p)).state = 3 then
    owe (inc s Fld.fabNorouteHopDiscard 1) l lane (pktUnits p)
  else wmUpdate (onSw s (rxBuf l p) fun w => { w with items := w.items ++ [pktItem p] }) (rxBuf l p)

/-- Packets in the bytes a link has gathered. A packet starts a flit body or follows another; zeros in a header's place fill
the rest of a flit. -/
def takePackets (l : Nat) : Nat → State → State
  | 0, s => s
  | fuel + 1, s =>
    let bs := (linkAt s l).body
    if bs.length < 16 then (if bs.all (· = 0#8) then onLink s l fun k => { k with body := [] } else s)
    else
      let h : BitVec 128 := BitVec.ofNat 128 (ofLeBytes (bs.take 16))
      let n := 16 + bits h 40 13
      if h = 0#128 then onLink s l fun k => { k with body := [] }
      else if bits h 0 8 = 0 ∨ 4096 < bits h 40 13 then
        gotPacket (onLink s l fun k => { k with body := [] }) l ⟨h, []⟩
      else if bs.length < n then s
      else takePackets l fuel (gotPacket (onLink s l fun k => { k with body := k.body.drop n }) l ⟨h, (bs.take n).drop 16⟩)

/-- The receive buffer of the packet that a data flit goes on with is full (R600). -/
def rxFull (s : State) (l : Nat) (body : List Byte) : Bool :=
  let bs := (linkAt s l).body ++ body
  let p : Packet := ⟨BitVec.ofNat 128 (ofLeBytes (bs.take 16)), []⟩
  pDst p ≠ selfDev s && !pktBad s p && decide (swDepth s (rxBuf l p) < rxUnits s (rxBuf l p) + ceilDiv (16 + pLen p) 256)

/-- What every good flit of a link brings, of whichever type: the time it came, the flits it acknowledges, the credits it returns
and, with the NAK bit, a replay (R512, R530, R532, R534). -/
def takeAck (s : State) (l : Nat) (flit : BitVec 2048) : State :=
  let i := bits flit 25 2 * 2 + bits flit 27 1
  let s := onLink s l fun k =>
    let k := release k (bits flit 12 12)
    { k with lastRx := s.st, credits := k.credits.set i (k.credits.getD i 0 + bits flit 28 8) }
  let s := wmUpdate s (8 + l)
  sendHeld (if bit flit 24 then replay s l else s)

/-- FLIT_RECEIVE (R512 to R517, R519, R530, R532, R534, R580, R600). -/
def execFlitReceive (link : Fin 12) (flit : BitVec 2048) (s : State) : Host.Outcome State Fault Refusal :=
  .next (let l := link.val
    let bs := wireBytes flit
    if !linkRuns s l then s
    else if crc64 (bs.take 248) ≠ bits flit 1984 64 then
      let s := report (inc (advance s) (Fld.fabLinkErrCrc l) 1) 0x0A01 l (fresh s % 2 ^ 32)
      ctrl s l 6 (linkAt s l).seqRx
    else if bits flit 36 8 ≠ get s (Fld.fabLinkStatusPeerEpoch l) then inc s (Fld.fabLinkDropStale l) 1
    else if 1 < bits flit 44 3 ∨ bit flit 47 = true then s
    else
      let s := takeAck s l flit
      let body := (bs.drop 6).take 242
      if bits flit 44 3 = 1 ∨ !linkRuns s l ∨ bits flit 0 12 ≠ (linkAt s l).seqRx then s
      else if rxFull s l body then ctrl s l 6 (linkAt s l).seqRx
      else takePackets l 32 (onLink s l fun k => { k with seqRx := (k.seqRx + 1) % 4096, body := k.body ++ body }))

/-- Sub-lane of a packet on its next hop (R524). -/
def forwardSub (s : State) (l : Nat) (p : Packet) : Nat :=
  let w := b2n (wrapHop s (pDst p) (pDirs p))
  if hopDim (selfDev s) (pDst p) = l / 4 then max (pSub p) w else w

/-- PACKET_FORWARD (R518, R523, R524, R530, R533, R551): the packet at the front of its receive buffer goes on when the output
has credit. -/
def execPacketForward (pkt : Packet) (s : State) : Host.Outcome State Fault Refusal :=
  .next (match (List.range 96).find? fun i => (swOf s (0x20 + i)).items.head?.map itemPkt = some pkt with
    | none => s
    | some i =>
      let out := reHead pkt (forwardSub s (i / 8) pkt) (pDirs pkt)
      if !mayLeave s out then s
      else
        let s := onSw s (0x20 + i) fun w => { w with items := w.items.drop 1 }
        let s := wmUpdate (owe s (i / 8) (i % 8) (pktUnits pkt)) (0x20 + i)
        let s := putOut s out
        wmUpdate s (8 + outLink s (pSrc out) (pDst out) (pDirs out)))

/-- IDLE_FLIT (R514, R530): the control flit acknowledges, and returns credits of the first lane that owes any. -/
def execIdleFlit (link : Fin 12) (s : State) : Host.Outcome State Fault Refusal :=
  .next (let l := link.val
    let k := linkAt s l
    if !linkRuns s l then s
    else
      match (List.range 8).find? fun i => k.owed.getD i 0 ≠ 0 with
      | some i =>
        let n := min 255 (k.owed.getD i 0)
        ctrl (onLink s l fun k => { k with owed := k.owed.set i (k.owed.getD i 0 - n) }) l 0
          (k.seqRx * 2 ^ 12 + (i / 2) * 2 ^ 25 + i % 2 * 2 ^ 27 + n * 2 ^ 28)
      | none => ctrl s l 0 (k.seqRx * 2 ^ 12))

/-- REPLAY_TIMEOUT (R532, R534, R580). -/
def execReplayTimeout (link : Fin 12) (s : State) : Host.Outcome State Fault Refusal :=
  .next (if linkRuns s link.val then replay s link.val else s)

/-! Bring-up of a link (Table FAB-6). -/

/-- LINK_EN (R537): a pair whose domain is not Lit keeps its link OFF. -/
def execLinkEn (link : Fin 12) (v : Word) (s : State) : Host.Outcome State Fault Refusal :=
  .next (let l := link.val
    let off := (Fld.fabLinkCtlEn l).off
    let t := commandWord s 0 off v
    if !reaches s 0 off then t
    else
      let t := set t (Fld.fabLinkCtlEn l) (bits v 0 1)
      let lit := domState t (48 + l / 2) = 0 && domPhase t (48 + l / 2) = 0
      if !bit v 0 then linkOff t l
      else if linkState t l = 0 && lit then setLink t l 1
      else t)

/-- TRAINING_COMPLETE (R511, R537): the identity record leaves (R535). -/
def execTrainingComplete (link : Fin 12) (s : State) : Host.Outcome State Fault Refusal :=
  .next (if linkState s link.val = 1 && !(linkAt s link.val).waiting then ctrl (setLink s link.val 2) link.val 5 (selfDev s)
    else s)

/-- TRAIN_TIMEOUT (R537). -/
def execTrainTimeout (link : Fin 12) (s : State) : Host.Outcome State Fault Refusal :=
  .next (if linkState s link.val = 1 && !(linkAt s link.val).waiting then
      onLink (inc s (Fld.fabLinkStatusTrainFails link.val) 1) link.val fun k => { k with waiting := true }
    else s)

/-- TRAIN_RESTART (R537). -/
def execTrainRestart (link : Fin 12) (s : State) : Host.Outcome State Fault Refusal :=
  .next (if linkState s link.val = 1 then onLink s link.val fun k => { k with waiting := false } else s)

/-- A link is ISOLATED: 1 MISWIRE, 2 AUTH, 3 DIGEST (R561). -/
def isolate (s : State) (l cause : Nat) : State :=
  let s := set (setLink s l 5) (Fld.fabLinkStatusIsoCause l) cause
  let s := if cause = 2 then audit s 8 0 false 0 l else s
  report (advance s) 0x0A03 l (fresh s % 2 ^ 32)

/-- The first link to reach UP after a reset raises the device's epoch, saves it, and records the device PRESENT (R542,
R805). -/
def firstUp (s : State) : State :=
  if s.fab.firstUp then s
  else
    let e := get s Fld.fabEpochEpoch % 255 + 1
    let s := storeBlock ((set s Fld.fabEpochEpoch e).onLdg fun x => { x with epoch := e }) stateBlock
    (putTopo s (selfDev s) { topoOf s (selfDev s) with state := 1, epoch := e }).onFab fun b => { b with firstUp := true, epoch := e }

/-- A device that joins learns which Companies are Lost, its own perhaps among them (R538, R556; log entry 139). -/
def tellLost (s : State) (d : Nat) : State := s.fab.lost.foldl (fun s c => tellDevs s [d] outLost c 0) s

def learnLost (s : State) (src c detail : Nat) : State :=
  if c ∈ s.fab.lost then s
  else if detail = 1 then sceneEnds s src c false
  else markLost (s.onUnd fun u => { u with lostDone := u.lostDone ++ [c] }) c

/-- A link reaches UP (R528, R554). -/
def linkUp (s : State) (l : Nat) (r : IdRec) : State :=
  let s := set (set (setLink s l 3) (Fld.fabLinkStatusIsoCause l) 0) (Fld.fabLinkStatusPeerEpoch l) r.epoch.toNat
  let s := set s (Fld.fabLinkStatusPeer l) r.device.val
  let s := onLink s l fun _ => { Link.off with credits := creditInit s l }
  let s := firstUp s
  let me := selfDev s
  let mine := ((List.range 12).filter fun i => linkState s i = 3).foldl (fun a i => a + 2 ^ i) 0
  let s := announce (putTopo s me { topoOf s me with links := mine }) me (topoOf s me).state (topoOf s me).epoch none
  let s := updateTopo s r.device.val 1 r.epoch.toNat none
  let t := topoOf s r.device.val
  let s := putTopo s r.device.val { t with links := Nat.lor t.links (2 ^ r.link.val) }
  tellLost (cueTopo (sendHeld s)) r.device.val

/-- IDENTITY_RECORD (R535 to R537, R542, R561, R744, R751): an authentication that finds no nonce waits in IDENT. -/
def execIdentityRecord (link : Fin 12) (r : IdRec) (s : State) : Host.Outcome State Fault Refusal :=
  .next (let l := link.val
    match s.spl.active with
    | none => s
    | some p =>
      if linkState s l ≠ 2 then s
      else if r.device.val ≠ p.expect.getD l 1024 ∨ r.link.val ≠ Nat.xor l 2 then isolate s l 1
      else if r.digest ≠ p.digest then isolate s l 3
      else if s.sdr.hk.isNone then isolate s l 2
      else
        match drbgTake s with
        | none => entropyFail s false
        | some (_, s) => if r.chainOk && r.sigOk && r.hmacOk then linkUp s l r else isolate s l 2)

/-- Loss of a link that trains, identifies or runs. -/
def linkLoss (s : State) (l : Nat) : State :=
  if linkRuns s l then leaveUp s l
  else if linkState s l = 2 then setLink s l 1
  else s

/-- LINK_SIGNAL_LOSS (R537, R549 to R551, R888, R889): in TRAIN training starts again. -/
def execLinkSignalLoss (link : Fin 12) (s : State) : Host.Outcome State Fault Refusal :=
  .next (linkLoss (if linkState s link.val = 1 then onLink s link.val fun k => { k with waiting := false } else s) link.val)

/-- LINK_SILENCE (R537, R549 to R551, R888, R889). -/
def execLinkSilence (link : Fin 12) (s : State) : Host.Outcome State Fault Refusal := .next (linkLoss s link.val)

/-! Roll Call and exits. -/

/-- TOPOLOGY_UPDATE (R539 to R541, R544, R550, R551, R598). -/
def execTopologyUpdate (link : Fin 12) (dev : Fin 1024) (state : Nat) (epoch : BitVec 8) (s : State) :
    Host.Outcome State Fault Refusal :=
  .next (if linkRuns s link.val then updateTopo s dev.val state epoch.toNat (some link.val) else s)

/-- EXIT (R543). -/
def execExit (v : Word) (s : State) : Host.Outcome State Fault Refusal :=
  .next (let off := Fld.fabExitCtlExit.off
    let t := commandWord s 0 off v
    if reaches s 0 off && bit v 0 then writeExit t else t)

/-- EXIT_FENCE (R537, R544). -/
def execExitFence (link : Fin 12) (s : State) : Host.Outcome State Fault Refusal :=
  .next (let l := link.val
    if linkState s l ≠ 3 then s
    else
      let d := linkPeer s l
      let s := onLink (setLink s l 4) l fun k => { k with drained := false }
      updateTopo s d 2 (get s (Fld.fabLinkStatusPeerEpoch l)) (some l))

/-- EXIT_ACK (R537, R546). -/
def execExitAck (link : Fin 12) (s : State) : Host.Outcome State Fault Refusal :=
  .next (if linkState s link.val = 4 then checkDrained (onLink s link.val fun k => { k with drained := true }) else s)

/-- A packet of this device waits for the neighbour of a link, or a transit one does. -/
def holdsFor (s : State) (d : Nat) : Bool :=
  s.fab.hold.any (fun p => nextHop s p = d) ||
    (List.range 96).any fun i => (swOf s (0x20 + i)).items.any fun w => nextHop s (itemPkt w) = d

/-- EXIT_ACK_SEND (R545, R559). -/
def execExitAckSend (link : Fin 12) (s : State) : Host.Outcome State Fault Refusal :=
  .next (let l := link.val
    let d := linkPeer s l
    if linkState s l = 4 && (topoOf s d).state = 2 && !(s.fab.pend.any fun p => p.dst = d) && !holdsFor s d &&
        (linkAt s l).owed.all (fun x => x = 0) then
      checkDrained (ctrl (onLink s l fun k => { k with drained := true }) l 3 0)
    else s)

/-- EXIT_TIMEOUT (R547). -/
def execExitTimeout (s : State) : Host.Outcome State Fault Refusal :=
  .next (if s.fab.exitWritten && !isSet s Fld.fabExitCtlDrained then
      drainedNow (set (s.setSt (max s.st (s.fab.exitSt + 1000 * getA s Fld.fabExitCtlExitTimeoutUs))) Fld.fabExitCtlForced 1)
    else s)

/-! Replies and advertisements. -/

/-- A message of another device's model under the tag no request awaits (log entry 139). -/
def deviceTold (s : State) (src outcome value detail : Nat) : State :=
  if outcome ≤ outSceneFails then sceneTold s src outcome value detail
  else if outcome = outCut then cutTold s value detail
  else if outcome = outServes then sceneEnds s src value true
  else if outcome = outLead then leadTold s src value detail
  else if outcome = outGone then callGone s detail value src
  else if outcome = outHeld then copyHeld s src value
  else if outcome = outWithdraw then (if fromLead s src then copyWithdrawn s (value = 1) detail else s)
  else if outcome = outEvict then leadEvicted s src value detail
  else if outcome = outNoHandle then noHandle s value detail
  else if outcome = outLost then learnLost s src value detail
  else if outcome = outBadBlock then s.onMdw fun m => { m with bad := m.bad ++ [value] }
  else if outcome = outUnheath ∨ outcome = outRefill then
    if !fromLead s src then s
    else if outcome = outUnheath then dropHeath s value
    else s.onMdw fun m => { m with spills := mapIf (fun x => x.slot = value) (fun x => { x with fill := true }) m.spills }
  else if outcome = outAccept ∨ outcome = outDecline then offerAnswer s (outcome = outAccept) value detail
  else if fromLead s src then verTold s outcome value detail
  else s

/-- STATUS (R83, R114, R141, R531, R555, R557, R654, R701): the answer to the request under its tag; the end of a decided Call
of this device (log entry 9); a Call that cannot be restored (log entry 23). -/
def execStatus (src : Fin 1024) (tag : BitVec 16) (epoch : BitVec 8) (code outcome value detail : Nat) (s : State) :
    Host.Outcome State Fault Refusal :=
  .next (if epoch.toNat ≠ get s Fld.fabEpochEpoch then inc s Fld.fabOrphanStaleReply 1
    else
      match s.fab.pend.find? fun p => p.tag = tag.toNat && p.dst = src.val with
      | some p =>
        let s := s.onFab fun b => { b with pend := b.pend.erase p }
        let s := issueWaiting (set s Fld.fabPendingV s.fab.pend.length)
        let s := if p.kind = 0x10 then decideTag s p.tag code outcome value detail
          else if p.kind = 0x12 then
            (match s.und.restore.find? fun r => r.tag = p.tag with
             | some r => restAnswer s r.slot (outcome = 2)
             | none => s)
          else if p.kind = 0x14 then sceneStatus s src.val outcome value detail
          else s
        checkDrained s
      | none =>
        match s.hiu.callMap.find? fun e => e.tag = tag.toNat && e.decided && e.lead = src.val && e.finalN.isNone &&
            !e.finalWritten with
        | some e => arriveFinal s e code value detail
        | none =>
          if tag.toNat = lostTag ∧ code = stCompanyLost ∧ outcome = 0 then endLostHere s detail value
          else if tag.toNat = lostTag ∧ outScene ≤ outcome then deviceTold s src.val outcome value detail
          else if tag.toNat = lostTag ∧ 3 ≤ outcome then srcTells s src.val outcome detail value code
          else if tag.toNat = lostTag ∧ code = stOk then handleFrom s src.val value detail
          else inc s Fld.fabOrphanOrphan 1)

/-- ADVERT (R82, R698). -/
def execAdvert (_src : Fin 1024) (company model : Nat) (admitting exact lost : Bool) (freeSlots freeBlocks cue : Nat)
    (s : State) : Host.Outcome State Fault Refusal :=
  .next (s.onFab fun b => { b with
    adverts := b.adverts.filter (fun a => a.company ≠ company) ++
      [⟨company, model, admitting, exact, lost, freeSlots, freeBlocks, cue⟩] })

end Sys2Proof.Machine
end

