-- ==== Sys2Proof/Machine/StageDoor.lean ====
section
/-!
DEFINITION. The Stage Door (spec/19_stage_door.md): the SPDM responder, vendor-defined requests, tenant keys, zeroisation and
audit; the commands GET_VERSION to READ_AUDIT, ZEROISE, ZEROISE_COMPLETE, TENANT_ZERO, TKEY_IMPORT, FLOOR_WRITE, TAMPER and
AUDIT_CLOSE. The codes of SPDM messages are those of SPDM 1.2, which the spec names without them (log entry 25).
-/
namespace Sys2Proof.Machine

def sdrReady (s : State) : Bool := sdrState s = 1

/-! Answers. -/

/-- An SPDM answer leaves: response code and body. One longer than the transport carries waits to be fetched, and ERROR with
LargeResponse names its handle, a free value. -/
def spdmOut (s : State) (code : Nat) (body : List Byte) : State :=
  if body.length ≤ Config.spdmLongest then s.onOut fun o => { o with spdm := o.spdm ++ [(code, body)] }
  else
    let h := fresh s % 256
    ((advance s).onSdr fun d => { d with large := BitVec.ofNat 8 code :: body, largeHandle := h }).onOut fun o =>
      { o with spdm := o.spdm ++ [(0x7F, leBytes 1 0x0F ++ leBytes 1 h)] }

/-- ERROR with an error code. -/
def spdmError (s : State) (e : Nat) : State := spdmOut s 0x7F (leBytes 1 e)

def eInvalid : Nat := 0x01
def eBusy : Nat := 0x03
def eUnsupported : Nat := 0x07

/-- ERROR where the spec names no error code: the code is a free value. -/
def spdmFails (s : State) : State := spdmError (advance s) (fresh s % 256)

/-- A request that needs a random value: with none it fails with ENTROPY (R751). -/
def withNonce (s : State) (f : Nat → State → State) : State :=
  match drbgTake s with
  | some (v, s) => f v s
  | none => spdmFails (entropyFail s true)

/-- A signature of the device over an answer and the requester's and device's nonces (R752). -/
def signedBody (body : List Byte) (theirs mine : Nat) : List Byte :=
  let bs := body ++ leBytes 32 theirs ++ leBytes 32 mine
  body ++ leBytes 32 mine ++ leBytes 96 (Config.ecdsaSign Config.uniqueSecret (Config.sha384 bs))

/-- GET_VERSION (R752). -/
def execGetVersion (s : State) : Host.Outcome State Fault Refusal := .next (spdmOut s 0x04 [0x12])

/-- GET_CAPABILITIES (R752). What the flags word reads is a free value. -/
def execGetCapabilities (s : State) : Host.Outcome State Fault Refusal :=
  .next (spdmOut (advance s) 0x61 (leBytes 4 (fresh s)))

/-- Bits of the supported algorithms in the four negotiation words: ECDSA P-384, SHA-384, secp384r1, AES-256-GCM. -/
def spdmAlgs : List Nat := [0x80, 0x02, 0x10, 0x02]

/-- NEGOTIATE_ALGORITHMS (R752, Table SDR-3): of each word offered, the supported algorithm. -/
def execNegotiateAlgorithms (algs : List Nat) (s : State) : Host.Outcome State Fault Refusal :=
  .next (let sel := spdmAlgs.zipIdx.map fun x => Nat.land x.1 (algs.getD x.2 0)
    spdmOut (s.onSdr fun d => { d with algs := sel = spdmAlgs }) 0x63 (sel.map (leBytes 4)).flatten)

/-- GET_DIGESTS (R752): slot 0 only. -/
def execGetDigests (s : State) : Host.Outcome State Fault Refusal :=
  .next (spdmOut s 0x01 (leBytes 48 (Config.sha384 Config.certChain)))

/-- GET_CERTIFICATE (R752, Table SDR-3): a portion of slot 0's chain. -/
def execGetCertificate (slot off len : Nat) (s : State) : Host.Outcome State Fault Refusal :=
  .next (let chain := Config.certChain
    if slot ≠ 0 ∨ chain.length ≤ off then spdmError s eInvalid
    else
      let part := (chain.drop off).take len
      spdmOut s 0x02 (leBytes 2 part.length ++ leBytes 2 (chain.length - off - part.length) ++ part))

/-- CHALLENGE (R751, R752). -/
def execChallenge (slot : Nat) (nonce : BitVec 256) (s : State) : Host.Outcome State Fault Refusal :=
  .next (if slot ≠ 0 then spdmError s eInvalid
    else if !sdrReady s then spdmError s eUnsupported
    else withNonce s fun v s =>
      spdmOut s 0x03 (signedBody (leBytes 48 (Config.sha384 Config.certChain)) nonce.toNat v))

/-- A measurement block (Table SDR-4). -/
def measurement (s : State) (i : Nat) : List Byte :=
  if i = 1 then leBytes 48 Config.romDigest
  else if i = 2 then leBytes 48 Config.firmwareDigest
  else if i = 3 then
    match s.spl.active with
    | some p => leBytes 48 p.imgDigest ++ leBytes 4 p.planId ++ leBytes 4 p.seq
    | none => List.replicate 56 0
  else if i = 4 then [BitVec.ofNat 8 (b2n (sealedMode s)), BitVec.ofNat 8 (b2n (certified s))]
  else if i = 5 then [0x10]
  else if i = 6 then leBytes 4 (get s Fld.sdrFloorSeq)
  else if i = 7 then
    match s.sdr.hk with
    | some k => ((leBytes 48 (Config.hmac384 k (ascii "FINGERPRINT"))).reverse).take 16
    | none => List.replicate 16 0
  else [BitVec.ofNat 8 (([1, 2, 3].map fun k => 2 ^ k * b2n (s.sdr.keys.get? k).isSome + 2 ^ (k + 4) * b2n (decide (k ∈ s.sdr.revoked))).sum)]

/-- GET_MEASUREMENTS (R752, Table SDR-4): index 0 asks for the number of blocks, 0xFF for all of them. -/
def execGetMeasurements (signed : Bool) (idx : Nat) (nonce : BitVec 256) (s : State) : Host.Outcome State Fault Refusal :=
  .next (let body := if idx = 0 then [8]
      else if idx = 0xFF then ((List.range 8).map fun i => leBytes 1 (i + 1) ++ measurement s (i + 1)).flatten
      else leBytes 1 idx ++ measurement s idx
    if 8 < idx ∧ idx ≠ 0xFF then spdmError s eInvalid
    else if !sdrReady s then spdmError s eUnsupported
    else if signed then withNonce s fun v s => spdmOut s 0x60 (signedBody body nonce.toNat v)
    else spdmOut s 0x60 body)

/-! Sessions (R752 to R754). -/

/-- The number of open sessions. -/
def countSessions (s : State) : State := set s Fld.sdrSessionsV s.sdr.sessions.length

def sessOf (s : State) (sid : Nat) : Option Sess := s.sdr.sessions.find? fun x => x.id = sid

def onSess (s : State) (sid : Nat) (f : Sess → Sess) : State :=
  s.onSdr fun d => { d with sessions := d.sessions.map fun x => if x.id = sid then f x else x }

/-- An unused session id, otherwise a free value. -/
def newSid (s : State) : Nat :=
  (((List.range 256).map fun i => (fresh s + i) % 256).find? fun i => (sessOf s i).isNone).getD 0

/-- The digest of a session's transcript. -/
def transcript (x : Sess) : Nat := Config.sha384 (leBytes 48 x.key)

/-- A session closes (Table SDR-11). -/
def closeSess (s : State) (x : Sess) : State :=
  audit (countSessions (s.onSdr fun d => { d with sessions := d.sessions.erase x })) 9 0 true 0
    (x.id % 256 + 512 * b2n x.oper)

/-- KEY_EXCHANGE (R751 to R753, R762). A consistency test that fails comes as SELFTEST_DONE. -/
def execKeyExchange (i3c : Bool) (pub : Nat) (s : State) : Host.Outcome State Fault Refusal :=
  .next (if !sdrReady s then spdmError s eUnsupported
    else if 4 ≤ s.sdr.sessions.length then spdmError s eBusy
    else if !auditRoom s then spdmFails s
    else withNonce s fun v s =>
      let id := newSid s
      let x : Sess := ⟨id, i3c, Config.ecdhe v pub, false, false⟩
      let s := countSessions ((advance s).onSdr fun d => { d with sessions := d.sessions ++ [x] })
      spdmOut (audit s 9 0 true 0 (id + 256)) 0x64 (leBytes 2 id))

/-- FINISH (R752, R754): a verified exchange makes the session usable, and an operator's signature of the transcript makes it
an operator session. One that does not verify ends the session. -/
def execFinish (sid : Nat) (ok : Bool) (oper : Option (Nat × Nat)) (s : State) : Host.Outcome State Fault Refusal :=
  .next (match sessOf s sid with
    | none => spdmError s eInvalid
    | some x =>
      if !sdrReady s then s
      else if !ok then spdmFails (closeSess s x)
      else
        let op := oper.any fun o => s.spl.active.any fun p => decide (o.1 ∈ p.operKeys.take 4) && Config.ecdsaVerify o.1 (transcript x) o.2
        spdmOut (onSess s sid fun x => { x with finished := true, oper := op }) 0x65 [])

/-- HEARTBEAT (R752). -/
def execHeartbeat (sid : Nat) (s : State) : Host.Outcome State Fault Refusal :=
  .next (match sessOf s sid with
    | none => spdmError s eInvalid
    | some x => if sdrReady s && x.finished then spdmOut s 0x68 [] else spdmError s eInvalid)

/-- KEY_UPDATE (R752): the session goes on under the next key. -/
def execKeyUpdate (sid : Nat) (s : State) : Host.Outcome State Fault Refusal :=
  .next (match sessOf s sid with
    | none => spdmError s eInvalid
    | some x =>
      if sdrReady s && x.finished then
        spdmOut (onSess s sid fun x => { x with key := Config.hmac384 x.key (ascii "traffic upd") }) 0x69 []
      else spdmError s eInvalid)

/-- END_SESSION (R752), refused while the store of audit records is full (R770). -/
def execEndSession (sid : Nat) (s : State) : Host.Outcome State Fault Refusal :=
  .next (match sessOf s sid with
    | none => spdmError s eInvalid
    | some x => if !sdrReady s then s else if auditRoom s then spdmOut (closeSess s x) 0x6C [] else spdmFails s)

/-- CHUNK_SEND (R752): chunks of a large request are gathered in order; the request they make comes as its own command. -/
def execChunkSend (handle seq : Nat) (last : Bool) (data : List Byte) (s : State) : Host.Outcome State Fault Refusal :=
  .next (let due := match s.sdr.chunkHandle with
      | some (h, n) => if h = handle then n else 0
      | none => 0
    if seq ≠ due then
      spdmError (s.onSdr fun d => { d with chunks := [], chunkHandle := none }) eInvalid
    else
      let bs := (if seq = 0 then [] else s.sdr.chunks) ++ data
      let s := s.onSdr fun d => { d with
        chunks := if last then [] else bs
        chunkHandle := if last then none else some (handle, seq + 1) }
      spdmOut s 0x05 (leBytes 1 handle ++ leBytes 2 seq))

/-- CHUNK_GET (R752). -/
def execChunkGet (handle seq : Nat) (s : State) : Host.Outcome State Fault Refusal :=
  .next (let n := max 1 Config.spdmLongest
    let part := (s.sdr.large.drop (seq * n)).take n
    if handle ≠ s.sdr.largeHandle ∨ part.isEmpty then spdmError s eInvalid
    else
      let s := if s.sdr.large.length ≤ (seq + 1) * n then s.onSdr fun d => { d with large := [] } else s
      s.onOut fun o => { o with spdm := o.spdm ++ [(0x06, leBytes 1 handle ++ leBytes 2 seq ++ part)] })

/-! Vendor-defined requests (Table SDR-5, R755). -/

/-- What a request's session permits: any finished one, or an operator session; an unpermitted request is answered with ERROR
and audited (R754). A Stage Door that is not READY ignores requests (Table SDR-8). -/
def vendor (s : State) (sid : Nat) (oper needsOpen : Bool) (f : State → State) : State :=
  if !sdrReady s then s
  else if (sessOf s sid).any (fun x => x.finished && (x.oper || !oper)) && !(needsOpen && sealedMode s) then f s
  else spdmError (audit (advance s) 1 0 true stSealedDenied (fresh s % 2 ^ 32)) eUnsupported

/-- An audited request, which is refused while the store of records is full (R770). -/
def vendorAudited (s : State) (sid : Nat) (oper needsOpen : Bool) (f : State → State) : State :=
  vendor s sid oper needsOpen fun s => if auditRoom s then f s else spdmFails s

def vendorDone (s : State) : State := spdmOut s 0x7E []

/-- SET_HOUSE_KEY (R742). -/
def execSetHouseKey (sid : Nat) (key : BitVec 256) (s : State) : Host.Outcome State Fault Refusal :=
  .next (vendorAudited s sid false false fun s =>
    if s.sdr.hk.isSome then spdmFails s
    else
      let s := (set s Fld.sdrStatusHouseKey 1).onSdr fun d => { d with hk := some key.toNat }
      vendorDone (audit s 6 0 true 0 0))

/-- PROGRAM_KEY (R741): each of keys 1 to 3 once. -/
def execProgramKey (sid idx : Nat) (digest : BitVec 384) (s : State) : Host.Outcome State Fault Refusal :=
  .next (vendorAudited s sid true true fun s =>
    if idx = 0 ∨ 3 < idx ∨ (s.sdr.keys.get? idx).isSome then spdmFails s
    else vendorDone (audit (s.onSdr fun d => { d with keys := d.keys.put idx digest.toNat }) 0x0F 0 true 0 idx))

/-- REVOKE_KEY (R741): for good; key 0 cannot be revoked. -/
def execRevokeKey (sid idx : Nat) (s : State) : Host.Outcome State Fault Refusal :=
  .next (vendorAudited s sid true true fun s =>
    if idx = 0 ∨ 3 < idx then spdmFails s
    else
      let s := s.onSdr fun d => { d with revoked := if idx ∈ d.revoked then d.revoked else d.revoked ++ [idx] }
      vendorDone (audit s 0x0F 0 true 0 (idx + 256)))

/-- The rollback floor (R761): raised, and never above the active seq. -/
def floorMay (s : State) (v : Nat) : Bool :=
  decide (s.sdr.floor ≤ v) && decide (v ≤ get s Fld.splActiveSeqV)

def raiseFloor (s : State) (fn v : Nat) (spdm : Bool) : State :=
  audit ((set s Fld.sdrFloorSeq v).onSdr fun d => { d with floor := v }) 0x0B fn spdm 0 v

/-- An injected record (R844). -/
def injectFault (s : State) (code : Nat) : State :=
  match faultClass code with
  | none => s
  | some c => if c = 4 then s else reportAs s true code 0xFFFF 0

/-- A locked field takes a value, with what a register write of it does (R758, R287, R844). -/
def setLocked (s : State) (v : Word) (f : Fld) : State :=
  let new := carried f v
  if f = Fld.sdrFloorSeq then (if floorMay s new then raiseFloor s 0 new true else s)
  else if f = Fld.fltInjectCode then injectFault (set s f new) new
  else if f = Fld.plyIdataHiV ((f.off - 0x400000) / 0x10000) then
    idataStore s ((f.off - 0x400000) / 0x10000) new
  else setTaken s s f new

/-- WRITE_LOCKED (R754, R758, R771): the RWL fields of a BAR0 register. -/
def execWriteLocked (sid off : Nat) (v : Word) (s : State) : Host.Outcome State Fault Refusal :=
  .next (vendorAudited s sid true false fun s =>
    let fs := (fieldsAt 0 off).filter fun f => f.acc = .rwl
    if fs.isEmpty then spdmFails s
    else
      let t := afterWrite s (fs.foldl (fun t f => setLocked t v f) s) 0 off
      vendorDone (audit t 0x0A 0 true 0 off))

/-- RAISE_FLOOR (R761). -/
def execRaiseFloor (sid : Nat) (seq : Word) (s : State) : Host.Outcome State Fault Refusal :=
  .next (vendorAudited s sid true false fun s =>
    if floorMay s seq.toNat then vendorDone (raiseFloor s 0 seq.toNat true) else spdmFails s)

/-- READ_AUDIT (Table SDR-5, R775): records of the Ledger by seq. -/
def execReadAudit (sid first count : Nat) (s : State) : Host.Outcome State Fault Refusal :=
  .next (vendor s sid true false fun s =>
    let rs := s.ldg.log.filter fun r => decide (first ≤ bits r 224 32) && decide (bits r 224 32 < first + count)
    spdmOut s 0x7E (rs.map wireBytes).flatten)

/-! Zeroisation (R763, R765 to R767). -/

/-- Every secret is overwritten and EXIT written; a ZEROISED Stage Door ignores it (Table SDR-8, Table SDR-9). -/
def fullZeroise (s : State) (spdm : Bool) : State :=
  if sdrState s = 3 ∨ s.sdr.zeroing then s
  else
    let s := s.onSdr fun d => { d with
      hk := none, tkeys := [], imp := none, sessions := [], drbg := none, large := [], chunks := [], chunkHandle := none
      zeroing := true }
    let s := countSessions (set s Fld.sdrStatusHouseKey 0)
    let s := s.onUnd fun u => { u with draining := [] }
    writeExit (audit s 4 0 spdm 0 0xFFFFFFFF)

/-- A tenant's slot is emptied (R767). -/
def zeroiseTenant (s : State) (t : Nat) (spdm : Bool) : State :=
  audit (s.onSdr fun d => { d with tkeys := d.tkeys.del t }) 4 0 spdm 0 t

/-- ZEROISE by SPDM (Table SDR-5, R765, R767). -/
def execSpdmZeroise (sid : Nat) (tenant : Option (BitVec 12)) (s : State) : Host.Outcome State Fault Refusal :=
  .next (vendorAudited s sid false false fun s =>
    match tenant with
    | none => fullZeroise (vendorDone s) true
    | some t => vendorDone (zeroiseTenant s t.toNat true))

/-- ZEROISE (R763, R765). -/
def execZeroise (v : Word) (s : State) : Host.Outcome State Fault Refusal :=
  .next (let off := Fld.sdrZeroCtlZeroise.off
    let t := commandWord s 0 off v
    if reaches s 0 off && bit v 0 && auditRoom t then
      let t := if bit v 1 then zeroiseTenant t (get t Fld.sdrZeroCtlTenant) false else t
      fullZeroise t false
    else t)

/-- TENANT_ZERO (R767). -/
def execTenantZero (v : Word) (s : State) : Host.Outcome State Fault Refusal :=
  .next (let off := Fld.sdrZeroCtlTenantZero.off
    let t := commandWord s 0 off v
    if reaches s 0 off && bit v 1 && !bit v 0 && auditRoom t && decide (sdrState t ≠ 3) then
      zeroiseTenant t (get t Fld.sdrZeroCtlTenant) false
    else t)

/-- A byte of a Loft activation or Costume region, or of Meadow (Table SDR-9, Table PLY-1). -/
def zeroisedByte (s : State) (a : Nat) : Bool :=
  if a < loftEnd then decide (0x20000 + wGran s * 0x10000 ≤ a % 0x600000) else true

/-- Every activation and Costume region and the whole of Meadow reads 0, with what they held. -/
def overwrite (s : State) : State :=
  let s := s.onMdw fun m => { m with
    mem := m.mem.filter fun c => !zeroisedByte s c.1
    poison := m.poison.filter fun c => !zeroisedByte s (8 * c.1)
    blocks := [], cached := [], lenPtr := [], handles := [] }
  let s := (s.onWdr fun w => { w with vers := [], load := none, copies := none }).onPrm fun p => { p with
    scripts := [], load := none, image := [], copies := none }
  s.onUnd fun u => { u with bodies := [], shards := [], manifests := [], transfers := [] }

/-- ZEROISE_COMPLETE (R765, R766): in ERROR the state stays. -/
def execZeroiseComplete (s : State) : Host.Outcome State Fault Refusal :=
  .next (if s.sdr.zeroing && isSet s Fld.fabExitCtlDrained then
      let s := (overwrite s).onSdr fun d => { d with zeroing := false }
      if sdrState s = 2 then s else set s Fld.sdrStatusState 3
    else s)

/-- TAMPER (R763, R765): a sensor zeroises in every state but ZEROISED, with a TAMPER record. -/
def execTamper (sensor : Word) (s : State) : Host.Outcome State Fault Refusal :=
  .next (if sdrState s = 3 then s else audit (fullZeroise s false) 0x0C 0 false 0 sensor.toNat)

/-! Tenant keys (R745 to R748). -/

def importBusy (s : State) : Bool := decide (get s Fld.sdrTkeyResultResult ∈ [1, 2])

/-- TKEY_IMPORT (R745, R746, R748). -/
def execTkeyImport (v : Word) (s : State) : Host.Outcome State Fault Refusal :=
  .next (let off := Fld.sdrTkeyImportImport.off
    let t := commandWord s 0 off v
    if !(reaches s 0 off && bit v 0) || importBusy t || !auditRoom t || !cryptoOn t then t
    else
      let tenant := get t Fld.sdrTkeyTenantTenant
      let at' := get t Fld.sdrTkeyAtLoV + get t Fld.sdrTkeyAtHiV * 2 ^ 32
      match houseKey t "TENANTWRAP" 256 with
      | none => set t Fld.sdrTkeyResultResult 5
      | some w =>
        let blob := ((List.range 10).map fun i => get t (Fld.sdrTkeyWrapV i) * 2 ^ (32 * i)).sum
        match Config.unwrap w blob with
        | none => audit (set t Fld.sdrTkeyResultResult 4) 5 0 false 4 tenant
        | some k => (set t Fld.sdrTkeyResultResult 2).onSdr fun d => { d with imp := some (tenant, k, at') })

/-- The scheduled key comes into force at L(n) of its cue, or at the next boundary (R746) at which its audit record finds room (R770). -/
def keyBoundary (s : State) (n : Nat) : State :=
  match s.sdr.imp with
  | some (t, k, c) =>
    if c ≤ n ∧ auditRoom s = true then
      let s := s.onSdr fun d => { d with imp := none, tkeys := d.tkeys.put t k }
      audit (set s Fld.sdrTkeyResultResult 3) 5 0 false 0 t
    else s
  | none => s

/-- FLOOR_WRITE (R12, R13, R761). -/
def execFloorWrite (fn : Fin 128) (v : Word) (s : State) : Host.Outcome State Fault Refusal :=
  .next (let off := Fld.sdrFloorSeq.off
    if fn.val ≠ 0 || !reaches s 0 off then s
    else if sealedMode s then lockedOut s 0 off Fld.sdrFloorSeq v
    else if floorMay s v.toNat && auditRoom s then raiseFloor s 0 v.toNat false
    else s)

/-- AUDIT_CLOSE (R768): the oldest record not handed over goes to the Ledger. -/
def execAuditClose (s : State) : Host.Outcome State Fault Refusal := .next (handAudit s 1)

end Sys2Proof.Machine
end

