-- ==== Sys2Proof/Machine/Ledger.lean ====
section
/-!
DEFINITION. The Ledger (spec/20_ledger.md): the log, image slots, wear levelling and recovery; the commands
LOG_PAGE_PROGRAM, LEDGER_STORE, LEDGER_STORE_DONE, WEAR_LEVEL_MOVE and ECC_SCHEDULED_MOVE. The rewrite order of R776 stands in
Ops (storeBlock): each command completes the sequences it starts.
-/
namespace Sys2Proof.Machine

def ledgerReady (s : State) : Bool := get s Fld.ldgStatusState = 1

/-- A pool block is retired with a RETIRE record; the 64th free block gone raises LEDGER_WORN, the last READ_ONLY (R782). -/
def retire (s : State) (p : Nat) : State :=
  let before := poolCount s
  let s := journalAdd (onPblk s p fun b => { b with head := [], mark := [], bad := true })
  let s := ledgerShow (inc s Fld.ldgRecoveryRetired 1)
  let s := if 64 ≤ before ∧ poolCount s < 64 then report (advance s) 0x1102 0xFFFF (fresh s % 2 ^ 32) else s
  if before ≠ 0 ∧ poolCount s = 0 then
    report (advance (set s Fld.ldgStatusState 2)) 0x1104 0xFFFF (fresh s % 2 ^ 32)
  else s

/-- The free block that a program took and that failed (R782). -/
def failFree (s : State) : State :=
  match findFree s 16352 (fresh s) with
  | some p => retire (advance s) p
  | none => s

/-- A logical block is written, on a second free block when the first fails. -/
def writeBlock (s : State) (lb : Nat) (ok : Bool) : State := storeBlock (if ok then s else failFree s) lb

/-! The log (R768, R770, R781). -/

/-- LOG logical block of the next page. -/
def logBlock (s : State) : Nat := 658 + s.ldg.logPos / 64 % 1024

/-- A page of the ring is programmed; once the ring has wrapped, a block is erased before its first page. -/
def nextPage (s : State) (ok : Bool) : State :=
  let p := poolOf s (logBlock s)
  let s := if s.ldg.logPos % 64 = 0 ∧ 65536 ≤ s.ldg.logPos then
      ledgerShow (onPblk s p fun b => { b with erases := b.erases + 1 })
    else s
  let s := if ok then s else retire (storeBlock s (logBlock s)) p
  s.onLdg fun l => { l with logPos := l.logPos + 1 }

/-- Audit records of a programmed page are persisted; the AUDIT_LOSS record comes first once there is room (R770). -/
def persisted (s : State) (n : Nat) : State :=
  let s := s.onSdr fun d => { d with unpersisted := d.unpersisted - n, handed := d.handed - n }
  if s.sdr.lossPend ≠ 0 ∧ auditRoom s then
    audit (s.onSdr fun d => { d with lossPend := 0 }) 0x0D 0 false 0 s.sdr.lossPend
  else s

/-- LOG_PAGE_PROGRAM (R768, R781, R782): a page of the audit stream, else one of the fault stream, 128 records at most. -/
def execLogPageProgram (ok : Bool) (s : State) : Host.Outcome State Fault Refusal :=
  .next (if !ledgerReady s then s
    else if !domLit s 61 then demandDom s 61
    else
      let rs := s.ldg.logPage.take 128
      let fs := (s.flt.log.filter fun r => decide (s.ldg.faultNext ≤ bits r 224 32)).take 128
      if !rs.isEmpty then
        let s := (nextPage s ok).onLdg fun l => { l with
          log := keepLast 262144 (l.log ++ rs), logPage := l.logPage.drop rs.length }
        persisted s rs.length
      else if !fs.isEmpty then
        (nextPage s ok).onLdg fun l => { l with
          faultLog := keepLast 8388608 (l.faultLog ++ fs), faultNext := (fs.getLast?.map (bits · 224 32)).getD 0 + 1 }
      else s)

/-! Image slots (R785 to R787, R790; Table LDG-5). -/

def putSlot (s : State) (k : Nat) (x : ImgSlot) : State := s.onLdg fun l => { l with slots := l.slots.set k x }

def slotOf (s : State) (k : Nat) : ImgSlot := s.ldg.slots.getD k ImgSlot.empty

def storeResult (s : State) (r : Nat) : State := set s Fld.ldgStoreStatusResult r

/-- The header of an image that slot `k` is to hold, complete. -/
def slotImage (s : State) (k : Nat) (img : List Byte) : ImgSlot :=
  ⟨2, img.length, fieldAt img 0x14 4, fieldAt img 0x10 4, (slotOf s k).count + 1, Config.sha384 img, img⟩

/-- The write of slot `k` begins with its header marked WRITING (R785). -/
def beginStore (s : State) (k : Nat) (x : ImgSlot) : State :=
  storeBlock ((putSlot (storeResult s 1) k { x with state := 1 }).onLdg fun l => { l with storing := some (k, x) }) (257 * k)

/-- The verification of a staged image (R786) and the start of its store. -/
def tryStore (s : State) (k : Nat) (img : List Byte) : State :=
  match (imageVerdict s img).filter (fun r => r.1 ≠ 6) with
  | some (r, _) => storeResult (advance s) r
  | none => beginStore s k (slotImage s k img)

/-- LEDGER_STORE (R785, R786, R790): the image is verified as under R637 without the BUSY row, and the header reads
WRITING. -/
def execLedgerStore (v : Word) (s : State) : Host.Outcome State Fault Refusal :=
  .next (let off := Fld.ldgStoreCtlStore.off
    let t := commandWord s 0 off v
    if !(reaches s 0 off && bit v 0) || decide (get t Fld.ldgStoreStatusResult = 1) then t
    else if !ledgerReady t then storeResult t 7
    else if t.ldg.bootSlot = some (get t Fld.ldgStoreCtlSlot) then storeResult t 6
    else tryStore (demandDom t 61) (get t Fld.ldgStoreCtlSlot) (stagedImage t (imageAddr t)))

/-- LEDGER_STORE_DONE (R782, R785, R787): the image blocks are written and then the header with VALID; PREFER then names the
slot. -/
def execLedgerStoreDone (ok : Bool) (s : State) : Host.Outcome State Fault Refusal :=
  .next (match s.ldg.storing with
    | none => s
    | some (k, x) =>
      if !domLit s 61 then demandDom s 61
      else
      let s := s.onLdg fun l => { l with storing := none }
      let s := if ok then s else failFree s
      if !ledgerReady s then storeResult s 7
      else
        let s := (List.range (ceilDiv x.len 262144)).foldl (fun s i => storeBlock s (257 * k + 1 + i)) s
        let s := storeResult (storeBlock (putSlot s k x) (257 * k)) 2
        if isSet s Fld.ldgStoreCtlPrefer then
          storeBlock ((set s Fld.ldgStatusPrefer k).onLdg fun l => { l with prefer := k }) stateBlock
        else s)

/-! Moves (R775, R776, R780). -/

/-- The most-worn free pool block. -/
def mostWorn (s : State) : Option (Nat × Nat) :=
  s.ldg.phys.foldl (fun best x =>
    if poolFree s x.1 then
      match best with
      | some (_, e) => if e < x.2.erases then some (x.1, x.2.erases) else best
      | none => some (x.1, x.2.erases)
    else best) none

/-- Logical blocks whose pool block is worn more than 512 less than an erase count. -/
def coldBlocks (s : State) (e : Nat) : List Nat :=
  (List.range logicalBlocks).filter fun lb => decide ((pblk s (poolOf s lb)).erases + 512 < e)

/-- WEAR_LEVEL_MOVE (R776, R780, R782): which of several cold blocks moves is a free choice. -/
def execWearLevelMove (ok : Bool) (s : State) : Host.Outcome State Fault Refusal :=
  .next (if !ledgerReady s || s.ldg.lastMove.any (fun t => decide (s.st < t + 100000000)) then s
    else if !domLit s 61 then demandDom s 61
    else
      match mostWorn s with
      | none => s
      | some (p, e) =>
        let cs := coldBlocks s e
        match cs[fresh s % max 1 cs.length]? with
        | none => s
        | some lb =>
          let s := (advance s).onLdg fun l => { l with lastMove := some s.st }
          if ok then rewriteTo s lb p else storeBlock (retire s p) lb)

/-- ECC_SCHEDULED_MOVE (R775, R776, R782). -/
def execEccScheduledMove (lb : Nat) (ok : Bool) (s : State) : Host.Outcome State Fault Refusal :=
  .next (if !(ledgerReady s && decide (lb < logicalBlocks)) then s
    else if !domLit s 61 then demandDom s 61
    else writeBlock s lb ok)

/-! Recovery (R783, R784; Table LDG-4). -/

/-- The pool block is the one that the map names for some logical block. -/
def mapped (s : State) (p : Nat) : Bool :=
  (s.ldg.map.any fun x => x.2 = p) || (decide (32 ≤ p) && decide (p < 32 + logicalBlocks) && poolOf s (p - 32) = p)

/-- What a loss of power in the midst of a rewrite leaves on the NAND (R784): nothing, a copy without its mark, a complete copy not
committed, or the old copy not yet erased: a free choice. -/
def cutRewrite (s : State) (lb : Nat) : State :=
  let k := fresh s % 4
  let s := advance s
  match findFree s 16352 (fresh s) with
  | none => s
  | some p =>
    let old := pblk s (poolOf s lb)
    let q := poolOf s lb
    let s := advance s
    if k = 1 then onPblk s p fun b => { PBlk.program lb (s.ldg.mapSeq + 1) b with mark := [] }
    else if k = 2 then onPblk s p (PBlk.program lb (s.ldg.mapSeq + 1))
    else if k = 3 then onPblk (rewriteTo s lb p) q fun b => { b with head := old.head, mark := old.mark }
    else s

/-- A fault of the NAND: the block that the map names for a logical block is not complete, and another complete copy is or is not there: a
free choice. -/
def nandFault (s : State) : State :=
  let lb := fresh s % logicalBlocks
  let copy := fresh (advance s) % 2 = 1
  let s := advance (advance s)
  let old := pblk s (poolOf s lb)
  let s := onPblk s (poolOf s lb) fun b => { b with mark := [] }
  match (if copy then findFree s 16352 (fresh s) else none) with
  | some p => onPblk (advance s) p fun b => { b with head := old.head, mark := old.mark }
  | none => s

/-- Unmapped complete copies of a logical block, highest map_seq first. -/
def copiesOf (s : State) (lb : Nat) : List (Nat × PBlk) :=
  (sortBy (fun x => x.2.mapSeq) (s.ldg.phys.filter fun x => !mapped s x.1 && !x.2.bad && x.2.complete && x.2.logical = lb)).reverse

/-- The contents of a logical block that reads as erased are gone (Table LDG-1; log entry 166). -/
def loseBlock (s : State) (lb : Nat) : State :=
  s.onLdg fun l => { l with
    slots := if lb < 514 then l.slots.set (lb / 257) ImgSlot.empty else l.slots
    manifests := if 530 ≤ lb ∧ lb < 658 then l.manifests.filter fun m => m.snapSeq % 128 ≠ lb - 530 else l.manifests }

/-- One row of RESOLVE: a block the map names that is not a complete copy (Table LDG-4). The LOG ring's blocks are written page by page and
are no copies (R781). -/
def repoint (s : State) (p : Nat) : State :=
  let lb := if s.ldg.map.any (fun x => x.2 = p) then (((s.ldg.map.find? fun x => x.2 = p).map Prod.fst).getD 0) else p - 32
  if 658 ≤ lb ∧ lb < 1682 then s
  else
    let s := match copiesOf s lb with
      | x :: _ => (inc s Fld.ldgRecoveryRepoint 1).onLdg fun l => { l with map := l.map.setD lb (lb + 32) x.1 }
      | [] => loseBlock s lb
    report (advance s) 0x1103 0xFFFF (fresh s % 2 ^ 32)

/-- RESOLVE of Table LDG-4: blocks the map names are mended, and of the others a complete copy counts in DUP, an incomplete one in TORN, and
both are erased. -/
def resolve (s : State) : State :=
  let s := ((s.ldg.phys.filter fun x => !x.2.bad && !x.2.complete && mapped s x.1).map Prod.fst).foldl repoint s
  let stray := s.ldg.phys.filter fun x => !x.2.bad && !mapped s x.1 && !(x.2.head.isEmpty && x.2.mark.isEmpty)
  stray.foldl (fun s x =>
    onPblk (inc s (if x.2.complete then Fld.ldgRecoveryDup else Fld.ldgRecoveryTorn) 1) x.1 PBlk.erase) s

/-- The Ledger at boot (R783, R784; Table LDG-4): the committed map holds. A store that the loss of power or reset cut off leaves what
`cutRewrite` says. Whether a fault of the NAND is met, in a block or in every checkpoint, is a free choice. -/
def recover (s : State) : State :=
  let cut := s.ldg.storing.map Prod.fst
  let s := s.onLdg fun l => { l with
    storing := none, lastMove := none, logPage := [], bootSlot := none, faultNext := 0, crashBusy := false }
  let s := match cut with | some k => cutRewrite s (257 * k) | none => s
  let nand := fresh s % 3
  let s := advance s
  let s := if nand = 1 then nandFault s
    else if nand = 2 then report (advance s) 0x1104 0xFFFF (fresh s % 2 ^ 32)
    else s
  let s := if nand = 2 then s else resolve s
  let s := set (set s Fld.ldgStatusPrefer s.ldg.prefer) Fld.ldgStatusState (if poolCount s = 0 ∨ nand = 2 then 2 else 1)
  ledgerShow s

end Sys2Proof.Machine
end

