-- ==== Sys2Proof/Machine/HostLoss.lean ====
section
/-!
DEFINITION. Loss of the host, PERST_N, Function Level Reset and PCIe completions (spec/02_host_attachment.md, "When the host
disappears"; R802): the commands HOST_LOSS, PERST_ASSERT, PERST_DEASSERT, PCIE_LINK_UP, GRACE_EXPIRY, FUNCTION_LEVEL_RESET,
FLR_COMPLETE, CONFIGURATION_REQUEST and PASID_TLP.
-/
namespace Sys2Proof.Machine

/-- The register fields stored in a range of offsets return to reset. -/
def resetRange (s : State) (a n : Nat) : State :=
  s.onRegs fun r => { r with flds := r.flds.filter fun x => !(decide (a ≤ x.1 / 32) && decide (x.1 / 32 < a + n)) }

/-- HAY host queues: every outstanding descriptor completes with ABORTED and the registers return to reset (Table MAP-4). -/
def resetQueues (s : State) : State :=
  let s := (abortQueues s).onHiu fun h => { h with hqs := [⟨[]⟩, ⟨[]⟩, ⟨[]⟩, ⟨[]⟩] }
  resetRange s 0xE00100 0x80

/-- The card by which the device itself has a Call ended with a status, for a reset function (R103) or an expired grace (R109): a
CANCEL that carries the status in heath_ttl, a field no CANCEL uses (R70; log entry 139). -/
def cancelCard (e : CallEnt) (code : Nat) : Card :=
  BitVec.ofNat 1024 (place 0 8 5 + place 8 8 1 + place 32 32 e.callId + place 64 12 e.tenant + place 592 2 e.ring +
    place 736 18 code)

/-- The lead of a Call is told to end it, behind every card of the Call; no outcome slot waits for an answer. -/
def cancelCall (s : State) (e : CallEnt) (code : Nat) : State :=
  if e.lead = selfDev s then arriveCard s (selfDev s) e.fn lostTag (cancelCard e code)
  else sendPkt s 0x10 e.lead lostTag (get s Fld.fabEpochEpoch) false (wireBytes (cancelCard e code) ++
    leBytes 4 (place 0 10 (selfDev s) + place 16 7 e.fn) ++ leBytes 4 0xFFFFFFFF ++ leBytes 8 0)

/-- Function numbers (R55). -/
def allFns : List Nat := List.range 128

/-- The PCIe link is down. -/
def linkGone (s : State) : State :=
  set (set (set s Fld.hiuLinkStatusRate 0) Fld.hiuLinkStatusWidth 0) Fld.hiuLinkStatusFlit 0

/-- Loss of the host (R104, R106): descriptors are aborted, the grace timer starts for every function for which it does not run
(log entry 40), and a Heath spill of this member ends (Table MDW-5). The Calls park at the next cue boundary. -/
def loseHost (s : State) : State :=
  if s.hiu.hostLost then s
  else
    let t := s.st
    let s := (abortQueues (set (linkGone s) Fld.hiuLinkStatusHostAbsent 1)).onHiu fun h => { h with
      hostLost := true
      grace := h.grace ++ (allFns.filter fun f => !h.grace.any fun g => g.1 = f).map fun f => (f, t) }
    let s := allFns.foldl (fun s f => set s (Fld.fnStatusGrace f) 1) s
    let slots := if isLead s then (s.stm.board.filter fun c => c.heath = .spilling).map (·.slot) else s.mdw.spills.map (·.slot)
    slots.foldl (fun s x => toLead s 8 x 1 fun s => leadSpilled s (selfDev s) x 1) s

/-- The lead of a Call, another device, is told when what parks it has changed (R198; log entry 139). -/
def tellParks (s : State) : State :=
  let es := s.hiu.callMap.filter fun e => e.lead ≠ selfDev s && e.decided && e.told ≠ parkCode s e
  es.foldl (fun s e => onEnt (tellLead s e outPark (parkCode s e)) e.fn e.callId fun x => { x with told := parkCode s e }) s

/-- At a cue boundary every Call of a function whose grace timer runs is parked (R106), and every Call whose Notice finds no free
entry (R79). -/
def parkHost (s : State) : State :=
  tellParks (s.onHiu fun h => { h with callMap := h.callMap.map fun e => { e with
    parkHost := e.parkHost || h.grace.any (fun g => g.1 = e.fn), parkNotice := noticeWaits s e } })

/-- HOST_LOSS (R104, R106, R198, R498). -/
def execHostLoss (s : State) : Host.Outcome State Fault Refusal := .next (loseHost s)

/-- PERST_ASSERT (R104 to R106, R798; Table MAP-4): rings and host queues reset, reservations stay with their Calls. -/
def execPerstAssert (s : State) : Host.Outcome State Fault Refusal :=
  .next (let s := if booted s then loseHost s else linkGone s
    let s := resetQueues s
    let s := (List.range 128).foldl (fun s f => resetRange (resetRange s (winBase f) 0x44) (winBase f + 0x1000) 0x120) s
    (s.onHiu fun h => { h with rings := h.rings.map fun r => (r.1, ⟨0, 0, false, r.2.resv, []⟩) }).onBrd fun b =>
      { b with perst := true })

/-- PERST_DEASSERT (R802). -/
def execPerstDeassert (s : State) : Host.Outcome State Fault Refusal :=
  .next (if s.brd.perst then s.onBrd fun b => { b with perst := false, cfgFrom := s.st } else s)

/-- PCIE_LINK_UP (R49, R50): width 1 to 16 and rate 1 to 6; FLIT mode at 64 GT/s. -/
def execPcieLinkUp (width rate : Nat) (s : State) : Host.Outcome State Fault Refusal :=
  .next (if s.brd.perst || decide (width ∉ [1, 2, 4, 8, 16]) || decide (rate = 0 ∨ 6 < rate) then s
    else
      let s := set (set s Fld.hiuLinkStatusRate rate) Fld.hiuLinkStatusWidth width
      let s := if rate = 6 then set s Fld.hiuLinkStatusFlit 1 else advance (set s Fld.hiuLinkStatusFlit (fresh s % 2))
      (set s Fld.hiuLinkStatusHostAbsent 0).onHiu fun h => { h with hostLost := false })

/-- A Call's entry goes with its reserved Notice entry, so nothing of it is delivered, and its lead ends the Call. -/
def graceEnds (code : Nat) (s : State) (e : CallEnt) : State :=
  let s := dropEnt s e.fn e.callId
  cancelCall (if e.finalWritten then s else unreserveNq s e.fn) e code

/-- Entries of undecided SUBMITs share their Notice reservation with their outcome slots, which go too. -/
def dropSlots (s : State) (fs : List Nat) : State :=
  s.onHiu fun h => { h with outcomes := h.outcomes.filter fun o => !(o.made && decide (o.fn ∈ fs)) }

/-- The Heath entries of a host that stays away (Table MDW-5): at the lead every Call with one ends, another member reports its
fill as failed. -/
def graceHeath (s : State) : State :=
  if isLead s then
    let ends (c : Call) : Call := { c with doom := some (c.doom.getD stHeathExpired) }
    s.onStm fun t => { t with board := mapIf (fun c => decide (c.heath = .inHeath ∨ c.heath = .filling)) ends t.board }
  else s.mdw.heath.foldl (fun s h => toLead s 9 h.slot 2 fun s => s) s

/-- The grace timer of a function that started at `t` ends (R106). -/
def graceEnd (s : State) (t : Nat) : Nat := t + get s Fld.hiuGraceGraceMs * 1000000

/-- A Call of this device that has not ended (R110). -/
def entLive (e : CallEnt) : Bool := e.decided && e.finalN.isNone && !e.finalWritten

/-- GRACE_EXPIRY (R106, R109, R110, R498): the command stands for the instant at which the earliest grace timer ends. -/
def execGraceExpiry (s : State) : Host.Outcome State Fault Refusal :=
  .next (match s.hiu.grace with
    | [] => s
    | g :: r =>
      let first := r.foldl (fun a x => min a x.2) g.2
      let fs := (s.hiu.grace.filter fun x => x.2 = first).map Prod.fst
      let s := s.setSt (max s.st (graceEnd s first))
      let es := s.hiu.callMap.filter fun e => decide (e.fn ∈ fs)
      let counts := fs.map fun f => (f, (es.filter fun e => e.fn = f && entLive e).length)
      let s := dropSlots (es.foldl (graceEnds stHostLost) s) fs
      let s := fs.foldl (fun s f => set s (Fld.fnStatusGrace f) 0) s
      let s := s.onHiu fun h => { h with
        grace := h.grace.filter (fun x => decide (x.1 ∉ fs))
        unread := h.unread.filter (fun x => decide (x.1 ∉ fs)), redo := h.redo.filter (fun x => decide (x.1 ∉ fs))
        expired := h.expired.filter (fun x => decide (x.1 ∉ fs)) ++ counts }
      if s.hiu.hostLost then graceHeath s else s)

/-- FUNCTION_LEVEL_RESET (R103, R855, R858). -/
def execFunctionLevelReset (fn : Fin 128) (s : State) : Host.Outcome State Fault Refusal :=
  .next (let f := fn.val
    let es := s.hiu.callMap.filter fun e => e.fn = f
    let s := es.foldl (graceEnds stCancelled) s
    let s := s.onHiu fun h => { h with
      outcomes := h.outcomes.filter fun o => o.fn ≠ f
      rings := h.rings.filter fun r => r.1 / 8 ≠ f
      rrSq := h.rrSq.del f
      grace := h.grace.filter fun g => g.1 ≠ f, expired := h.expired.filter fun x => x.1 ≠ f
      unread := h.unread.filter fun x => x.1 ≠ f, redo := h.redo.filter fun x => x.1 ≠ f
      flr := if f ∈ h.flr then h.flr else h.flr ++ [f] }
    let s := resetRange s (winBase f) 0x4000
    wmUpdate (if f = 0 then resetQueues s else s) 0)

/-- FLR_COMPLETE (R103, R858). -/
def execFlrComplete (fn : Fin 128) (s : State) : Host.Outcome State Fault Refusal :=
  .next (s.onHiu fun h => { h with flr := h.flr.erase fn.val })

/-- PCIe completion statuses: successful, unsupported request, request retry. -/
def pcieSc : Nat := 0
def pcieUr : Nat := 1
def pcieRrs : Nat := 2

def pcieAnswer (s : State) (c data : Nat) : State := s.onOut fun o => { o with pcie := o.pcie ++ [(c, data)] }

/-- The PCIe Revision ID register of a function (R2). -/
def revisionId (s : State) (fn : Nat) : Nat := s.hiu.revs.getD fn 0x10

/-- CONFIGURATION_REQUEST (R2, R802): a request that completes shows the function's Revision ID. -/
def execConfigurationRequest (fn : Fin 128) (s : State) : Host.Outcome State Fault Refusal :=
  .next (let early := s.brd.perst || get s Fld.hiuBootPhase = 0 ||
      decide ((s.st : Int) < max s.brd.cfgFrom s.brd.resetEnd + 100000000)
    if early then pcieAnswer s pcieRrs 0 else pcieAnswer s pcieSc (revisionId s fn.val))

/-- PASID_TLP (R52). -/
def execPasidTlp (s : State) : Host.Outcome State Fault Refusal := .next (pcieAnswer s pcieUr 0)

end Sys2Proof.Machine
end

