-- ==== Sys2Proof/Machine/BringUp.lean ====
section
/-!
DEFINITION. Power-up, resets and boot (spec/21_bring_up.md, spec/24_package_and_pins.md): the commands COLD_POWER_UP,
SUPPLY_LOSS, WARM_RST, WARM_RESET_FLUSH_DONE, WARM_RST_RELEASE, STARTUP_TESTS_DONE, SELFTEST_DONE, WLOAD_BEGIN, WLOAD_DONE
and WEIGHT_HASH_DONE.
-/
namespace Sys2Proof.Machine

/-! What a reset clears and keeps (Table BRING-2, Table MAP-4). -/

/-- The Stage Door after a reset: its fuses, and at a warm reset the House key and the tenant slots. IV counters go on at the
reservation (R743). -/
def sdrAfter (s : State) (warm : Bool) : Sdr :=
  { State.reset.sdr with
    hk := if warm then s.sdr.hk else none
    tkeys := if warm then s.sdr.tkeys else []
    ivNext := s.ldg.ivResv, ivResv := s.ldg.ivResv
    keys := s.sdr.keys, revoked := s.sdr.revoked, floor := s.sdr.floor, lastSealed := s.sdr.lastSealed }

/-- The board's levels: what stands outside the device. -/
def brdAfter (s : State) : Brd :=
  { State.reset.brd with
    sealStrap := s.brd.sealStrap, sled := s.brd.sled, perst := s.brd.perst, warmLow := s.brd.warmLow, hbmOk := s.brd.hbmOk }

/-- Every domain reset, in the RESET phase. -/
def cleared (s : State) (warm : Bool) : State :=
  let t : State := { State.reset with
    sdr := sdrAfter s warm, ldg := s.ldg, brd := brdAfter s, out := s.out, freeCtr := s.freeCtr, pending := s.pending }
  let t := set (set t Fld.sdrFloorSeq s.sdr.floor) Fld.sdrStatusLastSealed (b2n s.sdr.lastSealed)
  set t Fld.sdrStatusHouseKey (b2n t.sdr.hk.isSome)

/-! Boot (R799 to R803; Table BRING-3). -/

def bootPhase (s : State) : Nat := get s Fld.hiuBootPhase
def setPhase (s : State) (p : Nat) : State := set s Fld.hiuBootPhase p

/-- Boot stops. -/
def bootFails (s : State) (why : Nat) : State := set (setPhase s 6) Fld.hiuBootFail why

/-- This boot followed a cold power-up. -/
def coldBoot (s : State) : Bool := !isSet s Fld.hiuBootWarm && !isSet s Fld.hiuBootDeep

/-- SELFTEST begins: Ledger recovery, and the epoch, one more than the saved one after a cold power-up or deep wake (R542,
R783). -/
def beginSelftest (s : State) : State :=
  if isSet s Fld.fltStatusFatal then s
  else
    let s := recover (setPhase (s.onBrd fun b => { b with resetEnd := s.st }) 1)
    if isSet s Fld.hiuBootWarm then set s Fld.fabEpochEpoch s.ldg.epoch
    else
      let e := s.ldg.epoch % 255 + 1
      storeBlock ((set s Fld.fabEpochEpoch e).onLdg fun l => { l with epoch := e }) stateBlock

/-- RESET ends unless WARM_RST_N is low (R879). -/
def leaveReset (s : State) : State := if s.brd.warmLow then s else beginSelftest s

/-- A slot qualifies: VALID, matching its digest, for this place in the Sled, in order under R637, not below the floor (R761,
R787, R800). -/
def slotSet (s : State) (k : Nat) : Option Plot :=
  let x := slotOf s k
  let img := x.image
  if x.state = 2 ∧ Config.sha384 img = x.digest ∧ imageOk img ∧ fieldAt img 14 2 % 8 = s.brd.sled ∧
      imageSigned s img = true ∧ s.sdr.floor ≤ fieldAt img 0x14 4 then
    (plotFrom img).filter fun p => (plotBad p).isEmpty
  else none

/-- The slot boot uses: the one PREFER names, then the other (R787). -/
def bootChoice (s : State) : Option (Nat × Plot) :=
  let a := s.ldg.prefer
  match slotSet s a with
  | some p => some (a, p)
  | none => (slotSet s (1 - a)).map fun p => (1 - a, p)

/-- Initial credits of every link (R528). -/
def putCredits (s : State) (p : Plot) : State :=
  (List.range 12).foldl (fun s l =>
    [Fld.fabCreditInit0Sub0 l, Fld.fabCreditInit0Sub1 l, Fld.fabCreditInit1Sub0 l, Fld.fabCreditInit1Sub1 l,
      Fld.fabCreditInit2Sub0 l, Fld.fabCreditInit2Sub1 l, Fld.fabCreditInit3Sub0 l, Fld.fabCreditInit3Sub1 l].zipIdx.foldl
        (fun s x => set s x.1 (p.credits.getD (8 * l + x.2) 0)) s) s

/-- Registers that show class P settings (R415, R509, R528, Table SWL-4). -/
def plotRegsP (s : State) (p : Plot) : State :=
  let c := coords p.device
  let s := set (set (set (set s Fld.fabSelfDevice p.device) Fld.fabSelfX c.1) Fld.fabSelfY c.2.1) Fld.fabSelfZ c.2.2
  let s := (List.range 96).foldl (fun s i => set s (Fld.swlCfgDepth (0x20 + i)) (p.credits.getD i 0)) s
  let s := putCredits (set (set s Fld.fabSelfRacks p.racks) Fld.cuePeriodNsV p.period) p
  let s := set (set s Fld.grsDomainLoV p.domain) Fld.grsDomainHiV (p.domain / 2 ^ 32)
  s.onCue fun x => { x with anchorCue := p.anchorCue }

/-- The RWL field stored under a key. -/
def rwlOf (key : Nat) : Option Fld := (blockFields (key / 32)).find? fun f => f.lo = key % 32 && f.acc = .rwl

/-- At a Sealed boot every field the locked-value table lists is written (R758). -/
def putLocked (s : State) (p : Plot) : State :=
  if sealedMode s then
    p.locked.foldl (fun s x =>
      match rwlOf x.1 with
      | some f =>
        if f = Fld.sdrFloorSeq then (if floorMay s x.2 then raiseFloor s 0 x.2 true else s) else set s f x.2
      | none => s) s
  else s

/-- APPLY: the image becomes both sets, the memories are cleared, and the device is BOOTED (R635, R758, R803, R887). -/
def bootApply (s : State) (p : Plot) : State :=
  let s := shadowIn (putShadow (setPhase s 3) p)
  let s := putLocked (plotRegsD (plotRegsP s p) p) p
  if !s.brd.hbmOk then report (advance (bootFails s 3)) 0x0804 0xFFFF (fresh s % 2 ^ 32)
  else
    let s := s.onMdw fun m => { m with mem := [], poison := [] }
    let s := bootTargets ((List.range 96).foldl loadSheets s) p
    let s := castRoles (set s Fld.splSwapStatusState 0) 0
    let s := setPhase s 4
    set s Fld.hiuBootBootMs (min 65535 ((((s.st : Int) - s.brd.resetEnd) / 1000000).toNat))

/-- IMAGE: the slot is chosen, the mode set, and a first Open boot after a Sealed one zeroises (R756, R759, R788). -/
def bootImage (s : State) : State :=
  let c := bootChoice s
  let s := setPhase s 2
  let sealing := if coldBoot s then s.brd.sealStrap || c.any (fun x => x.2.sealRequired) else sealedMode s
  let s := set s Fld.sdrStatusSealed (b2n sealing)
  let wipe := coldBoot s && !sealing && s.sdr.lastSealed
  let s := if coldBoot s then
      (set s Fld.sdrStatusLastSealed (b2n sealing)).onSdr fun d => { d with lastSealed := sealing }
    else s
  if wipe then bootFails (fullZeroise s false) 2
  else
    match c with
    | none => set (setPhase s 5) Fld.ldgStatusNoImage 1
    | some (k, p) => bootApply (set (s.onLdg fun l => { l with bootSlot := some k }) Fld.ldgStatusBooted k) p

/-- SELFTEST has ended once the Stage Door's tests and Wind's start-up tests have. -/
def bootNext (s : State) : State := if bootPhase s = 1 ∧ s.brd.sdrDone ∧ s.brd.windDone then bootImage s else s

/-! The commands. -/

/-- COLD_POWER_UP (R542, R783, R792, R794, R795, R799, R863, R877): every rail is in regulation and the straps are sampled. After
a wrong order the device boots, or stays in RESET with FAULT_N low: a free choice. -/
def execColdPowerUp (sealHigh : Bool) (sled : BitVec 3) (ordered hbmOk : Bool) (s : State) :
    Host.Outcome State Fault Refusal :=
  .next (let stuck := !ordered && decide (fresh s % 2 = 1)
    let s := if ordered then s else advance s
    let t := (cleared s false).onBrd fun b => { b with
      powered := true, sealStrap := sealHigh, sled := sled.toNat, hbmOk := hbmOk }
    let t := set t Fld.sdrStatusSealed (b2n sealHigh)
    if stuck then report (advance t) 0x1201 0xFFFF (fresh t % 2 ^ 32) else leaveReset t)

/-- SUPPLY_LOSS (R792, R795, R841): operation ends; the Ledger and the fuses stay. -/
def execSupplyLoss (s : State) : Host.Outcome State Fault Refusal :=
  .next ((cleared s false).onBrd fun b => { b with powered := false, perst := true })

/-- A warm reset begins: the Stage Door is held until its records are persisted (R797), or DRAINED is awaited after an EXIT
(R819). From a Struck domain 63 it is a deep wake (R608). -/
def warmReset (s : State) : State :=
  if domState s 63 = 4 then
    let t := set (cleared s false) Fld.hiuBootDeep 1
    leaveReset (set t Fld.sdrStatusSealed (b2n t.sdr.lastSealed))
  else if s.fab.exitWritten && !isSet s Fld.fabExitCtlDrained then s.onBrd fun b => { b with warmHeld := true }
  else s.onBrd fun b => { b with flushing := true }

/-- WARM_RST (R796, R797, R608, R819, R868, R879): a pulse of 1 µs is recognised, one below 100 ns ignored, between them either
may happen. In the RESET phase the level counts. -/
def execWarmRst (lowNs : Nat) (s : State) : Host.Outcome State Fault Refusal :=
  .next (if !s.brd.powered || decide (bootPhase s = 0 ∧ domState s 63 ≠ 4) then s.onBrd fun b => { b with warmLow := true }
    else if lowNs < 100 then s
    else if 1000 ≤ lowNs then warmReset s
    else if fresh s % 2 = 1 then warmReset (advance s)
    else advance s)

/-- WARM_RESET_FLUSH_DONE (R235, R690, R763, R783, R797, R827, R855): the records are persisted, or 2 ms have passed; every
domain resets and boot starts at SELFTEST. -/
def execWarmResetFlushDone (s : State) : Host.Outcome State Fault Refusal :=
  .next (if s.brd.flushing then
      let t := set (cleared s true) Fld.hiuBootWarm 1
      beginSelftest (set t Fld.sdrStatusSealed (get s Fld.sdrStatusSealed))
    else s)

/-- WARM_RST_RELEASE (R879). -/
def execWarmRstRelease (s : State) : Host.Outcome State Fault Refusal :=
  .next (let t := s.onBrd fun b => { b with warmLow := false }
    if s.brd.warmLow && s.brd.powered && decide (bootPhase s = 0) then beginSelftest t else t)

/-- STARTUP_TESTS_DONE (R408, R409). -/
def execStartupTestsDone (raw : BitVec 4096) (s : State) : Host.Outcome State Fault Refusal :=
  .next (let s := startupTests raw s
    if bootPhase s = 1 then bootNext (windBootDone s) else s)

/-- The Stage Door enters ERROR (R764, R803). -/
def sdrError (s : State) (fails : Nat) : State :=
  let s := audit (set (set s Fld.sdrStatusState 2) Fld.sdrStatusSelftest fails) 3 0 false 0 fails
  let s := if 1 ≤ bootPhase s ∧ bootPhase s ≤ 3 then bootFails s 1 else s
  writeExit (report (advance s) 0x1001 0xFFFF (fresh s % 2 ^ 32))

/-- SELFTEST_DONE (R762 to R764, R803; Table SDR-8): the self-tests of boot, or a consistency test that failed later. -/
def execSelftestDone (fails : BitVec 8) (s : State) : Host.Outcome State Fault Refusal :=
  .next (let f := fails.toNat
    if sdrState s = 0 ∧ bootPhase s ≠ 0 then
      if f = 0 then
        let s := audit (set s Fld.sdrStatusState 1) 2 0 false 0 (get s Fld.sdrStatusSealed)
        bootNext (s.onBrd fun b => { b with sdrDone := true })
      else sdrError s f
    else if sdrState s = 1 ∧ f ≠ 0 then sdrError s f
    else s)

/-! Weights (R811 to R815). -/

def setWload (s : State) (st : Nat) : State := set s Fld.plyWloadStatusState st

def putDigest (s : State) (d : Nat) : State :=
  (List.range 12).foldl (fun s i => set s (Fld.plyWdigestV i) (d / 2 ^ (32 * i))) s

/-- WLOAD_BEGIN (R812, R681). -/
def execWloadBegin (v : Word) (s : State) : Host.Outcome State Fault Refusal :=
  .next (let off := Fld.plyWloadCtlBegin.off
    let t := commandWord s 0 off v
    if !(reaches s 0 off && bit v 0) then t
    else if isSet t Fld.stmCtlEn then set t Fld.plyWloadStatusRefused 1
    else set (setWload (putDigest t 0) 1) Fld.undBuddyWcopyValid 0)

/-- WLOAD_DONE (R813). -/
def execWloadDone (v : Word) (s : State) : Host.Outcome State Fault Refusal :=
  .next (let off := Fld.plyWloadCtlDone.off
    let t := commandWord s 0 off v
    if reaches s 0 off && bit v 1 && !bit v 0 && decide (get t Fld.plyWloadStatusState = 1) then setWload t 2 else t)

/-- The whole weight view in address order (R252). -/
def weightBytes (s : State) : List Byte :=
  (List.range (96 * wGran s * 0x10000)).map fun i => readByte s (weightPhys (weightBase + i))

/-- WEIGHT_HASH_DONE (R813). -/
def execWeightHashDone (s : State) : Host.Outcome State Fault Refusal :=
  .next (if get s Fld.plyWloadStatusState = 2 then setWload (putDigest s (Config.sha384 (weightBytes s))) 3 else s)

end Sys2Proof.Machine
end

