-- ==== Sys2Proof/Machine/Swales.lean ====
section
/-!
DEFINITION. Swale instances (spec/14_swales.md): items, marks, forced resets and what each of them loses; the commands
SWALE_WRITE, SWALE_READ, MARK, REWIND, RELEASE, POINTER_MISMATCH, SWALE_RESET, FLUSH_DONE, HOLD_DONE, WATERMARK_DWELL_END,
RESET_CUE and SILENT_SELF_RESET. The retry buffer of a link stands in its link (Link.retry).
-/
namespace Sys2Proof.Machine

/-- 0 RUN, 1 FLUSH, 2 HOLD. -/
def swPhase (s : State) (i : Nat) : Nat := get s (Fld.swlStatusState i)
def setSwPhase (s : State) (i st : Nat) : State := wmUpdate (set s (Fld.swlStatusState i) st) i

def swG (s : State) (i : Nat) : Bool := swlExists i && isSet s (Fld.swlCfgBuild i)
def swDisplace (s : State) (i : Nat) : Bool := isSet s (Fld.swlCfgPolicy i)
def swMarked (s : State) (i : Nat) : Bool := isSet s (Fld.swlCfgMark i)

/-- Instances whose items are control items (R571): arrivals of tokens, Cue arrival, link buffers, descriptor queues. -/
def controlItems (i : Nat) : Bool := decide (i ∈ [3, 4]) || (decide (8 ≤ i) && decide (i < 0xA0))

/-! Items (R568, R569, R572, R582). -/

/-- The words as they enter, the first with its parity inverted when INJECT asks for it. -/
def enterWords (inject : Bool) (ws : List (BitVec 64)) : List (Nat × Bool) :=
  ws.zipIdx.map fun x => (x.1.toNat, inject && x.2 = 0)

/-- SWALE_WRITE (R568, R581, R582, R601, R602; Table SWL-2): a BLOCK write that finds no room or no RUN waits outside. -/
def execSwaleWrite (i : Nat) (words : List (BitVec 64)) (s : State) : Host.Outcome State Fault Refusal :=
  .next (if !swlExists i then s
    else if swPhase s i ≠ 0 then (if swDisplace s i then inc s (Fld.swlLostV i) 1 else s)
    else if swFull s i && !swDisplace s i then s
    else
      let old := swFull s i
      let inj := isSet s (Fld.swlCtlInject i)
      let s := if old then onSw (inc s (Fld.swlLostV i) 1) i fun w => { w with items := w.items.drop 1 } else s
      let s := onSw s i fun w => { w with items := w.items ++ [enterWords inj words] }
      wmUpdate (set s (Fld.swlCtlInject i) (get s (Fld.swlCtlInject i) - b2n (!words.isEmpty))) i)

/-- SWALE_READ (R569, R571, R572, R576, R577): an empty instance, or one in FLUSH or HOLD, gives the idle item, which changes
nothing. -/
def execSwaleRead (i : Nat) (s : State) : Host.Outcome State Fault Refusal :=
  .next (if swPhase s i ≠ 0 then s
    else
      match (swOf s i).items with
      | [] => s
      | w :: r =>
        let bad := (w.filter (·.2)).length
        let s := onSw s i fun x => { x with items := r, readOut := if swMarked s i then x.readOut ++ [w] else x.readOut }
        let s := if 0x20 ≤ i ∧ i < 0x80 then owe s ((i - 0x20) / 8) ((i - 0x20) % 8) (pktUnits (itemPkt w)) else s
        let s := if bad = 0 then s
          else
            let s := set (inc s (Fld.swlCountPoisoned i) bad) (Fld.swlStatusParity i) 1
            let s := report (advance s) 0x0B02 i (fresh s % 2 ^ 32)
            if controlItems i then report (advance s) 0x0B03 i (fresh s % 2 ^ 32) else s
        wmUpdate s i)

/-! Marks (R576 to R580). -/

/-- MARK (R576, R578): M is set to R. -/
def execMark (i : Nat) (s : State) : Host.Outcome State Fault Refusal :=
  .next (if swlExists i && swMarked s i && swPhase s i = 0 then
      onSw s i fun w => { w with markAt := w.readOut.length }
    else s)

/-- REWIND (R578, R580): the entries read since the mark are to be read again. -/
def execRewind (i : Nat) (s : State) : Host.Outcome State Fault Refusal :=
  .next (if swlExists i && swMarked s i && swPhase s i = 0 then
      wmUpdate (onSw s i fun w => { w with items := w.readOut.drop w.markAt ++ w.items, readOut := w.readOut.take w.markAt }) i
    else s)

/-- RELEASE of `k` entries (R577, R578, R580): F stops at R, and a mark it passes moves with it. Of a link's retry buffer the
oldest flits go. -/
def execRelease (i k : Nat) (s : State) : Host.Outcome State Fault Refusal :=
  .next (if swlExists i && swMarked s i && swPhase s i = 0 then
      let n := (swOf s i).readOut.length
      let s := onSw s i fun w => { w with readOut := w.readOut.drop k, markAt := w.markAt - k }
      wmUpdate (onLink s (i - 8) fun x => { x with retry := x.retry.drop (k - n) }) i
    else s)

/-! Forced resets (R574, R575; Tables SWL-2 and SWL-6). -/

/-- The lead ends every Call for which it sent a Cue-channel item to a member in the reset cue or the two before it (R596). -/
def leadResetCue (s : State) (src cue : Nat) : State :=
  let hit := s.stm.sent.filter fun x => x.2.1 = src && decide (x.1 ≤ cue) && decide (cue ≤ x.1 + 2)
  let ends (c : Call) : Call := { c with doom := some (c.doom.getD stLostWork) }
  s.onStm fun t => { t with board := mapIf (fun c => c.phase ≠ .ended && hit.any fun x => x.2.2 = c.slot) ends t.board }

/-- The Cue Lists of the cue in progress and of the next are broken, and the lead is told (R596). -/
def cueArrivalReset (s : State) : State :=
  let n := cueNum s
  let ls := s.stm.lists.map fun l => if l.1 = n ∨ l.1 = n + 1 then (l.1, l.2.1, true) else l
  let ls := if ls.any fun l => l.1 = n + 1 then ls else ls ++ [(n + 1, [], true)]
  let s := if selfStage s = some 0 then s.onStm fun t => { t with lists := ls } else s
  toLead s 10 0xFFFF n fun s => leadResetCue s (selfDev s) n

/-- The decision queue holds these cards from now on; another card at its head has just reached it. -/
def setQueue (s : State) (q : List QCard) : State :=
  let same := q.head? = s.box.q.head?
  noteHead (s.onBox fun b => { b with q := q, head := if same then b.head else none })

/-- Cards fetched and neither forwarded nor decided are refused with LOST_WORK (R593), those in this device's own Box Office among
them. -/
def ingressReset (s : State) : State :=
  let mine := (s.box.waiting ++ s.box.q).filter fun q => q.src = selfDev s && q.tag ≠ lostTag
  let s := setQueue (s.onBox fun b => { b with waiting := b.waiting.filter fun q => q ∉ mine }) (s.box.q.filter fun q => q ∉ mine)
  (List.range s.hiu.outcomes.length).foldl (fun s i =>
    if (s.hiu.outcomes[i]?).any fun o => o.notice.isNone &&
        ((o.card.isSome && o.tag.isNone) || mine.any fun q => o.tag = some q.tag) then refuseSlot s i stLostWork true
    else s) s

/-- The decision queue is built again from the staging windows, in device-number order, the oldest card of each first (R594). -/
def rebuildQueue (s : State) : State :=
  setQueue (s.onBox fun b => { b with waiting := sortBy (·.src) b.waiting }) (sortBy (·.src) s.box.q)

/-- What a forced reset of an instance loses, and its resolution (Table SWL-6, R593 to R599). -/
def swaleLoses (s : State) (i : Nat) : State :=
  let raw := (swOf s i).items.length + (swOf s i).readOut.length
  let s := onSw s i fun _ => Sw.empty
  if i = 0 then ingressReset s
  else if i = 1 then rebuildQueue s
  else if i = 3 then s.onStm fun t => { t with arriving := [] }
  else if i = 4 then cueArrivalReset s
  else if i = 5 then s.onPrm fun p => { p with lists := [] }
  else if 8 ≤ i ∧ i < 20 then
    (onLink s (i - 8) fun x => { x with retry := [] }).onFab fun b => { b with silent := some (b.silent.getD s.st) }
  else if 0x20 ≤ i ∧ i < 0x80 then s.onFab fun b => { b with silent := some (b.silent.getD s.st) }
  else if 0x9C ≤ i ∧ i < 0xA0 then abortQueue s (i - 0x9C)
  else if i = 0xA0 then inc s (Fld.swlLostV i) raw
  else if i = 0xA1 then
    let n := s.pbk.recs.length
    let s := inc s (Fld.swlLostV i) (raw + n)
    if n = 0 then s
    else (set s Fld.pbkStatusReplayable 0).onPbk fun b => { b with recs := [], lost := b.lost + n }
  else s

/-- The instance enters FLUSH with a fault; `run` tells that it was in RUN. What the first pointer copies show as occupancy is a
free value up to the depth (R575). -/
def mismatch (s : State) (i : Nat) (run : Bool) : State :=
  let n := fresh s % (swDepth s i + 1)
  let s := if run then inc (set (advance s) (Fld.swlStatusMismatch i) 1) (Fld.swlDiscardedV i) n else s
  let s := set (set (inc s (Fld.swlCountResets i) 1) Fld.swlLastId i) Fld.swlLastCue (cueNum s)
  let s := report (advance s) 0x0B01 i (fresh s % 2 ^ 32)
  setSwPhase (swaleLoses s i) i 1

/-- POINTER_MISMATCH (R573 to R575, R593 to R599; Tables SWL-2 and SWL-6): a Swale-F has no pointers. -/
def execPointerMismatch (i : Nat) (s : State) : Host.Outcome State Fault Refusal :=
  .next (if !swG s i || swPhase s i = 1 then s else mismatch s i (swPhase s i = 0))

/-- SWALE_RESET (R575, R593 to R599; Table SWL-2). -/
def execSwaleReset (i : Nat) (v : Word) (s : State) : Host.Outcome State Fault Refusal :=
  .next (if !swlExists i then s
    else
      let off := (Fld.swlCtlReset i).off
      let t := commandWord s 0 off v
      if !(reaches s 0 off && bit v 0 && swG t i) || swPhase t i = 1 then t
      else
        let t := if swPhase t i = 0 then inc t (Fld.swlDiscardedV i) (min (swOcc t i) (swDepth t i)) else t
        setSwPhase (swaleLoses t i) i 1)

/-- FLUSH_DONE (Table SWL-2): pointers and mark are 0. -/
def execFlushDone (i : Nat) (s : State) : Host.Outcome State Fault Refusal :=
  .next (if swPhase s i = 1 then setSwPhase (onSw s i fun _ => Sw.empty) i 2 else s)

/-- HOLD_DONE (Table SWL-2). -/
def execHoldDone (i : Nat) (s : State) : Host.Outcome State Fault Refusal :=
  .next (if swPhase s i = 2 then setSwPhase s i 0 else s)

/-- WATERMARK_DWELL_END (R867): the pin takes the watermark state of the instant, and holds it for 100 ns again if it changed. -/
def execWatermarkDwellEnd (egress : Bool) (s : State) : Host.Outcome State Fault Refusal :=
  .next (if egress then wmPin (s.setSt (max s.st s.brd.egressDwell)) 2 else wmPin (s.setSt (max s.st s.brd.ingressDwell)) 0)

/-- RESET_CUE (R596). -/
def execResetCue (src : Fin 1024) (company cue : Nat) (s : State) : Host.Outcome State Fault Refusal :=
  .next (if isLead s && ownId s = company && decide (src.val ∈ memberDevs s) then leadResetCue s src.val cue else s)

/-- SILENT_SELF_RESET (R554, R597): after ABSENT_US + 1 µs of silence the device resets as a warm reset does. -/
def execSilentSelfReset (s : State) : Host.Outcome State Fault Refusal :=
  .next (match s.fab.silent with
    | none => s
    | some _ =>
      let t := set (cleared s true) Fld.hiuBootWarm 1
      beginSelftest (set t Fld.sdrStatusSealed (get s Fld.sdrStatusSealed)))

end Sys2Proof.Machine
end

