-- ==== Sys2Proof/Machine/CueSync.lean ====
section
/-!
DEFINITION. Stage Time, anchors, roots and lock (spec/05_cue_line.md, R806 to R810), and the temperature sensor (spec/15
R624, R625); the commands CUE_MON_FALL, PERIOD_REQUEST, PPS_EDGE, PPS_TIMEOUT, PRIMARY_ROOT_TIMEOUT, SECONDARY_ROOT_TIMEOUT,
TIME_EXCHANGE, HOLDOVER_EXPIRY and TEMP_SAMPLE.
-/
namespace Sys2Proof.Machine

/-- Stage Time steps, which only a device that has launched no cue does (R223, R225, R809); instants held on the board move
along. -/
def stepSt (s : State) (t : Nat) : State :=
  let s' := s.onBrd fun b => { b with
    cfgFrom := b.cfgFrom + (t : Int) - s.st, resetEnd := b.resetEnd + (t : Int) - s.st }
  s'.setSt t

/-- Stage Time is slewed forwards towards a value, by at most 50 ppm of the Stage Time since the last correction; towards an earlier one it
only runs slower, which no command shows (R223 to R225; log entry 27). -/
def slewSt (s : State) (t : Nat) : State :=
  let d := min (t - s.st) ((s.st - s.cue.slewFrom) * 50 / 1000000)
  (s.setSt (s.st + d)).onCue fun c => { c with slewFrom := s.st }

/-- CUE_TOD_NEXT. -/
def todNext (s : State) : Nat := get s Fld.cueTodLoV + get s Fld.cueTodHiV * 2 ^ 32

/-- Two Stage Times more than a second apart (R225). -/
def tooFar (a b : Nat) : Bool := decide (1000000000 < max a b - min a b)

/-- An edge of PPS_IN at the acting root takes CUE_TOD_NEXT (R224 to R226). -/
def takeTod (s : State) : State :=
  if s.cue.todNew then
    let t := todNext s
    let s := (set s Fld.cueStatusPpsLost 0).onCue fun c => { c with todNew := false }
    if s.cue.launched then slewSt (set s Fld.cueStatusTodFar (b2n (tooFar t s.st))) t
    else stepSt s t
  else set s Fld.cueStatusPpsLost 1

/-- This device may enter ROOT at boot as the primary: it is in ACQUIRE and knows no other acting root (R806, R242). -/
def primaryStarts (s : State) : Bool :=
  booted s && isRoot s true && s.cue.rootPrimary && cueState s = 0 && !s.cue.launched

/-- With no time of day ever supplied, Stage Time starts at 0 at the root's first lock (R226). -/
def startTime (s : State) : State :=
  if todNext s = 0 ∧ s.cue.todNew = false ∧ s.cue.launched = false then stepSt s 0 else s

/-- PPS_EDGE (R223 to R226, R806, R808). -/
def execPpsEdge (s : State) : Host.Outcome State Fault Refusal :=
  .next (if cueState s = 4 then setFirst (takeTod s)
    else if primaryStarts s then enterRoot (takeTod (startTime s)) true
    else s)

/-- PPS_TIMEOUT (R226). -/
def execPpsTimeout (s : State) : Host.Outcome State Fault Refusal :=
  .next (if cueState s = 4 then set s Fld.cueStatusPpsLost 1 else s)

/-- PRIMARY_ROOT_TIMEOUT (R806, R808). -/
def execPrimaryRootTimeout (s : State) : Host.Outcome State Fault Refusal :=
  .next (if primaryStarts s then enterRoot (set (startTime s) Fld.cueStatusPpsLost 1) true else s)

/-- SECONDARY_ROOT_TIMEOUT (R807, R808). -/
def execSecondaryRootTimeout (s : State) : Host.Outcome State Fault Refusal :=
  .next (match s.spl.active with
    | none => s
    | some p =>
      if booted s && isRoot s false && (topoOf s p.rootPrimary).state ≠ 1 && decide (cueState s ∈ [0, 2]) then
        enterRoot (if s.cue.anchored then s else startTime s) false
      else s)

/-! Time exchanges. -/

/-- Signed value of CUE_ASYM of a link. -/
def asymOf (s : State) (l : Nat) : Int :=
  let v := getA s (Fld.cueAsymV l)
  if v < 2 ^ 15 then v else (v : Int) - 2 ^ 16

/-- The offset to the parent after the link's correction (R221). -/
def exchangeOffset (s : State) (l : Nat) (off : Int) : Int :=
  if asymOf s l = 0 then off else Config.asymOffset off (asymOf s l)

/-- The parent's anchor and period (R230, R232, R809): a new anchor announced for a cue to come under the old one is taken for
that cue; any other difference is adopted, with an ANCHOR fault once a cue was launched. -/
def takeAnchor (s : State) (m : TimeMsg) : State :=
  let a := (m.anchorCue, m.anchorSt, m.period)
  if (s.cue.anchorCue, s.cue.anchorSt, get s Fld.cuePeriodNsV) = a ∨ s.cue.pendAnchor = some a then s
  else if s.cue.anchored && decide (cueNum s < m.anchorCue) && decide (m.anchorSt = launchSt s m.anchorCue) then
    s.onCue fun c => { c with pendAnchor := some a }
  else
    let s' := putAnchor s m.anchorCue m.anchorSt m.period
    if s.cue.launched then report (advance s') 0x0303 0xFFFF (fresh s % 2 ^ 32) else s'

/-- The runs of exchanges within LOCK_PS and beyond LOSS_NS. -/
def setRuns (s : State) (inRun outRun : Nat) : State := s.onCue fun c => { c with inRun := inRun, outRun := outRun }

/-- CUE_OFFSET shows the low 32 bits of the offset. -/
def noteOffset (s : State) (off : Int) : State := set s Fld.cueOffsetV (off % 2 ^ 32).toNat

/-- The lock state after an exchange with the given offset (Table CUE-2). -/
def lockStep (s : State) (off : Int) : State :=
  let t := noteOffset s off
  if off.natAbs ≤ getA s Fld.cueLockLockPs then
    let t := setRuns t (s.cue.inRun + 1) 0
    if 16 ≤ s.cue.inRun + 1 ∧ cueState s ∈ [0, 2] then set t Fld.cueStatusState 1 else t
  else if getA s Fld.cueLockLossNs * 1000 < off.natAbs then
    if s.cue.outRun + 1 < 3 then setRuns t 0 (s.cue.outRun + 1)
    else if cueState s = 1 then report (advance (loseLock (setRuns t 0 0))) 0x0301 0xFFFF (fresh s % 2 ^ 32)
    else setRuns t 0 0
  else setRuns t 0 0

/-- The acting root as the parent names it (R243). -/
def takeRoot (s : State) (primary : Bool) : State :=
  if s.cue.rootPrimary = primary then s else cueTopo (s.onCue fun c => { c with rootPrimary := primary })

/-- A primary in ROOT that has launched no cue hears of the secondary acting: it takes that neighbour as parent (R243). -/
def leaveRoot (s : State) (l : Nat) : State :=
  (set (set s Fld.cueStatusState 0) Fld.cueStatusParent l).onCue fun c => { c with rootPrimary := false, anchored := false }

/-- The exchange that this device sends on a link: its Stage Time, its anchor and period, those announced for a cue to come where there are any,
and the acting root (R219, R230, R232, R243). It leaves with each exchange received there and with a new anchor (log entry 153). -/
def sendTime (s : State) (l : Nat) : State :=
  let (ac, ast, p) := s.cue.pendAnchor.getD (s.cue.anchorCue, s.cue.anchorSt, get s Fld.cuePeriodNsV)
  ctrl s l 1 (place 0 1 (b2n s.cue.rootPrimary) + place 1 48 ac + place 49 64 ast + place 113 32 p + place 145 64 s.st)

/-- The exchange on every link that is UP. -/
def sendTimes (s : State) : State :=
  (List.range 12).foldl (fun s l => if get s (Fld.fabLinkStatusState l) = 3 then sendTime s l else s) s

/-- TIME_EXCHANGE (R218 to R223, R232, R235, R242, R243, R809, R866): in OUT and at the acting root it is ignored; only the
parent's exchange counts. -/
def execTimeExchange (link : Fin 12) (m : TimeMsg) (s : State) : Host.Outcome State Fault Refusal :=
  .next (let l := link.val
    if !booted s || !linkRuns s l || cueState s = 3 then s
    else
      let s := sendTime s l
      let s := if cueState s = 4 ∧ s.cue.launched = false ∧ isRoot s true ∧ m.rootPrimary = false then leaveRoot s l else s
      if cueState s = 4 then s
      else
        let s := if get s Fld.cueStatusParent = l ∨ get s Fld.cueStatusParent = 0xF then takeRoot s m.rootPrimary else s
        if get s Fld.cueStatusParent ≠ l then s
        else
          let s := if s.cue.anchored || s.cue.launched then s else putAnchor (stepSt s m.st) m.anchorCue m.anchorSt m.period
          let s := if s.cue.launched then slewSt s m.st else s
          setFirst (lockStep (takeAnchor s m) (exchangeOffset s l m.offPs)))

/-- HOLDOVER_EXPIRY (R235, R237, R244). -/
def execHoldoverExpiry (s : State) : Host.Outcome State Fault Refusal :=
  .next (if cueState s = 2 then
      let s := s.setSt (max s.st (s.cue.holdoverSt + max 1 (getA s Fld.cueLockHoldoverMs) * 1000000))
      writeExit (report (advance (set s Fld.cueStatusState 3)) 0x0302 0xFFFF (fresh s % 2 ^ 32))
    else s)

/-- A period that R229 allows. -/
def periodOk (p : Nat) : Bool := p % 1000 = 0 && decide (250000 ≤ p) && decide (p ≤ 32000000)

/-- CUE_PERIOD_AT. -/
def periodAt (s : State) : Nat := get s Fld.cuePeriodAtLoV + get s Fld.cuePeriodAtHiV * 2 ^ 32

/-- PERIOD_REQUEST (R229 to R231): the write of AT_HI submits the request. -/
def execPeriodRequest (v : Word) (s : State) : Host.Outcome State Fault Refusal :=
  .next (let off := Fld.cuePeriodAtHiV.off
    let t := commandWord s 0 off v
    if !reaches s 0 off then t
    else
      let t := set t Fld.cuePeriodAtHiV v.toNat
      let at' := periodAt t
      let p := get t Fld.cuePeriodNextV
      let waits := t.cue.pendAnchor.any fun a => decide (cueNum t < a.1)
      if !periodOk p || decide (at' < cueNum t + 16) || waits then set t Fld.cueStatusPeriodErr 1
      else sendTimes (t.onCue fun c => { c with pendAnchor := some (at', launchSt t at', p) }))

/-- CUE_MON_FALL (R247). -/
def execCueMonFall (s : State) : Host.Outcome State Fault Refusal :=
  .next (match s.cue.monSt with
    | some t => ((s.setSt (max s.st (t + 1024))).onCue fun c => { c with monSt := none }).onBrd fun b => { b with monPin := false }
    | none => s)

/-! The temperature sensor (R624, R625). -/

/-- The throttle of the trip, which never lifts. -/
def tripOn (s : State) : State := (applyThrottle (set s Fld.lgtStatusTrip 1)).onLgt fun l => { l with trip := true }

/-- The trip: FAULT_N, the throttle and EXIT. -/
def thermalTrip (s : State) (sensor : Nat) : State :=
  tripFall (writeExit (report (advance (tripOn s)) 0x0C02 sensor (fresh s % 2 ^ 32)))

/-- TEMP and THERM_ALERT at the hottest sensor's temperature. -/
def noteTemp (s : State) (t : Nat) : State :=
  let u := set s Fld.lgtTempT t
  if getA s Fld.lgtThermAlert ≤ t then
    ((set u Fld.lgtStatusAlert 1).onLgt fun l => { l with alertSince := true }).onBrd fun b => { b with thermPin := true }
  else if t + 40 ≤ getA s Fld.lgtThermAlert then (set u Fld.lgtStatusAlert 0).onBrd fun b => { b with thermPin := false }
  else u

/-- TEMP_SAMPLE (R215, R613, R624, R625): the hottest junction sensor, in eighths of a degree. -/
def execTempSample (temps : List Nat) (s : State) : Host.Outcome State Fault Refusal :=
  .next (let t := temps.foldl max 0
    if 880 ≤ t ∧ s.lgt.trip = false then thermalTrip (noteTemp s t) (temps.findIdx fun x => x = t) else noteTemp s t)

end Sys2Proof.Machine
end

