-- ==== Sys2Proof/Machine/Launch.lean ====
section
/-!
DEFINITION. The cue boundary (Table CUE-1, R227 to R246): composition of the next Cue List by the lead and the launch of the
next cue; the commands COMPOSITION_START and CUE_LAUNCH.
-/
namespace Sys2Proof.Machine

/-! Composition. -/

/-- A device whose Company's Calls are composed here and whose cues can launch. -/
def composes (s : State) : Bool := booted s && isLead s && isSet s Fld.stmCtlEn && canLaunch s

/-- Composition of cue `n` at the lead: none in a Lost Company (R695), before every member has reported ready (R817), or from
cue S of a scene change on, whose cut is announced for S + 1 (R656, R692). A replay composes a recorded cue (R728). -/
def composeNext (s : State) (n : Nat) : State :=
  if ownId s ∈ s.fab.lost then s
  else
    match (sceneAt s).filter fun c => decide (c ≤ n) with
    | some c => if n = c + 1 ∧ (s.spl.scene.all fun x => x.company = ownId s) then sendSnap s n 16 else s
    | none =>
      if get s Fld.pbkReplayStatusState = 2 then replayCue s n
      else if s.stm.started || allReady s n then composeCue (undCompose s n) n none
      else s

/-- COMPOSITION_START (R184 to R203, R656, R667, R714, R728, R817): composition of the next cue to launch begins, once. -/
def execCompositionStart (s : State) : Host.Outcome State Fault Refusal :=
  .next (let n := nextCue s
    if !composes s || decide (n < s.stm.nextComp) then s
    else
      let s := s.setSt (max s.st (composeSt s n))
      composeNext (s.onStm fun m => { m with nextComp := n + 1 }) n)

/-! Lost Companies at a boundary (R44 to R46, R548, R552, R695 to R697, R705). -/

/-- The record of this device shows a device ABSENT, or EXITING. -/
def memberAbsent (s : State) (d : Nat) : Bool := decide (d ≠ selfDev s) && (topoOf s d).state = 3
def memberExits (s : State) (d : Nat) : Bool :=
  if d = selfDev s then s.fab.exitWritten else (topoOf s d).state = 2

/-- A Company serves, for R548: no scene change of it has begun that this device knows of. -/
def companyServes (s : State) (c : Nat) : Bool :=
  if c = ownId s then !sceneOn s else !(s.fab.adverts.any fun a => a.company = c && !a.admitting)

/-- Companies that become Lost at this boundary. -/
def newlyLost (s : State) : List Nat :=
  let cs := match s.spl.active with | some p => p.companies | none => []
  (cs.filter fun c => !decide (c.id ∈ s.fab.lost) &&
    ((c.members.any fun m => memberAbsent s m.dev) ||
      (companyServes s c.id && c.members.any fun m => memberExits s m.dev))).map (·.id)

/-- The lead of a Lost Company lets its Calls go: their coordinator restores or ends them (R695, R705). -/
def dropBoard (s : State) : State :=
  let ops := (s.stm.board.map fun c => c.ops ++ c.hop.toList).flatten
  let s := sweepBlocks (s.onStm fun m => { m with board := [], sent := [], lists := [] })
  ops.foldl (fun s o => answerOp s o 0 1 0) s

/-- A member of a Lost Company frees its Heath entries (R707). -/
def dropAllHeath (s : State) : State := (s.mdw.heath.map (·.slot) ++ s.mdw.spills.map (·.slot)).foldl dropHeath s

/-- Models this device's Calls of a Lost Company run, and whether any Company of the preference list can take them. -/
def noTaker (s : State) (company : Nat) : Bool :=
  let model := match s.spl.active.bind fun p => p.companyInfo company with | some c => c.model | none => 0
  !((prefList s model).any fun c => serving s c)

/-- A Lost Company's Calls go to its restore coordinator, which begins here if it is this device (R696); with no Company
left to take them, each submitting device ends its own (R46). -/
def restoreLost (s : State) (company : Nat) : State :=
  if s.und.restoring.isSome then s
  else
    let s := s.onUnd fun u => { u with lostDone := u.lostDone ++ [company] }
    if noTaker s company then
      (s.hiu.callMap.filter fun e => e.company = company).foldl (fun s e => endLostHere s e.fn e.callId) s
    else beginRestore s company

/-- Marking at a boundary. -/
def markBoundary (s : State) : State := (newlyLost s).foldl markLost s

/-- What a Lost own Company gives up at the boundary, after Calls that had ended were released. -/
def lostBoundary (s : State) : State :=
  let s := if ownId s ∈ s.fab.lost then dropAllHeath (if isLead s ∧ s.stm.board ≠ [] then dropBoard s else s) else s
  (s.fab.lost.filter fun c => c ∉ s.und.lostDone).foldl restoreLost s

/-! Parts of the boundary. -/

/-- A period change or a new anchor comes into force at its cue (R230). -/
def anchorBoundary (s : State) (n : Nat) : State :=
  match s.cue.pendAnchor with
  | some (ac, ast, p) => if ac ≤ n then putAnchor s ac ast p else s
  | none => s

/-- CUE_MON rises at L(n) (Table CUE-1, R247). -/
def monBoundary (s : State) (n : Nat) : State :=
  if isSet s Fld.cueCtlMonEn then
    (s.onCue fun c => { c with monSt := some (launchSt s n) }).onBrd fun b => { b with monPin := true }
  else s

/-- Windows of early warning (R830). -/
def windowBoundary (s : State) (n : Nat) : State :=
  let w := max 1 (get s Fld.fltEwWindowCues)
  if w = s.flt.winLen ∧ n % w ≠ 0 then s
  else
    (set (set s Fld.fltWindowCorr 0) Fld.fltWindowCont 0).onFlt fun f => { f with
      ewCorr := false, ewCont := false, winStart := n, winLen := w }

/-- The capacity model of the cue being launched (R131, R190, R818). -/
def modelBoundary (s : State) (n : Nat) : State :=
  if s.stm.started then
    let r := s.stm.reading
    let ix := List.range 12
    let (p, d) := capModel (ix.map (stageBudget s n)) (ix.map (costFix s)) (ix.map (costDec s)) (ix.map (costPf s))
      (ownStages s) (decCap s n r) (pfCap s n r) (decodeCount s) (fresh s)
    set (set (advance s) Fld.boxModelPrefillRate p) Fld.boxModelDecodeSlots d
  else s

/-- The cue just ended joins the history that casting reads (R201); results no LINES record still needs go. -/
def histBoundary (s : State) (n : Nat) : State :=
  let d := decodeCount s
  s.onStm fun m => { m with
    hist := keepLast 64 (m.hist ++ [(m.admittedToks, d)]), admittedToks := 0
    results := m.results.filter fun r => decide (n < r.1 + 4) }

/-- The revalidation sweep (R412, R413, R503). -/
def sweepBoundary (s : State) (n : Nat) : State :=
  if n % 1024 = 0 then
    tryRekey ((set (uncache s fun _ => true) Fld.mdwTableStatusSweepCue (n % 65536)).onGrs fun g => { g with due := true })
  else s

/-- A DRBG without a seed asks again (R751). -/
def drbgBoundary (s : State) : State := if isSet s Fld.sdrStatusNeedSeed then windRequest s windForDrbg else s

/-- The lead advertises its Company to the House (R82, R698). -/
def advertise (s : State) : State :=
  match ownCompany s with
  | none => s
  | some c =>
    let lost := decide (c.id ∈ s.fab.lost)
    let a : Advert := ⟨c.id, c.model, admitting s && !sceneOn s && !refusesAll s, c.exact, lost, 16384 - s.stm.board.length,
      unreserved s, cueNum s⟩
    let body := leBytes 2 a.company ++ leBytes 2 a.model ++
      leBytes 2 (b2n a.admitting + 2 * b2n a.exact + 4 * b2n a.lost) ++ leBytes 2 a.slots ++ leBytes 4 a.blocks ++
      leBytes 6 a.cue ++ leBytes 6 0
    let s := s.onFab fun b => { b with adverts := b.adverts.filter (fun x => x.company ≠ a.company) ++ [a] }
    sendAll s 0x34 ((s.fab.topo.map Prod.fst).filter (reachable s)) body

/-- What only a lead does at L(n). -/
def leadBoundary (s : State) (n : Nat) : State :=
  let s := markBoundary s
  let s := boardBoundary (wardrobeBoundary s) n
  let s := lostBoundary s
  if isLead s then modelBoundary (histBoundary (budgetBoundary s) n) n else s

/-- Stage-0 beats and casting. -/
def stageBoundary (s : State) (n : Nat) : State :=
  match selfStage s with
  | some 0 => launchList s n
  | some _ => launchOther s n
  | none => s

/-- The actions of the boundary of cue `n` on this device (Table CUE-1, R234): a swap's values govern the others (R646). -/
def cueBoundary (s : State) (n : Nat) : State :=
  -- audit records of the cue just ended go to the Ledger (R768)
  let s := handAudit s s.sdr.unpersisted
  let s := windowBoundary (monBoundary (swapBoundary s n) n) n
  let cut := s.und.snapMsg.any fun m => snapCue m = n
  let s := leadBoundary (parkHost s) n
  let s := liftThrottle (ringBoundary s)
  let s := stageBoundary (census s n) n
  let s := takeCut (sceneBoundary s n) n
  let s := bookBoundary (undBoundary s n) n cut
  let s := keyBoundary (sweepBoundary (drbgBoundary (freeScripts s)) n) n
  if isLead s then advertise s else s

/-- CUE_LAUNCH (Table CUE-1, R227, R228, R234, R237): the next cue, at its own instant, only in LOCKED, HOLDOVER or ROOT. -/
def execCueLaunch (s : State) : Host.Outcome State Fault Refusal :=
  .next (if !booted s || !canLaunch s then s
    else
      let n := nextCue s
      let s := s.setSt (max s.st (launchSt s n))
      let s := (anchorBoundary s n).onCue fun c => { c with
        num := n, launched := true, slewFrom := if c.launched then c.slewFrom else s.st }
      cueBoundary s n)

end Sys2Proof.Machine
end

