-- ==== Sys2Proof/Machine/Faults.lean ====
section
/-!
DEFINITION. The fault block's own commands (spec/22_faults.md R822 to R845): FAULT_REPORT, CRASH_CAPSULE_TIMEOUT,
PARTIAL_RESET, PARTIAL_RESET_COMPLETE and FAULT_INJECT.
-/
namespace Sys2Proof.Machine

/-- The ECC counter of a corrected or uncorrected word (R467, R829). -/
def eccCount (s : State) (code : Nat) : State :=
  if code = 0x0404 then inc s Fld.fltLoftEccCorr 1
  else if code = 0x0405 then inc s Fld.fltLoftEccUncorr 1
  else if code = 0x0801 then inc s Fld.mdwEccCorrected 1
  else if code = 0x0802 then inc s Fld.mdwEccUncorrected 1
  else s

/-- The word that an uncorrectable read of Loft or Meadow delivers carries a poison tag (R467, R829, R832). The record names its Player, or its
KV block or none; which word of it that is, is a free value (log entry 174). -/
def eccPoison (s : State) (code inst detail : Nat) : State :=
  if code = 0x0405 ∧ inst < 96 then setPoison (advance s) (inst * 0x600000 + fresh s % 0x600000)
  else if code = 0x0802 then
    setPoison (advance s) (if detail < get s Fld.mdwLayoutPoolBlocks then blockAddr s detail + fresh s % max 1 (blockBytes s)
      else meadowBase + fresh s % (meadowEnd - meadowBase))
  else s

/-- FAULT_REPORT (R467, R822 to R831, R840): a block reports; a code outside Table FAULT-2 is never raised. -/
def execFaultReport (code inst : BitVec 16) (detail : Word) (s : State) : Host.Outcome State Fault Refusal :=
  .next (report (eccPoison (eccCount s code.toNat) code.toNat inst.toNat detail.toNat) code.toNat inst.toNat detail.toNat)

/-- CRASH_CAPSULE_TIMEOUT (R841): a capsule still unwritten stays so, and domain 61 no longer waits for it. -/
def execCrashCapsuleTimeout (s : State) : Host.Outcome State Fault Refusal :=
  .next (if s.ldg.crashBusy then tripFall (s.onLdg fun l => { l with crashBusy := false }) else s)

/-! Partial resets (R839, Table FAULT-6, Table MAP-4): what a block loses, its RO status and its counters. -/

def clearFlds (s : State) (fs : List Fld) : State := fs.foldl (fun s f => set s f 0) s

/-- The Prompter: passes in progress and the diagnostic record. Scripts and contexts stay. -/
def resetPrompter (s : State) : State :=
  let s := s.onPrm fun p => { p with lists := [], merges := [], handed := [], load := none, image := [], copies := none }
  clearFlds s [Fld.prmMergedV, Fld.prmPicksGreedy, Fld.prmPicksInfPick, Fld.prmEndsDeadEnd, Fld.prmEndsPoison,
    Fld.prmEndsListDrop, Fld.prmDiagUV, Fld.prmDiagSLoV, Fld.prmDiagSHiV, Fld.prmDiagSelCands, Fld.prmDiagSelKept,
    Fld.prmDiagTokenV, Fld.prmDiagPosV, Fld.prmDiagCueV, Fld.prmLoadStatusResult, Fld.prmSpecDraftedV,
    Fld.prmSpecAcceptedV]

/-- The Wardrobe: every residency, and a load in progress. What was resident is copied again. -/
def resetWardrobe (s : State) : State :=
  let me := selfDev s
  let s := s.onWdr fun w => { w with
    load := none, copies := none
    vers := w.vers.map fun v => { v with
      resident := false, loft := [], copying := v.resident || v.copying, residents := v.residents.filter fun d => d ≠ me } }
  noteWdr (clearFlds s [Fld.wdrLoadStatusResult, Fld.wdrLoadStatusVersion, Fld.wdrUse1Waiting, Fld.wdrQueryDataVersion,
    Fld.wdrQueryDataTenant, Fld.wdrQueryDataRefs])

/-- The Understudy: the snapshot is abandoned as for a copy fault, the drain skipped. -/
def resetUnderstudy (s : State) : State :=
  let s := if isLead s then abandonSnap s
    else if s.und.copying then
      match leadDev s with
      | some l => send (dropView s) 0x36 l (reportBody 4 (ownId s) s.und.cutCue 0xFFFF 0)
      | none => dropView s
    else s
  let s := s.onUnd fun u => { u with draining := [] }
  clearFlds s [Fld.undStatusState, Fld.undStatusLastResult, Fld.undStatusDraining, Fld.undStatusAbandoned,
    Fld.undLastCueLoV, Fld.undLastCueHiV, Fld.undLastSeqV, Fld.undStallCountV, Fld.undStallMaxV, Fld.undBuddyWcopyValid,
    Fld.undRestoreRestored, Fld.undRestoreLost, Fld.undWithdrawnWithdrawn, Fld.undHostResultResult]

/-- The Prompt Book: records not yet framed, whose loss clears REPLAYABLE and is recorded at the next boundary (R721). -/
def resetBook (s : State) : State :=
  let k := s.pbk.recs.length
  let s := if k = 0 then s
    else (set s Fld.pbkStatusReplayable 0).onPbk fun b => { b with recs := [], lost := b.lost + k }
  let s := clearFlds s [Fld.pbkStatusStalled, Fld.pbkStatusCapsules]
  if replaying s then s
  else clearFlds s [Fld.pbkReplayStatusState, Fld.pbkReplayStatusResult, Fld.pbkReplayStatusListDiff,
    Fld.pbkReplayStatusLineDiff, Fld.pbkReplayCueLoV, Fld.pbkReplayCueHiV]

/-- A block that FLT_PRST names: its bit, its number, its domains, its BUSY bit and its reset, in ascending block number. -/
structure PrstBlock where
  bitNo : Nat
  block : Nat
  doms : List Nat
  busy : Fld
  deriving DecidableEq, Repr

def prstBlocks : List PrstBlock :=
  [⟨0, 5, [57, 58], Fld.fltPrstBusyPrm⟩, ⟨1, 7, [59], Fld.fltPrstBusyWdr⟩, ⟨2, 14, [60], Fld.fltPrstBusyUnd⟩,
    ⟨3, 15, [63], Fld.fltPrstBusyPbk⟩]

/-- The reset of one named block. -/
def prstOne (v : Word) (s : State) (b : PrstBlock) : State :=
  if !bit v b.bitNo || b.doms.any (fun d => domState s d ≠ 0) then s
  else
    let t := match b.bitNo with
      | 0 => resetPrompter s
      | 1 => resetWardrobe s
      | 2 => resetUnderstudy s
      | _ => resetBook s
    report (advance (set t b.busy 1)) 0x1202 b.block (fresh t % 2 ^ 32)

/-- PARTIAL_RESET (R839, R855). -/
def execPartialReset (v : Word) (s : State) : Host.Outcome State Fault Refusal :=
  .next (let off := Fld.fltPrstPrm.off
    let t := commandWord s 0 off v
    if reaches s 0 off then prstBlocks.foldl (prstOne v) t else t)

/-- PARTIAL_RESET_COMPLETE (R839): BUSY of the block, in bit order, clears. -/
def execPartialResetComplete (b : Fin 4) (s : State) : Host.Outcome State Fault Refusal :=
  .next (match prstBlocks[b.val]? with
    | some x => set s x.busy 0
    | none => s)

/-- FAULT_INJECT (R12, R13, R844). -/
def execFaultInject (fn : Fin 128) (v : Word) (s : State) : Host.Outcome State Fault Refusal :=
  .next (let off := Fld.fltInjectCode.off
    if fn.val ≠ 0 || !reaches s 0 off then s
    else if sealedMode s then lockedOut s 0 off Fld.fltInjectCode v
    else injectFault (set s Fld.fltInjectCode (v.toNat % 65536)) (v.toNat % 65536))

end Sys2Proof.Machine
end

