-- ==== Sys2Proof/Machine/Dispatch.lean ====
section
/-!
DEFINITION. The dispatch: one arm per command, each a direct call of the command's meaning.
-/
namespace Sys2Proof.Machine

def exec (i : Instr) (s : State) : Host.Outcome State Fault Refusal :=
  match i with
  | .registerWrite fn off be v => Sys2Proof.Machine.execRegisterWrite fn off be v s
  | .heldRwsWriteLands => Sys2Proof.Machine.execHeldRwsWriteLands s
  | .cueNowRead => Sys2Proof.Machine.execCueNowRead s
  | .sqTailDoorbell fn n v => Sys2Proof.Machine.execSqTailDoorbell fn n v s
  | .lqHeadDoorbell fn n v => Sys2Proof.Machine.execLqHeadDoorbell fn n v s
  | .nqHeadDoorbell fn v => Sys2Proof.Machine.execNqHeadDoorbell fn v s
  | .cardFetch card => Sys2Proof.Machine.execCardFetch card s
  | .promptPullDone fn callId toks poison fault => Sys2Proof.Machine.execPromptPullDone fn callId toks poison fault s
  | .submit => Sys2Proof.Machine.execSubmit s
  | .contin => Sys2Proof.Machine.execContin s
  | .pause => Sys2Proof.Machine.execPause s
  | .resume => Sys2Proof.Machine.execResume s
  | .cancel => Sys2Proof.Machine.execCancel s
  | .releasePrefix => Sys2Proof.Machine.execReleasePrefix s
  | .prefixLookup slot => Sys2Proof.Machine.execPrefixLookup slot s
  | .lineWrite fn callId ok => Sys2Proof.Machine.execLineWrite fn callId ok s
  | .noticeWrite fn sel ok => Sys2Proof.Machine.execNoticeWrite fn sel ok s
  | .hqTailDoorbell k v descs => Sys2Proof.Machine.execHqTailDoorbell k v descs s
  | .h2d k data x => Sys2Proof.Machine.execH2d k data x s
  | .d2h k x => Sys2Proof.Machine.execD2h k x s
  | .fence k => Sys2Proof.Machine.execFence k s
  | .descriptorComplete k => Sys2Proof.Machine.execDescriptorComplete k s
  | .hqResume k v => Sys2Proof.Machine.execHqResume k v s
  | .hostLoss => Sys2Proof.Machine.execHostLoss s
  | .perstAssert => Sys2Proof.Machine.execPerstAssert s
  | .perstDeassert => Sys2Proof.Machine.execPerstDeassert s
  | .pcieLinkUp width rate => Sys2Proof.Machine.execPcieLinkUp width rate s
  | .reclaim fn v => Sys2Proof.Machine.execReclaim fn v s
  | .graceExpiry => Sys2Proof.Machine.execGraceExpiry s
  | .functionLevelReset fn => Sys2Proof.Machine.execFunctionLevelReset fn s
  | .cueLaunch => Sys2Proof.Machine.execCueLaunch s
  | .compositionStart => Sys2Proof.Machine.execCompositionStart s
  | .budgetCompute temps meas => Sys2Proof.Machine.execBudgetCompute temps meas s
  | .cueMonFall => Sys2Proof.Machine.execCueMonFall s
  | .periodRequest v => Sys2Proof.Machine.execPeriodRequest v s
  | .ppsEdge => Sys2Proof.Machine.execPpsEdge s
  | .ppsTimeout => Sys2Proof.Machine.execPpsTimeout s
  | .primaryRootTimeout => Sys2Proof.Machine.execPrimaryRootTimeout s
  | .secondaryRootTimeout => Sys2Proof.Machine.execSecondaryRootTimeout s
  | .timeExchange link m => Sys2Proof.Machine.execTimeExchange link m s
  | .holdoverExpiry => Sys2Proof.Machine.execHoldoverExpiry s
  | .completion toks => Sys2Proof.Machine.execCompletion toks s
  | .pushSlotFill p => Sys2Proof.Machine.execPushSlotFill p s
  | .take p => Sys2Proof.Machine.execTake p s
  | .refetch p => Sys2Proof.Machine.execRefetch p s
  | .branch p => Sys2Proof.Machine.execBranch p s
  | .done p => Sys2Proof.Machine.execDone p s
  | .chunk p => Sys2Proof.Machine.execChunk p s
  | .halt p => Sys2Proof.Machine.execHalt p s
  | .computeWord p op => Sys2Proof.Machine.execComputeWord p op s
  | .badop p => Sys2Proof.Machine.execBadop p s
  | .ipar p => Sys2Proof.Machine.execIpar p s
  | .reloadDone p => Sys2Proof.Machine.execReloadDone p s
  | .haltReq p v => Sys2Proof.Machine.execHaltReq p v s
  | .seqRefetch p v => Sys2Proof.Machine.execSeqRefetch p v s
  | .idataStore fn p v => Sys2Proof.Machine.execIdataStore fn p v s
  | .localPass slot pos req logits heads poison fail => Sys2Proof.Machine.execLocalPass slot pos req logits heads poison fail s
  | .mergePass slot pos => Sys2Proof.Machine.execMergePass slot pos s
  | .candList src slot cue16 pos rank part last fail poison ents heads => Sys2Proof.Machine.execCandList src slot cue16 pos rank part last fail poison ents heads s
  | .step src r => Sys2Proof.Machine.execStep src r s
  | .chunkDone src ents => Sys2Proof.Machine.execChunkDone src ents s
  | .line src fn lines => Sys2Proof.Machine.execLine src fn lines s
  | .credit src ents => Sys2Proof.Machine.execCredit src ents s
  | .cueList src toks => Sys2Proof.Machine.execCueList src toks s
  | .activation src cue push slots toks deadline frame costume spec body => Sys2Proof.Machine.execActivation src cue push slots toks deadline frame costume spec body s
  | .partials src beat cue16 addr data poison fail => Sys2Proof.Machine.execPartials src beat cue16 addr data poison fail s
  | .prompt src fn callId first toks => Sys2Proof.Machine.execPrompt src fn callId first toks s
  | .transfer src id off data poison => Sys2Proof.Machine.execTransfer src id off data poison s
  | .blockSet msg => Sys2Proof.Machine.execBlockSet msg s
  | .tableClear msg => Sys2Proof.Machine.execTableClear msg s
  | .context src slot ctx poison => Sys2Proof.Machine.execContext src slot ctx poison s
  | .budget src cue ready ew lit uj => Sys2Proof.Machine.execBudget src cue ready ew lit uj s
  | .advert src company model admitting exact lost freeSlots freeBlocks cue => Sys2Proof.Machine.execAdvert src company model admitting exact lost freeSlots freeBlocks cue s
  | .snap msg listCue => Sys2Proof.Machine.execSnap msg listCue s
  | .cutAck src company cue => Sys2Proof.Machine.execCutAck src company cue s
  | .copied src company cue shards => Sys2Proof.Machine.execCopied src company cue shards s
  | .noSpace src company cue => Sys2Proof.Machine.execNoSpace src company cue s
  | .copyFault src company cue => Sys2Proof.Machine.execCopyFault src company cue s
  | .manifestAck src company seq => Sys2Proof.Machine.execManifestAck src company seq s
  | .applied src company => Sys2Proof.Machine.execApplied src company s
  | .resident src company tenant id ver => Sys2Proof.Machine.execResident src company tenant id ver s
  | .spilled src slot res => Sys2Proof.Machine.execSpilled src slot res s
  | .filled src slot res => Sys2Proof.Machine.execFilled src slot res s
  | .resetCue src company cue => Sys2Proof.Machine.execResetCue src company cue s
  | .status src tag epoch code outcome value detail => Sys2Proof.Machine.execStatus src tag epoch code outcome value detail s
  | .repoint src tag fn callId company lead pos => Sys2Proof.Machine.execRepoint src tag fn callId company lead pos s
  | .shardRead src tag seq company shard first count => Sys2Proof.Machine.execShardRead src tag seq company shard first count s
  | .shardData src tag epoch data poison => Sys2Proof.Machine.execShardData src tag epoch data poison s
  | .sceneQuery src tag plan company => Sys2Proof.Machine.execSceneQuery src tag plan company s
  | .restoreFillDone fn callId => Sys2Proof.Machine.execRestoreFillDone fn callId s
  | .scriptLoad v => Sys2Proof.Machine.execScriptLoad v s
  | .scriptLoadDone => Sys2Proof.Machine.execScriptLoadDone s
  | .withdraw v => Sys2Proof.Machine.execWithdraw v s
  | .retest v => Sys2Proof.Machine.execRetest v s
  | .windBlock raw => Sys2Proof.Machine.execWindBlock raw s
  | .gorseTestGo v => Sys2Proof.Machine.execGorseTestGo v s
  | .costumeLoad v img => Sys2Proof.Machine.execCostumeLoad v img s
  | .costumeLoadDone => Sys2Proof.Machine.execCostumeLoadDone s
  | .pendingLoadResume => Sys2Proof.Machine.execPendingLoadResume s
  | .revoke v => Sys2Proof.Machine.execRevoke v s
  | .residencyCopyDone tenant id ver => Sys2Proof.Machine.execResidencyCopyDone tenant id ver s
  | .tableInvalidate v => Sys2Proof.Machine.execTableInvalidate v s
  | .heathSpillDone slot res => Sys2Proof.Machine.execHeathSpillDone slot res s
  | .heathFillDone slot res => Sys2Proof.Machine.execHeathFillDone slot res s
  | .flitReceive link flit => Sys2Proof.Machine.execFlitReceive link flit s
  | .packetForward pkt => Sys2Proof.Machine.execPacketForward pkt s
  | .idleFlit link => Sys2Proof.Machine.execIdleFlit link s
  | .replayTimeout link => Sys2Proof.Machine.execReplayTimeout link s
  | .linkEn link v => Sys2Proof.Machine.execLinkEn link v s
  | .trainingComplete link => Sys2Proof.Machine.execTrainingComplete link s
  | .trainTimeout link => Sys2Proof.Machine.execTrainTimeout link s
  | .trainRestart link => Sys2Proof.Machine.execTrainRestart link s
  | .identityRecord link r => Sys2Proof.Machine.execIdentityRecord link r s
  | .linkSignalLoss link => Sys2Proof.Machine.execLinkSignalLoss link s
  | .linkSilence link => Sys2Proof.Machine.execLinkSilence link s
  | .topologyUpdate link dev state epoch => Sys2Proof.Machine.execTopologyUpdate link dev state epoch s
  | .exit v => Sys2Proof.Machine.execExit v s
  | .exitFence link => Sys2Proof.Machine.execExitFence link s
  | .exitAck link => Sys2Proof.Machine.execExitAck link s
  | .exitAckSend link => Sys2Proof.Machine.execExitAckSend link s
  | .exitTimeout => Sys2Proof.Machine.execExitTimeout s
  | .swaleWrite id words => Sys2Proof.Machine.execSwaleWrite id words s
  | .swaleRead id => Sys2Proof.Machine.execSwaleRead id s
  | .mark id => Sys2Proof.Machine.execMark id s
  | .rewind id => Sys2Proof.Machine.execRewind id s
  | .release id k => Sys2Proof.Machine.execRelease id k s
  | .pointerMismatch id => Sys2Proof.Machine.execPointerMismatch id s
  | .swaleReset id v => Sys2Proof.Machine.execSwaleReset id v s
  | .flushDone id => Sys2Proof.Machine.execFlushDone id s
  | .holdDone id => Sys2Proof.Machine.execHoldDone id s
  | .watermarkDwellEnd egress => Sys2Proof.Machine.execWatermarkDwellEnd egress s
  | .silentSelfReset => Sys2Proof.Machine.execSilentSelfReset s
  | .domainDemand d => Sys2Proof.Machine.execDomainDemand d s
  | .domainIdle d => Sys2Proof.Machine.execDomainIdle d s
  | .targetWrite d v => Sys2Proof.Machine.execTargetWrite d v s
  | .shutdownComplete d => Sys2Proof.Machine.execShutdownComplete d s
  | .powerupComplete d => Sys2Proof.Machine.execPowerupComplete d s
  | .pgFail d => Sys2Proof.Machine.execPgFail d s
  | .deepOff v => Sys2Proof.Machine.execDeepOff v s
  | .pwrBrakeFall => Sys2Proof.Machine.execPwrBrakeFall s
  | .pwrBrakeRise => Sys2Proof.Machine.execPwrBrakeRise s
  | .brakeLoopTick mw => Sys2Proof.Machine.execBrakeLoopTick mw s
  | .tempSample temps => Sys2Proof.Machine.execTempSample temps s
  | .stageplotLoad v => Sys2Proof.Machine.execStageplotLoad v s
  | .stageplotLoadDone => Sys2Proof.Machine.execStageplotLoadDone s
  | .swapReq fn v => Sys2Proof.Machine.execSwapReq fn v s
  | .swapCancel v => Sys2Proof.Machine.execSwapCancel v s
  | .sceneStart v => Sys2Proof.Machine.execSceneStart v s
  | .applyDone => Sys2Proof.Machine.execApplyDone s
  | .sceneTimeout => Sys2Proof.Machine.execSceneTimeout s
  | .snapshotForce v => Sys2Proof.Machine.execSnapshotForce v s
  | .snapshotCopyDone poison => Sys2Proof.Machine.execSnapshotCopyDone poison s
  | .copyBeforeWrite page n waitNs => Sys2Proof.Machine.execCopyBeforeWrite page n waitNs s
  | .snapshotTimeout => Sys2Proof.Machine.execSnapshotTimeout s
  | .drainDone poison => Sys2Proof.Machine.execDrainDone poison s
  | .wcopyRefreshDone => Sys2Proof.Machine.execWcopyRefreshDone s
  | .undHostGo v => Sys2Proof.Machine.execUndHostGo v s
  | .replayGo v => Sys2Proof.Machine.execReplayGo v s
  | .replayAbort v => Sys2Proof.Machine.execReplayAbort v s
  | .getVersion => Sys2Proof.Machine.execGetVersion s
  | .getCapabilities => Sys2Proof.Machine.execGetCapabilities s
  | .negotiateAlgorithms algs => Sys2Proof.Machine.execNegotiateAlgorithms algs s
  | .getDigests => Sys2Proof.Machine.execGetDigests s
  | .getCertificate slot off len => Sys2Proof.Machine.execGetCertificate slot off len s
  | .challenge slot nonce => Sys2Proof.Machine.execChallenge slot nonce s
  | .getMeasurements signed idx nonce => Sys2Proof.Machine.execGetMeasurements signed idx nonce s
  | .keyExchange i3c pub => Sys2Proof.Machine.execKeyExchange i3c pub s
  | .finish sid ok oper => Sys2Proof.Machine.execFinish sid ok oper s
  | .heartbeat sid => Sys2Proof.Machine.execHeartbeat sid s
  | .keyUpdate sid => Sys2Proof.Machine.execKeyUpdate sid s
  | .endSession sid => Sys2Proof.Machine.execEndSession sid s
  | .chunkSend handle seq last data => Sys2Proof.Machine.execChunkSend handle seq last data s
  | .chunkGet handle seq => Sys2Proof.Machine.execChunkGet handle seq s
  | .setHouseKey sid key => Sys2Proof.Machine.execSetHouseKey sid key s
  | .programKey sid idx digest => Sys2Proof.Machine.execProgramKey sid idx digest s
  | .revokeKey sid idx => Sys2Proof.Machine.execRevokeKey sid idx s
  | .writeLocked sid off v => Sys2Proof.Machine.execWriteLocked sid off v s
  | .raiseFloor sid seq => Sys2Proof.Machine.execRaiseFloor sid seq s
  | .spdmZeroise sid tenant => Sys2Proof.Machine.execSpdmZeroise sid tenant s
  | .readAudit sid first count => Sys2Proof.Machine.execReadAudit sid first count s
  | .zeroise v => Sys2Proof.Machine.execZeroise v s
  | .zeroiseComplete => Sys2Proof.Machine.execZeroiseComplete s
  | .tenantZero v => Sys2Proof.Machine.execTenantZero v s
  | .tkeyImport v => Sys2Proof.Machine.execTkeyImport v s
  | .floorWrite fn v => Sys2Proof.Machine.execFloorWrite fn v s
  | .tamper sensor => Sys2Proof.Machine.execTamper sensor s
  | .selftestDone fails => Sys2Proof.Machine.execSelftestDone fails s
  | .auditClose => Sys2Proof.Machine.execAuditClose s
  | .logPageProgram ok => Sys2Proof.Machine.execLogPageProgram ok s
  | .ledgerStore v => Sys2Proof.Machine.execLedgerStore v s
  | .ledgerStoreDone ok => Sys2Proof.Machine.execLedgerStoreDone ok s
  | .wearLevelMove ok => Sys2Proof.Machine.execWearLevelMove ok s
  | .coldPowerUp sealHigh sled ordered hbmOk => Sys2Proof.Machine.execColdPowerUp sealHigh sled ordered hbmOk s
  | .supplyLoss => Sys2Proof.Machine.execSupplyLoss s
  | .warmRst lowNs => Sys2Proof.Machine.execWarmRst lowNs s
  | .warmResetFlushDone => Sys2Proof.Machine.execWarmResetFlushDone s
  | .warmRstRelease => Sys2Proof.Machine.execWarmRstRelease s
  | .wloadBegin v => Sys2Proof.Machine.execWloadBegin v s
  | .wloadDone v => Sys2Proof.Machine.execWloadDone v s
  | .weightHashDone => Sys2Proof.Machine.execWeightHashDone s
  | .faultReport code inst detail => Sys2Proof.Machine.execFaultReport code inst detail s
  | .crashCapsuleTimeout => Sys2Proof.Machine.execCrashCapsuleTimeout s
  | .partialReset v => Sys2Proof.Machine.execPartialReset v s
  | .faultInject fn v => Sys2Proof.Machine.execFaultInject fn v s
  | .card src fn tag off card => Sys2Proof.Machine.execCard src fn tag off card s
  | .configurationRequest fn => Sys2Proof.Machine.execConfigurationRequest fn s
  | .pasidTlp => Sys2Proof.Machine.execPasidTlp s
  | .startupTestsDone raw => Sys2Proof.Machine.execStartupTestsDone raw s
  | .flrComplete fn => Sys2Proof.Machine.execFlrComplete fn s
  | .partialResetComplete b => Sys2Proof.Machine.execPartialResetComplete b s
  | .eccScheduledMove lb ok => Sys2Proof.Machine.execEccScheduledMove lb ok s
  | .rbDataRead => Sys2Proof.Machine.execRbDataRead s

end Sys2Proof.Machine
end

