-- ==== Sys2Proof/Safety.lean ====
section
/-!
DEFINITION. What claims call a good state and a good outcome, and what each command may touch.
-/
namespace Sys2Proof.Machine

/-- The outcome is a next state: neither a fault nor a refusal. -/
def Completes (o : Host.Outcome State Fault Refusal) : Prop := ∃ t, o = .next t

/-- The invariant of the model: memory is in canonical form, and the device has its 96 Players (R248) and its 12 links (R509). -/
def Inv (s : State) : Prop := Memory.wf s.mdw.mem = true ∧ s.ply.length = 96 ∧ s.fab.links.length = 12

/-- Commands that power the device up or reset it (Table BRING-2). -/
def resets (c : Instr) : Bool :=
  match c with
  | .coldPowerUp _ _ _ _ => true
  | .supplyLoss => true
  | .warmRst _ => true
  | .warmResetFlushDone => true
  | .silentSelfReset => true
  | _ => false

/-- The parts of State a frame speaks of. -/
inductive Part where
  /-- the registers -/
  | regs
  /-- the host interface -/
  | hiu
  /-- the Box Office -/
  | box
  /-- the Stage Manager -/
  | stm
  /-- the Cue Line -/
  | cue
  /-- the Players -/
  | ply
  /-- the Prompter -/
  | prm
  /-- Gorse and Wind -/
  | grs
  /-- the Wardrobe -/
  | wdr
  /-- Meadow, the Loft and the Heath -/
  | mdw
  /-- the Fabric -/
  | fab
  /-- the Swales -/
  | swl
  /-- the Lighting Desk -/
  | lgt
  /-- the Stageplot -/
  | spl
  /-- the Understudy -/
  | und
  /-- the Prompt Book -/
  | pbk
  /-- the Stage Door -/
  | sdr
  /-- the Ledger -/
  | ldg
  /-- the fault block -/
  | flt
  /-- the package and its pins -/
  | brd
  /-- what has left the device -/
  | out
  /-- Stage Time -/
  | time
  /-- every byte of memory -/
  | bytes
  /-- the cue in progress -/
  | cueNumber
  deriving DecidableEq, Repr

/-- A part is the same in two states; the bytes of memory as a read of one byte gives them. -/
def Part.same (p : Part) (s t : State) : Prop :=
  match p with
  | .regs => t.regs = s.regs
  | .hiu => t.hiu = s.hiu
  | .box => t.box = s.box
  | .stm => t.stm = s.stm
  | .cue => t.cue = s.cue
  | .ply => t.ply = s.ply
  | .prm => t.prm = s.prm
  | .grs => t.grs = s.grs
  | .wdr => t.wdr = s.wdr
  | .mdw => t.mdw = s.mdw
  | .fab => t.fab = s.fab
  | .swl => t.swl = s.swl
  | .lgt => t.lgt = s.lgt
  | .spl => t.spl = s.spl
  | .und => t.und = s.und
  | .pbk => t.pbk = s.pbk
  | .sdr => t.sdr = s.sdr
  | .ldg => t.ldg = s.ldg
  | .flt => t.flt = s.flt
  | .brd => t.brd = s.brd
  | .out => t.out = s.out
  | .time => t.st = s.st
  | .bytes => ∀ a, readByte t a = readByte s a
  | .cueNumber => t.cue.num = s.cue.num ∧ t.cue.launched = s.cue.launched

/-- Every part but those listed. -/
def allBut (ps : List Part) : List Part :=
  ([.regs, .hiu, .box, .stm, .cue, .ply, .prm, .grs, .wdr, .mdw, .fab, .swl,
    .lgt, .spl, .und, .pbk, .sdr, .ldg, .flt, .brd, .out, .time, .bytes, .cueNumber] : List Part).filter fun p => decide (p ∉ ps)

/-- The parts a command may change; it leaves every other one as it was. -/
def touches (c : Instr) : List Part :=
  match c with
  | .registerWrite _ _ _ _ => [.regs, .hiu, .cue, .spl, .sdr, .ldg, .brd]
  | .heldRwsWriteLands => [.regs, .spl, .time]
  | .cueNowRead => [.cue]
  | .sqTailDoorbell _ _ _ => [.regs]
  | .lqHeadDoorbell _ _ _ => [.regs, .hiu, .stm, .fab, .brd, .out]
  | .nqHeadDoorbell _ _ => [.regs, .hiu]
  | .cardFetch _ => [.regs, .hiu, .box, .fab, .lgt, .brd, .out]
  | .promptPullDone _ _ _ _ _ => [.regs, .hiu, .box, .fab, .brd, .out]
  | .submit => [.regs, .hiu, .box, .stm, .grs, .mdw, .fab, .pbk, .sdr, .brd, .out]
  | .contin => [.regs, .hiu, .box, .stm, .fab, .pbk, .brd, .out]
  | .pause => [.regs, .hiu, .box, .stm, .fab, .pbk, .brd, .out]
  | .resume => [.regs, .hiu, .box, .stm, .fab, .pbk, .brd, .out]
  | .cancel => [.regs, .hiu, .box, .stm, .fab, .pbk, .brd, .out]
  | .releasePrefix => [.regs, .hiu, .box, .stm, .mdw, .fab, .pbk, .brd, .out]
  | .prefixLookup _ => allBut [.box, .cue, .ply, .grs, .wdr, .swl, .lgt, .spl, .sdr, .time, .cueNumber]
  | .lineWrite _ _ _ => [.regs, .hiu, .stm, .fab, .lgt, .brd, .out]
  | .noticeWrite _ _ _ => [.regs, .hiu, .stm, .fab, .lgt, .brd, .out]
  | .hqTailDoorbell _ _ _ => [.regs, .hiu, .brd]
  | .h2d _ _ _ => [.regs, .hiu, .mdw, .lgt, .sdr, .ldg, .bytes]
  | .d2h _ _ => [.regs, .hiu, .lgt, .sdr, .ldg, .out]
  | .fence _ => [.hiu]
  | .descriptorComplete _ => [.regs, .hiu, .brd, .out]
  | .hqResume _ _ => [.regs, .hiu, .cue, .spl, .sdr, .ldg, .brd]
  | .hostLoss => [.regs, .hiu, .box, .stm, .mdw, .fab, .brd, .out]
  | .perstAssert => [.regs, .hiu, .box, .stm, .mdw, .fab, .brd, .out]
  | .perstDeassert => [.brd]
  | .pcieLinkUp _ _ => [.regs, .hiu]
  | .reclaim _ _ => [.regs, .hiu, .stm, .fab, .out]
  | .graceExpiry => [.regs, .hiu, .box, .stm, .fab, .brd, .out, .time]
  | .functionLevelReset _ => [.regs, .hiu, .box, .fab, .brd, .out]
  | .cueLaunch => allBut []
  | .compositionStart => allBut [.cueNumber]
  | .budgetCompute _ _ => [.regs, .stm, .fab, .lgt, .flt, .out, .time]
  | .cueMonFall => [.cue, .brd, .time]
  | .periodRequest _ => [.regs, .hiu, .cue, .spl, .sdr, .ldg, .brd, .out]
  | .ppsEdge => [.regs, .cue, .brd, .time]
  | .ppsTimeout => [.regs]
  | .primaryRootTimeout => [.regs, .cue, .brd, .time]
  | .secondaryRootTimeout => [.regs, .cue, .brd, .time]
  | .timeExchange _ _ => [.regs, .hiu, .cue, .pbk, .ldg, .flt, .brd, .out, .time]
  | .holdoverExpiry => [.regs, .hiu, .fab, .lgt, .spl, .und, .pbk, .ldg, .flt, .brd, .out, .time]
  | .completion _ => [.regs, .hiu, .box, .stm, .ply, .fab, .pbk, .ldg, .flt, .brd, .out]
  | .pushSlotFill _ => [.regs, .box, .stm, .lgt]
  | .take _ => [.regs, .box, .stm, .ply, .lgt]
  | .refetch _ => [.regs, .ply]
  | .branch _ => [.regs, .ply]
  | .done _ => [.regs, .hiu, .box, .stm, .ply, .fab, .pbk, .ldg, .flt, .brd, .out]
  | .chunk _ => [.regs, .hiu, .box, .stm, .ply, .fab, .pbk, .ldg, .flt, .brd, .out]
  | .halt _ => [.regs, .ply]
  | .computeWord _ _ => allBut [.box, .cue, .grs, .swl, .lgt, .spl, .und, .sdr, .time, .cueNumber]
  | .badop _ => [.regs, .hiu, .box, .stm, .ply, .fab, .pbk, .ldg, .flt, .brd, .out]
  | .ipar _ => [.regs, .hiu, .box, .stm, .ply, .fab, .pbk, .ldg, .flt, .brd, .out]
  | .reloadDone _ => [.regs, .ply, .mdw, .bytes]
  | .haltReq _ _ => [.regs, .hiu, .cue, .ply, .spl, .sdr, .ldg, .brd]
  | .seqRefetch _ _ => [.regs, .hiu, .cue, .ply, .spl, .sdr, .ldg, .brd]
  | .idataStore _ _ _ => [.regs, .ply, .mdw, .lgt, .sdr, .ldg, .bytes]
  | .localPass _ _ _ _ _ _ _ => [.regs, .hiu, .stm, .prm, .fab, .lgt, .pbk, .ldg, .flt, .brd, .out]
  | .mergePass _ _ => allBut [.cue, .grs, .wdr, .swl, .spl, .sdr, .time, .bytes, .cueNumber]
  | .candList _ _ _ _ _ _ _ _ _ _ _ => [.regs, .hiu, .prm, .pbk, .ldg, .flt, .brd]
  | .step _ _ => allBut [.cue, .grs, .wdr, .swl, .lgt, .spl, .sdr, .time, .bytes, .cueNumber]
  | .chunkDone _ _ => [.regs, .hiu, .box, .stm, .fab, .pbk, .brd, .out]
  | .line _ _ _ => [.regs, .hiu, .brd]
  | .credit _ _ => [.stm]
  | .cueList _ _ => [.stm]
  | .activation _ _ _ _ _ _ _ _ _ _ => allBut [.cue, .prm, .grs, .wdr, .swl, .lgt, .spl, .und, .sdr, .time, .cueNumber]
  | .partials _ _ _ _ _ _ _ => allBut [.cue, .prm, .grs, .wdr, .swl, .lgt, .spl, .und, .sdr, .time, .cueNumber]
  | .prompt _ _ _ _ _ => [.regs, .box, .fab, .brd]
  | .transfer _ _ _ _ _ => allBut [.cue, .ply, .grs, .swl, .lgt, .spl, .time, .cueNumber]
  | .blockSet _ => [.regs, .hiu, .stm, .prm, .mdw, .und, .pbk, .ldg, .flt, .brd, .bytes]
  | .tableClear _ => [.regs, .hiu, .stm, .prm, .mdw, .und, .pbk, .ldg, .flt, .brd, .bytes]
  | .context _ _ _ _ => [.grs]
  | .budget _ _ _ _ _ _ => [.stm]
  | .advert _ _ _ _ _ _ _ _ _ => [.fab]
  | .snap _ _ => [.regs, .hiu, .und, .pbk, .ldg, .flt, .brd]
  | .cutAck _ _ _ => [.und]
  | .copied _ _ _ _ => [.regs, .fab, .spl, .und, .sdr, .ldg, .out]
  | .noSpace _ _ _ => [.regs, .und]
  | .copyFault _ _ _ => [.regs, .und]
  | .manifestAck _ _ _ => [.regs, .fab, .spl, .und, .sdr, .ldg, .out]
  | .applied _ _ => allBut [.grs, .sdr, .time, .cueNumber]
  | .resident _ _ _ _ _ => [.wdr]
  | .spilled _ _ _ => [.regs, .hiu, .box, .stm, .mdw, .fab, .brd, .out]
  | .filled _ _ _ => [.stm]
  | .resetCue _ _ _ => [.stm]
  | .status _ _ _ _ _ _ _ => allBut [.cue, .ply, .grs, .swl, .sdr, .time, .cueNumber]
  | .repoint _ _ _ _ _ _ _ => [.regs, .hiu, .box, .fab, .brd, .out]
  | .shardRead _ _ _ _ _ _ _ => [.regs, .fab, .out]
  | .shardData _ _ _ _ _ => allBut [.grs, .sdr, .time, .cueNumber]
  | .sceneQuery _ _ _ _ => [.regs, .fab, .out]
  | .restoreFillDone _ _ => [.regs, .hiu, .stm, .und, .brd]
  | .scriptLoad _ => [.regs, .hiu, .cue, .prm, .fab, .spl, .sdr, .ldg, .brd, .out]
  | .scriptLoadDone => [.regs, .prm, .fab, .out]
  | .withdraw _ => [.regs, .hiu, .cue, .prm, .fab, .spl, .sdr, .ldg, .brd, .out]
  | .retest _ => [.regs, .hiu, .cue, .grs, .spl, .sdr, .ldg, .brd]
  | .windBlock _ => [.regs, .hiu, .grs, .pbk, .sdr, .ldg, .flt, .brd]
  | .gorseTestGo _ => [.regs, .hiu, .cue, .spl, .sdr, .ldg, .brd]
  | .costumeLoad _ _ => [.regs, .hiu, .cue, .wdr, .fab, .lgt, .spl, .sdr, .ldg, .brd, .out]
  | .costumeLoadDone => [.regs, .hiu, .wdr, .mdw, .fab, .lgt, .out, .bytes]
  | .pendingLoadResume => [.regs, .wdr, .mdw, .fab, .lgt, .out, .bytes]
  | .revoke _ => [.regs, .hiu, .cue, .wdr, .spl, .sdr, .ldg, .brd]
  | .residencyCopyDone _ _ _ => [.regs, .wdr, .mdw, .fab, .lgt, .out, .bytes]
  | .tableInvalidate _ => [.regs, .hiu, .cue, .mdw, .spl, .sdr, .ldg, .brd]
  | .heathSpillDone _ _ => [.regs, .hiu, .box, .stm, .mdw, .fab, .sdr, .ldg, .brd, .out]
  | .heathFillDone _ _ => [.regs, .stm, .mdw, .fab, .out, .bytes]
  | .flitReceive _ _ => allBut [.grs, .sdr, .time, .cueNumber]
  | .packetForward _ => [.regs, .fab, .swl, .brd, .out]
  | .idleFlit _ => [.fab, .out]
  | .replayTimeout _ => allBut [.grs, .sdr, .time, .cueNumber]
  | .linkEn _ _ => [.regs, .hiu, .cue, .fab, .lgt, .spl, .sdr, .ldg, .brd, .out]
  | .trainingComplete _ => [.regs, .out]
  | .trainTimeout _ => [.regs, .fab]
  | .trainRestart _ => [.fab]
  | .identityRecord _ _ => allBut [.time, .cueNumber]
  | .linkSignalLoss _ => allBut [.grs, .sdr, .time, .cueNumber]
  | .linkSilence _ => allBut [.grs, .sdr, .time, .cueNumber]
  | .topologyUpdate _ _ _ _ => allBut [.grs, .sdr, .time, .cueNumber]
  | .exit _ => [.regs, .hiu, .cue, .fab, .lgt, .spl, .und, .sdr, .ldg, .brd, .out]
  | .exitFence _ => allBut [.grs, .sdr, .time, .cueNumber]
  | .exitAck _ => [.regs, .fab, .lgt, .brd]
  | .exitAckSend _ => [.regs, .fab, .lgt, .brd, .out]
  | .exitTimeout => [.regs, .lgt, .brd, .time]
  | .swaleWrite _ _ => [.regs, .swl, .brd]
  | .swaleRead _ => [.regs, .hiu, .fab, .swl, .pbk, .ldg, .flt, .brd]
  | .mark _ => [.swl]
  | .rewind _ => [.regs, .swl, .brd]
  | .release _ _ => [.regs, .fab, .swl, .brd]
  | .pointerMismatch _ => [.regs, .hiu, .box, .stm, .prm, .fab, .swl, .pbk, .ldg, .flt, .brd, .out]
  | .swaleReset _ _ => allBut [.ply, .grs, .wdr, .mdw, .lgt, .und, .flt, .time, .bytes, .cueNumber]
  | .flushDone _ => [.regs, .swl, .brd]
  | .holdDone _ => [.regs, .brd]
  | .watermarkDwellEnd _ => [.brd, .time]
  | .silentSelfReset => allBut []
  | .domainDemand _ => [.regs, .lgt]
  | .domainIdle _ => [.regs, .lgt]
  | .targetWrite _ _ => [.regs, .hiu, .cue, .lgt, .spl, .sdr, .ldg, .brd]
  | .shutdownComplete _ => [.regs, .ply, .mdw, .lgt, .bytes]
  | .powerupComplete _ => [.regs, .ply, .mdw, .lgt, .bytes]
  | .pgFail _ => [.regs, .hiu, .ply, .mdw, .pbk, .ldg, .flt, .brd, .bytes]
  | .deepOff _ => [.regs, .hiu, .cue, .spl, .sdr, .ldg, .brd]
  | .pwrBrakeFall => [.regs, .ply, .lgt, .brd]
  | .pwrBrakeRise => [.regs, .lgt, .brd]
  | .brakeLoopTick _ => [.regs]
  | .tempSample _ => [.regs, .hiu, .ply, .fab, .lgt, .spl, .und, .pbk, .ldg, .flt, .brd, .out]
  | .stageplotLoad _ => [.regs, .hiu, .cue, .lgt, .spl, .sdr, .ldg, .brd]
  | .stageplotLoadDone => [.regs, .lgt, .spl, .sdr, .ldg]
  | .swapReq _ _ => [.regs, .hiu, .cue, .spl, .sdr, .ldg, .brd]
  | .swapCancel _ => [.regs, .hiu, .cue, .spl, .sdr, .ldg, .brd]
  | .sceneStart _ => [.regs, .hiu, .cue, .fab, .spl, .und, .sdr, .ldg, .brd, .out]
  | .applyDone => allBut [.grs, .sdr, .time, .cueNumber]
  | .sceneTimeout => [.regs, .fab, .spl, .und, .out, .time]
  | .snapshotForce _ => [.regs, .hiu, .cue, .spl, .und, .sdr, .ldg, .brd]
  | .snapshotCopyDone _ => [.regs, .fab, .lgt, .spl, .und, .sdr, .ldg, .out]
  | .copyBeforeWrite _ _ _ => [.regs, .und]
  | .snapshotTimeout => [.regs, .und]
  | .drainDone _ => [.regs, .fab, .lgt, .und, .out]
  | .wcopyRefreshDone => [.regs, .lgt]
  | .undHostGo _ => allBut [.ply, .grs, .swl, .lgt, .time, .cueNumber]
  | .replayGo _ => allBut [.grs, .time, .cueNumber]
  | .replayAbort _ => allBut [.grs, .time, .cueNumber]
  | .getVersion => [.sdr, .out]
  | .getCapabilities => [.sdr, .out]
  | .negotiateAlgorithms _ => [.sdr, .out]
  | .getDigests => [.sdr, .out]
  | .getCertificate _ _ _ => [.sdr, .out]
  | .challenge _ _ => [.regs, .grs, .sdr, .ldg, .out]
  | .getMeasurements _ _ _ => [.regs, .grs, .sdr, .ldg, .out]
  | .keyExchange _ _ => [.regs, .grs, .sdr, .ldg, .out]
  | .finish _ _ _ => [.regs, .sdr, .ldg, .out]
  | .heartbeat _ => [.sdr, .out]
  | .keyUpdate _ => [.sdr, .out]
  | .endSession _ => [.regs, .sdr, .ldg, .out]
  | .chunkSend _ _ _ _ => [.sdr, .out]
  | .chunkGet _ _ => [.sdr, .out]
  | .setHouseKey _ _ => [.regs, .sdr, .ldg, .out]
  | .programKey _ _ _ => [.regs, .sdr, .ldg, .out]
  | .revokeKey _ _ => [.regs, .sdr, .ldg, .out]
  | .writeLocked _ _ _ => allBut [.box, .stm, .prm, .grs, .wdr, .fab, .swl, .spl, .und, .time, .cueNumber]
  | .raiseFloor _ _ => [.regs, .sdr, .ldg, .out]
  | .spdmZeroise _ _ => [.regs, .fab, .lgt, .spl, .und, .sdr, .ldg, .brd, .out]
  | .readAudit _ _ _ => [.regs, .sdr, .ldg, .out]
  | .zeroise _ => [.regs, .hiu, .cue, .fab, .lgt, .spl, .und, .sdr, .ldg, .brd, .out]
  | .zeroiseComplete => [.regs, .prm, .wdr, .mdw, .und, .sdr, .bytes]
  | .tenantZero _ => [.regs, .hiu, .cue, .spl, .sdr, .ldg, .brd]
  | .tkeyImport _ => [.regs, .hiu, .cue, .spl, .sdr, .ldg, .brd]
  | .floorWrite _ _ => [.regs, .sdr, .ldg]
  | .tamper _ => [.regs, .fab, .lgt, .spl, .und, .sdr, .ldg, .brd, .out]
  | .selftestDone _ => allBut [.box, .stm, .ply, .prm, .grs, .wdr, .swl, .time, .cueNumber]
  | .auditClose => [.regs, .sdr, .ldg]
  | .logPageProgram _ => [.regs, .hiu, .lgt, .pbk, .sdr, .ldg, .flt, .brd]
  | .ledgerStore _ => [.regs, .hiu, .cue, .lgt, .spl, .sdr, .ldg, .brd]
  | .ledgerStoreDone _ => [.regs, .hiu, .lgt, .pbk, .ldg, .flt, .brd]
  | .wearLevelMove _ => [.regs, .hiu, .lgt, .pbk, .ldg, .flt, .brd]
  | .coldPowerUp _ _ _ _ => allBut []
  | .supplyLoss => allBut []
  | .warmRst _ => allBut []
  | .warmResetFlushDone => allBut []
  | .warmRstRelease => [.regs, .hiu, .box, .stm, .fab, .pbk, .ldg, .flt, .brd, .out]
  | .wloadBegin _ => [.regs, .hiu, .cue, .spl, .sdr, .ldg, .brd]
  | .wloadDone _ => [.regs, .hiu, .cue, .spl, .sdr, .ldg, .brd]
  | .weightHashDone => [.regs]
  | .faultReport _ _ _ => [.regs, .hiu, .mdw, .pbk, .ldg, .flt, .brd]
  | .crashCapsuleTimeout => [.regs, .lgt, .ldg]
  | .partialReset _ => allBut [.box, .stm, .ply, .grs, .mdw, .swl, .lgt, .time, .bytes, .cueNumber]
  | .faultInject _ _ => [.regs, .hiu, .pbk, .sdr, .ldg, .flt, .brd]
  | .card _ _ _ _ _ => [.regs, .box, .fab, .brd]
  | .configurationRequest _ => [.out]
  | .pasidTlp => [.out]
  | .startupTestsDone _ => allBut [.box, .stm, .ply, .prm, .wdr, .swl, .time, .cueNumber]
  | .flrComplete _ => [.hiu]
  | .partialResetComplete _ => [.regs]
  | .eccScheduledMove _ _ => [.regs, .hiu, .lgt, .pbk, .ldg, .flt, .brd]
  | .rbDataRead => [.regs]

end Sys2Proof.Machine
end

