-- ==== Sys2Proof/Certificates/Slice0/Obligations.lean ====
section
/-!
DEFINITION. The statements for the provers, by chapter of the spec: each names the rules it comes from; what a free value or a
log entry decides is said in its docstring.
-/
open Sys2Proof Sys2Proof.Machine

/-- R6, R7, R12, R850, R11, R404, R463, R231, R665, R651, R849: REGISTER_WRITE with all four bytes enabled takes effect field by
field: where a PF register holds one field with no command of its own (and is no ring, host queue, FAULT_N, CUE_TOD_NEXT_HI or
STM_CTL register), the field holds afterwards the written value (RW, and RWL outside Sealed mode, where it takes the value), the
old value without the bits written 1 (W1C, every field of the register at once), or 0 (a counter that any write clears); a W1S field
would hold the old value with the bits written 1. A
write to the PRM load registers or to WDR_LOAD_CTL on a device that is not a lead reads RESULT NOT_LEAD, one to CUE_PERIOD on a
device that is not the acting root sets PERIOD_ERR. HELD_RWS_WRITE_LANDS puts the oldest held write, all its fields together, into
the shadow set and sets DIRTY. CUE_NOW_READ latches the high half. RB_DATA_READ beyond its section sets RB_RANGE. Completes
.registerWrite, .heldRwsWriteLands, .cueNowRead and .rbDataRead. -/
def Obligations.RegisterCommandsComplete : Prop :=
  (∀ (off : Nat) (v : Word) (s : State) (f : Fld), writable s 0 off = true → roleDenied s 0 off = none → inWindow 0 off = false →
    off ∉ [0x1700000, 0x1700004, 0x300034, 0x200000] → ¬(0xE00100 ≤ off ∧ off < 0xE00180) → s.spl.heldRws = [] →
    fieldsAt 0 off = [f] → ownRow f = false →
    ((f.acc = .rw ∨ f.acc = .rwl ∧ sealedMode s = false) → (takes s (stored s f) (carried f v)).1 = true →
      ∃ t, exec (.registerWrite 0 off 0xF#4 v) s = .next t ∧ get t (stored s f) = carried f v % 2 ^ (stored s f).width) ∧
    (f.acc = .ctrAny → ∃ t, exec (.registerWrite 0 off 0xF#4 v) s = .next t ∧ get t (stored s f) = 0)) ∧
  (∀ (off : Nat) (v : Word) (s : State) (f : Fld), writable s 0 off = true → roleDenied s 0 off = none → inWindow 0 off = false →
    off ∉ [0x1700000, 0x1700004, 0x300034, 0x200000] → ¬(0xE00100 ≤ off ∧ off < 0xE00180) → s.spl.heldRws = [] →
    f ∈ fieldsAt 0 off →
    (∀ g ∈ fieldsAt 0 off, g.acc = .w1c ∧ ownRow g = false ∧ ((stored s g).key = (stored s f).key → g = f)) →
    ∃ t, exec (.registerWrite 0 off 0xF#4 v) s = .next t ∧ get t (stored s f) =
      Nat.land (get s (stored s f)) (Nat.xor (carried f v) (2 ^ (stored s f).width - 1)) % 2 ^ (stored s f).width) ∧
  (∀ (v : Word) (s : State) (f : Fld), f.acc = .w1s →
    get (writeField s v s f) (stored s f) = Nat.lor (get s (stored s f)) (carried f v) % 2 ^ (stored s f).width) ∧
  (∀ (fn : Fin 128) (off : Nat) (v : Word) (s : State), writable s fn.val off = true → roleDenied s fn.val off = none →
    fieldsAt fn.val off ≠ [] → exec (.registerWrite fn off 0xF#4 v) s = .next (writeWord s fn.val off v)) ∧
  (∀ (off : Nat) (v : Word) (s : State), writable s 0 off = true →
    (off ∈ [0xA00080, 0xA00084, 0xA00088] → isLead s = false →
      exec (.registerWrite 0 off 0xF#4 v) s = .next (set s Fld.prmLoadStatusResult 7)) ∧
    (off = 0xC00008 → isLead s = false → exec (.registerWrite 0 off 0xF#4 v) s = .next (set s Fld.wdrLoadStatusResult 6)) ∧
    (off ∈ [0x300024, 0x300028, 0x30002C] → get s Fld.cueStatusState ≠ 4 →
      exec (.registerWrite 0 off 0xF#4 v) s = .next (set s Fld.cueStatusPeriodErr 1))) ∧
  (∀ (w : List (Fld × Nat)) (r : List (List (Fld × Nat))) (s : State), s.spl.scene = none → s.spl.passed = none →
    s.spl.heldRws = w :: r → (w.map fun x => x.1.key).Nodup → (∀ x ∈ w, x.1.key ≠ Fld.splSwapStatusDirty.key) → w ≠ [] →
    ∃ t, exec .heldRwsWriteLands s = .next t ∧ t.spl.heldRws = r ∧ (∀ x ∈ w, get t x.1 = x.2 % 2 ^ x.1.width) ∧
      get t Fld.splSwapStatusDirty = 1 ∧ t.regs.act = s.regs.act ∧
      (get s Fld.splSwapStatusState = 2 → s.spl.swapEnd ≤ t.st)) ∧
  (∀ s : State, booted s = true →
    exec .cueNowRead s = .next (s.onCue fun c => { c with nowHi := s.st / 2 ^ 32 % 2 ^ 32 })) ∧
  (∀ s : State, booted s = true → rbWord s = none → exec .rbDataRead s = .next (set s Fld.splSwapStatusRbRange 1)) ∧
  (∀ (w : Nat) (s : State), booted s = true → rbWord s = some w → exec .rbDataRead s = .next s)

/-- R850 and R853: a register write that does not enable all four bytes is ignored; a read of an offset with no register returns 0 and
a write there is ignored, in either mode. A write to a register that takes none now (R801, R858) changes nothing. -/
def Obligations.RegisterWriteTurnedAway : Prop :=
  (∀ (fn : Fin 128) (off : Nat) (be : BitVec 4) (v : Word) (s : State), be ≠ 0xF#4 →
    exec (.registerWrite fn off be v) s = .next s) ∧
  (∀ (fn : Fin 128) (off : Nat) (be : BitVec 4) (v : Word) (s : State), fieldsAt fn.val off = [] →
    readReg s fn.val off = 0 ∧ exec (.registerWrite fn off be v) s = .next s) ∧
  (∀ (fn : Fin 128) (off : Nat) (be : BitVec 4) (v : Word) (s : State), writable s fn.val off = false →
    exec (.registerWrite fn off be v) s = .next s)

/-- R59, R61, R64, R87, R88: a doorbell in range takes effect: SQn_TAIL moves, the Line or Notice entries the head passes are
released; out of range it sets DB_ERR and moves nothing, for a host queue's tail too. Completes .sqTailDoorbell,
.lqHeadDoorbell and .nqHeadDoorbell. -/
def Obligations.DoorbellsComplete : Prop :=
  (∀ (fn : Fin 128) (n : Fin 4) (v : Word) (s : State), fn.val ∉ s.hiu.flr →
    bits v 0 16 < 2 ^ get s (Fld.sqCtlLog2size fn.val n.val) →
    exec (.sqTailDoorbell fn n v) s = .next (set s (Fld.sqTailIdx fn.val n.val) (bits v 0 16))) ∧
  (∀ (fn : Fin 128) (n : Fin 4) (v : Word) (s : State), fn.val ∉ s.hiu.flr →
    2 ^ get s (Fld.sqCtlLog2size fn.val n.val) ≤ bits v 0 16 →
    exec (.sqTailDoorbell fn n v) s = .next (set s (Fld.fnStatusDbErr fn.val) 1)) ∧
  (∀ (fn : Fin 128) (n : Fin 4) (v : Word) (s : State), fn.val ∉ s.hiu.flr → ringSize s fn.val n.val ≤ bits v 0 16 →
    exec (.lqHeadDoorbell fn n v) s = .next (set s (Fld.fnStatusDbErr fn.val) 1)) ∧
  (∀ (fn : Fin 128) (v : Word) (s : State), fn.val ∉ s.hiu.flr → ringSize s fn.val 4 ≤ bits v 0 16 →
    exec (.nqHeadDoorbell fn v) s = .next (set s (Fld.fnStatusDbErr fn.val) 1)) ∧
  (∀ (k : Fin 4) (v : Word) (descs : List Desc) (s : State), writable s 0 (hqCtlOff k.val) = true →
    2 ^ get s (Fld.hqCtlLog2size k.val) ≤ bits v 0 16 →
    exec (.hqTailDoorbell k v descs) s = .next (set s (Fld.fnStatusDbErr 0) 1)) ∧
  (∀ (fn : Fin 128) (n : Fin 4) (v : Word) (s : State), fn.val ∉ s.hiu.flr → bits v 0 16 < ringSize s fn.val n.val →
    ∃ t, exec (.lqHeadDoorbell fn n v) s = .next t ∧
      (ringOf t fn.val n.val).out = (ringOf s fn.val n.val).out.drop
        (headSteps (ringSize s fn.val n.val) (ringOf s fn.val n.val).out.length (get s (Fld.lqHeadIdx fn.val n.val))
          (bits v 0 16))) ∧
  (∀ (fn : Fin 128) (v : Word) (s : State), fn.val ∉ s.hiu.flr → bits v 0 16 < ringSize s fn.val 4 →
    ∃ t, exec (.nqHeadDoorbell fn v) s = .next t ∧ get t (Fld.nqHeadIdx fn.val) = bits v 0 16 ∧
      (ringOf t fn.val 4).out = (ringOf s fn.val 4).out.drop
        (headSteps (ringSize s fn.val 4) (ringOf s fn.val 4).out.length (get s (Fld.nqHeadIdx fn.val)) (bits v 0 16)))

/-- R65, R69, R82, R84, R86, R610: the card of the ring that is next in turn is fetched into an outcome slot; a SUBMIT that passes
every check and has a Company with a lead enters the Call Map on its way to that lead. While domain 56 is not Lit, the fetch is a
demand for it. Completes .cardFetch. -/
def Obligations.CardFetchTakesNextCard : Prop :=
  ∀ (card : Card) (fn n : Nat) (s : State), booted s = true → s.hiu.hostLost = false → s.hiu.outcomes.length < 8192 →
    swFull s 0 = false → (isLead s && swFull s 1) = false → nextCard s = some (fn, n) →
    (domLit s 56 = false → exec (.cardFetch card) s = .next (demandDom s 56)) ∧ (domLit s 56 = true →
    exec (.cardFetch card) s = .next (admitFetched (fetched s fn n card) fn card) ∧
    (fetched s fn n card).hiu.outcomes.length = s.hiu.outcomes.length + 1 ∧
    (fetched s fn n card).hiu.rrFn = fn ∧
    (∀ co l, cardOp card = 1 → cardCheck (fetched s fn n card) fn card = 0 →
      chooseCompany (fetched s fn n card) card = some co → co ∉ s.fab.lost → leadOf (fetched s fn n card) co = some l →
      ∃ t, exec (.cardFetch card) s = .next t ∧ t.hiu.callMap = s.hiu.callMap ++ [newEnt fn co l card]))

/-- R80, R101: the prompt read for the oldest card of a Call that waits for one lets the card go on; a failed read refuses it
with BAD_CARD, a poisoned one with POISON, and a token outside the model's vocabulary with BAD_CARD. Completes .promptPullDone. -/
def Obligations.PromptPullDecides : Prop :=
  ∀ (fn : Fin 128) (callId : Word) (toks : List Word) (poison fault : Bool) (i : Nat) (s : State),
    findIdx (fun o => o.fn = fn.val && o.callId = callId.toNat && o.card.isSome && !o.ready) s.hiu.outcomes = some i →
    (fault = true → exec (.promptPullDone fn callId toks poison fault) s = .next (refuseSlot s i stBadCard true)) ∧
    (fault = false → poison = true →
      exec (.promptPullDone fn callId toks poison fault) s = .next (refuseSlot s i stPoison true)) ∧
    (∀ e m, fault = false → poison = false → entOf s fn.val callId.toNat = some e →
      (plotOf? s).bind (fun p => p.model e.model) = some m →
      (∀ t ∈ toks, t.toNat < 2 ^ 24 ∧ t.toNat < m.vocab) →
      exec (.promptPullDone fn callId toks poison fault) s =
        .next (forwardReady (onSlot s i fun o => { o with ready := true, prompt := toks.map (·.toNat) }))) ∧
    (∀ e m, fault = false → poison = false → entOf s fn.val callId.toNat = some e →
      (plotOf? s).bind (fun p => p.model e.model) = some m → (∃ t ∈ toks, m.vocab ≤ t.toNat) →
      exec (.promptPullDone fn callId toks poison fault) s = .next (refuseSlot s i stBadCard true))

/-- R62 to R64, R67, R77, R102, R107, R183, R610: the next Line of a Call, or a Notice, of a function whose ring has room is
written as the newest entry of the ring, and the Line leaves the Call's release window; a write that fails puts the function in its
Error state and parks its Calls. While domain 56 is not Lit the write is a demand for it. After a RECLAIM the entries to write again
come first, in their order (inTurn). A Line that waits for a CANCEL is not due (log entry 10). Completes .lineWrite and
.noticeWrite. -/
def Obligations.RingWritesComplete : Prop :=
  (∀ (fn : Fin 128) (callId : Word) (s : State) (e : CallEnt) (l : Line), entOf s fn.val callId.toNat = some e →
    dueLine s e = some l → hostUp s fn.val = true → ringOn s fn.val e.ring = true →
    (ringOf s fn.val e.ring).out.length < ringSize s fn.val e.ring → inTurn s fn.val e.ring (lineId e l) = true →
    (∀ ok, domLit s 56 = false → exec (.lineWrite fn callId ok) s = .next (demandDom s 56)) ∧
    (domLit s 56 = true → ∃ t u, exec (.lineWrite fn callId true) s = .next t ∧
      u = noteWritten (onEnt (ringWrite s fn.val e.ring (lineId e l) fun ph => wireBytes (setBit l 52 ph)) fn.val e.callId
        fun e => lineWritten e l) fn.val e.ring (lineId e l) ∧
      t = wmUpdate (if lineFinal l then tellFinal u fn.val e.callId else u) 2 ∧
      (ringOf u fn.val e.ring).out = (ringOf s fn.val e.ring).out ++ [lineId e l] ∧
      (e.redo = 0 → ∃ e', entOf u fn.val callId.toNat = some e' ∧ e'.win = e.win.erase l ∧ e'.kept = e.kept ++ [l] ∧
        e'.next = linePos l + 1 ∧ (lineFinal l = true → e'.finalPos = some (linePos l)))) ∧
    (domLit s 56 = true → ∃ t, exec (.lineWrite fn callId false) s = .next t ∧ get t (Fld.fnStatusError fn.val) = 1 ∧
      t.hiu.callMap = mapIf (fun x => x.fn = fn.val) (fun x => { x with parkErr := true }) s.hiu.callMap)) ∧
  (∀ (fn : Fin 128) (sel : NoticeSel) (s : State) (n : Notice) (reserved : Bool) (id : Nat) (done : State → State),
    pickNotice s fn.val sel = some (n, reserved, id, done) → hostUp s fn.val = true →
    (reserved = true → ringOn s fn.val 4 = true ∧ (ringOf s fn.val 4).out.length < ringSize s fn.val 4) →
    (reserved = false → nqFree s fn.val = true) → (id % 2 = 1 → inTurn s fn.val 4 id = true) →
    (∀ ok, domLit s 56 = false → exec (.noticeWrite fn sel ok) s = .next (demandDom s 56)) ∧
    (domLit s 56 = true → exec (.noticeWrite fn sel false) s = .next (writeFailed s fn.val)) ∧
    (domLit s 56 = true → ∃ u, u = done (ringWrite (if reserved then unreserveNq s fn.val else s) fn.val 4 id
        fun ph => wireBytes (setBit n 39 ph)) ∧
      exec (.noticeWrite fn sel true) s = .next (wmUpdate (if id % 2 = 1 then noteWritten u fn.val 4 id else u) 2)))

/-- R107, R110: RECLAIM before the grace time ends takes the function out of grace, with its unconsumed Lines and FINAL Notices to
be written again, in their order, and its Calls no longer parked for the host once nothing is left to write; the first one after
expiry raises a DEVICE Notice. Completes .reclaim. -/
def Obligations.ReclaimCompletes : Prop :=
  (∀ (fn : Fin 128) (v : Word) (s : State), writable s fn.val (if fn.val = 0 then 0x82004 else 0x2004) = true →
    bit v 0 = true → (∃ g ∈ s.hiu.grace, g.1 = fn.val) →
    ∃ t, exec (.reclaim fn v) s = .next t ∧ get t (Fld.fnStatusGrace fn.val) = 0 ∧
      t.hiu.grace = s.hiu.grace.filter (fun g => g.1 ≠ fn.val) ∧
      t.hiu.redo = s.hiu.redo.filter (fun x => x.1 ≠ fn.val) ++ (s.hiu.unread ++ s.hiu.redo).filter (fun x => x.1 = fn.val) ∧
      t.hiu.callMap = mapIf (fun e => e.fn = fn.val) (fun e =>
          { e with
            win := e.kept ++ e.win, kept := [], redo := e.redo + e.kept.length
            parkHost := e.parkHost && (s.hiu.unread ++ s.hiu.redo).any (fun x => x.1 = fn.val)
            finalN := if e.finalWritten then e.finalKept else e.finalN, finalWritten := false }) s.hiu.callMap) ∧
  (∀ (fn : Fin 128) (v : Word) (s : State) (x : Nat × Nat),
    writable s fn.val (if fn.val = 0 then 0x82004 else 0x2004) = true → bit v 0 = true → (∀ g ∈ s.hiu.grace, g.1 ≠ fn.val) →
    s.hiu.expired.find? (fun x => x.1 = fn.val) = some x →
    exec (.reclaim fn v) s = .next (deviceNotice (s.onHiu fun h => { h with expired := h.expired.erase x })
      (mkNotice 0xFFFFFFFF fn.val 6 stHostLost 0 0 noPos 0 x.2 (cueNum s))))

/-- R85, R148, R183, R196, R527, R586: what arrives from other devices for the host or the lead: Lines, credits, cards and
prompt chunks. A credit raises the count of its Call alone, never above 64. Completes .line, .credit, .card and .prompt. -/
def Obligations.HostPacketsComplete : Prop :=
  (∀ (src : Fin 1024) (fn : Fin 128) (lines : List Line) (s : State),
    exec (.line src fn lines) s = .next (arriveLine s src.val fn.val lines)) ∧
  (∀ (src : Fin 1024) (fn : Fin 128) (l : Line) (s : State) (e : CallEnt), entOf s fn.val (lineCallId l) = some e →
    servesCall s e src.val = true → e.next ≤ linePos l → e.win.length < 64 →
    (∀ x ∈ e.win, linePos x ≠ linePos l) → e.finalN = none → e.finalWritten = false → e.restored = false →
    ∃ t e', exec (.line src fn [l]) s = .next t ∧ entOf t fn.val e.callId = some e' ∧ e'.win = e.win ++ [l] ∧
      e'.lines = e.lines + 1) ∧
  (∀ (src : Fin 1024) (ents : List (Word × Fin 128 × Nat)) (s : State),
    ∃ t, exec (.credit src ents) s = .next t ∧ t.stm.board.length = s.stm.board.length ∧
      ∀ c ∈ t.stm.board, c.credits ≤ 64) ∧
  (∀ (src : Fin 1024) (callId : Word) (fn : Fin 128) (k : Nat) (s : State), (∀ c ∈ s.stm.board, c.credits ≤ 64) →
    ∃ t, exec (.credit src [(callId, fn, k)]) s = .next t ∧ t.stm.board =
      mapIf (fun c => c.src = src.val && c.callId = callId.toNat && c.fn = fn.val)
        (fun c => { c with credits := min 64 (c.credits + k) }) s.stm.board) ∧
  (∀ (src : Fin 1024) (fn : Fin 128) (tag : BitVec 16) (off : Word) (card : Card) (s : State), isLead s = true →
    exec (.card src fn tag off card) s = .next (arriveCard s src.val fn.val tag.toNat card)) ∧
  (∀ (src : Fin 1024) (fn : Fin 128) (callId : Word) (first : Nat) (toks : List Word) (s : State), isLead s = true →
    exec (.prompt src fn callId first toks) s =
      .next (arrivePrompt s src.val fn.val callId.toNat first (toks.map (·.toNat))))

/-- R61, R89 to R101, R610, R880: the host queue commands take effect: the tail hands descriptors over; H2D and D2H move the bytes
of a legal descriptor once domain 56 is Lit, which they demand; a FENCE whose turn has come finishes once every descriptor that the
queues of its mask accepted before it has completed; a finished descriptor is reported in order; an illegal one is reported with
error 1 and halts its queue; RESUME clears HALTED. Completes .hqTailDoorbell, .h2d, .d2h, .fence, .descriptorComplete and
.hqResume. -/
def Obligations.HostQueuesComplete : Prop :=
  (∀ (k : Fin 4) (v : Word) (descs : List Desc) (s : State), writable s 0 (hqCtlOff k.val) = true →
    bits v 0 16 < 2 ^ get s (Fld.hqCtlLog2size k.val) →
    let n := (bits v 0 16 + 2 ^ get s (Fld.hqCtlLog2size k.val) - get s (Fld.hqTailIdx k.val)) %
      2 ^ get s (Fld.hqCtlLog2size k.val)
    exec (.hqTailDoorbell k v descs) s = .next (hqHead (putHq (set s (Fld.hqTailIdx k.val) (bits v 0 16)) k.val
      (hqOf s k.val ++ (descs.take n).map fun d => ⟨d, false, 0, 0⟩)) k.val)) ∧
  (∀ (k : Fin 4) (data : List Byte) (i : Nat) (h : HDesc) (s : State), hqNext s k.val = some (i, h) → dOp h.d = 1 →
    descLegal s h.d = true → (sealedMode s && touchesLoft (dDev h.d) (dLen h.d) 0 0x20000) = false →
    (∀ x, domLit s 56 = false → exec (.h2d k data x) s = .next (demandDom s 56)) ∧
    (domLit s 56 = true → exec (.h2d k data ⟨none, true, []⟩) s =
      .next (hqFinish (writeDevice s (dDev h.d) (data.take (dLen h.d))) k.val i 0))) ∧
  (∀ (k : Fin 4) (i : Nat) (h : HDesc) (s : State), hqNext s k.val = some (i, h) → dOp h.d = 2 →
    descLegal s h.d = true → sealedMode s = false →
    (∀ x, domLit s 56 = false → exec (.d2h k x) s = .next (demandDom s 56)) ∧
    (domLit s 56 = true → ∃ t, exec (.d2h k ⟨none, true, []⟩) s = .next t ∧
      t.out.host = s.out.host ++ [(dHost h.d, (List.range (dLen h.d)).map fun o => readByte s (physOf (dDev h.d + o)))] ∧
      t.mdw = s.mdw ∧ t.regs = s.regs)) ∧
  (∀ (k : Fin 4) (h : HDesc) (s : State), hqNext s k.val = some (0, h) → dOp h.d = 3 → descLegal s h.d = true →
    (∀ j < 28, bit h.d (32 + j) = true → ownBusy s j h.stamp = false) →
    (∀ j < 4, j ≠ k.val → bit h.d (32 + 28 + j) = true → ∀ e ∈ hqOf s j, e.stamp = 0 ∨ h.stamp ≤ e.stamp) →
    exec (.fence k) s = .next (hqFinish s k.val 0 0)) ∧
  (∀ (k : Fin 4) (h : HDesc) (r : List HDesc) (s : State), hqOf s k.val = h :: r →
    isSet s (Fld.hqStatusHalted k.val) = false → h.finished = true →
    ∃ t u, exec (.descriptorComplete k) s = .next t ∧ t = hqHead u k.val ∧
      get u (Fld.hqStatusErr k.val) = h.err % 256 ∧ get u (Fld.hqTagV k.val) = dTag h.d % 2 ^ 32 ∧
      t.out.msix = s.out.msix ++ (if dIrq h.d then [(0, get s (Fld.hqCtlVec k.val))] else []) ∧
      (k.val < s.hiu.hqs.length → hqOf u k.val = r)) ∧
  (∀ (k : Fin 4) (h : HDesc) (r : List HDesc) (s : State), hqOf s k.val = h :: r →
    isSet s (Fld.hqStatusHalted k.val) = false → h.finished = false → h.stamp ≠ 0 → isSet s (Fld.hqCtlEn k.val) = true →
    descLegal s h.d = false →
    ∃ t u, exec (.descriptorComplete k) s = .next t ∧ t = hqHead u k.val ∧ get u (Fld.hqStatusHalted k.val) = 1 ∧
      get u (Fld.hqStatusErr k.val) = 1 ∧ u.mdw = s.mdw ∧ t.out.msix = s.out.msix ∧
      (k.val < s.hiu.hqs.length → hqOf u k.val = r)) ∧
  (∀ (k : Fin 4) (v : Word) (s : State), writable s 0 (hqCtlOff k.val) = true → bit v 1 = true →
    ∃ t, exec (.hqResume k v) s = .next t ∧ get t (Fld.hqStatusHalted k.val) = 0)

/-- R95, R99, R880: H2D stores to no byte outside its descriptor's device range, whatever it meets on the way. -/
def Obligations.H2dMemoryFrame : Prop :=
  ∀ (k : Fin 4) (data : List Byte) (x : Xfer) (s t : State), exec (.h2d k data x) s = .next t →
    ∀ a, (∀ i h, hqNext s k.val = some (i, h) → ∀ o, o < dLen h.d → physOf (dDev h.d + o) ≠ a) →
      readByte t a = readByte s a

/-- R406 to R409, R414, R422, R427, R886: Gorse and Wind: a healthy block clears the failure run and is kept or delivered; a
failed one is counted; RETEST outside STARTUP returns there; TEST_GO runs the block function; a context from the lead is kept.
Completes .windBlock, .retest, .gorseTestGo and .context. -/
def Obligations.GorseCompletes : Prop :=
  (∀ (raw : BitVec 1536) (s : State), windHealthy s = true →
    let h := healthBits raw ⟨s.grs.rctLast, s.grs.rctRun, s.grs.aptN, s.grs.aptBit, s.grs.aptCnt, false, false⟩
    (h.rct = false → h.apt = false → s.grs.reqs = [] → s.grs.ready.length < 4 →
      ∃ t, exec (.windBlock raw) s = .next t ∧ get t Fld.grsWindStatusConsec = 0 ∧
        t.grs.ready = s.grs.ready ++ [Config.sha384 (wireBytes raw)]) ∧
    (h.rct = false → h.apt = false → ∀ w r, s.grs.reqs = w :: r →
      ∃ t u, exec (.windBlock raw) s = .next t ∧ t = windDeliver u w (Config.sha384 (wireBytes raw)) ∧ u.grs.reqs = r) ∧
    (h.rct = true → get s Fld.grsWindStatusConsec < 2 → ∃ t, exec (.windBlock raw) s = .next t ∧
      get t Fld.grsWindStatusConsec = get s Fld.grsWindStatusConsec + 1 ∧ t.grs.ready = s.grs.ready)) ∧
  (∀ (v : Word) (s : State), reaches s 0 Fld.grsWindCtlRetest.off = true → bit v 0 = true →
    get s Fld.grsWindStatusState ≠ 0 →
    ∃ t, exec (.retest v) s = .next t ∧ get t Fld.grsWindStatusState = 0 ∧ get t Fld.grsWindStatusConsec = 0 ∧
      t.grs.ready = [] ∧ t.grs.reqs = []) ∧
  (∀ (v : Word) (s : State), reaches s 0 Fld.grsTestGoGo.off = true → bit v 0 = true →
    ∃ t, exec (.gorseTestGo v) s = .next t ∧ get t Fld.grsTestGoDone = 1 ∧
      ∀ i < 4, get t (Fld.grsTestOutV i) = (gorseBlock ((List.range 4).map fun i => get s (Fld.grsTestKeyV i))
        ((List.range 4).map fun i => get s (Fld.grsTestCtrV i))).getD i 0 % 2 ^ 32) ∧
  (∀ (src : Fin 1024) (slot : Fin 16384) (ctx : GCtx) (poison : Bool) (s : State), leadDev s = some src.val →
    ∃ t, exec (.context src slot ctx poison) s = .next t ∧ t.grs.ctx.get? slot.val = some (ctx, poison) ∧
      ∀ j, j ≠ slot.val → t.grs.ctx.get? j = s.grs.ctx.get? j)

/-- R472, R473, R490: the block table: a BLOCK_SET of this Company's cue writes one entry of the slot's table, a TABLE_CLEAR
zeroes the slot's table and ends its Heath entry, both leave the other bytes and the registers as they were (a write to a page that
a cut froze counts its stall, R677), TABLE_INVAL drops the cached copies it names, and a prefix lookup is done once. Completes .blockSet,
.tableClear, .tableInvalidate and .prefixLookup. -/
def Obligations.BlockTablesComplete : Prop :=
  (∀ (msg : CueTok) (s : State), tableMsgBad s msg = false → clKind msg = 0x11 →
    ∃ t, exec (.blockSet msg) s = .next t ∧
      (∀ i < 4, readByte t (tableAddr s (clSlot msg) (bits msg 32 14) + i) =
        (leBytes 4 (mkEntry (bits msg 64 22) (bit msg 86))).getD i 0) ∧
      (∀ a, (a < tableAddr s (clSlot msg) (bits msg 32 14) ∨ tableAddr s (clSlot msg) (bits msg 32 14) + 4 ≤ a) →
        readByte t a = readByte s a) ∧
      ∀ f : Fld, f.key ≠ Fld.undStallCountV.key → f.key ≠ Fld.undStallMaxV.key → get t f = get s f) ∧
  (∀ (msg : CueTok) (s : State), tableMsgBad s msg = false → clKind msg = 0x12 →
    ∃ t, exec (.tableClear msg) s = .next t ∧
      (∀ a, tableAddr s (clSlot msg) 0 ≤ a → a < tableAddr s (clSlot msg) 0 + 65536 → readByte t a = 0) ∧
      (∀ a, (a < tableAddr s (clSlot msg) 0 ∨ tableAddr s (clSlot msg) 0 + 65536 ≤ a) → readByte t a = readByte s a) ∧
      ∀ f : Fld, f.key ≠ Fld.undStallCountV.key → f.key ≠ Fld.undStallMaxV.key → f.key ≠ Fld.mdwHeathStatusEntries.key →
        f.key ≠ Fld.mdwHeathPagesV.key → get t f = get s f) ∧
  (∀ (v : Word) (s : State), reaches s 0 Fld.mdwTableInvalTable.off = true → bits v 0 3 = 1 → bit v 3 = true →
    ∃ t, exec (.tableInvalidate v) s = .next t ∧ t.mdw.cached = []) ∧
  (∀ (slot : Fin 16384) (c : Call) (s : State), callAt s slot.val = some c → c.lookupDone = false → c.phase ≠ .ended →
    ∃ u n, exec (.prefixLookup slot) s = .next (announceBlocks (sweepBlocks u) c.slot (nextCue u)
        ((lookupBlocks s c).1.map (fun b => (b, true)) ++ c.blocks.drop n) 0) ∧ n = (lookupBlocks s c).1.length ∧
      u.stm.board = s.stm.board.map fun x => if x.slot = c.slot then { x with
        blocks := (lookupBlocks s c).1.map (fun b => (b, true)) ++ c.blocks.drop n, pend := x.pend.drop (64 * n)
        start := 64 * n, kvLen := 64 * n, hashed := n, lookupDone := true } else x)

/-- R116 to R120, R134 to R141, Table BOX-3: a SUBMIT at the head of the decision queue that passes every admission check puts
its Call on the board, prefilling, with its prompt pending; one that fails a check leaves the board, Meadow and Gorse as they
were, counts the refusal where R159 counts it and answers the submitting device. A card of this device still has its outcome slot.
Completes .submit. -/
def Obligations.SubmitDecides : Prop :=
  ∀ (q : QCard) (s : State), headCard s 1 = some q →
    (q.src = selfDev s → ∃ i, findIdx (fun o => o.tag = some q.tag) s.hiu.outcomes = some i) →
    (admitCheck s q = 0 → ∃ t call, exec .submit s = .next t ∧ t.stm.board = s.stm.board ++ [call] ∧
      t.stm.nextSeq = s.stm.nextSeq + 1 ∧ t.stm.admittedToks = s.stm.admittedToks + cardPromptLen q.card ∧
      call.src = q.src ∧ call.fn = q.fn ∧ call.callId = cardCallId q.card ∧ call.tenant = cardTenant q.card ∧
      call.phase = .prefilling ∧ call.pend = q.prompt ∧ call.kvLen = 0 ∧ call.credits = 64) ∧
    (admitCheck s q ≠ 0 → ∃ t, exec .submit s = .next t ∧ t.stm = s.stm ∧ t.mdw = s.mdw ∧ t.grs = s.grs ∧
      t = refuseHead (if refuseCode (admitCheck s q) then inc s (Fld.boxRefuseCountV (admitCheck s q)) 1 else s) q
        (admitCheck s q) noPos)

/-- R144 to R147, R157, R158, R500: an operation on a live Call that the lead accepts waits in the Call's list for its boundary;
CONTINUE also reserves its blocks and is charged to its tenant (R125, R145); RELEASE_PREFIX frees the handle. An operation whose
Call has ended is dropped; one that the whole Company refuses is answered REFUSED_CAPACITY. A CANCEL that the submitting device
makes itself (a reset function, a lost host) ends its Call (R103, R109). Completes .pause, .resume, .cancel, .contin and
.releasePrefix. -/
def Obligations.CallOperationsComplete : Prop :=
  (∀ (q : QCard) (c : Call) (s : State), headCard s 4 = some q → q.tag ≠ lostTag →
    callOf s q.src q.fn (cardCallId q.card) = some c → refusesAll s = false → boundHere s q = true → admitting s = true →
    sceneOn s = false →
    ∃ t, exec .resume s = .next t ∧ t.stm.board = s.stm.board.map fun x => if x.slot = c.slot then
      { x with ops := x.ops ++ [⟨cardOp q.card, q.src, q.tag, cardTtl q.card, q.prompt⟩] } else x) ∧
  (∀ (q : QCard) (c : Call) (s : State), headCard s 5 = some q → q.tag ≠ lostTag →
    callOf s q.src q.fn (cardCallId q.card) = some c → refusesAll s = false → boundHere s q = true →
    ∃ t, exec .cancel s = .next t ∧ t.stm.board = s.stm.board.map fun x => if x.slot = c.slot then
      { x with ops := x.ops ++ [⟨cardOp q.card, q.src, q.tag, cardTtl q.card, q.prompt⟩] } else x) ∧
  (∀ (q : QCard) (s : State), headCard s 5 = some q → q.tag = lostTag →
    ∃ t, exec .cancel s = .next t ∧ t.stm.board = s.stm.board.map fun x =>
      if x.src = q.src ∧ x.fn = q.fn ∧ x.callId = cardCallId q.card then
        { x with doom := some (cardTtl q.card), tag := 65536, owed := false, finalOut := true } else x) ∧
  (∀ (q : QCard) (c : Call) (s : State), headCard s 3 = some q → q.tag ≠ lostTag →
    callOf s q.src q.fn (cardCallId q.card) = some c → refusesAll s = false → boundHere s q = true → admitting s = true →
    sceneOn s = false → (tenantKey s c.tenant).isSome = true →
    ∃ t, exec .pause s = .next t ∧ t.stm.board = s.stm.board.map fun x => if x.slot = c.slot then
      { x with ops := x.ops ++ [⟨cardOp q.card, q.src, q.tag, cardTtl q.card, q.prompt⟩] } else x) ∧
  (∀ (q : QCard) (c : Call) (s : State), headCard s 2 = some q → q.tag ≠ lostTag →
    callOf s q.src q.fn (cardCallId q.card) = some c → refusesAll s = false → boundHere s q = true → admitting s = true →
    sceneOn s = false → cardPromptLen q.card ≤ levelOf s c.tenant →
    tenBlocks s c.tenant + ceilDiv (cardPromptLen q.card) 64 ≤ blockCap s c.tenant →
    ceilDiv (cardPromptLen q.card) 64 ≤ unreserved s →
    ∃ t, exec .contin s = .next t ∧ t.stm.admittedToks = s.stm.admittedToks + cardPromptLen q.card ∧
      t.stm.board = s.stm.board.map fun x => if x.slot = c.slot then
        { x with
          resv := x.resv + ceilDiv (cardPromptLen q.card) 64
          ops := x.ops ++ [⟨cardOp q.card, q.src, q.tag, cardTtl q.card, q.prompt⟩] } else x) ∧
  (∀ (q : QCard) (s : State), headCard s 6 = some q → refusesAll s = false → boundHere s q = true → admitting s = true →
    (∃ x ∈ s.mdw.handles, x.tenant = cardTenant q.card ∧ x.handle = cardPrefixOut q.card) →
    exec .releasePrefix s = .next (answer (popHead (bookCard (freeHandle s (cardTenant q.card) (cardPrefixOut q.card)) q stOk
      0xFFFF)) q.src q.tag stOk 0 noPos 0) ∧
    ∀ x ∈ (freeHandle s (cardTenant q.card) (cardPrefixOut q.card)).mdw.handles,
      ¬ (x.tenant = cardTenant q.card ∧ x.handle = cardPrefixOut q.card)) ∧
  (∀ (q : QCard) (s : State), q.tag ≠ lostTag → callOf s q.src q.fn (cardCallId q.card) = none →
    (headCard s 2 = some q → exec .contin s = .next (dropHead s q)) ∧
    (headCard s 3 = some q → exec .pause s = .next (dropHead s q)) ∧
    (headCard s 4 = some q → exec .resume s = .next (dropHead s q)) ∧
    (headCard s 5 = some q → exec .cancel s = .next (dropHead s q))) ∧
  (∀ (q : QCard) (c : Call) (s : State), q.tag ≠ lostTag → callOf s q.src q.fn (cardCallId q.card) = some c →
    refusesAll s = true →
    (headCard s 2 = some q → exec .contin s = .next (refuseHead s q stCapacity c.kvLen)) ∧
    (headCard s 3 = some q → exec .pause s = .next (refuseHead s q stCapacity c.kvLen)) ∧
    (headCard s 4 = some q → exec .resume s = .next (refuseHead s q stCapacity c.kvLen)) ∧
    (headCard s 5 = some q → exec .cancel s = .next (refuseHead s q stCapacity c.kvLen)))

/-- R194, R496, R497: a report of a member of the lead's Company reaches its Call: tokens of a chunk extend the Call's key and
value length, and a spill or fill that went well is recorded. Completes .chunkDone, .spilled and .filled. -/
def Obligations.MemberReportsComplete : Prop :=
  (∀ (src : Fin 1024) (e : ChunkRep) (c : Call) (l : Listing) (s : State), isLead s = true → src.val ∈ memberDevs s →
    callAt s e.slot.val = some c → listingOf c e.cue16.toNat false = some l → e.poison = false → e.fail = false →
    ∃ t c', exec (.chunkDone src [e]) s = .next t ∧ callAt t e.slot.val = some c' ∧
      c'.kvLen = max c.kvLen (e.start.toNat + e.toks.toNat) ∧ c'.doom = c.doom) ∧
  (∀ (src : Fin 1024) (slot : Fin 16384) (c : Call) (s : State), isLead s = true → src.val ∈ memberDevs s →
    callAt s slot.val = some c → c.heath = .spilling →
    ∃ t c', exec (.spilled src slot 0) s = .next t ∧ callAt t slot.val = some c' ∧ c'.reports = c.reports ++ [src.val]) ∧
  (∀ (src : Fin 1024) (slot : Fin 16384) (c : Call) (s : State), isLead s = true → src.val ∈ memberDevs s →
    callAt s slot.val = some c → c.heath = .filling →
    (∃ t c', exec (.filled src slot 0) s = .next t ∧ callAt t slot.val = some c' ∧ c'.reports = c.reports ++ [src.val]) ∧
    (∃ t c', exec (.filled src slot 1) s = .next t ∧ callAt t slot.val = some c' ∧ c'.doom = some stPoison))

/-- R492, R493, R496, R497, Table MDW-5: a spill whose transfer ended well adds its entry to the Heath arena; a fill whose
transfer ended well puts the spilled blocks into the blocks the lead drew for them; each is reported to the lead. Completes
.heathSpillDone and .heathFillDone. -/
def Obligations.HeathTransfersComplete : Prop :=
  (∀ (slot : Fin 16384) (page : Nat) (s : State), spillDue s slot.val = true → spillLost s slot.val = false →
    isSet s Fld.mdwHeathCtlEn = true → heathFit s (spillPages s slot.val) = some page →
    exec (.heathSpillDone slot 0) s = .next (toLead (spillTo s slot.val page) 8 slot.val 0
      fun s => leadSpilled s (selfDev s) slot.val 0) ∧
    (∃ h, (spillTo s slot.val page).mdw.heath = s.mdw.heath ++ [h] ∧ h.slot = slot.val ∧ h.page = page) ∧
    (spillTo s slot.val page).mdw.mem = s.mdw.mem ∧ (spillTo s slot.val page).stm = s.stm) ∧
  (∀ (slot : Fin 16384) (h : HeathE) (s : State), s.mdw.heath.find? (fun h => h.slot = slot.val) = some h →
    fillDue s slot.val = true → spillLost s slot.val = false →
    exec (.heathFillDone slot 0) s = .next (toLead ((fillFrom s h).onMdw fun m => { m with
      spills := mapIf (fun x => x.slot = slot.val) (fun x => { x with fill := false }) m.spills }) 9 slot.val 0
      fun s => leadFilled s (selfDev s) slot.val 0) ∧
    (fillFrom s h).regs = s.regs ∧ (fillFrom s h).stm = s.stm)

/-- R606 to R615: the domain commands take effect: demand starts the return of a Settled domain that is not Lit and marks a
falling one; a demand that ends lets the idle rule act; a fall or a return that completes settles the domain; a domain settled
Struck by a completed fall loses what it keeps. Domain 63 leaves Struck only through a reset (R608). Completes .domainDemand,
.domainIdle, .shutdownComplete, .powerupComplete and .pgFail. -/
def Obligations.DomainsComplete : Prop :=
  (∀ (d : Fin 64) (s : State), domPhase s d.val = 0 → domState s d.val ≠ 0 → d.val ≠ 63 →
    ∃ t, exec (.domainDemand d) s = .next t ∧ domPhase t d.val = 2 ∧ (domOf t d.val).demand = true) ∧
  (∀ (d : Fin 64) (s : State), domPhase s d.val = 1 →
    ∃ t, exec (.domainDemand d) s = .next t ∧ get t (Fld.lgtDomStatusPendingOn d.val) = 1 ∧ domPhase t d.val = 1) ∧
  (∀ (d : Fin 64) (s : State), domPhase s d.val = 0 → (domState s d.val = 0 ∨ d.val = 63) →
    exec (.domainDemand d) s = .next (onDom s d.val fun x => { x with demand := true })) ∧
  (∀ (d : Fin 64) (s : State), domPhase s d.val = 0 → d.val ≠ 63 →
    exec (.domainIdle d) s = .next (idleRule (onDom s d.val fun x => { x with demand := false }) d.val)) ∧
  (∀ (d : Fin 64) (s : State), domPhase s d.val = 0 → d.val ≠ 63 → domState s d.val < domTarget s d.val →
    mayFall s d.val (domTarget s d.val) = true → d.val < 48 →
    ∃ t, exec (.domainIdle d) s = .next t ∧ domPhase t d.val = 1 ∧ (domOf t d.val).fall = domTarget s d.val) ∧
  (∀ (d : Fin 64) (s : State), domPhase s d.val = 1 → isSet s (Fld.lgtDomStatusPendingOn d.val) = false →
    s.lgt.trip = false → domTarget s d.val ≤ (domOf s d.val).fall → (domOf s d.val).fall ≤ 4 →
    ∃ t, exec (.shutdownComplete d) s = .next t ∧ domState t d.val = (domOf s d.val).fall ∧ domPhase t d.val = 0 ∧
      ((domOf s d.val).fall = 4 → d.val < 48 → ∀ a, 2 * d.val * 0x600000 ≤ a → a < 2 * d.val * 0x600000 + 2 * 0x600000 →
        readByte t a = 0) ∧
      ((domOf s d.val).fall ≠ 4 → ∀ a, readByte t a = readByte s a)) ∧
  (∀ (d : Fin 64) (s : State), domPhase s d.val = 2 → isSet s (Fld.lgtDomStatusPendingOff d.val) = false →
    s.lgt.trip = false →
    ∃ t, exec (.powerupComplete d) s = .next t ∧ domLit t d.val = true) ∧
  (∀ (d : Fin 64) (s : State), domPhase s d.val = 2 →
    ∃ u t, exec (.pgFail d) s = .next t ∧ t = report (advance u) 0x0C01 0xFFFF (fresh u % 2 ^ 32) ∧
      domState u d.val = 4 ∧ domPhase u d.val = 0 ∧ get u (Fld.lgtDomStatusPgFail d.val) = 1)

/-- R607, R608, R612, R613: a write of a TARGET code 0 to 4 is kept; TARGET Lit starts the return of a Settled domain that is not
Lit, but of domain 63; another code leaves a domain with a demand as it is; DEEP_OFF strikes domain 63 once the device has drained and
every other domain is Struck. Completes .targetWrite and .deepOff. -/
def Obligations.TargetWriteCompletes : Prop :=
  (∀ (d : Fin 64) (v : Word) (s : State), reaches s 0 (Fld.lgtDomCtlTarget d.val).off = true → bits v 0 3 = 0 → d.val ≠ 63 →
    let t := set (commandWord s 0 (Fld.lgtDomCtlTarget d.val).off v) (Fld.lgtDomCtlTarget d.val) 0
    domState t d.val ≠ 0 → domPhase t d.val = 0 →
    exec (.targetWrite d v) s = .next (startRise t d.val)) ∧
  (∀ (d : Fin 64) (v : Word) (s : State), reaches s 0 (Fld.lgtDomCtlTarget d.val).off = true → bits v 0 3 ≠ 0 →
    bits v 0 3 < 5 → d.val ≠ 63 →
    let t := set (commandWord s 0 (Fld.lgtDomCtlTarget d.val).off v) (Fld.lgtDomCtlTarget d.val) (bits v 0 3)
    domPhase t d.val = 0 → (domOf t d.val).demand = true → exec (.targetWrite d v) s = .next t) ∧
  (∀ (v : Word) (s : State), reaches s 0 Fld.lgtCtlDeepOff.off = true → bit v 1 = true →
    isSet s Fld.fabExitCtlDrained = true → (∀ d < 63, domState s d = 4 ∧ domPhase s d = 0) →
    ∃ t, exec (.deepOff v) s = .next t ∧ domState t 63 = 4)

/-- R186, R616 to R623, R878: the cue's budget is computed once for the next cue from the cap, the readings and the debt; the
brake throttles at once; its release is recognised when it comes; while throttled each tick of the loop moves DUTY one step
towards 495 W. Completes .budgetCompute, .budget, .pwrBrakeFall, .pwrBrakeRise and .brakeLoopTick. -/
def Obligations.EnergyCommandsComplete : Prop :=
  (∀ (temps : List Nat) (meas : Nat) (s : State), booted s = true → (leadDev s).isSome = true →
    (∀ b ∈ s.lgt.budgets, b.1 ≠ nextCue s) →
    ∃ t e, exec (.budgetCompute temps meas) s = .next t ∧ t.lgt.budgets = keepLast 4 (s.lgt.budgets ++ [(nextCue s, e)]) ∧
      s.st ≤ t.st ∧ t.lgt.seenSince = false ∧
      e = budgetOf s (nextCue s) (temps.foldl max 0) meas ∧
      (isSet s Fld.lgtCtlBudgetEn = false →
        e = getA s Fld.lgtCapCapMw * (launchSt s (nextCue s + 1) - launchSt s (nextCue s)) / 1000000)) ∧
  (∀ (src : Fin 1024) (cue : Nat) (ready ew : Bool) (lit uj : Nat) (s : State), isLead s = true →
    src.val ∈ memberDevs s →
    ∃ t, exec (.budget src cue ready ew lit uj) s = .next t ∧ ⟨src.val, cue, ready, ew, lit, uj⟩ ∈ t.stm.reports ∧
      ∀ r ∈ s.stm.reports, r.dev ≠ src.val → r ∈ t.stm.reports) ∧
  (∀ s : State, ∃ t, exec .pwrBrakeFall s = .next t ∧ get t Fld.lgtStatusBrake = 1 ∧ get t Fld.lgtStatusBrakeSeen = 1 ∧
    t.brd.brakePin = true ∧ t.lgt.throttle = true ∧ t.lgt.seenSince = true ∧ t.lgt.releaseSt = none) ∧
  (∀ s : State, isSet s Fld.lgtStatusBrake = true → ∃ t, exec .pwrBrakeRise s = .next t ∧ get t Fld.lgtStatusBrake = 0 ∧
    t.brd.brakePin = false ∧ t.lgt.releaseSt = some s.st) ∧
  (∀ (mw : Nat) (s : State), s.lgt.throttle = true → mw < 2 ^ 20 →
    (495000 < mw → ∃ t, exec (.brakeLoopTick mw) s = .next t ∧ get t Fld.lgtPowerV = mw ∧
      get t Fld.lgtStatusDuty = (get s Fld.lgtStatusDuty - 1) % 16) ∧
    (mw < 495000 → ∃ t, exec (.brakeLoopTick mw) s = .next t ∧ get t Fld.lgtPowerV = mw ∧
      get t Fld.lgtStatusDuty = min 15 (get s Fld.lgtStatusDuty + 1)) ∧
    (mw = 495000 → ∃ t, exec (.brakeLoopTick mw) s = .next t ∧ get t Fld.lgtStatusDuty = get s Fld.lgtStatusDuty)) ∧
  (∀ (mw : Nat) (s : State), s.lgt.throttle = false → exec (.brakeLoopTick mw) s = .next (set s Fld.lgtPowerV mw))

/-- R163 to R166, R250, R279: a completion token that names a beat of this device acts on it: its counter falls by the token's
count and the token's marks join it; a token that names no such beat, or more counts than the beat waits for, changes no
counter and is counted in DROP. A rank's partials are stored and count as one arrival, but bytes for a weight or Costume region or an
instruction store are not written (R257; log entry 161); bytes outside Loft and Meadow do not exist. Completes .completion and
.partials. -/
def Obligations.CompletionsCount : Prop :=
  (∀ (t : Token) (b : Beat) (s : State), beatAt s (tokBeat t) = some b → tokCount t ≠ 0 → tokDevice t = selfDev s →
    (tokSource t < 96 ∨ tokSource t = 0xF0 ∨ tokSource t = 0xFF) → tokCue t = b.cue % 65536 → tokCount t ≤ b.ctr →
    let c := { b with ctr := b.ctr - tokCount t, poison := b.poison || tokPoison t, fail := b.fail || tokFail t }
    c.dead = false →
    ∃ u, exec (.completion [t]) s = .next u ∧ beatAt u (tokBeat t) = some c ∧
      ∀ j, j ≠ tokBeat t → ∀ d, beatAt s j = some d → beatAt u j = some d) ∧
  (∀ (t : Token) (s : State), s.stm.arriving = [] →
    (tokCount t = 0 ∨ tokDevice t ≠ selfDev s ∨ (96 ≤ tokSource t ∧ tokSource t ≠ 0xF0 ∧ tokSource t ≠ 0xFF) ∨
      (∀ b, beatAt s (tokBeat t) = some b → tokCue t ≠ b.cue % 65536 ∨ b.ctr < tokCount t)) →
    ∃ u, exec (.completion [t]) s = .next u ∧ u.stm.beats = s.stm.beats) ∧
  (∀ (src : Fin 1024) (beat : Fin 16384) (cue16 : BitVec 16) (addr : Nat) (data : List Byte) (poison fail : Bool) (s : State),
    addrOk s addr data.length = true → guarded s addr data.length = false →
    (addr + data.length ≤ weightBase ∨ meadowBase ≤ addr) →
    ∃ t, exec (.partials src beat cue16 addr data poison fail) s = .next t ∧
      (∀ a, a < addr ∨ addr + data.length ≤ a → readByte t a = readByte s a) ∧
      (∀ i (h : i < data.length), readByte t (addr + i) = data[i])) ∧
  (∀ (src : Fin 1024) (beat : Fin 16384) (cue16 : BitVec 16) (addr : Nat) (data : List Byte) (poison fail : Bool) (s : State),
    addrOk s addr data.length = true → guarded s addr data.length = true →
    ∃ t, exec (.partials src beat cue16 addr data poison fail) s = .next t ∧ ∀ a, readByte t a = readByte s a) ∧
  (∀ (src : Fin 1024) (beat : Fin 16384) (cue16 : BitVec 16) (addr : Nat) (data : List Byte) (poison fail : Bool) (s : State),
    addrOk s addr data.length = false →
    exec (.partials src beat cue16 addr data poison fail) s = .fault .noAddress)

/-- R162, R192, R213, R393, R473: a Cue List from the lead is taken in at a device of stage 0, whole and in order; an activation
from a member is taken in at a device of a later stage: the bytes it carries are written, the length pointers of its slots become the
positions it names, the last stage awaits the records of sampled listings, and the beats are instantiated (for a beat of whole Calls,
one of each operator sheet); a slot whose block table
is missing keeps its pointer. Completes .cueList and .activation. -/
def Obligations.ListingsComplete : Prop :=
  (∀ (src : Fin 1024) (h : CueTok) (r : List CueTok) (s : State), fromLead s src.val = true → selfStage s = some 0 →
    clKind h = 1 → (∀ t ∈ r, clKind t ≠ 1) → (∀ t ∈ r.dropLast, clKind t ≠ 4) →
    ∃ t, exec (.cueList src (h :: r)) s = .next t ∧ t.stm.lists = s.stm.lists ++ [(clHdrCue h, h :: r, false)]) ∧
  (∀ (src : Fin 1024) (cue : Nat) (push : Bool) (x : Fin 16384 × BitVec 20) (toks deadline : Nat) (frame costume spec : Bool)
    (body : ActBody) (s : State), src.val ∈ memberDevs s → (∃ k, selfStage s = some k ∧ k ≠ 0) →
    let w := if addrOk s body.addr body.data.length && !guarded s body.addr body.data.length then
      writeAt s body.addr body.poison body.data else s
    ∃ t, exec (.activation src cue push [x] toks deadline frame costume spec body) s = .next t ∧
      t.mdw.mem = w.mdw.mem ∧ (x.1.val ∈ s.stm.noTable → t.mdw.lenPtr = s.mdw.lenPtr) ∧
      (x.1.val ∉ s.stm.noTable → t.mdw.lenPtr.getD x.1.val 0 = x.2.toNat) ∧
      (x.1.val ∉ s.stm.noTable → push = false → t = instantiate (let v := setLen w x.1.val x.2.toNat
          if body.samples && atLast v then await v cue x.1.val else v)
        ((sheets s false false).map fun y => mkBeat y.1 cue deadline [x.1.val] frame costume spec)))

/-- R171, R172, R178, R263, R265, R268, R270, R289: the push slot of a Reading Player takes the head of its push list; a TAKE
with a beat in the push slot, or on a Performing Player with a beat at the head of the pull list, hands that beat over: it is in
hand, its entry point is in PC and the Player runs; with no beat the Player waits; with HALT_REQ it halts. Completes .pushSlotFill and .take. -/
def Obligations.PlayersTakeBeats : Prop :=
  (∀ (p : Fin 96) (b : Beat) (s : State), get s (Fld.plyRoleRole p) = 1 → s.stm.pushSlots.get? p.val = none →
    pushStopped s = false → seqState s p ≠ 3 → domLit s (p.val / 2) = true → issuable s p true = some b →
    ∃ t, exec (.pushSlotFill p) s = .next t ∧ t.stm.pushSlots.get? p.val = some b.idx ∧
      ∀ c, beatAt s b.idx = some c → beatAt t b.idx = some { c with issued := true }) ∧
  (∀ (p : Fin 96) (b : Beat) (s : State), s.ply.length = 96 → frontIs (withWindow s p) p 1 = true →
    isSet s (Fld.plySeqCtlHaltReq p) = false → (s.stm.pushSlots.get? p.val).bind (beatAt s) = some b →
    ∃ t, exec (.take p) s = .next t ∧ seqState t p = 1 ∧ pcOf t p = b.entry % 2 ^ 14 ∧ (playerOf t p).beat = some b.idx ∧
      (playerOf t p).chunk = 0 ∧ (playerOf t p).lc = (List.range 4).map fun i => b.lc.getD i 0 % 65536) ∧
  (∀ (p : Fin 96) (b : Beat) (s : State), s.ply.length = 96 → frontIs (withWindow s p) p 1 = true →
    isSet s (Fld.plySeqCtlHaltReq p) = false → (s.stm.pushSlots.get? p.val).bind (beatAt s) = none →
    get s (Fld.plyRoleRole p) = 2 → domLit s (p.val / 2) = true → issuable s p false = some b →
    ∃ t, exec (.take p) s = .next t ∧ seqState t p = 1 ∧ pcOf t p = b.entry % 2 ^ 14 ∧ (playerOf t p).beat = some b.idx) ∧
  (∀ (p : Fin 96) (s : State), frontIs (withWindow s p) p 1 = true → isSet s (Fld.plySeqCtlHaltReq p) = false →
    (s.stm.pushSlots.get? p.val).bind (beatAt s) = none → get s (Fld.plyRoleRole p) ≠ 2 →
    ∃ t, exec (.take p) s = .next t ∧ seqState t p = 0 ∧ t.stm = s.stm) ∧
  (∀ (p : Fin 96) (s : State), frontIs (withWindow s p) p 1 = true → isSet s (Fld.plySeqCtlHaltReq p) = true →
    ∃ t, exec (.take p) s = .next t ∧ seqState t p = 2 ∧ t.stm = s.stm)

/-- R265 to R268, R274, Tables PLY-2 and PLY-8: REFETCH refills the window from the next word; a BRANCH whose condition differs
from its negation bit goes to its target and one that does not goes to the next word; a branch on a loop counter decrements it
and is taken while it was above 1; HALT halts after its word. Each leaves the beat in hand and the beat table as they were. Completes .refetch, .branch and .halt. -/
def Obligations.SequencerFlow : Prop :=
  (∀ (p : Fin 96) (s : State), s.ply.length = 96 → frontIs (withWindow s p) p 2 = true → pcOf s p < 0x3FFF →
    ∃ t, exec (.refetch p) s = .next t ∧ pcOf t p = pcOf s p + 1 ∧ (playerOf t p).win = windowAt s p (pcOf s p + 1) ∧
      seqState t p = 1 ∧ t.stm = s.stm ∧ (playerOf t p).beat = (playerOf s p).beat) ∧
  (∀ (p : Fin 96) (w : Nat) (s : State), s.ply.length = 96 → frontWord (withWindow s p) p = some w → wordClass w = 3 →
    badWord w = false → pcOf s p < 0x3FFF →
    ∃ t, exec (.branch p) s = .next t ∧ seqState t p = 1 ∧ t.stm = s.stm ∧ (playerOf t p).beat = (playerOf s p).beat ∧
      pcOf t p = (if (branchCond s p (w / 2 ^ 16 % 16)).1 = decide (w / 2 ^ 20 % 2 = 1) then pcOf s p + 1 else w % 2 ^ 14) ∧
      (playerOf t p).lc = (branchCond s p (w / 2 ^ 16 % 16)).2) ∧
  (∀ (s : State) (p : Fin 96) (c : Nat), 1 ≤ c → c ≤ 4 →
    branchCond s p c = (decide (1 < (playerOf s p).lc.getD (c - 1) 0),
      (playerOf s p).lc.set (c - 1) ((playerOf s p).lc.getD (c - 1) 0 - 1))) ∧
  (∀ (p : Fin 96) (s : State), frontIs (withWindow s p) p 6 = true → pcOf s p < 0x3FFF →
    ∃ t, exec (.halt p) s = .next t ∧ seqState t p = 2 ∧ pcOf t p = pcOf s p + 1 ∧ t.stm = s.stm)

/-- R173, R175, R272 to R274, R291, R292: DONE, a bad word and an instruction-store parity error complete the beat in hand, the
last two with fail and with poison, and control is at word 0; CHUNK counts a chunk, and a beat flagged for a cut is cut at it;
a parity error leaves the Player in RELOAD until its instruction store is loaded again; then it waits or halts at a TAKE in word 0,
and runs on from any other word (R289). Completes .done, .chunk, .badop, .ipar and .reloadDone. -/
def Obligations.BeatsEnd : Prop :=
  (∀ (p : Fin 96) (b : Beat) (s : State), frontIs (withWindow s p) p 4 = true → inHand (withWindow s p) p = some b →
    exec (.done p) s = .next (finishBeat (toWordZero (withWindow s p) p) b false false)) ∧
  (∀ (p : Fin 96) (b : Beat) (s : State), s.ply.length = 96 → frontIs (withWindow s p) p 5 = true →
    inHand (withWindow s p) p = some b → b.push = true → pcOf s p < 0x3FFF →
    ((playerOf s p).cut = false ∨ b.chunks ≤ (playerOf s p).chunk + 1) →
    ∃ t, exec (.chunk p) s = .next t ∧ (playerOf t p).chunk = (playerOf s p).chunk + 1 ∧ pcOf t p = pcOf s p + 1 ∧
      seqState t p = 1 ∧ (playerOf t p).beat = (playerOf s p).beat) ∧
  (∀ (p : Fin 96) (b : Beat) (s : State), s.ply.length = 96 → frontIs (withWindow s p) p 5 = true →
    inHand (withWindow s p) p = some b → b.push = true → (playerOf s p).cut = true → (playerOf s p).chunk + 1 < b.chunks →
    exec (.chunk p) s = .next (cutBeat (withWindow s p) p b ((playerOf s p).chunk + 1))) ∧
  (∀ (p : Fin 96) (w : Nat) (s : State), frontWord (withWindow s p) p = some w → badWord w = true →
    ∃ u, exec (.badop p) s = .next (endBeat (report u 0x0402 p (fresh (withWindow s p) % 2 ^ 32)) p false true) ∧
      get u (Fld.plyFaultBadop p) = 1) ∧
  (∀ (p : Fin 96) (s : State), s.ply.length = 96 → seqState s p < 2 →
    ∃ t, exec (.ipar p) s = .next t ∧ seqState t p = 3) ∧
  (∀ (p : Fin 96) (s : State), s.ply.length = 96 → seqState s p = 3 →
    ∃ t, exec (.reloadDone p) s = .next t ∧ pcOf t p = 0 ∧ (playerOf t p).beat = none ∧
      seqState t p = (if atTake t p then (if isSet s (Fld.plySeqCtlHaltReq p) then 2 else 0) else 1)) ∧
  (∀ (b : Beat) (s : State), b.flow = 0 → b.result = false → b.abandoned = false →
    (complete s b).2 = b.tokens.map fun t => stampTok t b.poison b.fail (b.cue % 65536) (if b.issued then b.player else 0xFF)) ∧
  (∀ (b : Beat) (s : State), b.flow = 0 → b.abandoned = true → (complete s b).2 = [])

/-- R256, R275, R279, Table PLY-3: a compute word runs its operation and goes to the next word; its stores change no byte
outside their own bytes; a store to a weight or Costume region or to another Player's instruction store changes no byte of
memory, sets WPROT and marks its beat with fail; an FP32 add stores the sum of the two words it reads, and a poisoned word marks the
beat; an operation on an address outside Loft and Meadow stops. Completes .computeWord. -/
def Obligations.ComputeWords : Prop :=
  (∀ (p : Fin 96) (w : Nat) (op : VecOp) (s : State), frontWord (withWindow s p) p = some w → 0x10 ≤ wordClass w →
    wordClass w ≤ 0xEF → opWaits (withWindow s p) op = false → opAddrOk (withWindow s p) p op = true →
    exec (.computeWord p op) s = .next (setSeq (advancePc (runOp (withWindow s p) p op) p) p 1)) ∧
  (∀ (p : Fin 96) (w : Nat) (op : VecOp) (s : State), frontWord (withWindow s p) p = some w → 0x10 ≤ wordClass w →
    wordClass w ≤ 0xEF → opWaits (withWindow s p) op = false → opAddrOk (withWindow s p) p op = false →
    exec (.computeWord p op) s = .fault .noAddress) ∧
  (∀ (p : Fin 96) (a : Nat) (d : List Byte) (s : State), (∃ i < d.length, protectedByte s p (physOf (a + i)) = true) →
    (∀ j, readByte (runOp s p (.store a d)) j = readByte s j) ∧ get (runOp s p (.store a d)) (Fld.plyFaultWprot p) = 1 ∧
    ∀ b, inHand s p = some b → ∃ c, inHand (runOp s p (.store a d)) p = some c ∧ c.fail = true) ∧
  (∀ (p a : Nat) (d : List Byte) (s : State), (∀ i < d.length, protectedByte s p (physOf (a + i)) = false) →
    (∀ j, (∀ i < d.length, j ≠ physOf (a + i)) → readByte (runOp s p (.store a d)) j = readByte s j)) ∧
  (∀ (p x y a : Nat) (s : State), (∀ i < 4, protectedByte s p (physOf (a + i)) = false) →
    (a + 4 ≤ weightBase ∨ meadowBase ≤ a) →
    ∀ i < 4, readByte (runOp s p (.add x y a)) (a + i) =
      (leBytes 4 (fAdd (devLe s 4 x) (devLe s 4 y)).v).getD i 0) ∧
  (∀ (p x y a : Nat) (b : Beat) (s : State), inHand s p = some b → opPoison s p (.add x y a) = true →
    ∃ c, inHand (runOp s p (.add x y a)) p = some c ∧ c.poison = true)

/-- R12, R268, R287, R289, R293, R857: HALT_REQ halts a Player that waits at TAKE, SEQ_REFETCH refills its window from PC, and a
word written to IDATA lands at IADDR, which goes on by one; for a pair that is not Lit the word waits and the write is a demand for the
pair. Completes .haltReq, .seqRefetch and .idataStore. -/
def Obligations.PlayerRegistersComplete : Prop :=
  (∀ (p : Fin 96) (v : Word) (s : State), reaches s 0 (seqCtlOff p) = true → bit v 0 = true →
    let u := set (commandWord s 0 (seqCtlOff p) v) (Fld.plySeqCtlHaltReq p) 1
    seqState u p = 0 →
    ∃ t, exec (.haltReq p v) s = .next t ∧ isSet t (Fld.plySeqCtlHaltReq p) = true ∧
      seqState t p = (if atTake (withWindow u p) p then 2 else 0)) ∧
  (∀ (p : Fin 96) (v : Word) (s : State), reaches s 0 (seqCtlOff p) = true → bit v 0 = false →
    let u := commandWord s 0 (seqCtlOff p) v
    seqState u p = 2 →
    ∃ t, exec (.haltReq p v) s = .next t ∧ isSet t (Fld.plySeqCtlHaltReq p) = false ∧
      seqState t p = (if (playerOf u p).beat = none then 0 else 1)) ∧
  (∀ (p : Fin 96) (v : Word) (s : State), reaches s 0 (seqCtlOff p) = true → bit v 1 = true →
    let u := commandWord s 0 (seqCtlOff p) v
    (playerOf u p).beyond = false → exec (.seqRefetch p v) s = .next (refill u p (pcOf u p))) ∧
  (∀ (p : Fin 96) (v : Word) (s : State), reaches s 0 (0x400028 + 0x10000 * p.val) = true → sealedMode s = false →
    domLit s (p.val / 2) = true →
    ∃ t, exec (.idataStore 0 p v) s = .next t ∧
      get t (Fld.plyIaddrWord p) = (get s (Fld.plyIaddrWord p) + 1) % 2 ^ 14 ∧
      readBytes t (iAddr p (get s (Fld.plyIaddrWord p))) 8 = leBytes 8 (get s (Fld.plyIdataLoV p) + v.toNat * 2 ^ 32) ∧
      ∀ a, a < iAddr p (get s (Fld.plyIaddrWord p)) ∨ iAddr p (get s (Fld.plyIaddrWord p)) + 8 ≤ a →
        readByte t a = readByte s a) ∧
  (∀ (p : Fin 96) (v : Word) (s : State), s.ply.length = 96 → reaches s 0 (0x400028 + 0x10000 * p.val) = true →
    sealedMode s = false → domLit s (p.val / 2) = false →
    ∃ t, exec (.idataStore 0 p v) s = .next t ∧ t.mdw = s.mdw ∧ (domOf t (p.val / 2)).demand = true ∧
      (playerOf t p).stores = (playerOf s p).stores ++
        [(get s (Fld.plyIaddrWord p), get s (Fld.plyIdataLoV p) + v.toNat * 2 ^ 32)]) ∧
  (∀ (p : Fin 96) (v : Word) (s : State), reaches s 0 (0x400028 + 0x10000 * p.val) = true → sealedMode s = true →
    exec (.idataStore 0 p v) s = .next (lockedOut s 0 (0x400028 + 0x10000 * p.val) (Fld.plyIdataHiV p) v))

/-- R363 to R369: a Script load reads the image at LOAD_ADDR and is BUSY until it is done; its result is BAD_IMAGE, EXISTS,
NO_SPACE or OK, and only OK adds the image, exactly that one, once its copy is at every device of the last stage; a withdrawal of an
image that is not held answers NOT_FOUND, one of a held image marks it and frees what no Call is bound to. Completes .scriptLoad,
.scriptLoadDone and .withdraw. -/
def Obligations.ScriptLoadsComplete : Prop :=
  (∀ (v : Word) (s : State), reaches s 0 Fld.prmLoadCtlLoad.off = true → bit v 0 = true → bit v 1 = false →
    let u := commandWord s 0 Fld.prmLoadCtlLoad.off v
    get u Fld.prmLoadStatusResult ≠ 1 →
    ∃ t, exec (.scriptLoad v) s = .next t ∧ get t Fld.prmLoadStatusResult = 1 ∧
      t.prm.load = readImage u (loadAddr u) ∧ t.prm.scripts = u.prm.scripts ∧
      (readImage u (loadAddr u) = none → t.prm.copies = none) ∧
      (∀ x, readImage u (loadAddr u) = some x → t.prm.copies = if loadVerdict u x = 2 then some (copyDevs u) else none)) ∧
  (∀ s : State, get s Fld.prmLoadStatusResult = 1 → s.prm.load = none →
    ∃ t, exec .scriptLoadDone s = .next t ∧ get t Fld.prmLoadStatusResult = 3 ∧ t.prm.scripts = s.prm.scripts) ∧
  (∀ (x : Script) (s : State), get s Fld.prmLoadStatusResult = 1 → s.prm.load = some x →
    (∃ y ∈ s.prm.scripts, isStopSet y = isStopSet x ∧ y.id = x.id) →
    ∃ t, exec .scriptLoadDone s = .next t ∧ get t Fld.prmLoadStatusResult = 5 ∧ t.prm.scripts = s.prm.scripts ∧ t.prm.load = none) ∧
  (∀ (x : Script) (p : Plot) (s : State), get s Fld.prmLoadStatusResult = 1 → s.prm.load = some x → s.spl.active = some p →
    (∀ y ∈ s.prm.scripts, isStopSet y = isStopSet x → y.id ≠ x.id) →
    (1024 ≤ (s.prm.scripts.filter fun y => isStopSet y = isStopSet x).length ∨
      p.scriptStore < (s.prm.scripts.map (·.bytes)).sum + x.bytes) →
    ∃ t, exec .scriptLoadDone s = .next t ∧ get t Fld.prmLoadStatusResult = 4 ∧ t.prm.scripts = s.prm.scripts ∧ t.prm.load = none) ∧
  (∀ (x : Script) (p : Plot) (s : State), get s Fld.prmLoadStatusResult = 1 → s.prm.load = some x → s.spl.active = some p →
    (∀ y ∈ s.prm.scripts, isStopSet y = isStopSet x → y.id ≠ x.id) →
    (s.prm.scripts.filter fun y => isStopSet y = isStopSet x).length < 1024 →
    (s.prm.scripts.map (·.bytes)).sum + x.bytes ≤ p.scriptStore →
    ((copyDevs s = [] ∨ s.prm.copies = some []) →
      ∃ t, exec .scriptLoadDone s = .next t ∧ get t Fld.prmLoadStatusResult = 2 ∧ t.prm.scripts = s.prm.scripts ++ [x] ∧
        t.prm.load = none) ∧
    (∀ d ds, copyDevs s ≠ [] → s.prm.copies = some (d :: ds) → exec .scriptLoadDone s = .next s)) ∧
  (∀ (v : Word) (s : State), reaches s 0 Fld.prmLoadCtlWithdraw.off = true → bit v 1 = true → bit v 0 = false →
    let u := commandWord s 0 Fld.prmLoadCtlWithdraw.off v
    get u Fld.prmLoadStatusResult ≠ 1 →
    let hit (x : Script) : Prop := x.id = get u Fld.prmLoadCtlId ∧ ((get u Fld.prmLoadCtlKind = 1 ∧ isStopSet x = false) ∨
      (get u Fld.prmLoadCtlKind = 2 ∧ isStopSet x = true))
    ((∀ x ∈ u.prm.scripts, ¬ hit x) →
      ∃ t, exec (.withdraw v) s = .next t ∧ get t Fld.prmLoadStatusResult = 6 ∧ t.prm = u.prm) ∧
    ((∃ x ∈ u.prm.scripts, hit x) →
      ∃ t, exec (.withdraw v) s = .next t ∧ get t Fld.prmLoadStatusResult = 2 ∧
        (∀ x ∈ t.prm.scripts, hit x → x.withdrawn = true) ∧ ∀ x ∈ u.prm.scripts, ¬ hit x → x.withdrawn = false → x ∈ t.prm.scripts))

/-- R330, R335, R338, R359, R370, R372, R377, R396 to R399: a local pass binds its slot and awaits the listing's record at the first
position, and sends the list of its shard to the merge rank; a part of an expected list is held there, in whatever order the parts come; one
that is not expected is dropped, counted once, and none of its entries is kept; a step record that the listing awaits moves the slot's
Script state and matcher and replaces its guesses, and one that nothing awaits changes nothing but the fault log. Completes .localPass,
.candList and .step. -/
def Obligations.ListsAndRecords : Prop :=
  (∀ (slot : Fin 16384) (pos : BitVec 20) (req : SampReq) (logits : List Word) (heads : List (List Word)) (poison fail : Bool) (s : State),
    atLast s = true → isSet s Fld.prmCtlEn = true → domLit s 57 = true → req.base.toNat < pos.toNat →
    pos.toNat ≤ req.base.toNat + req.depth + 1 → (pos.toNat = req.base.toNat + 1 → awaited s req.cue [slot.val] = []) →
    let b := if pos.toNat = req.base.toNat + 1 then bindFor s slot req else (s.prm.binds.get? slot.val).getD (bindFor s slot req)
    let lg := shardLogits s slot pos.toNat logits poison
    ∃ u, exec (.localPass slot pos req logits heads poison fail) s = .next (sendList
        (prmFlags u (if fail then 0 else (localList u b (scriptSteps s b (req.guesses.take (pos.toNat - req.base.toNat - 1))) req.card lg.1).2))
        slot (req.cue % 65536) pos.toNat fail lg.2
        (if fail then [] else (localList u b (scriptSteps s b (req.guesses.take (pos.toNat - req.base.toNat - 1))) req.card lg.1).1)
        (if fail then [] else heads.map (localHead u))) ∧
      (pos.toNat = req.base.toNat + 1 → u.prm.binds.get? slot.val = some b ∧ (req.cue, slot.val) ∈ u.stm.awaits)) ∧
  (∀ (src : Fin 1024) (slot : Fin 16384) (cue16 : BitVec 16) (pos : BitVec 20) (rank part : Nat) (last fail poison : Bool)
    (ents : List (Nat × Word)) (heads : List (Option (Nat × Word))) (s : State), mergeRank s slot = prmRank s → atLast s = true →
    (∃ n, (n, slot.val) ∈ s.stm.awaits ∧ n % 65536 = cue16.toNat) → rank < prmRanks s → (∀ e ∈ ents, inShard s rank e.1 = true) →
    let here (x : CandL) : Prop := x.slot = slot.val ∧ x.cue16 = cue16.toNat ∧ x.pos = pos.toNat ∧ x.rank = rank
    let es := ents.map fun e => (e.1, e.2.toNat)
    let hs := heads.map fun h => h.map fun e => (e.1, e.2.toNat)
    ((∀ x ∈ s.prm.lists, ¬ here x) → ents.length ≤ mergeK s slot cue16.toNat →
      ∃ t, exec (.candList src slot cue16 pos rank part last fail poison ents heads) s = .next t ∧
        (⟨slot.val, cue16.toNat, pos.toNat, rank, [part], if last then some part else none, false, poison, fail, es, hs⟩ : CandL) ∈
          t.prm.lists) ∧
    (∀ x ∈ s.prm.lists, here x → (∀ y ∈ s.prm.lists, here y → y = x) → x.bad = false → x.whole = false → part ∉ x.got →
      x.ents.length + ents.length ≤ mergeK s slot cue16.toNat →
      ∃ t, exec (.candList src slot cue16 pos rank part last fail poison ents heads) s = .next t ∧
        x.withPart part last fail poison es hs ∈ t.prm.lists ∧ x ∉ t.prm.lists)) ∧
  (∀ (src : Fin 1024) (slot : Fin 16384) (cue16 : BitVec 16) (pos : BitVec 20) (rank part : Nat) (last fail poison : Bool)
    (ents : List (Nat × Word)) (heads : List (Option (Nat × Word))) (s : State),
    (mergeRank s slot ≠ prmRank s ∨ (∀ n, (n, slot.val) ∈ s.stm.awaits → n % 65536 ≠ cue16.toNat) ∨ prmRanks s ≤ rank ∨
      (∃ e ∈ ents, inShard s rank e.1 = false) ∨ mergeK s slot cue16.toNat < ents.length) →
    (∀ x ∈ s.prm.lists, ¬ (x.slot = slot.val ∧ x.cue16 = cue16.toNat ∧ x.pos = pos.toNat ∧ x.rank = rank)) →
    ∃ t, exec (.candList src slot cue16 pos rank part last fail poison ents heads) s = .next t ∧
      get t Fld.prmEndsListDrop = get (inc s Fld.prmEndsListDrop 1) Fld.prmEndsListDrop ∧
      ∀ x ∈ t.prm.lists, x ∈ s.prm.lists ∨ (x.bad = true ∧ x.ents = [])) ∧
  (∀ (src : Fin 1024) (slot : Fin 16384) (cue16 : BitVec 16) (pos : BitVec 20) (rank part : Nat) (last fail poison : Bool)
    (ents : List (Nat × Word)) (heads : List (Option (Nat × Word))) (x : CandL) (s : State),
    s.prm.lists.find? (fun x => x.slot = slot.val && x.cue16 = cue16.toNat && x.pos = pos.toNat && x.rank = rank && x.bad &&
      !decide (part ∈ x.got)) = some x →
    ∃ t, exec (.candList src slot cue16 pos rank part last fail poison ents heads) s = .next t ∧
      get t Fld.prmEndsListDrop = get s Fld.prmEndsListDrop ∧ x ∉ t.prm.lists ∧ ∀ y ∈ t.prm.lists, y ∈ s.prm.lists ∨ y.bad = true) ∧
  (∀ (src : Fin 1024) (r : StepRec) (a : Nat × Nat) (s : State), src.val ∈ memberDevs s → stepReserved r = false →
    isLead s = false → a ∈ s.stm.awaits → a.2 = stepSlot r → a.1 % 65536 = stepCue r →
    (∀ b ∈ s.stm.awaits, b.2 = stepSlot r → b.1 % 65536 = stepCue r → b = a) →
    let toks := (s.prm.guesses.getD (stepSlot r) []).take (stepAccepted r) ++ (if stepToken r = 0xFFFFFF then [] else [stepToken r])
    ∃ u, exec (.step src r) s = .next (stepArrived u ⟨a.1, stepSlot r, stepPos r, toks.getLastD (stepToken r),
        stepStop r ≠ 0 || stepStatus r ≠ 0, stepPoison r, stepFail r⟩) ∧
      u.prm.guesses.getD (stepSlot r) [] = stepGuesses r ∧ u.stm = s.stm ∧
      ∀ b, s.prm.binds.get? (stepSlot r) = some b → u.prm.binds.get? (stepSlot r) =
        some { b with state := scriptSteps s b toks, matcher := keepLast 7 (b.matcher ++ toks) }) ∧
  (∀ (src : Fin 1024) (r : StepRec) (s : State), src.val ∈ memberDevs s → isLead s = false →
    (∀ a ∈ s.stm.awaits, a.2 = stepSlot r → a.1 % 65536 ≠ stepCue r) →
    ∃ t, exec (.step src r) s = .next t ∧ t.prm = s.prm ∧ t.stm = s.stm ∧ t.mdw = s.mdw)

/-- R331, R339, R341, R345, R346, R352, R356 to R358, R371: a merge pass waits for the whole list of every rank and for its domain to be
Lit; it draws from the slot's context unless the card is greedy; a Call whose image was absent ends with BAD_CARD; a list marked poison
or fail ends the listing with a record that carries the mark; otherwise the pass selects among the best top_k candidates, and a token it
selects is one of them, the best one for a greedy card; with no candidate it selects none. Completes .mergePass. -/
def Obligations.MergePassSelects : Prop :=
  (∀ (slot : Fin 16384) (pos : BitVec 20) (m : Merge) (s : State),
    s.prm.merges.find? (fun m => m.slot = slot.val && m.next = pos.toNat) = some m →
    ((mergeLists s m).length ≠ prmRanks s → exec (.mergePass slot pos) s = .next s) ∧
    ((mergeLists s m).length = prmRanks s → isSet s Fld.prmCtlEn = true → domLit s 58 = false →
      exec (.mergePass slot pos) s = .next (demandDom s 58))) ∧
  (∀ (slot : Fin 16384) (pos : BitVec 20) (m : Merge) (b : Bind) (s : State),
    s.prm.merges.find? (fun m => m.slot = slot.val && m.next = pos.toNat) = some m → isSet s Fld.prmCtlEn = true →
    domLit s 58 = true → (mergeLists s m).length = prmRanks s → s.prm.binds.get? slot.val = some b →
    (isGreedy m.req.card = true → exec (.mergePass slot pos) s = .next (runMerge s m b (mergeLists s m) 0
      ((mergeLists s m).any (·.poison)) ((mergeLists s m).any (·.fail)))) ∧
    (∀ (ctx : GCtx) (poison : Bool) (x : Nat × Nat) (r : List (Nat × Nat)), isGreedy m.req.card = false →
      mergeCands m (mergeLists s m) = x :: r → x.2 ≠ pInf → s.grs.ctx.get? slot.val = some (ctx, poison) →
      exec (.mergePass slot pos) s = .next (runMerge s m b (mergeLists s m) (gorseU ctx pos.toNat)
        ((mergeLists s m).any (·.poison) || poison) ((mergeLists s m).any (·.fail))))) ∧
  (∀ (s : State) (m : Merge) (b : Bind) (ls : List CandL) (u : Nat) (poison fail : Bool),
    (b.absent = true → runMerge s m b ls u poison fail = endMerge (diag (inc s Fld.prmMergedV 1) m.slot m.req.cue m.next
      ⟨none, 0, 0, 0, 0, 0, false, false, 0⟩) m (mkStep m.slot m.req.cue m.next 0 0 [] false false 0xFFFFFF 0xFF stBadCard 0)) ∧
    (b.absent = false → (poison = true ∨ fail = true) → runMerge s m b ls u poison fail =
      mergeMarked (inc s Fld.prmMergedV 1) m poison fail) ∧
    (b.absent = false → poison = false → fail = false → runMerge s m b ls u poison fail =
      mergePicked (inc s Fld.prmMergedV 1) m b ls u)) ∧
  (∀ (exact : Bool) (c : Card) (u : Nat) (x : Nat × Nat) (r : List (Nat × Nat)),
    ∃ y ∈ x :: r, (pick exact c u (x :: r)).tok = some y.1 ∧ (isGreedy c = true → y = x)) ∧
  (∀ (exact : Bool) (c : Card) (u : Nat), (pick exact c u []).tok = none)

/-- R431 to R443, R450, R456 to R459: a Costume load reads its image and is BUSY until it is done; its result is BAD_IMAGE,
ID_IN_USE, PENDING when there is no room, or OK, and only OK installs the version, once every member holds its slice; a pending load resumes
when there is room; a revocation of a Costume that is not held answers NOT_FOUND and one of a held Costume takes effect at the next
boundary; a finished copy makes its version resident and the lead learns it. Each waits for its domain to be Lit. Completes .costumeLoad,
.costumeLoadDone, .pendingLoadResume, .revoke, .residencyCopyDone and .resident. -/
def Obligations.CostumesComplete : Prop :=
  (∀ (v : Word) (img : List Byte) (s : State), reaches s 0 Fld.wdrLoadCtlLoad.off = true → bit v 0 = true → wdrIdle s = true →
    ∃ t, exec (.costumeLoad v img) s = .next t ∧ get t Fld.wdrLoadStatusResult = 1 ∧
      t.wdr.load = parseCostume (commandWord s 0 Fld.wdrLoadCtlLoad.off v) img) ∧
  (∀ s : State, get s Fld.wdrLoadStatusResult = 1 → domLit s 59 = false → exec .costumeLoadDone s = .next (demandDom s 59)) ∧
  (∀ s : State, get s Fld.wdrLoadStatusResult = 1 → domLit s 59 = true → s.wdr.load = none →
    ∃ t, exec .costumeLoadDone s = .next t ∧ get t Fld.wdrLoadStatusResult = 3 ∧ t.wdr = s.wdr) ∧
  (∀ (v : Ver) (s : State), get s Fld.wdrLoadStatusResult = 1 → domLit s 59 = true → s.wdr.load = some v →
    (∃ x ∈ s.wdr.vers, x.id = v.id ∧ x.tenant ≠ v.tenant) →
    ∃ t, exec .costumeLoadDone s = .next t ∧ get t Fld.wdrLoadStatusResult = 4 ∧ t.wdr.vers = s.wdr.vers ∧ t.wdr.load = none) ∧
  (∀ (v : Ver) (s : State), get s Fld.wdrLoadStatusResult = 1 → domLit s 59 = true → s.wdr.load = some v →
    (∀ x ∈ s.wdr.vers, x.id = v.id → x.tenant = v.tenant) →
    (verRoom s v = true → (otherMembers s = [] ∨ s.wdr.copies = some []) →
      ∃ ks t, exec .costumeLoadDone s = .next t ∧ get t Fld.wdrLoadStatusResult = 2 ∧
        t.wdr.vers = s.wdr.vers ++ [{ v with pool := ks }] ∧ t.wdr.load = none) ∧
    (∀ d ds, verRoom s v = true → otherMembers s ≠ [] → s.wdr.copies = some (d :: ds) → exec .costumeLoadDone s = .next s) ∧
    (verRoom s v = false →
      ∃ t, exec .costumeLoadDone s = .next t ∧ get t Fld.wdrLoadStatusResult = 7 ∧ t.wdr = s.wdr)) ∧
  (∀ (v : Ver) (s : State), get s Fld.wdrLoadStatusResult = 7 → s.wdr.load = some v → verRoom s v = true → domLit s 59 = true →
    ((otherMembers s = [] ∨ s.wdr.copies = some []) →
      ∃ ks t, exec .pendingLoadResume s = .next t ∧ get t Fld.wdrLoadStatusResult = 2 ∧
        t.wdr.vers = s.wdr.vers ++ [{ v with pool := ks }] ∧ t.wdr.load = none) ∧
    (otherMembers s ≠ [] → s.wdr.copies = none →
      ∃ t, exec .pendingLoadResume s = .next t ∧ t.wdr = { s.wdr with copies := some (otherMembers s) })) ∧
  (∀ (v : Word) (s : State), reaches s 0 Fld.wdrLoadCtlRevoke.off = true → bit v 1 = true → wdrIdle s = true →
    let u := commandWord s 0 Fld.wdrLoadCtlRevoke.off v
    (versOf u (get u Fld.wdrLoadCtlTenant) (get u Fld.wdrLoadCtlId) = [] →
      ∃ t, exec (.revoke v) s = .next t ∧ get t Fld.wdrLoadStatusResult = 5 ∧ t.wdr = u.wdr) ∧
    (versOf u (get u Fld.wdrLoadCtlTenant) (get u Fld.wdrLoadCtlId) ≠ [] →
      ∃ t, exec (.revoke v) s = .next t ∧ get t Fld.wdrLoadStatusResult = 2 ∧ t.wdr.vers = u.wdr.vers ∧
        t.wdr.revokes = u.wdr.revokes ++
          [(get u Fld.wdrLoadCtlTenant, get u Fld.wdrLoadCtlId, isSet u Fld.wdrLoadCtlRevokeAll)])) ∧
  (∀ (v : Ver) (s : State), s.wdr.vers.find? (fun x => x.tenant = v.tenant && x.id = v.id && x.ver = v.ver && x.copying) = some v →
    (s.lgt.throttle = true → exec (.residencyCopyDone v.tenant v.id v.ver) s = .next s) ∧
    (s.lgt.throttle = false → domLit s 59 = false → exec (.residencyCopyDone v.tenant v.id v.ver) s = .next (demandDom s 59)) ∧
    (s.lgt.throttle = false → domLit s 59 = true → usedPages s + v.pages ≤ costumePages s →
      (s.wdr.vers.filter (·.resident)).length < 512 → leadDev s ≠ some (selfDev s) →
      let ks := lowPages (costumePages s) v.pages ((s.wdr.vers.filter (·.resident)).map (·.loft)).flatten
      ∃ t, exec (.residencyCopyDone v.tenant v.id v.ver) s = .next t ∧
        t.wdr.vers = mapIf (sameVer v) (fun x => { x with resident := true, copying := false, loft := ks }) s.wdr.vers)) ∧
  (∀ (src : Fin 1024) (company tenant id ver : Nat) (s : State), isLead s = true → company = ownId s →
    src.val ∈ memberDevs s →
    ∃ t, exec (.resident src company tenant id ver) s = .next t ∧ t.mdw = s.mdw ∧
      ∀ x ∈ t.wdr.vers, x.tenant = tenant → x.id = id → x.ver = ver → src.val ∈ x.residents)

/-- R227, R228, R234, R237, R656, R817: a device that is booted, leads and can launch composes the next cue, once, at its
composition instant or later; a booted device in LOCKED, HOLDOVER or ROOT launches the next cue, never before its instant; in
any other state of the Cue Line no cue is launched and nothing changes. Completes .compositionStart and .cueLaunch. -/
def Obligations.CuesComplete : Prop :=
  (∀ s : State, composes s = true → s.stm.nextComp ≤ nextCue s →
    ∃ u, exec .compositionStart s = .next (composeNext u (nextCue s)) ∧ composeSt s (nextCue s) ≤ u.st ∧
      u.stm.nextComp = nextCue s + 1 ∧ u.stm.board = s.stm.board) ∧
  (∀ s : State, nextCue s < s.stm.nextComp → exec .compositionStart s = .next s) ∧
  (∀ s : State, booted s = true → (cueState s = 1 ∨ cueState s = 2 ∨ cueState s = 4) →
    ∃ t, exec .cueLaunch s = .next t ∧ cueNum t = nextCue s ∧ t.cue.launched = true ∧ nextCue t = nextCue s + 1 ∧
      launchSt s (nextCue s) ≤ t.st ∧ s.st ≤ t.st) ∧
  (∀ s : State, (booted s = false ∨ cueState s = 0 ∨ cueState s = 3) → exec .cueLaunch s = .next s)

/-- R223 to R226, R806 to R808: at the acting root a new time of day becomes the Stage Time at an edge of PPS_IN while no cue has
been launched; afterwards Stage Time is slewed towards it and never steps, by at most 50 ppm of the Stage Time since the last correction (the
model's choice, log entry 27), and a value more than a second away tells TOD_FAR; an edge without one, or no edge in time, tells PPS_LOST;
each root enters ROOT at boot when its wait ends, the primary at an edge of PPS_IN too, with no time parent. Completes .ppsEdge,
.ppsTimeout, .primaryRootTimeout and .secondaryRootTimeout. -/
def Obligations.RootsKeepTime : Prop :=
  (∀ s : State, cueState s = 4 → s.cue.launched = false → s.cue.todNew = true →
    ∃ t, exec .ppsEdge s = .next t ∧ t.st = todNext s ∧ get t Fld.cueStatusPpsLost = 0 ∧ t.cue.todNew = false) ∧
  (∀ s : State, cueState s = 4 → s.cue.launched = true → s.cue.todNew = true →
    ∃ t, exec .ppsEdge s = .next t ∧ t.st = s.st + min (todNext s - s.st) ((s.st - s.cue.slewFrom) * 50 / 1000000) ∧
      t.cue.slewFrom = s.st ∧ get t Fld.cueStatusPpsLost = 0 ∧ t.cue.todNew = false ∧
      (get t Fld.cueStatusTodFar = 1 ↔ s.st + 1000000000 < todNext s ∨ todNext s + 1000000000 < s.st)) ∧
  (∀ s : State, cueState s = 4 → s.cue.todNew = false →
    ∃ t, exec .ppsEdge s = .next t ∧ t.st = s.st ∧ get t Fld.cueStatusPpsLost = 1) ∧
  (∀ s : State, primaryStarts s = true →
    ∃ t, exec .ppsEdge s = .next t ∧ cueState t = 4 ∧ get t Fld.cueStatusParent = 0xF ∧ t.cue.rootPrimary = true ∧
      (s.cue.todNew = true → t.st = todNext s ∧ get t Fld.cueStatusPpsLost = 0) ∧
      (s.cue.todNew = false → get t Fld.cueStatusPpsLost = 1 ∧ t.st = if todNext s = 0 then 0 else s.st)) ∧
  (∀ s : State, cueState s = 4 → ∃ t, exec .ppsTimeout s = .next t ∧ get t Fld.cueStatusPpsLost = 1 ∧ t.cue = s.cue) ∧
  (∀ s : State, primaryStarts s = true →
    ∃ t, exec .primaryRootTimeout s = .next t ∧ cueState t = 4 ∧ get t Fld.cueStatusPpsLost = 1 ∧
      get t Fld.cueStatusParent = 0xF ∧ t.cue.rootPrimary = true) ∧
  (∀ (p : Plot) (s : State), s.spl.active = some p → booted s = true → isRoot s false = true →
    (topoOf s p.rootPrimary).state ≠ 1 → (cueState s = 0 ∨ cueState s = 2) →
    ∃ t, exec .secondaryRootTimeout s = .next t ∧ cueState t = 4 ∧ get t Fld.cueStatusParent = 0xF ∧
      t.cue.rootPrimary = false)

/-- R218 to R223, R229 to R232, R235, R237, R244, R247, Table CUE-2: every exchange is answered with this device's own, which leaves its
clock as it is; only the parent's exchange moves this device's clock state, and once a cue was launched it slews Stage Time; the sixteenth
exchange within LOCK_PS locks it, the third beyond LOSS_NS leaves LOCKED; HOLDOVER that runs out goes to OUT and
exits; a valid period request is announced for its cue and one that is not sets PERIOD_ERR; CUE_MON falls 1,024 ns after its
rise. Completes .timeExchange, .holdoverExpiry, .periodRequest and .cueMonFall. -/
def Obligations.CueLineComplete : Prop :=
  (∀ (l : Nat) (s : State), (sendTime s l).cue = s.cue ∧ (sendTime s l).st = s.st ∧ (sendTime s l).regs = s.regs) ∧
  (∀ (link : Fin 12) (m : TimeMsg) (s : State), (cueState s = 3 ∨ linkRuns s link = false ∨ booted s = false) →
    exec (.timeExchange link m) s = .next s) ∧
  (∀ (link : Fin 12) (m : TimeMsg) (s : State), booted s = true → linkRuns s link = true →
    cueState s ≠ 3 → cueState s ≠ 4 → get s Fld.cueStatusParent = link → s.cue.rootPrimary = m.rootPrimary →
    let u := sendTime s link
    (s.cue.launched = false → s.cue.anchored = true → exec (.timeExchange link m) s =
      .next (setFirst (lockStep (takeAnchor u m) (exchangeOffset u link m.offPs)))) ∧
    (s.cue.launched = false → s.cue.anchored = false → exec (.timeExchange link m) s =
      .next (let w := putAnchor (stepSt u m.st) m.anchorCue m.anchorSt m.period
        setFirst (lockStep (takeAnchor w m) (exchangeOffset w link m.offPs)))) ∧
    (s.cue.launched = true → exec (.timeExchange link m) s =
      .next (setFirst (lockStep (takeAnchor (slewSt u m.st) m) (exchangeOffset (slewSt u m.st) link m.offPs))))) ∧
  (∀ (m : TimeMsg) (s : State), s.cue.anchorCue = m.anchorCue → s.cue.anchorSt = m.anchorSt → get s Fld.cuePeriodNsV = m.period →
    takeAnchor s m = s) ∧
  (∀ (link : Fin 12) (m : TimeMsg) (s : State), booted s = true → linkRuns s link = true → cueState s ≠ 3 → cueState s ≠ 4 →
    get s Fld.cueStatusParent ≠ link → get s Fld.cueStatusParent ≠ 0xF → exec (.timeExchange link m) s = .next (sendTime s link)) ∧
  (∀ (link : Fin 12) (m : TimeMsg) (s : State), booted s = true → linkRuns s link = true → cueState s = 4 →
    (s.cue.launched = true ∨ isRoot s true = false ∨ m.rootPrimary = true) →
    exec (.timeExchange link m) s = .next (sendTime s link)) ∧
  (∀ (off : Int) (s : State), off.natAbs ≤ getA s Fld.cueLockLockPs → s.cue.inRun = 15 → (cueState s = 0 ∨ cueState s = 2) →
    cueState (lockStep s off) = 1) ∧
  (∀ (off : Int) (s : State), getA s Fld.cueLockLockPs < off.natAbs → getA s Fld.cueLockLossNs * 1000 < off.natAbs →
    s.cue.outRun = 2 → cueState s = 1 →
    ∃ u, lockStep s off = report u 0x0301 0xFFFF (fresh s % 2 ^ 32) ∧ cueState u = 2 ∧ u.cue.holdoverSt = s.st) ∧
  (∀ s : State, cueState s = 2 →
    ∃ u, exec .holdoverExpiry s = .next (writeExit (report u 0x0302 0xFFFF (fresh s % 2 ^ 32))) ∧ cueState u = 3 ∧
      s.cue.holdoverSt + max 1 (getA s Fld.cueLockHoldoverMs) * 1000000 ≤ u.st) ∧
  (∀ (v : Word) (s : State), reaches s 0 Fld.cuePeriodAtHiV.off = true →
    let u := set (commandWord s 0 Fld.cuePeriodAtHiV.off v) Fld.cuePeriodAtHiV v.toNat
    let n := periodAt u
    (periodOk (get u Fld.cuePeriodNextV) = true → cueNum u + 16 ≤ n → (∀ a, u.cue.pendAnchor = some a → a.1 ≤ cueNum u) →
      ∃ t, exec (.periodRequest v) s = .next t ∧
        t.cue.pendAnchor = some (n, launchSt u n, get u Fld.cuePeriodNextV)) ∧
    ((periodOk (get u Fld.cuePeriodNextV) = false ∨ n < cueNum u + 16 ∨ ∃ a, u.cue.pendAnchor = some a ∧ cueNum u < a.1) →
      ∃ t, exec (.periodRequest v) s = .next t ∧ get t Fld.cueStatusPeriodErr = 1 ∧ t.cue = u.cue)) ∧
  (∀ (r : Nat) (s : State), s.cue.monSt = some r →
    ∃ t, exec .cueMonFall s = .next t ∧ t.brd.monPin = false ∧ t.cue.monSt = none ∧ r + 1024 ≤ t.st)

/-- R624, R625: a sample drives TEMP with its hottest sensor; at the alert temperature THERM_ALERT rises, 5 °C below it falls,
between them it stays; at 110 °C the device trips once: throttled for good, and it exits. Completes .tempSample. -/
def Obligations.TemperatureCompletes : Prop :=
  ∀ (temps : List Nat) (s : State), let h := temps.foldl max 0
    (getA s Fld.lgtThermAlert ≤ h → (h < 880 ∨ s.lgt.trip = true) → ∃ t, exec (.tempSample temps) s = .next t ∧
      get t Fld.lgtStatusAlert = 1 ∧ t.brd.thermPin = true ∧ get t Fld.lgtTempT = h % 2 ^ Fld.lgtTempT.width) ∧
    (h + 40 ≤ getA s Fld.lgtThermAlert → (h < 880 ∨ s.lgt.trip = true) → ∃ t, exec (.tempSample temps) s = .next t ∧
      get t Fld.lgtStatusAlert = 0 ∧ t.brd.thermPin = false) ∧
    (h < getA s Fld.lgtThermAlert → getA s Fld.lgtThermAlert < h + 40 → (h < 880 ∨ s.lgt.trip = true) →
      exec (.tempSample temps) s = .next (set s Fld.lgtTempT h)) ∧
    (880 ≤ h → s.lgt.trip = false → ∃ u, exec (.tempSample temps) s = .next (tripFall (writeExit (report u 0x0C02
        (temps.findIdx fun x => x = h) (fresh (noteTemp s h) % 2 ^ 32)))) ∧ u.lgt.trip = true ∧ u.lgt.throttle = true ∧
        get u Fld.lgtStatusTrip = 1)

/-- R568 to R583, R593 to R602, Table SWL-2: an item enters a Swale in RUN that has room, at its end; a full BLOCK instance, or one
not in RUN, keeps what it holds; a full DISPLACE instance drops its oldest item and counts it; a read takes the oldest item; a
mark, a rewind and a release move what has been read; a word whose parity is wrong sets PARITY. Completes .swaleWrite, .swaleRead, .mark,
.rewind and .release. -/
def Obligations.SwaleItemsComplete : Prop :=
  (∀ (i : Nat) (ws : List (BitVec 64)) (s : State), swlExists i = true → swPhase s i = 0 → swFull s i = false →
    ∃ t, exec (.swaleWrite i ws) s = .next t ∧
      (swOf t i).items = (swOf s i).items ++ [enterWords (isSet s (Fld.swlCtlInject i)) ws]) ∧
  (∀ (i : Nat) (ws : List (BitVec 64)) (s : State), swlExists i = true → swPhase s i = 0 → swFull s i = true →
    swDisplace s i = false → exec (.swaleWrite i ws) s = .next s) ∧
  (∀ (i : Nat) (ws : List (BitVec 64)) (s : State), swlExists i = true → swPhase s i ≠ 0 →
    exec (.swaleWrite i ws) s = .next (if swDisplace s i then inc s (Fld.swlLostV i) 1 else s)) ∧
  (∀ (i : Nat) (ws : List (BitVec 64)) (s : State), swlExists i = true → swPhase s i = 0 → swFull s i = true →
    swDisplace s i = true →
    ∃ t, exec (.swaleWrite i ws) s = .next t ∧
      (swOf t i).items = (swOf s i).items.drop 1 ++ [enterWords (isSet s (Fld.swlCtlInject i)) ws] ∧
      get t (Fld.swlLostV i) = min (2 ^ 32 - 1) (get s (Fld.swlLostV i) + 1)) ∧
  (∀ (i : Nat) (w : List (Nat × Bool)) (r : List (List (Nat × Bool))) (s : State), swPhase s i = 0 →
    (swOf s i).items = w :: r →
    ∃ t, exec (.swaleRead i) s = .next t ∧ (swOf t i).items = r ∧
      (swOf t i).readOut = (if swMarked s i then (swOf s i).readOut ++ [w] else (swOf s i).readOut) ∧
      ((∃ x ∈ w, x.2 = true) → get t (Fld.swlStatusParity i) = 1)) ∧
  (∀ (i : Nat) (s : State), ((swOf s i).items = [] ∨ swPhase s i ≠ 0) → exec (.swaleRead i) s = .next s) ∧
  (∀ (i : Nat) (s : State), swlExists i = true → swMarked s i = true → swPhase s i = 0 →
    (∃ t, exec (.mark i) s = .next t ∧ (swOf t i).markAt = (swOf s i).readOut.length ∧ (swOf t i).items = (swOf s i).items) ∧
    (∃ t, exec (.rewind i) s = .next t ∧ (swOf t i).items = (swOf s i).readOut.drop (swOf s i).markAt ++ (swOf s i).items ∧
      (swOf t i).readOut = (swOf s i).readOut.take (swOf s i).markAt) ∧
    (∀ k, ∃ t, exec (.release i k) s = .next t ∧ (swOf t i).readOut = (swOf s i).readOut.drop k ∧
      (swOf t i).markAt = (swOf s i).markAt - k ∧ (swOf t i).items = (swOf s i).items)) ∧
  (∀ (i : Nat) (s : State), swlExists i = false → (∀ ws, exec (.swaleWrite i ws) s = .next s) ∧ exec (.mark i) s = .next s ∧
    exec (.rewind i) s = .next s ∧ (∀ k, exec (.release i k) s = .next s) ∧ (∀ v, exec (.swaleReset i v) s = .next s))

/-- R554, R573 to R575, R596, R597, R867, Tables SWL-2 and SWL-6: a pointer mismatch, and a reset commanded through CTL, take a
Swale-G that is not in FLUSH into FLUSH with its items gone; FLUSH ends in HOLD and HOLD in RUN; a lead told of a reset Cue
channel dooms the Calls it listed to that member in the three cues; a dwell that ends shows the watermark; a silent device
resets. Completes .pointerMismatch, .swaleReset, .flushDone, .holdDone, .resetCue, .watermarkDwellEnd and .silentSelfReset. -/
def Obligations.SwaleResetsComplete : Prop :=
  (∀ (i : Nat) (s : State), swG s i = true → swPhase s i ≠ 1 →
    ∃ t, exec (.pointerMismatch i) s = .next t ∧ t = mismatch s i (decide (swPhase s i = 0)) ∧ swPhase t i = 1) ∧
  (∀ (i : Nat) (v : Word) (s : State), swlExists i = true → reaches s 0 (Fld.swlCtlReset i).off = true → bit v 0 = true →
    let u := commandWord s 0 (Fld.swlCtlReset i).off v
    swG u i = true → swPhase u i ≠ 1 →
    ∃ t w, exec (.swaleReset i v) s = .next t ∧ t = setSwPhase (swaleLoses w i) i 1 ∧ w.swl = u.swl ∧ swPhase t i = 1) ∧
  (∀ (i : Nat) (s : State), swPhase s i = 1 →
    ∃ t, exec (.flushDone i) s = .next t ∧ swPhase t i = 2 ∧ swOf t i = Sw.empty) ∧
  (∀ (i : Nat) (s : State), swPhase s i = 2 →
    ∃ t, exec (.holdDone i) s = .next t ∧ swPhase t i = 0 ∧ swOf t i = swOf s i) ∧
  (∀ (src : Fin 1024) (company cue : Nat) (s : State), isLead s = true → ownId s = company → src.val ∈ memberDevs s →
    ∃ t, exec (.resetCue src company cue) s = .next t ∧
      (∀ c ∈ t.stm.board, c.phase ≠ .ended →
        (∃ n, cue - 2 ≤ n ∧ n ≤ cue ∧ (n, src.val, c.slot) ∈ s.stm.sent) → c.doom.isSome = true) ∧
      t.stm.board.length = s.stm.board.length) ∧
  (∀ (egress : Bool) (s : State),
    ∃ t, exec (.watermarkDwellEnd egress) s = .next t ∧ t.stm = s.stm ∧ t.mdw = s.mdw ∧ t.regs = s.regs ∧ s.st ≤ t.st) ∧
  (∀ (x : Nat) (s : State), s.fab.silent = some x →
    ∃ u, exec .silentSelfReset s = .next (beginSelftest u) ∧ get u Fld.hiuBootWarm = 1 ∧
      get u Fld.sdrStatusSealed = get s Fld.sdrStatusSealed % 2) ∧
  (∀ s : State, s.fab.silent = none → exec .silentSelfReset s = .next s)

/-- R2, R49 to R52, R103 to R110, R802, R858: host loss is noted once and starts the grace timer of every function, one that runs already
keeping its start; PERST_N stops every ring; a link comes up at its width and rate; when the earliest grace timer ends the Calls of its functions
have left the Call Map, how many of them had not ended is noted, and only the later timers run on; a Function Level Reset clears its function's Calls,
outcomes and rings and no other function's; configuration requests are retried for 100 ms and then show the Revision ID. Completes
.hostLoss, .perstAssert, .perstDeassert, .pcieLinkUp, .graceExpiry, .functionLevelReset, .flrComplete, .configurationRequest and
.pasidTlp. -/
def Obligations.HostLossCompletes : Prop :=
  (∀ s : State, s.hiu.hostLost = true → exec .hostLoss s = .next s) ∧
  (∀ s : State, s.hiu.hostLost = false → (isLead s = true → ∀ c ∈ s.stm.board, c.heath ≠ .spilling) →
    (isLead s = false → s.mdw.spills = []) →
    ∃ t, exec .hostLoss s = .next t ∧ t.hiu.hostLost = true ∧ t.mdw = s.mdw ∧ (∀ g ∈ s.hiu.grace, g ∈ t.hiu.grace) ∧
      ∀ f < 128, (∀ g ∈ s.hiu.grace, g.1 ≠ f) → (f, s.st) ∈ t.hiu.grace) ∧
  (∀ s : State, ∃ t, exec .perstAssert s = .next t ∧ t.brd.perst = true ∧ ∀ r ∈ t.hiu.rings, r.2.written = 0 ∧ r.2.out = []) ∧
  (∀ s : State, s.brd.perst = true → exec .perstDeassert s =
    .next (s.onBrd fun b => { b with perst := false, cfgFrom := s.st })) ∧
  (∀ (w r : Nat) (s : State), s.brd.perst = false → w ∈ [1, 2, 4, 8, 16] → 1 ≤ r → r ≤ 6 →
    ∃ t, exec (.pcieLinkUp w r) s = .next t ∧ get t Fld.hiuLinkStatusRate = r ∧ get t Fld.hiuLinkStatusWidth = w ∧
      get t Fld.hiuLinkStatusHostAbsent = 0 ∧ t.hiu.hostLost = false ∧ (r = 6 → get t Fld.hiuLinkStatusFlit = 1)) ∧
  (∀ s : State, s.hiu.grace = [] → exec .graceExpiry s = .next s) ∧
  (∀ (g : Nat × Nat) (r : List (Nat × Nat)) (s : State), s.hiu.grace = g :: r →
    let first := r.foldl (fun a x => min a x.2) g.2
    let gone (f : Nat) : Prop := (f, first) ∈ s.hiu.grace
    ∃ t, exec .graceExpiry s = .next t ∧ t.st = max s.st (graceEnd s first) ∧
      (∀ x, x ∈ t.hiu.grace ↔ x ∈ s.hiu.grace ∧ ¬ gone x.1) ∧ (∀ e, e ∈ t.hiu.callMap → ¬ gone e.fn) ∧
      (∀ e ∈ s.hiu.callMap, ¬ gone e.fn → e ∈ t.hiu.callMap) ∧
      ∀ f, gone f → (f, (s.hiu.callMap.filter fun e => e.fn = f && entLive e).length) ∈ t.hiu.expired) ∧
  (∀ (fn : Fin 128) (s : State), fn.val ≠ 0 →
    ∃ t, exec (.functionLevelReset fn) s = .next t ∧ fn.val ∈ t.hiu.flr ∧ (∀ e ∈ t.hiu.callMap, e.fn ≠ fn.val) ∧
      (∀ o ∈ t.hiu.outcomes, o.fn ≠ fn.val) ∧ (∀ r ∈ t.hiu.rings, r.1 / 8 ≠ fn.val) ∧
      (∀ e ∈ s.hiu.callMap, e.fn ≠ fn.val → e ∈ t.hiu.callMap) ∧
      (∀ o ∈ s.hiu.outcomes, o.fn ≠ fn.val → o ∈ t.hiu.outcomes) ∧ t.mdw = s.mdw) ∧
  (∀ s : State, ∃ t, exec (.functionLevelReset 0) s = .next t ∧ t.mdw = s.mdw ∧ t.prm = s.prm ∧ t.wdr = s.wdr) ∧
  (∀ (fn : Fin 128) (s : State), s.hiu.flr.Nodup →
    ∃ t, exec (.flrComplete fn) s = .next t ∧ fn.val ∉ t.hiu.flr ∧ t.regs = s.regs) ∧
  (∀ (fn : Fin 128) (s : State), s.brd.perst = false → get s Fld.hiuBootPhase ≠ 0 →
    max s.brd.cfgFrom s.brd.resetEnd + 100000000 ≤ (s.st : Int) →
    ∃ t, exec (.configurationRequest fn) s = .next t ∧ t.out.pcie = s.out.pcie ++ [(pcieSc, revisionId s fn)]) ∧
  (∀ (fn : Fin 128) (s : State), (s.brd.perst = true ∨ get s Fld.hiuBootPhase = 0 ∨
      (s.st : Int) < max s.brd.cfgFrom s.brd.resetEnd + 100000000) →
    ∃ t, exec (.configurationRequest fn) s = .next t ∧ t.out.pcie = s.out.pcie ++ [(pcieRrs, 0)]) ∧
  (∀ s : State, ∃ t, exec .pasidTlp s = .next t ∧ t.out.pcie = s.out.pcie ++ [(pcieUr, 0)])

/-- R542, R608, R743, R783, R792 to R797, R819, R868, R879, Table BRING-2: a cold power-up in the right order keeps the Ledger, the
rollback floor and the revocations, and begins the self-tests unless WARM_RST_N is low; a loss of supply keeps them too and forgets
the House key; a warm reset keeps the House key, the tenant keys and the mode besides, once the records are persisted. Completes .coldPowerUp, .supplyLoss, .warmRst,
.warmResetFlushDone and .warmRstRelease. -/
def Obligations.ResetsComplete : Prop :=
  (∀ (strap : Bool) (sled : BitVec 3) (hbm : Bool) (s : State),
    ∃ u, u.brd.powered = true ∧ u.brd.sealStrap = strap ∧ u.brd.sled = sled.toNat ∧ u.ldg = s.ldg ∧
      u.sdr.floor = s.sdr.floor ∧ u.sdr.revoked = s.sdr.revoked ∧ u.sdr.hk = none ∧ u.stm = State.reset.stm ∧
      (s.brd.warmLow = true → exec (.coldPowerUp strap sled true hbm) s = .next u) ∧
      (s.brd.warmLow = false → exec (.coldPowerUp strap sled true hbm) s = .next (beginSelftest u))) ∧
  (∀ s : State, ∃ t, exec .supplyLoss s = .next t ∧ t.brd.powered = false ∧ t.ldg = s.ldg ∧ t.sdr.floor = s.sdr.floor ∧
    t.sdr.revoked = s.sdr.revoked ∧ t.sdr.hk = none ∧ t.stm = State.reset.stm ∧ t.mdw = State.reset.mdw) ∧
  (∀ (n : Nat) (s : State), s.brd.powered = true → bootPhase s ≠ 0 → domState s 63 ≠ 4 → s.fab.exitWritten = false →
    (1000 ≤ n → exec (.warmRst n) s = .next (s.onBrd fun b => { b with flushing := true })) ∧
    (n < 100 → exec (.warmRst n) s = .next s)) ∧
  (∀ (n : Nat) (s : State), s.brd.powered = false →
    exec (.warmRst n) s = .next (s.onBrd fun b => { b with warmLow := true })) ∧
  (∀ s : State, s.brd.flushing = true →
    ∃ u, exec .warmResetFlushDone s = .next (beginSelftest u) ∧ get u Fld.hiuBootWarm = 1 ∧
      get u Fld.sdrStatusSealed = get s Fld.sdrStatusSealed % 2 ∧ u.sdr.hk = s.sdr.hk ∧ u.sdr.tkeys = s.sdr.tkeys ∧
      u.ldg = s.ldg ∧ u.stm = State.reset.stm ∧ u.hiu = State.reset.hiu) ∧
  (∀ s : State, s.brd.warmLow = true → s.brd.powered = true → bootPhase s = 0 →
    exec .warmRstRelease s = .next (beginSelftest (s.onBrd fun b => { b with warmLow := false })))

/-- R408, R409, R637, R681, R761 to R764, R787, R800, R803, R812, R813: boot goes on when both self-tests have passed and stops in
ERROR when one fails; a slot boots only when it qualifies, the preferred one first, and never below the rollback floor; a weight
load goes through LOADING and HASHING to VALID, whose digest is that of the weight view. Completes .startupTestsDone, .selftestDone,
.wloadBegin, .wloadDone and .weightHashDone. -/
def Obligations.BootCompletes : Prop :=
  (∀ (raw : BitVec 4096) (s : State), let u := startupTests raw s
    (bootPhase u = 1 → exec (.startupTestsDone raw) s = .next (bootNext (windBootDone u))) ∧
    (bootPhase u ≠ 1 → exec (.startupTestsDone raw) s = .next u)) ∧
  (∀ s : State, sdrState s = 0 → bootPhase s ≠ 0 →
    ∃ u, exec (.selftestDone 0#8) s = .next (bootNext u) ∧ u.brd.sdrDone = true ∧ u.brd.windDone = s.brd.windDone) ∧
  (∀ (f : BitVec 8) (s : State), f ≠ 0#8 → (sdrState s = 0 ∧ bootPhase s ≠ 0 ∨ sdrState s = 1) →
    exec (.selftestDone f) s = .next (sdrError s f.toNat)) ∧
  (∀ (s : State) (k : Nat) (p : Plot), bootChoice s = some (k, p) → slotSet s k = some p ∧
    (k = s.ldg.prefer ∨ (k = 1 - s.ldg.prefer ∧ slotSet s s.ldg.prefer = none))) ∧
  (∀ (s : State) (k : Nat) (p : Plot), slotSet s k = some p → (slotOf s k).state = 2 ∧
    Config.sha384 (slotOf s k).image = (slotOf s k).digest ∧ imageSigned s (slotOf s k).image = true ∧
    s.sdr.floor ≤ fieldAt (slotOf s k).image 0x14 4) ∧
  (∀ (v : Word) (s : State), reaches s 0 Fld.plyWloadCtlBegin.off = true → bit v 0 = true →
    let u := commandWord s 0 Fld.plyWloadCtlBegin.off v
    (isSet u Fld.stmCtlEn = true → exec (.wloadBegin v) s = .next (set u Fld.plyWloadStatusRefused 1)) ∧
    (isSet u Fld.stmCtlEn = false → ∃ t, exec (.wloadBegin v) s = .next t ∧ get t Fld.plyWloadStatusState = 1 ∧
      get t Fld.undBuddyWcopyValid = 0 ∧ ∀ i < 12, get t (Fld.plyWdigestV i) = 0)) ∧
  (∀ (v : Word) (s : State), reaches s 0 Fld.plyWloadCtlDone.off = true → bit v 1 = true → bit v 0 = false →
    get (commandWord s 0 Fld.plyWloadCtlDone.off v) Fld.plyWloadStatusState = 1 →
    ∃ t, exec (.wloadDone v) s = .next t ∧ get t Fld.plyWloadStatusState = 2) ∧
  (∀ s : State, get s Fld.plyWloadStatusState = 2 →
    ∃ t, exec .weightHashDone s = .next t ∧ get t Fld.plyWloadStatusState = 3 ∧
      ∀ i < 12, get t (Fld.plyWdigestV i) = Config.sha384 (weightBytes s) / 2 ^ (32 * i) % 2 ^ 32)

/-- R768, R770, R775 to R777, R780 to R782, R785 to R787: a programmed log page holds the oldest records not yet persisted, whether or not its
program fails; a store of an image that verifies marks its slot WRITING and, once its blocks are written, VALID, and a preferring store then names
the slot; an image that does not verify gets its result; a rewrite moves its logical block, and no other, to a free pool block, as a complete
copy, and erases the old one. Each waits for domain 61 to be Lit. Completes .logPageProgram, .ledgerStore, .ledgerStoreDone,
.wearLevelMove and .eccScheduledMove. -/
def Obligations.LedgerCompletes : Prop :=
  (∀ (ok : Bool) (s : State), ledgerReady s = true → domLit s 61 = false → exec (.logPageProgram ok) s = .next (demandDom s 61)) ∧
  (∀ (ok : Bool) (s : State), ledgerReady s = true → domLit s 61 = true → s.ldg.logPage ≠ [] →
    ∃ t, exec (.logPageProgram ok) s = .next t ∧
      t.ldg.log = keepLast 262144 (s.ldg.log ++ s.ldg.logPage.take 128) ∧
      t.sdr.unpersisted ≤ s.sdr.unpersisted - (s.ldg.logPage.take 128).length + 1 ∧
      (s.sdr.lossPend = 0 → t.sdr.unpersisted = s.sdr.unpersisted - (s.ldg.logPage.take 128).length ∧
        t.ldg.logPage = s.ldg.logPage.drop 128)) ∧
  (∀ (ok : Bool) (s : State), ledgerReady s = true → domLit s 61 = true → s.ldg.logPage = [] →
    (s.flt.log.filter fun r => decide (s.ldg.faultNext ≤ bits r 224 32)) ≠ [] →
    ∃ t, exec (.logPageProgram ok) s = .next t ∧ t.ldg.faultLog = keepLast 8388608 (s.ldg.faultLog ++
      (s.flt.log.filter fun r => decide (s.ldg.faultNext ≤ bits r 224 32)).take 128)) ∧
  (∀ (v : Word) (s : State), reaches s 0 Fld.ldgStoreCtlStore.off = true → bit v 0 = true →
    let u := commandWord s 0 Fld.ldgStoreCtlStore.off v
    let k := get u Fld.ldgStoreCtlSlot
    let img := stagedImage u (imageAddr u)
    get u Fld.ldgStoreStatusResult ≠ 1 →
    (ledgerReady u = false → exec (.ledgerStore v) s = .next (storeResult u 7)) ∧
    (ledgerReady u = true → u.ldg.bootSlot = some k → exec (.ledgerStore v) s = .next (storeResult u 6)) ∧
    (∀ r b, ledgerReady u = true → u.ldg.bootSlot ≠ some k → imageVerdict u img = some (r, b) → r ≠ 6 →
      ∃ t, exec (.ledgerStore v) s = .next t ∧ get t Fld.ldgStoreStatusResult = r ∧ t.ldg = u.ldg) ∧
    (ledgerReady u = true → u.ldg.bootSlot ≠ some k → (∀ r, imageVerdict u img = some r → r.1 = 6) → k < u.ldg.slots.length →
      ∃ t, exec (.ledgerStore v) s = .next t ∧ get t Fld.ldgStoreStatusResult = 1 ∧ (slotOf t k).state = 1 ∧
        t.ldg.storing = some (k, slotImage u k img))) ∧
  (∀ (k : Nat) (x : ImgSlot) (s : State), s.ldg.storing = some (k, x) → k < s.ldg.slots.length →
    (∀ ok, domLit s 61 = false → exec (.ledgerStoreDone ok) s = .next (demandDom s 61)) ∧
    (ledgerReady s = true → domLit s 61 = true →
      ∃ t, exec (.ledgerStoreDone true) s = .next t ∧ slotOf t k = x ∧ t.ldg.storing = none ∧ get t Fld.ldgStoreStatusResult = 2 ∧
        (isSet s Fld.ldgStoreCtlPrefer = true → t.ldg.prefer = k) ∧
        (isSet s Fld.ldgStoreCtlPrefer = false → t.ldg.prefer = s.ldg.prefer))) ∧
  (∀ (p e : Nat) (s : State), ledgerReady s = true → (∀ t, s.ldg.lastMove = some t → t + 100000000 ≤ s.st) →
    mostWorn s = some (p, e) → coldBlocks s e ≠ [] →
    (∀ ok, domLit s 61 = false → exec (.wearLevelMove ok) s = .next (demandDom s 61)) ∧
    (domLit s 61 = true → ∃ lb ∈ coldBlocks s e,
      (∃ t, exec (.wearLevelMove true) s = .next t ∧ poolOf t lb = p ∧ (∀ j, j ≠ lb → poolOf t j = poolOf s j) ∧
        t.ldg.lastMove = some s.st) ∧
      exec (.wearLevelMove false) s = .next (storeBlock (retire ((advance s).onLdg fun l => { l with lastMove := some s.st }) p) lb))) ∧
  (∀ (ok : Bool) (t : Nat) (s : State), s.ldg.lastMove = some t → s.st < t + 100000000 → exec (.wearLevelMove ok) s = .next s) ∧
  (∀ (lb : Nat) (ok : Bool) (s : State), ledgerReady s = true → lb < logicalBlocks →
    (domLit s 61 = true → exec (.eccScheduledMove lb ok) s = .next (storeBlock (if ok then s else failFree s) lb)) ∧
    (domLit s 61 = false → exec (.eccScheduledMove lb ok) s = .next (demandDom s 61))) ∧
  (∀ (lb p : Nat) (s : State), lb < logicalBlocks → get s Fld.ldgStatusState ≠ 2 → findFree s 16352 (fresh s) = some p →
    poolFree s p = true ∧ poolOf (storeBlock s lb) lb = p ∧ (∀ j, j ≠ lb → poolOf (storeBlock s lb) j = poolOf s j) ∧
    (pblk (storeBlock s lb) p).complete = true ∧ (pblk (storeBlock s lb) p).logical = lb ∧
    (pblk (storeBlock s lb) (poolOf s lb)).erases = (pblk s (poolOf s lb)).erases + 1 ∧
    (pblk (storeBlock s lb) (poolOf s lb)).complete = false)

/-- R12, R13, R822 to R831, R839 to R841, R844, Tables FAULT-2, FAULT-4 and FAULT-6: a report of a listed code makes a record, counts
by its class, and raises its status bit and FAULT_N; a code outside the table is never raised; FLT_PRST resets the blocks it names,
each of which loses its work in progress and shows BUSY until its reset is complete; FLT_INJECT takes its code and raises it, a
FATAL one never; an uncorrectable read leaves a poisoned word. Completes .faultReport, .crashCapsuleTimeout, .partialReset,
.partialResetComplete and .faultInject. -/
def Obligations.FaultsComplete : Prop :=
  (∀ (code inst : BitVec 16) (detail : Word) (s : State), faultClass code.toNat = none →
    exec (.faultReport code inst detail) s = .next s) ∧
  (∀ (code inst : BitVec 16) (detail : Word) (k : Nat) (s : State), faultClass code.toNat = some k →
    ∃ t, exec (.faultReport code inst detail) s = .next t ∧ t.stm = s.stm ∧ t.mdw.mem = s.mdw.mem ∧
      (code.toNat ≠ 0x0405 → code.toNat ≠ 0x0802 → t.mdw = s.mdw) ∧
      (code.toNat = 0x0405 → inst.toNat < 96 → ∃ a < 0x600000, poisoned t (inst.toNat * 0x600000 + a) 1 = true) ∧
      (code.toNat = 0x0802 → ∃ a, poisoned t a 1 = true) ∧
      (k = 3 → get t Fld.fltStatusDegraded = 1) ∧ (k = 4 → get t Fld.fltStatusFatal = 1 ∧ t.brd.faultPin = true) ∧
      ((k = 0 ∨ k = 4) →
        ((∀ r, s.flt.log.getLast? = some r → frCue r ≠ cueNum s) → t.flt.log.getLast? =
          some (mkFault code.toNat k (code.toNat / 256) inst.toNat (cueNum s) s.st 1 detail.toNat (get s Fld.fltLogNextV))) ∧
        (∀ r, s.flt.log.getLast? = some r → frCode r = code.toNat → frInst r = inst.toNat → frDetail r = detail.toNat →
          frCue r = cueNum s → frCount r < 65535 → t.flt.log = s.flt.log.dropLast ++ [addAt r 160]))) ∧
  (∀ s : State, s.ldg.crashBusy = false → exec .crashCapsuleTimeout s = .next s) ∧
  (∀ s : State, s.ldg.crashBusy = true → ∃ t, exec .crashCapsuleTimeout s = .next t ∧ t.ldg.crashBusy = false ∧
    t.ldg.crashes = s.ldg.crashes) ∧
  (∀ (b : PrstBlock) (v : Word) (s : State), b ∈ prstBlocks → (∀ x ∈ prstBlocks, bit v x.bitNo = decide (x = b)) →
    reaches s 0 Fld.fltPrstPrm.off = true →
    let u := commandWord s 0 Fld.fltPrstPrm.off v
    (∀ d ∈ b.doms, domState u d = 0) →
    ∃ t, exec (.partialReset v) s = .next t ∧ get t b.busy = 1 ∧ t.mdw = u.mdw ∧ t.stm = u.stm ∧
      (b.bitNo = 0 → t.prm = { u.prm with lists := [], merges := [], handed := [], load := none, image := [], copies := none }) ∧
      (b.bitNo = 1 → t.wdr.load = none ∧ t.wdr.copies = none ∧ t.wdr.vers.length = u.wdr.vers.length ∧
        ∀ x ∈ t.wdr.vers, x.resident = false ∧ x.loft = []) ∧
      (b.bitNo = 2 → t.und.draining = [])) ∧
  (∀ (b : Fin 4) (s : State), ∃ t, exec (.partialResetComplete b) s = .next t ∧
    (∀ x, prstBlocks[b.val]? = some x → get t x.busy = 0 ∧ ∀ f : Fld, f.key ≠ x.busy.key → get t f = get s f)) ∧
  (∀ (v : Word) (s : State), reaches s 0 Fld.fltInjectCode.off = true → sealedMode s = false →
    ∃ t, exec (.faultInject 0 v) s = .next t ∧
      ((faultClass (v.toNat % 65536) = none ∨ faultClass (v.toNat % 65536) = some 4) → t = set s Fld.fltInjectCode (v.toNat % 65536)) ∧
      (faultClass (v.toNat % 65536) = some 3 → get t Fld.fltStatusDegraded = 1)) ∧
  (∀ (v : Word) (s : State), reaches s 0 Fld.fltInjectCode.off = true → sealedMode s = true →
    ∃ t, exec (.faultInject 0 v) s = .next t ∧ get t Fld.fltInjectCode = get s Fld.fltInjectCode)

/-- R511, R535 to R537, R549, R561, R888, R889, Table FAB-6: EN takes an OFF link of a Lit pair into TRAIN and, cleared, any link to
OFF; training and identity take it to IDENT and to UP, or to ISOLATED with its cause; a loss of signal and silence take it back to
TRAIN. Completes .linkEn, .trainingComplete, .trainTimeout, .trainRestart, .identityRecord, .linkSignalLoss and .linkSilence. -/
def Obligations.LinksComeUp : Prop :=
  (∀ (l : Fin 12) (v : Word) (s : State), reaches s 0 (Fld.fabLinkCtlEn l.val).off = true →
    let u := set (commandWord s 0 (Fld.fabLinkCtlEn l.val).off v) (Fld.fabLinkCtlEn l.val) (bits v 0 1)
    (bit v 0 = true → linkState u l.val = 0 → domState u (48 + l.val / 2) = 0 → domPhase u (48 + l.val / 2) = 0 →
      ∃ t, exec (.linkEn l v) s = .next t ∧ linkState t l.val = 1 ∧ get t (Fld.fabLinkCtlEn l.val) = 1 ∧ t.fab = u.fab) ∧
    (bit v 0 = false → ∃ t, exec (.linkEn l v) s = .next t ∧ linkState t l.val = 0 ∧ t.stm = u.stm ∧ t.mdw = u.mdw)) ∧
  (∀ (l : Fin 12) (s : State), linkState s l.val = 1 → (linkAt s l.val).waiting = false →
    (∃ t, exec (.trainingComplete l) s = .next t ∧ linkState t l.val = 2 ∧ t.fab = s.fab ∧
      (s.fab.silent = none → t.out.ctrl = s.out.ctrl ++ [(l.val, 5, selfDev s)])) ∧
    (s.fab.links.length = 12 → ∃ t, exec (.trainTimeout l) s = .next t ∧ linkState t l.val = 1 ∧
      (linkAt t l.val).waiting = true ∧
      get t (Fld.fabLinkStatusTrainFails l.val) = satAdd (Fld.fabLinkStatusTrainFails l.val).width
        (get s (Fld.fabLinkStatusTrainFails l.val)) 1 % 2 ^ (Fld.fabLinkStatusTrainFails l.val).width)) ∧
  (∀ (l : Fin 12) (s : State), linkState s l.val = 1 → s.fab.links.length = 12 →
    (∃ t, exec (.trainRestart l) s = .next t ∧ (linkAt t l.val).waiting = false ∧ t.regs = s.regs) ∧
    (∃ t, exec (.linkSignalLoss l) s = .next t ∧ (linkAt t l.val).waiting = false ∧ t.regs = s.regs)) ∧
  (∀ (l : Fin 12) (r : IdRec) (p : Plot) (s : State), s.spl.active = some p → linkState s l.val = 2 →
    let isolated (cause : Nat) : Prop := ∃ t, exec (.identityRecord l r) s = .next t ∧ linkState t l.val = 5 ∧
      get t (Fld.fabLinkStatusIsoCause l.val) = cause
    ((r.device.val ≠ p.expect.getD l.val 1024 ∨ r.link.val ≠ Nat.xor l.val 2) → isolated 1) ∧
    (r.device.val = p.expect.getD l.val 1024 → r.link.val = Nat.xor l.val 2 →
      (r.digest ≠ p.digest → isolated 3) ∧
      (r.digest = p.digest →
        (s.sdr.hk = none → isolated 2) ∧
        (∀ k v u, s.sdr.hk = some k → drbgTake s = some (v, u) →
          (r.chainOk = true → r.sigOk = true → r.hmacOk = true →
            ∃ t, exec (.identityRecord l r) s = .next t ∧ linkState t l.val = 3 ∧ linkPeer t l.val = r.device.val ∧
              get t (Fld.fabLinkStatusPeerEpoch l.val) = r.epoch.toNat) ∧
          ((r.chainOk && r.sigOk && r.hmacOk) = false → isolated 2)) ∧
        (∀ k, s.sdr.hk = some k → drbgTake s = none →
          ∃ t, exec (.identityRecord l r) s = .next t ∧ linkState t l.val = 2)))) ∧
  (∀ (l : Fin 12) (s : State), linkState s l.val = 2 →
    (∃ t, exec (.linkSignalLoss l) s = .next t ∧ linkState t l.val = 1 ∧ t.fab = s.fab) ∧
    (∃ t, exec (.linkSilence l) s = .next t ∧ linkState t l.val = 1 ∧ t.fab = s.fab)) ∧
  (∀ (l : Fin 12) (s : State), linkRuns s l.val = true →
    exec (.linkSignalLoss l) s = .next (leaveUp s l.val) ∧ exec (.linkSilence l) s = .next (leaveUp s l.val) ∧
    (∀ k < 12, k ≠ l.val → linkRuns s k = true → linkPeer s k = linkPeer s l.val →
      linkState (leaveUp s l.val) l.val = 1 ∧ (leaveUp s l.val).stm = s.stm)) ∧
  (∀ (l : Fin 12) (s : State), linkState s l.val ∉ [2, 3, 4] → exec (.linkSilence l) s = .next s)

/-- R512 to R515, R518, R521, R523, R524, R530, R532, R534, R537 to R540, R551, R580, R600, Table FAB-2: a flit whose CRC fails is
discarded, counted and answered with a NAK; one of another epoch is discarded and counted; a good data flit in order advances the
sequence; a packet in transit leaves its receive buffer for its output link when that has credit; an idle link acknowledges and
returns credits; a replay that is the 16th in a row takes its link out of UP; an update that ranks above the record changes it. Completes
.flitReceive, .packetForward, .idleFlit, .replayTimeout and .topologyUpdate. -/
def Obligations.FlitsMove : Prop :=
  (∀ (l : Fin 12) (flit : BitVec 2048) (s : State), linkRuns s l.val = false →
    exec (.flitReceive l flit) s = .next s ∧ exec (.idleFlit l) s = .next s ∧ exec (.replayTimeout l) s = .next s ∧
    ∀ d st ep, exec (.topologyUpdate l d st ep) s = .next s) ∧
  (∀ (l : Fin 12) (flit : BitVec 2048) (s : State), linkRuns s l.val = true →
    (crc64 ((wireBytes flit).take 248) ≠ bits flit 1984 64 →
      ∃ t, exec (.flitReceive l flit) s = .next t ∧ t.fab = s.fab ∧ t.swl = s.swl ∧
        get t (Fld.fabLinkErrCrc l.val) = satAdd 16 (get s (Fld.fabLinkErrCrc l.val)) 1 % 2 ^ 16 ∧
        (s.fab.silent = none → t.out.ctrl = s.out.ctrl ++ [(l.val, 6, (linkAt s l.val).seqRx)])) ∧
    (crc64 ((wireBytes flit).take 248) = bits flit 1984 64 →
      (bits flit 36 8 ≠ get s (Fld.fabLinkStatusPeerEpoch l.val) →
        exec (.flitReceive l flit) s = .next (inc s (Fld.fabLinkDropStale l.val) 1)) ∧
      (bits flit 36 8 = get s (Fld.fabLinkStatusPeerEpoch l.val) →
        ((1 < bits flit 44 3 ∨ bit flit 47 = true) → exec (.flitReceive l flit) s = .next s) ∧
        (bit flit 47 = false →
          (bits flit 44 3 = 1 → exec (.flitReceive l flit) s = .next (takeAck s l.val flit)) ∧
          (bits flit 44 3 = 0 → (linkAt s l.val).seqRx ≠ bits flit 0 12 → bit flit 24 = false →
            exec (.flitReceive l flit) s = .next (takeAck s l.val flit)) ∧
          (bits flit 44 3 = 0 → (linkAt s l.val).seqRx = bits flit 0 12 → bit flit 24 = false →
            s.fab.links.length = 12 → rxFull (takeAck s l.val flit) l.val (((wireBytes flit).drop 6).take 242) = false →
            ∃ t, exec (.flitReceive l flit) s = .next t ∧ (linkAt t l.val).seqRx = (bits flit 0 12 + 1) % 4096 ∧
              t.stm = s.stm ∧ t.mdw = s.mdw))))) ∧
  (∀ (pkt : Packet) (i : Nat) (s : State), i < 96 → (swOf s (0x20 + i)).items.head?.map itemPkt = some pkt →
    (∀ j < i, (swOf s (0x20 + j)).items.head?.map itemPkt ≠ some pkt) →
    let out := reHead pkt (forwardSub s (i / 8) pkt) (pDirs pkt)
    (mayLeave s out = true →
      ∃ t, exec (.packetForward pkt) s = .next t ∧ (swOf t (0x20 + i)).items = (swOf s (0x20 + i)).items.drop 1 ∧
        t.out.packets = s.out.packets ++ [out] ∧ t.stm = s.stm ∧ t.mdw = s.mdw) ∧
    (mayLeave s out = false → exec (.packetForward pkt) s = .next s)) ∧
  (∀ (l : Fin 12) (s : State), linkRuns s l.val = true →
    ((∀ i < 8, (linkAt s l.val).owed.getD i 0 = 0) →
      exec (.idleFlit l) s = .next (ctrl s l.val 0 ((linkAt s l.val).seqRx * 2 ^ 12))) ∧
    (∀ i < 8, s.fab.links.length = 12 → (linkAt s l.val).owed.length = 8 → (linkAt s l.val).owed.getD i 0 ≠ 0 →
      (∀ j < i, (linkAt s l.val).owed.getD j 0 = 0) →
      ∃ t, exec (.idleFlit l) s = .next t ∧
        (linkAt t l.val).owed.getD i 0 = (linkAt s l.val).owed.getD i 0 - min 255 ((linkAt s l.val).owed.getD i 0) ∧
        t.regs = s.regs)) ∧
  (∀ (l : Fin 12) (s : State), linkRuns s l.val = true → s.fab.links.length = 12 →
    ((linkAt s l.val).retry = [] → exec (.replayTimeout l) s = .next s) ∧
    ((linkAt s l.val).retry ≠ [] → (linkAt s l.val).replays < 15 →
      ∃ t, exec (.replayTimeout l) s = .next t ∧ (linkAt t l.val).replays = (linkAt s l.val).replays + 1 ∧
        (linkAt t l.val).retry = (linkAt s l.val).retry ∧ linkState t l.val = linkState s l.val) ∧
    ((linkAt s l.val).retry ≠ [] → 15 ≤ (linkAt s l.val).replays →
      ∃ u, exec (.replayTimeout l) s = .next (leaveUp u l.val) ∧ (linkAt u l.val).retry = (linkAt s l.val).retry)) ∧
  (∀ (l : Fin 12) (d : Fin 1024) (st : Nat) (ep : BitVec 8) (s : State), linkRuns s l.val = true →
    (topoChanges s d.val st ep.toNat = false → exec (.topologyUpdate l d st ep) s = .next s) ∧
    (topoChanges s d.val st ep.toNat = true →
      exec (.topologyUpdate l d st ep) s = .next (topoActs (announce (putTopo s d.val
        { topoOf s d.val with state := st, epoch := ep.toNat }) d.val st ep.toNat (some l.val)) d.val st)) ∧
    (topoChanges s d.val 1 ep.toNat = true →
      ∃ t, exec (.topologyUpdate l d 1 ep) s = .next t ∧ (topoOf t d.val).state = 1 ∧ (topoOf t d.val).epoch = ep.toNat ∧
        t.stm = s.stm))

/-- R531, R537, R543 to R547, R555, R556, Table FAB-9: EXIT announces the device as EXITING and takes every UP link to EXIT; a fence
takes its link to EXIT; an EXIT_ACK drains it, and one leaves when nothing is owed; a timeout forces DRAINED; a STATUS completes the
request of its tag, and one that matches none is counted; an advertisement replaces that Company's earlier one. A STATUS under the tag
that no request has is a message of the model's own (log entry 139). Completes .exit, .exitFence, .exitAck, .exitAckSend, .exitTimeout,
.status and .advert. -/
def Obligations.ExitsComplete : Prop :=
  (∀ (v : Word) (s : State), reaches s 0 Fld.fabExitCtlExit.off = true → bit v 0 = true →
    let u := commandWord s 0 Fld.fabExitCtlExit.off v
    (u.fab.exitWritten = true → exec (.exit v) s = .next u) ∧
    (u.fab.exitWritten = false →
      ∃ t, exec (.exit v) s = .next t ∧ t.fab.exitWritten = true ∧ t.fab.exitSt = u.st ∧ t.stm = u.stm ∧
        (∀ l < 12, linkState u l = 3 → linkState t l = 4) ∧
        (u.fab.silent = none → ∀ l < 12, linkState u l = 3 → (l, 2, 0) ∈ t.out.ctrl ∧
          (l, 4, selfDev u + 2 * 1024 + get u Fld.fabEpochEpoch * 4096) ∈ t.out.ctrl))) ∧
  (∀ (l : Fin 12) (s : State), linkState s l.val = 3 →
    ∃ t, exec (.exitFence l) s = .next t ∧ linkState t l.val = 4 ∧ t.stm = s.stm) ∧
  (∀ (l : Fin 12) (s : State), linkState s l.val ≠ 3 → exec (.exitFence l) s = .next s) ∧
  (∀ (l : Fin 12) (s : State), linkState s l.val ≠ 4 → exec (.exitAck l) s = .next s ∧ exec (.exitAckSend l) s = .next s) ∧
  (∀ (l : Fin 12) (s : State), linkState s l.val = 4 → s.fab.links.length = 12 →
    (∃ t, exec (.exitAck l) s = .next t ∧ (linkAt t l.val).drained = true ∧ t.stm = s.stm) ∧
    ((topoOf s (linkPeer s l.val)).state = 2 → (∀ p ∈ s.fab.pend, p.dst ≠ linkPeer s l.val) →
      holdsFor s (linkPeer s l.val) = false → (∀ x ∈ (linkAt s l.val).owed, x = 0) →
      ∃ t, exec (.exitAckSend l) s = .next t ∧ (linkAt t l.val).drained = true ∧
        (s.fab.silent = none → t.out.ctrl = s.out.ctrl ++ [(l.val, 3, 0)]))) ∧
  (∀ s : State, s.fab.exitWritten = true → get s Fld.fabExitCtlDrained = 0 →
    ∃ t, exec .exitTimeout s = .next t ∧ get t Fld.fabExitCtlDrained = 1 ∧ get t Fld.fabExitCtlForced = 1 ∧
      s.fab.exitSt + 1000 * getA s Fld.fabExitCtlExitTimeoutUs ≤ t.st) ∧
  (∀ s : State, s.fab.exitWritten = false → exec .exitTimeout s = .next s) ∧
  (∀ (src : Fin 1024) (tag : BitVec 16) (ep : BitVec 8) (code outcome value detail : Nat) (s : State),
    (ep.toNat ≠ get s Fld.fabEpochEpoch →
      exec (.status src tag ep code outcome value detail) s = .next (inc s Fld.fabOrphanStaleReply 1)) ∧
    (ep.toNat = get s Fld.fabEpochEpoch →
      (∀ p, (s.fab.pend.find? fun p => p.tag = tag.toNat && p.dst = src.val) = some p →
        let w := s.onFab fun b => { b with pend := b.pend.erase p }
        let u := issueWaiting (set w Fld.fabPendingV w.fab.pend.length)
        (p.kind = 0x10 → exec (.status src tag ep code outcome value detail) s =
          .next (checkDrained (decideTag u p.tag code outcome value detail))) ∧
        (p.kind = 0x12 → ∀ r, (u.und.restore.find? fun r => r.tag = p.tag) = some r →
          exec (.status src tag ep code outcome value detail) s =
            .next (checkDrained (restAnswer u r.slot (outcome = 2)))) ∧
        (p.kind = 0x14 → exec (.status src tag ep code outcome value detail) s =
          .next (checkDrained (sceneStatus u src.val outcome value detail)))) ∧
      ((s.fab.pend.find? fun p => p.tag = tag.toNat && p.dst = src.val) = none →
        (∀ e, (s.hiu.callMap.find? fun e => e.tag = tag.toNat && e.decided && e.lead = src.val && e.finalN.isNone &&
            !e.finalWritten) = some e →
          exec (.status src tag ep code outcome value detail) s = .next (arriveFinal s e code value detail)) ∧
        ((∀ e ∈ s.hiu.callMap, e.tag ≠ tag.toNat) → tag.toNat ≠ 0xFFFF →
          exec (.status src tag ep code outcome value detail) s = .next (inc s Fld.fabOrphanOrphan 1)) ∧
        ((∀ e ∈ s.hiu.callMap, e.tag ≠ 0xFFFF) → tag.toNat = 0xFFFF →
          (code = stCompanyLost → outcome = 0 →
            exec (.status src tag ep code outcome value detail) s = .next (endLostHere s detail value)) ∧
          (outScene ≤ outcome →
            exec (.status src tag ep code outcome value detail) s = .next (deviceTold s src.val outcome value detail)) ∧
          (3 ≤ outcome → outcome < outScene →
            exec (.status src tag ep code outcome value detail) s = .next (srcTells s src.val outcome detail value code)))))) ∧
  (∀ (src : Fin 1024) (company model : Nat) (a e x : Bool) (slots blocks cue : Nat) (s : State),
    ∃ t, exec (.advert src company model a e x slots blocks cue) s = .next t ∧
      (∀ y, y ∈ t.fab.adverts ↔ (y ∈ s.fab.adverts ∧ y.company ≠ company) ∨
        y = ⟨company, model, a, e, x, slots, blocks, cue⟩) ∧ t.regs = s.regs ∧ t.stm = s.stm)

/-- R751 to R754, R762, Tables SDR-3 and SDR-4: each SPDM request of a READY Stage Door is answered as its table says; a request
that needs a random value fails with ENTROPY when there is none; at most four sessions are open, under ids of their own; FINISH
makes a session usable and END_SESSION closes it; chunks gather in order. Completes .getVersion, .getCapabilities,
.negotiateAlgorithms, .getDigests, .getCertificate, .challenge, .getMeasurements, .keyExchange, .finish, .heartbeat, .keyUpdate,
.endSession, .chunkSend and .chunkGet. -/
def Obligations.SpdmAnswers : Prop :=
  (∀ s : State, exec .getVersion s = .next (spdmOut s 0x04 [0x12]) ∧
    exec .getCapabilities s = .next (spdmOut (advance s) 0x61 (leBytes 4 (fresh s))) ∧
    exec .getDigests s = .next (spdmOut s 0x01 (leBytes 48 (Config.sha384 Config.certChain)))) ∧
  (∀ (s : State) (code : Nat) (body : List Byte), body.length ≤ Config.spdmLongest →
    (spdmOut s code body).out.spdm = s.out.spdm ++ [(code, body)] ∧ (spdmOut s code body).sdr = s.sdr) ∧
  (∀ (algs : List Nat) (s : State), ∃ t, exec (.negotiateAlgorithms algs) s = .next t ∧
    (t.sdr.algs = true ↔ ∀ i < 4, Nat.land (spdmAlgs.getD i 0) (algs.getD i 0) = spdmAlgs.getD i 0) ∧ t.regs = s.regs) ∧
  (∀ (off len : Nat) (s : State), off < Config.certChain.length →
    let part := (Config.certChain.drop off).take len
    exec (.getCertificate 0 off len) s = .next (spdmOut s 0x02
      (leBytes 2 part.length ++ leBytes 2 (Config.certChain.length - off - part.length) ++ part))) ∧
  (∀ (slot off len : Nat) (s : State), (slot ≠ 0 ∨ Config.certChain.length ≤ off) →
    exec (.getCertificate slot off len) s = .next (spdmError s 1)) ∧
  (∀ (nonce : BitVec 256) (s : State), sdrState s = 1 →
    (∀ v u, drbgTake s = some (v, u) → exec (.challenge 0 nonce) s =
      .next (spdmOut u 0x03 (signedBody (leBytes 48 (Config.sha384 Config.certChain)) nonce.toNat v))) ∧
    (drbgTake s = none → exec (.challenge 0 nonce) s = .next (spdmFails (entropyFail s true))) ∧
    (∀ slot, slot ≠ 0 → exec (.challenge slot nonce) s = .next (spdmError s 1))) ∧
  (∀ (idx : Nat) (nonce : BitVec 256) (s : State), sdrState s = 1 →
    (idx = 0 → exec (.getMeasurements false idx nonce) s = .next (spdmOut s 0x60 [8])) ∧
    (1 ≤ idx → idx ≤ 8 → exec (.getMeasurements false idx nonce) s =
      .next (spdmOut s 0x60 (leBytes 1 idx ++ measurement s idx))) ∧
    (1 ≤ idx → idx ≤ 8 → ∀ v u, drbgTake s = some (v, u) → exec (.getMeasurements true idx nonce) s =
      .next (spdmOut u 0x60 (signedBody (leBytes 1 idx ++ measurement s idx) nonce.toNat v))) ∧
    (exec (.getMeasurements false 0xFF nonce) s = .next (spdmOut s 0x60
      (((List.range 8).map fun i => leBytes 1 (i + 1) ++ measurement s (i + 1)).flatten))) ∧
    (∀ v u, drbgTake s = some (v, u) → exec (.getMeasurements true 0xFF nonce) s = .next (spdmOut u 0x60
      (signedBody (((List.range 8).map fun i => leBytes 1 (i + 1) ++ measurement s (i + 1)).flatten) nonce.toNat v))) ∧
    (8 < idx → idx ≠ 0xFF → exec (.getMeasurements false idx nonce) s = .next (spdmError s 1))) ∧
  (∀ (i3c : Bool) (pub v : Nat) (s u : State), sdrState s = 1 → s.sdr.sessions.length < 4 → auditRoom s = true →
    drbgTake s = some (v, u) →
    ∃ t id, exec (.keyExchange i3c pub) s = .next t ∧
      t.sdr.sessions = s.sdr.sessions ++ [⟨id, i3c, Config.ecdhe v pub, false, false⟩] ∧ id < 256 ∧ sessOf s id = none) ∧
  (∀ (i3c : Bool) (pub : Nat) (s : State), sdrState s = 1 → 4 ≤ s.sdr.sessions.length →
    exec (.keyExchange i3c pub) s = .next (spdmError s 3)) ∧
  (∀ (sid : Nat) (s : State), sessOf s sid = none →
    (∀ ok oper, exec (.finish sid ok oper) s = .next (spdmError s 1)) ∧ exec (.heartbeat sid) s = .next (spdmError s 1) ∧
    exec (.keyUpdate sid) s = .next (spdmError s 1) ∧ exec (.endSession sid) s = .next (spdmError s 1)) ∧
  (∀ (sid : Nat) (x : Sess) (s : State), sessOf s sid = some x → sdrState s = 1 →
    (∀ oper, ∃ t op, exec (.finish sid true oper) s = .next t ∧
      t.sdr.sessions = s.sdr.sessions.map (fun y => if y.id = sid then { y with finished := true, oper := op } else y) ∧
      (op = true ↔ ∃ k g p, oper = some (k, g) ∧ s.spl.active = some p ∧ k ∈ p.operKeys.take 4 ∧
        Config.ecdsaVerify k (transcript x) g = true)) ∧
    (∀ oper, ∃ t, exec (.finish sid false oper) s = .next t ∧ t.sdr.sessions = s.sdr.sessions.erase x) ∧
    (x.finished = true → exec (.heartbeat sid) s = .next (spdmOut s 0x68 [])) ∧
    (x.finished = true → ∃ t, exec (.keyUpdate sid) s = .next t ∧ t.sdr.sessions = s.sdr.sessions.map fun y =>
      if y.id = sid then { y with key := Config.hmac384 y.key (ascii "traffic upd") } else y) ∧
    (x.finished = false → exec (.heartbeat sid) s = .next (spdmError s 1) ∧ exec (.keyUpdate sid) s = .next (spdmError s 1)) ∧
    (auditRoom s = false → exec (.endSession sid) s = .next (spdmFails s)) ∧
    (auditRoom s = true → ∃ t, exec (.endSession sid) s = .next t ∧ t.sdr.sessions = s.sdr.sessions.erase x ∧
      get t Fld.sdrSessionsV = (s.sdr.sessions.erase x).length % 2 ^ Fld.sdrSessionsV.width)) ∧
  (∀ (h : Nat) (last : Bool) (data : List Byte) (s : State), s.sdr.chunkHandle = none →
    ∃ t, exec (.chunkSend h 0 last data) s = .next t ∧ t.sdr.chunkHandle = (if last then none else some (h, 1)) ∧
      t.sdr.chunks = if last then [] else data) ∧
  (∀ (h n : Nat) (last : Bool) (data : List Byte) (s : State), s.sdr.chunkHandle = some (h, n + 1) →
    ∃ t, exec (.chunkSend h (n + 1) last data) s = .next t ∧ t.sdr.chunkHandle = (if last then none else some (h, n + 2)) ∧
      t.sdr.chunks = if last then [] else s.sdr.chunks ++ data) ∧
  (∀ (seq : Nat) (s : State), let part := (s.sdr.large.drop (seq * max 1 Config.spdmLongest)).take (max 1 Config.spdmLongest)
    (part ≠ [] → ∃ t, exec (.chunkGet s.sdr.largeHandle seq) s = .next t ∧
      t.out.spdm = s.out.spdm ++ [(0x06, leBytes 1 s.sdr.largeHandle ++ leBytes 2 seq ++ part)]) ∧
    (part = [] → exec (.chunkGet s.sdr.largeHandle seq) s = .next (spdmError s 1)))

/-- R741, R742, R754, R758, R761, R767, R770, Table SDR-5: a vendor request in a session that permits it has its effect; one in any
other session is answered with an error, is audited, and changes no key, no revocation and no floor. Completes .setHouseKey,
.programKey, .revokeKey, .writeLocked, .raiseFloor, .spdmZeroise and .readAudit. -/
def Obligations.VendorRequests : Prop :=
  (∀ (sid : Nat) (s : State), sdrState s = 1 → (∀ x, sessOf s sid = some x → x.finished = false) →
    let denied : Host.Outcome State Fault Refusal :=
      .next (spdmError (audit (advance s) 1 0 true stSealedDenied (fresh s % 2 ^ 32)) eUnsupported)
    (∀ k, exec (.setHouseKey sid k) s = denied) ∧ (∀ i d, exec (.programKey sid i d) s = denied) ∧
    (∀ i, exec (.revokeKey sid i) s = denied) ∧ (∀ o v, exec (.writeLocked sid o v) s = denied) ∧
    (∀ q, exec (.raiseFloor sid q) s = denied) ∧ (∀ t, exec (.spdmZeroise sid t) s = denied) ∧
    (∀ a b, exec (.readAudit sid a b) s = denied)) ∧
  (∀ (sid : Nat) (x : Sess) (s : State), sdrState s = 1 → sessOf s sid = some x → x.finished = true → auditRoom s = true →
    (∀ k, s.sdr.hk = none → ∃ t, exec (.setHouseKey sid k) s = .next t ∧ t.sdr.hk = some k.toNat ∧
      get t Fld.sdrStatusHouseKey = 1) ∧
    (∀ k h, s.sdr.hk = some h → exec (.setHouseKey sid k) s = .next (spdmFails s)) ∧
    (∀ t : BitVec 12, ∃ u, exec (.spdmZeroise sid (some t)) s = .next u ∧ u.sdr.tkeys.get? t.toNat = none ∧
      (∀ j, j ≠ t.toNat → u.sdr.tkeys.get? j = s.sdr.tkeys.get? j) ∧ u.sdr.hk = s.sdr.hk) ∧
    (s.sdr.zeroing = false → ∃ u, exec (.spdmZeroise sid none) s = .next u ∧ u.sdr.hk = none ∧ u.sdr.tkeys = [] ∧
      u.sdr.sessions = [] ∧ u.fab.exitWritten = true)) ∧
  (∀ (sid : Nat) (x : Sess) (s : State), sdrState s = 1 → sessOf s sid = some x → x.finished = true → x.oper = true →
    auditRoom s = true →
    (∀ (i : Nat) (d : BitVec 384), sealedMode s = false → 1 ≤ i → i ≤ 3 →
      (s.sdr.keys.get? i = none → ∃ t, exec (.programKey sid i d) s = .next t ∧ t.sdr.keys.get? i = some d.toNat ∧
        (∀ j, j ≠ i → t.sdr.keys.get? j = s.sdr.keys.get? j)) ∧
      (∀ k, s.sdr.keys.get? i = some k → exec (.programKey sid i d) s = .next (spdmFails s)) ∧
      (∃ t, exec (.revokeKey sid i) s = .next t ∧ i ∈ t.sdr.revoked ∧ (∀ j ∈ s.sdr.revoked, j ∈ t.sdr.revoked) ∧
        t.sdr.keys = s.sdr.keys)) ∧
    (∀ (i : Nat) (d : BitVec 384), sealedMode s = true → ∃ t u, exec (.programKey sid i d) s = .next t ∧
      exec (.revokeKey sid i) s = .next u ∧ t.sdr.keys = s.sdr.keys ∧ u.sdr.revoked = s.sdr.revoked) ∧
    (∀ (off : Nat) (v : Word), let fs := (fieldsAt 0 off).filter fun f => f.acc = .rwl
      (fs = [] → exec (.writeLocked sid off v) s = .next (spdmFails s)) ∧
      (fs ≠ [] → ∃ t, exec (.writeLocked sid off v) s = .next t ∧
        t = vendorDone (audit (afterWrite s (fs.foldl (fun t f => setLocked t v f) s) 0 off) 0x0A 0 true 0 off))) ∧
    (∀ q : Word, floorMay s q.toNat = true → ∃ t, exec (.raiseFloor sid q) s = .next t ∧ t.sdr.floor = q.toNat ∧
      get t Fld.sdrFloorSeq = q.toNat) ∧
    (∀ q : Word, floorMay s q.toNat = false → exec (.raiseFloor sid q) s = .next (spdmFails s)) ∧
    (∀ first count : Nat, exec (.readAudit sid first count) s = .next (spdmOut s 0x7E
      ((s.ldg.log.filter fun r => decide (first ≤ bits r 224 32) && decide (bits r 224 32 < first + count)).map
        wireBytes).flatten)))

/-- R12, R13, R745, R746, R748, R761, R763, R765 to R768, R770, Tables SDR-8 and SDR-9: a full zeroisation forgets every key, session
and seed and writes EXIT, and its completion empties the activation and Costume regions and all of Meadow; a tenant's empties one
slot; an import schedules a key or says why not; SDR_FLOOR moves up only, while Open; the oldest open audit record goes to the
Ledger. Completes .zeroise, .zeroiseComplete, .tenantZero, .tkeyImport, .floorWrite, .tamper and .auditClose. -/
def Obligations.KeysAndZeroise : Prop :=
  (∀ (v : Word) (s : State), reaches s 0 Fld.sdrZeroCtlZeroise.off = true →
    let u := commandWord s 0 Fld.sdrZeroCtlZeroise.off v
    auditRoom u = true → sdrState u ≠ 3 → u.sdr.zeroing = false →
    (bit v 0 = true → ∃ t, exec (.zeroise v) s = .next t ∧ t.sdr.hk = none ∧ t.sdr.tkeys = [] ∧
      t.sdr.imp = none ∧ t.sdr.sessions = [] ∧ t.sdr.drbg = none ∧ t.sdr.zeroing = true ∧ t.fab.exitWritten = true ∧
      t.sdr.floor = u.sdr.floor ∧ t.mdw = u.mdw) ∧
    (bit v 0 = false → bit v 1 = true → ∃ t, exec (.tenantZero v) s = .next t ∧
      t.sdr.tkeys = u.sdr.tkeys.del (get u Fld.sdrZeroCtlTenant) ∧ t.sdr.hk = u.sdr.hk)) ∧
  (∀ s : State, s.sdr.zeroing = true → get s Fld.fabExitCtlDrained = 1 →
    ∃ t, exec .zeroiseComplete s = .next t ∧ t.sdr.zeroing = false ∧
      t.mdw.blocks = [] ∧ t.wdr.vers = [] ∧ t.prm.scripts = [] ∧ t.und.bodies = [] ∧
      (∀ a, zeroisedByte s a = true → readByte t a = 0) ∧ (∀ a, zeroisedByte s a = false → readByte t a = readByte s a) ∧
      sdrState t = (if sdrState s = 2 then 2 else 3)) ∧
  (∀ s : State, (s.sdr.zeroing = false ∨ get s Fld.fabExitCtlDrained = 0) → exec .zeroiseComplete s = .next s) ∧
  (∀ (v : Word) (s : State), reaches s 0 Fld.sdrTkeyImportImport.off = true → bit v 0 = true →
    let u := commandWord s 0 Fld.sdrTkeyImportImport.off v
    let blob := ((List.range 10).map fun i => get u (Fld.sdrTkeyWrapV i) * 2 ^ (32 * i)).sum
    ((auditRoom u = false ∨ cryptoOn u = false) → exec (.tkeyImport v) s = .next u) ∧
    (auditRoom u = true → cryptoOn u = true →
    (importBusy u = true → exec (.tkeyImport v) s = .next u) ∧
    (importBusy u = false →
      (u.sdr.hk = none → exec (.tkeyImport v) s = .next (set u Fld.sdrTkeyResultResult 5)) ∧
      (∀ w, houseKey u "TENANTWRAP" 256 = some w →
        (Config.unwrap w blob = none → ∃ t, exec (.tkeyImport v) s = .next t ∧ get t Fld.sdrTkeyResultResult = 4 ∧
          t.sdr.tkeys = u.sdr.tkeys ∧ t.sdr.imp = u.sdr.imp) ∧
        (∀ k, Config.unwrap w blob = some k → ∃ t, exec (.tkeyImport v) s = .next t ∧ get t Fld.sdrTkeyResultResult = 2 ∧
          t.sdr.tkeys = u.sdr.tkeys ∧ t.sdr.imp = some (get u Fld.sdrTkeyTenantTenant, k,
            get u Fld.sdrTkeyAtLoV + get u Fld.sdrTkeyAtHiV * 2 ^ 32)))))) ∧
  (∀ (v : Word) (s : State), reaches s 0 Fld.sdrFloorSeq.off = true →
    (sealedMode s = false → auditRoom s = true → floorMay s v.toNat = true →
      ∃ t, exec (.floorWrite 0 v) s = .next t ∧ t.sdr.floor = v.toNat ∧ get t Fld.sdrFloorSeq = v.toNat) ∧
    (sealedMode s = false → floorMay s v.toNat = false → exec (.floorWrite 0 v) s = .next s) ∧
    (sealedMode s = true → ∃ t, exec (.floorWrite 0 v) s = .next t ∧ t.sdr.floor = s.sdr.floor) ∧
    (∀ fn : Fin 128, fn.val ≠ 0 → exec (.floorWrite fn v) s = .next s)) ∧
  (∀ (x : Word) (s : State), sdrState s ≠ 3 → s.sdr.zeroing = false →
    ∃ t, exec (.tamper x) s = .next t ∧ t.sdr.hk = none ∧ t.sdr.tkeys = [] ∧ t.fab.exitWritten = true) ∧
  (∀ (x : Word) (s : State), sdrState s ≠ 3 → s.sdr.zeroing = true →
    exec (.tamper x) s = .next (audit s 0x0C 0 false 0 x.toNat)) ∧
  (∀ (x : Word) (s : State), sdrState s = 3 → exec (.tamper x) s = .next s) ∧
  (∀ (r : BitVec 256) (rs : List (BitVec 256)) (s : State),
    keepLast (s.sdr.unpersisted - s.sdr.handed) s.sdr.audit = r :: rs →
    ∃ t, exec .auditClose s = .next t ∧ t.ldg.logPage = s.ldg.logPage ++ [r] ∧ t.sdr.handed = s.sdr.handed + 1 ∧
      t.regs = s.regs)

/-- R667, R670, R671, R676, R677, R680 to R685, R690, R691, Table UND-6: a good SNAP message is held for its cut; reports count at the
lead while the snapshot they name is under way, and the last one goes on to the manifest; a member without space or with a copy
fault, and a timeout, abandon it; a forced trigger is due at the next composition; a waiting write is counted and goes on; a drain
lands in its half, a poisoned one nowhere. The copy, the drain and the refresh wait for domain 60 to be Lit. Completes .snap, .cutAck,
.copied, .noSpace, .copyFault, .manifestAck, .snapshotForce, .snapshotCopyDone, .copyBeforeWrite, .snapshotTimeout, .drainDone and
.wcopyRefreshDone. -/
def Obligations.SnapshotsComplete : Prop :=
  (∀ (m : CueTok) (n : Nat) (s : State), snapBad m = false → (snapScene m = true ∨ snapCue m = n) →
    exec (.snap m n) s = .next (s.onUnd fun u => { u with snapMsg := some m })) ∧
  (∀ (m : CueTok) (n : Nat) (s : State), snapBad m = true →
    ∃ t, exec (.snap m n) s = .next t ∧ t.und = s.und ∧ t.stm = s.stm) ∧
  (∀ (src : Fin 1024) (co cue : Nat) (s : State), ofCompany s src.val co = false →
    exec (.cutAck src co cue) s = .next s ∧ (∀ l, exec (.copied src co cue l) s = .next s) ∧
    exec (.noSpace src co cue) s = .next s ∧ exec (.copyFault src co cue) s = .next s ∧
    exec (.manifestAck src co cue) s = .next s) ∧
  (∀ (src : Fin 1024) (co : Nat) (s : State), ofCompany s src.val co = true → undState s = 1 →
    (∃ t, exec (.cutAck src co s.und.cutCue) s = .next t ∧
      (∀ d, d ∈ t.und.acks ↔ d ∈ s.und.acks ∨ d = src.val) ∧ t.regs = s.regs ∧ t.stm = s.stm) ∧
    (∀ sh, src.val ∉ s.und.copiedBy →
      (∃ d ∈ memberDevs s, d ∉ s.und.copiedBy ∧ d ≠ src.val) →
      ∃ t, exec (.copied src co s.und.cutCue sh) s = .next t ∧ t.und.copiedBy = s.und.copiedBy ++ [src.val] ∧
        t.und.shards = s.und.shards ++ sh ∧ t.regs = s.regs) ∧
    (∀ sh, src.val ∉ s.und.copiedBy → (∀ d ∈ memberDevs s, d ∈ s.und.copiedBy ∨ d = src.val) →
      exec (.copied src co s.und.cutCue sh) s = .next (sealSnap (s.onUnd fun u =>
        { u with copiedBy := u.copiedBy ++ [src.val], shards := u.shards ++ sh }))) ∧
    (let gone (t : State) : Prop := undState t = 0 ∧ get t Fld.undStatusLastResult = 2 ∧ t.und.copying = false ∧
        t.und.frozen = [] ∧ t.und.shards = [] ∧ t.stm = s.stm;
      (∃ t, exec (.noSpace src co s.und.cutCue) s = .next t ∧ gone t) ∧
      (∃ t, exec (.copyFault src co s.und.cutCue) s = .next t ∧ gone t))) ∧
  (∀ (src : Fin 1024) (co : Nat) (s : State), ofCompany s src.val co = true → undState s = 2 →
    ((∃ d ∈ memberDevs s, d ∉ s.und.mfAcks ∧ d ≠ src.val) →
      ∃ t, exec (.manifestAck src co s.und.snapSeq) s = .next t ∧ (∀ d, d ∈ t.und.mfAcks ↔ d ∈ s.und.mfAcks ∨ d = src.val) ∧
        undState t = 2) ∧
    ((∀ d ∈ memberDevs s, d ∈ s.und.mfAcks ∨ d = src.val) →
      ∀ m, (s.und.manifests.find? fun m => m.company = ownId s && m.snapSeq = s.und.snapSeq) = some m →
      ∃ t, exec (.manifestAck src co s.und.snapSeq) s = .next t ∧ undState t = 0 ∧ get t Fld.undStatusLastResult = 1 ∧
        t.und.copying = false ∧ t.und.shards = [] ∧ t.und.manifests = s.und.manifests)) ∧
  (∀ (v : Word) (s : State), reaches s 0 Fld.undCtlForce.off = true → bit v 2 = true →
    exec (.snapshotForce v) s =
      .next ((commandWord s 0 Fld.undCtlForce.off v).onUnd fun u => { u with dueForce := true })) ∧
  (∀ (b : Bool) (s : State), s.und.copying = false → exec (.snapshotCopyDone b) s = .next s ∧
    ∀ p n w, exec (.copyBeforeWrite p n w) s = .next s) ∧
  (∀ (b : Bool) (s : State), s.und.copying = true → domLit s 60 = false →
    exec (.snapshotCopyDone b) s = .next (demandDom s 60) ∧ ∀ p n w, exec (.copyBeforeWrite p n w) s = .next s) ∧
  (∀ s : State, s.und.copying = true → domLit s 60 = true → isLead s = false →
    (∃ t, exec (.snapshotCopyDone true) s = .next t ∧ t.und.copying = false ∧ t.und.frozen = [] ∧ t.und.frozenPages = [] ∧
      t.und.bodies = []) ∧
    (∃ t, exec (.snapshotCopyDone false) s = .next t ∧ t.und.copying = false ∧ t.und.frozen = [] ∧ t.und.frozenPages = [] ∧
      t.und.bodies = s.und.bodies)) ∧
  (∀ s : State, s.und.copying = true → domLit s 60 = true → isLead s = true →
    (undState s ≠ 0 → ∃ t, exec (.snapshotCopyDone true) s = .next t ∧ undState t = 0 ∧
      get t Fld.undStatusLastResult = 2 ∧ t.und.bodies = []) ∧
    (undState s = 1 → selfDev s ∉ s.und.copiedBy → (∃ d ∈ memberDevs s, d ∉ s.und.copiedBy ∧ d ≠ selfDev s) →
      ∃ t, exec (.snapshotCopyDone false) s = .next t ∧ t.und.copying = false ∧ selfDev s ∈ t.und.copiedBy ∧
        t.mdw = s.mdw)) ∧
  (∀ (page : Bool) (n w : Nat) (s : State), s.und.copying = true → domLit s 60 = true →
    n ∈ (if page then s.und.frozenPages else s.und.frozen) →
    ∃ t, exec (.copyBeforeWrite page n w) s = .next t ∧
      t.und.frozen = (if page then s.und.frozen else s.und.frozen.erase n) ∧
      t.und.frozenPages = (if page then s.und.frozenPages.erase n else s.und.frozenPages) ∧
      get t Fld.undStallCountV = satAdd Fld.undStallCountV.width (get s Fld.undStallCountV) 1 % 2 ^ Fld.undStallCountV.width ∧
      get t Fld.undStallMaxV = max (get s Fld.undStallMaxV) (min w 65535) % 2 ^ Fld.undStallMaxV.width ∧ t.mdw = s.mdw) ∧
  (∀ s : State, isLead s = true → undState s ≠ 0 →
    (s.und.cutCue + max 1 (get s Fld.undTimeoutCues) ≤ cueNum s →
      ∃ t, exec .snapshotTimeout s = .next t ∧ undState t = 0 ∧ get t Fld.undStatusLastResult = 2) ∧
    (cueNum s < s.und.cutCue + max 1 (get s Fld.undTimeoutCues) → exec .snapshotTimeout s = .next s)) ∧
  (∀ s : State, isLead s = false → exec .snapshotTimeout s = .next s) ∧
  (∀ s : State, get s Fld.undStatusDraining = 1 → s.lgt.throttle = false →
    (∀ b, domLit s 60 = false → exec (.drainDone b) s = .next (demandDom s 60)) ∧
    (domLit s 60 = true → s.und.draining ≠ [] → cryptoOn s = true →
      ∃ t, exec (.drainDone false) s = .next t ∧ get t Fld.undStatusDraining = 0 ∧ t.und.drainHalf = !s.und.drainHalf ∧
        t.und.draining = [] ∧ t.out.host = s.out.host ++ [(get s Fld.undDrainBaseLoV + get s Fld.undDrainBaseHiV * 2 ^ 32 +
          (if s.und.drainHalf then get s Fld.undDrainSizeV * 4096 / 2 else 0), s.und.draining)]) ∧
    (domLit s 60 = true → ∃ t, exec (.drainDone true) s = .next t ∧ get t Fld.undStatusDraining = 0 ∧
      t.und.drainHalf = s.und.drainHalf ∧ t.und.draining = [] ∧ t.out.host = s.out.host)) ∧
  (∀ (b : Bool) (s : State), (get s Fld.undStatusDraining = 0 ∨ s.lgt.throttle = true) →
    exec (.drainDone b) s = .next s) ∧
  (∀ s : State, get s Fld.plyWloadStatusState = 3 →
    (domLit s 60 = false → exec .wcopyRefreshDone s = .next (demandDom s 60)) ∧
    (domLit s 60 = true → ∃ t, exec .wcopyRefreshDone s = .next t ∧ get t Fld.undBuddyWcopyValid = 1 ∧ t.und = s.und)) ∧
  (∀ s : State, get s Fld.plyWloadStatusState ≠ 3 → exec .wcopyRefreshDone s = .next s)

/-- R685, R693, R694, R697, R699, R701 to R703, R706, R708 to R710, R724, R726, R727, R736, Table FAB-9: a re-point is answered ENDED
where the Call is unknown or has ended and otherwise takes its Lines from the resume position on; a shard read is answered with the
shard's data, or with the blocks asked for of it, or, where none is held, with poison; its data goes to the restore when its digest
is right, and otherwise the next manifest is tried; filled Calls may be listed; a transfer joins its earlier part, and one that is a
whole manifest is kept; UND_HOST_GO reads a manifest from Staging or says why not. Completes .repoint, .shardRead, .shardData,
.restoreFillDone, .transfer and .undHostGo. -/
def Obligations.RestoresComplete : Prop :=
  (∀ (src : Fin 1024) (tag : BitVec 16) (fn : Fin 128) (call : Word) (co : Nat) (lead : Fin 1024) (pos : BitVec 20) (s : State),
    let answer (t : State) (ended : Nat) : Host.Outcome State Fault Refusal :=
      .next (reply t 0x20 src.val tag.toNat (topoOf t src.val).epoch (statusBody 0 ended 0 0))
    (entOf s fn.val call.toNat = none → exec (.repoint src tag fn call co lead pos) s = answer s 2) ∧
    (∀ e, entOf s fn.val call.toNat = some e → (e.finalN.isSome = true ∨ e.finalWritten = true) →
      exec (.repoint src tag fn call co lead pos) s = answer s 2) ∧
    (∀ e, entOf s fn.val call.toNat = some e → e.finalN = none → e.finalWritten = false →
      ∃ u, exec (.repoint src tag fn call co lead pos) s = answer (forwardReady (wmUpdate u 2)) 0 ∧
        (∀ x, entOf u fn.val call.toNat = some x → x.company = co ∧ x.lead = lead.val ∧ x.resume = pos.toNat ∧
          x.restored = true ∧ x.tag = tag.toNat ∧ ∀ l ∈ x.win, linePos l < pos.toNat) ∧ u.stm = s.stm ∧ u.mdw = s.mdw)) ∧
  (∀ (src : Fin 1024) (tag : BitVec 16) (seq co shard first count : Nat) (s : State),
    ((∀ m x, (s.und.manifests.find? fun m => m.company = co && m.snapSeq = seq) = some m → m.shards[shard]? = some x →
        heldShard s x = none) →
      exec (.shardRead src tag seq co shard first count) s =
        .next (sendPkt s 0x26 src.val tag.toNat (topoOf s src.val).epoch true [])) ∧
    (∀ m x b, (s.und.manifests.find? fun m => m.company = co && m.snapSeq = seq) = some m → m.shards[shard]? = some x →
      heldShard s x = some b →
      let n := fieldAt m.raw 0x30 4
      let k := b.length / (4 + n)
      let answer (d : List Byte) : Prop := exec (.shardRead src tag seq co shard first count) s =
        .next ((if d.isEmpty then [[]] else pieces 4096 (d.length / 4096 + 1) d).foldl
          (fun t p => sendPkt t 0x26 src.val tag.toNat (topoOf s src.val).epoch false p) s)
      ((x.kind ≠ 2 ∨ (first = 0 ∧ k ≤ count)) → answer b) ∧
      (x.kind = 2 → first = 0 → count < k → answer (b.take (4 * count) ++ (b.drop (4 * k)).take (n * count))) ∧
      (x.kind = 2 → 0 < first → answer ((b.drop (4 * first)).take (4 * min count (k - first)) ++
        (b.drop (4 * k + n * first)).take (n * min count (k - first)))))) ∧
  (∀ (src : Fin 1024) (tag : BitVec 16) (ep : BitVec 8) (data : List Byte) (poison : Bool) (s : State),
    (ep.toNat ≠ get s Fld.fabEpochEpoch →
      exec (.shardData src tag ep data poison) s = .next (inc s Fld.fabOrphanStaleReply 1)) ∧
    (ep.toNat = get s Fld.fabEpochEpoch →
      ((s.fab.pend.find? fun p => p.tag = tag.toNat && p.dst = src.val) = none →
        exec (.shardData src tag ep data poison) s = .next (inc s Fld.fabOrphanOrphan 1)) ∧
      (∀ p m x, (s.fab.pend.find? fun p => p.tag = tag.toNat && p.dst = src.val) = some p →
        (s.und.reads.find? fun r => r.1 = tag.toNat) = some (tag.toNat, m, x) →
        let w := s.onFab fun b => { b with pend := b.pend.erase p }
        let u := issueWaiting (set w Fld.fabPendingV w.fab.pend.length)
        ((poison = true ∨ data.length ≠ x.length ∨ Config.sha384 data ≠ x.digest) →
          exec (.shardData src tag ep data poison) s = .next (shardFailed u)) ∧
        (poison = false → data.length = x.length → Config.sha384 data = x.digest →
          let g := u.onUnd fun a => { a with reads := a.reads.filter fun r => r.1 ≠ tag.toNat, got := a.got ++ [(x, data)] }
          (g.und.reads ≠ [] → exec (.shardData src tag ep data poison) s = .next g) ∧
          (g.und.reads = [] → exec (.shardData src tag ep data poison) s = .next (placeFor g m)))))) ∧
  (∀ (fn : Fin 128) (call : Word) (s : State), entOf s fn.val call.toNat = none →
    ∃ t, exec (.restoreFillDone fn call) s = .next t ∧ t.regs = s.regs ∧ t.hiu = s.hiu ∧
      (∀ c ∈ t.stm.board, (∃ r ∈ s.und.restore, r.slot = c.slot ∧ r.repointed = true ∧
        (callAt s r.slot).any (fun x => decide (x.fn = fn.val) && decide (x.callId = call.toNat)) = true) →
        c.restoring = decide (c.src = selfDev s))) ∧
  (∀ (fn : Fin 128) (call : Word) (e : CallEnt) (s : State), entOf s fn.val call.toNat = some e → e.restored = true →
    e.finalN = none → e.finalWritten = false →
    ∃ t, exec (.restoreFillDone fn call) s = .next t ∧
      (∀ x, entOf t fn.val call.toNat = some x → x.restoredN = some (mkNotice e.callId e.fn 4 stRestored e.ring e.company
        e.resume e.tenant 0 (cueNum s)))) ∧
  (∀ (src : Fin 1024) (id : Word) (off : Nat) (data : List Byte) (s : State),
    let old := match s.und.transfers.find? fun t => t.1 = src.val && t.2.1 = id.toNat with
      | some t => t.2.2
      | none => []
    let others := s.und.transfers.filter fun t => !(decide (t.1 = src.val) && decide (t.2.1 = id.toNat))
    (∃ t, exec (.transfer src id off data true) s = .next t ∧ t.und.transfers = others) ∧
    (off ≠ 0 → off ≠ old.length → ∃ t, exec (.transfer src id off data false) s = .next t ∧ t.und.transfers = others) ∧
    ((off = 0 ∨ off = old.length) →
      ∃ t, exec (.transfer src id off data false) s = .next t ∧
        t.und.transfers = others ++ [(src.val, id.toNat, (if off = 0 then [] else old) ++ data)]) ∧
    (∀ m, (off = 0 ∨ off = old.length) → parseManifest ((if off = 0 then [] else old) ++ data) = some m →
      m.raw.length = ((if off = 0 then [] else old) ++ data).length → manifestSigned m = true →
      exec (.transfer src id off data false) s = .next (gotManifest (s.onUnd fun u => { u with
        transfers := others ++ [(src.val, id.toNat, (if off = 0 then [] else old) ++ data)] }) src.val m))) ∧
  (∀ (v : Word) (s : State), reaches s 0 Fld.undHostCtlGo.off = true → bit v 0 = true →
    let u := commandWord s 0 Fld.undHostCtlGo.off v
    let a := get u Fld.undHostAddrLoV + get u Fld.undHostAddrHiV * 2 ^ 32
    let mf := parseManifest (readBytes u a (224 + 96 * min 1024 (readLe u (a + 0x28) 4)))
    (isLead u = false → exec (.undHostGo v) s = .next (set u Fld.undHostResultResult 6)) ∧
    (isLead u = true →
      (mf = none → exec (.undHostGo v) s = .next (set u Fld.undHostResultResult 3)) ∧
      (∀ m, mf = some m →
        (m.company ∉ u.fab.lost → exec (.undHostGo v) s = .next (set u Fld.undHostResultResult 5)) ∧
        (m.company ∈ u.fab.lost → manifestSigned m = false →
          exec (.undHostGo v) s = .next (set u Fld.undHostResultResult 3)) ∧
        (m.company ∈ u.fab.lost → manifestSigned m = true → openShards u m.shards (a + m.raw.length) = none →
          exec (.undHostGo v) s = .next (set u Fld.undHostResultResult 4)) ∧
        (m.company ∈ u.fab.lost → manifestSigned m = true → ∀ got, openShards u m.shards (a + m.raw.length) = some got →
          exec (.undHostGo v) s = .next (set (placeAll (u.onUnd fun x => { x with got := got }) m) Fld.undHostResultResult 2)))))

/-- R636 to R640, R644, R648, R652 to R658, R661, R664, Tables SPL-3 and SPL-5: a load takes the image in Staging and, verified, makes
it the shadow, once domain 62 is Lit; a swap is scheduled, refused or withdrawn; a scene change starts at its shadow lead or names why
not, is answered by every device asked, applies the shadow set, counts the members that have, and on a timeout fails with its Company
Lost. Completes .stageplotLoad, .stageplotLoadDone, .swapReq, .swapCancel, .sceneStart, .sceneQuery, .applyDone, .applied and
.sceneTimeout. -/
def Obligations.StageplotCompletes : Prop :=
  (∀ (v : Word) (s : State), reaches s 0 Fld.splLoadCtlLoad.off = true → bit v 0 = true →
    let u := commandWord s 0 Fld.splLoadCtlLoad.off v
    auditRoom u = true →
    (get u Fld.splLoadStatusResult ∉ [1, 6] → ∃ t, exec (.stageplotLoad v) s = .next t ∧
      get t Fld.splLoadStatusResult = 1 ∧ t.spl.image = stagedImage u (imageAddr u) ∧ t.spl.shadow = u.spl.shadow ∧
      t.mdw = u.mdw) ∧
    (get u Fld.splLoadStatusResult ∈ [1, 6] → exec (.stageplotLoad v) s = .next u)) ∧
  (∀ s : State, get s Fld.splLoadStatusResult ≠ 1 → exec .stageplotLoadDone s = .next s) ∧
  (∀ s : State, get s Fld.splLoadStatusResult = 1 → domLit s 62 = false → exec .stageplotLoadDone s = .next (demandDom s 62)) ∧
  (∀ s : State, get s Fld.splLoadStatusResult = 1 → domLit s 62 = true →
    let u := s.onSpl fun p => { p with image := [] }
    (∀ r b, imageVerdict s s.spl.image = some (r, b) → ∃ t, exec .stageplotLoadDone s = .next t ∧
      get t Fld.splLoadStatusResult = r % 2 ^ Fld.splLoadStatusResult.width ∧
      get t Fld.splLoadStatusFirstBad = b % 2 ^ Fld.splLoadStatusFirstBad.width ∧ t.spl = u.spl ∧ t.stm = s.stm) ∧
    (imageVerdict s s.spl.image = none → ∀ p, plotFrom s.spl.image = some p → ∃ t, exec .stageplotLoadDone s = .next t ∧
      t.spl.shadow = some p ∧ t.spl.active = s.spl.active ∧ get t Fld.splShadowIdV = p.planId % 2 ^ 32 ∧
      get t Fld.splShadowSeqV = p.seq % 2 ^ 32 ∧ get t Fld.splSwapStatusDirty = 0 ∧ t.regs.act = s.regs.act)) ∧
  (∀ (v : Word) (s : State), reaches s 0 Fld.splSwapCtlReq.off = true → bit v 0 = true →
    let w := commandWord s 0 Fld.splSwapCtlReq.off v
    let u := if bit v 1 then cancelSwap w else w
    ((u.spl.scene.isSome = true ∨ u.spl.passed.isSome = true) → exec (.swapReq 0 v) s = .next (swapRefused u 5 0)) ∧
    (u.spl.scene = none → u.spl.passed = none →
      ((u.st < launchSt u (swapCue u) ∨ get u Fld.splSwapAtLoV + get u Fld.splSwapAtHiV = 0) →
        ∃ t, exec (.swapReq 0 v) s = .next t ∧ get t Fld.splSwapStatusState = (if swapping u then 2 else 1) ∧
          t.spl.swapAt = some (swapCue u, 0) ∧ t.spl.active = u.spl.active) ∧
      (launchSt u (swapCue u) ≤ u.st → get u Fld.splSwapAtLoV + get u Fld.splSwapAtHiV ≠ 0 →
        exec (.swapReq 0 v) s = .next (swapRefused u 4 0)))) ∧
  (∀ (fn : Fin 128) (v : Word) (s : State), fn.val ≠ 0 → exec (.swapReq fn v) s = .next s) ∧
  (∀ (v : Word) (s : State), reaches s 0 Fld.splSwapCtlCancel.off = true → bit v 0 = false → bit v 1 = true →
    let u := commandWord s 0 Fld.splSwapCtlCancel.off v
    (∀ n f, u.spl.swapAt = some (n, f) → u.st < launchSt u n → ∃ t, exec (.swapCancel v) s = .next t ∧
      (swapping u = false → get t Fld.splSwapStatusState = 0) ∧ t.spl.swapAt = none ∧
      get t Fld.splSwapStatusReason = get u Fld.splSwapStatusReason ∧ get t Fld.splRefuseMapV = get u Fld.splRefuseMapV) ∧
    (∀ n f, u.spl.swapAt = some (n, f) → launchSt u n ≤ u.st → exec (.swapCancel v) s = .next u) ∧
    (u.spl.swapAt = none → exec (.swapCancel v) s = .next u)) ∧
  (∀ (v : Word) (s : State), reaches s 0 Fld.splSceneCtlStart.off = true → bit v 0 = true →
    let u := commandWord s 0 Fld.splSceneCtlStart.off v
    (isShadowLead u = false → exec (.sceneStart v) s = .next (set u Fld.splSceneStatusResult 5)) ∧
    (isShadowLead u = true → u.spl.scene.isSome = true →
      exec (.sceneStart v) s = .next (set u Fld.splSceneStatusResult 6)) ∧
    (∀ co, shadowOwn u = some co → isShadowLead u = true → u.spl.scene = none →
      let w := if get u Fld.splSceneStatusState = 5 then setScene u 0 else u
      (∃ t, exec (.sceneStart v) s = .next t ∧ t.stm = u.stm ∧ t.mdw = u.mdw ∧ t.spl.active = u.spl.active) ∧
      ((∀ d ∈ shadowDevs u ++ activeDevs u co.id, d = selfDev u ∨ present u d = false) →
        (sceneVerdict (sceneLocal w co.id (sceneCue w)) = none → ∃ t c, exec (.sceneStart v) s = .next t ∧
          t.spl.scene = some c ∧ c.accepted = true ∧ c.company = co.id ∧ c.cue = sceneCue w ∧
          get t Fld.splSceneStatusState = 1) ∧
        (∀ r, sceneVerdict (sceneLocal w co.id (sceneCue w)) = some r → ∃ t, exec (.sceneStart v) s = .next t ∧
          t.spl.scene = none ∧ get t Fld.splSceneStatusResult = r)))) ∧
  (∀ (src : Fin 1024) (tag : BitVec 16) (plan : Word) (company : Nat) (s : State),
    let other := (ownCompany s).any fun c => decide (c.id ≠ company) && decide (c.id ∉ s.fab.lost)
    let busy := isLead s && decide (ownId s = company) && s.spl.swapAt.isSome
    ∃ free, exec (.sceneQuery src tag plan company) s = .next (reply (advance s) 0x20 src.val tag.toNat
      (topoOf s src.val).epoch (statusBody 0 (b2n busy) (get s Fld.splShadowIdV)
        (b2n ((sectsDiffer s).any fun id => sectionClass id = 2) + 2 * b2n other + 4 * free))) ∧ free < 2) ∧
  (∀ s : State, s.spl.scene = none → s.spl.shadow = none → exec .applyDone s = .next s) ∧
  (∀ (s : State) (p : Plot), s.spl.shadow = some p →
    (applyShadow s).spl.active = some p ∧
    (s.spl.scene = none → ∃ t, exec .applyDone s = .next t ∧ t.spl.active = some p ∧
      (shadowOwn s = none → t = applyShadow s) ∧ (∀ co, shadowOwn s = some co →
        let u := if isLead (applyShadow s) then applyShadow s
          else (applyShadow s).onStm fun m => { m with board := [], sent := [] }
        (co.lead = none ∨ co.lead = some (selfDev u) → t = u) ∧
        (∀ l, co.lead = some l → l ≠ selfDev u → t = send u 0x36 l (reportBody 6 co.id (cueNum u) 0xFFFF 0)))) ∧
    (∀ c, s.spl.scene = some c → c.accepted = true → get s Fld.splSceneStatusState = 3 →
      exec .applyDone s = .next (leadApplied (applyShadow s) (selfDev s))) ∧
    (∀ c, s.spl.scene = some c → (c.accepted = false ∨ get s Fld.splSceneStatusState ≠ 3) → exec .applyDone s = .next s)) ∧
  (∀ (src : Fin 1024) (company : Nat) (s : State), (∀ c, s.spl.scene = some c → c.company ≠ company) →
    exec (.applied src company) s = .next s) ∧
  (∀ (src : Fin 1024) (c : Scene) (s : State), s.spl.scene = some c → get s Fld.splSceneStatusState = 3 →
    src.val ∈ shadowDevs s → src.val ∉ c.applied →
    let c' := { c with applied := c.applied ++ [src.val] }
    let u := set (s.onSpl fun p => { p with scene := some c' }) Fld.splSceneStatusApplied (min 255 (c.applied.length + 1))
    ((∀ d ∈ shadowDevs s, d ∈ c.applied ∨ d = src.val) →
      exec (.applied src c.company) s = .next (readCut (setScene u 4) c')) ∧
    ((∃ d ∈ shadowDevs s, d ∉ c.applied ∧ d ≠ src.val) → exec (.applied src c.company) s = .next u)) ∧
  (∀ (c : Scene) (s : State), s.spl.scene = some c →
    (c.accepted = true → ∃ t, exec .sceneTimeout s = .next t ∧ get t Fld.splSceneStatusState = 5 ∧
      get t Fld.splSceneStatusResult = 7 ∧ t.spl.scene = none ∧ c.company ∈ t.fab.lost ∧
      c.startSt + max 1 (get s Fld.splSceneTimeoutMs) * 1000000 ≤ t.st) ∧
    (c.accepted = false → exec .sceneTimeout s = .next s)) ∧
  (∀ s : State, s.spl.scene = none → exec .sceneTimeout s = .next s)

/-- R716, R723 to R727, R736: a replay starts at a lead that runs none, from a manifest and capsules that verify, or its RESULT says
why not; an abort ends it. Completes .replayGo and .replayAbort. -/
def Obligations.ReplaysComplete : Prop :=
  (∀ (v : Word) (s : State), reaches s 0 Fld.pbkReplayCtlGo.off = true → bit v 0 = true →
    let u := commandWord s 0 Fld.pbkReplayCtlGo.off v
    let w := set (set (set u Fld.pbkReplayStatusResult 0) Fld.pbkReplayStatusListDiff 0) Fld.pbkReplayStatusLineDiff 0
    let a := get w Fld.pbkMnftLoV + get w Fld.pbkMnftHiV * 2 ^ 32
    let mf := parseManifest (readBytes w a (224 + 96 * min 1024 (readLe w (a + 0x28) 4)))
    let model := match ownCompany w with | some c => c.model | none => 0
    (isLead u = false → exec (.replayGo v) s = .next (set u Fld.pbkReplayStatusResult 8)) ∧
    (isLead u = true → replaying u = true → exec (.replayGo v) s = .next u) ∧
    (isLead u = true → replaying u = false →
      (mf = none → ∃ t, exec (.replayGo v) s = .next t ∧ get t Fld.pbkReplayStatusState = 3 ∧
        get t Fld.pbkReplayStatusResult = 5 ∧ t.stm = u.stm) ∧
      (∀ m, mf = some m →
        ((w.stm.board ≠ [] ∨ m.model ≠ model ∨ fieldAt m.raw 5 1 ≠ get w Fld.plyModeExact) →
          ∃ t, exec (.replayGo v) s = .next t ∧ get t Fld.pbkReplayStatusResult = 6 ∧
            get t Fld.pbkReplayStatusState = get u Fld.pbkReplayStatusState ∧ t.stm = u.stm) ∧
        (w.stm.board = [] → m.model = model → fieldAt m.raw 5 1 = get w Fld.plyModeExact →
          (get w Fld.pbkNcapsN = 0 ∨ 8 < get w Fld.pbkNcapsN ∨ manifestSigned m = false) →
          ∃ t, exec (.replayGo v) s = .next t ∧ get t Fld.pbkReplayStatusState = 3 ∧ get t Fld.pbkReplayStatusResult = 5) ∧
        (w.stm.board = [] → m.model = model → fieldAt m.raw 5 1 = get w Fld.plyModeExact →
          1 ≤ get w Fld.pbkNcapsN → get w Fld.pbkNcapsN ≤ 8 → manifestSigned m = true →
          ∀ rs ps, readChain w m.company (get w Fld.pbkNcapsN) (get w Fld.pbkCapsLoV + get w Fld.pbkCapsHiV * 2 ^ 32)
              (some m.snapSeq) none = some rs → supplyFor w rs = some ps →
            exec (.replayGo v) s = .next (tryManifest 2 (((set w Fld.pbkReplayStatusState 1).onPbk fun b => { b with
              replay := rs, prompts := ps, cues := [], company := m.company, emit := [], emitDue := false }).onUnd
                fun x => { x with tries := [m] })))))) ∧
  (∀ (v : Word) (s : State), reaches s 0 Fld.pbkReplayCtlAbort.off = true → bit v 1 = true →
    let u := commandWord s 0 Fld.pbkReplayCtlAbort.off v
    (replaying u = true → ∃ t, exec (.replayAbort v) s = .next t ∧ t = endReplay u 9 ∧ t.pbk.replay = []) ∧
    (replaying u = false → exec (.replayAbort v) s = .next u))

/-- A step runs the command at the front of the queue on the queue's rest. -/
def Obligations.StepRunsFront : Prop :=
  ∀ (c : Instr) (q : List Instr) (s : State), step { s with pending := c :: q } = exec c { s with pending := q }

/-- A step on an empty queue advances Stage Time by 1 ns and changes nothing else: the model's choice (log entry 2). -/
def Obligations.IdleStepTicks : Prop :=
  ∀ s : State, s.pending = [] → step s = .next { s with st := s.st + 1 }

/-- The state after reset meets the invariant. -/
def Obligations.ResetMeetsInvariant : Prop := Inv State.reset

/-- Every step from a state that meets the invariant gives one that meets it: memory stays in its canonical form, and the device
keeps its 96 Players and 12 links. -/
def Obligations.StepKeepsInvariant : Prop :=
  ∀ s t : State, Inv s → step s = .next t → Inv t

/-- Every command leaves the queue as it was, and every part of the machine outside those that `touches` lists for it. -/
def Obligations.CommandsTouchOnlyTheirParts : Prop :=
  ∀ (c : Instr) (s t : State), exec c s = .next t →
    t.pending = s.pending ∧ ∀ p : Part, p ∉ touches c → p.same s t

/-- No command is refused, and only a compute word and partials that name an address which does not exist stop; every other
command answers a next state, and a step takes exactly its command off the queue. -/
def Obligations.CommandsAnswer : Prop :=
  (∀ (c : Instr) (s : State) (r : Refusal), exec c s ≠ .refused r) ∧
  (∀ (c : Instr) (s : State) (f : Fault), exec c s = .fault f → f = .noAddress ∧
    ((∃ p op, c = .computeWord p op) ∨ ∃ src beat cue addr data x y, c = .partials src beat cue addr data x y)) ∧
  (∀ (c : Instr) (s : State), (∀ p op, c ≠ .computeWord p op) → (∀ src beat cue addr data x y, c ≠ .partials src beat cue addr data x y) →
    ∃ t, exec c s = .next t) ∧
  (∀ s t : State, step s = .next t → t.pending = s.pending.tail)

/-- R741, R761: no step lowers the rollback floor, and a revoked key stays revoked, whatever the command: a power-up, a reset and a
loss of supply too. -/
def Obligations.FloorAndRevocationsHold : Prop :=
  ∀ s t : State, step s = .next t → s.sdr.floor ≤ t.sdr.floor ∧ ∀ k ∈ s.sdr.revoked, k ∈ t.sdr.revoked

/-- R223: once a device has launched its first cue, no command but one that resets it moves its Stage Time backward. -/
def Obligations.TimeNeverFalls : Prop :=
  ∀ (c : Instr) (s t : State), s.cue.launched = true → resets c = false → exec c s = .next t → s.st ≤ t.st

/-- R540: an update about another device changes its entry only when its epoch is newer, or is equal and its state ranks higher in
the order PRESENT (1), EXITING (2), ABSENT (3); a recorded epoch of 0 is older than every epoch; and for epochs from 1 to 255 a is
newer than b when (a − b) mod 255 lies from 1 to 127, b newer than a when it lies from 128 to 254, and they are equal when it is
0. -/
def Obligations.NewerEpochsWin : Prop :=
  (∀ (s : State) (d st ep : Nat), topoChanges s d st ep = true →
    newerEpoch ep (topoOf s d).epoch = true ∨
      (((ep : Int) - (topoOf s d).epoch) % 255 = 0 ∧ (topoOf s d).state < st)) ∧
  (∀ (s : State) (d st ep : Nat) (link : Option Nat), topoChanges s d st ep = false → updateTopo s d st ep link = s) ∧
  (∀ a : Nat, newerEpoch a 0 = true) ∧
  (∀ a b : Nat, 1 ≤ a → a ≤ 255 → 1 ≤ b → b ≤ 255 →
    (newerEpoch a b = true ↔ 1 ≤ ((a : Int) - b) % 255 ∧ ((a : Int) - b) % 255 ≤ 127) ∧
    (newerEpoch b a = true ↔ 128 ≤ ((a : Int) - b) % 255 ∧ ((a : Int) - b) % 255 ≤ 254) ∧
    (a = b ↔ ((a : Int) - b) % 255 = 0)) ∧
  newerEpoch 0x01 0xFF = true
end

