-- ==== Sys2Proof/Laws/Map.lean ====
section
/-!
SUPPORT. Laws of the sparse tables: read after write, and the canonical form kept by every update.
-/
namespace Sys2Proof.Machine

theorem AMap.get?_put_same {V : Type} (m : AMap V) (k : Nat) (v : V) : (m.put k v).get? k = some v := by
  induction m with
  | nil => simp [AMap.put, AMap.get?]
  | cons p r ih =>
    obtain ⟨k', v'⟩ := p
    unfold AMap.put
    split
    · simp [AMap.get?]
    · split
      · simp [AMap.get?]
      · rename_i h2
        simp [AMap.get?, h2, ih]

theorem AMap.get?_put_other {V : Type} (m : AMap V) (k j : Nat) (v : V) (h : j ≠ k) :
    (m.put k v).get? j = m.get? j := by
  induction m with
  | nil => simp [AMap.put, AMap.get?, Ne.symm h]
  | cons p r ih =>
    obtain ⟨k', v'⟩ := p
    unfold AMap.put
    split
    · simp [AMap.get?, Ne.symm h]
    · split
      · rename_i h2
        subst h2
        simp [AMap.get?, Ne.symm h]
      · simp [AMap.get?, ih]

theorem AMap.get?_del_same {V : Type} (m : AMap V) (k : Nat) : (m.del k).get? k = none := by
  induction m with
  | nil => simp [AMap.del, AMap.get?]
  | cons p r ih =>
    obtain ⟨k', v'⟩ := p
    simp only [AMap.del] at ih
    by_cases h : k' = k
    · subst h; simpa [AMap.del] using ih
    · simp [AMap.del, AMap.get?, h, ih]

theorem AMap.get?_del_other {V : Type} (m : AMap V) (k j : Nat) (h : j ≠ k) : (m.del k).get? j = m.get? j := by
  induction m with
  | nil => simp [AMap.del, AMap.get?]
  | cons p r ih =>
    obtain ⟨k', v'⟩ := p
    simp only [AMap.del] at ih
    by_cases h' : k' = k
    · subst h'; simp [AMap.del, AMap.get?, Ne.symm h, ih]
    · simp [AMap.del, AMap.get?, h', ih]

/-- Read after write, same key. -/
theorem AMap.getD_setD_same {V : Type} [DecidableEq V] (m : AMap V) (k : Nat) (d v : V) :
    (m.setD k d v).getD k d = v := by
  unfold AMap.setD AMap.getD
  split
  · rename_i h; simp [AMap.get?_del_same, h]
  · simp [AMap.get?_put_same]

/-- Read after write, another key. -/
theorem AMap.getD_setD_other {V : Type} [DecidableEq V] (m : AMap V) (k j : Nat) (d e v : V) (h : j ≠ k) :
    (m.setD k d v).getD j e = m.getD j e := by
  unfold AMap.setD AMap.getD
  split
  · simp [AMap.get?_del_other m k j h]
  · simp [AMap.get?_put_other m k j v h]

theorem AMap.wf_iff {V : Type} [DecidableEq V] (m : AMap V) (d : V) :
    m.wf d = true ↔ (m.map Prod.fst).Pairwise (· < ·) ∧ ∀ p ∈ m, p.2 ≠ d := by
  simp [AMap.wf, AMap.sorted, List.all_eq_true]

/-- Dropping entries keeps the canonical form. -/
theorem AMap.wf_filter {V : Type} [DecidableEq V] (m : AMap V) (d : V) (p : Nat × V → Bool) (h : m.wf d = true) :
    AMap.wf (m.filter p) d = true := by
  rw [AMap.wf_iff] at h ⊢
  refine ⟨?_, fun q hq => h.2 q (List.mem_of_mem_filter hq)⟩
  exact h.1.sublist (List.Sublist.map _ List.filter_sublist)

theorem AMap.mem_put {V : Type} (m : AMap V) (k : Nat) (v : V) (q : Nat × V) (h : q ∈ m.put k v) :
    q = (k, v) ∨ q ∈ m := by
  induction m with
  | nil => simpa [AMap.put] using h
  | cons p r ih =>
    obtain ⟨k', v'⟩ := p
    unfold AMap.put at h
    split at h
    · simp only [List.mem_cons] at h ⊢; tauto
    · split at h
      · simp only [List.mem_cons] at h ⊢; tauto
      · simp only [List.mem_cons] at h ⊢
        rcases h with h | h
        · tauto
        · rcases ih h with h | h <;> tauto

theorem AMap.sorted_put {V : Type} (m : AMap V) (k : Nat) (v : V) (h : (m.map Prod.fst).Pairwise (· < ·)) :
    ((m.put k v).map Prod.fst).Pairwise (· < ·) := by
  induction m with
  | nil => simp [AMap.put]
  | cons p r ih =>
    obtain ⟨k', v'⟩ := p
    rw [List.map_cons, List.pairwise_cons] at h
    unfold AMap.put
    split
    · rename_i h1
      rw [List.map_cons, List.pairwise_cons, List.map_cons, List.pairwise_cons]
      refine ⟨fun a ha => ?_, h⟩
      rcases List.mem_cons.1 ha with ha | ha
      · exact ha ▸ h1
      · exact Nat.lt_trans h1 (h.1 a ha)
    · split
      · rename_i h1 h2
        subst h2
        rw [List.map_cons, List.pairwise_cons]
        exact h
      · rename_i h1 h2
        rw [List.map_cons, List.pairwise_cons]
        refine ⟨fun a ha => ?_, ih h.2⟩
        obtain ⟨q, hq, rfl⟩ := List.mem_map.1 ha
        rcases AMap.mem_put r k v q hq with hq | hq
        · subst hq; simp only; omega
        · exact h.1 _ (List.mem_map_of_mem hq)

/-- Storing a value keeps the canonical form. -/
theorem AMap.wf_setD {V : Type} [DecidableEq V] (m : AMap V) (k : Nat) (d v : V) (h : m.wf d = true) :
    (m.setD k d v).wf d = true := by
  unfold AMap.setD
  split
  · exact AMap.wf_filter m d _ h
  · rename_i hv
    rw [AMap.wf_iff] at h ⊢
    refine ⟨AMap.sorted_put m k v h.1, fun q hq => ?_⟩
    rcases AMap.mem_put m k v q hq with hq | hq
    · subst hq; exact hv
    · exact h.2 q hq

/-- A filter on keys keeps what it keeps and drops the rest. -/
theorem AMap.get?_filter {V : Type} (m : AMap V) (p : Nat → Bool) (k : Nat) :
    AMap.get? (m.filter fun c => p c.1) k = if p k then m.get? k else none := by
  induction m with
  | nil => simp [AMap.get?]
  | cons x r ih =>
    obtain ⟨j, v⟩ := x
    rw [List.filter_cons]
    split
    · rename_i h
      simp only [AMap.get?, ih]
      split
      · rename_i e
        subst e
        simp only [h, if_true]
      · rfl
    · rename_i h
      rw [ih]
      simp only [AMap.get?]
      by_cases e : j = k
      · subst e
        simp only [h, Bool.false_eq_true, if_false]
      · simp only [e, if_false]

end Sys2Proof.Machine
end

