-- ==== Sys2Proof/Laws/State.lean ====
section
/-!
SUPPORT. One lemma per field per update of State, true by unfolding and tagged for simp.
-/
namespace Sys2Proof.Machine

/-! `onRegs` -/
@[simp] theorem State.onRegs_regs (s : State) (g : Regs → Regs) : (s.onRegs g).regs = g s.regs := rfl
@[simp] theorem State.onRegs_hiu (s : State) (g : Regs → Regs) : (s.onRegs g).hiu = s.hiu := rfl
@[simp] theorem State.onRegs_box (s : State) (g : Regs → Regs) : (s.onRegs g).box = s.box := rfl
@[simp] theorem State.onRegs_stm (s : State) (g : Regs → Regs) : (s.onRegs g).stm = s.stm := rfl
@[simp] theorem State.onRegs_cue (s : State) (g : Regs → Regs) : (s.onRegs g).cue = s.cue := rfl
@[simp] theorem State.onRegs_ply (s : State) (g : Regs → Regs) : (s.onRegs g).ply = s.ply := rfl
@[simp] theorem State.onRegs_prm (s : State) (g : Regs → Regs) : (s.onRegs g).prm = s.prm := rfl
@[simp] theorem State.onRegs_grs (s : State) (g : Regs → Regs) : (s.onRegs g).grs = s.grs := rfl
@[simp] theorem State.onRegs_wdr (s : State) (g : Regs → Regs) : (s.onRegs g).wdr = s.wdr := rfl
@[simp] theorem State.onRegs_mdw (s : State) (g : Regs → Regs) : (s.onRegs g).mdw = s.mdw := rfl
@[simp] theorem State.onRegs_fab (s : State) (g : Regs → Regs) : (s.onRegs g).fab = s.fab := rfl
@[simp] theorem State.onRegs_swl (s : State) (g : Regs → Regs) : (s.onRegs g).swl = s.swl := rfl
@[simp] theorem State.onRegs_lgt (s : State) (g : Regs → Regs) : (s.onRegs g).lgt = s.lgt := rfl
@[simp] theorem State.onRegs_spl (s : State) (g : Regs → Regs) : (s.onRegs g).spl = s.spl := rfl
@[simp] theorem State.onRegs_und (s : State) (g : Regs → Regs) : (s.onRegs g).und = s.und := rfl
@[simp] theorem State.onRegs_pbk (s : State) (g : Regs → Regs) : (s.onRegs g).pbk = s.pbk := rfl
@[simp] theorem State.onRegs_sdr (s : State) (g : Regs → Regs) : (s.onRegs g).sdr = s.sdr := rfl
@[simp] theorem State.onRegs_ldg (s : State) (g : Regs → Regs) : (s.onRegs g).ldg = s.ldg := rfl
@[simp] theorem State.onRegs_flt (s : State) (g : Regs → Regs) : (s.onRegs g).flt = s.flt := rfl
@[simp] theorem State.onRegs_brd (s : State) (g : Regs → Regs) : (s.onRegs g).brd = s.brd := rfl
@[simp] theorem State.onRegs_out (s : State) (g : Regs → Regs) : (s.onRegs g).out = s.out := rfl
@[simp] theorem State.onRegs_st (s : State) (g : Regs → Regs) : (s.onRegs g).st = s.st := rfl
@[simp] theorem State.onRegs_freeCtr (s : State) (g : Regs → Regs) : (s.onRegs g).freeCtr = s.freeCtr := rfl
@[simp] theorem State.onRegs_pending (s : State) (g : Regs → Regs) : (s.onRegs g).pending = s.pending := rfl

/-! `onHiu` -/
@[simp] theorem State.onHiu_regs (s : State) (g : Hiu → Hiu) : (s.onHiu g).regs = s.regs := rfl
@[simp] theorem State.onHiu_hiu (s : State) (g : Hiu → Hiu) : (s.onHiu g).hiu = g s.hiu := rfl
@[simp] theorem State.onHiu_box (s : State) (g : Hiu → Hiu) : (s.onHiu g).box = s.box := rfl
@[simp] theorem State.onHiu_stm (s : State) (g : Hiu → Hiu) : (s.onHiu g).stm = s.stm := rfl
@[simp] theorem State.onHiu_cue (s : State) (g : Hiu → Hiu) : (s.onHiu g).cue = s.cue := rfl
@[simp] theorem State.onHiu_ply (s : State) (g : Hiu → Hiu) : (s.onHiu g).ply = s.ply := rfl
@[simp] theorem State.onHiu_prm (s : State) (g : Hiu → Hiu) : (s.onHiu g).prm = s.prm := rfl
@[simp] theorem State.onHiu_grs (s : State) (g : Hiu → Hiu) : (s.onHiu g).grs = s.grs := rfl
@[simp] theorem State.onHiu_wdr (s : State) (g : Hiu → Hiu) : (s.onHiu g).wdr = s.wdr := rfl
@[simp] theorem State.onHiu_mdw (s : State) (g : Hiu → Hiu) : (s.onHiu g).mdw = s.mdw := rfl
@[simp] theorem State.onHiu_fab (s : State) (g : Hiu → Hiu) : (s.onHiu g).fab = s.fab := rfl
@[simp] theorem State.onHiu_swl (s : State) (g : Hiu → Hiu) : (s.onHiu g).swl = s.swl := rfl
@[simp] theorem State.onHiu_lgt (s : State) (g : Hiu → Hiu) : (s.onHiu g).lgt = s.lgt := rfl
@[simp] theorem State.onHiu_spl (s : State) (g : Hiu → Hiu) : (s.onHiu g).spl = s.spl := rfl
@[simp] theorem State.onHiu_und (s : State) (g : Hiu → Hiu) : (s.onHiu g).und = s.und := rfl
@[simp] theorem State.onHiu_pbk (s : State) (g : Hiu → Hiu) : (s.onHiu g).pbk = s.pbk := rfl
@[simp] theorem State.onHiu_sdr (s : State) (g : Hiu → Hiu) : (s.onHiu g).sdr = s.sdr := rfl
@[simp] theorem State.onHiu_ldg (s : State) (g : Hiu → Hiu) : (s.onHiu g).ldg = s.ldg := rfl
@[simp] theorem State.onHiu_flt (s : State) (g : Hiu → Hiu) : (s.onHiu g).flt = s.flt := rfl
@[simp] theorem State.onHiu_brd (s : State) (g : Hiu → Hiu) : (s.onHiu g).brd = s.brd := rfl
@[simp] theorem State.onHiu_out (s : State) (g : Hiu → Hiu) : (s.onHiu g).out = s.out := rfl
@[simp] theorem State.onHiu_st (s : State) (g : Hiu → Hiu) : (s.onHiu g).st = s.st := rfl
@[simp] theorem State.onHiu_freeCtr (s : State) (g : Hiu → Hiu) : (s.onHiu g).freeCtr = s.freeCtr := rfl
@[simp] theorem State.onHiu_pending (s : State) (g : Hiu → Hiu) : (s.onHiu g).pending = s.pending := rfl

/-! `onBox` -/
@[simp] theorem State.onBox_regs (s : State) (g : Box → Box) : (s.onBox g).regs = s.regs := rfl
@[simp] theorem State.onBox_hiu (s : State) (g : Box → Box) : (s.onBox g).hiu = s.hiu := rfl
@[simp] theorem State.onBox_box (s : State) (g : Box → Box) : (s.onBox g).box = g s.box := rfl
@[simp] theorem State.onBox_stm (s : State) (g : Box → Box) : (s.onBox g).stm = s.stm := rfl
@[simp] theorem State.onBox_cue (s : State) (g : Box → Box) : (s.onBox g).cue = s.cue := rfl
@[simp] theorem State.onBox_ply (s : State) (g : Box → Box) : (s.onBox g).ply = s.ply := rfl
@[simp] theorem State.onBox_prm (s : State) (g : Box → Box) : (s.onBox g).prm = s.prm := rfl
@[simp] theorem State.onBox_grs (s : State) (g : Box → Box) : (s.onBox g).grs = s.grs := rfl
@[simp] theorem State.onBox_wdr (s : State) (g : Box → Box) : (s.onBox g).wdr = s.wdr := rfl
@[simp] theorem State.onBox_mdw (s : State) (g : Box → Box) : (s.onBox g).mdw = s.mdw := rfl
@[simp] theorem State.onBox_fab (s : State) (g : Box → Box) : (s.onBox g).fab = s.fab := rfl
@[simp] theorem State.onBox_swl (s : State) (g : Box → Box) : (s.onBox g).swl = s.swl := rfl
@[simp] theorem State.onBox_lgt (s : State) (g : Box → Box) : (s.onBox g).lgt = s.lgt := rfl
@[simp] theorem State.onBox_spl (s : State) (g : Box → Box) : (s.onBox g).spl = s.spl := rfl
@[simp] theorem State.onBox_und (s : State) (g : Box → Box) : (s.onBox g).und = s.und := rfl
@[simp] theorem State.onBox_pbk (s : State) (g : Box → Box) : (s.onBox g).pbk = s.pbk := rfl
@[simp] theorem State.onBox_sdr (s : State) (g : Box → Box) : (s.onBox g).sdr = s.sdr := rfl
@[simp] theorem State.onBox_ldg (s : State) (g : Box → Box) : (s.onBox g).ldg = s.ldg := rfl
@[simp] theorem State.onBox_flt (s : State) (g : Box → Box) : (s.onBox g).flt = s.flt := rfl
@[simp] theorem State.onBox_brd (s : State) (g : Box → Box) : (s.onBox g).brd = s.brd := rfl
@[simp] theorem State.onBox_out (s : State) (g : Box → Box) : (s.onBox g).out = s.out := rfl
@[simp] theorem State.onBox_st (s : State) (g : Box → Box) : (s.onBox g).st = s.st := rfl
@[simp] theorem State.onBox_freeCtr (s : State) (g : Box → Box) : (s.onBox g).freeCtr = s.freeCtr := rfl
@[simp] theorem State.onBox_pending (s : State) (g : Box → Box) : (s.onBox g).pending = s.pending := rfl

/-! `onStm` -/
@[simp] theorem State.onStm_regs (s : State) (g : Stm → Stm) : (s.onStm g).regs = s.regs := rfl
@[simp] theorem State.onStm_hiu (s : State) (g : Stm → Stm) : (s.onStm g).hiu = s.hiu := rfl
@[simp] theorem State.onStm_box (s : State) (g : Stm → Stm) : (s.onStm g).box = s.box := rfl
@[simp] theorem State.onStm_stm (s : State) (g : Stm → Stm) : (s.onStm g).stm = g s.stm := rfl
@[simp] theorem State.onStm_cue (s : State) (g : Stm → Stm) : (s.onStm g).cue = s.cue := rfl
@[simp] theorem State.onStm_ply (s : State) (g : Stm → Stm) : (s.onStm g).ply = s.ply := rfl
@[simp] theorem State.onStm_prm (s : State) (g : Stm → Stm) : (s.onStm g).prm = s.prm := rfl
@[simp] theorem State.onStm_grs (s : State) (g : Stm → Stm) : (s.onStm g).grs = s.grs := rfl
@[simp] theorem State.onStm_wdr (s : State) (g : Stm → Stm) : (s.onStm g).wdr = s.wdr := rfl
@[simp] theorem State.onStm_mdw (s : State) (g : Stm → Stm) : (s.onStm g).mdw = s.mdw := rfl
@[simp] theorem State.onStm_fab (s : State) (g : Stm → Stm) : (s.onStm g).fab = s.fab := rfl
@[simp] theorem State.onStm_swl (s : State) (g : Stm → Stm) : (s.onStm g).swl = s.swl := rfl
@[simp] theorem State.onStm_lgt (s : State) (g : Stm → Stm) : (s.onStm g).lgt = s.lgt := rfl
@[simp] theorem State.onStm_spl (s : State) (g : Stm → Stm) : (s.onStm g).spl = s.spl := rfl
@[simp] theorem State.onStm_und (s : State) (g : Stm → Stm) : (s.onStm g).und = s.und := rfl
@[simp] theorem State.onStm_pbk (s : State) (g : Stm → Stm) : (s.onStm g).pbk = s.pbk := rfl
@[simp] theorem State.onStm_sdr (s : State) (g : Stm → Stm) : (s.onStm g).sdr = s.sdr := rfl
@[simp] theorem State.onStm_ldg (s : State) (g : Stm → Stm) : (s.onStm g).ldg = s.ldg := rfl
@[simp] theorem State.onStm_flt (s : State) (g : Stm → Stm) : (s.onStm g).flt = s.flt := rfl
@[simp] theorem State.onStm_brd (s : State) (g : Stm → Stm) : (s.onStm g).brd = s.brd := rfl
@[simp] theorem State.onStm_out (s : State) (g : Stm → Stm) : (s.onStm g).out = s.out := rfl
@[simp] theorem State.onStm_st (s : State) (g : Stm → Stm) : (s.onStm g).st = s.st := rfl
@[simp] theorem State.onStm_freeCtr (s : State) (g : Stm → Stm) : (s.onStm g).freeCtr = s.freeCtr := rfl
@[simp] theorem State.onStm_pending (s : State) (g : Stm → Stm) : (s.onStm g).pending = s.pending := rfl

/-! `onCue` -/
@[simp] theorem State.onCue_regs (s : State) (g : Cue → Cue) : (s.onCue g).regs = s.regs := rfl
@[simp] theorem State.onCue_hiu (s : State) (g : Cue → Cue) : (s.onCue g).hiu = s.hiu := rfl
@[simp] theorem State.onCue_box (s : State) (g : Cue → Cue) : (s.onCue g).box = s.box := rfl
@[simp] theorem State.onCue_stm (s : State) (g : Cue → Cue) : (s.onCue g).stm = s.stm := rfl
@[simp] theorem State.onCue_cue (s : State) (g : Cue → Cue) : (s.onCue g).cue = g s.cue := rfl
@[simp] theorem State.onCue_ply (s : State) (g : Cue → Cue) : (s.onCue g).ply = s.ply := rfl
@[simp] theorem State.onCue_prm (s : State) (g : Cue → Cue) : (s.onCue g).prm = s.prm := rfl
@[simp] theorem State.onCue_grs (s : State) (g : Cue → Cue) : (s.onCue g).grs = s.grs := rfl
@[simp] theorem State.onCue_wdr (s : State) (g : Cue → Cue) : (s.onCue g).wdr = s.wdr := rfl
@[simp] theorem State.onCue_mdw (s : State) (g : Cue → Cue) : (s.onCue g).mdw = s.mdw := rfl
@[simp] theorem State.onCue_fab (s : State) (g : Cue → Cue) : (s.onCue g).fab = s.fab := rfl
@[simp] theorem State.onCue_swl (s : State) (g : Cue → Cue) : (s.onCue g).swl = s.swl := rfl
@[simp] theorem State.onCue_lgt (s : State) (g : Cue → Cue) : (s.onCue g).lgt = s.lgt := rfl
@[simp] theorem State.onCue_spl (s : State) (g : Cue → Cue) : (s.onCue g).spl = s.spl := rfl
@[simp] theorem State.onCue_und (s : State) (g : Cue → Cue) : (s.onCue g).und = s.und := rfl
@[simp] theorem State.onCue_pbk (s : State) (g : Cue → Cue) : (s.onCue g).pbk = s.pbk := rfl
@[simp] theorem State.onCue_sdr (s : State) (g : Cue → Cue) : (s.onCue g).sdr = s.sdr := rfl
@[simp] theorem State.onCue_ldg (s : State) (g : Cue → Cue) : (s.onCue g).ldg = s.ldg := rfl
@[simp] theorem State.onCue_flt (s : State) (g : Cue → Cue) : (s.onCue g).flt = s.flt := rfl
@[simp] theorem State.onCue_brd (s : State) (g : Cue → Cue) : (s.onCue g).brd = s.brd := rfl
@[simp] theorem State.onCue_out (s : State) (g : Cue → Cue) : (s.onCue g).out = s.out := rfl
@[simp] theorem State.onCue_st (s : State) (g : Cue → Cue) : (s.onCue g).st = s.st := rfl
@[simp] theorem State.onCue_freeCtr (s : State) (g : Cue → Cue) : (s.onCue g).freeCtr = s.freeCtr := rfl
@[simp] theorem State.onCue_pending (s : State) (g : Cue → Cue) : (s.onCue g).pending = s.pending := rfl

/-! `onPly` -/
@[simp] theorem State.onPly_regs (s : State) (g : List Player → List Player) : (s.onPly g).regs = s.regs := rfl
@[simp] theorem State.onPly_hiu (s : State) (g : List Player → List Player) : (s.onPly g).hiu = s.hiu := rfl
@[simp] theorem State.onPly_box (s : State) (g : List Player → List Player) : (s.onPly g).box = s.box := rfl
@[simp] theorem State.onPly_stm (s : State) (g : List Player → List Player) : (s.onPly g).stm = s.stm := rfl
@[simp] theorem State.onPly_cue (s : State) (g : List Player → List Player) : (s.onPly g).cue = s.cue := rfl
@[simp] theorem State.onPly_ply (s : State) (g : List Player → List Player) : (s.onPly g).ply = g s.ply := rfl
@[simp] theorem State.onPly_prm (s : State) (g : List Player → List Player) : (s.onPly g).prm = s.prm := rfl
@[simp] theorem State.onPly_grs (s : State) (g : List Player → List Player) : (s.onPly g).grs = s.grs := rfl
@[simp] theorem State.onPly_wdr (s : State) (g : List Player → List Player) : (s.onPly g).wdr = s.wdr := rfl
@[simp] theorem State.onPly_mdw (s : State) (g : List Player → List Player) : (s.onPly g).mdw = s.mdw := rfl
@[simp] theorem State.onPly_fab (s : State) (g : List Player → List Player) : (s.onPly g).fab = s.fab := rfl
@[simp] theorem State.onPly_swl (s : State) (g : List Player → List Player) : (s.onPly g).swl = s.swl := rfl
@[simp] theorem State.onPly_lgt (s : State) (g : List Player → List Player) : (s.onPly g).lgt = s.lgt := rfl
@[simp] theorem State.onPly_spl (s : State) (g : List Player → List Player) : (s.onPly g).spl = s.spl := rfl
@[simp] theorem State.onPly_und (s : State) (g : List Player → List Player) : (s.onPly g).und = s.und := rfl
@[simp] theorem State.onPly_pbk (s : State) (g : List Player → List Player) : (s.onPly g).pbk = s.pbk := rfl
@[simp] theorem State.onPly_sdr (s : State) (g : List Player → List Player) : (s.onPly g).sdr = s.sdr := rfl
@[simp] theorem State.onPly_ldg (s : State) (g : List Player → List Player) : (s.onPly g).ldg = s.ldg := rfl
@[simp] theorem State.onPly_flt (s : State) (g : List Player → List Player) : (s.onPly g).flt = s.flt := rfl
@[simp] theorem State.onPly_brd (s : State) (g : List Player → List Player) : (s.onPly g).brd = s.brd := rfl
@[simp] theorem State.onPly_out (s : State) (g : List Player → List Player) : (s.onPly g).out = s.out := rfl
@[simp] theorem State.onPly_st (s : State) (g : List Player → List Player) : (s.onPly g).st = s.st := rfl
@[simp] theorem State.onPly_freeCtr (s : State) (g : List Player → List Player) : (s.onPly g).freeCtr = s.freeCtr := rfl
@[simp] theorem State.onPly_pending (s : State) (g : List Player → List Player) : (s.onPly g).pending = s.pending := rfl

/-! `onPrm` -/
@[simp] theorem State.onPrm_regs (s : State) (g : Prm → Prm) : (s.onPrm g).regs = s.regs := rfl
@[simp] theorem State.onPrm_hiu (s : State) (g : Prm → Prm) : (s.onPrm g).hiu = s.hiu := rfl
@[simp] theorem State.onPrm_box (s : State) (g : Prm → Prm) : (s.onPrm g).box = s.box := rfl
@[simp] theorem State.onPrm_stm (s : State) (g : Prm → Prm) : (s.onPrm g).stm = s.stm := rfl
@[simp] theorem State.onPrm_cue (s : State) (g : Prm → Prm) : (s.onPrm g).cue = s.cue := rfl
@[simp] theorem State.onPrm_ply (s : State) (g : Prm → Prm) : (s.onPrm g).ply = s.ply := rfl
@[simp] theorem State.onPrm_prm (s : State) (g : Prm → Prm) : (s.onPrm g).prm = g s.prm := rfl
@[simp] theorem State.onPrm_grs (s : State) (g : Prm → Prm) : (s.onPrm g).grs = s.grs := rfl
@[simp] theorem State.onPrm_wdr (s : State) (g : Prm → Prm) : (s.onPrm g).wdr = s.wdr := rfl
@[simp] theorem State.onPrm_mdw (s : State) (g : Prm → Prm) : (s.onPrm g).mdw = s.mdw := rfl
@[simp] theorem State.onPrm_fab (s : State) (g : Prm → Prm) : (s.onPrm g).fab = s.fab := rfl
@[simp] theorem State.onPrm_swl (s : State) (g : Prm → Prm) : (s.onPrm g).swl = s.swl := rfl
@[simp] theorem State.onPrm_lgt (s : State) (g : Prm → Prm) : (s.onPrm g).lgt = s.lgt := rfl
@[simp] theorem State.onPrm_spl (s : State) (g : Prm → Prm) : (s.onPrm g).spl = s.spl := rfl
@[simp] theorem State.onPrm_und (s : State) (g : Prm → Prm) : (s.onPrm g).und = s.und := rfl
@[simp] theorem State.onPrm_pbk (s : State) (g : Prm → Prm) : (s.onPrm g).pbk = s.pbk := rfl
@[simp] theorem State.onPrm_sdr (s : State) (g : Prm → Prm) : (s.onPrm g).sdr = s.sdr := rfl
@[simp] theorem State.onPrm_ldg (s : State) (g : Prm → Prm) : (s.onPrm g).ldg = s.ldg := rfl
@[simp] theorem State.onPrm_flt (s : State) (g : Prm → Prm) : (s.onPrm g).flt = s.flt := rfl
@[simp] theorem State.onPrm_brd (s : State) (g : Prm → Prm) : (s.onPrm g).brd = s.brd := rfl
@[simp] theorem State.onPrm_out (s : State) (g : Prm → Prm) : (s.onPrm g).out = s.out := rfl
@[simp] theorem State.onPrm_st (s : State) (g : Prm → Prm) : (s.onPrm g).st = s.st := rfl
@[simp] theorem State.onPrm_freeCtr (s : State) (g : Prm → Prm) : (s.onPrm g).freeCtr = s.freeCtr := rfl
@[simp] theorem State.onPrm_pending (s : State) (g : Prm → Prm) : (s.onPrm g).pending = s.pending := rfl

/-! `onGrs` -/
@[simp] theorem State.onGrs_regs (s : State) (g : Grs → Grs) : (s.onGrs g).regs = s.regs := rfl
@[simp] theorem State.onGrs_hiu (s : State) (g : Grs → Grs) : (s.onGrs g).hiu = s.hiu := rfl
@[simp] theorem State.onGrs_box (s : State) (g : Grs → Grs) : (s.onGrs g).box = s.box := rfl
@[simp] theorem State.onGrs_stm (s : State) (g : Grs → Grs) : (s.onGrs g).stm = s.stm := rfl
@[simp] theorem State.onGrs_cue (s : State) (g : Grs → Grs) : (s.onGrs g).cue = s.cue := rfl
@[simp] theorem State.onGrs_ply (s : State) (g : Grs → Grs) : (s.onGrs g).ply = s.ply := rfl
@[simp] theorem State.onGrs_prm (s : State) (g : Grs → Grs) : (s.onGrs g).prm = s.prm := rfl
@[simp] theorem State.onGrs_grs (s : State) (g : Grs → Grs) : (s.onGrs g).grs = g s.grs := rfl
@[simp] theorem State.onGrs_wdr (s : State) (g : Grs → Grs) : (s.onGrs g).wdr = s.wdr := rfl
@[simp] theorem State.onGrs_mdw (s : State) (g : Grs → Grs) : (s.onGrs g).mdw = s.mdw := rfl
@[simp] theorem State.onGrs_fab (s : State) (g : Grs → Grs) : (s.onGrs g).fab = s.fab := rfl
@[simp] theorem State.onGrs_swl (s : State) (g : Grs → Grs) : (s.onGrs g).swl = s.swl := rfl
@[simp] theorem State.onGrs_lgt (s : State) (g : Grs → Grs) : (s.onGrs g).lgt = s.lgt := rfl
@[simp] theorem State.onGrs_spl (s : State) (g : Grs → Grs) : (s.onGrs g).spl = s.spl := rfl
@[simp] theorem State.onGrs_und (s : State) (g : Grs → Grs) : (s.onGrs g).und = s.und := rfl
@[simp] theorem State.onGrs_pbk (s : State) (g : Grs → Grs) : (s.onGrs g).pbk = s.pbk := rfl
@[simp] theorem State.onGrs_sdr (s : State) (g : Grs → Grs) : (s.onGrs g).sdr = s.sdr := rfl
@[simp] theorem State.onGrs_ldg (s : State) (g : Grs → Grs) : (s.onGrs g).ldg = s.ldg := rfl
@[simp] theorem State.onGrs_flt (s : State) (g : Grs → Grs) : (s.onGrs g).flt = s.flt := rfl
@[simp] theorem State.onGrs_brd (s : State) (g : Grs → Grs) : (s.onGrs g).brd = s.brd := rfl
@[simp] theorem State.onGrs_out (s : State) (g : Grs → Grs) : (s.onGrs g).out = s.out := rfl
@[simp] theorem State.onGrs_st (s : State) (g : Grs → Grs) : (s.onGrs g).st = s.st := rfl
@[simp] theorem State.onGrs_freeCtr (s : State) (g : Grs → Grs) : (s.onGrs g).freeCtr = s.freeCtr := rfl
@[simp] theorem State.onGrs_pending (s : State) (g : Grs → Grs) : (s.onGrs g).pending = s.pending := rfl

/-! `onWdr` -/
@[simp] theorem State.onWdr_regs (s : State) (g : Wdr → Wdr) : (s.onWdr g).regs = s.regs := rfl
@[simp] theorem State.onWdr_hiu (s : State) (g : Wdr → Wdr) : (s.onWdr g).hiu = s.hiu := rfl
@[simp] theorem State.onWdr_box (s : State) (g : Wdr → Wdr) : (s.onWdr g).box = s.box := rfl
@[simp] theorem State.onWdr_stm (s : State) (g : Wdr → Wdr) : (s.onWdr g).stm = s.stm := rfl
@[simp] theorem State.onWdr_cue (s : State) (g : Wdr → Wdr) : (s.onWdr g).cue = s.cue := rfl
@[simp] theorem State.onWdr_ply (s : State) (g : Wdr → Wdr) : (s.onWdr g).ply = s.ply := rfl
@[simp] theorem State.onWdr_prm (s : State) (g : Wdr → Wdr) : (s.onWdr g).prm = s.prm := rfl
@[simp] theorem State.onWdr_grs (s : State) (g : Wdr → Wdr) : (s.onWdr g).grs = s.grs := rfl
@[simp] theorem State.onWdr_wdr (s : State) (g : Wdr → Wdr) : (s.onWdr g).wdr = g s.wdr := rfl
@[simp] theorem State.onWdr_mdw (s : State) (g : Wdr → Wdr) : (s.onWdr g).mdw = s.mdw := rfl
@[simp] theorem State.onWdr_fab (s : State) (g : Wdr → Wdr) : (s.onWdr g).fab = s.fab := rfl
@[simp] theorem State.onWdr_swl (s : State) (g : Wdr → Wdr) : (s.onWdr g).swl = s.swl := rfl
@[simp] theorem State.onWdr_lgt (s : State) (g : Wdr → Wdr) : (s.onWdr g).lgt = s.lgt := rfl
@[simp] theorem State.onWdr_spl (s : State) (g : Wdr → Wdr) : (s.onWdr g).spl = s.spl := rfl
@[simp] theorem State.onWdr_und (s : State) (g : Wdr → Wdr) : (s.onWdr g).und = s.und := rfl
@[simp] theorem State.onWdr_pbk (s : State) (g : Wdr → Wdr) : (s.onWdr g).pbk = s.pbk := rfl
@[simp] theorem State.onWdr_sdr (s : State) (g : Wdr → Wdr) : (s.onWdr g).sdr = s.sdr := rfl
@[simp] theorem State.onWdr_ldg (s : State) (g : Wdr → Wdr) : (s.onWdr g).ldg = s.ldg := rfl
@[simp] theorem State.onWdr_flt (s : State) (g : Wdr → Wdr) : (s.onWdr g).flt = s.flt := rfl
@[simp] theorem State.onWdr_brd (s : State) (g : Wdr → Wdr) : (s.onWdr g).brd = s.brd := rfl
@[simp] theorem State.onWdr_out (s : State) (g : Wdr → Wdr) : (s.onWdr g).out = s.out := rfl
@[simp] theorem State.onWdr_st (s : State) (g : Wdr → Wdr) : (s.onWdr g).st = s.st := rfl
@[simp] theorem State.onWdr_freeCtr (s : State) (g : Wdr → Wdr) : (s.onWdr g).freeCtr = s.freeCtr := rfl
@[simp] theorem State.onWdr_pending (s : State) (g : Wdr → Wdr) : (s.onWdr g).pending = s.pending := rfl

/-! `onMdw` -/
@[simp] theorem State.onMdw_regs (s : State) (g : Mdw → Mdw) : (s.onMdw g).regs = s.regs := rfl
@[simp] theorem State.onMdw_hiu (s : State) (g : Mdw → Mdw) : (s.onMdw g).hiu = s.hiu := rfl
@[simp] theorem State.onMdw_box (s : State) (g : Mdw → Mdw) : (s.onMdw g).box = s.box := rfl
@[simp] theorem State.onMdw_stm (s : State) (g : Mdw → Mdw) : (s.onMdw g).stm = s.stm := rfl
@[simp] theorem State.onMdw_cue (s : State) (g : Mdw → Mdw) : (s.onMdw g).cue = s.cue := rfl
@[simp] theorem State.onMdw_ply (s : State) (g : Mdw → Mdw) : (s.onMdw g).ply = s.ply := rfl
@[simp] theorem State.onMdw_prm (s : State) (g : Mdw → Mdw) : (s.onMdw g).prm = s.prm := rfl
@[simp] theorem State.onMdw_grs (s : State) (g : Mdw → Mdw) : (s.onMdw g).grs = s.grs := rfl
@[simp] theorem State.onMdw_wdr (s : State) (g : Mdw → Mdw) : (s.onMdw g).wdr = s.wdr := rfl
@[simp] theorem State.onMdw_mdw (s : State) (g : Mdw → Mdw) : (s.onMdw g).mdw = g s.mdw := rfl
@[simp] theorem State.onMdw_fab (s : State) (g : Mdw → Mdw) : (s.onMdw g).fab = s.fab := rfl
@[simp] theorem State.onMdw_swl (s : State) (g : Mdw → Mdw) : (s.onMdw g).swl = s.swl := rfl
@[simp] theorem State.onMdw_lgt (s : State) (g : Mdw → Mdw) : (s.onMdw g).lgt = s.lgt := rfl
@[simp] theorem State.onMdw_spl (s : State) (g : Mdw → Mdw) : (s.onMdw g).spl = s.spl := rfl
@[simp] theorem State.onMdw_und (s : State) (g : Mdw → Mdw) : (s.onMdw g).und = s.und := rfl
@[simp] theorem State.onMdw_pbk (s : State) (g : Mdw → Mdw) : (s.onMdw g).pbk = s.pbk := rfl
@[simp] theorem State.onMdw_sdr (s : State) (g : Mdw → Mdw) : (s.onMdw g).sdr = s.sdr := rfl
@[simp] theorem State.onMdw_ldg (s : State) (g : Mdw → Mdw) : (s.onMdw g).ldg = s.ldg := rfl
@[simp] theorem State.onMdw_flt (s : State) (g : Mdw → Mdw) : (s.onMdw g).flt = s.flt := rfl
@[simp] theorem State.onMdw_brd (s : State) (g : Mdw → Mdw) : (s.onMdw g).brd = s.brd := rfl
@[simp] theorem State.onMdw_out (s : State) (g : Mdw → Mdw) : (s.onMdw g).out = s.out := rfl
@[simp] theorem State.onMdw_st (s : State) (g : Mdw → Mdw) : (s.onMdw g).st = s.st := rfl
@[simp] theorem State.onMdw_freeCtr (s : State) (g : Mdw → Mdw) : (s.onMdw g).freeCtr = s.freeCtr := rfl
@[simp] theorem State.onMdw_pending (s : State) (g : Mdw → Mdw) : (s.onMdw g).pending = s.pending := rfl

/-! `onFab` -/
@[simp] theorem State.onFab_regs (s : State) (g : Fab → Fab) : (s.onFab g).regs = s.regs := rfl
@[simp] theorem State.onFab_hiu (s : State) (g : Fab → Fab) : (s.onFab g).hiu = s.hiu := rfl
@[simp] theorem State.onFab_box (s : State) (g : Fab → Fab) : (s.onFab g).box = s.box := rfl
@[simp] theorem State.onFab_stm (s : State) (g : Fab → Fab) : (s.onFab g).stm = s.stm := rfl
@[simp] theorem State.onFab_cue (s : State) (g : Fab → Fab) : (s.onFab g).cue = s.cue := rfl
@[simp] theorem State.onFab_ply (s : State) (g : Fab → Fab) : (s.onFab g).ply = s.ply := rfl
@[simp] theorem State.onFab_prm (s : State) (g : Fab → Fab) : (s.onFab g).prm = s.prm := rfl
@[simp] theorem State.onFab_grs (s : State) (g : Fab → Fab) : (s.onFab g).grs = s.grs := rfl
@[simp] theorem State.onFab_wdr (s : State) (g : Fab → Fab) : (s.onFab g).wdr = s.wdr := rfl
@[simp] theorem State.onFab_mdw (s : State) (g : Fab → Fab) : (s.onFab g).mdw = s.mdw := rfl
@[simp] theorem State.onFab_fab (s : State) (g : Fab → Fab) : (s.onFab g).fab = g s.fab := rfl
@[simp] theorem State.onFab_swl (s : State) (g : Fab → Fab) : (s.onFab g).swl = s.swl := rfl
@[simp] theorem State.onFab_lgt (s : State) (g : Fab → Fab) : (s.onFab g).lgt = s.lgt := rfl
@[simp] theorem State.onFab_spl (s : State) (g : Fab → Fab) : (s.onFab g).spl = s.spl := rfl
@[simp] theorem State.onFab_und (s : State) (g : Fab → Fab) : (s.onFab g).und = s.und := rfl
@[simp] theorem State.onFab_pbk (s : State) (g : Fab → Fab) : (s.onFab g).pbk = s.pbk := rfl
@[simp] theorem State.onFab_sdr (s : State) (g : Fab → Fab) : (s.onFab g).sdr = s.sdr := rfl
@[simp] theorem State.onFab_ldg (s : State) (g : Fab → Fab) : (s.onFab g).ldg = s.ldg := rfl
@[simp] theorem State.onFab_flt (s : State) (g : Fab → Fab) : (s.onFab g).flt = s.flt := rfl
@[simp] theorem State.onFab_brd (s : State) (g : Fab → Fab) : (s.onFab g).brd = s.brd := rfl
@[simp] theorem State.onFab_out (s : State) (g : Fab → Fab) : (s.onFab g).out = s.out := rfl
@[simp] theorem State.onFab_st (s : State) (g : Fab → Fab) : (s.onFab g).st = s.st := rfl
@[simp] theorem State.onFab_freeCtr (s : State) (g : Fab → Fab) : (s.onFab g).freeCtr = s.freeCtr := rfl
@[simp] theorem State.onFab_pending (s : State) (g : Fab → Fab) : (s.onFab g).pending = s.pending := rfl

/-! `onSwl` -/
@[simp] theorem State.onSwl_regs (s : State) (g : AMap Sw → AMap Sw) : (s.onSwl g).regs = s.regs := rfl
@[simp] theorem State.onSwl_hiu (s : State) (g : AMap Sw → AMap Sw) : (s.onSwl g).hiu = s.hiu := rfl
@[simp] theorem State.onSwl_box (s : State) (g : AMap Sw → AMap Sw) : (s.onSwl g).box = s.box := rfl
@[simp] theorem State.onSwl_stm (s : State) (g : AMap Sw → AMap Sw) : (s.onSwl g).stm = s.stm := rfl
@[simp] theorem State.onSwl_cue (s : State) (g : AMap Sw → AMap Sw) : (s.onSwl g).cue = s.cue := rfl
@[simp] theorem State.onSwl_ply (s : State) (g : AMap Sw → AMap Sw) : (s.onSwl g).ply = s.ply := rfl
@[simp] theorem State.onSwl_prm (s : State) (g : AMap Sw → AMap Sw) : (s.onSwl g).prm = s.prm := rfl
@[simp] theorem State.onSwl_grs (s : State) (g : AMap Sw → AMap Sw) : (s.onSwl g).grs = s.grs := rfl
@[simp] theorem State.onSwl_wdr (s : State) (g : AMap Sw → AMap Sw) : (s.onSwl g).wdr = s.wdr := rfl
@[simp] theorem State.onSwl_mdw (s : State) (g : AMap Sw → AMap Sw) : (s.onSwl g).mdw = s.mdw := rfl
@[simp] theorem State.onSwl_fab (s : State) (g : AMap Sw → AMap Sw) : (s.onSwl g).fab = s.fab := rfl
@[simp] theorem State.onSwl_swl (s : State) (g : AMap Sw → AMap Sw) : (s.onSwl g).swl = g s.swl := rfl
@[simp] theorem State.onSwl_lgt (s : State) (g : AMap Sw → AMap Sw) : (s.onSwl g).lgt = s.lgt := rfl
@[simp] theorem State.onSwl_spl (s : State) (g : AMap Sw → AMap Sw) : (s.onSwl g).spl = s.spl := rfl
@[simp] theorem State.onSwl_und (s : State) (g : AMap Sw → AMap Sw) : (s.onSwl g).und = s.und := rfl
@[simp] theorem State.onSwl_pbk (s : State) (g : AMap Sw → AMap Sw) : (s.onSwl g).pbk = s.pbk := rfl
@[simp] theorem State.onSwl_sdr (s : State) (g : AMap Sw → AMap Sw) : (s.onSwl g).sdr = s.sdr := rfl
@[simp] theorem State.onSwl_ldg (s : State) (g : AMap Sw → AMap Sw) : (s.onSwl g).ldg = s.ldg := rfl
@[simp] theorem State.onSwl_flt (s : State) (g : AMap Sw → AMap Sw) : (s.onSwl g).flt = s.flt := rfl
@[simp] theorem State.onSwl_brd (s : State) (g : AMap Sw → AMap Sw) : (s.onSwl g).brd = s.brd := rfl
@[simp] theorem State.onSwl_out (s : State) (g : AMap Sw → AMap Sw) : (s.onSwl g).out = s.out := rfl
@[simp] theorem State.onSwl_st (s : State) (g : AMap Sw → AMap Sw) : (s.onSwl g).st = s.st := rfl
@[simp] theorem State.onSwl_freeCtr (s : State) (g : AMap Sw → AMap Sw) : (s.onSwl g).freeCtr = s.freeCtr := rfl
@[simp] theorem State.onSwl_pending (s : State) (g : AMap Sw → AMap Sw) : (s.onSwl g).pending = s.pending := rfl

/-! `onLgt` -/
@[simp] theorem State.onLgt_regs (s : State) (g : Lgt → Lgt) : (s.onLgt g).regs = s.regs := rfl
@[simp] theorem State.onLgt_hiu (s : State) (g : Lgt → Lgt) : (s.onLgt g).hiu = s.hiu := rfl
@[simp] theorem State.onLgt_box (s : State) (g : Lgt → Lgt) : (s.onLgt g).box = s.box := rfl
@[simp] theorem State.onLgt_stm (s : State) (g : Lgt → Lgt) : (s.onLgt g).stm = s.stm := rfl
@[simp] theorem State.onLgt_cue (s : State) (g : Lgt → Lgt) : (s.onLgt g).cue = s.cue := rfl
@[simp] theorem State.onLgt_ply (s : State) (g : Lgt → Lgt) : (s.onLgt g).ply = s.ply := rfl
@[simp] theorem State.onLgt_prm (s : State) (g : Lgt → Lgt) : (s.onLgt g).prm = s.prm := rfl
@[simp] theorem State.onLgt_grs (s : State) (g : Lgt → Lgt) : (s.onLgt g).grs = s.grs := rfl
@[simp] theorem State.onLgt_wdr (s : State) (g : Lgt → Lgt) : (s.onLgt g).wdr = s.wdr := rfl
@[simp] theorem State.onLgt_mdw (s : State) (g : Lgt → Lgt) : (s.onLgt g).mdw = s.mdw := rfl
@[simp] theorem State.onLgt_fab (s : State) (g : Lgt → Lgt) : (s.onLgt g).fab = s.fab := rfl
@[simp] theorem State.onLgt_swl (s : State) (g : Lgt → Lgt) : (s.onLgt g).swl = s.swl := rfl
@[simp] theorem State.onLgt_lgt (s : State) (g : Lgt → Lgt) : (s.onLgt g).lgt = g s.lgt := rfl
@[simp] theorem State.onLgt_spl (s : State) (g : Lgt → Lgt) : (s.onLgt g).spl = s.spl := rfl
@[simp] theorem State.onLgt_und (s : State) (g : Lgt → Lgt) : (s.onLgt g).und = s.und := rfl
@[simp] theorem State.onLgt_pbk (s : State) (g : Lgt → Lgt) : (s.onLgt g).pbk = s.pbk := rfl
@[simp] theorem State.onLgt_sdr (s : State) (g : Lgt → Lgt) : (s.onLgt g).sdr = s.sdr := rfl
@[simp] theorem State.onLgt_ldg (s : State) (g : Lgt → Lgt) : (s.onLgt g).ldg = s.ldg := rfl
@[simp] theorem State.onLgt_flt (s : State) (g : Lgt → Lgt) : (s.onLgt g).flt = s.flt := rfl
@[simp] theorem State.onLgt_brd (s : State) (g : Lgt → Lgt) : (s.onLgt g).brd = s.brd := rfl
@[simp] theorem State.onLgt_out (s : State) (g : Lgt → Lgt) : (s.onLgt g).out = s.out := rfl
@[simp] theorem State.onLgt_st (s : State) (g : Lgt → Lgt) : (s.onLgt g).st = s.st := rfl
@[simp] theorem State.onLgt_freeCtr (s : State) (g : Lgt → Lgt) : (s.onLgt g).freeCtr = s.freeCtr := rfl
@[simp] theorem State.onLgt_pending (s : State) (g : Lgt → Lgt) : (s.onLgt g).pending = s.pending := rfl

/-! `onSpl` -/
@[simp] theorem State.onSpl_regs (s : State) (g : Spl → Spl) : (s.onSpl g).regs = s.regs := rfl
@[simp] theorem State.onSpl_hiu (s : State) (g : Spl → Spl) : (s.onSpl g).hiu = s.hiu := rfl
@[simp] theorem State.onSpl_box (s : State) (g : Spl → Spl) : (s.onSpl g).box = s.box := rfl
@[simp] theorem State.onSpl_stm (s : State) (g : Spl → Spl) : (s.onSpl g).stm = s.stm := rfl
@[simp] theorem State.onSpl_cue (s : State) (g : Spl → Spl) : (s.onSpl g).cue = s.cue := rfl
@[simp] theorem State.onSpl_ply (s : State) (g : Spl → Spl) : (s.onSpl g).ply = s.ply := rfl
@[simp] theorem State.onSpl_prm (s : State) (g : Spl → Spl) : (s.onSpl g).prm = s.prm := rfl
@[simp] theorem State.onSpl_grs (s : State) (g : Spl → Spl) : (s.onSpl g).grs = s.grs := rfl
@[simp] theorem State.onSpl_wdr (s : State) (g : Spl → Spl) : (s.onSpl g).wdr = s.wdr := rfl
@[simp] theorem State.onSpl_mdw (s : State) (g : Spl → Spl) : (s.onSpl g).mdw = s.mdw := rfl
@[simp] theorem State.onSpl_fab (s : State) (g : Spl → Spl) : (s.onSpl g).fab = s.fab := rfl
@[simp] theorem State.onSpl_swl (s : State) (g : Spl → Spl) : (s.onSpl g).swl = s.swl := rfl
@[simp] theorem State.onSpl_lgt (s : State) (g : Spl → Spl) : (s.onSpl g).lgt = s.lgt := rfl
@[simp] theorem State.onSpl_spl (s : State) (g : Spl → Spl) : (s.onSpl g).spl = g s.spl := rfl
@[simp] theorem State.onSpl_und (s : State) (g : Spl → Spl) : (s.onSpl g).und = s.und := rfl
@[simp] theorem State.onSpl_pbk (s : State) (g : Spl → Spl) : (s.onSpl g).pbk = s.pbk := rfl
@[simp] theorem State.onSpl_sdr (s : State) (g : Spl → Spl) : (s.onSpl g).sdr = s.sdr := rfl
@[simp] theorem State.onSpl_ldg (s : State) (g : Spl → Spl) : (s.onSpl g).ldg = s.ldg := rfl
@[simp] theorem State.onSpl_flt (s : State) (g : Spl → Spl) : (s.onSpl g).flt = s.flt := rfl
@[simp] theorem State.onSpl_brd (s : State) (g : Spl → Spl) : (s.onSpl g).brd = s.brd := rfl
@[simp] theorem State.onSpl_out (s : State) (g : Spl → Spl) : (s.onSpl g).out = s.out := rfl
@[simp] theorem State.onSpl_st (s : State) (g : Spl → Spl) : (s.onSpl g).st = s.st := rfl
@[simp] theorem State.onSpl_freeCtr (s : State) (g : Spl → Spl) : (s.onSpl g).freeCtr = s.freeCtr := rfl
@[simp] theorem State.onSpl_pending (s : State) (g : Spl → Spl) : (s.onSpl g).pending = s.pending := rfl

/-! `onUnd` -/
@[simp] theorem State.onUnd_regs (s : State) (g : Und → Und) : (s.onUnd g).regs = s.regs := rfl
@[simp] theorem State.onUnd_hiu (s : State) (g : Und → Und) : (s.onUnd g).hiu = s.hiu := rfl
@[simp] theorem State.onUnd_box (s : State) (g : Und → Und) : (s.onUnd g).box = s.box := rfl
@[simp] theorem State.onUnd_stm (s : State) (g : Und → Und) : (s.onUnd g).stm = s.stm := rfl
@[simp] theorem State.onUnd_cue (s : State) (g : Und → Und) : (s.onUnd g).cue = s.cue := rfl
@[simp] theorem State.onUnd_ply (s : State) (g : Und → Und) : (s.onUnd g).ply = s.ply := rfl
@[simp] theorem State.onUnd_prm (s : State) (g : Und → Und) : (s.onUnd g).prm = s.prm := rfl
@[simp] theorem State.onUnd_grs (s : State) (g : Und → Und) : (s.onUnd g).grs = s.grs := rfl
@[simp] theorem State.onUnd_wdr (s : State) (g : Und → Und) : (s.onUnd g).wdr = s.wdr := rfl
@[simp] theorem State.onUnd_mdw (s : State) (g : Und → Und) : (s.onUnd g).mdw = s.mdw := rfl
@[simp] theorem State.onUnd_fab (s : State) (g : Und → Und) : (s.onUnd g).fab = s.fab := rfl
@[simp] theorem State.onUnd_swl (s : State) (g : Und → Und) : (s.onUnd g).swl = s.swl := rfl
@[simp] theorem State.onUnd_lgt (s : State) (g : Und → Und) : (s.onUnd g).lgt = s.lgt := rfl
@[simp] theorem State.onUnd_spl (s : State) (g : Und → Und) : (s.onUnd g).spl = s.spl := rfl
@[simp] theorem State.onUnd_und (s : State) (g : Und → Und) : (s.onUnd g).und = g s.und := rfl
@[simp] theorem State.onUnd_pbk (s : State) (g : Und → Und) : (s.onUnd g).pbk = s.pbk := rfl
@[simp] theorem State.onUnd_sdr (s : State) (g : Und → Und) : (s.onUnd g).sdr = s.sdr := rfl
@[simp] theorem State.onUnd_ldg (s : State) (g : Und → Und) : (s.onUnd g).ldg = s.ldg := rfl
@[simp] theorem State.onUnd_flt (s : State) (g : Und → Und) : (s.onUnd g).flt = s.flt := rfl
@[simp] theorem State.onUnd_brd (s : State) (g : Und → Und) : (s.onUnd g).brd = s.brd := rfl
@[simp] theorem State.onUnd_out (s : State) (g : Und → Und) : (s.onUnd g).out = s.out := rfl
@[simp] theorem State.onUnd_st (s : State) (g : Und → Und) : (s.onUnd g).st = s.st := rfl
@[simp] theorem State.onUnd_freeCtr (s : State) (g : Und → Und) : (s.onUnd g).freeCtr = s.freeCtr := rfl
@[simp] theorem State.onUnd_pending (s : State) (g : Und → Und) : (s.onUnd g).pending = s.pending := rfl

/-! `onPbk` -/
@[simp] theorem State.onPbk_regs (s : State) (g : Pbk → Pbk) : (s.onPbk g).regs = s.regs := rfl
@[simp] theorem State.onPbk_hiu (s : State) (g : Pbk → Pbk) : (s.onPbk g).hiu = s.hiu := rfl
@[simp] theorem State.onPbk_box (s : State) (g : Pbk → Pbk) : (s.onPbk g).box = s.box := rfl
@[simp] theorem State.onPbk_stm (s : State) (g : Pbk → Pbk) : (s.onPbk g).stm = s.stm := rfl
@[simp] theorem State.onPbk_cue (s : State) (g : Pbk → Pbk) : (s.onPbk g).cue = s.cue := rfl
@[simp] theorem State.onPbk_ply (s : State) (g : Pbk → Pbk) : (s.onPbk g).ply = s.ply := rfl
@[simp] theorem State.onPbk_prm (s : State) (g : Pbk → Pbk) : (s.onPbk g).prm = s.prm := rfl
@[simp] theorem State.onPbk_grs (s : State) (g : Pbk → Pbk) : (s.onPbk g).grs = s.grs := rfl
@[simp] theorem State.onPbk_wdr (s : State) (g : Pbk → Pbk) : (s.onPbk g).wdr = s.wdr := rfl
@[simp] theorem State.onPbk_mdw (s : State) (g : Pbk → Pbk) : (s.onPbk g).mdw = s.mdw := rfl
@[simp] theorem State.onPbk_fab (s : State) (g : Pbk → Pbk) : (s.onPbk g).fab = s.fab := rfl
@[simp] theorem State.onPbk_swl (s : State) (g : Pbk → Pbk) : (s.onPbk g).swl = s.swl := rfl
@[simp] theorem State.onPbk_lgt (s : State) (g : Pbk → Pbk) : (s.onPbk g).lgt = s.lgt := rfl
@[simp] theorem State.onPbk_spl (s : State) (g : Pbk → Pbk) : (s.onPbk g).spl = s.spl := rfl
@[simp] theorem State.onPbk_und (s : State) (g : Pbk → Pbk) : (s.onPbk g).und = s.und := rfl
@[simp] theorem State.onPbk_pbk (s : State) (g : Pbk → Pbk) : (s.onPbk g).pbk = g s.pbk := rfl
@[simp] theorem State.onPbk_sdr (s : State) (g : Pbk → Pbk) : (s.onPbk g).sdr = s.sdr := rfl
@[simp] theorem State.onPbk_ldg (s : State) (g : Pbk → Pbk) : (s.onPbk g).ldg = s.ldg := rfl
@[simp] theorem State.onPbk_flt (s : State) (g : Pbk → Pbk) : (s.onPbk g).flt = s.flt := rfl
@[simp] theorem State.onPbk_brd (s : State) (g : Pbk → Pbk) : (s.onPbk g).brd = s.brd := rfl
@[simp] theorem State.onPbk_out (s : State) (g : Pbk → Pbk) : (s.onPbk g).out = s.out := rfl
@[simp] theorem State.onPbk_st (s : State) (g : Pbk → Pbk) : (s.onPbk g).st = s.st := rfl
@[simp] theorem State.onPbk_freeCtr (s : State) (g : Pbk → Pbk) : (s.onPbk g).freeCtr = s.freeCtr := rfl
@[simp] theorem State.onPbk_pending (s : State) (g : Pbk → Pbk) : (s.onPbk g).pending = s.pending := rfl

/-! `onSdr` -/
@[simp] theorem State.onSdr_regs (s : State) (g : Sdr → Sdr) : (s.onSdr g).regs = s.regs := rfl
@[simp] theorem State.onSdr_hiu (s : State) (g : Sdr → Sdr) : (s.onSdr g).hiu = s.hiu := rfl
@[simp] theorem State.onSdr_box (s : State) (g : Sdr → Sdr) : (s.onSdr g).box = s.box := rfl
@[simp] theorem State.onSdr_stm (s : State) (g : Sdr → Sdr) : (s.onSdr g).stm = s.stm := rfl
@[simp] theorem State.onSdr_cue (s : State) (g : Sdr → Sdr) : (s.onSdr g).cue = s.cue := rfl
@[simp] theorem State.onSdr_ply (s : State) (g : Sdr → Sdr) : (s.onSdr g).ply = s.ply := rfl
@[simp] theorem State.onSdr_prm (s : State) (g : Sdr → Sdr) : (s.onSdr g).prm = s.prm := rfl
@[simp] theorem State.onSdr_grs (s : State) (g : Sdr → Sdr) : (s.onSdr g).grs = s.grs := rfl
@[simp] theorem State.onSdr_wdr (s : State) (g : Sdr → Sdr) : (s.onSdr g).wdr = s.wdr := rfl
@[simp] theorem State.onSdr_mdw (s : State) (g : Sdr → Sdr) : (s.onSdr g).mdw = s.mdw := rfl
@[simp] theorem State.onSdr_fab (s : State) (g : Sdr → Sdr) : (s.onSdr g).fab = s.fab := rfl
@[simp] theorem State.onSdr_swl (s : State) (g : Sdr → Sdr) : (s.onSdr g).swl = s.swl := rfl
@[simp] theorem State.onSdr_lgt (s : State) (g : Sdr → Sdr) : (s.onSdr g).lgt = s.lgt := rfl
@[simp] theorem State.onSdr_spl (s : State) (g : Sdr → Sdr) : (s.onSdr g).spl = s.spl := rfl
@[simp] theorem State.onSdr_und (s : State) (g : Sdr → Sdr) : (s.onSdr g).und = s.und := rfl
@[simp] theorem State.onSdr_pbk (s : State) (g : Sdr → Sdr) : (s.onSdr g).pbk = s.pbk := rfl
@[simp] theorem State.onSdr_sdr (s : State) (g : Sdr → Sdr) : (s.onSdr g).sdr = g s.sdr := rfl
@[simp] theorem State.onSdr_ldg (s : State) (g : Sdr → Sdr) : (s.onSdr g).ldg = s.ldg := rfl
@[simp] theorem State.onSdr_flt (s : State) (g : Sdr → Sdr) : (s.onSdr g).flt = s.flt := rfl
@[simp] theorem State.onSdr_brd (s : State) (g : Sdr → Sdr) : (s.onSdr g).brd = s.brd := rfl
@[simp] theorem State.onSdr_out (s : State) (g : Sdr → Sdr) : (s.onSdr g).out = s.out := rfl
@[simp] theorem State.onSdr_st (s : State) (g : Sdr → Sdr) : (s.onSdr g).st = s.st := rfl
@[simp] theorem State.onSdr_freeCtr (s : State) (g : Sdr → Sdr) : (s.onSdr g).freeCtr = s.freeCtr := rfl
@[simp] theorem State.onSdr_pending (s : State) (g : Sdr → Sdr) : (s.onSdr g).pending = s.pending := rfl

/-! `onLdg` -/
@[simp] theorem State.onLdg_regs (s : State) (g : Ldg → Ldg) : (s.onLdg g).regs = s.regs := rfl
@[simp] theorem State.onLdg_hiu (s : State) (g : Ldg → Ldg) : (s.onLdg g).hiu = s.hiu := rfl
@[simp] theorem State.onLdg_box (s : State) (g : Ldg → Ldg) : (s.onLdg g).box = s.box := rfl
@[simp] theorem State.onLdg_stm (s : State) (g : Ldg → Ldg) : (s.onLdg g).stm = s.stm := rfl
@[simp] theorem State.onLdg_cue (s : State) (g : Ldg → Ldg) : (s.onLdg g).cue = s.cue := rfl
@[simp] theorem State.onLdg_ply (s : State) (g : Ldg → Ldg) : (s.onLdg g).ply = s.ply := rfl
@[simp] theorem State.onLdg_prm (s : State) (g : Ldg → Ldg) : (s.onLdg g).prm = s.prm := rfl
@[simp] theorem State.onLdg_grs (s : State) (g : Ldg → Ldg) : (s.onLdg g).grs = s.grs := rfl
@[simp] theorem State.onLdg_wdr (s : State) (g : Ldg → Ldg) : (s.onLdg g).wdr = s.wdr := rfl
@[simp] theorem State.onLdg_mdw (s : State) (g : Ldg → Ldg) : (s.onLdg g).mdw = s.mdw := rfl
@[simp] theorem State.onLdg_fab (s : State) (g : Ldg → Ldg) : (s.onLdg g).fab = s.fab := rfl
@[simp] theorem State.onLdg_swl (s : State) (g : Ldg → Ldg) : (s.onLdg g).swl = s.swl := rfl
@[simp] theorem State.onLdg_lgt (s : State) (g : Ldg → Ldg) : (s.onLdg g).lgt = s.lgt := rfl
@[simp] theorem State.onLdg_spl (s : State) (g : Ldg → Ldg) : (s.onLdg g).spl = s.spl := rfl
@[simp] theorem State.onLdg_und (s : State) (g : Ldg → Ldg) : (s.onLdg g).und = s.und := rfl
@[simp] theorem State.onLdg_pbk (s : State) (g : Ldg → Ldg) : (s.onLdg g).pbk = s.pbk := rfl
@[simp] theorem State.onLdg_sdr (s : State) (g : Ldg → Ldg) : (s.onLdg g).sdr = s.sdr := rfl
@[simp] theorem State.onLdg_ldg (s : State) (g : Ldg → Ldg) : (s.onLdg g).ldg = g s.ldg := rfl
@[simp] theorem State.onLdg_flt (s : State) (g : Ldg → Ldg) : (s.onLdg g).flt = s.flt := rfl
@[simp] theorem State.onLdg_brd (s : State) (g : Ldg → Ldg) : (s.onLdg g).brd = s.brd := rfl
@[simp] theorem State.onLdg_out (s : State) (g : Ldg → Ldg) : (s.onLdg g).out = s.out := rfl
@[simp] theorem State.onLdg_st (s : State) (g : Ldg → Ldg) : (s.onLdg g).st = s.st := rfl
@[simp] theorem State.onLdg_freeCtr (s : State) (g : Ldg → Ldg) : (s.onLdg g).freeCtr = s.freeCtr := rfl
@[simp] theorem State.onLdg_pending (s : State) (g : Ldg → Ldg) : (s.onLdg g).pending = s.pending := rfl

/-! `onFlt` -/
@[simp] theorem State.onFlt_regs (s : State) (g : Flt → Flt) : (s.onFlt g).regs = s.regs := rfl
@[simp] theorem State.onFlt_hiu (s : State) (g : Flt → Flt) : (s.onFlt g).hiu = s.hiu := rfl
@[simp] theorem State.onFlt_box (s : State) (g : Flt → Flt) : (s.onFlt g).box = s.box := rfl
@[simp] theorem State.onFlt_stm (s : State) (g : Flt → Flt) : (s.onFlt g).stm = s.stm := rfl
@[simp] theorem State.onFlt_cue (s : State) (g : Flt → Flt) : (s.onFlt g).cue = s.cue := rfl
@[simp] theorem State.onFlt_ply (s : State) (g : Flt → Flt) : (s.onFlt g).ply = s.ply := rfl
@[simp] theorem State.onFlt_prm (s : State) (g : Flt → Flt) : (s.onFlt g).prm = s.prm := rfl
@[simp] theorem State.onFlt_grs (s : State) (g : Flt → Flt) : (s.onFlt g).grs = s.grs := rfl
@[simp] theorem State.onFlt_wdr (s : State) (g : Flt → Flt) : (s.onFlt g).wdr = s.wdr := rfl
@[simp] theorem State.onFlt_mdw (s : State) (g : Flt → Flt) : (s.onFlt g).mdw = s.mdw := rfl
@[simp] theorem State.onFlt_fab (s : State) (g : Flt → Flt) : (s.onFlt g).fab = s.fab := rfl
@[simp] theorem State.onFlt_swl (s : State) (g : Flt → Flt) : (s.onFlt g).swl = s.swl := rfl
@[simp] theorem State.onFlt_lgt (s : State) (g : Flt → Flt) : (s.onFlt g).lgt = s.lgt := rfl
@[simp] theorem State.onFlt_spl (s : State) (g : Flt → Flt) : (s.onFlt g).spl = s.spl := rfl
@[simp] theorem State.onFlt_und (s : State) (g : Flt → Flt) : (s.onFlt g).und = s.und := rfl
@[simp] theorem State.onFlt_pbk (s : State) (g : Flt → Flt) : (s.onFlt g).pbk = s.pbk := rfl
@[simp] theorem State.onFlt_sdr (s : State) (g : Flt → Flt) : (s.onFlt g).sdr = s.sdr := rfl
@[simp] theorem State.onFlt_ldg (s : State) (g : Flt → Flt) : (s.onFlt g).ldg = s.ldg := rfl
@[simp] theorem State.onFlt_flt (s : State) (g : Flt → Flt) : (s.onFlt g).flt = g s.flt := rfl
@[simp] theorem State.onFlt_brd (s : State) (g : Flt → Flt) : (s.onFlt g).brd = s.brd := rfl
@[simp] theorem State.onFlt_out (s : State) (g : Flt → Flt) : (s.onFlt g).out = s.out := rfl
@[simp] theorem State.onFlt_st (s : State) (g : Flt → Flt) : (s.onFlt g).st = s.st := rfl
@[simp] theorem State.onFlt_freeCtr (s : State) (g : Flt → Flt) : (s.onFlt g).freeCtr = s.freeCtr := rfl
@[simp] theorem State.onFlt_pending (s : State) (g : Flt → Flt) : (s.onFlt g).pending = s.pending := rfl

/-! `onBrd` -/
@[simp] theorem State.onBrd_regs (s : State) (g : Brd → Brd) : (s.onBrd g).regs = s.regs := rfl
@[simp] theorem State.onBrd_hiu (s : State) (g : Brd → Brd) : (s.onBrd g).hiu = s.hiu := rfl
@[simp] theorem State.onBrd_box (s : State) (g : Brd → Brd) : (s.onBrd g).box = s.box := rfl
@[simp] theorem State.onBrd_stm (s : State) (g : Brd → Brd) : (s.onBrd g).stm = s.stm := rfl
@[simp] theorem State.onBrd_cue (s : State) (g : Brd → Brd) : (s.onBrd g).cue = s.cue := rfl
@[simp] theorem State.onBrd_ply (s : State) (g : Brd → Brd) : (s.onBrd g).ply = s.ply := rfl
@[simp] theorem State.onBrd_prm (s : State) (g : Brd → Brd) : (s.onBrd g).prm = s.prm := rfl
@[simp] theorem State.onBrd_grs (s : State) (g : Brd → Brd) : (s.onBrd g).grs = s.grs := rfl
@[simp] theorem State.onBrd_wdr (s : State) (g : Brd → Brd) : (s.onBrd g).wdr = s.wdr := rfl
@[simp] theorem State.onBrd_mdw (s : State) (g : Brd → Brd) : (s.onBrd g).mdw = s.mdw := rfl
@[simp] theorem State.onBrd_fab (s : State) (g : Brd → Brd) : (s.onBrd g).fab = s.fab := rfl
@[simp] theorem State.onBrd_swl (s : State) (g : Brd → Brd) : (s.onBrd g).swl = s.swl := rfl
@[simp] theorem State.onBrd_lgt (s : State) (g : Brd → Brd) : (s.onBrd g).lgt = s.lgt := rfl
@[simp] theorem State.onBrd_spl (s : State) (g : Brd → Brd) : (s.onBrd g).spl = s.spl := rfl
@[simp] theorem State.onBrd_und (s : State) (g : Brd → Brd) : (s.onBrd g).und = s.und := rfl
@[simp] theorem State.onBrd_pbk (s : State) (g : Brd → Brd) : (s.onBrd g).pbk = s.pbk := rfl
@[simp] theorem State.onBrd_sdr (s : State) (g : Brd → Brd) : (s.onBrd g).sdr = s.sdr := rfl
@[simp] theorem State.onBrd_ldg (s : State) (g : Brd → Brd) : (s.onBrd g).ldg = s.ldg := rfl
@[simp] theorem State.onBrd_flt (s : State) (g : Brd → Brd) : (s.onBrd g).flt = s.flt := rfl
@[simp] theorem State.onBrd_brd (s : State) (g : Brd → Brd) : (s.onBrd g).brd = g s.brd := rfl
@[simp] theorem State.onBrd_out (s : State) (g : Brd → Brd) : (s.onBrd g).out = s.out := rfl
@[simp] theorem State.onBrd_st (s : State) (g : Brd → Brd) : (s.onBrd g).st = s.st := rfl
@[simp] theorem State.onBrd_freeCtr (s : State) (g : Brd → Brd) : (s.onBrd g).freeCtr = s.freeCtr := rfl
@[simp] theorem State.onBrd_pending (s : State) (g : Brd → Brd) : (s.onBrd g).pending = s.pending := rfl

/-! `onOut` -/
@[simp] theorem State.onOut_regs (s : State) (g : Out → Out) : (s.onOut g).regs = s.regs := rfl
@[simp] theorem State.onOut_hiu (s : State) (g : Out → Out) : (s.onOut g).hiu = s.hiu := rfl
@[simp] theorem State.onOut_box (s : State) (g : Out → Out) : (s.onOut g).box = s.box := rfl
@[simp] theorem State.onOut_stm (s : State) (g : Out → Out) : (s.onOut g).stm = s.stm := rfl
@[simp] theorem State.onOut_cue (s : State) (g : Out → Out) : (s.onOut g).cue = s.cue := rfl
@[simp] theorem State.onOut_ply (s : State) (g : Out → Out) : (s.onOut g).ply = s.ply := rfl
@[simp] theorem State.onOut_prm (s : State) (g : Out → Out) : (s.onOut g).prm = s.prm := rfl
@[simp] theorem State.onOut_grs (s : State) (g : Out → Out) : (s.onOut g).grs = s.grs := rfl
@[simp] theorem State.onOut_wdr (s : State) (g : Out → Out) : (s.onOut g).wdr = s.wdr := rfl
@[simp] theorem State.onOut_mdw (s : State) (g : Out → Out) : (s.onOut g).mdw = s.mdw := rfl
@[simp] theorem State.onOut_fab (s : State) (g : Out → Out) : (s.onOut g).fab = s.fab := rfl
@[simp] theorem State.onOut_swl (s : State) (g : Out → Out) : (s.onOut g).swl = s.swl := rfl
@[simp] theorem State.onOut_lgt (s : State) (g : Out → Out) : (s.onOut g).lgt = s.lgt := rfl
@[simp] theorem State.onOut_spl (s : State) (g : Out → Out) : (s.onOut g).spl = s.spl := rfl
@[simp] theorem State.onOut_und (s : State) (g : Out → Out) : (s.onOut g).und = s.und := rfl
@[simp] theorem State.onOut_pbk (s : State) (g : Out → Out) : (s.onOut g).pbk = s.pbk := rfl
@[simp] theorem State.onOut_sdr (s : State) (g : Out → Out) : (s.onOut g).sdr = s.sdr := rfl
@[simp] theorem State.onOut_ldg (s : State) (g : Out → Out) : (s.onOut g).ldg = s.ldg := rfl
@[simp] theorem State.onOut_flt (s : State) (g : Out → Out) : (s.onOut g).flt = s.flt := rfl
@[simp] theorem State.onOut_brd (s : State) (g : Out → Out) : (s.onOut g).brd = s.brd := rfl
@[simp] theorem State.onOut_out (s : State) (g : Out → Out) : (s.onOut g).out = g s.out := rfl
@[simp] theorem State.onOut_st (s : State) (g : Out → Out) : (s.onOut g).st = s.st := rfl
@[simp] theorem State.onOut_freeCtr (s : State) (g : Out → Out) : (s.onOut g).freeCtr = s.freeCtr := rfl
@[simp] theorem State.onOut_pending (s : State) (g : Out → Out) : (s.onOut g).pending = s.pending := rfl

@[simp] theorem State.setSt_regs (s : State) (x : Nat) : (s.setSt x).regs = s.regs := rfl
@[simp] theorem State.setSt_hiu (s : State) (x : Nat) : (s.setSt x).hiu = s.hiu := rfl
@[simp] theorem State.setSt_box (s : State) (x : Nat) : (s.setSt x).box = s.box := rfl
@[simp] theorem State.setSt_stm (s : State) (x : Nat) : (s.setSt x).stm = s.stm := rfl
@[simp] theorem State.setSt_cue (s : State) (x : Nat) : (s.setSt x).cue = s.cue := rfl
@[simp] theorem State.setSt_ply (s : State) (x : Nat) : (s.setSt x).ply = s.ply := rfl
@[simp] theorem State.setSt_prm (s : State) (x : Nat) : (s.setSt x).prm = s.prm := rfl
@[simp] theorem State.setSt_grs (s : State) (x : Nat) : (s.setSt x).grs = s.grs := rfl
@[simp] theorem State.setSt_wdr (s : State) (x : Nat) : (s.setSt x).wdr = s.wdr := rfl
@[simp] theorem State.setSt_mdw (s : State) (x : Nat) : (s.setSt x).mdw = s.mdw := rfl
@[simp] theorem State.setSt_fab (s : State) (x : Nat) : (s.setSt x).fab = s.fab := rfl
@[simp] theorem State.setSt_swl (s : State) (x : Nat) : (s.setSt x).swl = s.swl := rfl
@[simp] theorem State.setSt_lgt (s : State) (x : Nat) : (s.setSt x).lgt = s.lgt := rfl
@[simp] theorem State.setSt_spl (s : State) (x : Nat) : (s.setSt x).spl = s.spl := rfl
@[simp] theorem State.setSt_und (s : State) (x : Nat) : (s.setSt x).und = s.und := rfl
@[simp] theorem State.setSt_pbk (s : State) (x : Nat) : (s.setSt x).pbk = s.pbk := rfl
@[simp] theorem State.setSt_sdr (s : State) (x : Nat) : (s.setSt x).sdr = s.sdr := rfl
@[simp] theorem State.setSt_ldg (s : State) (x : Nat) : (s.setSt x).ldg = s.ldg := rfl
@[simp] theorem State.setSt_flt (s : State) (x : Nat) : (s.setSt x).flt = s.flt := rfl
@[simp] theorem State.setSt_brd (s : State) (x : Nat) : (s.setSt x).brd = s.brd := rfl
@[simp] theorem State.setSt_out (s : State) (x : Nat) : (s.setSt x).out = s.out := rfl
@[simp] theorem State.setSt_st (s : State) (x : Nat) : (s.setSt x).st = x := rfl
@[simp] theorem State.setSt_freeCtr (s : State) (x : Nat) : (s.setSt x).freeCtr = s.freeCtr := rfl
@[simp] theorem State.setSt_pending (s : State) (x : Nat) : (s.setSt x).pending = s.pending := rfl

@[simp] theorem State.setFree_regs (s : State) (x : Nat) : (s.setFree x).regs = s.regs := rfl
@[simp] theorem State.setFree_hiu (s : State) (x : Nat) : (s.setFree x).hiu = s.hiu := rfl
@[simp] theorem State.setFree_box (s : State) (x : Nat) : (s.setFree x).box = s.box := rfl
@[simp] theorem State.setFree_stm (s : State) (x : Nat) : (s.setFree x).stm = s.stm := rfl
@[simp] theorem State.setFree_cue (s : State) (x : Nat) : (s.setFree x).cue = s.cue := rfl
@[simp] theorem State.setFree_ply (s : State) (x : Nat) : (s.setFree x).ply = s.ply := rfl
@[simp] theorem State.setFree_prm (s : State) (x : Nat) : (s.setFree x).prm = s.prm := rfl
@[simp] theorem State.setFree_grs (s : State) (x : Nat) : (s.setFree x).grs = s.grs := rfl
@[simp] theorem State.setFree_wdr (s : State) (x : Nat) : (s.setFree x).wdr = s.wdr := rfl
@[simp] theorem State.setFree_mdw (s : State) (x : Nat) : (s.setFree x).mdw = s.mdw := rfl
@[simp] theorem State.setFree_fab (s : State) (x : Nat) : (s.setFree x).fab = s.fab := rfl
@[simp] theorem State.setFree_swl (s : State) (x : Nat) : (s.setFree x).swl = s.swl := rfl
@[simp] theorem State.setFree_lgt (s : State) (x : Nat) : (s.setFree x).lgt = s.lgt := rfl
@[simp] theorem State.setFree_spl (s : State) (x : Nat) : (s.setFree x).spl = s.spl := rfl
@[simp] theorem State.setFree_und (s : State) (x : Nat) : (s.setFree x).und = s.und := rfl
@[simp] theorem State.setFree_pbk (s : State) (x : Nat) : (s.setFree x).pbk = s.pbk := rfl
@[simp] theorem State.setFree_sdr (s : State) (x : Nat) : (s.setFree x).sdr = s.sdr := rfl
@[simp] theorem State.setFree_ldg (s : State) (x : Nat) : (s.setFree x).ldg = s.ldg := rfl
@[simp] theorem State.setFree_flt (s : State) (x : Nat) : (s.setFree x).flt = s.flt := rfl
@[simp] theorem State.setFree_brd (s : State) (x : Nat) : (s.setFree x).brd = s.brd := rfl
@[simp] theorem State.setFree_out (s : State) (x : Nat) : (s.setFree x).out = s.out := rfl
@[simp] theorem State.setFree_st (s : State) (x : Nat) : (s.setFree x).st = s.st := rfl
@[simp] theorem State.setFree_freeCtr (s : State) (x : Nat) : (s.setFree x).freeCtr = x := rfl
@[simp] theorem State.setFree_pending (s : State) (x : Nat) : (s.setFree x).pending = s.pending := rfl

@[simp] theorem State.setPending_regs (s : State) (x : List Instr) : (s.setPending x).regs = s.regs := rfl
@[simp] theorem State.setPending_hiu (s : State) (x : List Instr) : (s.setPending x).hiu = s.hiu := rfl
@[simp] theorem State.setPending_box (s : State) (x : List Instr) : (s.setPending x).box = s.box := rfl
@[simp] theorem State.setPending_stm (s : State) (x : List Instr) : (s.setPending x).stm = s.stm := rfl
@[simp] theorem State.setPending_cue (s : State) (x : List Instr) : (s.setPending x).cue = s.cue := rfl
@[simp] theorem State.setPending_ply (s : State) (x : List Instr) : (s.setPending x).ply = s.ply := rfl
@[simp] theorem State.setPending_prm (s : State) (x : List Instr) : (s.setPending x).prm = s.prm := rfl
@[simp] theorem State.setPending_grs (s : State) (x : List Instr) : (s.setPending x).grs = s.grs := rfl
@[simp] theorem State.setPending_wdr (s : State) (x : List Instr) : (s.setPending x).wdr = s.wdr := rfl
@[simp] theorem State.setPending_mdw (s : State) (x : List Instr) : (s.setPending x).mdw = s.mdw := rfl
@[simp] theorem State.setPending_fab (s : State) (x : List Instr) : (s.setPending x).fab = s.fab := rfl
@[simp] theorem State.setPending_swl (s : State) (x : List Instr) : (s.setPending x).swl = s.swl := rfl
@[simp] theorem State.setPending_lgt (s : State) (x : List Instr) : (s.setPending x).lgt = s.lgt := rfl
@[simp] theorem State.setPending_spl (s : State) (x : List Instr) : (s.setPending x).spl = s.spl := rfl
@[simp] theorem State.setPending_und (s : State) (x : List Instr) : (s.setPending x).und = s.und := rfl
@[simp] theorem State.setPending_pbk (s : State) (x : List Instr) : (s.setPending x).pbk = s.pbk := rfl
@[simp] theorem State.setPending_sdr (s : State) (x : List Instr) : (s.setPending x).sdr = s.sdr := rfl
@[simp] theorem State.setPending_ldg (s : State) (x : List Instr) : (s.setPending x).ldg = s.ldg := rfl
@[simp] theorem State.setPending_flt (s : State) (x : List Instr) : (s.setPending x).flt = s.flt := rfl
@[simp] theorem State.setPending_brd (s : State) (x : List Instr) : (s.setPending x).brd = s.brd := rfl
@[simp] theorem State.setPending_out (s : State) (x : List Instr) : (s.setPending x).out = s.out := rfl
@[simp] theorem State.setPending_st (s : State) (x : List Instr) : (s.setPending x).st = s.st := rfl
@[simp] theorem State.setPending_freeCtr (s : State) (x : List Instr) : (s.setPending x).freeCtr = s.freeCtr := rfl
@[simp] theorem State.setPending_pending (s : State) (x : List Instr) : (s.setPending x).pending = x := rfl

end Sys2Proof.Machine
end

