-- ==== Sys2Proof/Laws/Regs.lean ====
section
/-!
SUPPORT. What the register operations `set`, `setA`, `inc` and the free counter leave alone.
-/
namespace Sys2Proof.Machine

@[simp] theorem set_hiu (s : State) (f : Fld) (v : Nat) : (set s f v).hiu = s.hiu := rfl
@[simp] theorem set_box (s : State) (f : Fld) (v : Nat) : (set s f v).box = s.box := rfl
@[simp] theorem set_stm (s : State) (f : Fld) (v : Nat) : (set s f v).stm = s.stm := rfl
@[simp] theorem set_cue (s : State) (f : Fld) (v : Nat) : (set s f v).cue = s.cue := rfl
@[simp] theorem set_ply (s : State) (f : Fld) (v : Nat) : (set s f v).ply = s.ply := rfl
@[simp] theorem set_prm (s : State) (f : Fld) (v : Nat) : (set s f v).prm = s.prm := rfl
@[simp] theorem set_grs (s : State) (f : Fld) (v : Nat) : (set s f v).grs = s.grs := rfl
@[simp] theorem set_wdr (s : State) (f : Fld) (v : Nat) : (set s f v).wdr = s.wdr := rfl
@[simp] theorem set_mdw (s : State) (f : Fld) (v : Nat) : (set s f v).mdw = s.mdw := rfl
@[simp] theorem set_fab (s : State) (f : Fld) (v : Nat) : (set s f v).fab = s.fab := rfl
@[simp] theorem set_swl (s : State) (f : Fld) (v : Nat) : (set s f v).swl = s.swl := rfl
@[simp] theorem set_lgt (s : State) (f : Fld) (v : Nat) : (set s f v).lgt = s.lgt := rfl
@[simp] theorem set_spl (s : State) (f : Fld) (v : Nat) : (set s f v).spl = s.spl := rfl
@[simp] theorem set_und (s : State) (f : Fld) (v : Nat) : (set s f v).und = s.und := rfl
@[simp] theorem set_pbk (s : State) (f : Fld) (v : Nat) : (set s f v).pbk = s.pbk := rfl
@[simp] theorem set_sdr (s : State) (f : Fld) (v : Nat) : (set s f v).sdr = s.sdr := rfl
@[simp] theorem set_ldg (s : State) (f : Fld) (v : Nat) : (set s f v).ldg = s.ldg := rfl
@[simp] theorem set_flt (s : State) (f : Fld) (v : Nat) : (set s f v).flt = s.flt := rfl
@[simp] theorem set_brd (s : State) (f : Fld) (v : Nat) : (set s f v).brd = s.brd := rfl
@[simp] theorem set_out (s : State) (f : Fld) (v : Nat) : (set s f v).out = s.out := rfl
@[simp] theorem set_st (s : State) (f : Fld) (v : Nat) : (set s f v).st = s.st := rfl
@[simp] theorem set_freeCtr (s : State) (f : Fld) (v : Nat) : (set s f v).freeCtr = s.freeCtr := rfl
@[simp] theorem set_pending (s : State) (f : Fld) (v : Nat) : (set s f v).pending = s.pending := rfl

@[simp] theorem setA_hiu (s : State) (f : Fld) (v : Nat) : (setA s f v).hiu = s.hiu := rfl
@[simp] theorem setA_box (s : State) (f : Fld) (v : Nat) : (setA s f v).box = s.box := rfl
@[simp] theorem setA_stm (s : State) (f : Fld) (v : Nat) : (setA s f v).stm = s.stm := rfl
@[simp] theorem setA_cue (s : State) (f : Fld) (v : Nat) : (setA s f v).cue = s.cue := rfl
@[simp] theorem setA_ply (s : State) (f : Fld) (v : Nat) : (setA s f v).ply = s.ply := rfl
@[simp] theorem setA_prm (s : State) (f : Fld) (v : Nat) : (setA s f v).prm = s.prm := rfl
@[simp] theorem setA_grs (s : State) (f : Fld) (v : Nat) : (setA s f v).grs = s.grs := rfl
@[simp] theorem setA_wdr (s : State) (f : Fld) (v : Nat) : (setA s f v).wdr = s.wdr := rfl
@[simp] theorem setA_mdw (s : State) (f : Fld) (v : Nat) : (setA s f v).mdw = s.mdw := rfl
@[simp] theorem setA_fab (s : State) (f : Fld) (v : Nat) : (setA s f v).fab = s.fab := rfl
@[simp] theorem setA_swl (s : State) (f : Fld) (v : Nat) : (setA s f v).swl = s.swl := rfl
@[simp] theorem setA_lgt (s : State) (f : Fld) (v : Nat) : (setA s f v).lgt = s.lgt := rfl
@[simp] theorem setA_spl (s : State) (f : Fld) (v : Nat) : (setA s f v).spl = s.spl := rfl
@[simp] theorem setA_und (s : State) (f : Fld) (v : Nat) : (setA s f v).und = s.und := rfl
@[simp] theorem setA_pbk (s : State) (f : Fld) (v : Nat) : (setA s f v).pbk = s.pbk := rfl
@[simp] theorem setA_sdr (s : State) (f : Fld) (v : Nat) : (setA s f v).sdr = s.sdr := rfl
@[simp] theorem setA_ldg (s : State) (f : Fld) (v : Nat) : (setA s f v).ldg = s.ldg := rfl
@[simp] theorem setA_flt (s : State) (f : Fld) (v : Nat) : (setA s f v).flt = s.flt := rfl
@[simp] theorem setA_brd (s : State) (f : Fld) (v : Nat) : (setA s f v).brd = s.brd := rfl
@[simp] theorem setA_out (s : State) (f : Fld) (v : Nat) : (setA s f v).out = s.out := rfl
@[simp] theorem setA_st (s : State) (f : Fld) (v : Nat) : (setA s f v).st = s.st := rfl
@[simp] theorem setA_freeCtr (s : State) (f : Fld) (v : Nat) : (setA s f v).freeCtr = s.freeCtr := rfl
@[simp] theorem setA_pending (s : State) (f : Fld) (v : Nat) : (setA s f v).pending = s.pending := rfl

@[simp] theorem inc_hiu (s : State) (f : Fld) (k : Nat) : (inc s f k).hiu = s.hiu := rfl
@[simp] theorem inc_box (s : State) (f : Fld) (k : Nat) : (inc s f k).box = s.box := rfl
@[simp] theorem inc_stm (s : State) (f : Fld) (k : Nat) : (inc s f k).stm = s.stm := rfl
@[simp] theorem inc_cue (s : State) (f : Fld) (k : Nat) : (inc s f k).cue = s.cue := rfl
@[simp] theorem inc_ply (s : State) (f : Fld) (k : Nat) : (inc s f k).ply = s.ply := rfl
@[simp] theorem inc_prm (s : State) (f : Fld) (k : Nat) : (inc s f k).prm = s.prm := rfl
@[simp] theorem inc_grs (s : State) (f : Fld) (k : Nat) : (inc s f k).grs = s.grs := rfl
@[simp] theorem inc_wdr (s : State) (f : Fld) (k : Nat) : (inc s f k).wdr = s.wdr := rfl
@[simp] theorem inc_mdw (s : State) (f : Fld) (k : Nat) : (inc s f k).mdw = s.mdw := rfl
@[simp] theorem inc_fab (s : State) (f : Fld) (k : Nat) : (inc s f k).fab = s.fab := rfl
@[simp] theorem inc_swl (s : State) (f : Fld) (k : Nat) : (inc s f k).swl = s.swl := rfl
@[simp] theorem inc_lgt (s : State) (f : Fld) (k : Nat) : (inc s f k).lgt = s.lgt := rfl
@[simp] theorem inc_spl (s : State) (f : Fld) (k : Nat) : (inc s f k).spl = s.spl := rfl
@[simp] theorem inc_und (s : State) (f : Fld) (k : Nat) : (inc s f k).und = s.und := rfl
@[simp] theorem inc_pbk (s : State) (f : Fld) (k : Nat) : (inc s f k).pbk = s.pbk := rfl
@[simp] theorem inc_sdr (s : State) (f : Fld) (k : Nat) : (inc s f k).sdr = s.sdr := rfl
@[simp] theorem inc_ldg (s : State) (f : Fld) (k : Nat) : (inc s f k).ldg = s.ldg := rfl
@[simp] theorem inc_flt (s : State) (f : Fld) (k : Nat) : (inc s f k).flt = s.flt := rfl
@[simp] theorem inc_brd (s : State) (f : Fld) (k : Nat) : (inc s f k).brd = s.brd := rfl
@[simp] theorem inc_out (s : State) (f : Fld) (k : Nat) : (inc s f k).out = s.out := rfl
@[simp] theorem inc_st (s : State) (f : Fld) (k : Nat) : (inc s f k).st = s.st := rfl
@[simp] theorem inc_freeCtr (s : State) (f : Fld) (k : Nat) : (inc s f k).freeCtr = s.freeCtr := rfl
@[simp] theorem inc_pending (s : State) (f : Fld) (k : Nat) : (inc s f k).pending = s.pending := rfl

@[simp] theorem advance_regs (s : State) : (advance s).regs = s.regs := rfl
@[simp] theorem advance_hiu (s : State) : (advance s).hiu = s.hiu := rfl
@[simp] theorem advance_box (s : State) : (advance s).box = s.box := rfl
@[simp] theorem advance_stm (s : State) : (advance s).stm = s.stm := rfl
@[simp] theorem advance_cue (s : State) : (advance s).cue = s.cue := rfl
@[simp] theorem advance_ply (s : State) : (advance s).ply = s.ply := rfl
@[simp] theorem advance_prm (s : State) : (advance s).prm = s.prm := rfl
@[simp] theorem advance_grs (s : State) : (advance s).grs = s.grs := rfl
@[simp] theorem advance_wdr (s : State) : (advance s).wdr = s.wdr := rfl
@[simp] theorem advance_mdw (s : State) : (advance s).mdw = s.mdw := rfl
@[simp] theorem advance_fab (s : State) : (advance s).fab = s.fab := rfl
@[simp] theorem advance_swl (s : State) : (advance s).swl = s.swl := rfl
@[simp] theorem advance_lgt (s : State) : (advance s).lgt = s.lgt := rfl
@[simp] theorem advance_spl (s : State) : (advance s).spl = s.spl := rfl
@[simp] theorem advance_und (s : State) : (advance s).und = s.und := rfl
@[simp] theorem advance_pbk (s : State) : (advance s).pbk = s.pbk := rfl
@[simp] theorem advance_sdr (s : State) : (advance s).sdr = s.sdr := rfl
@[simp] theorem advance_ldg (s : State) : (advance s).ldg = s.ldg := rfl
@[simp] theorem advance_flt (s : State) : (advance s).flt = s.flt := rfl
@[simp] theorem advance_brd (s : State) : (advance s).brd = s.brd := rfl
@[simp] theorem advance_out (s : State) : (advance s).out = s.out := rfl
@[simp] theorem advance_st (s : State) : (advance s).st = s.st := rfl
@[simp] theorem advance_freeCtr (s : State) : (advance s).freeCtr = s.freeCtr + 1 := rfl
@[simp] theorem advance_pending (s : State) : (advance s).pending = s.pending := rfl

end Sys2Proof.Machine
end

