-- ==== Sys2Proof/Laws/Memory.lean ====
section
/-!
SUPPORT. Memory: a read after a write, the bytes a write leaves alone, and the canonical form kept by every operation on it.
-/
namespace Sys2Proof.Machine

theorem readByte_writeByte_same (s : State) (a : Nat) (b : Byte) : readByte (writeByte s a b) a = b := by
  simp [readByte, writeByte, State.onMdw, AMap.getD_setD_same]

theorem readByte_writeByte_other (s : State) (a j : Nat) (b : Byte) (h : j ≠ a) :
    readByte (writeByte s a b) j = readByte s j := by
  simp [readByte, writeByte, State.onMdw, AMap.getD_setD_other _ _ _ _ _ _ h]

/-- A run of bytes written at `a` leaves every byte outside it alone. -/
theorem readByte_writeBytes_other (s : State) (a j : Nat) (bs : List Byte) (h : j < a ∨ a + bs.length ≤ j) :
    readByte (writeBytes s a bs) j = readByte s j := by
  induction bs generalizing s a with
  | nil => rfl
  | cons b r ih =>
    simp only [List.length_cons] at h
    rw [writeBytes, ih _ _ (by omega), readByte_writeByte_other _ _ _ _ (by omega)]

/-- The bytes written are the ones read. -/
theorem readByte_writeBytes_same (s : State) (a i : Nat) (bs : List Byte) (h : i < bs.length) :
    readByte (writeBytes s a bs) (a + i) = bs[i] := by
  induction bs generalizing s a i with
  | nil => simp at h
  | cons b r ih =>
    rw [writeBytes]
    cases i with
    | zero =>
      rw [readByte_writeBytes_other _ _ _ _ (by omega)]
      exact readByte_writeByte_same s a b
    | succ i =>
      have h' : i < r.length := by simpa using h
      rw [show a + (i + 1) = a + 1 + i by omega, ih _ _ _ h']
      rfl

theorem leBytes_length (n v : Nat) : (leBytes n v).length = n := by
  induction n generalizing v with
  | zero => rfl
  | succ n ih => simp [leBytes, ih]

theorem readByte_writeLe_other (s : State) (a n v j : Nat) (h : j < a ∨ a + n ≤ j) :
    readByte (writeLe s a n v) j = readByte s j :=
  readByte_writeBytes_other s a j _ (by rw [leBytes_length]; exact h)

theorem readByte_set (s : State) (f : Fld) (v a : Nat) : readByte (set s f v) a = readByte s a := rfl

theorem wf_writeByte (s : State) (a : Nat) (b : Byte) (h : Memory.wf s.mdw.mem = true) :
    Memory.wf (writeByte s a b).mdw.mem = true := AMap.wf_setD (V := Byte) _ _ _ _ h

theorem wf_clearRange (s : State) (a n : Nat) (h : Memory.wf s.mdw.mem = true) :
    Memory.wf (clearRange s a n).mdw.mem = true := AMap.wf_filter (V := Byte) _ _ _ h

theorem readByte_congr {s t : State} (h : t.mdw.mem = s.mdw.mem) (a : Nat) : readByte t a = readByte s a := by
  unfold readByte
  rw [h]

theorem readByte_clearRange_in (s : State) (a n j : Nat) (h : a ≤ j) (k : j < a + n) : readByte (clearRange s a n) j = 0 := by
  unfold readByte clearRange AMap.getD
  simp only [State.onMdw_mdw]
  rw [AMap.get?_filter (V := Byte) _ (fun c => !(decide (a ≤ c) && decide (c < a + n)))]
  simp only [h, k, decide_true, Bool.and_self, Bool.not_true, Bool.false_eq_true, if_false, Option.getD_none]

theorem readByte_clearRange_out (s : State) (a n j : Nat) (h : j < a ∨ a + n ≤ j) :
    readByte (clearRange s a n) j = readByte s j := by
  have k : (!(decide (a ≤ j) && decide (j < a + n))) = true := by
    simp only [Bool.not_eq_true', Bool.and_eq_false_iff, decide_eq_false_iff_not]
    omega
  unfold readByte clearRange AMap.getD
  simp only [State.onMdw_mdw]
  rw [AMap.get?_filter (V := Byte) _ (fun c => !(decide (a ≤ c) && decide (c < a + n)))]
  simp only [k, if_true]

end Sys2Proof.Machine
end

