-- ==== Sys2Proof/Laws/Foot.lean ====
section
/-!
SUPPORT. Footprints. `Fp w s t` says that `t` came from `s` by operations that touch only the parts of the state whose bit is
set in `w`, and that what no operation ever breaks still holds: the queue is untouched, free values are never drawn again, memory
keeps its canonical form, the device keeps its Players and links, the rollback floor never falls and no revocation is undone.
The files beside this one give the footprint of every operation, one lemma each.
-/
namespace Sys2Proof.Machine

/-- Bits: the fields of State in their order (0 to 21), 22 the bytes of memory, 23 the cue in progress. -/
structure Fp (w : Nat) (s t : State) : Prop where
  pending : t.pending = s.pending
  free : s.freeCtr ≤ t.freeCtr
  wf : Memory.wf s.mdw.mem = true → Memory.wf t.mdw.mem = true
  players : s.ply.length = 96 → t.ply.length = 96
  nlinks : s.fab.links.length = 12 → t.fab.links.length = 12
  floor : s.sdr.floor ≤ t.sdr.floor
  revoked : ∀ k ∈ s.sdr.revoked, k ∈ t.sdr.revoked
  regs : w.testBit 0 = false → t.regs = s.regs
  hiu : w.testBit 1 = false → t.hiu = s.hiu
  box : w.testBit 2 = false → t.box = s.box
  stm : w.testBit 3 = false → t.stm = s.stm
  cue : w.testBit 4 = false → t.cue = s.cue
  ply : w.testBit 5 = false → t.ply = s.ply
  prm : w.testBit 6 = false → t.prm = s.prm
  grs : w.testBit 7 = false → t.grs = s.grs
  wdr : w.testBit 8 = false → t.wdr = s.wdr
  mdw : w.testBit 9 = false → t.mdw = s.mdw
  fab : w.testBit 10 = false → t.fab = s.fab
  swl : w.testBit 11 = false → t.swl = s.swl
  lgt : w.testBit 12 = false → t.lgt = s.lgt
  spl : w.testBit 13 = false → t.spl = s.spl
  und : w.testBit 14 = false → t.und = s.und
  pbk : w.testBit 15 = false → t.pbk = s.pbk
  sdr : w.testBit 16 = false → t.sdr = s.sdr
  ldg : w.testBit 17 = false → t.ldg = s.ldg
  flt : w.testBit 18 = false → t.flt = s.flt
  brd : w.testBit 19 = false → t.brd = s.brd
  out : w.testBit 20 = false → t.out = s.out
  st : w.testBit 21 = false → t.st = s.st
  mem : w.testBit 22 = false → t.mdw.mem = s.mdw.mem
  cueNo : w.testBit 23 = false → t.cue.num = s.cue.num ∧ t.cue.launched = s.cue.launched

theorem Fp.refl (w : Nat) (s : State) : Fp w s s :=
  ⟨rfl, le_refl _, id, id, id, le_refl _, fun _ h => h, fun _ => rfl, fun _ => rfl, fun _ => rfl, fun _ => rfl, fun _ => rfl, fun _ => rfl, fun _ => rfl, fun _ => rfl, fun _ => rfl, fun _ => rfl, fun _ => rfl, fun _ => rfl, fun _ => rfl, fun _ => rfl, fun _ => rfl, fun _ => rfl, fun _ => rfl, fun _ => rfl, fun _ => rfl, fun _ => rfl, fun _ => rfl, fun _ => rfl, fun _ => rfl, fun _ => ⟨rfl, rfl⟩⟩

theorem Fp.trans {w : Nat} {s t u : State} (h : Fp w s t) (k : Fp w t u) : Fp w s u :=
  ⟨k.pending.trans h.pending, h.free.trans k.free, fun x => k.wf (h.wf x), fun x => k.players (h.players x),
    fun x => k.nlinks (h.nlinks x), h.floor.trans k.floor, fun x y => k.revoked x (h.revoked x y),
    fun b => (k.regs b).trans (h.regs b),
    fun b => (k.hiu b).trans (h.hiu b),
    fun b => (k.box b).trans (h.box b),
    fun b => (k.stm b).trans (h.stm b),
    fun b => (k.cue b).trans (h.cue b),
    fun b => (k.ply b).trans (h.ply b),
    fun b => (k.prm b).trans (h.prm b),
    fun b => (k.grs b).trans (h.grs b),
    fun b => (k.wdr b).trans (h.wdr b),
    fun b => (k.mdw b).trans (h.mdw b),
    fun b => (k.fab b).trans (h.fab b),
    fun b => (k.swl b).trans (h.swl b),
    fun b => (k.lgt b).trans (h.lgt b),
    fun b => (k.spl b).trans (h.spl b),
    fun b => (k.und b).trans (h.und b),
    fun b => (k.pbk b).trans (h.pbk b),
    fun b => (k.sdr b).trans (h.sdr b),
    fun b => (k.ldg b).trans (h.ldg b),
    fun b => (k.flt b).trans (h.flt b),
    fun b => (k.brd b).trans (h.brd b),
    fun b => (k.out b).trans (h.out b),
    fun b => (k.st b).trans (h.st b),
    fun b => (k.mem b).trans (h.mem b),
    fun b => ⟨(k.cueNo b).1.trans (h.cueNo b).1, (k.cueNo b).2.trans (h.cueNo b).2⟩⟩

theorem bitOf {W w : Nat} (hw : W &&& w = W) (i : Nat) (h : W.testBit i = true) : w.testBit i = true := by
  rw [← hw, Nat.testBit_and] at h
  simp_all

theorem maskOf {W w V : Nat} (hw : W &&& w = W) (h : V &&& W = V) : V &&& w = V := by
  rw [← h, Nat.and_assoc, hw]

/-- A smaller footprint is a footprint. -/
theorem Fp.mono {V w : Nat} {s t : State} (h : Fp V s t) (hw : V &&& w = V) : Fp w s t := by
  have hb (i : Nat) (hi : w.testBit i = false) : V.testBit i = false := by
    rw [← hw, Nat.testBit_and, hi, Bool.and_false]
  exact ⟨h.pending, h.free, h.wf, h.players, h.nlinks, h.floor, h.revoked,
    fun b => h.regs (hb _ b),
    fun b => h.hiu (hb _ b),
    fun b => h.box (hb _ b),
    fun b => h.stm (hb _ b),
    fun b => h.cue (hb _ b),
    fun b => h.ply (hb _ b),
    fun b => h.prm (hb _ b),
    fun b => h.grs (hb _ b),
    fun b => h.wdr (hb _ b),
    fun b => h.mdw (hb _ b),
    fun b => h.fab (hb _ b),
    fun b => h.swl (hb _ b),
    fun b => h.lgt (hb _ b),
    fun b => h.spl (hb _ b),
    fun b => h.und (hb _ b),
    fun b => h.pbk (hb _ b),
    fun b => h.sdr (hb _ b),
    fun b => h.ldg (hb _ b),
    fun b => h.flt (hb _ b),
    fun b => h.brd (hb _ b),
    fun b => h.out (hb _ b),
    fun b => h.st (hb _ b),
    fun b => h.mem (hb _ b),
    fun b => h.cueNo (hb _ b)⟩

theorem onRegs_fp {w : Nat} {s0 : State} (hb : w.testBit 0 = true) (s : State) (g : Regs → Regs) (h : Fp w s0 s) :
    Fp w s0 (s.onRegs g) :=
  h.trans ⟨rfl, le_refl _, id, id, id, le_refl _, fun _ x => x,
    fun b => absurd (hb.symm.trans b) (by decide), fun _ => rfl, fun _ => rfl, fun _ => rfl, fun _ => rfl, fun _ => rfl, fun _ => rfl, fun _ => rfl, fun _ => rfl, fun _ => rfl, fun _ => rfl, fun _ => rfl, fun _ => rfl, fun _ => rfl, fun _ => rfl, fun _ => rfl, fun _ => rfl, fun _ => rfl, fun _ => rfl, fun _ => rfl, fun _ => rfl, fun _ => rfl, fun _ => rfl, fun _ => ⟨rfl, rfl⟩⟩

theorem onHiu_fp {w : Nat} {s0 : State} (hb : w.testBit 1 = true) (s : State) (g : Hiu → Hiu) (h : Fp w s0 s) :
    Fp w s0 (s.onHiu g) :=
  h.trans ⟨rfl, le_refl _, id, id, id, le_refl _, fun _ x => x,
    fun _ => rfl, fun b => absurd (hb.symm.trans b) (by decide), fun _ => rfl, fun _ => rfl, fun _ => rfl, fun _ => rfl, fun _ => rfl, fun _ => rfl, fun _ => rfl, fun _ => rfl, fun _ => rfl, fun _ => rfl, fun _ => rfl, fun _ => rfl, fun _ => rfl, fun _ => rfl, fun _ => rfl, fun _ => rfl, fun _ => rfl, fun _ => rfl, fun _ => rfl, fun _ => rfl, fun _ => rfl, fun _ => ⟨rfl, rfl⟩⟩

theorem onBox_fp {w : Nat} {s0 : State} (hb : w.testBit 2 = true) (s : State) (g : Box → Box) (h : Fp w s0 s) :
    Fp w s0 (s.onBox g) :=
  h.trans ⟨rfl, le_refl _, id, id, id, le_refl _, fun _ x => x,
    fun _ => rfl, fun _ => rfl, fun b => absurd (hb.symm.trans b) (by decide), fun _ => rfl, fun _ => rfl, fun _ => rfl, fun _ => rfl, fun _ => rfl, fun _ => rfl, fun _ => rfl, fun _ => rfl, fun _ => rfl, fun _ => rfl, fun _ => rfl, fun _ => rfl, fun _ => rfl, fun _ => rfl, fun _ => rfl, fun _ => rfl, fun _ => rfl, fun _ => rfl, fun _ => rfl, fun _ => rfl, fun _ => ⟨rfl, rfl⟩⟩

theorem onStm_fp {w : Nat} {s0 : State} (hb : w.testBit 3 = true) (s : State) (g : Stm → Stm) (h : Fp w s0 s) :
    Fp w s0 (s.onStm g) :=
  h.trans ⟨rfl, le_refl _, id, id, id, le_refl _, fun _ x => x,
    fun _ => rfl, fun _ => rfl, fun _ => rfl, fun b => absurd (hb.symm.trans b) (by decide), fun _ => rfl, fun _ => rfl, fun _ => rfl, fun _ => rfl, fun _ => rfl, fun _ => rfl, fun _ => rfl, fun _ => rfl, fun _ => rfl, fun _ => rfl, fun _ => rfl, fun _ => rfl, fun _ => rfl, fun _ => rfl, fun _ => rfl, fun _ => rfl, fun _ => rfl, fun _ => rfl, fun _ => rfl, fun _ => ⟨rfl, rfl⟩⟩

theorem onCue_fp {w : Nat} {s0 : State} (hb : w.testBit 4 = true) (s : State) (g : Cue → Cue) (hn : (g s.cue).num = s.cue.num) (hl : (g s.cue).launched = s.cue.launched) (h : Fp w s0 s) :
    Fp w s0 (s.onCue g) :=
  h.trans ⟨rfl, le_refl _, id, id, id, le_refl _, fun _ x => x,
    fun _ => rfl, fun _ => rfl, fun _ => rfl, fun _ => rfl, fun b => absurd (hb.symm.trans b) (by decide), fun _ => rfl, fun _ => rfl, fun _ => rfl, fun _ => rfl, fun _ => rfl, fun _ => rfl, fun _ => rfl, fun _ => rfl, fun _ => rfl, fun _ => rfl, fun _ => rfl, fun _ => rfl, fun _ => rfl, fun _ => rfl, fun _ => rfl, fun _ => rfl, fun _ => rfl, fun _ => rfl, fun _ => ⟨hn, hl⟩⟩

/-- An update of the cue clock that begins a cue. -/
theorem onCueNum_fp {w : Nat} {s0 : State} (hb : w.testBit 4 = true) (hn : w.testBit 23 = true) (s : State) (g : Cue → Cue)
    (h : Fp w s0 s) : Fp w s0 (s.onCue g) :=
  h.trans ⟨rfl, le_refl _, id, id, id, le_refl _, fun _ x => x,
    fun _ => rfl, fun _ => rfl, fun _ => rfl, fun _ => rfl, fun b => absurd (hb.symm.trans b) (by decide), fun _ => rfl, fun _ => rfl, fun _ => rfl, fun _ => rfl, fun _ => rfl, fun _ => rfl, fun _ => rfl, fun _ => rfl, fun _ => rfl, fun _ => rfl, fun _ => rfl, fun _ => rfl, fun _ => rfl, fun _ => rfl, fun _ => rfl, fun _ => rfl, fun _ => rfl, fun _ => rfl, fun b => absurd (hn.symm.trans b) (by decide)⟩

theorem onPly_fp {w : Nat} {s0 : State} (hb : w.testBit 5 = true) (s : State) (g : List Player → List Player) (hm : (g s.ply).length = s.ply.length) (h : Fp w s0 s) :
    Fp w s0 (s.onPly g) :=
  h.trans ⟨rfl, le_refl _, id, fun x => by simpa [hm] using x, id, le_refl _, fun _ x => x,
    fun _ => rfl, fun _ => rfl, fun _ => rfl, fun _ => rfl, fun _ => rfl, fun b => absurd (hb.symm.trans b) (by decide), fun _ => rfl, fun _ => rfl, fun _ => rfl, fun _ => rfl, fun _ => rfl, fun _ => rfl, fun _ => rfl, fun _ => rfl, fun _ => rfl, fun _ => rfl, fun _ => rfl, fun _ => rfl, fun _ => rfl, fun _ => rfl, fun _ => rfl, fun _ => rfl, fun _ => rfl, fun _ => ⟨rfl, rfl⟩⟩

theorem onPrm_fp {w : Nat} {s0 : State} (hb : w.testBit 6 = true) (s : State) (g : Prm → Prm) (h : Fp w s0 s) :
    Fp w s0 (s.onPrm g) :=
  h.trans ⟨rfl, le_refl _, id, id, id, le_refl _, fun _ x => x,
    fun _ => rfl, fun _ => rfl, fun _ => rfl, fun _ => rfl, fun _ => rfl, fun _ => rfl, fun b => absurd (hb.symm.trans b) (by decide), fun _ => rfl, fun _ => rfl, fun _ => rfl, fun _ => rfl, fun _ => rfl, fun _ => rfl, fun _ => rfl, fun _ => rfl, fun _ => rfl, fun _ => rfl, fun _ => rfl, fun _ => rfl, fun _ => rfl, fun _ => rfl, fun _ => rfl, fun _ => rfl, fun _ => ⟨rfl, rfl⟩⟩

theorem onGrs_fp {w : Nat} {s0 : State} (hb : w.testBit 7 = true) (s : State) (g : Grs → Grs) (h : Fp w s0 s) :
    Fp w s0 (s.onGrs g) :=
  h.trans ⟨rfl, le_refl _, id, id, id, le_refl _, fun _ x => x,
    fun _ => rfl, fun _ => rfl, fun _ => rfl, fun _ => rfl, fun _ => rfl, fun _ => rfl, fun _ => rfl, fun b => absurd (hb.symm.trans b) (by decide), fun _ => rfl, fun _ => rfl, fun _ => rfl, fun _ => rfl, fun _ => rfl, fun _ => rfl, fun _ => rfl, fun _ => rfl, fun _ => rfl, fun _ => rfl, fun _ => rfl, fun _ => rfl, fun _ => rfl, fun _ => rfl, fun _ => rfl, fun _ => ⟨rfl, rfl⟩⟩

theorem onWdr_fp {w : Nat} {s0 : State} (hb : w.testBit 8 = true) (s : State) (g : Wdr → Wdr) (h : Fp w s0 s) :
    Fp w s0 (s.onWdr g) :=
  h.trans ⟨rfl, le_refl _, id, id, id, le_refl _, fun _ x => x,
    fun _ => rfl, fun _ => rfl, fun _ => rfl, fun _ => rfl, fun _ => rfl, fun _ => rfl, fun _ => rfl, fun _ => rfl, fun b => absurd (hb.symm.trans b) (by decide), fun _ => rfl, fun _ => rfl, fun _ => rfl, fun _ => rfl, fun _ => rfl, fun _ => rfl, fun _ => rfl, fun _ => rfl, fun _ => rfl, fun _ => rfl, fun _ => rfl, fun _ => rfl, fun _ => rfl, fun _ => rfl, fun _ => ⟨rfl, rfl⟩⟩

theorem onMdw_fp {w : Nat} {s0 : State} (hb : w.testBit 9 = true) (s : State) (g : Mdw → Mdw) (hm : (g s.mdw).mem = s.mdw.mem) (h : Fp w s0 s) :
    Fp w s0 (s.onMdw g) :=
  h.trans ⟨rfl, le_refl _, fun x => by simpa [hm] using x, id, id, le_refl _, fun _ x => x,
    fun _ => rfl, fun _ => rfl, fun _ => rfl, fun _ => rfl, fun _ => rfl, fun _ => rfl, fun _ => rfl, fun _ => rfl, fun _ => rfl, fun b => absurd (hb.symm.trans b) (by decide), fun _ => rfl, fun _ => rfl, fun _ => rfl, fun _ => rfl, fun _ => rfl, fun _ => rfl, fun _ => rfl, fun _ => rfl, fun _ => rfl, fun _ => rfl, fun _ => rfl, fun _ => rfl, fun _ => hm, fun _ => ⟨rfl, rfl⟩⟩

theorem onFab_fp {w : Nat} {s0 : State} (hb : w.testBit 10 = true) (s : State) (g : Fab → Fab) (hm : (g s.fab).links.length = s.fab.links.length) (h : Fp w s0 s) :
    Fp w s0 (s.onFab g) :=
  h.trans ⟨rfl, le_refl _, id, id, fun x => by simpa [hm] using x, le_refl _, fun _ x => x,
    fun _ => rfl, fun _ => rfl, fun _ => rfl, fun _ => rfl, fun _ => rfl, fun _ => rfl, fun _ => rfl, fun _ => rfl, fun _ => rfl, fun _ => rfl, fun b => absurd (hb.symm.trans b) (by decide), fun _ => rfl, fun _ => rfl, fun _ => rfl, fun _ => rfl, fun _ => rfl, fun _ => rfl, fun _ => rfl, fun _ => rfl, fun _ => rfl, fun _ => rfl, fun _ => rfl, fun _ => rfl, fun _ => ⟨rfl, rfl⟩⟩

theorem onSwl_fp {w : Nat} {s0 : State} (hb : w.testBit 11 = true) (s : State) (g : AMap Sw → AMap Sw) (h : Fp w s0 s) :
    Fp w s0 (s.onSwl g) :=
  h.trans ⟨rfl, le_refl _, id, id, id, le_refl _, fun _ x => x,
    fun _ => rfl, fun _ => rfl, fun _ => rfl, fun _ => rfl, fun _ => rfl, fun _ => rfl, fun _ => rfl, fun _ => rfl, fun _ => rfl, fun _ => rfl, fun _ => rfl, fun b => absurd (hb.symm.trans b) (by decide), fun _ => rfl, fun _ => rfl, fun _ => rfl, fun _ => rfl, fun _ => rfl, fun _ => rfl, fun _ => rfl, fun _ => rfl, fun _ => rfl, fun _ => rfl, fun _ => rfl, fun _ => ⟨rfl, rfl⟩⟩

theorem onLgt_fp {w : Nat} {s0 : State} (hb : w.testBit 12 = true) (s : State) (g : Lgt → Lgt) (h : Fp w s0 s) :
    Fp w s0 (s.onLgt g) :=
  h.trans ⟨rfl, le_refl _, id, id, id, le_refl _, fun _ x => x,
    fun _ => rfl, fun _ => rfl, fun _ => rfl, fun _ => rfl, fun _ => rfl, fun _ => rfl, fun _ => rfl, fun _ => rfl, fun _ => rfl, fun _ => rfl, fun _ => rfl, fun _ => rfl, fun b => absurd (hb.symm.trans b) (by decide), fun _ => rfl, fun _ => rfl, fun _ => rfl, fun _ => rfl, fun _ => rfl, fun _ => rfl, fun _ => rfl, fun _ => rfl, fun _ => rfl, fun _ => rfl, fun _ => ⟨rfl, rfl⟩⟩

theorem onSpl_fp {w : Nat} {s0 : State} (hb : w.testBit 13 = true) (s : State) (g : Spl → Spl) (h : Fp w s0 s) :
    Fp w s0 (s.onSpl g) :=
  h.trans ⟨rfl, le_refl _, id, id, id, le_refl _, fun _ x => x,
    fun _ => rfl, fun _ => rfl, fun _ => rfl, fun _ => rfl, fun _ => rfl, fun _ => rfl, fun _ => rfl, fun _ => rfl, fun _ => rfl, fun _ => rfl, fun _ => rfl, fun _ => rfl, fun _ => rfl, fun b => absurd (hb.symm.trans b) (by decide), fun _ => rfl, fun _ => rfl, fun _ => rfl, fun _ => rfl, fun _ => rfl, fun _ => rfl, fun _ => rfl, fun _ => rfl, fun _ => rfl, fun _ => ⟨rfl, rfl⟩⟩

theorem onUnd_fp {w : Nat} {s0 : State} (hb : w.testBit 14 = true) (s : State) (g : Und → Und) (h : Fp w s0 s) :
    Fp w s0 (s.onUnd g) :=
  h.trans ⟨rfl, le_refl _, id, id, id, le_refl _, fun _ x => x,
    fun _ => rfl, fun _ => rfl, fun _ => rfl, fun _ => rfl, fun _ => rfl, fun _ => rfl, fun _ => rfl, fun _ => rfl, fun _ => rfl, fun _ => rfl, fun _ => rfl, fun _ => rfl, fun _ => rfl, fun _ => rfl, fun b => absurd (hb.symm.trans b) (by decide), fun _ => rfl, fun _ => rfl, fun _ => rfl, fun _ => rfl, fun _ => rfl, fun _ => rfl, fun _ => rfl, fun _ => rfl, fun _ => ⟨rfl, rfl⟩⟩

theorem onPbk_fp {w : Nat} {s0 : State} (hb : w.testBit 15 = true) (s : State) (g : Pbk → Pbk) (h : Fp w s0 s) :
    Fp w s0 (s.onPbk g) :=
  h.trans ⟨rfl, le_refl _, id, id, id, le_refl _, fun _ x => x,
    fun _ => rfl, fun _ => rfl, fun _ => rfl, fun _ => rfl, fun _ => rfl, fun _ => rfl, fun _ => rfl, fun _ => rfl, fun _ => rfl, fun _ => rfl, fun _ => rfl, fun _ => rfl, fun _ => rfl, fun _ => rfl, fun _ => rfl, fun b => absurd (hb.symm.trans b) (by decide), fun _ => rfl, fun _ => rfl, fun _ => rfl, fun _ => rfl, fun _ => rfl, fun _ => rfl, fun _ => rfl, fun _ => ⟨rfl, rfl⟩⟩

theorem onSdr_fp {w : Nat} {s0 : State} (hb : w.testBit 16 = true) (s : State) (g : Sdr → Sdr) (hf : (g s.sdr).floor = s.sdr.floor) (hr : (g s.sdr).revoked = s.sdr.revoked) (h : Fp w s0 s) :
    Fp w s0 (s.onSdr g) :=
  h.trans ⟨rfl, le_refl _, id, id, id, by simp [hf], fun _ x => by simpa [hr] using x,
    fun _ => rfl, fun _ => rfl, fun _ => rfl, fun _ => rfl, fun _ => rfl, fun _ => rfl, fun _ => rfl, fun _ => rfl, fun _ => rfl, fun _ => rfl, fun _ => rfl, fun _ => rfl, fun _ => rfl, fun _ => rfl, fun _ => rfl, fun _ => rfl, fun b => absurd (hb.symm.trans b) (by decide), fun _ => rfl, fun _ => rfl, fun _ => rfl, fun _ => rfl, fun _ => rfl, fun _ => rfl, fun _ => ⟨rfl, rfl⟩⟩

/-- An update of the Stage Door that raises the floor or revokes a key. -/
theorem onSdrUp_fp {w : Nat} {s0 : State} (hb : w.testBit 16 = true) (s : State) (g : Sdr → Sdr)
    (hf : s.sdr.floor ≤ (g s.sdr).floor) (hr : ∀ k ∈ s.sdr.revoked, k ∈ (g s.sdr).revoked) (h : Fp w s0 s) :
    Fp w s0 (s.onSdr g) :=
  h.trans ⟨rfl, le_refl _, id, id, id, hf, hr,
    fun _ => rfl, fun _ => rfl, fun _ => rfl, fun _ => rfl, fun _ => rfl, fun _ => rfl, fun _ => rfl, fun _ => rfl, fun _ => rfl, fun _ => rfl, fun _ => rfl, fun _ => rfl, fun _ => rfl, fun _ => rfl, fun _ => rfl, fun _ => rfl, fun b => absurd (hb.symm.trans b) (by decide), fun _ => rfl, fun _ => rfl, fun _ => rfl, fun _ => rfl, fun _ => rfl, fun _ => rfl, fun _ => ⟨rfl, rfl⟩⟩

/-- An update of Meadow and its list of bytes. -/
theorem onMem_fp {w : Nat} {s0 : State} (hb : w.testBit 9 = true) (hm : w.testBit 22 = true) (s : State) (g : Mdw → Mdw)
    (hw : Memory.wf s.mdw.mem = true → Memory.wf (g s.mdw).mem = true) (h : Fp w s0 s) : Fp w s0 (s.onMdw g) :=
  h.trans ⟨rfl, le_refl _, hw, id, id, le_refl _, fun _ x => x,
    fun _ => rfl, fun _ => rfl, fun _ => rfl, fun _ => rfl, fun _ => rfl, fun _ => rfl, fun _ => rfl, fun _ => rfl, fun _ => rfl, fun b => absurd (hb.symm.trans b) (by decide), fun _ => rfl, fun _ => rfl, fun _ => rfl, fun _ => rfl, fun _ => rfl, fun _ => rfl, fun _ => rfl, fun _ => rfl, fun _ => rfl, fun _ => rfl, fun _ => rfl, fun _ => rfl, fun b => absurd (hm.symm.trans b) (by decide), fun _ => ⟨rfl, rfl⟩⟩

theorem onLdg_fp {w : Nat} {s0 : State} (hb : w.testBit 17 = true) (s : State) (g : Ldg → Ldg) (h : Fp w s0 s) :
    Fp w s0 (s.onLdg g) :=
  h.trans ⟨rfl, le_refl _, id, id, id, le_refl _, fun _ x => x,
    fun _ => rfl, fun _ => rfl, fun _ => rfl, fun _ => rfl, fun _ => rfl, fun _ => rfl, fun _ => rfl, fun _ => rfl, fun _ => rfl, fun _ => rfl, fun _ => rfl, fun _ => rfl, fun _ => rfl, fun _ => rfl, fun _ => rfl, fun _ => rfl, fun _ => rfl, fun b => absurd (hb.symm.trans b) (by decide), fun _ => rfl, fun _ => rfl, fun _ => rfl, fun _ => rfl, fun _ => rfl, fun _ => ⟨rfl, rfl⟩⟩

theorem onFlt_fp {w : Nat} {s0 : State} (hb : w.testBit 18 = true) (s : State) (g : Flt → Flt) (h : Fp w s0 s) :
    Fp w s0 (s.onFlt g) :=
  h.trans ⟨rfl, le_refl _, id, id, id, le_refl _, fun _ x => x,
    fun _ => rfl, fun _ => rfl, fun _ => rfl, fun _ => rfl, fun _ => rfl, fun _ => rfl, fun _ => rfl, fun _ => rfl, fun _ => rfl, fun _ => rfl, fun _ => rfl, fun _ => rfl, fun _ => rfl, fun _ => rfl, fun _ => rfl, fun _ => rfl, fun _ => rfl, fun _ => rfl, fun b => absurd (hb.symm.trans b) (by decide), fun _ => rfl, fun _ => rfl, fun _ => rfl, fun _ => rfl, fun _ => ⟨rfl, rfl⟩⟩

theorem onBrd_fp {w : Nat} {s0 : State} (hb : w.testBit 19 = true) (s : State) (g : Brd → Brd) (h : Fp w s0 s) :
    Fp w s0 (s.onBrd g) :=
  h.trans ⟨rfl, le_refl _, id, id, id, le_refl _, fun _ x => x,
    fun _ => rfl, fun _ => rfl, fun _ => rfl, fun _ => rfl, fun _ => rfl, fun _ => rfl, fun _ => rfl, fun _ => rfl, fun _ => rfl, fun _ => rfl, fun _ => rfl, fun _ => rfl, fun _ => rfl, fun _ => rfl, fun _ => rfl, fun _ => rfl, fun _ => rfl, fun _ => rfl, fun _ => rfl, fun b => absurd (hb.symm.trans b) (by decide), fun _ => rfl, fun _ => rfl, fun _ => rfl, fun _ => ⟨rfl, rfl⟩⟩

theorem onOut_fp {w : Nat} {s0 : State} (hb : w.testBit 20 = true) (s : State) (g : Out → Out) (h : Fp w s0 s) :
    Fp w s0 (s.onOut g) :=
  h.trans ⟨rfl, le_refl _, id, id, id, le_refl _, fun _ x => x,
    fun _ => rfl, fun _ => rfl, fun _ => rfl, fun _ => rfl, fun _ => rfl, fun _ => rfl, fun _ => rfl, fun _ => rfl, fun _ => rfl, fun _ => rfl, fun _ => rfl, fun _ => rfl, fun _ => rfl, fun _ => rfl, fun _ => rfl, fun _ => rfl, fun _ => rfl, fun _ => rfl, fun _ => rfl, fun _ => rfl, fun b => absurd (hb.symm.trans b) (by decide), fun _ => rfl, fun _ => rfl, fun _ => ⟨rfl, rfl⟩⟩

theorem setSt_fp {w : Nat} {s0 : State} (hb : w.testBit 21 = true) (s : State) (x : Nat) (h : Fp w s0 s) :
    Fp w s0 (s.setSt x) :=
  h.trans ⟨rfl, le_refl _, id, id, id, le_refl _, fun _ x => x,
    fun _ => rfl, fun _ => rfl, fun _ => rfl, fun _ => rfl, fun _ => rfl, fun _ => rfl, fun _ => rfl, fun _ => rfl, fun _ => rfl, fun _ => rfl, fun _ => rfl, fun _ => rfl, fun _ => rfl, fun _ => rfl, fun _ => rfl, fun _ => rfl, fun _ => rfl, fun _ => rfl, fun _ => rfl, fun _ => rfl, fun _ => rfl, fun b => absurd (hb.symm.trans b) (by decide), fun _ => rfl, fun _ => ⟨rfl, rfl⟩⟩

theorem advance_fp {w : Nat} {s0 : State} (s : State) (h : Fp w s0 s) : Fp w s0 (advance s) :=
  h.trans ⟨rfl, Nat.le_succ _, id, id, id, le_refl _, fun _ x => x, fun _ => rfl, fun _ => rfl, fun _ => rfl, fun _ => rfl, fun _ => rfl, fun _ => rfl, fun _ => rfl, fun _ => rfl, fun _ => rfl, fun _ => rfl, fun _ => rfl, fun _ => rfl, fun _ => rfl, fun _ => rfl, fun _ => rfl, fun _ => rfl, fun _ => rfl, fun _ => rfl, fun _ => rfl, fun _ => rfl, fun _ => rfl, fun _ => rfl, fun _ => rfl, fun _ => ⟨rfl, rfl⟩⟩

theorem set_fp {w : Nat} {s0 : State} (hw : 1 &&& w = 1) (s : State) (f : Fld) (v : Nat) (h : Fp w s0 s) :
    Fp w s0 (set s f v) := onRegs_fp (bitOf hw 0 rfl) _ _ h

theorem setA_fp {w : Nat} {s0 : State} (hw : 1 &&& w = 1) (s : State) (f : Fld) (v : Nat) (h : Fp w s0 s) :
    Fp w s0 (setA s f v) := onRegs_fp (bitOf hw 0 rfl) _ _ h

theorem inc_fp {w : Nat} {s0 : State} (hw : 1 &&& w = 1) (s : State) (f : Fld) (k : Nat) (h : Fp w s0 s) :
    Fp w s0 (inc s f k) := set_fp hw s f _ h

theorem ite_fp {w : Nat} {s0 a b : State} {c : Prop} [Decidable c] (h : Fp w s0 a) (k : Fp w s0 b) :
    Fp w s0 (if c then a else b) := by
  split
  · exact h
  · exact k

theorem foldl_fp {α : Type} {w : Nat} {s0 : State} {f : State → α → State} (l : List α) (s : State)
    (hf : ∀ s x, Fp w s0 s → Fp w s0 (f s x)) (h : Fp w s0 s) : Fp w s0 (l.foldl f s) := by
  induction l generalizing s with
  | nil => exact h
  | cons x r ih => exact ih _ (hf s x h)

/-- A fold whose accumulator carries the state first. -/
theorem foldlFst_fp {α β : Type} {w : Nat} {s0 : State} {f : State × β → α → State × β} (l : List α) (a : State × β)
    (hf : ∀ a x, Fp w s0 a.1 → Fp w s0 (f a x).1) (h : Fp w s0 a.1) : Fp w s0 (l.foldl f a).1 := by
  induction l generalizing a with
  | nil => exact h
  | cons x r ih => exact ih _ (hf a x h)

/-- A fold whose accumulator carries the state second. -/
theorem foldlSnd_fp {α β : Type} {w : Nat} {s0 : State} {f : β × State → α → β × State} (l : List α) (a : β × State)
    (hf : ∀ a x, Fp w s0 a.2 → Fp w s0 (f a x).2) (h : Fp w s0 a.2) : Fp w s0 (l.foldl f a).2 := by
  induction l generalizing a with
  | nil => exact h
  | cons x r ih => exact ih _ (hf a x h)

end Sys2Proof.Machine
end

