-- ==== Sys2Proof/Laws/FootOps.lean ====
section
/-!
SUPPORT. Footprints of the operations of Machine/Ops.lean: what each may touch (Fp).
-/
namespace Sys2Proof.Machine

theorem writeByte_fp {w : Nat} {z : State} (hw : 4194816 &&& w = 4194816) (s : State) (a : Nat) (b : Byte)
    (h : Fp w z s) : Fp w z (writeByte s a b) :=
  h.trans ⟨rfl, le_refl _, fun x => wf_writeByte s a b x, id, id, le_refl _, fun _ x => x,
    fun _ => rfl, fun _ => rfl, fun _ => rfl, fun _ => rfl, fun _ => rfl, fun _ => rfl, fun _ => rfl, fun _ => rfl, fun _ => rfl, fun b => absurd ((bitOf hw 9 rfl).symm.trans b) (by decide), fun _ => rfl, fun _ => rfl, fun _ => rfl, fun _ => rfl, fun _ => rfl, fun _ => rfl, fun _ => rfl, fun _ => rfl, fun _ => rfl, fun _ => rfl, fun _ => rfl, fun _ => rfl, fun b => absurd ((bitOf hw 22 rfl).symm.trans b) (by decide), fun _ => ⟨rfl, rfl⟩⟩

theorem writeBytes_fp {w : Nat} {z : State} (hw : 4194816 &&& w = 4194816) (s : State) (a : Nat) (bs : List Byte)
    (h : Fp w z s) : Fp w z (writeBytes s a bs) := by
  induction bs generalizing s a with
  | nil => exact h
  | cons b r ih => exact ih _ _ (writeByte_fp hw s a b h)

theorem writeLe_fp {fw : Nat} {fz : State} (hw : 4194816 &&& fw = 4194816) (s : State) (a n v : Nat)
    (hz : Fp fw fz s) : Fp fw fz (writeLe s a n v) := by
  have k_writeBytes := maskOf (V := 4194816) hw rfl
  unfold writeLe
  repeat' (first
    | with_reducible rfl
    | with_reducible assumption
    | with_reducible apply writeBytes_fp k_writeBytes)

theorem setPoison_fp {fw : Nat} {fz : State} (hw : 512 &&& fw = 512) (s : State) (a : Nat)
    (hz : Fp fw fz s) : Fp fw fz (setPoison s a) := by
  have b9 := bitOf hw 9 rfl
  unfold setPoison
  repeat' (first
    | with_reducible rfl
    | with_reducible assumption
    | with_reducible refine onMdw_fp b9 _ _ ?_ ?_)

theorem deviceNotice_fp {fw : Nat} {fz : State} (hw : 3 &&& fw = 3) (s : State) (n : Notice)
    (hz : Fp fw fz s) : Fp fw fz (deviceNotice s n) := by
  have b1 := bitOf hw 1 rfl
  have k_inc := maskOf (V := 1) hw rfl
  unfold deviceNotice
  repeat' (first
    | with_reducible rfl
    | with_reducible assumption
    | with_reducible refine onHiu_fp b1 _ _ ?_
    | with_reducible apply inc_fp k_inc
    | with_reducible refine ite_fp ?_ ?_)

theorem faultPin_fp {fw : Nat} {fz : State} (hw : 524289 &&& fw = 524289) (s : State)
    (hz : Fp fw fz s) : Fp fw fz (faultPin s) := by
  have b19 := bitOf hw 19 rfl
  have k_set := maskOf (V := 1) hw rfl
  unfold faultPin
  repeat' (first
    | with_reducible rfl
    | with_reducible assumption
    | with_reducible refine onBrd_fp b19 _ _ ?_
    | with_reducible apply set_fp k_set)

theorem bookAt_fp {fw : Nat} {fz : State} (hw : 32769 &&& fw = 32769) (s : State) (cue kind : Nat) (ten : Option Nat) (payload : Nat)
    (hz : Fp fw fz s) : Fp fw fz (bookAt s cue kind ten payload) := by
  have b15 := bitOf hw 15 rfl
  have k_set := maskOf (V := 1) hw rfl
  have k_inc := maskOf (V := 1) hw rfl
  unfold bookAt
  repeat' (first
    | with_reducible rfl
    | with_reducible assumption
    | with_reducible refine onPbk_fp b15 _ _ ?_
    | with_reducible apply set_fp k_set
    | with_reducible apply inc_fp k_inc
    | with_reducible refine ite_fp ?_ ?_)

theorem book_fp {fw : Nat} {fz : State} (hw : 32769 &&& fw = 32769) (s : State) (kind : Nat) (ten : Option Nat) (payload : Nat)
    (hz : Fp fw fz s) : Fp fw fz (book s kind ten payload) := by
  have k_bookAt := maskOf (V := 32769) hw rfl
  unfold book
  repeat' (first
    | with_reducible rfl
    | with_reducible assumption
    | with_reducible apply bookAt_fp k_bookAt)

theorem logFault_fp1 {fw : Nat} {fz : State} (hw : 262145 &&& fw = 262145) (s : State) (code cls inst detail : Nat)
    (hz : Fp fw fz s) : Fp fw fz (logFault s code cls inst detail).1 := by
  have b18 := bitOf hw 18 rfl
  have k_set := maskOf (V := 1) hw rfl
  unfold logFault
  repeat' (first
    | with_reducible rfl
    | with_reducible assumption
    | with_reducible refine onFlt_fp b18 _ _ ?_
    | with_reducible apply set_fp k_set
    | with_reducible refine ite_fp ?_ ?_
    | split
    | with_reducible dsimp only)

theorem logFault_fp {fw : Nat} {fz t : State} (hw : 262145 &&& fw = 262145) {s : State} {code cls inst detail : Nat} {x}
    (he : logFault s code cls inst detail = (t, x)) (hz : Fp fw fz s) : Fp fw fz t := by
  have k := logFault_fp1 hw s code cls inst detail hz
  rwa [he] at k

theorem faultNotice_fp {fw : Nat} {fz : State} (hw : 3 &&& fw = 3) (s : State) (code cls detail : Nat)
    (hz : Fp fw fz s) : Fp fw fz (faultNotice s code cls detail) := by
  have k_deviceNotice := maskOf (V := 3) hw rfl
  unfold faultNotice
  repeat' (first
    | with_reducible rfl
    | with_reducible assumption
    | with_reducible apply deviceNotice_fp k_deviceNotice
    | with_reducible refine ite_fp ?_ ?_)

theorem earlyWarning_fp {fw : Nat} {fz : State} (hw : 262147 &&& fw = 262147) (s : State) (code cond : Nat)
    (hz : Fp fw fz s) : Fp fw fz (earlyWarning s code cond) := by
  have b18 := bitOf hw 18 rfl
  have k_logFault := maskOf (V := 262145) hw rfl
  have k_set := maskOf (V := 1) hw rfl
  have k_inc := maskOf (V := 1) hw rfl
  have k_faultNotice := maskOf (V := 3) hw rfl
  unfold earlyWarning
  repeat' (first
    | with_reducible rfl
    | with_reducible assumption
    | with_reducible refine onFlt_fp b18 _ _ ?_
    | with_reducible apply logFault_fp k_logFault (by assumption)
    | with_reducible apply logFault_fp1 k_logFault
    | with_reducible apply set_fp k_set
    | with_reducible apply inc_fp k_inc
    | with_reducible apply faultNotice_fp k_faultNotice
    | with_reducible refine ite_fp ?_ ?_)

theorem onPblk_fp {fw : Nat} {fz : State} (hw : 131072 &&& fw = 131072) (s : State) (p : Nat) (f : PBlk → PBlk)
    (hz : Fp fw fz s) : Fp fw fz (onPblk s p f) := by
  have b17 := bitOf hw 17 rfl
  unfold onPblk
  repeat' (first
    | with_reducible rfl
    | with_reducible assumption
    | with_reducible refine onLdg_fp b17 _ _ ?_)

theorem ledgerShow_fp {fw : Nat} {fz : State} (hw : 1 &&& fw = 1) (s : State)
    (hz : Fp fw fz s) : Fp fw fz (ledgerShow s) := by
  have k_set := maskOf (V := 1) hw rfl
  unfold ledgerShow
  repeat' (first
    | with_reducible rfl
    | with_reducible assumption
    | with_reducible apply set_fp k_set)

theorem journalAdd_fp {fw : Nat} {fz : State} (hw : 131072 &&& fw = 131072) (s : State)
    (hz : Fp fw fz s) : Fp fw fz (journalAdd s) := by
  have b17 := bitOf hw 17 rfl
  unfold journalAdd
  repeat' (first
    | with_reducible rfl
    | with_reducible assumption
    | with_reducible refine onLdg_fp b17 _ _ ?_)

theorem rewriteTo_fp {fw : Nat} {fz : State} (hw : 131073 &&& fw = 131073) (s : State) (lb p : Nat)
    (hz : Fp fw fz s) : Fp fw fz (rewriteTo s lb p) := by
  have b17 := bitOf hw 17 rfl
  have k_onPblk := maskOf (V := 131072) hw rfl
  have k_journalAdd := maskOf (V := 131072) hw rfl
  have k_ledgerShow := maskOf (V := 1) hw rfl
  unfold rewriteTo
  repeat' (first
    | with_reducible rfl
    | with_reducible assumption
    | with_reducible refine onLdg_fp b17 _ _ ?_
    | with_reducible apply onPblk_fp k_onPblk
    | with_reducible apply journalAdd_fp k_journalAdd
    | with_reducible apply ledgerShow_fp k_ledgerShow)

theorem storeBlock_fp {fw : Nat} {fz : State} (hw : 131073 &&& fw = 131073) (s : State) (lb : Nat)
    (hz : Fp fw fz s) : Fp fw fz (storeBlock s lb) := by
  have k_rewriteTo := maskOf (V := 131073) hw rfl
  unfold storeBlock
  repeat' (first
    | with_reducible rfl
    | with_reducible assumption
    | with_reducible apply rewriteTo_fp k_rewriteTo
    | with_reducible refine advance_fp _ ?_
    | with_reducible refine ite_fp ?_ ?_
    | split)

theorem crashCapsule_fp {fw : Nat} {fz : State} (hw : 131073 &&& fw = 131073) (s : State) (code : Nat)
    (hz : Fp fw fz s) : Fp fw fz (crashCapsule s code) := by
  have b17 := bitOf hw 17 rfl
  have k_inc := maskOf (V := 1) hw rfl
  have k_storeBlock := maskOf (V := 131073) hw rfl
  unfold crashCapsule
  repeat' (first
    | with_reducible rfl
    | with_reducible assumption
    | with_reducible refine onLdg_fp b17 _ _ ?_
    | with_reducible apply inc_fp k_inc
    | with_reducible apply storeBlock_fp k_storeBlock
    | with_reducible refine foldl_fp _ _ (fun _ _ _ => ?_) ?_
    | with_reducible refine foldlFst_fp _ _ (fun _ _ _ => ?_) ?_
    | with_reducible refine foldlSnd_fp _ _ (fun _ _ _ => ?_) ?_
    | with_reducible refine ite_fp ?_ ?_)

theorem countFault_fp {fw : Nat} {fz : State} (hw : 262147 &&& fw = 262147) (s : State) (code cls : Nat) (new : Bool)
    (hz : Fp fw fz s) : Fp fw fz (countFault s code cls new) := by
  have b18 := bitOf hw 18 rfl
  have k_inc := maskOf (V := 1) hw rfl
  have k_earlyWarning := maskOf (V := 262147) hw rfl
  have k_set := maskOf (V := 1) hw rfl
  unfold countFault
  repeat' (first
    | with_reducible rfl
    | with_reducible assumption
    | with_reducible refine onFlt_fp b18 _ _ ?_
    | with_reducible apply inc_fp k_inc
    | with_reducible apply earlyWarning_fp k_earlyWarning
    | with_reducible apply set_fp k_set
    | with_reducible refine ite_fp ?_ ?_)

theorem reportAs_fp {fw : Nat} {fz : State} (hw : 950275 &&& fw = 950275) (s : State) (injected : Bool) (code inst detail : Nat)
    (hz : Fp fw fz s) : Fp fw fz (reportAs s injected code inst detail) := by
  have k_logFault := maskOf (V := 262145) hw rfl
  have k_faultNotice := maskOf (V := 3) hw rfl
  have k_countFault := maskOf (V := 262147) hw rfl
  have k_set := maskOf (V := 1) hw rfl
  have k_book := maskOf (V := 32769) hw rfl
  have k_crashCapsule := maskOf (V := 131073) hw rfl
  have k_faultPin := maskOf (V := 524289) hw rfl
  unfold reportAs
  repeat' (first
    | with_reducible rfl
    | with_reducible assumption
    | with_reducible apply logFault_fp k_logFault (by assumption)
    | with_reducible apply logFault_fp1 k_logFault
    | with_reducible apply faultNotice_fp k_faultNotice
    | with_reducible apply countFault_fp k_countFault
    | with_reducible apply set_fp k_set
    | with_reducible apply book_fp k_book
    | with_reducible apply crashCapsule_fp k_crashCapsule
    | with_reducible apply faultPin_fp k_faultPin
    | with_reducible refine ite_fp ?_ ?_
    | split)

theorem report_fp {fw : Nat} {fz : State} (hw : 950275 &&& fw = 950275) (s : State) (code inst detail : Nat)
    (hz : Fp fw fz s) : Fp fw fz (report s code inst detail) := by
  have k_reportAs := maskOf (V := 950275) hw rfl
  unfold report
  repeat' (first
    | with_reducible rfl
    | with_reducible assumption
    | with_reducible apply reportAs_fp k_reportAs)

theorem handAudit_fp {fw : Nat} {fz : State} (hw : 196609 &&& fw = 196609) (s : State) (k : Nat)
    (hz : Fp fw fz s) : Fp fw fz (handAudit s k) := by
  have b16 := bitOf hw 16 rfl
  have b17 := bitOf hw 17 rfl
  unfold handAudit
  repeat' (first
    | with_reducible rfl
    | with_reducible assumption
    | with_reducible refine onSdr_fp b16 _ _ ?_ ?_ ?_
    | with_reducible refine onLdg_fp b17 _ _ ?_)

theorem audit_fp {fw : Nat} {fz : State} (hw : 196609 &&& fw = 196609) (s : State) (code fn : Nat) (spdm : Bool) (status detail : Nat)
    (hz : Fp fw fz s) : Fp fw fz (audit s code fn spdm status detail) := by
  have b16 := bitOf hw 16 rfl
  have k_inc := maskOf (V := 1) hw rfl
  have k_handAudit := maskOf (V := 196609) hw rfl
  have k_set := maskOf (V := 1) hw rfl
  unfold audit
  repeat' (first
    | with_reducible rfl
    | with_reducible assumption
    | with_reducible refine onSdr_fp b16 _ _ ?_ ?_ ?_
    | with_reducible apply inc_fp k_inc
    | with_reducible apply handAudit_fp k_handAudit
    | with_reducible apply set_fp k_set
    | with_reducible refine ite_fp ?_ ?_
    | split)

theorem onLink_fp {w : Nat} {z : State} (hw : 1024 &&& w = 1024) (s : State) (l : Nat) (f : Link → Link)
    (h : Fp w z s) : Fp w z (onLink s l f) :=
  onFab_fp (bitOf hw 10 rfl) _ _ (by simp) h

theorem owe_fp {fw : Nat} {fz : State} (hw : 1024 &&& fw = 1024) (s : State) (l lane n : Nat)
    (hz : Fp fw fz s) : Fp fw fz (owe s l lane n) := by
  have k_onLink := maskOf (V := 1024) hw rfl
  unfold owe
  repeat' (first
    | with_reducible rfl
    | with_reducible assumption
    | with_reducible apply onLink_fp k_onLink)

theorem putOut_fp {fw : Nat} {fz : State} (hw : 1049600 &&& fw = 1049600) (s : State) (p : Packet)
    (hz : Fp fw fz s) : Fp fw fz (putOut s p) := by
  have b20 := bitOf hw 20 rfl
  have k_onLink := maskOf (V := 1024) hw rfl
  unfold putOut
  repeat' (first
    | with_reducible rfl
    | with_reducible assumption
    | with_reducible refine onOut_fp b20 _ _ ?_
    | with_reducible apply onLink_fp k_onLink)

theorem emit_fp {fw : Nat} {fz : State} (hw : 1049600 &&& fw = 1049600) (s : State) (p : Packet)
    (hz : Fp fw fz s) : Fp fw fz (emit s p) := by
  have b10 := bitOf hw 10 rfl
  have k_putOut := maskOf (V := 1049600) hw rfl
  unfold emit
  repeat' (first
    | with_reducible rfl
    | with_reducible assumption
    | with_reducible refine onFab_fp b10 _ _ ?_ ?_
    | with_reducible simp only [List.length_map, List.length_set, List.length_mapIdx, List.length_modify]
    | with_reducible apply putOut_fp k_putOut
    | with_reducible refine ite_fp ?_ ?_)

theorem sendPkt_fp {fw : Nat} {fz : State} (hw : 1049601 &&& fw = 1049601) (s : State) (kind dst tag epoch : Nat) (poison : Bool) (body : List Byte)
    (hz : Fp fw fz s) : Fp fw fz (sendPkt s kind dst tag epoch poison body) := by
  have k_inc := maskOf (V := 1) hw rfl
  have k_emit := maskOf (V := 1049600) hw rfl
  unfold sendPkt
  repeat' (first
    | with_reducible rfl
    | with_reducible assumption
    | with_reducible apply inc_fp k_inc
    | with_reducible apply emit_fp k_emit
    | with_reducible refine ite_fp ?_ ?_
    | split)

theorem send_fp {fw : Nat} {fz : State} (hw : 1049601 &&& fw = 1049601) (s : State) (kind dst : Nat) (body : List Byte)
    (hz : Fp fw fz s) : Fp fw fz (send s kind dst body) := by
  have k_sendPkt := maskOf (V := 1049601) hw rfl
  unfold send
  repeat' (first
    | with_reducible rfl
    | with_reducible assumption
    | with_reducible apply sendPkt_fp k_sendPkt)

theorem sendAll_fp {fw : Nat} {fz : State} (hw : 1049601 &&& fw = 1049601) (s : State) (kind : Nat) (ds : List Nat) (body : List Byte)
    (hz : Fp fw fz s) : Fp fw fz (sendAll s kind ds body) := by
  have k_send := maskOf (V := 1049601) hw rfl
  unfold sendAll
  repeat' (first
    | with_reducible rfl
    | with_reducible assumption
    | with_reducible apply send_fp k_send
    | with_reducible refine foldl_fp _ _ (fun _ _ _ => ?_) ?_
    | with_reducible refine foldlFst_fp _ _ (fun _ _ _ => ?_) ?_
    | with_reducible refine foldlSnd_fp _ _ (fun _ _ _ => ?_) ?_
    | with_reducible refine ite_fp ?_ ?_)

theorem reply_fp {fw : Nat} {fz : State} (hw : 1049601 &&& fw = 1049601) (s : State) (kind dst tag epoch : Nat) (body : List Byte)
    (hz : Fp fw fz s) : Fp fw fz (reply s kind dst tag epoch body) := by
  have k_sendPkt := maskOf (V := 1049601) hw rfl
  unfold reply
  repeat' (first
    | with_reducible rfl
    | with_reducible assumption
    | with_reducible apply sendPkt_fp k_sendPkt)

theorem takeTag_fp1 {fw : Nat} {fz : State} (hw : 1024 &&& fw = 1024) (s : State)
    (hz : Fp fw fz s) : Fp fw fz (takeTag s).2 := by
  have b10 := bitOf hw 10 rfl
  unfold takeTag
  repeat' (first
    | with_reducible rfl
    | with_reducible assumption
    | with_reducible refine onFab_fp b10 _ _ ?_ ?_)

theorem takeTag_fp {fw : Nat} {fz t : State} (hw : 1024 &&& fw = 1024) {s : State} {x}
    (he : takeTag s = (x, t)) (hz : Fp fw fz s) : Fp fw fz t := by
  have k := takeTag_fp1 hw s hz
  rwa [he] at k

theorem issue_fp {fw : Nat} {fz : State} (hw : 1049601 &&& fw = 1049601) (s : State) (kind dst tag : Nat) (beats : List Token) (body : List Byte)
    (hz : Fp fw fz s) : Fp fw fz (issue s kind dst tag beats body) := by
  have b10 := bitOf hw 10 rfl
  have k_sendPkt := maskOf (V := 1049601) hw rfl
  have k_set := maskOf (V := 1) hw rfl
  unfold issue
  repeat' (first
    | with_reducible rfl
    | with_reducible assumption
    | with_reducible refine onFab_fp b10 _ _ ?_ ?_
    | with_reducible simp only []
    | with_reducible apply sendPkt_fp k_sendPkt
    | with_reducible apply set_fp k_set)

theorem request_fp {fw : Nat} {fz : State} (hw : 1049601 &&& fw = 1049601) (s : State) (kind dst tag : Nat) (body : List Byte)
    (hz : Fp fw fz s) : Fp fw fz (request s kind dst tag body) := by
  have b10 := bitOf hw 10 rfl
  have k_issue := maskOf (V := 1049601) hw rfl
  unfold request
  repeat' (first
    | with_reducible rfl
    | with_reducible assumption
    | with_reducible refine onFab_fp b10 _ _ ?_ ?_
    | with_reducible simp only [List.length_map, List.length_set, List.length_mapIdx, List.length_modify]
    | with_reducible apply issue_fp k_issue
    | with_reducible refine ite_fp ?_ ?_)

theorem issueWaiting_fp {fw : Nat} {fz : State} (hw : 1049601 &&& fw = 1049601) (s : State)
    (hz : Fp fw fz s) : Fp fw fz (issueWaiting s) := by
  have b10 := bitOf hw 10 rfl
  have k_issue := maskOf (V := 1049601) hw rfl
  unfold issueWaiting
  repeat' (first
    | with_reducible rfl
    | with_reducible assumption
    | with_reducible refine onFab_fp b10 _ _ ?_ ?_
    | with_reducible simp only [List.length_map, List.length_set, List.length_mapIdx, List.length_modify]
    | with_reducible apply issue_fp k_issue
    | with_reducible refine ite_fp ?_ ?_
    | split)

theorem announce_fp {fw : Nat} {fz : State} (hw : 1048576 &&& fw = 1048576) (s : State) (dev state epoch : Nat) (but : Option Nat)
    (hz : Fp fw fz s) : Fp fw fz (announce s dev state epoch but) := by
  have b20 := bitOf hw 20 rfl
  have k_ctrl := maskOf (V := 1048576) hw rfl
  unfold announce
  repeat' (first
    | with_reducible rfl
    | with_reducible assumption
    | with_reducible refine onOut_fp b20 _ _ ?_
    | with_reducible apply ctrl_fp k_ctrl
    | with_reducible refine foldl_fp _ _ (fun _ _ _ => ?_) ?_
    | with_reducible refine foldlFst_fp _ _ (fun _ _ _ => ?_) ?_
    | with_reducible refine foldlSnd_fp _ _ (fun _ _ _ => ?_) ?_
    | with_reducible refine ite_fp ?_ ?_)

theorem putTopo_fp {fw : Nat} {fz : State} (hw : 1024 &&& fw = 1024) (s : State) (d : Nat) (t : Topo)
    (hz : Fp fw fz s) : Fp fw fz (putTopo s d t) := by
  have b10 := bitOf hw 10 rfl
  unfold putTopo
  repeat' (first
    | with_reducible rfl
    | with_reducible assumption
    | with_reducible refine onFab_fp b10 _ _ ?_ ?_)

theorem onDom_fp {fw : Nat} {fz : State} (hw : 4096 &&& fw = 4096) (s : State) (d : Nat) (f : Dom → Dom)
    (hz : Fp fw fz s) : Fp fw fz (onDom s d f) := by
  have b12 := bitOf hw 12 rfl
  unfold onDom
  repeat' (first
    | with_reducible rfl
    | with_reducible assumption
    | with_reducible refine onLgt_fp b12 _ _ ?_)

theorem startRise_fp {fw : Nat} {fz : State} (hw : 1 &&& fw = 1) (s : State) (d : Nat)
    (hz : Fp fw fz s) : Fp fw fz (startRise s d) := by
  have k_set := maskOf (V := 1) hw rfl
  unfold startRise
  repeat' (first
    | with_reducible rfl
    | with_reducible assumption
    | with_reducible apply set_fp k_set)

theorem demandDom_fp {fw : Nat} {fz : State} (hw : 4097 &&& fw = 4097) (s : State) (d : Nat)
    (hz : Fp fw fz s) : Fp fw fz (demandDom s d) := by
  have k_onDom := maskOf (V := 4096) hw rfl
  have k_set := maskOf (V := 1) hw rfl
  have k_startRise := maskOf (V := 1) hw rfl
  unfold demandDom
  repeat' (first
    | with_reducible rfl
    | with_reducible assumption
    | with_reducible apply onDom_fp k_onDom
    | with_reducible apply set_fp k_set
    | with_reducible apply startRise_fp k_startRise
    | with_reducible refine ite_fp ?_ ?_)

end Sys2Proof.Machine
end

