-- ==== Sys2Proof/Laws/FootRegAccess.lean ====
section
/-!
SUPPORT. Footprints of the operations of Machine/RegAccess.lean: what each may touch (Fp).
-/
namespace Sys2Proof.Machine

theorem setShadow_fp {fw : Nat} {fz : State} (hw : 1 &&& fw = 1) (s : State) (f : Fld) (v : Nat)
    (hz : Fp fw fz s) : Fp fw fz (setShadow s f v) := by
  have k_set := maskOf (V := 1) hw rfl
  unfold setShadow
  repeat' (first
    | with_reducible rfl
    | with_reducible assumption
    | with_reducible apply set_fp k_set)

theorem landWrite_fp {fw : Nat} {fz : State} (hw : 1 &&& fw = 1) (s : State) (w : List (Fld × Nat))
    (hz : Fp fw fz s) : Fp fw fz (landWrite s w) := by
  have k_setShadow := maskOf (V := 1) hw rfl
  unfold landWrite
  repeat' (first
    | with_reducible rfl
    | with_reducible assumption
    | with_reducible apply setShadow_fp k_setShadow
    | with_reducible refine foldl_fp _ _ (fun _ _ _ => ?_) ?_)

theorem landHeld_fp {fw : Nat} {fz : State} (hw : 8193 &&& fw = 8193) (s : State)
    (hz : Fp fw fz s) : Fp fw fz (landHeld s) := by
  have b13 := bitOf hw 13 rfl
  have k_landWrite := maskOf (V := 1) hw rfl
  unfold landHeld
  repeat' (first
    | with_reducible rfl
    | with_reducible assumption
    | with_reducible refine onSpl_fp b13 _ _ ?_
    | with_reducible apply landWrite_fp k_landWrite
    | with_reducible refine foldl_fp _ _ (fun _ _ _ => ?_) ?_
    | with_reducible refine foldlFst_fp _ _ (fun _ _ _ => ?_) ?_
    | with_reducible refine foldlSnd_fp _ _ (fun _ _ _ => ?_) ?_
    | with_reducible refine ite_fp ?_ ?_)

theorem setTaken_fp {fw : Nat} {fz : State} (hw : 1 &&& fw = 1) (s0 s : State) (f : Fld) (new : Nat)
    (hz : Fp fw fz s) : Fp fw fz (setTaken s0 s f new) := by
  have k_set := maskOf (V := 1) hw rfl
  unfold setTaken
  repeat' (first
    | with_reducible rfl
    | with_reducible assumption
    | with_reducible apply set_fp k_set
    | with_reducible refine ite_fp ?_ ?_)

theorem writeField_fp {fw : Nat} {fz : State} (hw : 1 &&& fw = 1) (s0 : State) (v : Word) (s : State) (f0 : Fld)
    (hz : Fp fw fz s) : Fp fw fz (writeField s0 v s f0) := by
  have k_setTaken := maskOf (V := 1) hw rfl
  have k_set := maskOf (V := 1) hw rfl
  have k_setShadow := maskOf (V := 1) hw rfl
  unfold writeField
  repeat' (first
    | with_reducible rfl
    | with_reducible assumption
    | with_reducible apply setTaken_fp k_setTaken
    | with_reducible apply set_fp k_set
    | with_reducible apply setShadow_fp k_setShadow
    | with_reducible refine ite_fp ?_ ?_
    | split)

theorem sealedAudit_fp {fw : Nat} {fz : State} (hw : 196609 &&& fw = 196609) (s : State) (fn off : Nat) (fs : List Fld) (v : Word)
    (hz : Fp fw fz s) : Fp fw fz (sealedAudit s fn off fs v) := by
  have k_audit := maskOf (V := 196609) hw rfl
  unfold sealedAudit
  repeat' (first
    | with_reducible rfl
    | with_reducible assumption
    | with_reducible apply audit_fp k_audit
    | with_reducible refine ite_fp ?_ ?_)

theorem ringStart_fp {fw : Nat} {fz : State} (hw : 3 &&& fw = 3) (s0 s : State) (fn w : Nat)
    (hz : Fp fw fz s) : Fp fw fz (ringStart s0 s fn w) := by
  have b1 := bitOf hw 1 rfl
  have k_set := maskOf (V := 1) hw rfl
  unfold ringStart
  repeat' (first
    | with_reducible rfl
    | with_reducible assumption
    | with_reducible refine onHiu_fp b1 _ _ ?_
    | with_reducible apply set_fp k_set
    | with_reducible refine ite_fp ?_ ?_)

theorem acceptHq_fp {fw : Nat} {fz : State} (hw : 2 &&& fw = 2) (s : State) (k : Nat)
    (hz : Fp fw fz s) : Fp fw fz (acceptHq s k) := by
  have b1 := bitOf hw 1 rfl
  unfold acceptHq
  repeat' (first
    | with_reducible rfl
    | with_reducible assumption
    | with_reducible refine onHiu_fp b1 _ _ ?_
    | with_reducible refine ite_fp ?_ ?_)

theorem afterWrite_fp {fw : Nat} {fz : State} (hw : 524307 &&& fw = 524307) (s0 s : State) (fn off : Nat)
    (hz : Fp fw fz s) : Fp fw fz (afterWrite s0 s fn off) := by
  have b4 := bitOf hw 4 rfl
  have k_ringStart := maskOf (V := 3) hw rfl
  have k_faultPin := maskOf (V := 524289) hw rfl
  have k_set := maskOf (V := 1) hw rfl
  have k_acceptHq := maskOf (V := 2) hw rfl
  unfold afterWrite
  repeat' (first
    | with_reducible rfl
    | with_reducible assumption
    | with_reducible refine onCue_fp b4 _ _ ?_ ?_ ?_
    | with_reducible apply ringStart_fp k_ringStart
    | with_reducible apply faultPin_fp k_faultPin
    | with_reducible apply set_fp k_set
    | with_reducible apply acceptHq_fp k_acceptHq
    | with_reducible refine ite_fp ?_ ?_)

theorem roleDenied_fp {w : Nat} {z t : State} (hw : 1 &&& w = 1) {s : State} {fn off : Nat}
    (he : roleDenied s fn off = some t) (h : Fp w z s) : Fp w z t := by
  unfold roleDenied at he
  repeat' split at he
  all_goals first
    | (simp only [reduceCtorEq] at he)
    | (simp only [Option.some.injEq] at he; subst he; exact set_fp (maskOf hw rfl) _ _ _ h)

theorem holdRws_fp {fw : Nat} {fz : State} (hw : 8192 &&& fw = 8192) (s : State) (v : Word) (fs : List Fld)
    (hz : Fp fw fz s) : Fp fw fz (holdRws s v fs) := by
  have b13 := bitOf hw 13 rfl
  unfold holdRws
  repeat' (first
    | with_reducible rfl
    | with_reducible assumption
    | with_reducible refine onSpl_fp b13 _ _ ?_
    | with_reducible refine ite_fp ?_ ?_)

theorem writeWord_fp {fw : Nat} {fz : State} (hw : 729107 &&& fw = 729107) (s : State) (fn off : Nat) (v : Word)
    (hz : Fp fw fz s) : Fp fw fz (writeWord s fn off v) := by
  have k_landHeld := maskOf (V := 8193) hw rfl
  have k_afterWrite := maskOf (V := 524307) hw rfl
  have k_writeField := maskOf (V := 1) hw rfl
  have k_sealedAudit := maskOf (V := 196609) hw rfl
  have k_holdRws := maskOf (V := 8192) hw rfl
  unfold writeWord
  repeat' (first
    | with_reducible rfl
    | with_reducible assumption
    | with_reducible apply landHeld_fp k_landHeld
    | with_reducible apply afterWrite_fp k_afterWrite
    | with_reducible apply writeField_fp k_writeField
    | with_reducible apply sealedAudit_fp k_sealedAudit
    | with_reducible apply holdRws_fp k_holdRws
    | with_reducible refine foldl_fp _ _ (fun _ _ _ => ?_) ?_)

theorem commandWord_fp {fw : Nat} {fz : State} (hw : 729107 &&& fw = 729107) (s : State) (fn off : Nat) (v : Word)
    (hz : Fp fw fz s) : Fp fw fz (commandWord s fn off v) := by
  have k_roleDenied := maskOf (V := 1) hw rfl
  have k_writeWord := maskOf (V := 729107) hw rfl
  unfold commandWord
  repeat' (first
    | with_reducible rfl
    | with_reducible assumption
    | with_reducible apply roleDenied_fp k_roleDenied (by assumption)
    | with_reducible apply roleDenied_fp1 k_roleDenied
    | with_reducible apply writeWord_fp k_writeWord
    | with_reducible refine ite_fp ?_ ?_
    | split)

theorem lockedOut_fp {fw : Nat} {fz : State} (hw : 196609 &&& fw = 196609) (s : State) (fn off : Nat) (f : Fld) (v : Word)
    (hz : Fp fw fz s) : Fp fw fz (lockedOut s fn off f v) := by
  have k_sealedAudit := maskOf (V := 196609) hw rfl
  unfold lockedOut
  repeat' (first
    | with_reducible rfl
    | with_reducible assumption
    | with_reducible apply sealedAudit_fp k_sealedAudit)

theorem execRegisterWrite_fp (fn : Fin 128) (off : Nat) (be : BitVec 4) (v : Word) (s : State) (t : State) (h : execRegisterWrite fn off be v s = .next t) :
    Fp 729107 s t := by
  have hw : 729107 &&& 729107 = 729107 := rfl
  unfold execRegisterWrite at h
  simp only [Host.Outcome.next.injEq] at h
  subst h
  have hz : Fp 729107 s s := Fp.refl _ _
  have k_commandWord := maskOf (V := 729107) hw rfl
  repeat' (first
    | with_reducible rfl
    | with_reducible assumption
    | with_reducible apply commandWord_fp k_commandWord
    | with_reducible refine ite_fp ?_ ?_)

theorem execHeldRwsWriteLands_fp (s : State) (t : State) (h : execHeldRwsWriteLands s = .next t) :
    Fp 2105345 s t := by
  have hw : 2105345 &&& 2105345 = 2105345 := rfl
  unfold execHeldRwsWriteLands at h
  simp only [Host.Outcome.next.injEq] at h
  subst h
  have hz : Fp 2105345 s s := Fp.refl _ _
  have b13 := bitOf hw 13 rfl
  have b21 := bitOf hw 21 rfl
  have k_set := maskOf (V := 1) hw rfl
  have k_landWrite := maskOf (V := 1) hw rfl
  repeat' (first
    | with_reducible rfl
    | with_reducible assumption
    | with_reducible refine onSpl_fp b13 _ _ ?_
    | with_reducible refine setSt_fp b21 _ _ ?_
    | with_reducible apply set_fp k_set
    | with_reducible apply landWrite_fp k_landWrite
    | with_reducible refine ite_fp ?_ ?_
    | split)

theorem execCueNowRead_fp (s : State) (t : State) (h : execCueNowRead s = .next t) :
    Fp 16 s t := by
  have hw : 16 &&& 16 = 16 := rfl
  unfold execCueNowRead at h
  simp only [Host.Outcome.next.injEq] at h
  subst h
  have hz : Fp 16 s s := Fp.refl _ _
  have b4 := bitOf hw 4 rfl
  repeat' (first
    | with_reducible rfl
    | with_reducible assumption
    | with_reducible refine onCue_fp b4 _ _ ?_ ?_ ?_
    | with_reducible refine ite_fp ?_ ?_)

theorem execRbDataRead_fp (s : State) (t : State) (h : execRbDataRead s = .next t) :
    Fp 1 s t := by
  have hw : 1 &&& 1 = 1 := rfl
  unfold execRbDataRead at h
  simp only [Host.Outcome.next.injEq] at h
  subst h
  have hz : Fp 1 s s := Fp.refl _ _
  have k_set := maskOf (V := 1) hw rfl
  repeat' (first
    | with_reducible rfl
    | with_reducible assumption
    | with_reducible apply set_fp k_set
    | with_reducible refine ite_fp ?_ ?_
    | split)

end Sys2Proof.Machine
end

