-- ==== Sys2Proof/Laws/FootSwaleOps.lean ====
section
/-!
SUPPORT. Footprints of the operations of Machine/SwaleOps.lean: what each may touch (Fp).
-/
namespace Sys2Proof.Machine

theorem onSw_fp {fw : Nat} {fz : State} (hw : 2048 &&& fw = 2048) (s : State) (i : Nat) (f : Sw → Sw)
    (hz : Fp fw fz s) : Fp fw fz (onSw s i f) := by
  have b11 := bitOf hw 11 rfl
  unfold onSw
  repeat' (first
    | with_reducible rfl
    | with_reducible assumption
    | with_reducible refine onSwl_fp b11 _ _ ?_)

theorem wmPin_fp {fw : Nat} {fz : State} (hw : 524288 &&& fw = 524288) (s : State) (i : Nat)
    (hz : Fp fw fz s) : Fp fw fz (wmPin s i) := by
  have b19 := bitOf hw 19 rfl
  unfold wmPin
  repeat' (first
    | with_reducible rfl
    | with_reducible assumption
    | with_reducible refine onBrd_fp b19 _ _ ?_
    | with_reducible refine ite_fp ?_ ?_)

theorem wmUpdate_fp {fw : Nat} {fz : State} (hw : 524289 &&& fw = 524289) (s : State) (i : Nat)
    (hz : Fp fw fz s) : Fp fw fz (wmUpdate s i) := by
  have k_set := maskOf (V := 1) hw rfl
  have k_wmPin := maskOf (V := 524288) hw rfl
  unfold wmUpdate
  repeat' (first
    | with_reducible rfl
    | with_reducible assumption
    | with_reducible apply set_fp k_set
    | with_reducible apply wmPin_fp k_wmPin
    | with_reducible refine ite_fp ?_ ?_)

end Sys2Proof.Machine
end

