-- ==== Sys2Proof/Laws/FootHost.lean ====
section
/-!
SUPPORT. Footprints of the operations of Machine/Host.lean: what each may touch (Fp).
-/
namespace Sys2Proof.Machine

theorem putRing_fp {fw : Nat} {fz : State} (hw : 2 &&& fw = 2) (s : State) (fn n : Nat) (r : Ring)
    (hz : Fp fw fz s) : Fp fw fz (putRing s fn n r) := by
  have b1 := bitOf hw 1 rfl
  unfold putRing
  repeat' (first
    | with_reducible rfl
    | with_reducible assumption
    | with_reducible refine onHiu_fp b1 _ _ ?_)

theorem reserveNq_fp {fw : Nat} {fz : State} (hw : 2 &&& fw = 2) (s : State) (fn : Nat)
    (hz : Fp fw fz s) : Fp fw fz (reserveNq s fn) := by
  have k_putRing := maskOf (V := 2) hw rfl
  unfold reserveNq
  repeat' (first
    | with_reducible rfl
    | with_reducible assumption
    | with_reducible apply putRing_fp k_putRing)

theorem unreserveNq_fp {fw : Nat} {fz : State} (hw : 2 &&& fw = 2) (s : State) (fn : Nat)
    (hz : Fp fw fz s) : Fp fw fz (unreserveNq s fn) := by
  have k_putRing := maskOf (V := 2) hw rfl
  unfold unreserveNq
  repeat' (first
    | with_reducible rfl
    | with_reducible assumption
    | with_reducible apply putRing_fp k_putRing)

theorem ringWrite_fp {fw : Nat} {fz : State} (hw : 1048579 &&& fw = 1048579) (s : State) (fn n id : Nat) (bytes : Bool → List Byte)
    (hz : Fp fw fz s) : Fp fw fz (ringWrite s fn n id bytes) := by
  have b20 := bitOf hw 20 rfl
  have k_set := maskOf (V := 1) hw rfl
  have k_putRing := maskOf (V := 2) hw rfl
  unfold ringWrite
  repeat' (first
    | with_reducible rfl
    | with_reducible assumption
    | with_reducible refine onOut_fp b20 _ _ ?_
    | with_reducible apply set_fp k_set
    | with_reducible apply putRing_fp k_putRing
    | with_reducible refine ite_fp ?_ ?_)

theorem ringBoundary_fp {fw : Nat} {fz : State} (hw : 1048578 &&& fw = 1048578) (s : State)
    (hz : Fp fw fz s) : Fp fw fz (ringBoundary s) := by
  have b20 := bitOf hw 20 rfl
  have k_putRing := maskOf (V := 2) hw rfl
  unfold ringBoundary
  repeat' (first
    | with_reducible rfl
    | with_reducible assumption
    | with_reducible refine onOut_fp b20 _ _ ?_
    | with_reducible apply putRing_fp k_putRing
    | with_reducible refine foldl_fp _ _ (fun _ _ _ => ?_) ?_
    | with_reducible refine foldlFst_fp _ _ (fun _ _ _ => ?_) ?_
    | with_reducible refine foldlSnd_fp _ _ (fun _ _ _ => ?_) ?_
    | with_reducible refine ite_fp ?_ ?_)

theorem onEnt_fp {fw : Nat} {fz : State} (hw : 2 &&& fw = 2) (s : State) (fn callId : Nat) (f : CallEnt → CallEnt)
    (hz : Fp fw fz s) : Fp fw fz (onEnt s fn callId f) := by
  have b1 := bitOf hw 1 rfl
  unfold onEnt
  repeat' (first
    | with_reducible rfl
    | with_reducible assumption
    | with_reducible refine onHiu_fp b1 _ _ ?_)

theorem dropEnt_fp {fw : Nat} {fz : State} (hw : 2 &&& fw = 2) (s : State) (fn callId : Nat)
    (hz : Fp fw fz s) : Fp fw fz (dropEnt s fn callId) := by
  have b1 := bitOf hw 1 rfl
  unfold dropEnt
  repeat' (first
    | with_reducible rfl
    | with_reducible assumption
    | with_reducible refine onHiu_fp b1 _ _ ?_)

theorem onSlot_fp {fw : Nat} {fz : State} (hw : 2 &&& fw = 2) (s : State) (i : Nat) (f : OutSlot → OutSlot)
    (hz : Fp fw fz s) : Fp fw fz (onSlot s i f) := by
  have b1 := bitOf hw 1 rfl
  unfold onSlot
  repeat' (first
    | with_reducible rfl
    | with_reducible assumption
    | with_reducible refine onHiu_fp b1 _ _ ?_)

theorem releaseSlot_fp {fw : Nat} {fz : State} (hw : 524291 &&& fw = 524291) (s : State) (i : Nat)
    (hz : Fp fw fz s) : Fp fw fz (releaseSlot s i) := by
  have b1 := bitOf hw 1 rfl
  have k_wmUpdate := maskOf (V := 524289) hw rfl
  have k_unreserveNq := maskOf (V := 2) hw rfl
  unfold releaseSlot
  repeat' (first
    | with_reducible rfl
    | with_reducible assumption
    | with_reducible refine onHiu_fp b1 _ _ ?_
    | with_reducible apply wmUpdate_fp k_wmUpdate
    | with_reducible apply unreserveNq_fp k_unreserveNq
    | split)

theorem refuseSlot_fp {fw : Nat} {fz : State} (hw : 524291 &&& fw = 524291) (s : State) (i status : Nat) (count : Bool)
    (hz : Fp fw fz s) : Fp fw fz (refuseSlot s i status count) := by
  have k_onSlot := maskOf (V := 2) hw rfl
  have k_wmUpdate := maskOf (V := 524289) hw rfl
  have k_inc := maskOf (V := 1) hw rfl
  unfold refuseSlot
  repeat' (first
    | with_reducible rfl
    | with_reducible assumption
    | with_reducible apply onSlot_fp k_onSlot
    | with_reducible apply wmUpdate_fp k_wmUpdate
    | with_reducible apply inc_fp k_inc
    | with_reducible refine ite_fp ?_ ?_
    | split)

theorem sendTransfer_fp {fw : Nat} {fz : State} (hw : 1049601 &&& fw = 1049601) (s : State) (dst id : Nat) (bs : List Byte)
    (hz : Fp fw fz s) : Fp fw fz (sendTransfer s dst id bs) := by
  have k_send := maskOf (V := 1049601) hw rfl
  unfold sendTransfer
  repeat' (first
    | with_reducible rfl
    | with_reducible assumption
    | with_reducible apply send_fp k_send
    | with_reducible refine foldl_fp _ _ (fun _ _ _ => ?_) ?_)

theorem tellDevs_fp {fw : Nat} {fz : State} (hw : 1049601 &&& fw = 1049601) (s : State) (ds : List Nat) (outcome value detail : Nat)
    (hz : Fp fw fz s) : Fp fw fz (tellDevs s ds outcome value detail) := by
  have k_reply := maskOf (V := 1049601) hw rfl
  unfold tellDevs
  repeat' (first
    | with_reducible rfl
    | with_reducible assumption
    | with_reducible apply reply_fp k_reply
    | with_reducible refine foldl_fp _ _ (fun _ _ _ => ?_) ?_
    | with_reducible refine foldlFst_fp _ _ (fun _ _ _ => ?_) ?_
    | with_reducible refine foldlSnd_fp _ _ (fun _ _ _ => ?_) ?_
    | with_reducible refine ite_fp ?_ ?_)

theorem noteHead_fp {fw : Nat} {fz : State} (hw : 4 &&& fw = 4) (s : State)
    (hz : Fp fw fz s) : Fp fw fz (noteHead s) := by
  have b2 := bitOf hw 2 rfl
  unfold noteHead
  repeat' (first
    | with_reducible rfl
    | with_reducible assumption
    | with_reducible refine onBox_fp b2 _ _ ?_
    | with_reducible refine ite_fp ?_ ?_)

theorem freeRequest_fp {fw : Nat} {fz : State} (hw : 1024 &&& fw = 1024) (s : State)
    (hz : Fp fw fz s) : Fp fw fz (freeRequest s) := by
  have b10 := bitOf hw 10 rfl
  have k_owe := maskOf (V := 1024) hw rfl
  unfold freeRequest
  repeat' (first
    | with_reducible rfl
    | with_reducible assumption
    | with_reducible refine onFab_fp b10 _ _ ?_ ?_
    | with_reducible simp only [List.length_map, List.length_set, List.length_mapIdx, List.length_modify]
    | with_reducible apply owe_fp k_owe
    | split)

theorem enterQueue_fp {fw : Nat} {fz : State} (hw : 525317 &&& fw = 525317) (s : State)
    (hz : Fp fw fz s) : Fp fw fz (enterQueue s) := by
  have b2 := bitOf hw 2 rfl
  have k_noteHead := maskOf (V := 4) hw rfl
  have k_wmUpdate := maskOf (V := 524289) hw rfl
  have k_freeRequest := maskOf (V := 1024) hw rfl
  unfold enterQueue
  repeat' (first
    | with_reducible rfl
    | with_reducible assumption
    | with_reducible refine onBox_fp b2 _ _ ?_
    | with_reducible apply noteHead_fp k_noteHead
    | with_reducible apply wmUpdate_fp k_wmUpdate
    | with_reducible apply freeRequest_fp k_freeRequest
    | with_reducible refine foldl_fp _ _ (fun _ _ _ => ?_) ?_
    | with_reducible refine foldlFst_fp _ _ (fun _ _ _ => ?_) ?_
    | with_reducible refine foldlSnd_fp _ _ (fun _ _ _ => ?_) ?_
    | with_reducible refine ite_fp ?_ ?_)

theorem arriveCard_fp {fw : Nat} {fz : State} (hw : 525317 &&& fw = 525317) (s : State) (src fn tag : Nat) (c : Card)
    (hz : Fp fw fz s) : Fp fw fz (arriveCard s src fn tag c) := by
  have b2 := bitOf hw 2 rfl
  have k_enterQueue := maskOf (V := 525317) hw rfl
  unfold arriveCard
  repeat' (first
    | with_reducible rfl
    | with_reducible assumption
    | with_reducible refine onBox_fp b2 _ _ ?_
    | with_reducible apply enterQueue_fp k_enterQueue)

theorem arrivePrompt_fp {fw : Nat} {fz : State} (hw : 525317 &&& fw = 525317) (s : State) (src fn callId first : Nat) (toks : List Nat)
    (hz : Fp fw fz s) : Fp fw fz (arrivePrompt s src fn callId first toks) := by
  have b2 := bitOf hw 2 rfl
  have k_enterQueue := maskOf (V := 525317) hw rfl
  unfold arrivePrompt
  repeat' (first
    | with_reducible rfl
    | with_reducible assumption
    | with_reducible refine onBox_fp b2 _ _ ?_
    | with_reducible apply enterQueue_fp k_enterQueue
    | with_reducible refine ite_fp ?_ ?_)

theorem sendCard_fp {fw : Nat} {fz : State} (hw : 1049601 &&& fw = 1049601) (s : State) (dst tag : Nat) (o : OutSlot) (c : Card)
    (hz : Fp fw fz s) : Fp fw fz (sendCard s dst tag o c) := by
  have k_send := maskOf (V := 1049601) hw rfl
  have k_request := maskOf (V := 1049601) hw rfl
  unfold sendCard
  repeat' (first
    | with_reducible rfl
    | with_reducible assumption
    | with_reducible apply send_fp k_send
    | with_reducible apply request_fp k_request
    | with_reducible refine foldl_fp _ _ (fun _ _ _ => ?_) ?_
    | with_reducible refine foldlFst_fp _ _ (fun _ _ _ => ?_) ?_)

theorem forwardSlot_fp {fw : Nat} {fz : State} (hw : 1573895 &&& fw = 1573895) (s : State) (i : Nat)
    (hz : Fp fw fz s) : Fp fw fz (forwardSlot s i) := by
  have k_refuseSlot := maskOf (V := 524291) hw rfl
  have k_takeTag := maskOf (V := 1024) hw rfl
  have k_onSlot := maskOf (V := 2) hw rfl
  have k_onEnt := maskOf (V := 2) hw rfl
  have k_wmUpdate := maskOf (V := 524289) hw rfl
  have k_arrivePrompt := maskOf (V := 525317) hw rfl
  have k_arriveCard := maskOf (V := 525317) hw rfl
  have k_sendCard := maskOf (V := 1049601) hw rfl
  unfold forwardSlot
  repeat' (first
    | with_reducible rfl
    | with_reducible assumption
    | with_reducible apply refuseSlot_fp k_refuseSlot
    | with_reducible apply takeTag_fp k_takeTag (by assumption)
    | with_reducible apply takeTag_fp1 k_takeTag
    | with_reducible apply onSlot_fp k_onSlot
    | with_reducible apply onEnt_fp k_onEnt
    | with_reducible apply wmUpdate_fp k_wmUpdate
    | with_reducible apply arrivePrompt_fp k_arrivePrompt
    | with_reducible apply arriveCard_fp k_arriveCard
    | with_reducible apply sendCard_fp k_sendCard
    | with_reducible refine ite_fp ?_ ?_
    | split)

theorem dropGone_fp {fw : Nat} {fz : State} (hw : 2 &&& fw = 2) (s : State)
    (hz : Fp fw fz s) : Fp fw fz (dropGone s) := by
  have b1 := bitOf hw 1 rfl
  have k_unreserveNq := maskOf (V := 2) hw rfl
  unfold dropGone
  repeat' (first
    | with_reducible rfl
    | with_reducible assumption
    | with_reducible refine onHiu_fp b1 _ _ ?_
    | with_reducible apply unreserveNq_fp k_unreserveNq
    | with_reducible refine foldl_fp _ _ (fun _ _ _ => ?_) ?_)

theorem forwardReady_fp {fw : Nat} {fz : State} (hw : 1573895 &&& fw = 1573895) (s : State)
    (hz : Fp fw fz s) : Fp fw fz (forwardReady s) := by
  have k_dropGone := maskOf (V := 2) hw rfl
  have k_forwardSlot := maskOf (V := 1573895) hw rfl
  unfold forwardReady
  repeat' (first
    | with_reducible rfl
    | with_reducible assumption
    | with_reducible apply dropGone_fp k_dropGone
    | with_reducible apply forwardSlot_fp k_forwardSlot
    | with_reducible refine foldl_fp _ _ (fun _ _ _ => ?_) ?_)

theorem onSrcCall_fp {fw : Nat} {fz : State} (hw : 8 &&& fw = 8) (s : State) (src fn callId : Nat) (f : Call → Call)
    (hz : Fp fw fz s) : Fp fw fz (onSrcCall s src fn callId f) := by
  have b3 := bitOf hw 3 rfl
  unfold onSrcCall
  repeat' (first
    | with_reducible rfl
    | with_reducible assumption
    | with_reducible refine onStm_fp b3 _ _ ?_)

theorem srcTells_fp {fw : Nat} {fz : State} (hw : 8 &&& fw = 8) (s : State) (src outcome fn callId code : Nat)
    (hz : Fp fw fz s) : Fp fw fz (srcTells s src outcome fn callId code) := by
  have k_onSrcCall := maskOf (V := 8) hw rfl
  unfold srcTells
  repeat' (first
    | with_reducible rfl
    | with_reducible assumption
    | with_reducible apply onSrcCall_fp k_onSrcCall
    | with_reducible refine ite_fp ?_ ?_)

theorem tellLead_fp {fw : Nat} {fz : State} (hw : 1049609 &&& fw = 1049609) (s : State) (e : CallEnt) (outcome code : Nat)
    (hz : Fp fw fz s) : Fp fw fz (tellLead s e outcome code) := by
  have k_srcTells := maskOf (V := 8) hw rfl
  have k_reply := maskOf (V := 1049601) hw rfl
  unfold tellLead
  repeat' (first
    | with_reducible rfl
    | with_reducible assumption
    | with_reducible apply srcTells_fp k_srcTells
    | with_reducible apply reply_fp k_reply
    | with_reducible refine ite_fp ?_ ?_)

theorem tellFinal_fp {fw : Nat} {fz : State} (hw : 1049609 &&& fw = 1049609) (s : State) (fn callId : Nat)
    (hz : Fp fw fz s) : Fp fw fz (tellFinal s fn callId) := by
  have k_tellLead := maskOf (V := 1049609) hw rfl
  unfold tellFinal
  repeat' (first
    | with_reducible rfl
    | with_reducible assumption
    | with_reducible apply tellLead_fp k_tellLead
    | with_reducible refine ite_fp ?_ ?_
    | split)

theorem handleHere_fp {fw : Nat} {fz : State} (hw : 2 &&& fw = 2) (s : State) (value handle : Nat)
    (hz : Fp fw fz s) : Fp fw fz (handleHere s value handle) := by
  have b1 := bitOf hw 1 rfl
  unfold handleHere
  repeat' (first
    | with_reducible rfl
    | with_reducible assumption
    | with_reducible refine onHiu_fp b1 _ _ ?_)

theorem handleFrom_fp {fw : Nat} {fz : State} (hw : 1049603 &&& fw = 1049603) (s : State) (src value handle : Nat)
    (hz : Fp fw fz s) : Fp fw fz (handleFrom s src value handle) := by
  have k_handleHere := maskOf (V := 2) hw rfl
  have k_tellDevs := maskOf (V := 1049601) hw rfl
  unfold handleFrom
  repeat' (first
    | with_reducible rfl
    | with_reducible assumption
    | with_reducible apply handleHere_fp k_handleHere
    | with_reducible apply tellDevs_fp k_tellDevs
    | with_reducible refine ite_fp ?_ ?_)

theorem arriveFinal_fp {fw : Nat} {fz : State} (hw : 1049611 &&& fw = 1049611) (s : State) (e : CallEnt) (code value detail : Nat)
    (hz : Fp fw fz s) : Fp fw fz (arriveFinal s e code value detail) := by
  have k_onEnt := maskOf (V := 2) hw rfl
  have k_tellFinal := maskOf (V := 1049609) hw rfl
  unfold arriveFinal
  repeat' (first
    | with_reducible rfl
    | with_reducible assumption
    | with_reducible apply onEnt_fp k_onEnt
    | with_reducible apply tellFinal_fp k_tellFinal)

theorem decideSlot_fp {fw : Nat} {fz : State} (hw : 1573895 &&& fw = 1573895) (s : State) (i code outcome value detail : Nat)
    (hz : Fp fw fz s) : Fp fw fz (decideSlot s i code outcome value detail) := by
  have b1 := bitOf hw 1 rfl
  have k_forwardReady := maskOf (V := 1573895) hw rfl
  have k_releaseSlot := maskOf (V := 524291) hw rfl
  have k_onEnt := maskOf (V := 2) hw rfl
  have k_refuseSlot := maskOf (V := 524291) hw rfl
  have k_onSlot := maskOf (V := 2) hw rfl
  unfold decideSlot
  repeat' (first
    | with_reducible rfl
    | with_reducible assumption
    | with_reducible refine onHiu_fp b1 _ _ ?_
    | with_reducible apply forwardReady_fp k_forwardReady
    | with_reducible apply releaseSlot_fp k_releaseSlot
    | with_reducible apply onEnt_fp k_onEnt
    | with_reducible apply refuseSlot_fp k_refuseSlot
    | with_reducible apply onSlot_fp k_onSlot
    | with_reducible refine ite_fp ?_ ?_
    | split)

theorem decideTag_fp {fw : Nat} {fz : State} (hw : 1573903 &&& fw = 1573903) (s : State) (tag code outcome value detail : Nat)
    (hz : Fp fw fz s) : Fp fw fz (decideTag s tag code outcome value detail) := by
  have k_decideSlot := maskOf (V := 1573895) hw rfl
  have k_arriveFinal := maskOf (V := 1049611) hw rfl
  unfold decideTag
  repeat' (first
    | with_reducible rfl
    | with_reducible assumption
    | with_reducible apply decideSlot_fp k_decideSlot
    | with_reducible apply arriveFinal_fp k_arriveFinal
    | split)

theorem answer_fp {fw : Nat} {fz : State} (hw : 1573903 &&& fw = 1573903) (s : State) (src tag code outcome value detail : Nat)
    (hz : Fp fw fz s) : Fp fw fz (answer s src tag code outcome value detail) := by
  have k_decideTag := maskOf (V := 1573903) hw rfl
  have k_reply := maskOf (V := 1049601) hw rfl
  unfold answer
  repeat' (first
    | with_reducible rfl
    | with_reducible assumption
    | with_reducible apply decideTag_fp k_decideTag
    | with_reducible apply reply_fp k_reply
    | with_reducible refine ite_fp ?_ ?_)

theorem arriveLine_fp {fw : Nat} {fz : State} (hw : 524291 &&& fw = 524291) (s : State) (src fn : Nat) (lines : List Line)
    (hz : Fp fw fz s) : Fp fw fz (arriveLine s src fn lines) := by
  have k_onEnt := maskOf (V := 2) hw rfl
  have k_wmUpdate := maskOf (V := 524289) hw rfl
  unfold arriveLine
  repeat' (first
    | with_reducible rfl
    | with_reducible assumption
    | with_reducible apply onEnt_fp k_onEnt
    | with_reducible apply wmUpdate_fp k_wmUpdate
    | with_reducible refine foldl_fp _ _ (fun _ _ _ => ?_) ?_
    | with_reducible refine foldlFst_fp _ _ (fun _ _ _ => ?_) ?_
    | with_reducible refine foldlSnd_fp _ _ (fun _ _ _ => ?_) ?_
    | with_reducible refine ite_fp ?_ ?_
    | split)

theorem arriveCredit_fp {fw : Nat} {fz : State} (hw : 8 &&& fw = 8) (s : State) (src : Nat) (ents : List (Nat × Nat × Nat))
    (hz : Fp fw fz s) : Fp fw fz (arriveCredit s src ents) := by
  have b3 := bitOf hw 3 rfl
  unfold arriveCredit
  repeat' (first
    | with_reducible rfl
    | with_reducible assumption
    | with_reducible refine onStm_fp b3 _ _ ?_)

theorem returnCredits_fp {fw : Nat} {fz : State} (hw : 1049609 &&& fw = 1049609) (s : State) (fn : Nat) (calls : List CallEnt)
    (hz : Fp fw fz s) : Fp fw fz (returnCredits s fn calls) := by
  have k_arriveCredit := maskOf (V := 8) hw rfl
  have k_send := maskOf (V := 1049601) hw rfl
  unfold returnCredits
  repeat' (first
    | with_reducible rfl
    | with_reducible assumption
    | with_reducible apply arriveCredit_fp k_arriveCredit
    | with_reducible apply send_fp k_send
    | with_reducible refine foldl_fp _ _ (fun _ _ _ => ?_) ?_
    | with_reducible refine foldlFst_fp _ _ (fun _ _ _ => ?_) ?_
    | with_reducible refine foldlSnd_fp _ _ (fun _ _ _ => ?_) ?_
    | with_reducible refine ite_fp ?_ ?_)

theorem doorbellErr_fp {fw : Nat} {fz : State} (hw : 1 &&& fw = 1) (s : State) (fn : Nat)
    (hz : Fp fw fz s) : Fp fw fz (doorbellErr s fn) := by
  have k_set := maskOf (V := 1) hw rfl
  unfold doorbellErr
  repeat' (first
    | with_reducible rfl
    | with_reducible assumption
    | with_reducible apply set_fp k_set
    | with_reducible refine ite_fp ?_ ?_)

theorem execSqTailDoorbell_fp (fn : Fin 128) (n : Fin 4) (v : Word) (s : State) (t : State) (h : execSqTailDoorbell fn n v s = .next t) :
    Fp 1 s t := by
  have hw : 1 &&& 1 = 1 := rfl
  unfold execSqTailDoorbell at h
  simp only [Host.Outcome.next.injEq] at h
  subst h
  have hz : Fp 1 s s := Fp.refl _ _
  have k_set := maskOf (V := 1) hw rfl
  have k_doorbellErr := maskOf (V := 1) hw rfl
  repeat' (first
    | with_reducible rfl
    | with_reducible assumption
    | with_reducible apply set_fp k_set
    | with_reducible apply doorbellErr_fp k_doorbellErr
    | split)

theorem forgetRead_fp {fw : Nat} {fz : State} (hw : 2 &&& fw = 2) (s : State) (fn n : Nat) (ids : List Nat)
    (hz : Fp fw fz s) : Fp fw fz (forgetRead s fn n ids) := by
  have b1 := bitOf hw 1 rfl
  unfold forgetRead
  repeat' (first
    | with_reducible rfl
    | with_reducible assumption
    | with_reducible refine onHiu_fp b1 _ _ ?_)

theorem execLqHeadDoorbell_fp (fn : Fin 128) (n : Fin 4) (v : Word) (s : State) (t : State) (h : execLqHeadDoorbell fn n v s = .next t) :
    Fp 1573899 s t := by
  have hw : 1573899 &&& 1573899 = 1573899 := rfl
  unfold execLqHeadDoorbell at h
  simp only [Host.Outcome.next.injEq] at h
  subst h
  have hz : Fp 1573899 s s := Fp.refl _ _
  have b1 := bitOf hw 1 rfl
  have k_doorbellErr := maskOf (V := 1) hw rfl
  have k_putRing := maskOf (V := 2) hw rfl
  have k_set := maskOf (V := 1) hw rfl
  have k_forgetRead := maskOf (V := 2) hw rfl
  have k_wmUpdate := maskOf (V := 524289) hw rfl
  have k_returnCredits := maskOf (V := 1049609) hw rfl
  repeat' (first
    | with_reducible rfl
    | with_reducible assumption
    | with_reducible refine onHiu_fp b1 _ _ ?_
    | with_reducible apply doorbellErr_fp k_doorbellErr
    | with_reducible apply putRing_fp k_putRing
    | with_reducible apply set_fp k_set
    | with_reducible apply forgetRead_fp k_forgetRead
    | with_reducible apply wmUpdate_fp k_wmUpdate
    | with_reducible apply returnCredits_fp k_returnCredits
    | with_reducible refine ite_fp ?_ ?_
    | split)

theorem execNqHeadDoorbell_fp (fn : Fin 128) (v : Word) (s : State) (t : State) (h : execNqHeadDoorbell fn v s = .next t) :
    Fp 3 s t := by
  have hw : 3 &&& 3 = 3 := rfl
  unfold execNqHeadDoorbell at h
  simp only [Host.Outcome.next.injEq] at h
  subst h
  have hz : Fp 3 s s := Fp.refl _ _
  have k_doorbellErr := maskOf (V := 1) hw rfl
  have k_putRing := maskOf (V := 2) hw rfl
  have k_set := maskOf (V := 1) hw rfl
  have k_forgetRead := maskOf (V := 2) hw rfl
  have k_dropEnt := maskOf (V := 2) hw rfl
  repeat' (first
    | with_reducible rfl
    | with_reducible assumption
    | with_reducible apply doorbellErr_fp k_doorbellErr
    | with_reducible apply putRing_fp k_putRing
    | with_reducible apply set_fp k_set
    | with_reducible apply forgetRead_fp k_forgetRead
    | with_reducible apply dropEnt_fp k_dropEnt
    | with_reducible refine foldl_fp _ _ (fun _ _ _ => ?_) ?_
    | with_reducible refine foldlFst_fp _ _ (fun _ _ _ => ?_) ?_
    | with_reducible refine foldlSnd_fp _ _ (fun _ _ _ => ?_) ?_
    | with_reducible refine ite_fp ?_ ?_
    | split)

theorem fetched_fp {fw : Nat} {fz : State} (hw : 524291 &&& fw = 524291) (s : State) (fn n : Nat) (card : Card)
    (hz : Fp fw fz s) : Fp fw fz (fetched s fn n card) := by
  have b1 := bitOf hw 1 rfl
  have k_set := maskOf (V := 1) hw rfl
  have k_reserveNq := maskOf (V := 2) hw rfl
  have k_wmUpdate := maskOf (V := 524289) hw rfl
  unfold fetched
  repeat' (first
    | with_reducible rfl
    | with_reducible assumption
    | with_reducible refine onHiu_fp b1 _ _ ?_
    | with_reducible apply set_fp k_set
    | with_reducible apply reserveNq_fp k_reserveNq
    | with_reducible apply wmUpdate_fp k_wmUpdate)

theorem admitFetched_fp {fw : Nat} {fz : State} (hw : 1573895 &&& fw = 1573895) (s : State) (fn : Nat) (c : Card)
    (hz : Fp fw fz s) : Fp fw fz (admitFetched s fn c) := by
  have b1 := bitOf hw 1 rfl
  have k_releaseSlot := maskOf (V := 524291) hw rfl
  have k_inc := maskOf (V := 1) hw rfl
  have k_refuseSlot := maskOf (V := 524291) hw rfl
  have k_onSlot := maskOf (V := 2) hw rfl
  have k_forwardReady := maskOf (V := 1573895) hw rfl
  unfold admitFetched
  repeat' (first
    | with_reducible rfl
    | with_reducible assumption
    | with_reducible refine onHiu_fp b1 _ _ ?_
    | with_reducible apply releaseSlot_fp k_releaseSlot
    | with_reducible apply inc_fp k_inc
    | with_reducible apply refuseSlot_fp k_refuseSlot
    | with_reducible apply onSlot_fp k_onSlot
    | with_reducible apply forwardReady_fp k_forwardReady
    | with_reducible refine ite_fp ?_ ?_
    | split)

theorem execCardFetch_fp (card : Card) (s : State) (t : State) (h : execCardFetch card s = .next t) :
    Fp 1577991 s t := by
  have hw : 1577991 &&& 1577991 = 1577991 := rfl
  unfold execCardFetch at h
  simp only [Host.Outcome.next.injEq] at h
  subst h
  have hz : Fp 1577991 s s := Fp.refl _ _
  have k_admitFetched := maskOf (V := 1573895) hw rfl
  have k_fetched := maskOf (V := 524291) hw rfl
  have k_demandDom := maskOf (V := 4097) hw rfl
  repeat' (first
    | with_reducible rfl
    | with_reducible assumption
    | with_reducible apply admitFetched_fp k_admitFetched
    | with_reducible apply fetched_fp k_fetched
    | with_reducible apply demandDom_fp k_demandDom
    | with_reducible refine ite_fp ?_ ?_
    | split)

theorem execPromptPullDone_fp (fn : Fin 128) (callId : Word) (toks : List Word) (poison fault : Bool) (s : State) (t : State) (h : execPromptPullDone fn callId toks poison fault s = .next t) :
    Fp 1573895 s t := by
  have hw : 1573895 &&& 1573895 = 1573895 := rfl
  unfold execPromptPullDone at h
  simp only [Host.Outcome.next.injEq] at h
  subst h
  have hz : Fp 1573895 s s := Fp.refl _ _
  have k_refuseSlot := maskOf (V := 524291) hw rfl
  have k_forwardReady := maskOf (V := 1573895) hw rfl
  have k_onSlot := maskOf (V := 2) hw rfl
  repeat' (first
    | with_reducible rfl
    | with_reducible assumption
    | with_reducible apply refuseSlot_fp k_refuseSlot
    | with_reducible apply forwardReady_fp k_forwardReady
    | with_reducible apply onSlot_fp k_onSlot
    | with_reducible refine ite_fp ?_ ?_
    | split)

theorem writeFailed_fp {fw : Nat} {fz : State} (hw : 3 &&& fw = 3) (s : State) (fn : Nat)
    (hz : Fp fw fz s) : Fp fw fz (writeFailed s fn) := by
  have b1 := bitOf hw 1 rfl
  have k_set := maskOf (V := 1) hw rfl
  unfold writeFailed
  repeat' (first
    | with_reducible rfl
    | with_reducible assumption
    | with_reducible refine onHiu_fp b1 _ _ ?_
    | with_reducible apply set_fp k_set)

theorem redoDone_fp {fw : Nat} {fz : State} (hw : 1049611 &&& fw = 1049611) (s : State) (fn n id : Nat)
    (hz : Fp fw fz s) : Fp fw fz (redoDone s fn n id) := by
  have b1 := bitOf hw 1 rfl
  have k_parkHost := maskOf (V := 1049611) hw rfl
  unfold redoDone
  repeat' (first
    | with_reducible rfl
    | with_reducible assumption
    | with_reducible refine onHiu_fp b1 _ _ ?_
    | with_reducible apply parkHost_fp k_parkHost
    | with_reducible refine ite_fp ?_ ?_)

theorem noteWritten_fp {fw : Nat} {fz : State} (hw : 1049611 &&& fw = 1049611) (s : State) (fn n id : Nat)
    (hz : Fp fw fz s) : Fp fw fz (noteWritten s fn n id) := by
  have b1 := bitOf hw 1 rfl
  have k_redoDone := maskOf (V := 1049611) hw rfl
  unfold noteWritten
  repeat' (first
    | with_reducible rfl
    | with_reducible assumption
    | with_reducible refine onHiu_fp b1 _ _ ?_
    | with_reducible apply redoDone_fp k_redoDone)

theorem execLineWrite_fp (fn : Fin 128) (callId : Word) (ok : Bool) (s : State) (t : State) (h : execLineWrite fn callId ok s = .next t) :
    Fp 1577995 s t := by
  have hw : 1577995 &&& 1577995 = 1577995 := rfl
  unfold execLineWrite at h
  simp only [Host.Outcome.next.injEq] at h
  subst h
  have hz : Fp 1577995 s s := Fp.refl _ _
  have k_demandDom := maskOf (V := 4097) hw rfl
  have k_writeFailed := maskOf (V := 3) hw rfl
  have k_ringWrite := maskOf (V := 1048579) hw rfl
  have k_noteWritten := maskOf (V := 1049611) hw rfl
  have k_onEnt := maskOf (V := 2) hw rfl
  have k_wmUpdate := maskOf (V := 524289) hw rfl
  have k_tellFinal := maskOf (V := 1049609) hw rfl
  repeat' (first
    | with_reducible rfl
    | with_reducible assumption
    | with_reducible apply demandDom_fp k_demandDom
    | with_reducible apply writeFailed_fp k_writeFailed
    | with_reducible apply ringWrite_fp k_ringWrite
    | with_reducible apply noteWritten_fp k_noteWritten
    | with_reducible apply onEnt_fp k_onEnt
    | with_reducible apply wmUpdate_fp k_wmUpdate
    | with_reducible apply tellFinal_fp k_tellFinal
    | with_reducible refine ite_fp ?_ ?_
    | split)

theorem restoredHere_fp {fw : Nat} {fz : State} (hw : 8 &&& fw = 8) (s : State) (fn callId : Nat)
    (hz : Fp fw fz s) : Fp fw fz (restoredHere s fn callId) := by
  have b3 := bitOf hw 3 rfl
  unfold restoredHere
  repeat' (first
    | with_reducible rfl
    | with_reducible assumption
    | with_reducible refine onStm_fp b3 _ _ ?_)

theorem pickNotice_fp {fw : Nat} {fz : State} (hw : 10 &&& fw = 10) {s : State} {fn : Nat} {sel : NoticeSel}
    {n : Notice} {r : Bool} {i : Nat} {k : State → State} (he : pickNotice s fn sel = some (n, r, i, k)) :
    ∀ x, Fp fw fz x → Fp fw fz (k x) := by
  have b1 := bitOf hw 1 rfl
  have k_onEnt := maskOf (V := 2) hw rfl
  have k_dropEnt := maskOf (V := 2) hw rfl
  have k_restoredHere := maskOf (V := 8) hw rfl
  unfold pickNotice at he
  simp only at he
  repeat' split at he
  all_goals try simp only [reduceCtorEq] at he
  all_goals
    simp only [Option.map_eq_some_iff, Prod.mk.injEq] at he
    obtain ⟨_, _, _, _, _, rfl⟩ := he
    intro x h
    repeat' (first
      | assumption
      | with_reducible apply onEnt_fp k_onEnt
      | with_reducible apply restoredHere_fp k_restoredHere
      | with_reducible refine onHiu_fp b1 _ _ ?_
      | with_reducible apply dropEnt_fp k_dropEnt)

theorem execNoticeWrite_fp (fn : Fin 128) (sel : NoticeSel) (ok : Bool) (s : State) (t : State) (h : execNoticeWrite fn sel ok s = .next t) :
    Fp 1577995 s t := by
  have hw : 1577995 &&& 1577995 = 1577995 := rfl
  unfold execNoticeWrite at h
  simp only [Host.Outcome.next.injEq] at h
  subst h
  have hz : Fp 1577995 s s := Fp.refl _ _
  have k_pickNotice := maskOf (V := 10) hw rfl
  have k_demandDom := maskOf (V := 4097) hw rfl
  have k_writeFailed := maskOf (V := 3) hw rfl
  have k_unreserveNq := maskOf (V := 2) hw rfl
  have k_ringWrite := maskOf (V := 1048579) hw rfl
  have k_wmUpdate := maskOf (V := 524289) hw rfl
  have k_noteWritten := maskOf (V := 1049611) hw rfl
  repeat' (first
    | with_reducible rfl
    | with_reducible assumption
    | with_reducible apply demandDom_fp k_demandDom
    | with_reducible apply writeFailed_fp k_writeFailed
    | with_reducible apply unreserveNq_fp k_unreserveNq
    | with_reducible apply ringWrite_fp k_ringWrite
    | with_reducible apply wmUpdate_fp k_wmUpdate
    | with_reducible apply noteWritten_fp k_noteWritten
    | with_reducible refine pickNotice_fp k_pickNotice (by assumption) _ ?_
    | with_reducible refine ite_fp ?_ ?_
    | split)

theorem execReclaim_fp (fn : Fin 128) (v : Word) (s : State) (t : State) (h : execReclaim fn v s = .next t) :
    Fp 1049611 s t := by
  have hw : 1049611 &&& 1049611 = 1049611 := rfl
  unfold execReclaim at h
  simp only [Host.Outcome.next.injEq] at h
  subst h
  have hz : Fp 1049611 s s := Fp.refl _ _
  have b1 := bitOf hw 1 rfl
  have k_reserveNq := maskOf (V := 2) hw rfl
  have k_parkHost := maskOf (V := 1049611) hw rfl
  have k_set := maskOf (V := 1) hw rfl
  have k_deviceNotice := maskOf (V := 3) hw rfl
  repeat' (first
    | with_reducible rfl
    | with_reducible assumption
    | with_reducible refine onHiu_fp b1 _ _ ?_
    | with_reducible apply reserveNq_fp k_reserveNq
    | with_reducible apply parkHost_fp k_parkHost
    | with_reducible apply set_fp k_set
    | with_reducible apply deviceNotice_fp k_deviceNotice
    | with_reducible refine foldl_fp _ _ (fun _ _ _ => ?_) ?_
    | with_reducible refine foldlFst_fp _ _ (fun _ _ _ => ?_) ?_
    | with_reducible refine foldlSnd_fp _ _ (fun _ _ _ => ?_) ?_
    | with_reducible refine ite_fp ?_ ?_
    | split)

theorem execLine_fp (src : Fin 1024) (fn : Fin 128) (lines : List Line) (s : State) (t : State) (h : execLine src fn lines s = .next t) :
    Fp 524291 s t := by
  have hw : 524291 &&& 524291 = 524291 := rfl
  unfold execLine at h
  simp only [Host.Outcome.next.injEq] at h
  subst h
  have hz : Fp 524291 s s := Fp.refl _ _
  have k_arriveLine := maskOf (V := 524291) hw rfl
  repeat' (first
    | with_reducible rfl
    | with_reducible assumption
    | with_reducible apply arriveLine_fp k_arriveLine)

theorem execCredit_fp (src : Fin 1024) (ents : List (Word × Fin 128 × Nat)) (s : State) (t : State) (h : execCredit src ents s = .next t) :
    Fp 8 s t := by
  have hw : 8 &&& 8 = 8 := rfl
  unfold execCredit at h
  simp only [Host.Outcome.next.injEq] at h
  subst h
  have hz : Fp 8 s s := Fp.refl _ _
  have k_arriveCredit := maskOf (V := 8) hw rfl
  repeat' (first
    | with_reducible rfl
    | with_reducible assumption
    | with_reducible apply arriveCredit_fp k_arriveCredit)

theorem execCard_fp (src : Fin 1024) (fn : Fin 128) (tag : BitVec 16) (_off : Word) (card : Card) (s : State) (t : State) (h : execCard src fn tag _off card s = .next t) :
    Fp 525317 s t := by
  have hw : 525317 &&& 525317 = 525317 := rfl
  unfold execCard at h
  simp only [Host.Outcome.next.injEq] at h
  subst h
  have hz : Fp 525317 s s := Fp.refl _ _
  have k_arriveCard := maskOf (V := 525317) hw rfl
  repeat' (first
    | with_reducible rfl
    | with_reducible assumption
    | with_reducible apply arriveCard_fp k_arriveCard
    | with_reducible refine ite_fp ?_ ?_)

theorem execPrompt_fp (src : Fin 1024) (fn : Fin 128) (callId : Word) (first : Nat) (toks : List Word) (s : State) (t : State) (h : execPrompt src fn callId first toks s = .next t) :
    Fp 525317 s t := by
  have hw : 525317 &&& 525317 = 525317 := rfl
  unfold execPrompt at h
  simp only [Host.Outcome.next.injEq] at h
  subst h
  have hz : Fp 525317 s s := Fp.refl _ _
  have k_arrivePrompt := maskOf (V := 525317) hw rfl
  repeat' (first
    | with_reducible rfl
    | with_reducible assumption
    | with_reducible apply arrivePrompt_fp k_arrivePrompt
    | with_reducible refine ite_fp ?_ ?_)

end Sys2Proof.Machine
end

