-- ==== Sys2Proof/Laws/FootHaywain.lean ====
section
/-!
SUPPORT. Footprints of the operations of Machine/Haywain.lean: what each may touch (Fp).
-/
namespace Sys2Proof.Machine

theorem putHq_fp {fw : Nat} {fz : State} (hw : 2 &&& fw = 2) (s : State) (k : Nat) (q : List HDesc)
    (hz : Fp fw fz s) : Fp fw fz (putHq s k q) := by
  have b1 := bitOf hw 1 rfl
  unfold putHq
  repeat' (first
    | with_reducible rfl
    | with_reducible assumption
    | with_reducible refine onHiu_fp b1 _ _ ?_)

theorem hqFinish_fp {fw : Nat} {fz : State} (hw : 2 &&& fw = 2) (s : State) (k i err : Nat)
    (hz : Fp fw fz s) : Fp fw fz (hqFinish s k i err) := by
  have k_putHq := maskOf (V := 2) hw rfl
  unfold hqFinish
  repeat' (first
    | with_reducible rfl
    | with_reducible assumption
    | with_reducible apply putHq_fp k_putHq)

theorem hqHead_fp {fw : Nat} {fz : State} (hw : 524291 &&& fw = 524291) (s : State) (k : Nat)
    (hz : Fp fw fz s) : Fp fw fz (hqHead s k) := by
  have k_acceptHq := maskOf (V := 2) hw rfl
  have k_wmUpdate := maskOf (V := 524289) hw rfl
  have k_set := maskOf (V := 1) hw rfl
  unfold hqHead
  repeat' (first
    | with_reducible rfl
    | with_reducible assumption
    | with_reducible apply acceptHq_fp k_acceptHq
    | with_reducible apply wmUpdate_fp k_wmUpdate
    | with_reducible apply set_fp k_set)

theorem writeDevice_fp {fw : Nat} {fz : State} (hw : 4194816 &&& fw = 4194816) (s : State) (a : Nat) (bs : List Byte)
    (hz : Fp fw fz s) : Fp fw fz (writeDevice s a bs) := by
  have k_writeByte := maskOf (V := 4194816) hw rfl
  unfold writeDevice
  repeat' (first
    | with_reducible rfl
    | with_reducible assumption
    | with_reducible apply writeByte_fp k_writeByte
    | with_reducible refine foldl_fp _ _ (fun _ _ _ => ?_) ?_)

theorem execHqTailDoorbell_fp (k : Fin 4) (v : Word) (descs : List Desc) (s : State) (t : State) (h : execHqTailDoorbell k v descs s = .next t) :
    Fp 524291 s t := by
  have hw : 524291 &&& 524291 = 524291 := rfl
  unfold execHqTailDoorbell at h
  simp only [Host.Outcome.next.injEq] at h
  subst h
  have hz : Fp 524291 s s := Fp.refl _ _
  have k_set := maskOf (V := 1) hw rfl
  have k_hqHead := maskOf (V := 524291) hw rfl
  have k_putHq := maskOf (V := 2) hw rfl
  repeat' (first
    | with_reducible rfl
    | with_reducible assumption
    | with_reducible apply set_fp k_set
    | with_reducible apply hqHead_fp k_hqHead
    | with_reducible apply putHq_fp k_putHq
    | with_reducible refine ite_fp ?_ ?_)

theorem execH2d_fp (k : Fin 4) (data : List Byte) (x : Xfer) (s : State) (t : State) (h : execH2d k data x s = .next t) :
    Fp 4395523 s t := by
  have hw : 4395523 &&& 4395523 = 4395523 := rfl
  unfold execH2d at h
  simp only [Host.Outcome.next.injEq] at h
  subst h
  have hz : Fp 4395523 s s := Fp.refl _ _
  have k_demandDom := maskOf (V := 4097) hw rfl
  have k_hqFinish := maskOf (V := 2) hw rfl
  have k_audit := maskOf (V := 196609) hw rfl
  have k_setPoison := maskOf (V := 512) hw rfl
  have k_writeDevice := maskOf (V := 4194816) hw rfl
  repeat' (first
    | with_reducible rfl
    | with_reducible assumption
    | with_reducible apply demandDom_fp k_demandDom
    | with_reducible apply hqFinish_fp k_hqFinish
    | with_reducible apply audit_fp k_audit
    | with_reducible apply setPoison_fp k_setPoison
    | with_reducible apply writeDevice_fp k_writeDevice
    | with_reducible refine foldl_fp _ _ (fun _ _ _ => ?_) ?_
    | with_reducible refine foldlFst_fp _ _ (fun _ _ _ => ?_) ?_
    | with_reducible refine foldlSnd_fp _ _ (fun _ _ _ => ?_) ?_
    | with_reducible refine ite_fp ?_ ?_
    | split)

theorem execD2h_fp (k : Fin 4) (x : Xfer) (s : State) (t : State) (h : execD2h k x s = .next t) :
    Fp 1249283 s t := by
  have hw : 1249283 &&& 1249283 = 1249283 := rfl
  unfold execD2h at h
  simp only [Host.Outcome.next.injEq] at h
  subst h
  have hz : Fp 1249283 s s := Fp.refl _ _
  have b20 := bitOf hw 20 rfl
  have k_demandDom := maskOf (V := 4097) hw rfl
  have k_hqFinish := maskOf (V := 2) hw rfl
  have k_audit := maskOf (V := 196609) hw rfl
  repeat' (first
    | with_reducible rfl
    | with_reducible assumption
    | with_reducible refine onOut_fp b20 _ _ ?_
    | with_reducible apply demandDom_fp k_demandDom
    | with_reducible apply hqFinish_fp k_hqFinish
    | with_reducible apply audit_fp k_audit
    | with_reducible refine ite_fp ?_ ?_
    | split)

theorem execFence_fp (k : Fin 4) (s : State) (t : State) (h : execFence k s = .next t) :
    Fp 2 s t := by
  have hw : 2 &&& 2 = 2 := rfl
  unfold execFence at h
  simp only [Host.Outcome.next.injEq] at h
  subst h
  have hz : Fp 2 s s := Fp.refl _ _
  have k_hqFinish := maskOf (V := 2) hw rfl
  repeat' (first
    | with_reducible rfl
    | with_reducible assumption
    | with_reducible apply hqFinish_fp k_hqFinish
    | with_reducible refine ite_fp ?_ ?_
    | split)

theorem execDescriptorComplete_fp (k : Fin 4) (s : State) (t : State) (h : execDescriptorComplete k s = .next t) :
    Fp 1572867 s t := by
  have hw : 1572867 &&& 1572867 = 1572867 := rfl
  unfold execDescriptorComplete at h
  simp only [Host.Outcome.next.injEq] at h
  subst h
  have hz : Fp 1572867 s s := Fp.refl _ _
  have b20 := bitOf hw 20 rfl
  have k_set := maskOf (V := 1) hw rfl
  have k_putHq := maskOf (V := 2) hw rfl
  have k_hqHead := maskOf (V := 524291) hw rfl
  repeat' (first
    | with_reducible rfl
    | with_reducible assumption
    | with_reducible refine onOut_fp b20 _ _ ?_
    | with_reducible apply set_fp k_set
    | with_reducible apply putHq_fp k_putHq
    | with_reducible apply hqHead_fp k_hqHead
    | with_reducible refine ite_fp ?_ ?_
    | split)

theorem execHqResume_fp (k : Fin 4) (v : Word) (s : State) (t : State) (h : execHqResume k v s = .next t) :
    Fp 729107 s t := by
  have hw : 729107 &&& 729107 = 729107 := rfl
  unfold execHqResume at h
  simp only [Host.Outcome.next.injEq] at h
  subst h
  have hz : Fp 729107 s s := Fp.refl _ _
  have k_commandWord := maskOf (V := 729107) hw rfl
  have k_hqHead := maskOf (V := 524291) hw rfl
  have k_set := maskOf (V := 1) hw rfl
  repeat' (first
    | with_reducible rfl
    | with_reducible assumption
    | with_reducible apply commandWord_fp k_commandWord
    | with_reducible apply hqHead_fp k_hqHead
    | with_reducible apply set_fp k_set
    | with_reducible refine ite_fp ?_ ?_)

theorem abortQueue_fp {fw : Nat} {fz : State} (hw : 524291 &&& fw = 524291) (s : State) (k : Nat)
    (hz : Fp fw fz s) : Fp fw fz (abortQueue s k) := by
  have k_hqHead := maskOf (V := 524291) hw rfl
  have k_set := maskOf (V := 1) hw rfl
  have k_putHq := maskOf (V := 2) hw rfl
  unfold abortQueue
  repeat' (first
    | with_reducible rfl
    | with_reducible assumption
    | with_reducible apply hqHead_fp k_hqHead
    | with_reducible apply set_fp k_set
    | with_reducible apply putHq_fp k_putHq
    | split)

theorem abortQueues_fp {fw : Nat} {fz : State} (hw : 524291 &&& fw = 524291) (s : State)
    (hz : Fp fw fz s) : Fp fw fz (abortQueues s) := by
  have k_abortQueue := maskOf (V := 524291) hw rfl
  unfold abortQueues
  repeat' (first
    | with_reducible rfl
    | with_reducible assumption
    | with_reducible apply abortQueue_fp k_abortQueue
    | with_reducible refine foldl_fp _ _ (fun _ _ _ => ?_) ?_)

end Sys2Proof.Machine
end

