-- ==== Sys2Proof/Laws/FootGorse.lean ====
section
/-!
SUPPORT. Footprints of the operations of Machine/Gorse.lean: what each may touch (Fp).
-/
namespace Sys2Proof.Machine

theorem takeIv_fp1 {fw : Nat} {fz : State} (hw : 196609 &&& fw = 196609) (s : State)
    (hz : Fp fw fz s) : Fp fw fz (takeIv s).2 := by
  have b16 := bitOf hw 16 rfl
  have b17 := bitOf hw 17 rfl
  have k_storeBlock := maskOf (V := 131073) hw rfl
  unfold takeIv
  repeat' (first
    | with_reducible rfl
    | with_reducible assumption
    | with_reducible refine onSdr_fp b16 _ _ ?_ ?_ ?_
    | with_reducible refine onLdg_fp b17 _ _ ?_
    | with_reducible apply storeBlock_fp k_storeBlock
    | with_reducible refine ite_fp ?_ ?_)

theorem takeIv_fp {fw : Nat} {fz t : State} (hw : 196609 &&& fw = 196609) {s : State} {x}
    (he : takeIv s = (x, t)) (hz : Fp fw fz s) : Fp fw fz t := by
  have k := takeIv_fp1 hw s hz
  rwa [he] at k

theorem windDeliver_fp {fw : Nat} {fz : State} (hw : 65665 &&& fw = 65665) (s : State) (who blk : Nat)
    (hz : Fp fw fz s) : Fp fw fz (windDeliver s who blk) := by
  have b7 := bitOf hw 7 rfl
  have b16 := bitOf hw 16 rfl
  have k_set := maskOf (V := 1) hw rfl
  unfold windDeliver
  repeat' (first
    | with_reducible rfl
    | with_reducible assumption
    | with_reducible refine onGrs_fp b7 _ _ ?_
    | with_reducible refine onSdr_fp b16 _ _ ?_ ?_ ?_
    | with_reducible apply set_fp k_set
    | with_reducible refine ite_fp ?_ ?_)

theorem windRefuse_fp {fw : Nat} {fz : State} (hw : 1 &&& fw = 1) (s : State) (who : Nat)
    (hz : Fp fw fz s) : Fp fw fz (windRefuse s who) := by
  have k_set := maskOf (V := 1) hw rfl
  unfold windRefuse
  repeat' (first
    | with_reducible rfl
    | with_reducible assumption
    | with_reducible apply set_fp k_set
    | with_reducible refine ite_fp ?_ ?_)

theorem windRequest_fp {fw : Nat} {fz : State} (hw : 65665 &&& fw = 65665) (s : State) (who : Nat)
    (hz : Fp fw fz s) : Fp fw fz (windRequest s who) := by
  have b7 := bitOf hw 7 rfl
  have k_windRefuse := maskOf (V := 1) hw rfl
  have k_windDeliver := maskOf (V := 65665) hw rfl
  unfold windRequest
  repeat' (first
    | with_reducible rfl
    | with_reducible assumption
    | with_reducible refine onGrs_fp b7 _ _ ?_
    | with_reducible apply windRefuse_fp k_windRefuse
    | with_reducible apply windDeliver_fp k_windDeliver
    | with_reducible refine ite_fp ?_ ?_
    | split)

theorem tryRekey_fp {fw : Nat} {fz : State} (hw : 65665 &&& fw = 65665) (s : State)
    (hz : Fp fw fz s) : Fp fw fz (tryRekey s) := by
  have k_windRequest := maskOf (V := 65665) hw rfl
  unfold tryRekey
  repeat' (first
    | with_reducible rfl
    | with_reducible assumption
    | with_reducible apply windRequest_fp k_windRequest
    | with_reducible refine ite_fp ?_ ?_)

theorem countSeed_fp {fw : Nat} {fz : State} (hw : 129 &&& fw = 129) (s : State) (c : Nat)
    (hz : Fp fw fz s) : Fp fw fz (countSeed s c) := by
  have b7 := bitOf hw 7 rfl
  have k_set := maskOf (V := 1) hw rfl
  unfold countSeed
  repeat' (first
    | with_reducible rfl
    | with_reducible assumption
    | with_reducible refine onGrs_fp b7 _ _ ?_
    | with_reducible apply set_fp k_set)

theorem rekeyIfSpent_fp {fw : Nat} {fz : State} (hw : 65665 &&& fw = 65665) (s : State)
    (hz : Fp fw fz s) : Fp fw fz (rekeyIfSpent s) := by
  have k_tryRekey := maskOf (V := 65665) hw rfl
  unfold rekeyIfSpent
  repeat' (first
    | with_reducible rfl
    | with_reducible assumption
    | with_reducible apply tryRekey_fp k_tryRekey
    | with_reducible refine ite_fp ?_ ?_)

theorem takeSeed_fp1 {fw : Nat} {fz : State} (hw : 65665 &&& fw = 65665) (s : State)
    (hz : Fp fw fz s) : Fp fw fz (takeSeed s).2 := by
  have k_tryRekey := maskOf (V := 65665) hw rfl
  have k_rekeyIfSpent := maskOf (V := 65665) hw rfl
  have k_countSeed := maskOf (V := 129) hw rfl
  unfold takeSeed
  repeat' (first
    | with_reducible rfl
    | with_reducible assumption
    | with_reducible apply tryRekey_fp k_tryRekey
    | with_reducible apply rekeyIfSpent_fp k_rekeyIfSpent
    | with_reducible apply countSeed_fp k_countSeed)

theorem takeSeed_fp {fw : Nat} {fz t : State} (hw : 65665 &&& fw = 65665) {s : State} {x}
    (he : takeSeed s = (x, t)) (hz : Fp fw fz s) : Fp fw fz t := by
  have k := takeSeed_fp1 hw s hz
  rwa [he] at k

theorem windStartup_fp {fw : Nat} {fz : State} (hw : 129 &&& fw = 129) (s : State)
    (hz : Fp fw fz s) : Fp fw fz (windStartup s) := by
  have b7 := bitOf hw 7 rfl
  have k_windRefuse := maskOf (V := 1) hw rfl
  have k_set := maskOf (V := 1) hw rfl
  unfold windStartup
  repeat' (first
    | with_reducible rfl
    | with_reducible assumption
    | with_reducible refine onGrs_fp b7 _ _ ?_
    | with_reducible apply windRefuse_fp k_windRefuse
    | with_reducible apply set_fp k_set
    | with_reducible refine foldl_fp _ _ (fun _ _ _ => ?_) ?_)

theorem windFail_fp {fw : Nat} {fz : State} (hw : 950403 &&& fw = 950403) (s : State)
    (hz : Fp fw fz s) : Fp fw fz (windFail s) := by
  have b7 := bitOf hw 7 rfl
  have k_set := maskOf (V := 1) hw rfl
  have k_windRefuse := maskOf (V := 1) hw rfl
  have k_report := maskOf (V := 950275) hw rfl
  unfold windFail
  repeat' (first
    | with_reducible rfl
    | with_reducible assumption
    | with_reducible refine onGrs_fp b7 _ _ ?_
    | with_reducible apply set_fp k_set
    | with_reducible apply windRefuse_fp k_windRefuse
    | with_reducible apply report_fp k_report
    | with_reducible refine advance_fp _ ?_
    | with_reducible refine foldl_fp _ _ (fun _ _ _ => ?_) ?_)

theorem putHealth_fp {fw : Nat} {fz : State} (hw : 129 &&& fw = 129) (s : State) (h : Health)
    (hz : Fp fw fz s) : Fp fw fz (putHealth s h) := by
  have b7 := bitOf hw 7 rfl
  have k_set := maskOf (V := 1) hw rfl
  unfold putHealth
  repeat' (first
    | with_reducible rfl
    | with_reducible assumption
    | with_reducible refine onGrs_fp b7 _ _ ?_
    | with_reducible apply set_fp k_set
    | with_reducible refine ite_fp ?_ ?_)

theorem execWindBlock_fp (raw : BitVec 1536) (s : State) (t : State) (h : execWindBlock raw s = .next t) :
    Fp 1015939 s t := by
  have hw : 1015939 &&& 1015939 = 1015939 := rfl
  unfold execWindBlock at h
  simp only [Host.Outcome.next.injEq] at h
  subst h
  have hz : Fp 1015939 s s := Fp.refl _ _
  have b7 := bitOf hw 7 rfl
  have k_putHealth := maskOf (V := 129) hw rfl
  have k_inc := maskOf (V := 1) hw rfl
  have k_set := maskOf (V := 1) hw rfl
  have k_windFail := maskOf (V := 950403) hw rfl
  have k_windDeliver := maskOf (V := 65665) hw rfl
  repeat' (first
    | with_reducible rfl
    | with_reducible assumption
    | with_reducible refine onGrs_fp b7 _ _ ?_
    | with_reducible apply putHealth_fp k_putHealth
    | with_reducible apply inc_fp k_inc
    | with_reducible apply set_fp k_set
    | with_reducible apply windFail_fp k_windFail
    | with_reducible apply windDeliver_fp k_windDeliver
    | with_reducible refine ite_fp ?_ ?_
    | split)

theorem windBootDone_fp {fw : Nat} {fz : State} (hw : 524288 &&& fw = 524288) (s : State)
    (hz : Fp fw fz s) : Fp fw fz (windBootDone s) := by
  have b19 := bitOf hw 19 rfl
  unfold windBootDone
  repeat' (first
    | with_reducible rfl
    | with_reducible assumption
    | with_reducible refine onBrd_fp b19 _ _ ?_)

theorem startupTests_fp {fw : Nat} {fz : State} (hw : 1015939 &&& fw = 1015939) (raw : BitVec 4096) (s : State)
    (hz : Fp fw fz s) : Fp fw fz (startupTests raw s) := by
  have k_putHealth := maskOf (V := 129) hw rfl
  have k_windFail := maskOf (V := 950403) hw rfl
  have k_set := maskOf (V := 1) hw rfl
  have k_tryRekey := maskOf (V := 65665) hw rfl
  have k_windRequest := maskOf (V := 65665) hw rfl
  unfold startupTests
  repeat' (first
    | with_reducible rfl
    | with_reducible assumption
    | with_reducible apply putHealth_fp k_putHealth
    | with_reducible apply windFail_fp k_windFail
    | with_reducible apply set_fp k_set
    | with_reducible apply tryRekey_fp k_tryRekey
    | with_reducible apply windRequest_fp k_windRequest
    | with_reducible refine ite_fp ?_ ?_)

theorem execRetest_fp (v : Word) (s : State) (t : State) (h : execRetest v s = .next t) :
    Fp 729235 s t := by
  have hw : 729235 &&& 729235 = 729235 := rfl
  unfold execRetest at h
  simp only [Host.Outcome.next.injEq] at h
  subst h
  have hz : Fp 729235 s s := Fp.refl _ _
  have k_commandWord := maskOf (V := 729107) hw rfl
  have k_windStartup := maskOf (V := 129) hw rfl
  repeat' (first
    | with_reducible rfl
    | with_reducible assumption
    | with_reducible apply commandWord_fp k_commandWord
    | with_reducible apply windStartup_fp k_windStartup
    | with_reducible refine ite_fp ?_ ?_)

theorem execGorseTestGo_fp (v : Word) (s : State) (t : State) (h : execGorseTestGo v s = .next t) :
    Fp 729107 s t := by
  have hw : 729107 &&& 729107 = 729107 := rfl
  unfold execGorseTestGo at h
  simp only [Host.Outcome.next.injEq] at h
  subst h
  have hz : Fp 729107 s s := Fp.refl _ _
  have k_commandWord := maskOf (V := 729107) hw rfl
  have k_set := maskOf (V := 1) hw rfl
  repeat' (first
    | with_reducible rfl
    | with_reducible assumption
    | with_reducible apply commandWord_fp k_commandWord
    | with_reducible apply set_fp k_set
    | with_reducible refine foldl_fp _ _ (fun _ _ _ => ?_) ?_
    | with_reducible refine foldlFst_fp _ _ (fun _ _ _ => ?_) ?_
    | with_reducible refine foldlSnd_fp _ _ (fun _ _ _ => ?_) ?_
    | with_reducible refine ite_fp ?_ ?_)

theorem putCtx_fp {fw : Nat} {fz : State} (hw : 128 &&& fw = 128) (s : State) (slot : Nat) (c : GCtx) (poison : Bool)
    (hz : Fp fw fz s) : Fp fw fz (putCtx s slot c poison) := by
  have b7 := bitOf hw 7 rfl
  unfold putCtx
  repeat' (first
    | with_reducible rfl
    | with_reducible assumption
    | with_reducible refine onGrs_fp b7 _ _ ?_)

theorem execContext_fp (src : Fin 1024) (slot : Fin 16384) (ctx : GCtx) (poison : Bool) (s : State) (t : State) (h : execContext src slot ctx poison s = .next t) :
    Fp 128 s t := by
  have hw : 128 &&& 128 = 128 := rfl
  unfold execContext at h
  simp only [Host.Outcome.next.injEq] at h
  subst h
  have hz : Fp 128 s s := Fp.refl _ _
  have k_putCtx := maskOf (V := 128) hw rfl
  repeat' (first
    | with_reducible rfl
    | with_reducible assumption
    | with_reducible apply putCtx_fp k_putCtx
    | with_reducible refine ite_fp ?_ ?_)

end Sys2Proof.Machine
end

