-- ==== Sys2Proof/Laws/FootMeadow.lean ====
section
/-!
SUPPORT. Footprints of the operations of Machine/Meadow.lean: what each may touch (Fp).
-/
namespace Sys2Proof.Machine

theorem onCall_fp {fw : Nat} {fz : State} (hw : 8 &&& fw = 8) (s : State) (slot : Nat) (f : Call → Call)
    (hz : Fp fw fz s) : Fp fw fz (onCall s slot f) := by
  have b3 := bitOf hw 3 rfl
  unfold onCall
  repeat' (first
    | with_reducible rfl
    | with_reducible assumption
    | with_reducible refine onStm_fp b3 _ _ ?_)

theorem sweepBlocks_fp {fw : Nat} {fz : State} (hw : 512 &&& fw = 512) (s : State)
    (hz : Fp fw fz s) : Fp fw fz (sweepBlocks s) := by
  have b9 := bitOf hw 9 rfl
  unfold sweepBlocks
  repeat' (first
    | with_reducible rfl
    | with_reducible assumption
    | with_reducible refine onMdw_fp b9 _ _ ?_ ?_)

theorem evict_fp {fw : Nat} {fz : State} (hw : 513 &&& fw = 513) (s : State)
    (hz : Fp fw fz s) : Fp fw fz (evict s) := by
  have b9 := bitOf hw 9 rfl
  have k_inc := maskOf (V := 1) hw rfl
  unfold evict
  repeat' (first
    | with_reducible rfl
    | with_reducible assumption
    | with_reducible refine onMdw_fp b9 _ _ ?_ ?_
    | with_reducible apply inc_fp k_inc
    | split
    | with_reducible dsimp only)

theorem drawBlock_fp1 {fw : Nat} {fz : State} (hw : 513 &&& fw = 513) (s : State) (seq : Nat)
    (hz : Fp fw fz s) : Fp fw fz (drawBlock s seq).2 := by
  have b9 := bitOf hw 9 rfl
  have k_evict := maskOf (V := 513) hw rfl
  unfold drawBlock
  repeat' (first
    | with_reducible rfl
    | with_reducible assumption
    | with_reducible refine onMdw_fp b9 _ _ ?_ ?_
    | with_reducible apply evict_fp k_evict
    | with_reducible refine advance_fp _ ?_
    | with_reducible refine ite_fp ?_ ?_)

theorem drawBlock_fp {fw : Nat} {fz t : State} (hw : 513 &&& fw = 513) {s : State} {seq : Nat} {x}
    (he : drawBlock s seq = (x, t)) (hz : Fp fw fz s) : Fp fw fz t := by
  have k := drawBlock_fp1 hw s seq hz
  rwa [he] at k

theorem drawBlocks_fp1 {fw : Nat} {fz : State} (hw : 513 &&& fw = 513) (s : State) (seq : Nat) (k : Nat)
    (hz : Fp fw fz s) : Fp fw fz (drawBlocks s seq k).2 := by
  have k_drawBlock := maskOf (V := 513) hw rfl
  induction k generalizing s with
  | zero =>
    unfold drawBlocks
    repeat' (first
      | with_reducible assumption)
  | succ n ih =>
    unfold drawBlocks
    repeat' (first
      | with_reducible rfl
      | with_reducible assumption
      | with_reducible apply ih
      | with_reducible apply drawBlock_fp k_drawBlock (by assumption)
      | with_reducible apply drawBlock_fp1 k_drawBlock)

theorem drawBlocks_fp {fw : Nat} {fz t : State} (hw : 513 &&& fw = 513) {s : State} {seq : Nat} {k : Nat} {x}
    (he : drawBlocks s seq k = (x, t)) (hz : Fp fw fz s) : Fp fw fz t := by
  have k := drawBlocks_fp1 hw s seq k hz
  rwa [he] at k

theorem readEntry_fp1 {fw : Nat} {fz : State} (hw : 512 &&& fw = 512) (s : State) (slot ord : Nat)
    (hz : Fp fw fz s) : Fp fw fz (readEntry s slot ord).2 := by
  have b9 := bitOf hw 9 rfl
  unfold readEntry
  repeat' (first
    | with_reducible rfl
    | with_reducible assumption
    | with_reducible refine onMdw_fp b9 _ _ ?_ ?_
    | split
    | with_reducible dsimp only)

theorem readEntry_fp {fw : Nat} {fz t : State} (hw : 512 &&& fw = 512) {s : State} {slot ord : Nat} {x}
    (he : readEntry s slot ord = (x, t)) (hz : Fp fw fz s) : Fp fw fz t := by
  have k := readEntry_fp1 hw s slot ord hz
  rwa [he] at k

theorem uncache_fp {fw : Nat} {fz : State} (hw : 512 &&& fw = 512) (s : State) (p : Nat → Bool)
    (hz : Fp fw fz s) : Fp fw fz (uncache s p) := by
  have b9 := bitOf hw 9 rfl
  unfold uncache
  repeat' (first
    | with_reducible rfl
    | with_reducible assumption
    | with_reducible refine onMdw_fp b9 _ _ ?_ ?_)

theorem clearRange_fp {w : Nat} {z : State} (hw : 4194816 &&& w = 4194816) (s : State) (a n : Nat)
    (h : Fp w z s) : Fp w z (clearRange s a n) :=
  h.trans ⟨rfl, le_refl _, fun x => wf_clearRange s a n x, id, id, le_refl _, fun _ x => x,
    fun _ => rfl, fun _ => rfl, fun _ => rfl, fun _ => rfl, fun _ => rfl, fun _ => rfl, fun _ => rfl, fun _ => rfl, fun _ => rfl, fun b => absurd ((bitOf hw 9 rfl).symm.trans b) (by decide), fun _ => rfl, fun _ => rfl, fun _ => rfl, fun _ => rfl, fun _ => rfl, fun _ => rfl, fun _ => rfl, fun _ => rfl, fun _ => rfl, fun _ => rfl, fun _ => rfl, fun _ => rfl, fun b => absurd ((bitOf hw 22 rfl).symm.trans b) (by decide), fun _ => ⟨rfl, rfl⟩⟩

theorem dropHeath_fp {fw : Nat} {fz : State} (hw : 513 &&& fw = 513) (s : State) (slot : Nat)
    (hz : Fp fw fz s) : Fp fw fz (dropHeath s slot) := by
  have b9 := bitOf hw 9 rfl
  have k_set := maskOf (V := 1) hw rfl
  unfold dropHeath
  repeat' (first
    | with_reducible rfl
    | with_reducible assumption
    | with_reducible refine onMdw_fp b9 _ _ ?_ ?_
    | with_reducible apply set_fp k_set)

theorem copyFirst_fp {fw : Nat} {fz : State} (hw : 16385 &&& fw = 16385) (s : State) (page : Bool) (n : Nat)
    (hz : Fp fw fz s) : Fp fw fz (copyFirst s page n) := by
  have b14 := bitOf hw 14 rfl
  have k_set := maskOf (V := 1) hw rfl
  have k_inc := maskOf (V := 1) hw rfl
  unfold copyFirst
  repeat' (first
    | with_reducible rfl
    | with_reducible assumption
    | with_reducible refine onUnd_fp b14 _ _ ?_
    | with_reducible refine advance_fp _ ?_
    | with_reducible apply set_fp k_set
    | with_reducible apply inc_fp k_inc
    | with_reducible refine ite_fp ?_ ?_)

theorem applyTable_fp {fw : Nat} {fz : State} (hw : 5161547 &&& fw = 5161547) (s : State) (m : CueTok)
    (hz : Fp fw fz s) : Fp fw fz (applyTable s m) := by
  have b3 := bitOf hw 3 rfl
  have b6 := bitOf hw 6 rfl
  have k_report := maskOf (V := 950275) hw rfl
  have k_copyFirst := maskOf (V := 16385) hw rfl
  have k_uncache := maskOf (V := 512) hw rfl
  have k_writeLe := maskOf (V := 4194816) hw rfl
  have k_dropHeath := maskOf (V := 513) hw rfl
  have k_clearRange := maskOf (V := 4194816) hw rfl
  unfold applyTable
  repeat' (first
    | with_reducible rfl
    | with_reducible assumption
    | with_reducible refine onStm_fp b3 _ _ ?_
    | with_reducible refine onPrm_fp b6 _ _ ?_
    | with_reducible apply report_fp k_report
    | with_reducible refine advance_fp _ ?_
    | with_reducible apply copyFirst_fp k_copyFirst
    | with_reducible apply uncache_fp k_uncache
    | with_reducible apply writeLe_fp k_writeLe
    | with_reducible apply dropHeath_fp k_dropHeath
    | with_reducible apply clearRange_fp k_clearRange
    | with_reducible refine ite_fp ?_ ?_)

theorem noteSent_fp {fw : Nat} {fz : State} (hw : 8 &&& fw = 8) (s : State) (cue slot : Nat) (devs : List Nat)
    (hz : Fp fw fz s) : Fp fw fz (noteSent s cue slot devs) := by
  have b3 := bitOf hw 3 rfl
  unfold noteSent
  repeat' (first
    | with_reducible rfl
    | with_reducible assumption
    | with_reducible refine onStm_fp b3 _ _ ?_)

theorem announceTable_fp {fw : Nat} {fz : State} (hw : 6211147 &&& fw = 6211147) (s : State) (m : CueTok)
    (hz : Fp fw fz s) : Fp fw fz (announceTable s m) := by
  have k_sendAll := maskOf (V := 1049601) hw rfl
  have k_noteSent := maskOf (V := 8) hw rfl
  have k_applyTable := maskOf (V := 5161547) hw rfl
  unfold announceTable
  repeat' (first
    | with_reducible rfl
    | with_reducible assumption
    | with_reducible apply sendAll_fp k_sendAll
    | with_reducible apply noteSent_fp k_noteSent
    | with_reducible apply applyTable_fp k_applyTable)

theorem announceBlocks_fp {fw : Nat} {fz : State} (hw : 6211147 &&& fw = 6211147) (s : State) (slot cue : Nat) (bs : List (Nat × Bool)) (i : Nat)
    (hz : Fp fw fz s) : Fp fw fz (announceBlocks s slot cue bs i) := by
  have k_announceTable := maskOf (V := 6211147) hw rfl
  induction bs generalizing s i with
  | nil =>
    unfold announceBlocks
    repeat' (first
      | with_reducible assumption)
  | cons x r ih =>
    unfold announceBlocks
    repeat' (first
      | with_reducible rfl
      | with_reducible assumption
      | with_reducible apply ih
      | with_reducible apply announceTable_fp k_announceTable)

theorem insertFull_fp {fw : Nat} {fz : State} (hw : 520 &&& fw = 520) (s : State) (c : Call)
    (hz : Fp fw fz s) : Fp fw fz (insertFull s c) := by
  have b9 := bitOf hw 9 rfl
  have k_onCall := maskOf (V := 8) hw rfl
  unfold insertFull
  repeat' (first
    | with_reducible rfl
    | with_reducible assumption
    | with_reducible refine onMdw_fp b9 _ _ ?_ ?_
    | with_reducible apply onCall_fp k_onCall
    | with_reducible refine foldl_fp _ _ (fun _ _ _ => ?_) ?_
    | with_reducible refine foldlFst_fp _ _ (fun _ _ _ => ?_) ?_
    | with_reducible refine foldlSnd_fp _ _ (fun _ _ _ => ?_) ?_
    | with_reducible refine ite_fp ?_ ?_
    | split
    | with_reducible dsimp only)

theorem dropBad_fp {fw : Nat} {fz : State} (hw : 512 &&& fw = 512) (s : State)
    (hz : Fp fw fz s) : Fp fw fz (dropBad s) := by
  have b9 := bitOf hw 9 rfl
  have k_sweepBlocks := maskOf (V := 512) hw rfl
  unfold dropBad
  repeat' (first
    | with_reducible rfl
    | with_reducible assumption
    | with_reducible refine onMdw_fp b9 _ _ ?_ ?_
    | with_reducible apply sweepBlocks_fp k_sweepBlocks)

theorem insertAll_fp {fw : Nat} {fz : State} (hw : 520 &&& fw = 520) (s : State)
    (hz : Fp fw fz s) : Fp fw fz (insertAll s) := by
  have k_insertFull := maskOf (V := 520) hw rfl
  unfold insertAll
  repeat' (first
    | with_reducible rfl
    | with_reducible assumption
    | with_reducible apply insertFull_fp k_insertFull
    | with_reducible refine foldl_fp _ _ (fun _ _ _ => ?_) ?_)

theorem keepHandle_fp1 {fw : Nat} {fz : State} (hw : 513 &&& fw = 513) (s : State) (c : Call)
    (hz : Fp fw fz s) : Fp fw fz (keepHandle s c).1 := by
  have b9 := bitOf hw 9 rfl
  have k_inc := maskOf (V := 1) hw rfl
  unfold keepHandle
  repeat' (first
    | with_reducible rfl
    | with_reducible assumption
    | with_reducible refine onMdw_fp b9 _ _ ?_ ?_
    | with_reducible apply inc_fp k_inc
    | with_reducible refine ite_fp ?_ ?_
    | split
    | with_reducible dsimp only)

theorem keepHandle_fp {fw : Nat} {fz t : State} (hw : 513 &&& fw = 513) {s : State} {c : Call} {x}
    (he : keepHandle s c = (t, x)) (hz : Fp fw fz s) : Fp fw fz t := by
  have k := keepHandle_fp1 hw s c hz
  rwa [he] at k

theorem freeHandle_fp {fw : Nat} {fz : State} (hw : 512 &&& fw = 512) (s : State) (t h : Nat)
    (hz : Fp fw fz s) : Fp fw fz (freeHandle s t h) := by
  have b9 := bitOf hw 9 rfl
  have k_sweepBlocks := maskOf (V := 512) hw rfl
  unfold freeHandle
  repeat' (first
    | with_reducible rfl
    | with_reducible assumption
    | with_reducible refine onMdw_fp b9 _ _ ?_ ?_
    | with_reducible apply sweepBlocks_fp k_sweepBlocks)

theorem noHandle_fp {fw : Nat} {fz : State} (hw : 513 &&& fw = 513) (s : State) (t h : Nat)
    (hz : Fp fw fz s) : Fp fw fz (noHandle s t h) := by
  have k_freeHandle := maskOf (V := 512) hw rfl
  have k_inc := maskOf (V := 1) hw rfl
  unfold noHandle
  repeat' (first
    | with_reducible rfl
    | with_reducible assumption
    | with_reducible apply freeHandle_fp k_freeHandle
    | with_reducible apply inc_fp k_inc
    | with_reducible refine ite_fp ?_ ?_)

theorem execPrefixLookup_fp (slot : Fin 16384) (s : State) (t : State) (h : execPrefixLookup slot s = .next t) :
    Fp 6211147 s t := by
  have hw : 6211147 &&& 6211147 = 6211147 := rfl
  unfold execPrefixLookup at h
  simp only [Host.Outcome.next.injEq] at h
  subst h
  have hz : Fp 6211147 s s := Fp.refl _ _
  have b9 := bitOf hw 9 rfl
  have k_inc := maskOf (V := 1) hw rfl
  have k_onCall := maskOf (V := 8) hw rfl
  have k_announceBlocks := maskOf (V := 6211147) hw rfl
  have k_sweepBlocks := maskOf (V := 512) hw rfl
  repeat' (first
    | with_reducible rfl
    | with_reducible assumption
    | with_reducible refine onMdw_fp b9 _ _ ?_ ?_
    | with_reducible apply inc_fp k_inc
    | with_reducible apply onCall_fp k_onCall
    | with_reducible apply announceBlocks_fp k_announceBlocks
    | with_reducible apply sweepBlocks_fp k_sweepBlocks
    | with_reducible refine foldl_fp _ _ (fun _ _ _ => ?_) ?_
    | with_reducible refine foldlFst_fp _ _ (fun _ _ _ => ?_) ?_
    | with_reducible refine foldlSnd_fp _ _ (fun _ _ _ => ?_) ?_
    | with_reducible refine ite_fp ?_ ?_
    | split)

theorem execBlockSet_fp (msg : CueTok) (s : State) (t : State) (h : execBlockSet msg s = .next t) :
    Fp 5161547 s t := by
  have hw : 5161547 &&& 5161547 = 5161547 := rfl
  unfold execBlockSet at h
  simp only [Host.Outcome.next.injEq] at h
  subst h
  have hz : Fp 5161547 s s := Fp.refl _ _
  have k_applyTable := maskOf (V := 5161547) hw rfl
  repeat' (first
    | with_reducible rfl
    | with_reducible assumption
    | with_reducible apply applyTable_fp k_applyTable)

theorem execTableClear_fp (msg : CueTok) (s : State) (t : State) (h : execTableClear msg s = .next t) :
    Fp 5161547 s t := by
  have hw : 5161547 &&& 5161547 = 5161547 := rfl
  unfold execTableClear at h
  simp only [Host.Outcome.next.injEq] at h
  subst h
  have hz : Fp 5161547 s s := Fp.refl _ _
  have k_applyTable := maskOf (V := 5161547) hw rfl
  repeat' (first
    | with_reducible rfl
    | with_reducible assumption
    | with_reducible apply applyTable_fp k_applyTable)

theorem execTableInvalidate_fp (v : Word) (s : State) (t : State) (h : execTableInvalidate v s = .next t) :
    Fp 729619 s t := by
  have hw : 729619 &&& 729619 = 729619 := rfl
  unfold execTableInvalidate at h
  simp only [Host.Outcome.next.injEq] at h
  subst h
  have hz : Fp 729619 s s := Fp.refl _ _
  have k_commandWord := maskOf (V := 729107) hw rfl
  have k_uncache := maskOf (V := 512) hw rfl
  repeat' (first
    | with_reducible rfl
    | with_reducible assumption
    | with_reducible apply commandWord_fp k_commandWord
    | with_reducible apply uncache_fp k_uncache
    | with_reducible refine ite_fp ?_ ?_)

end Sys2Proof.Machine
end

