-- ==== Sys2Proof/Laws/FootBox.lean ====
section
/-!
SUPPORT. Footprints of the operations of Machine/Box.lean: what each may touch (Fp).
-/
namespace Sys2Proof.Machine

theorem setLevel_fp {fw : Nat} {fz : State} (hw : 4 &&& fw = 4) (s : State) (t : Nat) (v : Int)
    (hz : Fp fw fz s) : Fp fw fz (setLevel s t v) := by
  have b2 := bitOf hw 2 rfl
  unfold setLevel
  repeat' (first
    | with_reducible rfl
    | with_reducible assumption
    | with_reducible refine onBox_fp b2 _ _ ?_)

theorem bookPrompt_fp {fw : Nat} {fz : State} (hw : 32769 &&& fw = 32769) (s : State) (t : Nat) (prompt : List Nat)
    (hz : Fp fw fz s) : Fp fw fz (bookPrompt s t prompt) := by
  have k_book := maskOf (V := 32769) hw rfl
  unfold bookPrompt
  repeat' (first
    | with_reducible rfl
    | with_reducible assumption
    | with_reducible apply book_fp k_book
    | with_reducible refine foldl_fp _ _ (fun _ _ _ => ?_) ?_
    | with_reducible refine foldlFst_fp _ _ (fun _ _ _ => ?_) ?_
    | with_reducible refine foldlSnd_fp _ _ (fun _ _ _ => ?_) ?_
    | with_reducible refine ite_fp ?_ ?_)

theorem bookCard_fp {fw : Nat} {fz : State} (hw : 32769 &&& fw = 32769) (s : State) (q : QCard) (status slot : Nat)
    (hz : Fp fw fz s) : Fp fw fz (bookCard s q status slot) := by
  have k_book := maskOf (V := 32769) hw rfl
  have k_bookPrompt := maskOf (V := 32769) hw rfl
  unfold bookCard
  repeat' (first
    | with_reducible rfl
    | with_reducible assumption
    | with_reducible apply book_fp k_book
    | with_reducible apply bookPrompt_fp k_bookPrompt
    | with_reducible refine foldl_fp _ _ (fun _ _ _ => ?_) ?_
    | with_reducible refine foldlFst_fp _ _ (fun _ _ _ => ?_) ?_
    | with_reducible refine foldlSnd_fp _ _ (fun _ _ _ => ?_) ?_
    | with_reducible refine ite_fp ?_ ?_)

theorem bookOp_fp {fw : Nat} {fz : State} (hw : 32769 &&& fw = 32769) (s : State) (c : Call) (op status : Nat)
    (hz : Fp fw fz s) : Fp fw fz (bookOp s c op status) := by
  have k_book := maskOf (V := 32769) hw rfl
  unfold bookOp
  repeat' (first
    | with_reducible rfl
    | with_reducible assumption
    | with_reducible apply book_fp k_book)

theorem freeSlot_fp1 {fw : Nat} {fz : State} (hw : 0 &&& fw = 0) (s : State)
    (hz : Fp fw fz s) : Fp fw fz (freeSlot s).2 := by
  unfold freeSlot
  repeat' (first
    | with_reducible rfl
    | with_reducible assumption
    | with_reducible refine advance_fp _ ?_)

theorem freeSlot_fp {fw : Nat} {fz t : State} (hw : 0 &&& fw = 0) {s : State} {x}
    (he : freeSlot s = (x, t)) (hz : Fp fw fz s) : Fp fw fz t := by
  have k := freeSlot_fp1 hw s hz
  rwa [he] at k

theorem popHead_fp {fw : Nat} {fz : State} (hw : 525317 &&& fw = 525317) (s : State)
    (hz : Fp fw fz s) : Fp fw fz (popHead s) := by
  have b2 := bitOf hw 2 rfl
  have k_enterQueue := maskOf (V := 525317) hw rfl
  have k_wmUpdate := maskOf (V := 524289) hw rfl
  unfold popHead
  repeat' (first
    | with_reducible rfl
    | with_reducible assumption
    | with_reducible refine onBox_fp b2 _ _ ?_
    | with_reducible apply enterQueue_fp k_enterQueue
    | with_reducible apply wmUpdate_fp k_wmUpdate)

theorem admitCall_fp {fw : Nat} {fz : State} (hw : 1672847 &&& fw = 1672847) (s : State) (q : QCard)
    (hz : Fp fw fz s) : Fp fw fz (admitCall s q) := by
  have b3 := bitOf hw 3 rfl
  have k_freeSlot := maskOf (V := 0) hw rfl
  have k_drawBlocks := maskOf (V := 513) hw rfl
  have k_setLevel := maskOf (V := 4) hw rfl
  have k_takeSeed := maskOf (V := 65665) hw rfl
  have k_bookCard := maskOf (V := 32769) hw rfl
  have k_book := maskOf (V := 32769) hw rfl
  have k_answer := maskOf (V := 1573903) hw rfl
  have k_popHead := maskOf (V := 525317) hw rfl
  unfold admitCall
  repeat' (first
    | with_reducible rfl
    | with_reducible assumption
    | with_reducible refine onStm_fp b3 _ _ ?_
    | with_reducible apply freeSlot_fp k_freeSlot (by assumption)
    | with_reducible apply freeSlot_fp1 k_freeSlot
    | with_reducible apply drawBlocks_fp k_drawBlocks (by assumption)
    | with_reducible apply drawBlocks_fp1 k_drawBlocks
    | with_reducible apply setLevel_fp k_setLevel
    | with_reducible apply takeSeed_fp k_takeSeed (by assumption)
    | with_reducible apply takeSeed_fp1 k_takeSeed
    | with_reducible apply bookCard_fp k_bookCard
    | with_reducible apply book_fp k_book
    | with_reducible apply answer_fp k_answer
    | with_reducible apply popHead_fp k_popHead
    | with_reducible refine ite_fp ?_ ?_
    | split)

theorem refuseHead_fp {fw : Nat} {fz : State} (hw : 1606671 &&& fw = 1606671) (s : State) (q : QCard) (status value : Nat)
    (hz : Fp fw fz s) : Fp fw fz (refuseHead s q status value) := by
  have k_answer := maskOf (V := 1573903) hw rfl
  have k_popHead := maskOf (V := 525317) hw rfl
  have k_bookCard := maskOf (V := 32769) hw rfl
  unfold refuseHead
  repeat' (first
    | with_reducible rfl
    | with_reducible assumption
    | with_reducible apply answer_fp k_answer
    | with_reducible apply popHead_fp k_popHead
    | with_reducible apply bookCard_fp k_bookCard)

theorem dropHead_fp {fw : Nat} {fz : State} (hw : 1573903 &&& fw = 1573903) (s : State) (q : QCard)
    (hz : Fp fw fz s) : Fp fw fz (dropHead s q) := by
  have k_answer := maskOf (V := 1573903) hw rfl
  have k_popHead := maskOf (V := 525317) hw rfl
  unfold dropHead
  repeat' (first
    | with_reducible rfl
    | with_reducible assumption
    | with_reducible apply answer_fp k_answer
    | with_reducible apply popHead_fp k_popHead)

theorem endFor_fp {fw : Nat} {fz : State} (hw : 525325 &&& fw = 525325) (s : State) (q : QCard)
    (hz : Fp fw fz s) : Fp fw fz (endFor s q) := by
  have b3 := bitOf hw 3 rfl
  have k_popHead := maskOf (V := 525317) hw rfl
  unfold endFor
  repeat' (first
    | with_reducible rfl
    | with_reducible assumption
    | with_reducible refine onStm_fp b3 _ _ ?_
    | with_reducible apply popHead_fp k_popHead)

theorem decideOp_fp {fw : Nat} {fz : State} (hw : 1606671 &&& fw = 1606671) (s : State) (op : Nat) (f : QCard → Call → State)
    (hf : ∀ (v0 : QCard) (v1 : Call), Fp fw fz (f v0 v1)) (hz : Fp fw fz s) : Fp fw fz (decideOp s op f) := by
  have k_endFor := maskOf (V := 525325) hw rfl
  have k_dropHead := maskOf (V := 1573903) hw rfl
  have k_refuseHead := maskOf (V := 1606671) hw rfl
  unfold decideOp
  repeat' (first
    | with_reducible rfl
    | with_reducible assumption
    | with_reducible apply endFor_fp k_endFor
    | with_reducible apply dropHead_fp k_dropHead
    | with_reducible apply refuseHead_fp k_refuseHead
    | with_reducible apply hf
    | with_reducible refine ite_fp ?_ ?_
    | split)

theorem queueOp_fp {fw : Nat} {fz : State} (hw : 558093 &&& fw = 558093) (s : State) (q : QCard) (c : Call)
    (hz : Fp fw fz s) : Fp fw fz (queueOp s q c) := by
  have k_popHead := maskOf (V := 525317) hw rfl
  have k_bookCard := maskOf (V := 32769) hw rfl
  have k_onCall := maskOf (V := 8) hw rfl
  unfold queueOp
  repeat' (first
    | with_reducible rfl
    | with_reducible assumption
    | with_reducible apply popHead_fp k_popHead
    | with_reducible apply bookCard_fp k_bookCard
    | with_reducible apply onCall_fp k_onCall)

theorem execSubmit_fp (s : State) (t : State) (h : execSubmit s = .next t) :
    Fp 1672847 s t := by
  have hw : 1672847 &&& 1672847 = 1672847 := rfl
  unfold execSubmit at h
  simp only [Host.Outcome.next.injEq] at h
  subst h
  have hz : Fp 1672847 s s := Fp.refl _ _
  have k_refuseHead := maskOf (V := 1606671) hw rfl
  have k_inc := maskOf (V := 1) hw rfl
  have k_admitCall := maskOf (V := 1672847) hw rfl
  repeat' (first
    | with_reducible rfl
    | with_reducible assumption
    | with_reducible apply refuseHead_fp k_refuseHead
    | with_reducible apply inc_fp k_inc
    | with_reducible apply admitCall_fp k_admitCall
    | with_reducible refine ite_fp ?_ ?_
    | split)

theorem execContin_fp (s : State) (t : State) (h : execContin s = .next t) :
    Fp 1606671 s t := by
  have hw : 1606671 &&& 1606671 = 1606671 := rfl
  unfold execContin at h
  simp only [Host.Outcome.next.injEq] at h
  subst h
  have hz : Fp 1606671 s s := Fp.refl _ _
  have b3 := bitOf hw 3 rfl
  have k_decideOp := maskOf (V := 1606671) hw rfl
  have k_refuseHead := maskOf (V := 1606671) hw rfl
  have k_setLevel := maskOf (V := 4) hw rfl
  have k_onCall := maskOf (V := 8) hw rfl
  have k_queueOp := maskOf (V := 558093) hw rfl
  repeat' (first
    | with_reducible rfl
    | with_reducible assumption
    | with_reducible refine onStm_fp b3 _ _ ?_
    | with_reducible refine decideOp_fp k_decideOp _ _ _ (fun _ _ => ?_) ?_
    | with_reducible apply refuseHead_fp k_refuseHead
    | with_reducible apply setLevel_fp k_setLevel
    | with_reducible apply onCall_fp k_onCall
    | with_reducible apply queueOp_fp k_queueOp
    | with_reducible refine ite_fp ?_ ?_)

theorem execPause_fp (s : State) (t : State) (h : execPause s = .next t) :
    Fp 1606671 s t := by
  have hw : 1606671 &&& 1606671 = 1606671 := rfl
  unfold execPause at h
  simp only [Host.Outcome.next.injEq] at h
  subst h
  have hz : Fp 1606671 s s := Fp.refl _ _
  have k_decideOp := maskOf (V := 1606671) hw rfl
  have k_refuseHead := maskOf (V := 1606671) hw rfl
  have k_queueOp := maskOf (V := 558093) hw rfl
  repeat' (first
    | with_reducible rfl
    | with_reducible assumption
    | with_reducible refine decideOp_fp k_decideOp _ _ _ (fun _ _ => ?_) ?_
    | with_reducible apply refuseHead_fp k_refuseHead
    | with_reducible apply queueOp_fp k_queueOp
    | with_reducible refine ite_fp ?_ ?_)

theorem execResume_fp (s : State) (t : State) (h : execResume s = .next t) :
    Fp 1606671 s t := by
  have hw : 1606671 &&& 1606671 = 1606671 := rfl
  unfold execResume at h
  simp only [Host.Outcome.next.injEq] at h
  subst h
  have hz : Fp 1606671 s s := Fp.refl _ _
  have k_decideOp := maskOf (V := 1606671) hw rfl
  have k_queueOp := maskOf (V := 558093) hw rfl
  repeat' (first
    | with_reducible rfl
    | with_reducible assumption
    | with_reducible refine decideOp_fp k_decideOp _ _ _ (fun _ _ => ?_) ?_
    | with_reducible apply queueOp_fp k_queueOp)

theorem execCancel_fp (s : State) (t : State) (h : execCancel s = .next t) :
    Fp 1606671 s t := by
  have hw : 1606671 &&& 1606671 = 1606671 := rfl
  unfold execCancel at h
  simp only [Host.Outcome.next.injEq] at h
  subst h
  have hz : Fp 1606671 s s := Fp.refl _ _
  have k_decideOp := maskOf (V := 1606671) hw rfl
  have k_queueOp := maskOf (V := 558093) hw rfl
  repeat' (first
    | with_reducible rfl
    | with_reducible assumption
    | with_reducible refine decideOp_fp k_decideOp _ _ _ (fun _ _ => ?_) ?_
    | with_reducible apply queueOp_fp k_queueOp)

theorem execReleasePrefix_fp (s : State) (t : State) (h : execReleasePrefix s = .next t) :
    Fp 1607183 s t := by
  have hw : 1607183 &&& 1607183 = 1607183 := rfl
  unfold execReleasePrefix at h
  simp only [Host.Outcome.next.injEq] at h
  subst h
  have hz : Fp 1607183 s s := Fp.refl _ _
  have k_refuseHead := maskOf (V := 1606671) hw rfl
  have k_answer := maskOf (V := 1573903) hw rfl
  have k_popHead := maskOf (V := 525317) hw rfl
  have k_bookCard := maskOf (V := 32769) hw rfl
  have k_freeHandle := maskOf (V := 512) hw rfl
  repeat' (first
    | with_reducible rfl
    | with_reducible assumption
    | with_reducible apply refuseHead_fp k_refuseHead
    | with_reducible apply answer_fp k_answer
    | with_reducible apply popHead_fp k_popHead
    | with_reducible apply bookCard_fp k_bookCard
    | with_reducible apply freeHandle_fp k_freeHandle
    | with_reducible refine ite_fp ?_ ?_
    | split)

end Sys2Proof.Machine
end

