-- ==== Sys2Proof/Laws/FootBoard.lean ====
section
/-!
SUPPORT. Footprints of the operations of Machine/Board.lean: what each may touch (Fp).
-/
namespace Sys2Proof.Machine

theorem emitRec_fp {fw : Nat} {fz : State} (hw : 1082368 &&& fw = 1082368) (s : State) (kind t payload : Nat)
    (hz : Fp fw fz s) : Fp fw fz (emitRec s kind t payload) := by
  have b15 := bitOf hw 15 rfl
  have k_emit := maskOf (V := 1049600) hw rfl
  unfold emitRec
  repeat' (first
    | with_reducible rfl
    | with_reducible assumption
    | with_reducible refine onPbk_fp b15 _ _ ?_
    | with_reducible apply emit_fp k_emit
    | with_reducible refine ite_fp ?_ ?_)

theorem emitNotice_fp {fw : Nat} {fz : State} (hw : 1082368 &&& fw = 1082368) (s : State) (t : Nat) (n : Notice)
    (hz : Fp fw fz s) : Fp fw fz (emitNotice s t n) := by
  have k_emitRec := maskOf (V := 1082368) hw rfl
  unfold emitNotice
  repeat' (first
    | with_reducible rfl
    | with_reducible assumption
    | with_reducible apply emitRec_fp k_emitRec)

theorem reportEnd_fp {fw : Nat} {fz : State} (hw : 1606671 &&& fw = 1606671) (s : State) (c : Call) (code : Nat) (final : Bool)
    (hz : Fp fw fz s) : Fp fw fz (reportEnd s c code final) := by
  have k_emitNotice := maskOf (V := 1082368) hw rfl
  have k_answer := maskOf (V := 1573903) hw rfl
  unfold reportEnd
  repeat' (first
    | with_reducible rfl
    | with_reducible assumption
    | with_reducible apply emitNotice_fp k_emitNotice
    | with_reducible apply answer_fp k_answer
    | with_reducible refine ite_fp ?_ ?_)

theorem reportHandle_fp {fw : Nat} {fz : State} (hw : 1049603 &&& fw = 1049603) (s : State) (c : Call)
    (hz : Fp fw fz s) : Fp fw fz (reportHandle s c) := by
  have k_handleHere := maskOf (V := 2) hw rfl
  have k_reply := maskOf (V := 1049601) hw rfl
  unfold reportHandle
  repeat' (first
    | with_reducible rfl
    | with_reducible assumption
    | with_reducible apply handleHere_fp k_handleHere
    | with_reducible apply reply_fp k_reply
    | with_reducible refine ite_fp ?_ ?_)

theorem answerOp_fp {fw : Nat} {fz : State} (hw : 1573903 &&& fw = 1573903) (s : State) (o : COp) (code outcome value : Nat)
    (hz : Fp fw fz s) : Fp fw fz (answerOp s o code outcome value) := by
  have k_answer := maskOf (V := 1573903) hw rfl
  unfold answerOp
  repeat' (first
    | with_reducible rfl
    | with_reducible assumption
    | with_reducible apply answer_fp k_answer
    | with_reducible refine ite_fp ?_ ?_)

theorem bookEnd_fp {fw : Nat} {fz : State} (hw : 32769 &&& fw = 32769) (s : State) (c : Call) (code : Nat)
    (hz : Fp fw fz s) : Fp fw fz (bookEnd s c code) := by
  have k_book := maskOf (V := 32769) hw rfl
  unfold bookEnd
  repeat' (first
    | with_reducible rfl
    | with_reducible assumption
    | with_reducible apply book_fp k_book
    | with_reducible refine ite_fp ?_ ?_)

theorem dropOps_fp {fw : Nat} {fz : State} (hw : 1573903 &&& fw = 1573903) (s : State) (c : Call)
    (hz : Fp fw fz s) : Fp fw fz (dropOps s c) := by
  have k_answerOp := maskOf (V := 1573903) hw rfl
  unfold dropOps
  repeat' (first
    | with_reducible rfl
    | with_reducible assumption
    | with_reducible apply answerOp_fp k_answerOp
    | with_reducible refine foldl_fp _ _ (fun _ _ _ => ?_) ?_)

theorem freeCall_fp {fw : Nat} {fz : State} (hw : 6211147 &&& fw = 6211147) (s : State) (c : Call)
    (hz : Fp fw fz s) : Fp fw fz (freeCall s c) := by
  have b3 := bitOf hw 3 rfl
  have k_keepHandle := maskOf (V := 513) hw rfl
  have k_announceTable := maskOf (V := 6211147) hw rfl
  have k_sweepBlocks := maskOf (V := 512) hw rfl
  have k_reportHandle := maskOf (V := 1049603) hw rfl
  unfold freeCall
  repeat' (first
    | with_reducible rfl
    | with_reducible assumption
    | with_reducible refine onStm_fp b3 _ _ ?_
    | with_reducible apply keepHandle_fp k_keepHandle (by assumption)
    | with_reducible apply keepHandle_fp1 k_keepHandle
    | with_reducible apply announceTable_fp k_announceTable
    | with_reducible apply sweepBlocks_fp k_sweepBlocks
    | with_reducible apply reportHandle_fp k_reportHandle
    | with_reducible refine ite_fp ?_ ?_
    | split)

theorem releaseCall_fp {fw : Nat} {fz : State} (hw : 6211151 &&& fw = 6211151) (s : State) (c : Call) (code : Nat) (final : Bool)
    (hz : Fp fw fz s) : Fp fw fz (releaseCall s c code final) := by
  have k_dropOps := maskOf (V := 1573903) hw rfl
  have k_reportEnd := maskOf (V := 1606671) hw rfl
  have k_bookEnd := maskOf (V := 32769) hw rfl
  have k_freeCall := maskOf (V := 6211147) hw rfl
  unfold releaseCall
  repeat' (first
    | with_reducible rfl
    | with_reducible assumption
    | with_reducible apply dropOps_fp k_dropOps
    | with_reducible apply reportEnd_fp k_reportEnd
    | with_reducible apply bookEnd_fp k_bookEnd
    | with_reducible apply freeCall_fp k_freeCall)

theorem reportStop_fp {fw : Nat} {fz : State} (hw : 1606671 &&& fw = 1606671) (s : State) (slot : Nat)
    (hz : Fp fw fz s) : Fp fw fz (reportStop s slot) := by
  have k_onCall := maskOf (V := 8) hw rfl
  have k_dropOps := maskOf (V := 1573903) hw rfl
  have k_reportEnd := maskOf (V := 1606671) hw rfl
  unfold reportStop
  repeat' (first
    | with_reducible rfl
    | with_reducible assumption
    | with_reducible apply onCall_fp k_onCall
    | with_reducible apply dropOps_fp k_dropOps
    | with_reducible apply reportEnd_fp k_reportEnd
    | with_reducible refine ite_fp ?_ ?_
    | split)

theorem endCall_fp {fw : Nat} {fz : State} (hw : 6211151 &&& fw = 6211151) (s : State) (slot code : Nat)
    (hz : Fp fw fz s) : Fp fw fz (endCall s slot code) := by
  have k_releaseCall := maskOf (V := 6211151) hw rfl
  unfold endCall
  repeat' (first
    | with_reducible rfl
    | with_reducible assumption
    | with_reducible apply releaseCall_fp k_releaseCall
    | with_reducible refine ite_fp ?_ ?_
    | split)

theorem leadStep_fp {fw : Nat} {fz : State} (hw : 1623055 &&& fw = 1623055) (s : State) (r : StepRec)
    (hz : Fp fw fz s) : Fp fw fz (leadStep s r) := by
  have b2 := bitOf hw 2 rfl
  have b3 := bitOf hw 3 rfl
  have b14 := bitOf hw 14 rfl
  have k_onCall := maskOf (V := 8) hw rfl
  have k_reportStop := maskOf (V := 1606671) hw rfl
  unfold leadStep
  repeat' (first
    | with_reducible rfl
    | with_reducible assumption
    | with_reducible refine onBox_fp b2 _ _ ?_
    | with_reducible refine onStm_fp b3 _ _ ?_
    | with_reducible refine onUnd_fp b14 _ _ ?_
    | with_reducible apply onCall_fp k_onCall
    | with_reducible apply reportStop_fp k_reportStop
    | with_reducible refine ite_fp ?_ ?_
    | split)

theorem leadChunk_fp {fw : Nat} {fz : State} (hw : 1606671 &&& fw = 1606671) (s : State) (slot cue16 start toks : Nat) (poison fail : Bool)
    (hz : Fp fw fz s) : Fp fw fz (leadChunk s slot cue16 start toks poison fail) := by
  have k_onCall := maskOf (V := 8) hw rfl
  have k_reportStop := maskOf (V := 1606671) hw rfl
  unfold leadChunk
  repeat' (first
    | with_reducible rfl
    | with_reducible assumption
    | with_reducible apply onCall_fp k_onCall
    | with_reducible apply reportStop_fp k_reportStop
    | with_reducible refine ite_fp ?_ ?_
    | split
    | with_reducible dsimp only)

theorem execChunkDone_fp (src : Fin 1024) (ents : List ChunkRep) (s : State) (t : State) (h : execChunkDone src ents s = .next t) :
    Fp 1606671 s t := by
  have hw : 1606671 &&& 1606671 = 1606671 := rfl
  unfold execChunkDone at h
  simp only [Host.Outcome.next.injEq] at h
  subst h
  have hz : Fp 1606671 s s := Fp.refl _ _
  have k_leadChunk := maskOf (V := 1606671) hw rfl
  repeat' (first
    | with_reducible rfl
    | with_reducible assumption
    | with_reducible apply leadChunk_fp k_leadChunk
    | with_reducible refine foldl_fp _ _ (fun _ _ _ => ?_) ?_
    | with_reducible refine foldlFst_fp _ _ (fun _ _ _ => ?_) ?_
    | with_reducible refine foldlSnd_fp _ _ (fun _ _ _ => ?_) ?_
    | with_reducible refine ite_fp ?_ ?_)

theorem freeHeath_fp {fw : Nat} {fz : State} (hw : 1050113 &&& fw = 1050113) (s : State) (slot : Nat)
    (hz : Fp fw fz s) : Fp fw fz (freeHeath s slot) := by
  have k_tellDevs := maskOf (V := 1049601) hw rfl
  have k_dropHeath := maskOf (V := 513) hw rfl
  unfold freeHeath
  repeat' (first
    | with_reducible rfl
    | with_reducible assumption
    | with_reducible apply tellDevs_fp k_tellDevs
    | with_reducible apply dropHeath_fp k_dropHeath)

theorem abandonSpill_fp {fw : Nat} {fz : State} (hw : 1574415 &&& fw = 1574415) (s : State) (c : Call)
    (hz : Fp fw fz s) : Fp fw fz (abandonSpill s c) := by
  have k_freeHeath := maskOf (V := 1050113) hw rfl
  have k_onCall := maskOf (V := 8) hw rfl
  have k_answerOp := maskOf (V := 1573903) hw rfl
  unfold abandonSpill
  repeat' (first
    | with_reducible rfl
    | with_reducible assumption
    | with_reducible apply freeHeath_fp k_freeHeath
    | with_reducible apply onCall_fp k_onCall
    | with_reducible apply answerOp_fp k_answerOp
    | split)

theorem leadSpilled_fp {fw : Nat} {fz : State} (hw : 1574415 &&& fw = 1574415) (s : State) (src slot res : Nat)
    (hz : Fp fw fz s) : Fp fw fz (leadSpilled s src slot res) := by
  have k_abandonSpill := maskOf (V := 1574415) hw rfl
  have k_onCall := maskOf (V := 8) hw rfl
  unfold leadSpilled
  repeat' (first
    | with_reducible rfl
    | with_reducible assumption
    | with_reducible apply abandonSpill_fp k_abandonSpill
    | with_reducible apply onCall_fp k_onCall
    | with_reducible refine ite_fp ?_ ?_
    | split)

theorem leadFilled_fp {fw : Nat} {fz : State} (hw : 8 &&& fw = 8) (s : State) (src slot res : Nat)
    (hz : Fp fw fz s) : Fp fw fz (leadFilled s src slot res) := by
  have k_onCall := maskOf (V := 8) hw rfl
  unfold leadFilled
  repeat' (first
    | with_reducible rfl
    | with_reducible assumption
    | with_reducible apply onCall_fp k_onCall
    | with_reducible refine ite_fp ?_ ?_
    | split)

theorem execSpilled_fp (src : Fin 1024) (slot : Fin 16384) (res : Nat) (s : State) (t : State) (h : execSpilled src slot res s = .next t) :
    Fp 1574415 s t := by
  have hw : 1574415 &&& 1574415 = 1574415 := rfl
  unfold execSpilled at h
  simp only [Host.Outcome.next.injEq] at h
  subst h
  have hz : Fp 1574415 s s := Fp.refl _ _
  have k_leadSpilled := maskOf (V := 1574415) hw rfl
  repeat' (first
    | with_reducible rfl
    | with_reducible assumption
    | with_reducible apply leadSpilled_fp k_leadSpilled
    | with_reducible refine ite_fp ?_ ?_)

theorem execFilled_fp (src : Fin 1024) (slot : Fin 16384) (res : Nat) (s : State) (t : State) (h : execFilled src slot res s = .next t) :
    Fp 8 s t := by
  have hw : 8 &&& 8 = 8 := rfl
  unfold execFilled at h
  simp only [Host.Outcome.next.injEq] at h
  subst h
  have hz : Fp 8 s s := Fp.refl _ _
  have k_leadFilled := maskOf (V := 8) hw rfl
  repeat' (first
    | with_reducible rfl
    | with_reducible assumption
    | with_reducible apply leadFilled_fp k_leadFilled
    | with_reducible refine ite_fp ?_ ?_)

theorem toLead_fp {fw : Nat} {fz : State} (hw : 1049601 &&& fw = 1049601) (s : State) (code slot value : Nat) (loc : State → State)
    (hloc : ∀ (v0 : State), Fp fw fz v0 → Fp fw fz (loc v0)) (hz : Fp fw fz s) : Fp fw fz (toLead s code slot value loc) := by
  have k_send := maskOf (V := 1049601) hw rfl
  unfold toLead
  repeat' (first
    | with_reducible rfl
    | with_reducible assumption
    | with_reducible apply send_fp k_send
    | with_reducible apply hloc
    | with_reducible refine ite_fp ?_ ?_
    | split)

theorem tellSpill_fp {fw : Nat} {fz : State} (hw : 1049601 &&& fw = 1049601) (s : State) (c : Call) (ords : List Nat)
    (hz : Fp fw fz s) : Fp fw fz (tellSpill s c ords) := by
  have k_sendTransfer := maskOf (V := 1049601) hw rfl
  unfold tellSpill
  repeat' (first
    | with_reducible rfl
    | with_reducible assumption
    | with_reducible apply sendTransfer_fp k_sendTransfer
    | with_reducible refine advance_fp _ ?_
    | with_reducible refine foldl_fp _ _ (fun _ _ _ => ?_) ?_
    | with_reducible refine foldlFst_fp _ _ (fun _ _ _ => ?_) ?_
    | with_reducible refine foldlSnd_fp _ _ (fun _ _ _ => ?_) ?_
    | split)

theorem gotSpill_fp {fw : Nat} {fz : State} (hw : 513 &&& fw = 513) (s : State) (bs : List Byte)
    (hz : Fp fw fz s) : Fp fw fz (gotSpill s bs) := by
  have b9 := bitOf hw 9 rfl
  have k_dropHeath := maskOf (V := 513) hw rfl
  unfold gotSpill
  repeat' (first
    | with_reducible rfl
    | with_reducible assumption
    | with_reducible refine onMdw_fp b9 _ _ ?_ ?_
    | with_reducible apply dropHeath_fp k_dropHeath)

theorem putHeath_fp {fw : Nat} {fz : State} (hw : 1049089 &&& fw = 1049089) (s : State) (h : HeathE) (bytes : List Byte)
    (hz : Fp fw fz s) : Fp fw fz (putHeath s h bytes) := by
  have b9 := bitOf hw 9 rfl
  have b20 := bitOf hw 20 rfl
  have k_set := maskOf (V := 1) hw rfl
  unfold putHeath
  repeat' (first
    | with_reducible rfl
    | with_reducible assumption
    | with_reducible refine onMdw_fp b9 _ _ ?_ ?_
    | with_reducible refine onOut_fp b20 _ _ ?_
    | with_reducible apply set_fp k_set)

theorem spillTo_fp {fw : Nat} {fz : State} (hw : 1245697 &&& fw = 1245697) (s : State) (slot page : Nat)
    (hz : Fp fw fz s) : Fp fw fz (spillTo s slot page) := by
  have k_takeIv := maskOf (V := 196609) hw rfl
  have k_putHeath := maskOf (V := 1049089) hw rfl
  unfold spillTo
  repeat' (first
    | with_reducible rfl
    | with_reducible assumption
    | with_reducible apply takeIv_fp k_takeIv (by assumption)
    | with_reducible apply takeIv_fp1 k_takeIv
    | with_reducible apply putHeath_fp k_putHeath)

theorem execHeathSpillDone_fp (slot : Fin 16384) (res : Nat) (s : State) (t : State) (h : execHeathSpillDone slot res s = .next t) :
    Fp 1771023 s t := by
  have hw : 1771023 &&& 1771023 = 1771023 := rfl
  unfold execHeathSpillDone at h
  simp only [Host.Outcome.next.injEq] at h
  subst h
  have hz : Fp 1771023 s s := Fp.refl _ _
  have k_toLead := maskOf (V := 1049601) hw rfl
  have k_leadSpilled := maskOf (V := 1574415) hw rfl
  have k_inc := maskOf (V := 1) hw rfl
  have k_spillTo := maskOf (V := 1245697) hw rfl
  repeat' (first
    | with_reducible rfl
    | with_reducible assumption
    | with_reducible refine toLead_fp k_toLead _ _ _ _ _ (fun _ _ => ?_) ?_
    | with_reducible apply leadSpilled_fp k_leadSpilled
    | with_reducible apply inc_fp k_inc
    | with_reducible apply spillTo_fp k_spillTo
    | with_reducible refine ite_fp ?_ ?_
    | split)

theorem fillFrom_fp {fw : Nat} {fz : State} (hw : 4194816 &&& fw = 4194816) (s : State) (h : HeathE)
    (hz : Fp fw fz s) : Fp fw fz (fillFrom s h) := by
  have k_writeBytes := maskOf (V := 4194816) hw rfl
  unfold fillFrom
  repeat' (first
    | with_reducible rfl
    | with_reducible assumption
    | with_reducible apply writeBytes_fp k_writeBytes
    | with_reducible refine foldl_fp _ _ (fun _ _ _ => ?_) ?_)

theorem execHeathFillDone_fp (slot : Fin 16384) (res : Nat) (s : State) (t : State) (h : execHeathFillDone slot res s = .next t) :
    Fp 5244425 s t := by
  have hw : 5244425 &&& 5244425 = 5244425 := rfl
  unfold execHeathFillDone at h
  simp only [Host.Outcome.next.injEq] at h
  subst h
  have hz : Fp 5244425 s s := Fp.refl _ _
  have b9 := bitOf hw 9 rfl
  have k_fillFrom := maskOf (V := 4194816) hw rfl
  have k_toLead := maskOf (V := 1049601) hw rfl
  have k_leadFilled := maskOf (V := 8) hw rfl
  repeat' (first
    | with_reducible rfl
    | with_reducible assumption
    | with_reducible refine onMdw_fp b9 _ _ ?_ ?_
    | with_reducible apply fillFrom_fp k_fillFrom
    | with_reducible refine toLead_fp k_toLead _ _ _ _ _ (fun _ _ => ?_) ?_
    | with_reducible apply leadFilled_fp k_leadFilled
    | with_reducible refine ite_fp ?_ ?_
    | split)

theorem pauseNow_fp {fw : Nat} {fz : State} (hw : 1082377 &&& fw = 1082377) (s : State) (c : Call) (n : Nat) (o : COp)
    (hz : Fp fw fz s) : Fp fw fz (pauseNow s c n o) := by
  have k_onCall := maskOf (V := 8) hw rfl
  have k_tellSpill := maskOf (V := 1049601) hw rfl
  have k_bookOp := maskOf (V := 32769) hw rfl
  unfold pauseNow
  repeat' (first
    | with_reducible rfl
    | with_reducible assumption
    | with_reducible apply onCall_fp k_onCall
    | with_reducible apply tellSpill_fp k_tellSpill
    | with_reducible apply bookOp_fp k_bookOp
    | with_reducible refine ite_fp ?_ ?_
    | split)

theorem resumeNow_fp {fw : Nat} {fz : State} (hw : 6211151 &&& fw = 6211151) (s : State) (c : Call) (n : Nat) (o : COp)
    (hz : Fp fw fz s) : Fp fw fz (resumeNow s c n o) := by
  have k_onCall := maskOf (V := 8) hw rfl
  have k_answerOp := maskOf (V := 1573903) hw rfl
  have k_bookOp := maskOf (V := 32769) hw rfl
  have k_freeHeath := maskOf (V := 1050113) hw rfl
  have k_drawBlocks := maskOf (V := 513) hw rfl
  have k_announceTable := maskOf (V := 6211147) hw rfl
  have k_tellDevs := maskOf (V := 1049601) hw rfl
  unfold resumeNow
  repeat' (first
    | with_reducible rfl
    | with_reducible assumption
    | with_reducible apply onCall_fp k_onCall
    | with_reducible apply answerOp_fp k_answerOp
    | with_reducible apply bookOp_fp k_bookOp
    | with_reducible apply freeHeath_fp k_freeHeath
    | with_reducible apply drawBlocks_fp k_drawBlocks (by assumption)
    | with_reducible apply drawBlocks_fp1 k_drawBlocks
    | with_reducible apply announceTable_fp k_announceTable
    | with_reducible apply tellDevs_fp k_tellDevs
    | with_reducible refine foldl_fp _ _ (fun _ _ _ => ?_) ?_
    | with_reducible refine foldlFst_fp _ _ (fun _ _ _ => ?_) ?_
    | with_reducible refine foldlSnd_fp _ _ (fun _ _ _ => ?_) ?_
    | with_reducible refine ite_fp ?_ ?_
    | split)

theorem continueNow_fp {fw : Nat} {fz : State} (hw : 1606671 &&& fw = 1606671) (s : State) (c : Call) (o : COp)
    (hz : Fp fw fz s) : Fp fw fz (continueNow s c o) := by
  have k_onCall := maskOf (V := 8) hw rfl
  have k_bookOp := maskOf (V := 32769) hw rfl
  have k_answer := maskOf (V := 1573903) hw rfl
  unfold continueNow
  repeat' (first
    | with_reducible rfl
    | with_reducible assumption
    | with_reducible apply onCall_fp k_onCall
    | with_reducible apply bookOp_fp k_bookOp
    | with_reducible apply answer_fp k_answer
    | with_reducible refine ite_fp ?_ ?_)

theorem cancelNow_fp {fw : Nat} {fz : State} (hw : 6211151 &&& fw = 6211151) (s : State) (c : Call) (n : Nat)
    (hz : Fp fw fz s) : Fp fw fz (cancelNow s c n) := by
  have k_bookOp := maskOf (V := 32769) hw rfl
  have k_releaseCall := maskOf (V := 6211151) hw rfl
  have k_reportStop := maskOf (V := 1606671) hw rfl
  have k_bookEnd := maskOf (V := 32769) hw rfl
  have k_onCall := maskOf (V := 8) hw rfl
  unfold cancelNow
  repeat' (first
    | with_reducible rfl
    | with_reducible assumption
    | with_reducible apply bookOp_fp k_bookOp
    | with_reducible apply releaseCall_fp k_releaseCall
    | with_reducible apply reportStop_fp k_reportStop
    | with_reducible apply bookEnd_fp k_bookEnd
    | with_reducible apply onCall_fp k_onCall
    | with_reducible refine ite_fp ?_ ?_)

theorem takeOps_fp {fw : Nat} {fz : State} (hw : 6211151 &&& fw = 6211151) (n slot : Nat) (k : Nat) (s : State)
    (hz : Fp fw fz s) : Fp fw fz (takeOps n slot k s) := by
  have k_resumeNow := maskOf (V := 6211151) hw rfl
  have k_cancelNow := maskOf (V := 6211151) hw rfl
  have k_continueNow := maskOf (V := 1606671) hw rfl
  have k_answerOp := maskOf (V := 1573903) hw rfl
  have k_onCall := maskOf (V := 8) hw rfl
  have k_pauseNow := maskOf (V := 1082377) hw rfl
  induction k generalizing s with
  | zero =>
    unfold takeOps
    repeat' (first
      | with_reducible assumption)
  | succ n ih =>
    unfold takeOps
    repeat' (first
      | with_reducible rfl
      | with_reducible assumption
      | with_reducible apply ih
      | with_reducible apply resumeNow_fp k_resumeNow
      | with_reducible apply cancelNow_fp k_cancelNow
      | with_reducible apply continueNow_fp k_continueNow
      | with_reducible apply answerOp_fp k_answerOp
      | with_reducible apply onCall_fp k_onCall
      | with_reducible apply pauseNow_fp k_pauseNow
      | with_reducible refine ite_fp ?_ ?_
      | split)

theorem heathBoundary_fp {fw : Nat} {fz : State} (hw : 6211151 &&& fw = 6211151) (s : State) (n slot : Nat)
    (hz : Fp fw fz s) : Fp fw fz (heathBoundary s n slot) := by
  have b9 := bitOf hw 9 rfl
  have k_onCall := maskOf (V := 8) hw rfl
  have k_answerOp := maskOf (V := 1573903) hw rfl
  have k_sweepBlocks := maskOf (V := 512) hw rfl
  have k_endCall := maskOf (V := 6211151) hw rfl
  have k_freeHeath := maskOf (V := 1050113) hw rfl
  have k_bookOp := maskOf (V := 32769) hw rfl
  unfold heathBoundary
  repeat' (first
    | with_reducible rfl
    | with_reducible assumption
    | with_reducible refine onMdw_fp b9 _ _ ?_ ?_
    | with_reducible apply onCall_fp k_onCall
    | with_reducible apply answerOp_fp k_answerOp
    | with_reducible apply sweepBlocks_fp k_sweepBlocks
    | with_reducible apply endCall_fp k_endCall
    | with_reducible apply freeHeath_fp k_freeHeath
    | with_reducible apply bookOp_fp k_bookOp
    | with_reducible refine foldl_fp _ _ (fun _ _ _ => ?_) ?_
    | with_reducible refine foldlFst_fp _ _ (fun _ _ _ => ?_) ?_
    | with_reducible refine foldlSnd_fp _ _ (fun _ _ _ => ?_) ?_
    | with_reducible refine ite_fp ?_ ?_
    | split)

theorem frameBoundary_fp {fw : Nat} {fz : State} (hw : 6211151 &&& fw = 6211151) (s : State) (n slot : Nat)
    (hz : Fp fw fz s) : Fp fw fz (frameBoundary s n slot) := by
  have k_onCall := maskOf (V := 8) hw rfl
  have k_inc := maskOf (V := 1) hw rfl
  have k_endCall := maskOf (V := 6211151) hw rfl
  unfold frameBoundary
  repeat' (first
    | with_reducible rfl
    | with_reducible assumption
    | with_reducible apply onCall_fp k_onCall
    | with_reducible apply inc_fp k_inc
    | with_reducible apply endCall_fp k_endCall
    | with_reducible refine ite_fp ?_ ?_
    | split)

theorem endedBoundary_fp {fw : Nat} {fz : State} (hw : 6211151 &&& fw = 6211151) (s : State) (n : Nat) (c : Call) (final : Bool)
    (hz : Fp fw fz s) : Fp fw fz (endedBoundary s n c final) := by
  have k_reportStop := maskOf (V := 1606671) hw rfl
  have k_onCall := maskOf (V := 8) hw rfl
  have k_dropOps := maskOf (V := 1573903) hw rfl
  have k_freeCall := maskOf (V := 6211147) hw rfl
  unfold endedBoundary
  repeat' (first
    | with_reducible rfl
    | with_reducible assumption
    | with_reducible apply reportStop_fp k_reportStop
    | with_reducible apply onCall_fp k_onCall
    | with_reducible apply dropOps_fp k_dropOps
    | with_reducible apply freeCall_fp k_freeCall
    | with_reducible refine ite_fp ?_ ?_)

theorem boardBoundary_fp {fw : Nat} {fz : State} (hw : 6211151 &&& fw = 6211151) (s : State) (n : Nat)
    (hz : Fp fw fz s) : Fp fw fz (boardBoundary s n) := by
  have k_dropBad := maskOf (V := 512) hw rfl
  have k_insertAll := maskOf (V := 520) hw rfl
  have k_endedBoundary := maskOf (V := 6211151) hw rfl
  have k_endCall := maskOf (V := 6211151) hw rfl
  have k_inc := maskOf (V := 1) hw rfl
  have k_frameBoundary := maskOf (V := 6211151) hw rfl
  have k_takeOps := maskOf (V := 6211151) hw rfl
  have k_heathBoundary := maskOf (V := 6211151) hw rfl
  unfold boardBoundary
  repeat' (first
    | with_reducible rfl
    | with_reducible assumption
    | with_reducible apply dropBad_fp k_dropBad
    | with_reducible apply insertAll_fp k_insertAll
    | with_reducible apply endedBoundary_fp k_endedBoundary
    | with_reducible apply endCall_fp k_endCall
    | with_reducible apply inc_fp k_inc
    | with_reducible apply frameBoundary_fp k_frameBoundary
    | with_reducible apply takeOps_fp k_takeOps
    | with_reducible apply heathBoundary_fp k_heathBoundary
    | with_reducible refine foldl_fp _ _ (fun _ _ _ => ?_) ?_
    | with_reducible refine foldlFst_fp _ _ (fun _ _ _ => ?_) ?_
    | with_reducible refine foldlSnd_fp _ _ (fun _ _ _ => ?_) ?_
    | with_reducible refine ite_fp ?_ ?_
    | split)

theorem budgetBoundary_fp {fw : Nat} {fz : State} (hw : 4 &&& fw = 4) (s : State)
    (hz : Fp fw fz s) : Fp fw fz (budgetBoundary s) := by
  have b2 := bitOf hw 2 rfl
  have k_setLevel := maskOf (V := 4) hw rfl
  unfold budgetBoundary
  repeat' (first
    | with_reducible rfl
    | with_reducible assumption
    | with_reducible refine onBox_fp b2 _ _ ?_
    | with_reducible apply setLevel_fp k_setLevel
    | with_reducible refine foldl_fp _ _ (fun _ _ _ => ?_) ?_)

end Sys2Proof.Machine
end

