-- ==== Sys2Proof/Laws/FootCompose.lean ====
section
/-!
SUPPORT. Footprints of the operations of Machine/Compose.lean: what each may touch (Fp).
-/
namespace Sys2Proof.Machine

theorem sendCtx_fp {fw : Nat} {fz : State} (hw : 1049737 &&& fw = 1049737) (s : State) (slot : Nat) (x : GCtx)
    (hz : Fp fw fz s) : Fp fw fz (sendCtx s slot x) := by
  have k_sendAll := maskOf (V := 1049601) hw rfl
  have k_noteSent := maskOf (V := 8) hw rfl
  have k_putCtx := maskOf (V := 128) hw rfl
  unfold sendCtx
  repeat' (first
    | with_reducible rfl
    | with_reducible assumption
    | with_reducible apply sendAll_fp k_sendAll
    | with_reducible apply noteSent_fp k_noteSent
    | with_reducible apply putCtx_fp k_putCtx)

theorem listEntry_fp {fw : Nat} {fz : State} (hw : 6211531 &&& fw = 6211531) (n : Nat) (s : State) (e : Entry)
    (hz : Fp fw fz s) : Fp fw fz (listEntry n s e) := by
  have b8 := bitOf hw 8 rfl
  have k_drawBlocks := maskOf (V := 513) hw rfl
  have k_onCall := maskOf (V := 8) hw rfl
  have k_announceBlocks := maskOf (V := 6211147) hw rfl
  have k_sendCtx := maskOf (V := 1049737) hw rfl
  unfold listEntry
  repeat' (first
    | with_reducible rfl
    | with_reducible assumption
    | with_reducible refine onWdr_fp b8 _ _ ?_
    | with_reducible apply drawBlocks_fp k_drawBlocks (by assumption)
    | with_reducible apply drawBlocks_fp1 k_drawBlocks
    | with_reducible apply onCall_fp k_onCall
    | with_reducible apply announceBlocks_fp k_announceBlocks
    | with_reducible apply sendCtx_fp k_sendCtx
    | with_reducible refine ite_fp ?_ ?_
    | split)

theorem sendCueList_fp {fw : Nat} {fz : State} (hw : 1049609 &&& fw = 1049609) (s : State) (n : Nat) (toks : List CueTok)
    (hz : Fp fw fz s) : Fp fw fz (sendCueList s n toks) := by
  have b3 := bitOf hw 3 rfl
  have k_sendAll := maskOf (V := 1049601) hw rfl
  unfold sendCueList
  repeat' (first
    | with_reducible rfl
    | with_reducible assumption
    | with_reducible refine onStm_fp b3 _ _ ?_
    | with_reducible apply sendAll_fp k_sendAll
    | with_reducible refine foldl_fp _ _ (fun _ _ _ => ?_) ?_)

theorem deadlineStops_fp {fw : Nat} {fz : State} (hw : 1606671 &&& fw = 1606671) (s : State) (n : Nat)
    (hz : Fp fw fz s) : Fp fw fz (deadlineStops s n) := by
  have b3 := bitOf hw 3 rfl
  have k_reportStop := maskOf (V := 1606671) hw rfl
  unfold deadlineStops
  repeat' (first
    | with_reducible rfl
    | with_reducible assumption
    | with_reducible refine onStm_fp b3 _ _ ?_
    | with_reducible apply reportStop_fp k_reportStop
    | with_reducible refine foldl_fp _ _ (fun _ _ _ => ?_) ?_)

theorem rebind_fp {fw : Nat} {fz : State} (hw : 8 &&& fw = 8) (s : State)
    (hz : Fp fw fz s) : Fp fw fz (rebind s) := by
  have b3 := bitOf hw 3 rfl
  unfold rebind
  repeat' (first
    | with_reducible rfl
    | with_reducible assumption
    | with_reducible refine onStm_fp b3 _ _ ?_)

theorem askResident_fp {fw : Nat} {fz : State} (hw : 1049857 &&& fw = 1049857) (s : State)
    (hz : Fp fw fz s) : Fp fw fz (askResident s) := by
  have b8 := bitOf hw 8 rfl
  have k_tellDevs := maskOf (V := 1049601) hw rfl
  unfold askResident
  repeat' (first
    | with_reducible rfl
    | with_reducible assumption
    | with_reducible refine onWdr_fp b8 _ _ ?_
    | with_reducible apply tellDevs_fp k_tellDevs
    | with_reducible refine foldl_fp _ _ (fun _ _ _ => ?_) ?_)

theorem tellListed_fp {fw : Nat} {fz : State} (hw : 1049601 &&& fw = 1049601) (s : State) (n : Nat)
    (hz : Fp fw fz s) : Fp fw fz (tellListed s n) := by
  have k_tellDevs := maskOf (V := 1049601) hw rfl
  unfold tellListed
  repeat' (first
    | with_reducible rfl
    | with_reducible assumption
    | with_reducible apply tellDevs_fp k_tellDevs
    | with_reducible refine foldl_fp _ _ (fun _ _ _ => ?_) ?_)

theorem sendFacts_fp {fw : Nat} {fz : State} (hw : 1049601 &&& fw = 1049601) (s : State) (n r : Nat) (slots : List Nat)
    (hz : Fp fw fz s) : Fp fw fz (sendFacts s n r slots) := by
  have k_sendTransfer := maskOf (V := 1049601) hw rfl
  unfold sendFacts
  repeat' (first
    | with_reducible rfl
    | with_reducible assumption
    | with_reducible apply sendTransfer_fp k_sendTransfer
    | with_reducible refine advance_fp _ ?_
    | with_reducible refine foldl_fp _ _ (fun _ _ _ => ?_) ?_
    | with_reducible refine foldlFst_fp _ _ (fun _ _ _ => ?_) ?_
    | with_reducible refine foldlSnd_fp _ _ (fun _ _ _ => ?_) ?_
    | split)

theorem gotFacts_fp {fw : Nat} {fz : State} (hw : 8 &&& fw = 8) (s : State) (bs : List Byte)
    (hz : Fp fw fz s) : Fp fw fz (gotFacts s bs) := by
  have b3 := bitOf hw 3 rfl
  unfold gotFacts
  repeat' (first
    | with_reducible rfl
    | with_reducible assumption
    | with_reducible refine onStm_fp b3 _ _ ?_)

theorem bookComposed_fp {fw : Nat} {fz : State} (hw : 32769 &&& fw = 32769) (s : State) (n r nDec nPf : Nat) (budget : List Nat) (toks : List CueTok) (held : List Nat) (defer : List (Nat × Nat × Nat)) (trail : List Nat)
    (hz : Fp fw fz s) : Fp fw fz (bookComposed s n r nDec nPf budget toks held defer trail) := by
  have k_bookAt := maskOf (V := 32769) hw rfl
  unfold bookComposed
  repeat' (first
    | with_reducible rfl
    | with_reducible assumption
    | with_reducible apply bookAt_fp k_bookAt
    | with_reducible refine foldl_fp _ _ (fun _ _ _ => ?_) ?_
    | with_reducible refine foldlFst_fp _ _ (fun _ _ _ => ?_) ?_
    | with_reducible refine foldlSnd_fp _ _ (fun _ _ _ => ?_) ?_
    | split)

theorem putStats_fp {fw : Nat} {fz : State} (hw : 1 &&& fw = 1) (s : State) (sc : Scan)
    (hz : Fp fw fz s) : Fp fw fz (putStats s sc) := by
  have k_set := maskOf (V := 1) hw rfl
  unfold putStats
  repeat' (first
    | with_reducible rfl
    | with_reducible assumption
    | with_reducible apply set_fp k_set)

theorem composeCue_fp {fw : Nat} {fz : State} (hw : 6211567 &&& fw = 6211567) (s : State) (n : Nat) (ov : Option Over)
    (hz : Fp fw fz s) : Fp fw fz (composeCue s n ov) := by
  have b3 := bitOf hw 3 rfl
  have k_askResident := maskOf (V := 1049857) hw rfl
  have k_rebind := maskOf (V := 8) hw rfl
  have k_deadlineStops := maskOf (V := 1606671) hw rfl
  have k_settle := maskOf (V := 4194849) hw rfl
  have k_set := maskOf (V := 1) hw rfl
  have k_sendFacts := maskOf (V := 1049601) hw rfl
  have k_tellListed := maskOf (V := 1049601) hw rfl
  have k_listEntry := maskOf (V := 6211531) hw rfl
  have k_noteSent := maskOf (V := 8) hw rfl
  have k_bookComposed := maskOf (V := 32769) hw rfl
  have k_putStats := maskOf (V := 1) hw rfl
  have k_sendCueList := maskOf (V := 1049609) hw rfl
  unfold composeCue
  repeat' (first
    | with_reducible rfl
    | with_reducible assumption
    | with_reducible refine onStm_fp b3 _ _ ?_
    | with_reducible apply askResident_fp k_askResident
    | with_reducible apply rebind_fp k_rebind
    | with_reducible apply deadlineStops_fp k_deadlineStops
    | with_reducible refine advance_fp _ ?_
    | with_reducible apply settle_fp k_settle
    | with_reducible apply set_fp k_set
    | with_reducible apply sendFacts_fp k_sendFacts
    | with_reducible apply tellListed_fp k_tellListed
    | with_reducible apply listEntry_fp k_listEntry
    | with_reducible apply noteSent_fp k_noteSent
    | with_reducible apply bookComposed_fp k_bookComposed
    | with_reducible apply putStats_fp k_putStats
    | with_reducible apply sendCueList_fp k_sendCueList
    | with_reducible refine foldl_fp _ _ (fun _ _ _ => ?_) ?_)

end Sys2Proof.Machine
end

