-- ==== Sys2Proof/Laws/FootLighting.lean ====
section
/-!
SUPPORT. Footprints of the operations of Machine/Lighting.lean: what each may touch (Fp).
-/
namespace Sys2Proof.Machine

theorem startFall_fp {fw : Nat} {fz : State} (hw : 4097 &&& fw = 4097) (s : State) (d t : Nat)
    (hz : Fp fw fz s) : Fp fw fz (startFall s d t) := by
  have k_set := maskOf (V := 1) hw rfl
  have k_onDom := maskOf (V := 4096) hw rfl
  unfold startFall
  repeat' (first
    | with_reducible rfl
    | with_reducible assumption
    | with_reducible apply set_fp k_set
    | with_reducible apply onDom_fp k_onDom
    | with_reducible refine foldl_fp _ _ (fun _ _ _ => ?_) ?_
    | with_reducible refine foldlFst_fp _ _ (fun _ _ _ => ?_) ?_
    | with_reducible refine foldlSnd_fp _ _ (fun _ _ _ => ?_) ?_
    | with_reducible refine ite_fp ?_ ?_)

theorem idleRule_fp {fw : Nat} {fz : State} (hw : 4097 &&& fw = 4097) (s : State) (d : Nat)
    (hz : Fp fw fz s) : Fp fw fz (idleRule s d) := by
  have k_startFall := maskOf (V := 4097) hw rfl
  have k_set := maskOf (V := 1) hw rfl
  unfold idleRule
  repeat' (first
    | with_reducible rfl
    | with_reducible assumption
    | with_reducible apply startFall_fp k_startFall
    | with_reducible apply set_fp k_set
    | with_reducible refine ite_fp ?_ ?_)

theorem loseContents_fp {fw : Nat} {fz : State} (hw : 4194816 &&& fw = 4194816) (s : State) (d : Nat)
    (hz : Fp fw fz s) : Fp fw fz (loseContents s d) := by
  have b9 := bitOf hw 9 rfl
  have k_clearRange := maskOf (V := 4194816) hw rfl
  unfold loseContents
  repeat' (first
    | with_reducible rfl
    | with_reducible assumption
    | with_reducible refine onMdw_fp b9 _ _ ?_ ?_
    | with_reducible apply clearRange_fp k_clearRange
    | with_reducible refine ite_fp ?_ ?_)

theorem clearLogic_fp {fw : Nat} {fz : State} (hw : 32 &&& fw = 32) (s : State) (d : Nat)
    (hz : Fp fw fz s) : Fp fw fz (clearLogic s d) := by
  have b5 := bitOf hw 5 rfl
  unfold clearLogic
  repeat' (first
    | with_reducible rfl
    | with_reducible assumption
    | with_reducible refine onPly_fp b5 _ _ ?_ ?_
    | with_reducible simp only [List.length_modify]
    | with_reducible refine foldl_fp _ _ (fun _ _ _ => ?_) ?_
    | with_reducible refine foldlFst_fp _ _ (fun _ _ _ => ?_) ?_
    | with_reducible refine foldlSnd_fp _ _ (fun _ _ _ => ?_) ?_
    | with_reducible refine ite_fp ?_ ?_)

theorem settle_fp {fw : Nat} {fz : State} (hw : 4194849 &&& fw = 4194849) (s : State) (d x : Nat)
    (hz : Fp fw fz s) : Fp fw fz (settle s d x) := by
  have k_set := maskOf (V := 1) hw rfl
  have k_clearLogic := maskOf (V := 32) hw rfl
  have k_loseContents := maskOf (V := 4194816) hw rfl
  unfold settle
  repeat' (first
    | with_reducible rfl
    | with_reducible assumption
    | with_reducible apply set_fp k_set
    | with_reducible apply clearLogic_fp k_clearLogic
    | with_reducible apply loseContents_fp k_loseContents
    | with_reducible refine ite_fp ?_ ?_)

theorem tripFall_fp {fw : Nat} {fz : State} (hw : 4097 &&& fw = 4097) (s : State)
    (hz : Fp fw fz s) : Fp fw fz (tripFall s) := by
  have k_startFall := maskOf (V := 4097) hw rfl
  unfold tripFall
  repeat' (first
    | with_reducible rfl
    | with_reducible assumption
    | with_reducible apply startFall_fp k_startFall
    | with_reducible refine foldl_fp _ _ (fun _ _ _ => ?_) ?_
    | with_reducible refine foldlFst_fp _ _ (fun _ _ _ => ?_) ?_
    | with_reducible refine foldlSnd_fp _ _ (fun _ _ _ => ?_) ?_
    | with_reducible refine ite_fp ?_ ?_)

theorem execDomainDemand_fp (d : Fin 64) (s : State) (t : State) (h : execDomainDemand d s = .next t) :
    Fp 4097 s t := by
  have hw : 4097 &&& 4097 = 4097 := rfl
  unfold execDomainDemand at h
  simp only [Host.Outcome.next.injEq] at h
  subst h
  have hz : Fp 4097 s s := Fp.refl _ _
  have k_demandDom := maskOf (V := 4097) hw rfl
  repeat' (first
    | with_reducible rfl
    | with_reducible assumption
    | with_reducible apply demandDom_fp k_demandDom)

theorem execDomainIdle_fp (d : Fin 64) (s : State) (t : State) (h : execDomainIdle d s = .next t) :
    Fp 4097 s t := by
  have hw : 4097 &&& 4097 = 4097 := rfl
  unfold execDomainIdle at h
  simp only [Host.Outcome.next.injEq] at h
  subst h
  have hz : Fp 4097 s s := Fp.refl _ _
  have k_onDom := maskOf (V := 4096) hw rfl
  have k_idleRule := maskOf (V := 4097) hw rfl
  repeat' (first
    | with_reducible rfl
    | with_reducible assumption
    | with_reducible apply onDom_fp k_onDom
    | with_reducible apply idleRule_fp k_idleRule
    | with_reducible refine ite_fp ?_ ?_)

theorem execTargetWrite_fp (d : Fin 64) (v : Word) (s : State) (t : State) (h : execTargetWrite d v s = .next t) :
    Fp 733203 s t := by
  have hw : 733203 &&& 733203 = 733203 := rfl
  unfold execTargetWrite at h
  simp only [Host.Outcome.next.injEq] at h
  subst h
  have hz : Fp 733203 s s := Fp.refl _ _
  have k_commandWord := maskOf (V := 729107) hw rfl
  have k_set := maskOf (V := 1) hw rfl
  have k_startRise := maskOf (V := 1) hw rfl
  have k_idleRule := maskOf (V := 4097) hw rfl
  repeat' (first
    | with_reducible rfl
    | with_reducible assumption
    | with_reducible apply commandWord_fp k_commandWord
    | with_reducible apply set_fp k_set
    | with_reducible apply startRise_fp k_startRise
    | with_reducible apply idleRule_fp k_idleRule
    | with_reducible refine ite_fp ?_ ?_)

theorem landStores_fp {fw : Nat} {fz : State} (hw : 4194848 &&& fw = 4194848) (s : State) (d : Nat)
    (hz : Fp fw fz s) : Fp fw fz (landStores s d) := by
  have b5 := bitOf hw 5 rfl
  have k_writeLe := maskOf (V := 4194816) hw rfl
  unfold landStores
  repeat' (first
    | with_reducible rfl
    | with_reducible assumption
    | with_reducible refine onPly_fp b5 _ _ ?_ ?_
    | with_reducible simp only [List.length_modify]
    | with_reducible apply writeLe_fp k_writeLe
    | with_reducible refine foldl_fp _ _ (fun _ _ _ => ?_) ?_)

theorem execShutdownComplete_fp (d : Fin 64) (s : State) (t : State) (h : execShutdownComplete d s = .next t) :
    Fp 4198945 s t := by
  have hw : 4198945 &&& 4198945 = 4198945 := rfl
  unfold execShutdownComplete at h
  simp only [Host.Outcome.next.injEq] at h
  subst h
  have hz : Fp 4198945 s s := Fp.refl _ _
  have k_settle := maskOf (V := 4194849) hw rfl
  have k_startRise := maskOf (V := 1) hw rfl
  have k_set := maskOf (V := 1) hw rfl
  have k_tripFall := maskOf (V := 4097) hw rfl
  have k_idleRule := maskOf (V := 4097) hw rfl
  repeat' (first
    | with_reducible rfl
    | with_reducible assumption
    | with_reducible apply settle_fp k_settle
    | with_reducible apply startRise_fp k_startRise
    | with_reducible apply set_fp k_set
    | with_reducible apply tripFall_fp k_tripFall
    | with_reducible apply idleRule_fp k_idleRule
    | with_reducible refine ite_fp ?_ ?_)

theorem execPowerupComplete_fp (d : Fin 64) (s : State) (t : State) (h : execPowerupComplete d s = .next t) :
    Fp 4198945 s t := by
  have hw : 4198945 &&& 4198945 = 4198945 := rfl
  unfold execPowerupComplete at h
  simp only [Host.Outcome.next.injEq] at h
  subst h
  have hz : Fp 4198945 s s := Fp.refl _ _
  have k_set := maskOf (V := 1) hw rfl
  have k_landStores := maskOf (V := 4194848) hw rfl
  have k_tripFall := maskOf (V := 4097) hw rfl
  have k_idleRule := maskOf (V := 4097) hw rfl
  repeat' (first
    | with_reducible rfl
    | with_reducible assumption
    | with_reducible apply set_fp k_set
    | with_reducible apply landStores_fp k_landStores
    | with_reducible apply tripFall_fp k_tripFall
    | with_reducible apply idleRule_fp k_idleRule
    | with_reducible refine foldl_fp _ _ (fun _ _ _ => ?_) ?_
    | with_reducible refine foldlFst_fp _ _ (fun _ _ _ => ?_) ?_
    | with_reducible refine foldlSnd_fp _ _ (fun _ _ _ => ?_) ?_
    | with_reducible refine ite_fp ?_ ?_)

theorem execPgFail_fp (d : Fin 64) (s : State) (t : State) (h : execPgFail d s = .next t) :
    Fp 5145123 s t := by
  have hw : 5145123 &&& 5145123 = 5145123 := rfl
  unfold execPgFail at h
  simp only [Host.Outcome.next.injEq] at h
  subst h
  have hz : Fp 5145123 s s := Fp.refl _ _
  have k_set := maskOf (V := 1) hw rfl
  have k_settle := maskOf (V := 4194849) hw rfl
  have k_report := maskOf (V := 950275) hw rfl
  repeat' (first
    | with_reducible rfl
    | with_reducible assumption
    | with_reducible apply set_fp k_set
    | with_reducible apply settle_fp k_settle
    | with_reducible apply report_fp k_report
    | with_reducible refine advance_fp _ ?_
    | with_reducible refine ite_fp ?_ ?_)

theorem execDeepOff_fp (v : Word) (s : State) (t : State) (h : execDeepOff v s = .next t) :
    Fp 729107 s t := by
  have hw : 729107 &&& 729107 = 729107 := rfl
  unfold execDeepOff at h
  simp only [Host.Outcome.next.injEq] at h
  subst h
  have hz : Fp 729107 s s := Fp.refl _ _
  have k_commandWord := maskOf (V := 729107) hw rfl
  have k_set := maskOf (V := 1) hw rfl
  repeat' (first
    | with_reducible rfl
    | with_reducible assumption
    | with_reducible apply commandWord_fp k_commandWord
    | with_reducible apply set_fp k_set
    | with_reducible refine ite_fp ?_ ?_)

theorem leadBudget_fp {fw : Nat} {fz : State} (hw : 8 &&& fw = 8) (s : State) (r : Report)
    (hz : Fp fw fz s) : Fp fw fz (leadBudget s r) := by
  have b3 := bitOf hw 3 rfl
  unfold leadBudget
  repeat' (first
    | with_reducible rfl
    | with_reducible assumption
    | with_reducible refine onStm_fp b3 _ _ ?_)

theorem putBudget_fp {fw : Nat} {fz : State} (hw : 266241 &&& fw = 266241) (s : State) (n t meas e : Nat)
    (hz : Fp fw fz s) : Fp fw fz (putBudget s n t meas e) := by
  have b12 := bitOf hw 12 rfl
  have b18 := bitOf hw 18 rfl
  have k_set := maskOf (V := 1) hw rfl
  unfold putBudget
  repeat' (first
    | with_reducible rfl
    | with_reducible assumption
    | with_reducible refine onLgt_fp b12 _ _ ?_
    | with_reducible refine onFlt_fp b18 _ _ ?_
    | with_reducible apply set_fp k_set)

theorem sendBudget_fp {fw : Nat} {fz : State} (hw : 1049609 &&& fw = 1049609) (s : State) (n e : Nat) (ew : Bool)
    (hz : Fp fw fz s) : Fp fw fz (sendBudget s n e ew) := by
  have k_leadBudget := maskOf (V := 8) hw rfl
  have k_send := maskOf (V := 1049601) hw rfl
  unfold sendBudget
  repeat' (first
    | with_reducible rfl
    | with_reducible assumption
    | with_reducible apply leadBudget_fp k_leadBudget
    | with_reducible apply send_fp k_send
    | with_reducible refine ite_fp ?_ ?_
    | split)

theorem execBudgetCompute_fp (temps : List Nat) (meas : Nat) (s : State) (t : State) (h : execBudgetCompute temps meas s = .next t) :
    Fp 3413001 s t := by
  have hw : 3413001 &&& 3413001 = 3413001 := rfl
  unfold execBudgetCompute at h
  simp only [Host.Outcome.next.injEq] at h
  subst h
  have hz : Fp 3413001 s s := Fp.refl _ _
  have b21 := bitOf hw 21 rfl
  have k_sendBudget := maskOf (V := 1049609) hw rfl
  have k_putBudget := maskOf (V := 266241) hw rfl
  repeat' (first
    | with_reducible rfl
    | with_reducible assumption
    | with_reducible refine setSt_fp b21 _ _ ?_
    | with_reducible apply sendBudget_fp k_sendBudget
    | with_reducible apply putBudget_fp k_putBudget
    | with_reducible refine foldl_fp _ _ (fun _ _ _ => ?_) ?_
    | with_reducible refine foldlFst_fp _ _ (fun _ _ _ => ?_) ?_
    | with_reducible refine foldlSnd_fp _ _ (fun _ _ _ => ?_) ?_
    | with_reducible refine ite_fp ?_ ?_)

theorem execBudget_fp (src : Fin 1024) (cue : Nat) (ready ew : Bool) (lit uj : Nat) (s : State) (t : State) (h : execBudget src cue ready ew lit uj s = .next t) :
    Fp 8 s t := by
  have hw : 8 &&& 8 = 8 := rfl
  unfold execBudget at h
  simp only [Host.Outcome.next.injEq] at h
  subst h
  have hz : Fp 8 s s := Fp.refl _ _
  have k_leadBudget := maskOf (V := 8) hw rfl
  repeat' (first
    | with_reducible rfl
    | with_reducible assumption
    | with_reducible apply leadBudget_fp k_leadBudget
    | with_reducible refine ite_fp ?_ ?_)

theorem cutPush_fp {fw : Nat} {fz : State} (hw : 32 &&& fw = 32) (s : State)
    (hz : Fp fw fz s) : Fp fw fz (cutPush s) := by
  have b5 := bitOf hw 5 rfl
  unfold cutPush
  repeat' (first
    | with_reducible rfl
    | with_reducible assumption
    | with_reducible refine onPly_fp b5 _ _ ?_ ?_
    | with_reducible simp only [List.length_map])

theorem applyThrottle_fp {fw : Nat} {fz : State} (hw : 4129 &&& fw = 4129) (s : State)
    (hz : Fp fw fz s) : Fp fw fz (applyThrottle s) := by
  have b12 := bitOf hw 12 rfl
  have k_cutPush := maskOf (V := 32) hw rfl
  have k_set := maskOf (V := 1) hw rfl
  unfold applyThrottle
  repeat' (first
    | with_reducible rfl
    | with_reducible assumption
    | with_reducible refine onLgt_fp b12 _ _ ?_
    | with_reducible apply cutPush_fp k_cutPush
    | with_reducible apply set_fp k_set)

theorem execPwrBrakeFall_fp (s : State) (t : State) (h : execPwrBrakeFall s = .next t) :
    Fp 528417 s t := by
  have hw : 528417 &&& 528417 = 528417 := rfl
  unfold execPwrBrakeFall at h
  simp only [Host.Outcome.next.injEq] at h
  subst h
  have hz : Fp 528417 s s := Fp.refl _ _
  have b12 := bitOf hw 12 rfl
  have b19 := bitOf hw 19 rfl
  have k_set := maskOf (V := 1) hw rfl
  have k_inc := maskOf (V := 1) hw rfl
  have k_applyThrottle := maskOf (V := 4129) hw rfl
  repeat' (first
    | with_reducible rfl
    | with_reducible assumption
    | with_reducible refine onLgt_fp b12 _ _ ?_
    | with_reducible refine onBrd_fp b19 _ _ ?_
    | with_reducible apply set_fp k_set
    | with_reducible apply inc_fp k_inc
    | with_reducible apply applyThrottle_fp k_applyThrottle)

theorem execPwrBrakeRise_fp (s : State) (t : State) (h : execPwrBrakeRise s = .next t) :
    Fp 528385 s t := by
  have hw : 528385 &&& 528385 = 528385 := rfl
  unfold execPwrBrakeRise at h
  simp only [Host.Outcome.next.injEq] at h
  subst h
  have hz : Fp 528385 s s := Fp.refl _ _
  have b12 := bitOf hw 12 rfl
  have b19 := bitOf hw 19 rfl
  have k_set := maskOf (V := 1) hw rfl
  repeat' (first
    | with_reducible rfl
    | with_reducible assumption
    | with_reducible refine onLgt_fp b12 _ _ ?_
    | with_reducible refine onBrd_fp b19 _ _ ?_
    | with_reducible apply set_fp k_set
    | with_reducible refine ite_fp ?_ ?_)

theorem execBrakeLoopTick_fp (mw : Nat) (s : State) (t : State) (h : execBrakeLoopTick mw s = .next t) :
    Fp 1 s t := by
  have hw : 1 &&& 1 = 1 := rfl
  unfold execBrakeLoopTick at h
  simp only [Host.Outcome.next.injEq] at h
  subst h
  have hz : Fp 1 s s := Fp.refl _ _
  have k_set := maskOf (V := 1) hw rfl
  repeat' (first
    | with_reducible rfl
    | with_reducible assumption
    | with_reducible apply set_fp k_set
    | with_reducible refine ite_fp ?_ ?_)

theorem liftThrottle_fp {fw : Nat} {fz : State} (hw : 4097 &&& fw = 4097) (s : State)
    (hz : Fp fw fz s) : Fp fw fz (liftThrottle s) := by
  have b12 := bitOf hw 12 rfl
  have k_set := maskOf (V := 1) hw rfl
  unfold liftThrottle
  repeat' (first
    | with_reducible rfl
    | with_reducible assumption
    | with_reducible refine onLgt_fp b12 _ _ ?_
    | with_reducible apply set_fp k_set
    | with_reducible refine ite_fp ?_ ?_
    | split)

end Sys2Proof.Machine
end

