-- ==== Sys2Proof/Laws/FootBeats.lean ====
section
/-!
SUPPORT. Footprints of the operations of Machine/Beats.lean: what each may touch (Fp).
-/
namespace Sys2Proof.Machine

theorem onBeat_fp {fw : Nat} {fz : State} (hw : 8 &&& fw = 8) (s : State) (i : Nat) (f : Beat → Beat)
    (hz : Fp fw fz s) : Fp fw fz (onBeat s i f) := by
  have b3 := bitOf hw 3 rfl
  unfold onBeat
  repeat' (first
    | with_reducible rfl
    | with_reducible assumption
    | with_reducible refine onStm_fp b3 _ _ ?_)

theorem noteReady_fp {fw : Nat} {fz : State} (hw : 5 &&& fw = 5) (s : State)
    (hz : Fp fw fz s) : Fp fw fz (noteReady s) := by
  have b2 := bitOf hw 2 rfl
  have k_set := maskOf (V := 1) hw rfl
  have k_noteHead := maskOf (V := 4) hw rfl
  unfold noteReady
  repeat' (first
    | with_reducible rfl
    | with_reducible assumption
    | with_reducible refine onBox_fp b2 _ _ ?_
    | with_reducible apply set_fp k_set
    | with_reducible apply noteHead_fp k_noteHead
    | with_reducible refine ite_fp ?_ ?_)

theorem cutChecks_fp {fw : Nat} {fz : State} (hw : 32 &&& fw = 32) (s : State)
    (hz : Fp fw fz s) : Fp fw fz (cutChecks s) := by
  have b5 := bitOf hw 5 rfl
  unfold cutChecks
  repeat' (first
    | with_reducible rfl
    | with_reducible assumption
    | with_reducible refine onPly_fp b5 _ _ ?_ ?_
    | with_reducible simp only [List.length_mapIdx])

theorem enterBeat_fp {fw : Nat} {fz : State} (hw : 8 &&& fw = 8) (s : State) (b : Beat)
    (hz : Fp fw fz s) : Fp fw fz (enterBeat s b) := by
  have b3 := bitOf hw 3 rfl
  unfold enterBeat
  repeat' (first
    | with_reducible rfl
    | with_reducible assumption
    | with_reducible refine onStm_fp b3 _ _ ?_
    | with_reducible refine advance_fp _ ?_)

theorem enterArriving_fp {fw : Nat} {fz : State} (hw : 8 &&& fw = 8) (s : State)
    (hz : Fp fw fz s) : Fp fw fz (enterArriving s) := by
  have b3 := bitOf hw 3 rfl
  have k_enterBeat := maskOf (V := 8) hw rfl
  unfold enterArriving
  repeat' (first
    | with_reducible rfl
    | with_reducible assumption
    | with_reducible refine onStm_fp b3 _ _ ?_
    | with_reducible apply enterBeat_fp k_enterBeat
    | with_reducible refine foldl_fp _ _ (fun _ _ _ => ?_) ?_)

theorem reportSpan_fp {fw : Nat} {fz : State} (hw : 1606671 &&& fw = 1606671) (s : State) (x : Span)
    (hz : Fp fw fz s) : Fp fw fz (reportSpan s x) := by
  have k_leadChunk := maskOf (V := 1606671) hw rfl
  have k_send := maskOf (V := 1049601) hw rfl
  unfold reportSpan
  repeat' (first
    | with_reducible rfl
    | with_reducible assumption
    | with_reducible apply leadChunk_fp k_leadChunk
    | with_reducible apply send_fp k_send
    | with_reducible refine ite_fp ?_ ?_
    | split)

theorem reportChunks_fp {fw : Nat} {fz : State} (hw : 1606671 &&& fw = 1606671) (s : State) (b : Beat)
    (hz : Fp fw fz s) : Fp fw fz (reportChunks s b) := by
  have b3 := bitOf hw 3 rfl
  have k_reportSpan := maskOf (V := 1606671) hw rfl
  unfold reportChunks
  repeat' (first
    | with_reducible rfl
    | with_reducible assumption
    | with_reducible refine onStm_fp b3 _ _ ?_
    | with_reducible apply reportSpan_fp k_reportSpan
    | with_reducible refine ite_fp ?_ ?_
    | split)

theorem deliver_fp1 {fw : Nat} {fz : State} (hw : 1606671 &&& fw = 1606671) (flow : Nat) (n : Nat) (s : State) (ts : List Token)
    (hz : Fp fw fz s) : Fp fw fz (deliver flow n s ts).1 := by
  have b3 := bitOf hw 3 rfl
  have k_reportChunks := maskOf (V := 1606671) hw rfl
  induction n generalizing s ts with
  | zero =>
    unfold deliver
    repeat' (first
      | with_reducible assumption)
  | succ n ih =>
    unfold deliver
    repeat' (first
      | with_reducible rfl
      | with_reducible assumption
      | with_reducible apply ih
      | with_reducible refine onStm_fp b3 _ _ ?_
      | with_reducible apply reportChunks_fp k_reportChunks
      | split
      | with_reducible dsimp only)

theorem deliver_fp {fw : Nat} {fz t : State} (hw : 1606671 &&& fw = 1606671) {flow : Nat} {n : Nat} {s : State} {ts : List Token} {x}
    (he : deliver flow n s ts = (t, x)) (hz : Fp fw fz s) : Fp fw fz t := by
  have k := deliver_fp1 hw flow n s ts hz
  rwa [he] at k

theorem emitDone_fp1 {fw : Nat} {fz : State} (hw : 1606671 &&& fw = 1606671) (s : State) (b : Beat)
    (hz : Fp fw fz s) : Fp fw fz (emitDone s b).1 := by
  have b3 := bitOf hw 3 rfl
  have k_reportChunks := maskOf (V := 1606671) hw rfl
  have k_deliver := maskOf (V := 1606671) hw rfl
  unfold emitDone
  repeat' (first
    | with_reducible rfl
    | with_reducible assumption
    | with_reducible refine onStm_fp b3 _ _ ?_
    | with_reducible apply reportChunks_fp k_reportChunks
    | with_reducible apply deliver_fp k_deliver (by assumption)
    | with_reducible apply deliver_fp1 k_deliver
    | with_reducible refine ite_fp ?_ ?_
    | split)

theorem emitDone_fp {fw : Nat} {fz t : State} (hw : 1606671 &&& fw = 1606671) {s : State} {b : Beat} {x}
    (he : emitDone s b = (t, x)) (hz : Fp fw fz s) : Fp fw fz t := by
  have k := emitDone_fp1 hw s b hz
  rwa [he] at k

theorem complete_fp1 {fw : Nat} {fz : State} (hw : 1606671 &&& fw = 1606671) (s : State) (b : Beat)
    (hz : Fp fw fz s) : Fp fw fz (complete s b).1 := by
  have b3 := bitOf hw 3 rfl
  have k_emitDone := maskOf (V := 1606671) hw rfl
  unfold complete
  repeat' (first
    | with_reducible rfl
    | with_reducible assumption
    | with_reducible refine onStm_fp b3 _ _ ?_
    | with_reducible apply emitDone_fp k_emitDone (by assumption)
    | with_reducible apply emitDone_fp1 k_emitDone)

theorem complete_fp {fw : Nat} {fz t : State} (hw : 1606671 &&& fw = 1606671) {s : State} {b : Beat} {x}
    (he : complete s b = (t, x)) (hz : Fp fw fz s) : Fp fw fz t := by
  have k := complete_fp1 hw s b hz
  rwa [he] at k

theorem sendTokens_fp {fw : Nat} {fz : State} (hw : 1049601 &&& fw = 1049601) (s : State) (ts : List Token)
    (hz : Fp fw fz s) : Fp fw fz (sendTokens s ts) := by
  have k_send := maskOf (V := 1049601) hw rfl
  unfold sendTokens
  repeat' (first
    | with_reducible rfl
    | with_reducible assumption
    | with_reducible apply send_fp k_send
    | with_reducible refine foldl_fp _ _ (fun _ _ _ => ?_) ?_)

theorem dropToken_fp {fw : Nat} {fz : State} (hw : 950275 &&& fw = 950275) (s : State)
    (hz : Fp fw fz s) : Fp fw fz (dropToken s) := by
  have k_report := maskOf (V := 950275) hw rfl
  have k_inc := maskOf (V := 1) hw rfl
  unfold dropToken
  repeat' (first
    | with_reducible rfl
    | with_reducible assumption
    | with_reducible apply report_fp k_report
    | with_reducible apply inc_fp k_inc
    | with_reducible refine advance_fp _ ?_)

theorem pump_fp {fw : Nat} {fz : State} (hw : 1999887 &&& fw = 1999887) (n : Nat) (ts : List Token) (s : State)
    (hz : Fp fw fz s) : Fp fw fz (pump n ts s) := by
  have k_dropToken := maskOf (V := 950275) hw rfl
  have k_onBeat := maskOf (V := 8) hw rfl
  have k_complete := maskOf (V := 1606671) hw rfl
  have k_sendTokens := maskOf (V := 1049601) hw rfl
  induction n generalizing ts s with
  | zero => exact hz
  | succ n ih =>
    cases ts with
    | nil => exact hz
    | cons t r =>
      simp only [pump]
      repeat' (first
        | with_reducible assumption
        | with_reducible apply ih
        | with_reducible apply dropToken_fp k_dropToken
        | with_reducible apply onBeat_fp k_onBeat
        | with_reducible apply complete_fp1 k_complete
        | with_reducible apply sendTokens_fp k_sendTokens
        | split)

theorem arriveTokens_fp {fw : Nat} {fz : State} (hw : 1999919 &&& fw = 1999919) (s : State) (ts : List Token)
    (hz : Fp fw fz s) : Fp fw fz (arriveTokens s ts) := by
  have k_cutChecks := maskOf (V := 32) hw rfl
  have k_noteReady := maskOf (V := 5) hw rfl
  have k_enterArriving := maskOf (V := 8) hw rfl
  have k_pump := maskOf (V := 1999887) hw rfl
  unfold arriveTokens
  repeat' (first
    | with_reducible rfl
    | with_reducible assumption
    | with_reducible apply cutChecks_fp k_cutChecks
    | with_reducible apply noteReady_fp k_noteReady
    | with_reducible apply enterArriving_fp k_enterArriving
    | with_reducible apply pump_fp k_pump)

theorem runTokens_fp {fw : Nat} {fz : State} (hw : 1999919 &&& fw = 1999919) (s : State) (ts : List Token)
    (hz : Fp fw fz s) : Fp fw fz (runTokens s ts) := by
  have k_arriveTokens := maskOf (V := 1999919) hw rfl
  have k_sendTokens := maskOf (V := 1049601) hw rfl
  unfold runTokens
  repeat' (first
    | with_reducible rfl
    | with_reducible assumption
    | with_reducible apply arriveTokens_fp k_arriveTokens
    | with_reducible apply sendTokens_fp k_sendTokens)

theorem finishBeat_fp {fw : Nat} {fz : State} (hw : 1999919 &&& fw = 1999919) (s : State) (b : Beat) (poison fail : Bool)
    (hz : Fp fw fz s) : Fp fw fz (finishBeat s b poison fail) := by
  have k_complete := maskOf (V := 1606671) hw rfl
  have k_runTokens := maskOf (V := 1999919) hw rfl
  unfold finishBeat
  repeat' (first
    | with_reducible rfl
    | with_reducible assumption
    | with_reducible apply complete_fp k_complete (by assumption)
    | with_reducible apply complete_fp1 k_complete
    | with_reducible apply runTokens_fp k_runTokens)

theorem sweepDead_fp {fw : Nat} {fz : State} (hw : 1999919 &&& fw = 1999919) (s : State)
    (hz : Fp fw fz s) : Fp fw fz (sweepDead s) := by
  have k_finishBeat := maskOf (V := 1999919) hw rfl
  unfold sweepDead
  repeat' (first
    | with_reducible rfl
    | with_reducible assumption
    | with_reducible apply finishBeat_fp k_finishBeat
    | with_reducible refine foldl_fp _ _ (fun _ _ _ => ?_) ?_
    | with_reducible refine foldlFst_fp _ _ (fun _ _ _ => ?_) ?_
    | with_reducible refine foldlSnd_fp _ _ (fun _ _ _ => ?_) ?_
    | split)

theorem instantiate_fp {fw : Nat} {fz : State} (hw : 1999919 &&& fw = 1999919) (s : State) (bs : List Beat)
    (hz : Fp fw fz s) : Fp fw fz (instantiate s bs) := by
  have b3 := bitOf hw 3 rfl
  have k_cutChecks := maskOf (V := 32) hw rfl
  have k_noteReady := maskOf (V := 5) hw rfl
  have k_sweepDead := maskOf (V := 1999919) hw rfl
  have k_enterArriving := maskOf (V := 8) hw rfl
  unfold instantiate
  repeat' (first
    | with_reducible rfl
    | with_reducible assumption
    | with_reducible refine onStm_fp b3 _ _ ?_
    | with_reducible apply cutChecks_fp k_cutChecks
    | with_reducible apply noteReady_fp k_noteReady
    | with_reducible apply sweepDead_fp k_sweepDead
    | with_reducible apply enterArriving_fp k_enterArriving)

theorem castRoles_fp {fw : Nat} {fz : State} (hw : 1 &&& fw = 1) (s : State) (r : Nat)
    (hz : Fp fw fz s) : Fp fw fz (castRoles s r) := by
  have k_set := maskOf (V := 1) hw rfl
  unfold castRoles
  repeat' (first
    | with_reducible rfl
    | with_reducible assumption
    | with_reducible apply set_fp k_set
    | with_reducible refine foldl_fp _ _ (fun _ _ _ => ?_) ?_
    | with_reducible refine foldlFst_fp _ _ (fun _ _ _ => ?_) ?_
    | with_reducible refine foldlSnd_fp _ _ (fun _ _ _ => ?_) ?_
    | with_reducible refine ite_fp ?_ ?_
    | split)

theorem castBoundary_fp {fw : Nat} {fz : State} (hw : 1 &&& fw = 1) (s : State) (n r : Nat)
    (hz : Fp fw fz s) : Fp fw fz (castBoundary s n r) := by
  have k_set := maskOf (V := 1) hw rfl
  have k_castRoles := maskOf (V := 1) hw rfl
  unfold castBoundary
  repeat' (first
    | with_reducible rfl
    | with_reducible assumption
    | with_reducible apply set_fp k_set
    | with_reducible apply castRoles_fp k_castRoles
    | with_reducible refine ite_fp ?_ ?_)

theorem numberFlows_fp {fw : Nat} {fz : State} (hw : 8 &&& fw = 8) (s : State) (slot toks : Nat) (ops : List (Template × Nat))
    (hz : Fp fw fz s) : Fp fw fz (numberFlows s slot toks ops) := by
  have b3 := bitOf hw 3 rfl
  unfold numberFlows
  repeat' (first
    | with_reducible rfl
    | with_reducible assumption
    | with_reducible refine onStm_fp b3 _ _ ?_)

theorem noteSpan_fp {fw : Nat} {fz : State} (hw : 8 &&& fw = 8) (s : State) (cue slot start toks : Nat) (ops : List (Template × Nat))
    (hz : Fp fw fz s) : Fp fw fz (noteSpan s cue slot start toks ops) := by
  have b3 := bitOf hw 3 rfl
  unfold noteSpan
  repeat' (first
    | with_reducible rfl
    | with_reducible assumption
    | with_reducible refine onStm_fp b3 _ _ ?_
    | with_reducible refine ite_fp ?_ ?_)

theorem slotDeadline_fp1 {fw : Nat} {fz : State} (hw : 0 &&& fw = 0) (s : State) (n slot : Nat)
    (hz : Fp fw fz s) : Fp fw fz (slotDeadline s n slot).2 := by
  unfold slotDeadline
  repeat' (first
    | with_reducible rfl
    | with_reducible assumption
    | with_reducible refine advance_fp _ ?_
    | with_reducible refine ite_fp ?_ ?_
    | split)

theorem slotDeadline_fp {fw : Nat} {fz t : State} (hw : 0 &&& fw = 0) {s : State} {n slot : Nat} {x}
    (he : slotDeadline s n slot = (x, t)) (hz : Fp fw fz s) : Fp fw fz t := by
  have k := slotDeadline_fp1 hw s n slot hz
  rwa [he] at k

theorem groupDeadline_fp1 {fw : Nat} {fz : State} (hw : 0 &&& fw = 0) (s : State) (n : Nat) (slots : List Nat)
    (hz : Fp fw fz s) : Fp fw fz (groupDeadline s n slots).2 := by
  have k_slotDeadline := maskOf (V := 0) hw rfl
  unfold groupDeadline
  repeat' (first
    | with_reducible rfl
    | with_reducible assumption
    | with_reducible apply slotDeadline_fp k_slotDeadline (by assumption)
    | with_reducible apply slotDeadline_fp1 k_slotDeadline
    | with_reducible refine foldl_fp _ _ (fun _ _ _ => ?_) ?_
    | with_reducible refine foldlFst_fp _ _ (fun _ _ _ => ?_) ?_
    | with_reducible refine foldlSnd_fp _ _ (fun _ _ _ => ?_) ?_)

theorem groupDeadline_fp {fw : Nat} {fz t : State} (hw : 0 &&& fw = 0) {s : State} {n : Nat} {slots : List Nat} {x}
    (he : groupDeadline s n slots = (x, t)) (hz : Fp fw fz s) : Fp fw fz t := by
  have k := groupDeadline_fp1 hw s n slots hz
  rwa [he] at k

theorem setLen_fp {fw : Nat} {fz : State} (hw : 512 &&& fw = 512) (s : State) (slot pos : Nat)
    (hz : Fp fw fz s) : Fp fw fz (setLen s slot pos) := by
  have b9 := bitOf hw 9 rfl
  unfold setLen
  repeat' (first
    | with_reducible rfl
    | with_reducible assumption
    | with_reducible refine onMdw_fp b9 _ _ ?_ ?_)

theorem await_fp {fw : Nat} {fz : State} (hw : 8 &&& fw = 8) (s : State) (n slot : Nat)
    (hz : Fp fw fz s) : Fp fw fz (await s n slot) := by
  have b3 := bitOf hw 3 rfl
  unfold await
  repeat' (first
    | with_reducible rfl
    | with_reducible assumption
    | with_reducible refine onStm_fp b3 _ _ ?_)

theorem launchGroup_fp {fw : Nat} {fz : State} (hw : 2000431 &&& fw = 2000431) (n : Nat) (s : State) (g : List CueTok)
    (hz : Fp fw fz s) : Fp fw fz (launchGroup n s g) := by
  have k_groupDeadline := maskOf (V := 0) hw rfl
  have k_await := maskOf (V := 8) hw rfl
  have k_setLen := maskOf (V := 512) hw rfl
  have k_instantiate := maskOf (V := 1999919) hw rfl
  unfold launchGroup
  repeat' (first
    | with_reducible rfl
    | with_reducible assumption
    | with_reducible apply groupDeadline_fp k_groupDeadline (by assumption)
    | with_reducible apply groupDeadline_fp1 k_groupDeadline
    | with_reducible apply await_fp k_await
    | with_reducible apply setLen_fp k_setLen
    | with_reducible apply instantiate_fp k_instantiate
    | with_reducible refine foldl_fp _ _ (fun _ _ _ => ?_) ?_)

theorem launchSpan_fp {fw : Nat} {fz : State} (hw : 2000431 &&& fw = 2000431) (n : Nat) (s : State) (t : CueTok)
    (hz : Fp fw fz s) : Fp fw fz (launchSpan n s t) := by
  have k_slotDeadline := maskOf (V := 0) hw rfl
  have k_numberFlows := maskOf (V := 8) hw rfl
  have k_setLen := maskOf (V := 512) hw rfl
  have k_await := maskOf (V := 8) hw rfl
  have k_noteSpan := maskOf (V := 8) hw rfl
  have k_instantiate := maskOf (V := 1999919) hw rfl
  unfold launchSpan
  repeat' (first
    | with_reducible rfl
    | with_reducible assumption
    | with_reducible apply slotDeadline_fp k_slotDeadline (by assumption)
    | with_reducible apply slotDeadline_fp1 k_slotDeadline
    | with_reducible apply numberFlows_fp k_numberFlows
    | with_reducible apply setLen_fp k_setLen
    | with_reducible apply await_fp k_await
    | with_reducible apply noteSpan_fp k_noteSpan
    | with_reducible apply instantiate_fp k_instantiate
    | with_reducible refine ite_fp ?_ ?_)

theorem clError_fp {fw : Nat} {fz : State} (hw : 950275 &&& fw = 950275) (s : State)
    (hz : Fp fw fz s) : Fp fw fz (clError s) := by
  have k_report := maskOf (V := 950275) hw rfl
  have k_inc := maskOf (V := 1) hw rfl
  unfold clError
  repeat' (first
    | with_reducible rfl
    | with_reducible assumption
    | with_reducible apply report_fp k_report
    | with_reducible apply inc_fp k_inc
    | with_reducible refine advance_fp _ ?_)

theorem launchList_fp {fw : Nat} {fz : State} (hw : 2000431 &&& fw = 2000431) (s : State) (n : Nat)
    (hz : Fp fw fz s) : Fp fw fz (launchList s n) := by
  have b3 := bitOf hw 3 rfl
  have k_clError := maskOf (V := 950275) hw rfl
  have k_castBoundary := maskOf (V := 1) hw rfl
  have k_launchGroup := maskOf (V := 2000431) hw rfl
  have k_launchSpan := maskOf (V := 2000431) hw rfl
  unfold launchList
  repeat' (first
    | with_reducible rfl
    | with_reducible assumption
    | with_reducible refine onStm_fp b3 _ _ ?_
    | with_reducible apply clError_fp k_clError
    | with_reducible apply castBoundary_fp k_castBoundary
    | with_reducible apply launchGroup_fp k_launchGroup
    | with_reducible apply launchSpan_fp k_launchSpan
    | with_reducible refine foldl_fp _ _ (fun _ _ _ => ?_) ?_
    | with_reducible refine foldlFst_fp _ _ (fun _ _ _ => ?_) ?_
    | with_reducible refine foldlSnd_fp _ _ (fun _ _ _ => ?_) ?_
    | with_reducible refine ite_fp ?_ ?_
    | split
    | with_reducible dsimp only)

theorem launchOther_fp {fw : Nat} {fz : State} (hw : 1 &&& fw = 1) (s : State) (n : Nat)
    (hz : Fp fw fz s) : Fp fw fz (launchOther s n) := by
  have k_castBoundary := maskOf (V := 1) hw rfl
  unfold launchOther
  repeat' (first
    | with_reducible rfl
    | with_reducible assumption
    | with_reducible apply castBoundary_fp k_castBoundary
    | with_reducible refine advance_fp _ ?_
    | with_reducible refine ite_fp ?_ ?_
    | split)

theorem census_fp {fw : Nat} {fz : State} (hw : 950383 &&& fw = 950383) (s : State) (n : Nat)
    (hz : Fp fw fz s) : Fp fw fz (census s n) := by
  have b3 := bitOf hw 3 rfl
  have b6 := bitOf hw 6 rfl
  have k_inc := maskOf (V := 1) hw rfl
  have k_report := maskOf (V := 950275) hw rfl
  have k_cutChecks := maskOf (V := 32) hw rfl
  have k_noteReady := maskOf (V := 5) hw rfl
  have k_enterArriving := maskOf (V := 8) hw rfl
  unfold census
  repeat' (first
    | with_reducible rfl
    | with_reducible assumption
    | with_reducible refine onStm_fp b3 _ _ ?_
    | with_reducible refine onPrm_fp b6 _ _ ?_
    | with_reducible apply inc_fp k_inc
    | with_reducible apply report_fp k_report
    | with_reducible refine advance_fp _ ?_
    | with_reducible apply cutChecks_fp k_cutChecks
    | with_reducible apply noteReady_fp k_noteReady
    | with_reducible apply enterArriving_fp k_enterArriving
    | with_reducible refine foldl_fp _ _ (fun _ _ _ => ?_) ?_)

theorem stepArrived_fp {fw : Nat} {fz : State} (hw : 2000431 &&& fw = 2000431) (s : State) (e : Early)
    (hz : Fp fw fz s) : Fp fw fz (stepArrived s e) := by
  have b3 := bitOf hw 3 rfl
  have k_setLen := maskOf (V := 512) hw rfl
  have k_cutChecks := maskOf (V := 32) hw rfl
  have k_noteReady := maskOf (V := 5) hw rfl
  have k_sweepDead := maskOf (V := 1999919) hw rfl
  unfold stepArrived
  repeat' (first
    | with_reducible rfl
    | with_reducible assumption
    | with_reducible refine onStm_fp b3 _ _ ?_
    | with_reducible apply setLen_fp k_setLen
    | with_reducible apply cutChecks_fp k_cutChecks
    | with_reducible apply noteReady_fp k_noteReady
    | with_reducible apply sweepDead_fp k_sweepDead
    | with_reducible refine ite_fp ?_ ?_)

theorem execCompletion_fp (toks : List Token) (s : State) (t : State) (h : execCompletion toks s = .next t) :
    Fp 1999919 s t := by
  have hw : 1999919 &&& 1999919 = 1999919 := rfl
  unfold execCompletion at h
  simp only [Host.Outcome.next.injEq] at h
  subst h
  have hz : Fp 1999919 s s := Fp.refl _ _
  have k_arriveTokens := maskOf (V := 1999919) hw rfl
  repeat' (first
    | with_reducible rfl
    | with_reducible assumption
    | with_reducible apply arriveTokens_fp k_arriveTokens)

theorem absorbTok_fp {fw : Nat} {fz : State} (hw : 8 &&& fw = 8) (s : State) (t : CueTok)
    (hz : Fp fw fz s) : Fp fw fz (absorbTok s t) := by
  have b3 := bitOf hw 3 rfl
  unfold absorbTok
  repeat' (first
    | with_reducible rfl
    | with_reducible assumption
    | with_reducible refine onStm_fp b3 _ _ ?_)

theorem execCueList_fp (src : Fin 1024) (toks : List CueTok) (s : State) (t : State) (h : execCueList src toks s = .next t) :
    Fp 8 s t := by
  have hw : 8 &&& 8 = 8 := rfl
  unfold execCueList at h
  simp only [Host.Outcome.next.injEq] at h
  subst h
  have hz : Fp 8 s s := Fp.refl _ _
  have k_absorbTok := maskOf (V := 8) hw rfl
  repeat' (first
    | with_reducible rfl
    | with_reducible assumption
    | with_reducible apply absorbTok_fp k_absorbTok
    | with_reducible refine foldl_fp _ _ (fun _ _ _ => ?_) ?_
    | with_reducible refine foldlFst_fp _ _ (fun _ _ _ => ?_) ?_
    | with_reducible refine foldlSnd_fp _ _ (fun _ _ _ => ?_) ?_
    | with_reducible refine ite_fp ?_ ?_)

theorem writeAt_fp {fw : Nat} {fz : State} (hw : 4194816 &&& fw = 4194816) (s : State) (a : Nat) (poison : Bool) (bs : List Byte)
    (hz : Fp fw fz s) : Fp fw fz (writeAt s a poison bs) := by
  have k_writeByte := maskOf (V := 4194816) hw rfl
  have k_setPoison := maskOf (V := 512) hw rfl
  unfold writeAt
  repeat' (first
    | with_reducible rfl
    | with_reducible assumption
    | with_reducible apply writeByte_fp k_writeByte
    | with_reducible apply setPoison_fp k_setPoison
    | with_reducible refine foldl_fp _ _ (fun _ _ _ => ?_) ?_
    | with_reducible refine foldlFst_fp _ _ (fun _ _ _ => ?_) ?_
    | with_reducible refine foldlSnd_fp _ _ (fun _ _ _ => ?_) ?_
    | with_reducible refine ite_fp ?_ ?_)

theorem execActivation_fp (src : Fin 1024) (cue : Nat) (push : Bool) (slots : List (Fin 16384 × BitVec 20)) (toks deadline : Nat) (frame costume spec : Bool) (body : ActBody) (s : State) (t : State) (h : execActivation src cue push slots toks deadline frame costume spec body s = .next t) :
    Fp 6194735 s t := by
  have hw : 6194735 &&& 6194735 = 6194735 := rfl
  unfold execActivation at h
  simp only [Host.Outcome.next.injEq] at h
  subst h
  have hz : Fp 6194735 s s := Fp.refl _ _
  have k_writeAt := maskOf (V := 4194816) hw rfl
  have k_setLen := maskOf (V := 512) hw rfl
  have k_await := maskOf (V := 8) hw rfl
  have k_numberFlows := maskOf (V := 8) hw rfl
  have k_noteSpan := maskOf (V := 8) hw rfl
  have k_instantiate := maskOf (V := 1999919) hw rfl
  repeat' (first
    | with_reducible rfl
    | with_reducible assumption
    | with_reducible apply writeAt_fp k_writeAt
    | with_reducible apply setLen_fp k_setLen
    | with_reducible apply await_fp k_await
    | with_reducible apply numberFlows_fp k_numberFlows
    | with_reducible apply noteSpan_fp k_noteSpan
    | with_reducible apply instantiate_fp k_instantiate
    | with_reducible refine foldl_fp _ _ (fun _ _ _ => ?_) ?_
    | with_reducible refine foldlFst_fp _ _ (fun _ _ _ => ?_) ?_
    | with_reducible refine foldlSnd_fp _ _ (fun _ _ _ => ?_) ?_
    | with_reducible refine ite_fp ?_ ?_)

theorem execPartials_fp (_src : Fin 1024) (beat : Fin 16384) (cue16 : BitVec 16) (addr : Nat) (data : List Byte) (poison fail : Bool) (s : State) (t : State) (h : execPartials _src beat cue16 addr data poison fail s = .next t) :
    Fp 6194735 s t := by
  have hw : 6194735 &&& 6194735 = 6194735 := rfl
  unfold execPartials at h
  split at h
  on_goal 2 => simp only [reduceCtorEq] at h
  simp only [Host.Outcome.next.injEq] at h
  subst h
  have hz : Fp 6194735 s s := Fp.refl _ _
  have k_arriveTokens := maskOf (V := 1999919) hw rfl
  have k_writeAt := maskOf (V := 4194816) hw rfl
  repeat' (first
    | with_reducible rfl
    | with_reducible assumption
    | with_reducible apply arriveTokens_fp k_arriveTokens
    | with_reducible apply writeAt_fp k_writeAt
    | with_reducible refine ite_fp ?_ ?_)

end Sys2Proof.Machine
end

