-- ==== Sys2Proof/Laws/FootPlayers.lean ====
section
/-!
SUPPORT. Footprints of the operations of Machine/Players.lean: what each may touch (Fp).
-/
namespace Sys2Proof.Machine

theorem onPlayer_fp {w : Nat} {z : State} (hw : 32 &&& w = 32) (s : State) (p : Nat) (f : Player → Player)
    (h : Fp w z s) : Fp w z (onPlayer s p f) :=
  onPly_fp (bitOf hw 5 rfl) _ _ (by simp) h

theorem setSeq_fp {fw : Nat} {fz : State} (hw : 1 &&& fw = 1) (s : State) (p v : Nat)
    (hz : Fp fw fz s) : Fp fw fz (setSeq s p v) := by
  have k_set := maskOf (V := 1) hw rfl
  unfold setSeq
  repeat' (first
    | with_reducible rfl
    | with_reducible assumption
    | with_reducible apply set_fp k_set)

theorem refill_fp {fw : Nat} {fz : State} (hw : 33 &&& fw = 33) (s : State) (p w : Nat)
    (hz : Fp fw fz s) : Fp fw fz (refill s p w) := by
  have k_onPlayer := maskOf (V := 32) hw rfl
  have k_set := maskOf (V := 1) hw rfl
  unfold refill
  repeat' (first
    | with_reducible rfl
    | with_reducible assumption
    | with_reducible apply onPlayer_fp k_onPlayer
    | with_reducible apply set_fp k_set)

theorem advancePc_fp {fw : Nat} {fz : State} (hw : 33 &&& fw = 33) (s : State) (p : Nat)
    (hz : Fp fw fz s) : Fp fw fz (advancePc s p) := by
  have k_onPlayer := maskOf (V := 32) hw rfl
  have k_set := maskOf (V := 1) hw rfl
  unfold advancePc
  repeat' (first
    | with_reducible rfl
    | with_reducible assumption
    | with_reducible apply onPlayer_fp k_onPlayer
    | with_reducible apply set_fp k_set
    | with_reducible refine ite_fp ?_ ?_)

theorem withWindow_fp {fw : Nat} {fz : State} (hw : 33 &&& fw = 33) (s : State) (p : Nat)
    (hz : Fp fw fz s) : Fp fw fz (withWindow s p) := by
  have k_refill := maskOf (V := 33) hw rfl
  unfold withWindow
  repeat' (first
    | with_reducible rfl
    | with_reducible assumption
    | with_reducible apply refill_fp k_refill
    | with_reducible refine ite_fp ?_ ?_)

theorem onHand_fp {fw : Nat} {fz : State} (hw : 8 &&& fw = 8) (s : State) (p : Nat) (f : Beat → Beat)
    (hz : Fp fw fz s) : Fp fw fz (onHand s p f) := by
  have k_onBeat := maskOf (V := 8) hw rfl
  unfold onHand
  repeat' (first
    | with_reducible rfl
    | with_reducible assumption
    | with_reducible apply onBeat_fp k_onBeat
    | split)

theorem toWordZero_fp {fw : Nat} {fz : State} (hw : 33 &&& fw = 33) (s : State) (p : Nat)
    (hz : Fp fw fz s) : Fp fw fz (toWordZero s p) := by
  have k_onPlayer := maskOf (V := 32) hw rfl
  have k_refill := maskOf (V := 33) hw rfl
  have k_setSeq := maskOf (V := 1) hw rfl
  unfold toWordZero
  repeat' (first
    | with_reducible rfl
    | with_reducible assumption
    | with_reducible apply onPlayer_fp k_onPlayer
    | with_reducible apply refill_fp k_refill
    | with_reducible apply setSeq_fp k_setSeq)

theorem endBeat_fp {fw : Nat} {fz : State} (hw : 1999919 &&& fw = 1999919) (s : State) (p : Nat) (poison fail : Bool)
    (hz : Fp fw fz s) : Fp fw fz (endBeat s p poison fail) := by
  have k_finishBeat := maskOf (V := 1999919) hw rfl
  have k_toWordZero := maskOf (V := 33) hw rfl
  unfold endBeat
  repeat' (first
    | with_reducible rfl
    | with_reducible assumption
    | with_reducible apply finishBeat_fp k_finishBeat
    | with_reducible apply toWordZero_fp k_toWordZero
    | split)

theorem askLit_fp {fw : Nat} {fz : State} (hw : 4097 &&& fw = 4097) (s : State) (p : Nat) (push : Bool)
    (hz : Fp fw fz s) : Fp fw fz (askLit s p push) := by
  have k_demandDom := maskOf (V := 4097) hw rfl
  unfold askLit
  repeat' (first
    | with_reducible rfl
    | with_reducible assumption
    | with_reducible apply demandDom_fp k_demandDom
    | with_reducible refine ite_fp ?_ ?_)

theorem execPushSlotFill_fp (p : Fin 96) (s : State) (t : State) (h : execPushSlotFill p s = .next t) :
    Fp 4109 s t := by
  have hw : 4109 &&& 4109 = 4109 := rfl
  unfold execPushSlotFill at h
  simp only [Host.Outcome.next.injEq] at h
  subst h
  have hz : Fp 4109 s s := Fp.refl _ _
  have b3 := bitOf hw 3 rfl
  have k_askLit := maskOf (V := 4097) hw rfl
  have k_noteReady := maskOf (V := 5) hw rfl
  have k_onBeat := maskOf (V := 8) hw rfl
  repeat' (first
    | with_reducible rfl
    | with_reducible assumption
    | with_reducible refine onStm_fp b3 _ _ ?_
    | with_reducible apply askLit_fp k_askLit
    | with_reducible apply noteReady_fp k_noteReady
    | with_reducible apply onBeat_fp k_onBeat
    | with_reducible refine ite_fp ?_ ?_
    | split)

theorem handOver_fp {fw : Nat} {fz : State} (hw : 45 &&& fw = 45) (s : State) (p : Nat) (b : Beat)
    (hz : Fp fw fz s) : Fp fw fz (handOver s p b) := by
  have b3 := bitOf hw 3 rfl
  have k_onBeat := maskOf (V := 8) hw rfl
  have k_set := maskOf (V := 1) hw rfl
  have k_onPlayer := maskOf (V := 32) hw rfl
  have k_refill := maskOf (V := 33) hw rfl
  have k_cutChecks := maskOf (V := 32) hw rfl
  have k_noteReady := maskOf (V := 5) hw rfl
  have k_setSeq := maskOf (V := 1) hw rfl
  unfold handOver
  repeat' (first
    | with_reducible rfl
    | with_reducible assumption
    | with_reducible refine onStm_fp b3 _ _ ?_
    | with_reducible apply onBeat_fp k_onBeat
    | with_reducible apply set_fp k_set
    | with_reducible apply onPlayer_fp k_onPlayer
    | with_reducible apply refill_fp k_refill
    | with_reducible apply cutChecks_fp k_cutChecks
    | with_reducible apply noteReady_fp k_noteReady
    | with_reducible apply setSeq_fp k_setSeq)

theorem execTake_fp (p : Fin 96) (s : State) (t : State) (h : execTake p s = .next t) :
    Fp 4141 s t := by
  have hw : 4141 &&& 4141 = 4141 := rfl
  unfold execTake at h
  simp only [Host.Outcome.next.injEq] at h
  subst h
  have hz : Fp 4141 s s := Fp.refl _ _
  have k_withWindow := maskOf (V := 33) hw rfl
  have k_setSeq := maskOf (V := 1) hw rfl
  have k_handOver := maskOf (V := 45) hw rfl
  have k_askLit := maskOf (V := 4097) hw rfl
  repeat' (first
    | with_reducible rfl
    | with_reducible assumption
    | with_reducible apply withWindow_fp k_withWindow
    | with_reducible apply setSeq_fp k_setSeq
    | with_reducible apply handOver_fp k_handOver
    | with_reducible apply askLit_fp k_askLit
    | with_reducible refine ite_fp ?_ ?_
    | split)

theorem execRefetch_fp (p : Fin 96) (s : State) (t : State) (h : execRefetch p s = .next t) :
    Fp 33 s t := by
  have hw : 33 &&& 33 = 33 := rfl
  unfold execRefetch at h
  simp only [Host.Outcome.next.injEq] at h
  subst h
  have hz : Fp 33 s s := Fp.refl _ _
  have k_withWindow := maskOf (V := 33) hw rfl
  have k_advancePc := maskOf (V := 33) hw rfl
  have k_setSeq := maskOf (V := 1) hw rfl
  have k_refill := maskOf (V := 33) hw rfl
  repeat' (first
    | with_reducible rfl
    | with_reducible assumption
    | with_reducible apply withWindow_fp k_withWindow
    | with_reducible apply advancePc_fp k_advancePc
    | with_reducible apply setSeq_fp k_setSeq
    | with_reducible apply refill_fp k_refill
    | with_reducible refine ite_fp ?_ ?_)

theorem execBranch_fp (p : Fin 96) (s : State) (t : State) (h : execBranch p s = .next t) :
    Fp 33 s t := by
  have hw : 33 &&& 33 = 33 := rfl
  unfold execBranch at h
  simp only [Host.Outcome.next.injEq] at h
  subst h
  have hz : Fp 33 s s := Fp.refl _ _
  have k_withWindow := maskOf (V := 33) hw rfl
  have k_setSeq := maskOf (V := 1) hw rfl
  have k_onPlayer := maskOf (V := 32) hw rfl
  have k_refill := maskOf (V := 33) hw rfl
  have k_advancePc := maskOf (V := 33) hw rfl
  repeat' (first
    | with_reducible rfl
    | with_reducible assumption
    | with_reducible apply withWindow_fp k_withWindow
    | with_reducible apply setSeq_fp k_setSeq
    | with_reducible apply onPlayer_fp k_onPlayer
    | with_reducible apply refill_fp k_refill
    | with_reducible apply advancePc_fp k_advancePc
    | with_reducible refine ite_fp ?_ ?_
    | split)

theorem execDone_fp (p : Fin 96) (s : State) (t : State) (h : execDone p s = .next t) :
    Fp 1999919 s t := by
  have hw : 1999919 &&& 1999919 = 1999919 := rfl
  unfold execDone at h
  simp only [Host.Outcome.next.injEq] at h
  subst h
  have hz : Fp 1999919 s s := Fp.refl _ _
  have k_withWindow := maskOf (V := 33) hw rfl
  have k_endBeat := maskOf (V := 1999919) hw rfl
  repeat' (first
    | with_reducible rfl
    | with_reducible assumption
    | with_reducible apply withWindow_fp k_withWindow
    | with_reducible apply endBeat_fp k_endBeat
    | with_reducible refine ite_fp ?_ ?_)

theorem cutBeat_fp {fw : Nat} {fz : State} (hw : 1999919 &&& fw = 1999919) (s : State) (p : Nat) (b : Beat) (k : Nat)
    (hz : Fp fw fz s) : Fp fw fz (cutBeat s p b k) := by
  have k_toWordZero := maskOf (V := 33) hw rfl
  have k_complete := maskOf (V := 1606671) hw rfl
  have k_instantiate := maskOf (V := 1999919) hw rfl
  have k_runTokens := maskOf (V := 1999919) hw rfl
  unfold cutBeat
  repeat' (first
    | with_reducible rfl
    | with_reducible assumption
    | with_reducible apply toWordZero_fp k_toWordZero
    | with_reducible apply complete_fp k_complete (by assumption)
    | with_reducible apply complete_fp1 k_complete
    | with_reducible apply instantiate_fp k_instantiate
    | with_reducible apply runTokens_fp k_runTokens)

theorem execChunk_fp (p : Fin 96) (s : State) (t : State) (h : execChunk p s = .next t) :
    Fp 1999919 s t := by
  have hw : 1999919 &&& 1999919 = 1999919 := rfl
  unfold execChunk at h
  simp only [Host.Outcome.next.injEq] at h
  subst h
  have hz : Fp 1999919 s s := Fp.refl _ _
  have k_withWindow := maskOf (V := 33) hw rfl
  have k_setSeq := maskOf (V := 1) hw rfl
  have k_advancePc := maskOf (V := 33) hw rfl
  have k_cutBeat := maskOf (V := 1999919) hw rfl
  have k_onBeat := maskOf (V := 8) hw rfl
  have k_onPlayer := maskOf (V := 32) hw rfl
  repeat' (first
    | with_reducible rfl
    | with_reducible assumption
    | with_reducible apply withWindow_fp k_withWindow
    | with_reducible apply setSeq_fp k_setSeq
    | with_reducible apply advancePc_fp k_advancePc
    | with_reducible apply cutBeat_fp k_cutBeat
    | with_reducible apply onBeat_fp k_onBeat
    | with_reducible apply onPlayer_fp k_onPlayer
    | with_reducible refine ite_fp ?_ ?_
    | split)

theorem execHalt_fp (p : Fin 96) (s : State) (t : State) (h : execHalt p s = .next t) :
    Fp 33 s t := by
  have hw : 33 &&& 33 = 33 := rfl
  unfold execHalt at h
  simp only [Host.Outcome.next.injEq] at h
  subst h
  have hz : Fp 33 s s := Fp.refl _ _
  have k_withWindow := maskOf (V := 33) hw rfl
  have k_setSeq := maskOf (V := 1) hw rfl
  have k_advancePc := maskOf (V := 33) hw rfl
  repeat' (first
    | with_reducible rfl
    | with_reducible assumption
    | with_reducible apply withWindow_fp k_withWindow
    | with_reducible apply setSeq_fp k_setSeq
    | with_reducible apply advancePc_fp k_advancePc
    | with_reducible refine ite_fp ?_ ?_)

theorem setFlags_fp {fw : Nat} {fz : State} (hw : 1 &&& fw = 1) (s : State) (p fl : Nat)
    (hz : Fp fw fz s) : Fp fw fz (setFlags s p fl) := by
  have k_set := maskOf (V := 1) hw rfl
  unfold setFlags
  repeat' (first
    | with_reducible rfl
    | with_reducible assumption
    | with_reducible apply set_fp k_set
    | with_reducible refine foldl_fp _ _ (fun _ _ _ => ?_) ?_
    | with_reducible refine foldlFst_fp _ _ (fun _ _ _ => ?_) ?_
    | with_reducible refine foldlSnd_fp _ _ (fun _ _ _ => ?_) ?_
    | with_reducible refine ite_fp ?_ ?_)

theorem redress_fp {fw : Nat} {fz : State} (hw : 256 &&& fw = 256) (s : State)
    (hz : Fp fw fz s) : Fp fw fz (redress s) := by
  have b8 := bitOf hw 8 rfl
  unfold redress
  repeat' (first
    | with_reducible rfl
    | with_reducible assumption
    | with_reducible refine onWdr_fp b8 _ _ ?_)

theorem playerStore_fp {fw : Nat} {fz : State} (hw : 5145099 &&& fw = 5145099) (s : State) (p a : Nat) (poison : Bool) (bs : List Byte)
    (hz : Fp fw fz s) : Fp fw fz (playerStore s p a poison bs) := by
  have k_onHand := maskOf (V := 8) hw rfl
  have k_report := maskOf (V := 950275) hw rfl
  have k_set := maskOf (V := 1) hw rfl
  have k_writeAt := maskOf (V := 4194816) hw rfl
  unfold playerStore
  repeat' (first
    | with_reducible rfl
    | with_reducible assumption
    | with_reducible apply onHand_fp k_onHand
    | with_reducible apply report_fp k_report
    | with_reducible apply set_fp k_set
    | with_reducible refine advance_fp _ ?_
    | with_reducible apply writeAt_fp k_writeAt
    | with_reducible refine ite_fp ?_ ?_)

theorem meetPoison_fp {fw : Nat} {fz : State} (hw : 9 &&& fw = 9) (s : State) (p : Nat) (poison : Bool)
    (hz : Fp fw fz s) : Fp fw fz (meetPoison s p poison) := by
  have k_onHand := maskOf (V := 8) hw rfl
  have k_set := maskOf (V := 1) hw rfl
  unfold meetPoison
  repeat' (first
    | with_reducible rfl
    | with_reducible assumption
    | with_reducible apply onHand_fp k_onHand
    | with_reducible apply set_fp k_set
    | with_reducible refine ite_fp ?_ ?_)

theorem skipFree_fp {fw : Nat} {fz : State} (hw : 0 &&& fw = 0) (s : State) (n : Nat)
    (hz : Fp fw fz s) : Fp fw fz (skipFree s n) :=
  hz.trans (Fp.mono (V := 0) ⟨rfl, Nat.le_add_right _ _, id, id, id, le_refl _, fun _ x => x, fun _ => rfl, fun _ => rfl, fun _ => rfl, fun _ => rfl, fun _ => rfl, fun _ => rfl, fun _ => rfl, fun _ => rfl, fun _ => rfl, fun _ => rfl, fun _ => rfl, fun _ => rfl, fun _ => rfl, fun _ => rfl, fun _ => rfl, fun _ => rfl, fun _ => rfl, fun _ => rfl, fun _ => rfl, fun _ => rfl, fun _ => rfl, fun _ => rfl, fun _ => rfl, fun _ => ⟨rfl, rfl⟩⟩ hw)

theorem withTables_fp {fw : Nat} {fz : State} (hw : 512 &&& fw = 512) (s : State) (op : VecOp)
    (hz : Fp fw fz s) : Fp fw fz (withTables s op) := by
  have k_readEntry := maskOf (V := 512) hw rfl
  unfold withTables
  repeat' (first
    | with_reducible rfl
    | with_reducible assumption
    | with_reducible apply readEntry_fp k_readEntry (by assumption)
    | with_reducible apply readEntry_fp1 k_readEntry
    | with_reducible refine foldl_fp _ _ (fun _ _ _ => ?_) ?_
    | with_reducible refine foldlFst_fp _ _ (fun _ _ _ => ?_) ?_
    | with_reducible refine foldlSnd_fp _ _ (fun _ _ _ => ?_) ?_
    | split)

theorem sendBulk_fp {fw : Nat} {fz : State} (hw : 1049601 &&& fw = 1049601) (s : State) (kind : Nat) (devs : List Nat) (poison : Bool) (beat cue a n dst : Nat)
    (hz : Fp fw fz s) : Fp fw fz (sendBulk s kind devs poison beat cue a n dst) := by
  have k_sendPkt := maskOf (V := 1049601) hw rfl
  unfold sendBulk
  repeat' (first
    | with_reducible rfl
    | with_reducible assumption
    | with_reducible apply sendPkt_fp k_sendPkt
    | with_reducible refine foldl_fp _ _ (fun _ _ _ => ?_) ?_)

theorem tellBad_fp {fw : Nat} {fz : State} (hw : 1050113 &&& fw = 1050113) (s : State) (bs : List Nat)
    (hz : Fp fw fz s) : Fp fw fz (tellBad s bs) := by
  have b9 := bitOf hw 9 rfl
  have k_tellDevs := maskOf (V := 1049601) hw rfl
  unfold tellBad
  repeat' (first
    | with_reducible rfl
    | with_reducible assumption
    | with_reducible refine onMdw_fp b9 _ _ ?_ ?_
    | with_reducible apply tellDevs_fp k_tellDevs
    | with_reducible refine foldl_fp _ _ (fun _ _ _ => ?_) ?_
    | with_reducible refine foldlFst_fp _ _ (fun _ _ _ => ?_) ?_
    | with_reducible refine foldlSnd_fp _ _ (fun _ _ _ => ?_) ?_
    | with_reducible refine ite_fp ?_ ?_
    | split)

theorem opSends_fp {fw : Nat} {fz : State} (hw : 1050433 &&& fw = 1050433) (s : State) (p : Nat) (op : VecOp) (poison : Bool)
    (hz : Fp fw fz s) : Fp fw fz (opSends s p op poison) := by
  have b6 := bitOf hw 6 rfl
  have k_sendBulk := maskOf (V := 1049601) hw rfl
  have k_send := maskOf (V := 1049601) hw rfl
  have k_tellBad := maskOf (V := 1050113) hw rfl
  have k_redress := maskOf (V := 256) hw rfl
  unfold opSends
  repeat' (first
    | with_reducible rfl
    | with_reducible assumption
    | with_reducible refine onPrm_fp b6 _ _ ?_
    | with_reducible apply sendBulk_fp k_sendBulk
    | with_reducible apply send_fp k_send
    | with_reducible apply tellBad_fp k_tellBad
    | with_reducible apply redress_fp k_redress
    | with_reducible refine ite_fp ?_ ?_
    | split)

theorem runOp_fp {fw : Nat} {fz : State} (hw : 6195019 &&& fw = 6195019) (s : State) (p : Nat) (op : VecOp)
    (hz : Fp fw fz s) : Fp fw fz (runOp s p op) := by
  have k_playerStore := maskOf (V := 5145099) hw rfl
  have k_skipFree := maskOf (V := 0) hw rfl
  have k_setFlags := maskOf (V := 1) hw rfl
  have k_meetPoison := maskOf (V := 9) hw rfl
  have k_withTables := maskOf (V := 512) hw rfl
  have k_opSends := maskOf (V := 1050433) hw rfl
  unfold runOp
  repeat' (first
    | with_reducible rfl
    | with_reducible assumption
    | with_reducible apply playerStore_fp k_playerStore
    | with_reducible apply skipFree_fp k_skipFree
    | with_reducible apply setFlags_fp k_setFlags
    | with_reducible apply meetPoison_fp k_meetPoison
    | with_reducible apply withTables_fp k_withTables
    | with_reducible apply opSends_fp k_opSends
    | with_reducible refine foldl_fp _ _ (fun _ _ _ => ?_) ?_
    | with_reducible refine foldlFst_fp _ _ (fun _ _ _ => ?_) ?_
    | with_reducible refine foldlSnd_fp _ _ (fun _ _ _ => ?_) ?_
    | split)

theorem execComputeWord_fp (p : Fin 96) (op : VecOp) (s : State) (t : State) (h : execComputeWord p op s = .next t) :
    Fp 6195051 s t := by
  have hw : 6195051 &&& 6195051 = 6195051 := rfl
  have k0 := withWindow_fp (maskOf (V := 33) hw rfl) s p (Fp.refl _ s)
  unfold execComputeWord at h
  dsimp only at h
  split at h
  · simp only [Host.Outcome.next.injEq] at h
    exact h ▸ k0
  · split at h
    · simp only [reduceCtorEq] at h
    · simp only [Host.Outcome.next.injEq] at h
      exact h ▸ setSeq_fp (maskOf (V := 1) hw rfl) _ _ _ (advancePc_fp (maskOf (V := 33) hw rfl) _ _ (runOp_fp (maskOf (V := 6195019) hw rfl) _ _ _ k0))

theorem execBadop_fp (p : Fin 96) (s : State) (t : State) (h : execBadop p s = .next t) :
    Fp 1999919 s t := by
  have hw : 1999919 &&& 1999919 = 1999919 := rfl
  unfold execBadop at h
  simp only [Host.Outcome.next.injEq] at h
  subst h
  have hz : Fp 1999919 s s := Fp.refl _ _
  have k_withWindow := maskOf (V := 33) hw rfl
  have k_endBeat := maskOf (V := 1999919) hw rfl
  have k_report := maskOf (V := 950275) hw rfl
  have k_set := maskOf (V := 1) hw rfl
  repeat' (first
    | with_reducible rfl
    | with_reducible assumption
    | with_reducible apply withWindow_fp k_withWindow
    | with_reducible apply endBeat_fp k_endBeat
    | with_reducible apply report_fp k_report
    | with_reducible apply set_fp k_set
    | with_reducible refine advance_fp _ ?_
    | with_reducible refine ite_fp ?_ ?_)

theorem execIpar_fp (p : Fin 96) (s : State) (t : State) (h : execIpar p s = .next t) :
    Fp 1999919 s t := by
  have hw : 1999919 &&& 1999919 = 1999919 := rfl
  unfold execIpar at h
  simp only [Host.Outcome.next.injEq] at h
  subst h
  have hz : Fp 1999919 s s := Fp.refl _ _
  have k_setSeq := maskOf (V := 1) hw rfl
  have k_endBeat := maskOf (V := 1999919) hw rfl
  have k_report := maskOf (V := 950275) hw rfl
  have k_set := maskOf (V := 1) hw rfl
  repeat' (first
    | with_reducible rfl
    | with_reducible assumption
    | with_reducible apply setSeq_fp k_setSeq
    | with_reducible apply endBeat_fp k_endBeat
    | with_reducible apply report_fp k_report
    | with_reducible apply set_fp k_set
    | with_reducible refine advance_fp _ ?_
    | with_reducible refine ite_fp ?_ ?_)

theorem loadSheets_fp {fw : Nat} {fz : State} (hw : 4194816 &&& fw = 4194816) (s : State) (p : Nat)
    (hz : Fp fw fz s) : Fp fw fz (loadSheets s p) := by
  have k_writeLe := maskOf (V := 4194816) hw rfl
  have k_clearRange := maskOf (V := 4194816) hw rfl
  unfold loadSheets
  repeat' (first
    | with_reducible rfl
    | with_reducible assumption
    | with_reducible apply writeLe_fp k_writeLe
    | with_reducible apply clearRange_fp k_clearRange
    | with_reducible refine foldl_fp _ _ (fun _ _ _ => ?_) ?_
    | with_reducible refine foldlFst_fp _ _ (fun _ _ _ => ?_) ?_
    | with_reducible refine foldlSnd_fp _ _ (fun _ _ _ => ?_) ?_
    | split)

theorem execReloadDone_fp (p : Fin 96) (s : State) (t : State) (h : execReloadDone p s = .next t) :
    Fp 4194849 s t := by
  have hw : 4194849 &&& 4194849 = 4194849 := rfl
  unfold execReloadDone at h
  simp only [Host.Outcome.next.injEq] at h
  subst h
  have hz : Fp 4194849 s s := Fp.refl _ _
  have k_toWordZero := maskOf (V := 33) hw rfl
  have k_loadSheets := maskOf (V := 4194816) hw rfl
  repeat' (first
    | with_reducible rfl
    | with_reducible assumption
    | with_reducible apply toWordZero_fp k_toWordZero
    | with_reducible apply loadSheets_fp k_loadSheets
    | with_reducible refine ite_fp ?_ ?_)

theorem execHaltReq_fp (p : Fin 96) (v : Word) (s : State) (t : State) (h : execHaltReq p v s = .next t) :
    Fp 729139 s t := by
  have hw : 729139 &&& 729139 = 729139 := rfl
  unfold execHaltReq at h
  simp only [Host.Outcome.next.injEq] at h
  subst h
  have hz : Fp 729139 s s := Fp.refl _ _
  have k_commandWord := maskOf (V := 729107) hw rfl
  have k_set := maskOf (V := 1) hw rfl
  have k_withWindow := maskOf (V := 33) hw rfl
  have k_setSeq := maskOf (V := 1) hw rfl
  repeat' (first
    | with_reducible rfl
    | with_reducible assumption
    | with_reducible apply commandWord_fp k_commandWord
    | with_reducible apply set_fp k_set
    | with_reducible apply withWindow_fp k_withWindow
    | with_reducible apply setSeq_fp k_setSeq
    | with_reducible refine ite_fp ?_ ?_)

theorem execSeqRefetch_fp (p : Fin 96) (v : Word) (s : State) (t : State) (h : execSeqRefetch p v s = .next t) :
    Fp 729139 s t := by
  have hw : 729139 &&& 729139 = 729139 := rfl
  unfold execSeqRefetch at h
  simp only [Host.Outcome.next.injEq] at h
  subst h
  have hz : Fp 729139 s s := Fp.refl _ _
  have k_commandWord := maskOf (V := 729107) hw rfl
  have k_refill := maskOf (V := 33) hw rfl
  repeat' (first
    | with_reducible rfl
    | with_reducible assumption
    | with_reducible apply commandWord_fp k_commandWord
    | with_reducible apply refill_fp k_refill
    | with_reducible refine ite_fp ?_ ?_)

theorem idataStore_fp {fw : Nat} {fz : State} (hw : 4198945 &&& fw = 4198945) (s : State) (p hi : Nat)
    (hz : Fp fw fz s) : Fp fw fz (idataStore s p hi) := by
  have k_set := maskOf (V := 1) hw rfl
  have k_writeLe := maskOf (V := 4194816) hw rfl
  have k_demandDom := maskOf (V := 4097) hw rfl
  have k_onPlayer := maskOf (V := 32) hw rfl
  unfold idataStore
  repeat' (first
    | with_reducible rfl
    | with_reducible assumption
    | with_reducible apply set_fp k_set
    | with_reducible apply writeLe_fp k_writeLe
    | with_reducible apply demandDom_fp k_demandDom
    | with_reducible apply onPlayer_fp k_onPlayer
    | with_reducible refine ite_fp ?_ ?_)

theorem execIdataStore_fp (fn : Fin 128) (p : Fin 96) (v : Word) (s : State) (t : State) (h : execIdataStore fn p v s = .next t) :
    Fp 4395553 s t := by
  have hw : 4395553 &&& 4395553 = 4395553 := rfl
  unfold execIdataStore at h
  simp only [Host.Outcome.next.injEq] at h
  subst h
  have hz : Fp 4395553 s s := Fp.refl _ _
  have k_lockedOut := maskOf (V := 196609) hw rfl
  have k_idataStore := maskOf (V := 4198945) hw rfl
  repeat' (first
    | with_reducible rfl
    | with_reducible assumption
    | with_reducible apply lockedOut_fp k_lockedOut
    | with_reducible apply idataStore_fp k_idataStore
    | with_reducible refine ite_fp ?_ ?_)

end Sys2Proof.Machine
end

