-- ==== Sys2Proof/Laws/FootPrompter.lean ====
section
/-!
SUPPORT. Footprints of the operations of Machine/Prompter.lean: what each may touch (Fp).
-/
namespace Sys2Proof.Machine

theorem noteScripts_fp {fw : Nat} {fz : State} (hw : 1 &&& fw = 1) (s : State)
    (hz : Fp fw fz s) : Fp fw fz (noteScripts s) := by
  have k_set := maskOf (V := 1) hw rfl
  unfold noteScripts
  repeat' (first
    | with_reducible rfl
    | with_reducible assumption
    | with_reducible apply set_fp k_set
    | with_reducible refine ite_fp ?_ ?_)

theorem freeScripts_fp {fw : Nat} {fz : State} (hw : 65 &&& fw = 65) (s : State)
    (hz : Fp fw fz s) : Fp fw fz (freeScripts s) := by
  have b6 := bitOf hw 6 rfl
  have k_noteScripts := maskOf (V := 1) hw rfl
  unfold freeScripts
  repeat' (first
    | with_reducible rfl
    | with_reducible assumption
    | with_reducible refine onPrm_fp b6 _ _ ?_
    | with_reducible apply noteScripts_fp k_noteScripts)

theorem sendScript_fp {fw : Nat} {fz : State} (hw : 1049665 &&& fw = 1049665) (s : State)
    (hz : Fp fw fz s) : Fp fw fz (sendScript s) := by
  have b6 := bitOf hw 6 rfl
  have k_sendTransfer := maskOf (V := 1049601) hw rfl
  unfold sendScript
  repeat' (first
    | with_reducible rfl
    | with_reducible assumption
    | with_reducible refine onPrm_fp b6 _ _ ?_
    | with_reducible apply sendTransfer_fp k_sendTransfer
    | with_reducible refine advance_fp _ ?_
    | with_reducible refine foldl_fp _ _ (fun _ _ _ => ?_) ?_)

theorem execScriptLoad_fp (v : Word) (s : State) (t : State) (h : execScriptLoad v s = .next t) :
    Fp 1778771 s t := by
  have hw : 1778771 &&& 1778771 = 1778771 := rfl
  unfold execScriptLoad at h
  simp only [Host.Outcome.next.injEq] at h
  subst h
  have hz : Fp 1778771 s s := Fp.refl _ _
  have b6 := bitOf hw 6 rfl
  have k_commandWord := maskOf (V := 729107) hw rfl
  have k_set := maskOf (V := 1) hw rfl
  have k_sendScript := maskOf (V := 1049665) hw rfl
  repeat' (first
    | with_reducible rfl
    | with_reducible assumption
    | with_reducible refine onPrm_fp b6 _ _ ?_
    | with_reducible apply commandWord_fp k_commandWord
    | with_reducible apply set_fp k_set
    | with_reducible apply sendScript_fp k_sendScript
    | with_reducible refine ite_fp ?_ ?_)

theorem execScriptLoadDone_fp (s : State) (t : State) (h : execScriptLoadDone s = .next t) :
    Fp 1049665 s t := by
  have hw : 1049665 &&& 1049665 = 1049665 := rfl
  unfold execScriptLoadDone at h
  simp only [Host.Outcome.next.injEq] at h
  subst h
  have hz : Fp 1049665 s s := Fp.refl _ _
  have b6 := bitOf hw 6 rfl
  have k_set := maskOf (V := 1) hw rfl
  have k_noteScripts := maskOf (V := 1) hw rfl
  have k_sendScript := maskOf (V := 1049665) hw rfl
  repeat' (first
    | with_reducible rfl
    | with_reducible assumption
    | with_reducible refine onPrm_fp b6 _ _ ?_
    | with_reducible apply set_fp k_set
    | with_reducible apply noteScripts_fp k_noteScripts
    | with_reducible apply sendScript_fp k_sendScript
    | with_reducible refine ite_fp ?_ ?_
    | split)

theorem execWithdraw_fp (v : Word) (s : State) (t : State) (h : execWithdraw v s = .next t) :
    Fp 1778771 s t := by
  have hw : 1778771 &&& 1778771 = 1778771 := rfl
  unfold execWithdraw at h
  simp only [Host.Outcome.next.injEq] at h
  subst h
  have hz : Fp 1778771 s s := Fp.refl _ _
  have b6 := bitOf hw 6 rfl
  have k_commandWord := maskOf (V := 729107) hw rfl
  have k_freeScripts := maskOf (V := 65) hw rfl
  have k_set := maskOf (V := 1) hw rfl
  have k_tellDevs := maskOf (V := 1049601) hw rfl
  repeat' (first
    | with_reducible rfl
    | with_reducible assumption
    | with_reducible refine onPrm_fp b6 _ _ ?_
    | with_reducible apply commandWord_fp k_commandWord
    | with_reducible apply freeScripts_fp k_freeScripts
    | with_reducible apply set_fp k_set
    | with_reducible apply tellDevs_fp k_tellDevs
    | with_reducible refine ite_fp ?_ ?_)

theorem copyWithdrawn_fp {fw : Nat} {fz : State} (hw : 65 &&& fw = 65) (s : State) (stop : Bool) (id : Nat)
    (hz : Fp fw fz s) : Fp fw fz (copyWithdrawn s stop id) := by
  have b6 := bitOf hw 6 rfl
  have k_freeScripts := maskOf (V := 65) hw rfl
  unfold copyWithdrawn
  repeat' (first
    | with_reducible rfl
    | with_reducible assumption
    | with_reducible refine onPrm_fp b6 _ _ ?_
    | with_reducible apply freeScripts_fp k_freeScripts)

theorem prmFlags_fp {fw : Nat} {fz : State} (hw : 1 &&& fw = 1) (s : State) (fl : Nat)
    (hz : Fp fw fz s) : Fp fw fz (prmFlags s fl) := by
  have k_set := maskOf (V := 1) hw rfl
  unfold prmFlags
  repeat' (first
    | with_reducible rfl
    | with_reducible assumption
    | with_reducible apply set_fp k_set
    | with_reducible refine foldl_fp _ _ (fun _ _ _ => ?_) ?_
    | with_reducible refine foldlFst_fp _ _ (fun _ _ _ => ?_) ?_
    | with_reducible refine foldlSnd_fp _ _ (fun _ _ _ => ?_) ?_
    | with_reducible refine ite_fp ?_ ?_)

theorem dropList_fp {fw : Nat} {fz : State} (hw : 950275 &&& fw = 950275) (s : State)
    (hz : Fp fw fz s) : Fp fw fz (dropList s) := by
  have k_report := maskOf (V := 950275) hw rfl
  have k_inc := maskOf (V := 1) hw rfl
  unfold dropList
  repeat' (first
    | with_reducible rfl
    | with_reducible assumption
    | with_reducible apply report_fp k_report
    | with_reducible apply inc_fp k_inc
    | with_reducible refine advance_fp _ ?_)

theorem keepCand_fp {fw : Nat} {fz : State} (hw : 64 &&& fw = 64) (s : State) (x y : CandL)
    (hz : Fp fw fz s) : Fp fw fz (keepCand s x y) := by
  have b6 := bitOf hw 6 rfl
  unfold keepCand
  repeat' (first
    | with_reducible rfl
    | with_reducible assumption
    | with_reducible refine onPrm_fp b6 _ _ ?_)

theorem arriveList_fp {fw : Nat} {fz : State} (hw : 950339 &&& fw = 950339) (s : State) (slot cue16 pos rank part : Nat) (last fail poison : Bool) (ents : List (Nat × Nat)) (heads : List (Option (Nat × Nat)))
    (hz : Fp fw fz s) : Fp fw fz (arriveList s slot cue16 pos rank part last fail poison ents heads) := by
  have k_wmUpdate := maskOf (V := 524289) hw rfl
  have k_keepCand := maskOf (V := 64) hw rfl
  have k_dropList := maskOf (V := 950275) hw rfl
  unfold arriveList
  repeat' (first
    | with_reducible rfl
    | with_reducible assumption
    | with_reducible apply wmUpdate_fp k_wmUpdate
    | with_reducible apply keepCand_fp k_keepCand
    | with_reducible apply dropList_fp k_dropList
    | with_reducible refine ite_fp ?_ ?_
    | split
    | with_reducible dsimp only)

theorem sendList_fp {fw : Nat} {fz : State} (hw : 1999939 &&& fw = 1999939) (s : State) (slot cue16 pos : Nat) (fail poison : Bool) (ents : List (Nat × Nat)) (heads : List (Option (Nat × Nat)))
    (hz : Fp fw fz s) : Fp fw fz (sendList s slot cue16 pos fail poison ents heads) := by
  have k_arriveList := maskOf (V := 950339) hw rfl
  have k_sendPkt := maskOf (V := 1049601) hw rfl
  unfold sendList
  repeat' (first
    | with_reducible rfl
    | with_reducible assumption
    | with_reducible apply arriveList_fp k_arriveList
    | with_reducible apply sendPkt_fp k_sendPkt
    | with_reducible refine foldl_fp _ _ (fun _ _ _ => ?_) ?_
    | with_reducible refine foldlFst_fp _ _ (fun _ _ _ => ?_) ?_
    | with_reducible refine foldlSnd_fp _ _ (fun _ _ _ => ?_) ?_
    | with_reducible refine ite_fp ?_ ?_
    | split)

theorem openMerge_fp {fw : Nat} {fz : State} (hw : 950339 &&& fw = 950339) (s : State) (slot : Nat) (q : SampReq)
    (hz : Fp fw fz s) : Fp fw fz (openMerge s slot q) := by
  have b6 := bitOf hw 6 rfl
  have k_wmUpdate := maskOf (V := 524289) hw rfl
  have k_keepCand := maskOf (V := 64) hw rfl
  have k_dropList := maskOf (V := 950275) hw rfl
  unfold openMerge
  repeat' (first
    | with_reducible rfl
    | with_reducible assumption
    | with_reducible refine onPrm_fp b6 _ _ ?_
    | with_reducible apply wmUpdate_fp k_wmUpdate
    | with_reducible apply keepCand_fp k_keepCand
    | with_reducible apply dropList_fp k_dropList
    | with_reducible refine foldl_fp _ _ (fun _ _ _ => ?_) ?_
    | with_reducible refine foldlFst_fp _ _ (fun _ _ _ => ?_) ?_
    | with_reducible refine foldlSnd_fp _ _ (fun _ _ _ => ?_) ?_
    | with_reducible refine ite_fp ?_ ?_)

theorem execLocalPass_fp (slot : Fin 16384) (pos : BitVec 20) (req : SampReq) (logits : List Word) (heads : List (List Word)) (poison fail : Bool) (s : State) (t : State) (h : execLocalPass slot pos req logits heads poison fail s = .next t) :
    Fp 2004043 s t := by
  have hw : 2004043 &&& 2004043 = 2004043 := rfl
  unfold execLocalPass at h
  simp only [Host.Outcome.next.injEq] at h
  subst h
  have hz : Fp 2004043 s s := Fp.refl _ _
  have b6 := bitOf hw 6 rfl
  have k_demandDom := maskOf (V := 4097) hw rfl
  have k_openMerge := maskOf (V := 950339) hw rfl
  have k_await := maskOf (V := 8) hw rfl
  have k_sendList := maskOf (V := 1999939) hw rfl
  have k_prmFlags := maskOf (V := 1) hw rfl
  repeat' (first
    | with_reducible rfl
    | with_reducible assumption
    | with_reducible refine onPrm_fp b6 _ _ ?_
    | with_reducible apply demandDom_fp k_demandDom
    | with_reducible apply openMerge_fp k_openMerge
    | with_reducible apply await_fp k_await
    | with_reducible apply sendList_fp k_sendList
    | with_reducible apply prmFlags_fp k_prmFlags
    | with_reducible refine ite_fp ?_ ?_)

theorem execCandList_fp (_src : Fin 1024) (slot : Fin 16384) (cue16 : BitVec 16) (pos : BitVec 20) (rank part : Nat) (last fail poison : Bool) (ents : List (Nat × Word)) (heads : List (Option (Nat × Word))) (s : State) (t : State) (h : execCandList _src slot cue16 pos rank part last fail poison ents heads s = .next t) :
    Fp 950339 s t := by
  have hw : 950339 &&& 950339 = 950339 := rfl
  unfold execCandList at h
  simp only [Host.Outcome.next.injEq] at h
  subst h
  have hz : Fp 950339 s s := Fp.refl _ _
  have k_arriveList := maskOf (V := 950339) hw rfl
  repeat' (first
    | with_reducible rfl
    | with_reducible assumption
    | with_reducible apply arriveList_fp k_arriveList)

theorem takeStep_fp {fw : Nat} {fz : State} (hw : 2016879 &&& fw = 2016879) (s : State) (r : StepRec)
    (hz : Fp fw fz s) : Fp fw fz (takeStep s r) := by
  have b6 := bitOf hw 6 rfl
  have k_report := maskOf (V := 950275) hw rfl
  have k_leadStep := maskOf (V := 1623055) hw rfl
  have k_stepArrived := maskOf (V := 2000431) hw rfl
  unfold takeStep
  repeat' (first
    | with_reducible rfl
    | with_reducible assumption
    | with_reducible refine onPrm_fp b6 _ _ ?_
    | with_reducible apply report_fp k_report
    | with_reducible refine advance_fp _ ?_
    | with_reducible apply leadStep_fp k_leadStep
    | with_reducible apply stepArrived_fp k_stepArrived
    | with_reducible refine ite_fp ?_ ?_
    | split)

theorem execStep_fp (src : Fin 1024) (r : StepRec) (s : State) (t : State) (h : execStep src r s = .next t) :
    Fp 2016879 s t := by
  have hw : 2016879 &&& 2016879 = 2016879 := rfl
  unfold execStep at h
  simp only [Host.Outcome.next.injEq] at h
  subst h
  have hz : Fp 2016879 s s := Fp.refl _ _
  have k_takeStep := maskOf (V := 2016879) hw rfl
  repeat' (first
    | with_reducible rfl
    | with_reducible assumption
    | with_reducible apply takeStep_fp k_takeStep
    | with_reducible refine ite_fp ?_ ?_)

theorem sendLine_fp {fw : Nat} {fz : State} (hw : 1606659 &&& fw = 1606659) (s : State) (q : SampReq) (l : Line)
    (hz : Fp fw fz s) : Fp fw fz (sendLine s q l) := by
  have k_emitRec := maskOf (V := 1082368) hw rfl
  have k_arriveLine := maskOf (V := 524291) hw rfl
  have k_send := maskOf (V := 1049601) hw rfl
  unfold sendLine
  repeat' (first
    | with_reducible rfl
    | with_reducible assumption
    | with_reducible apply emitRec_fp k_emitRec
    | with_reducible apply arriveLine_fp k_arriveLine
    | with_reducible apply send_fp k_send
    | with_reducible refine ite_fp ?_ ?_)

theorem sendStep_fp {fw : Nat} {fz : State} (hw : 2016879 &&& fw = 2016879) (s : State) (r : StepRec)
    (hz : Fp fw fz s) : Fp fw fz (sendStep s r) := by
  have k_sendAll := maskOf (V := 1049601) hw rfl
  have k_takeStep := maskOf (V := 2016879) hw rfl
  unfold sendStep
  repeat' (first
    | with_reducible rfl
    | with_reducible assumption
    | with_reducible apply sendAll_fp k_sendAll
    | with_reducible apply takeStep_fp k_takeStep)

theorem diag_fp {fw : Nat} {fz : State} (hw : 1 &&& fw = 1) (s : State) (slot cue pos : Nat) (k : Pick)
    (hz : Fp fw fz s) : Fp fw fz (diag s slot cue pos k) := by
  have k_set := maskOf (V := 1) hw rfl
  unfold diag
  repeat' (first
    | with_reducible rfl
    | with_reducible assumption
    | with_reducible apply set_fp k_set
    | with_reducible refine ite_fp ?_ ?_)

theorem endMerge_fp {fw : Nat} {fz : State} (hw : 2016879 &&& fw = 2016879) (s : State) (m : Merge) (r : StepRec)
    (hz : Fp fw fz s) : Fp fw fz (endMerge s m r) := by
  have b6 := bitOf hw 6 rfl
  have k_inc := maskOf (V := 1) hw rfl
  have k_sendStep := maskOf (V := 2016879) hw rfl
  have k_wmUpdate := maskOf (V := 524289) hw rfl
  unfold endMerge
  repeat' (first
    | with_reducible rfl
    | with_reducible assumption
    | with_reducible refine onPrm_fp b6 _ _ ?_
    | with_reducible apply inc_fp k_inc
    | with_reducible apply sendStep_fp k_sendStep
    | with_reducible apply wmUpdate_fp k_wmUpdate)

theorem uOf_fp1 {fw : Nat} {fz : State} (hw : 0 &&& fw = 0) (s : State) (slot pos : Nat)
    (hz : Fp fw fz s) : Fp fw fz (uOf s slot pos).2.2 := by
  unfold uOf
  repeat' (first
    | with_reducible rfl
    | with_reducible assumption
    | with_reducible refine advance_fp _ ?_
    | split)

theorem uOf_fp {fw : Nat} {fz t : State} (hw : 0 &&& fw = 0) {s : State} {slot pos : Nat} {x y}
    (he : uOf s slot pos = (x, y, t)) (hz : Fp fw fz s) : Fp fw fz t := by
  have k := uOf_fp1 hw s slot pos hz
  rwa [he] at k

theorem mergeSelect_fp {fw : Nat} {fz : State} (hw : 2016879 &&& fw = 2016879) (s : State) (m : Merge) (b : Bind) (ls : List CandL) (k : Pick)
    (hz : Fp fw fz s) : Fp fw fz (mergeSelect s m b ls k) := by
  have b6 := bitOf hw 6 rfl
  have k_sendLine := maskOf (V := 1606659) hw rfl
  have k_inc := maskOf (V := 1) hw rfl
  have k_endMerge := maskOf (V := 2016879) hw rfl
  unfold mergeSelect
  repeat' (first
    | with_reducible rfl
    | with_reducible assumption
    | with_reducible refine onPrm_fp b6 _ _ ?_
    | with_reducible apply sendLine_fp k_sendLine
    | with_reducible apply inc_fp k_inc
    | with_reducible apply endMerge_fp k_endMerge
    | with_reducible refine ite_fp ?_ ?_
    | split)

theorem mergeAbsent_fp {fw : Nat} {fz : State} (hw : 2016879 &&& fw = 2016879) (s : State) (m : Merge)
    (hz : Fp fw fz s) : Fp fw fz (mergeAbsent s m) := by
  have k_endMerge := maskOf (V := 2016879) hw rfl
  have k_diag := maskOf (V := 1) hw rfl
  unfold mergeAbsent
  repeat' (first
    | with_reducible rfl
    | with_reducible assumption
    | with_reducible apply endMerge_fp k_endMerge
    | with_reducible apply diag_fp k_diag)

theorem mergeMarked_fp {fw : Nat} {fz : State} (hw : 2016879 &&& fw = 2016879) (s : State) (m : Merge) (poison fail : Bool)
    (hz : Fp fw fz s) : Fp fw fz (mergeMarked s m poison fail) := by
  have k_inc := maskOf (V := 1) hw rfl
  have k_endMerge := maskOf (V := 2016879) hw rfl
  have k_diag := maskOf (V := 1) hw rfl
  unfold mergeMarked
  repeat' (first
    | with_reducible rfl
    | with_reducible assumption
    | with_reducible apply inc_fp k_inc
    | with_reducible apply endMerge_fp k_endMerge
    | with_reducible apply diag_fp k_diag
    | with_reducible refine ite_fp ?_ ?_)

theorem mergePicked_fp {fw : Nat} {fz : State} (hw : 2016879 &&& fw = 2016879) (s : State) (m : Merge) (b : Bind) (ls : List CandL) (u : Nat)
    (hz : Fp fw fz s) : Fp fw fz (mergePicked s m b ls u) := by
  have k_inc := maskOf (V := 1) hw rfl
  have k_mergeSelect := maskOf (V := 2016879) hw rfl
  have k_diag := maskOf (V := 1) hw rfl
  have k_prmFlags := maskOf (V := 1) hw rfl
  unfold mergePicked
  repeat' (first
    | with_reducible rfl
    | with_reducible assumption
    | with_reducible apply inc_fp k_inc
    | with_reducible apply mergeSelect_fp k_mergeSelect
    | with_reducible apply diag_fp k_diag
    | with_reducible apply prmFlags_fp k_prmFlags
    | with_reducible refine ite_fp ?_ ?_)

theorem runMerge_fp {fw : Nat} {fz : State} (hw : 2016879 &&& fw = 2016879) (s : State) (m : Merge) (b : Bind) (ls : List CandL) (u : Nat) (poison fail : Bool)
    (hz : Fp fw fz s) : Fp fw fz (runMerge s m b ls u poison fail) := by
  have k_inc := maskOf (V := 1) hw rfl
  have k_mergeAbsent := maskOf (V := 2016879) hw rfl
  have k_mergeMarked := maskOf (V := 2016879) hw rfl
  have k_mergePicked := maskOf (V := 2016879) hw rfl
  unfold runMerge
  repeat' (first
    | with_reducible rfl
    | with_reducible assumption
    | with_reducible apply inc_fp k_inc
    | with_reducible apply mergeAbsent_fp k_mergeAbsent
    | with_reducible apply mergeMarked_fp k_mergeMarked
    | with_reducible apply mergePicked_fp k_mergePicked
    | with_reducible refine ite_fp ?_ ?_)

theorem execMergePass_fp (slot : Fin 16384) (pos : BitVec 20) (s : State) (t : State) (h : execMergePass slot pos s = .next t) :
    Fp 2020975 s t := by
  have hw : 2020975 &&& 2020975 = 2020975 := rfl
  unfold execMergePass at h
  simp only [Host.Outcome.next.injEq] at h
  subst h
  have hz : Fp 2020975 s s := Fp.refl _ _
  have k_demandDom := maskOf (V := 4097) hw rfl
  have k_uOf := maskOf (V := 0) hw rfl
  have k_runMerge := maskOf (V := 2016879) hw rfl
  repeat' (first
    | with_reducible rfl
    | with_reducible assumption
    | with_reducible apply demandDom_fp k_demandDom
    | with_reducible apply uOf_fp k_uOf (by assumption)
    | with_reducible apply uOf_fp1 k_uOf
    | with_reducible apply runMerge_fp k_runMerge
    | with_reducible refine ite_fp ?_ ?_
    | split)

end Sys2Proof.Machine
end

