-- ==== Sys2Proof/Laws/FootWardrobe.lean ====
section
/-!
SUPPORT. Footprints of the operations of Machine/Wardrobe.lean: what each may touch (Fp).
-/
namespace Sys2Proof.Machine

theorem noteWdr_fp {fw : Nat} {fz : State} (hw : 1 &&& fw = 1) (s : State)
    (hz : Fp fw fz s) : Fp fw fz (noteWdr s) := by
  have k_set := maskOf (V := 1) hw rfl
  unfold noteWdr
  repeat' (first
    | with_reducible rfl
    | with_reducible assumption
    | with_reducible apply set_fp k_set)

theorem putPages_fp {fw : Nat} {fz : State} (hw : 4194816 &&& fw = 4194816) (s : State) (addr : Nat → Nat) (ks : List Nat) (bs : List Byte)
    (hz : Fp fw fz s) : Fp fw fz (putPages s addr ks bs) := by
  have k_writeBytes := maskOf (V := 4194816) hw rfl
  unfold putPages
  repeat' (first
    | with_reducible rfl
    | with_reducible assumption
    | with_reducible apply writeBytes_fp k_writeBytes
    | with_reducible refine foldl_fp _ _ (fun _ _ _ => ?_) ?_)

theorem holdVer_fp {fw : Nat} {fz : State} (hw : 4195073 &&& fw = 4195073) (s : State) (v : Ver)
    (hz : Fp fw fz s) : Fp fw fz (holdVer s v) := by
  have b8 := bitOf hw 8 rfl
  have k_noteWdr := maskOf (V := 1) hw rfl
  have k_putPages := maskOf (V := 4194816) hw rfl
  unfold holdVer
  repeat' (first
    | with_reducible rfl
    | with_reducible assumption
    | with_reducible refine onWdr_fp b8 _ _ ?_
    | with_reducible apply noteWdr_fp k_noteWdr
    | with_reducible apply putPages_fp k_putPages)

theorem sendVer_fp {fw : Nat} {fz : State} (hw : 1049601 &&& fw = 1049601) (s : State) (v : Ver)
    (hz : Fp fw fz s) : Fp fw fz (sendVer s v) := by
  have k_sendTransfer := maskOf (V := 1049601) hw rfl
  unfold sendVer
  repeat' (first
    | with_reducible rfl
    | with_reducible assumption
    | with_reducible apply sendTransfer_fp k_sendTransfer
    | with_reducible refine advance_fp _ ?_
    | with_reducible refine foldl_fp _ _ (fun _ _ _ => ?_) ?_)

theorem sendLoad_fp {fw : Nat} {fz : State} (hw : 1049857 &&& fw = 1049857) (s : State) (v : Ver)
    (hz : Fp fw fz s) : Fp fw fz (sendLoad s v) := by
  have b8 := bitOf hw 8 rfl
  have k_sendVer := maskOf (V := 1049601) hw rfl
  unfold sendLoad
  repeat' (first
    | with_reducible rfl
    | with_reducible assumption
    | with_reducible refine onWdr_fp b8 _ _ ?_
    | with_reducible apply sendVer_fp k_sendVer)

theorem installVer_fp {fw : Nat} {fz : State} (hw : 4195073 &&& fw = 4195073) (s : State) (v : Ver)
    (hz : Fp fw fz s) : Fp fw fz (installVer s v) := by
  have b8 := bitOf hw 8 rfl
  have k_set := maskOf (V := 1) hw rfl
  have k_holdVer := maskOf (V := 4195073) hw rfl
  unfold installVer
  repeat' (first
    | with_reducible rfl
    | with_reducible assumption
    | with_reducible refine onWdr_fp b8 _ _ ?_
    | with_reducible apply set_fp k_set
    | with_reducible apply holdVer_fp k_holdVer)

theorem installLoad_fp {fw : Nat} {fz : State} (hw : 5244673 &&& fw = 5244673) (s : State) (v : Ver)
    (hz : Fp fw fz s) : Fp fw fz (installLoad s v) := by
  have k_installVer := maskOf (V := 4195073) hw rfl
  have k_sendLoad := maskOf (V := 1049857) hw rfl
  unfold installLoad
  repeat' (first
    | with_reducible rfl
    | with_reducible assumption
    | with_reducible apply installVer_fp k_installVer
    | with_reducible apply sendLoad_fp k_sendLoad
    | with_reducible refine ite_fp ?_ ?_)

theorem leadResident_fp {fw : Nat} {fz : State} (hw : 256 &&& fw = 256) (s : State) (src tenant id ver : Nat)
    (hz : Fp fw fz s) : Fp fw fz (leadResident s src tenant id ver) := by
  have b8 := bitOf hw 8 rfl
  unfold leadResident
  repeat' (first
    | with_reducible rfl
    | with_reducible assumption
    | with_reducible refine onWdr_fp b8 _ _ ?_)

theorem leadEvicted_fp {fw : Nat} {fz : State} (hw : 256 &&& fw = 256) (s : State) (src : Nat) (value ver : Nat)
    (hz : Fp fw fz s) : Fp fw fz (leadEvicted s src value ver) := by
  have b8 := bitOf hw 8 rfl
  unfold leadEvicted
  repeat' (first
    | with_reducible rfl
    | with_reducible assumption
    | with_reducible refine onWdr_fp b8 _ _ ?_)

theorem undress_fp {fw : Nat} {fz : State} (hw : 1049857 &&& fw = 1049857) (s : State) (v : Ver)
    (hz : Fp fw fz s) : Fp fw fz (undress s v) := by
  have b8 := bitOf hw 8 rfl
  have k_tellDevs := maskOf (V := 1049601) hw rfl
  unfold undress
  repeat' (first
    | with_reducible rfl
    | with_reducible assumption
    | with_reducible refine onWdr_fp b8 _ _ ?_
    | with_reducible apply tellDevs_fp k_tellDevs
    | split
    | with_reducible dsimp only)

theorem makePages_fp {fw : Nat} {fz : State} (hw : 1049857 &&& fw = 1049857) (need : Nat) (n : Nat) (s : State)
    (hz : Fp fw fz s) : Fp fw fz (makePages need n s) := by
  have k_undress := maskOf (V := 1049857) hw rfl
  induction n generalizing s with
  | zero =>
    unfold makePages
    repeat' (first
      | with_reducible assumption)
  | succ n ih =>
    unfold makePages
    repeat' (first
      | with_reducible rfl
      | with_reducible assumption
      | with_reducible apply ih
      | with_reducible apply undress_fp k_undress
      | with_reducible refine ite_fp ?_ ?_
      | split)

theorem copyRun_fp {fw : Nat} {fz : State} (hw : 4194816 &&& fw = 4194816) (s : State) (src dst n : Nat)
    (hz : Fp fw fz s) : Fp fw fz (copyRun s src dst n) := by
  have k_setPoison := maskOf (V := 512) hw rfl
  have k_writeBytes := maskOf (V := 4194816) hw rfl
  unfold copyRun
  repeat' (first
    | with_reducible rfl
    | with_reducible assumption
    | with_reducible apply setPoison_fp k_setPoison
    | with_reducible apply writeBytes_fp k_writeBytes
    | with_reducible refine foldl_fp _ _ (fun _ _ _ => ?_) ?_
    | with_reducible refine foldlFst_fp _ _ (fun _ _ _ => ?_) ?_
    | with_reducible refine foldlSnd_fp _ _ (fun _ _ _ => ?_) ?_
    | with_reducible refine ite_fp ?_ ?_)

theorem dress_fp {fw : Nat} {fz : State} (hw : 4195072 &&& fw = 4195072) (s : State) (v : Ver)
    (hz : Fp fw fz s) : Fp fw fz (dress s v) := by
  have b8 := bitOf hw 8 rfl
  have k_copyRun := maskOf (V := 4194816) hw rfl
  unfold dress
  repeat' (first
    | with_reducible rfl
    | with_reducible assumption
    | with_reducible refine onWdr_fp b8 _ _ ?_
    | with_reducible apply copyRun_fp k_copyRun
    | with_reducible refine foldl_fp _ _ (fun _ _ _ => ?_) ?_)

theorem dropVers_fp {fw : Nat} {fz : State} (hw : 1049857 &&& fw = 1049857) (s : State) (p : Ver → Bool)
    (hz : Fp fw fz s) : Fp fw fz (dropVers s p) := by
  have b8 := bitOf hw 8 rfl
  have k_tellDevs := maskOf (V := 1049601) hw rfl
  unfold dropVers
  repeat' (first
    | with_reducible rfl
    | with_reducible assumption
    | with_reducible refine onWdr_fp b8 _ _ ?_
    | with_reducible apply tellDevs_fp k_tellDevs
    | with_reducible refine foldl_fp _ _ (fun _ _ _ => ?_) ?_)

theorem wardrobeBoundary_fp {fw : Nat} {fz : State} (hw : 6211407 &&& fw = 6211407) (s : State)
    (hz : Fp fw fz s) : Fp fw fz (wardrobeBoundary s) := by
  have b8 := bitOf hw 8 rfl
  have k_dropVers := maskOf (V := 1049857) hw rfl
  have k_endCall := maskOf (V := 6211151) hw rfl
  have k_noteWdr := maskOf (V := 1) hw rfl
  unfold wardrobeBoundary
  repeat' (first
    | with_reducible rfl
    | with_reducible assumption
    | with_reducible refine onWdr_fp b8 _ _ ?_
    | with_reducible apply dropVers_fp k_dropVers
    | with_reducible apply endCall_fp k_endCall
    | with_reducible apply noteWdr_fp k_noteWdr
    | with_reducible refine foldl_fp _ _ (fun _ _ _ => ?_) ?_
    | with_reducible refine foldlFst_fp _ _ (fun _ _ _ => ?_) ?_
    | with_reducible refine foldlSnd_fp _ _ (fun _ _ _ => ?_) ?_
    | with_reducible refine ite_fp ?_ ?_)

theorem execCostumeLoad_fp (v : Word) (img : List Byte) (s : State) (t : State) (h : execCostumeLoad v img s = .next t) :
    Fp 1783059 s t := by
  have hw : 1783059 &&& 1783059 = 1783059 := rfl
  unfold execCostumeLoad at h
  simp only [Host.Outcome.next.injEq] at h
  subst h
  have hz : Fp 1783059 s s := Fp.refl _ _
  have b8 := bitOf hw 8 rfl
  have k_commandWord := maskOf (V := 729107) hw rfl
  have k_set := maskOf (V := 1) hw rfl
  have k_demandDom := maskOf (V := 4097) hw rfl
  have k_sendLoad := maskOf (V := 1049857) hw rfl
  repeat' (first
    | with_reducible rfl
    | with_reducible assumption
    | with_reducible refine onWdr_fp b8 _ _ ?_
    | with_reducible apply commandWord_fp k_commandWord
    | with_reducible apply set_fp k_set
    | with_reducible apply demandDom_fp k_demandDom
    | with_reducible apply sendLoad_fp k_sendLoad
    | with_reducible refine ite_fp ?_ ?_
    | split)

theorem execCostumeLoadDone_fp (s : State) (t : State) (h : execCostumeLoadDone s = .next t) :
    Fp 5248771 s t := by
  have hw : 5248771 &&& 5248771 = 5248771 := rfl
  unfold execCostumeLoadDone at h
  simp only [Host.Outcome.next.injEq] at h
  subst h
  have hz : Fp 5248771 s s := Fp.refl _ _
  have b8 := bitOf hw 8 rfl
  have k_demandDom := maskOf (V := 4097) hw rfl
  have k_set := maskOf (V := 1) hw rfl
  have k_installLoad := maskOf (V := 5244673) hw rfl
  have k_deviceNotice := maskOf (V := 3) hw rfl
  repeat' (first
    | with_reducible rfl
    | with_reducible assumption
    | with_reducible refine onWdr_fp b8 _ _ ?_
    | with_reducible apply demandDom_fp k_demandDom
    | with_reducible apply set_fp k_set
    | with_reducible apply installLoad_fp k_installLoad
    | with_reducible apply deviceNotice_fp k_deviceNotice
    | with_reducible refine ite_fp ?_ ?_
    | split)

theorem execPendingLoadResume_fp (s : State) (t : State) (h : execPendingLoadResume s = .next t) :
    Fp 5248769 s t := by
  have hw : 5248769 &&& 5248769 = 5248769 := rfl
  unfold execPendingLoadResume at h
  simp only [Host.Outcome.next.injEq] at h
  subst h
  have hz : Fp 5248769 s s := Fp.refl _ _
  have k_installLoad := maskOf (V := 5244673) hw rfl
  have k_demandDom := maskOf (V := 4097) hw rfl
  repeat' (first
    | with_reducible rfl
    | with_reducible assumption
    | with_reducible apply installLoad_fp k_installLoad
    | with_reducible apply demandDom_fp k_demandDom
    | with_reducible refine ite_fp ?_ ?_
    | split)

theorem execRevoke_fp (v : Word) (s : State) (t : State) (h : execRevoke v s = .next t) :
    Fp 729363 s t := by
  have hw : 729363 &&& 729363 = 729363 := rfl
  unfold execRevoke at h
  simp only [Host.Outcome.next.injEq] at h
  subst h
  have hz : Fp 729363 s s := Fp.refl _ _
  have b8 := bitOf hw 8 rfl
  have k_commandWord := maskOf (V := 729107) hw rfl
  have k_set := maskOf (V := 1) hw rfl
  repeat' (first
    | with_reducible rfl
    | with_reducible assumption
    | with_reducible refine onWdr_fp b8 _ _ ?_
    | with_reducible apply commandWord_fp k_commandWord
    | with_reducible apply set_fp k_set
    | with_reducible refine ite_fp ?_ ?_)

theorem execResidencyCopyDone_fp (tenant id ver : Nat) (s : State) (t : State) (h : execResidencyCopyDone tenant id ver s = .next t) :
    Fp 5248769 s t := by
  have hw : 5248769 &&& 5248769 = 5248769 := rfl
  unfold execResidencyCopyDone at h
  simp only [Host.Outcome.next.injEq] at h
  subst h
  have hz : Fp 5248769 s s := Fp.refl _ _
  have k_demandDom := maskOf (V := 4097) hw rfl
  have k_makePages := maskOf (V := 1049857) hw rfl
  have k_toLead := maskOf (V := 1049601) hw rfl
  have k_noteWdr := maskOf (V := 1) hw rfl
  have k_dress := maskOf (V := 4195072) hw rfl
  have k_leadResident := maskOf (V := 256) hw rfl
  repeat' (first
    | with_reducible rfl
    | with_reducible assumption
    | with_reducible apply demandDom_fp k_demandDom
    | with_reducible apply makePages_fp k_makePages
    | with_reducible refine toLead_fp k_toLead _ _ _ _ _ (fun _ _ => ?_) ?_
    | with_reducible apply noteWdr_fp k_noteWdr
    | with_reducible apply dress_fp k_dress
    | with_reducible apply leadResident_fp k_leadResident
    | with_reducible refine ite_fp ?_ ?_
    | split)

theorem gotCostume_fp {fw : Nat} {fz : State} (hw : 5244673 &&& fw = 5244673) (s : State) (src : Nat) (bs : List Byte)
    (hz : Fp fw fz s) : Fp fw fz (gotCostume s src bs) := by
  have k_holdVer := maskOf (V := 4195073) hw rfl
  have k_tellDevs := maskOf (V := 1049601) hw rfl
  unfold gotCostume
  repeat' (first
    | with_reducible rfl
    | with_reducible assumption
    | with_reducible apply holdVer_fp k_holdVer
    | with_reducible apply tellDevs_fp k_tellDevs
    | with_reducible refine ite_fp ?_ ?_
    | split
    | with_reducible dsimp only)

theorem verTold_fp {fw : Nat} {fz : State} (hw : 257 &&& fw = 257) (s : State) (outcome value detail : Nat)
    (hz : Fp fw fz s) : Fp fw fz (verTold s outcome value detail) := by
  have b8 := bitOf hw 8 rfl
  have k_noteWdr := maskOf (V := 1) hw rfl
  unfold verTold
  repeat' (first
    | with_reducible rfl
    | with_reducible assumption
    | with_reducible refine onWdr_fp b8 _ _ ?_
    | with_reducible apply noteWdr_fp k_noteWdr
    | with_reducible refine ite_fp ?_ ?_)

theorem copyHeld_fp {fw : Nat} {fz : State} (hw : 320 &&& fw = 320) (s : State) (src value : Nat)
    (hz : Fp fw fz s) : Fp fw fz (copyHeld s src value) := by
  have b6 := bitOf hw 6 rfl
  have b8 := bitOf hw 8 rfl
  unfold copyHeld
  repeat' (first
    | with_reducible rfl
    | with_reducible assumption
    | with_reducible refine onPrm_fp b6 _ _ ?_
    | with_reducible refine onWdr_fp b8 _ _ ?_
    | with_reducible refine ite_fp ?_ ?_)

theorem execResident_fp (src : Fin 1024) (company : Nat) (tenant id ver : Nat) (s : State) (t : State) (h : execResident src company tenant id ver s = .next t) :
    Fp 256 s t := by
  have hw : 256 &&& 256 = 256 := rfl
  unfold execResident at h
  simp only [Host.Outcome.next.injEq] at h
  subst h
  have hz : Fp 256 s s := Fp.refl _ _
  have k_leadResident := maskOf (V := 256) hw rfl
  repeat' (first
    | with_reducible rfl
    | with_reducible assumption
    | with_reducible apply leadResident_fp k_leadResident
    | with_reducible refine ite_fp ?_ ?_)

end Sys2Proof.Machine
end

