-- ==== Sys2Proof/Laws/FootUnderstudy.lean ====
section
/-!
SUPPORT. Footprints of the operations of Machine/Understudy.lean: what each may touch (Fp).
-/
namespace Sys2Proof.Machine

theorem keepManifest_fp {fw : Nat} {fz : State} (hw : 16384 &&& fw = 16384) (s : State) (m : Manifest)
    (hz : Fp fw fz s) : Fp fw fz (keepManifest s m) := by
  have b14 := bitOf hw 14 rfl
  unfold keepManifest
  repeat' (first
    | with_reducible rfl
    | with_reducible assumption
    | with_reducible refine onUnd_fp b14 _ _ ?_)

theorem sealShard_fp1 {fw : Nat} {fz : State} (hw : 196609 &&& fw = 196609) (s : State) (bs : List Byte)
    (hz : Fp fw fz s) : Fp fw fz (sealShard s bs).2 := by
  have k_takeIv := maskOf (V := 196609) hw rfl
  unfold sealShard
  repeat' (first
    | with_reducible rfl
    | with_reducible assumption
    | with_reducible apply takeIv_fp k_takeIv (by assumption)
    | with_reducible apply takeIv_fp1 k_takeIv)

theorem sealShard_fp {fw : Nat} {fz t : State} (hw : 196609 &&& fw = 196609) {s : State} {bs : List Byte} {x}
    (he : sealShard s bs = (x, t)) (hz : Fp fw fz s) : Fp fw fz t := by
  have k := sealShard_fp1 hw s bs hz
  rwa [he] at k

theorem drainBytes_fp1 {fw : Nat} {fz : State} (hw : 196609 &&& fw = 196609) (s : State) (m : Manifest)
    (hz : Fp fw fz s) : Fp fw fz (drainBytes s m).2 := by
  have k_sealShard := maskOf (V := 196609) hw rfl
  unfold drainBytes
  repeat' (first
    | with_reducible rfl
    | with_reducible assumption
    | with_reducible apply sealShard_fp k_sealShard (by assumption)
    | with_reducible apply sealShard_fp1 k_sealShard
    | with_reducible refine foldl_fp _ _ (fun _ _ _ => ?_) ?_
    | with_reducible refine foldlFst_fp _ _ (fun _ _ _ => ?_) ?_
    | with_reducible refine foldlSnd_fp _ _ (fun _ _ _ => ?_) ?_)

theorem drainBytes_fp {fw : Nat} {fz t : State} (hw : 196609 &&& fw = 196609) {s : State} {m : Manifest} {x}
    (he : drainBytes s m = (x, t)) (hz : Fp fw fz s) : Fp fw fz t := by
  have k := drainBytes_fp1 hw s m hz
  rwa [he] at k

theorem drainAfter_fp {fw : Nat} {fz : State} (hw : 212993 &&& fw = 212993) (s : State) (m : Manifest)
    (hz : Fp fw fz s) : Fp fw fz (drainAfter s m) := by
  have b14 := bitOf hw 14 rfl
  have k_set := maskOf (V := 1) hw rfl
  have k_drainBytes := maskOf (V := 196609) hw rfl
  unfold drainAfter
  repeat' (first
    | with_reducible rfl
    | with_reducible assumption
    | with_reducible refine onUnd_fp b14 _ _ ?_
    | with_reducible apply set_fp k_set
    | with_reducible apply drainBytes_fp k_drainBytes (by assumption)
    | with_reducible apply drainBytes_fp1 k_drainBytes
    | with_reducible refine ite_fp ?_ ?_)

theorem dropView_fp {fw : Nat} {fz : State} (hw : 16384 &&& fw = 16384) (s : State)
    (hz : Fp fw fz s) : Fp fw fz (dropView s) := by
  have b14 := bitOf hw 14 rfl
  unfold dropView
  repeat' (first
    | with_reducible rfl
    | with_reducible assumption
    | with_reducible refine onUnd_fp b14 _ _ ?_)

theorem abandonSnap_fp {fw : Nat} {fz : State} (hw : 16385 &&& fw = 16385) (s : State)
    (hz : Fp fw fz s) : Fp fw fz (abandonSnap s) := by
  have b14 := bitOf hw 14 rfl
  have k_set := maskOf (V := 1) hw rfl
  have k_inc := maskOf (V := 1) hw rfl
  have k_dropView := maskOf (V := 16384) hw rfl
  unfold abandonSnap
  repeat' (first
    | with_reducible rfl
    | with_reducible assumption
    | with_reducible refine onUnd_fp b14 _ _ ?_
    | with_reducible apply set_fp k_set
    | with_reducible apply inc_fp k_inc
    | with_reducible apply dropView_fp k_dropView
    | with_reducible refine ite_fp ?_ ?_)

theorem sendSnap_fp {fw : Nat} {fz : State} (hw : 1065985 &&& fw = 1065985) (s : State) (n triggers : Nat)
    (hz : Fp fw fz s) : Fp fw fz (sendSnap s n triggers) := by
  have b14 := bitOf hw 14 rfl
  have k_sendAll := maskOf (V := 1049601) hw rfl
  unfold sendSnap
  repeat' (first
    | with_reducible rfl
    | with_reducible assumption
    | with_reducible refine onUnd_fp b14 _ _ ?_
    | with_reducible apply sendAll_fp k_sendAll)

theorem undCompose_fp {fw : Nat} {fz : State} (hw : 1065985 &&& fw = 1065985) (s : State) (n : Nat)
    (hz : Fp fw fz s) : Fp fw fz (undCompose s n) := by
  have b14 := bitOf hw 14 rfl
  have k_sendSnap := maskOf (V := 1065985) hw rfl
  unfold undCompose
  repeat' (first
    | with_reducible rfl
    | with_reducible assumption
    | with_reducible refine onUnd_fp b14 _ _ ?_
    | with_reducible apply sendSnap_fp k_sendSnap
    | with_reducible refine ite_fp ?_ ?_)

theorem leadCutAck_fp {fw : Nat} {fz : State} (hw : 16384 &&& fw = 16384) (s : State) (src cue : Nat)
    (hz : Fp fw fz s) : Fp fw fz (leadCutAck s src cue) := by
  have b14 := bitOf hw 14 rfl
  unfold leadCutAck
  repeat' (first
    | with_reducible rfl
    | with_reducible assumption
    | with_reducible refine onUnd_fp b14 _ _ ?_
    | with_reducible refine ite_fp ?_ ?_)

theorem snapComplete_fp {fw : Nat} {fz : State} (hw : 1270785 &&& fw = 1270785) (s : State) (m : Manifest)
    (hz : Fp fw fz s) : Fp fw fz (snapComplete s m) := by
  have b13 := bitOf hw 13 rfl
  have b14 := bitOf hw 14 rfl
  have k_set := maskOf (V := 1) hw rfl
  have k_dropView := maskOf (V := 16384) hw rfl
  have k_drainAfter := maskOf (V := 212993) hw rfl
  have k_tellDevs := maskOf (V := 1049601) hw rfl
  have k_sendTransfer := maskOf (V := 1049601) hw rfl
  unfold snapComplete
  repeat' (first
    | with_reducible rfl
    | with_reducible assumption
    | with_reducible refine onSpl_fp b13 _ _ ?_
    | with_reducible refine onUnd_fp b14 _ _ ?_
    | with_reducible apply set_fp k_set
    | with_reducible apply dropView_fp k_dropView
    | with_reducible apply drainAfter_fp k_drainAfter
    | with_reducible apply tellDevs_fp k_tellDevs
    | with_reducible apply sendTransfer_fp k_sendTransfer
    | with_reducible refine advance_fp _ ?_
    | with_reducible refine ite_fp ?_ ?_
    | split)

theorem leadManifestAck_fp {fw : Nat} {fz : State} (hw : 1270785 &&& fw = 1270785) (s : State) (src seq : Nat)
    (hz : Fp fw fz s) : Fp fw fz (leadManifestAck s src seq) := by
  have b14 := bitOf hw 14 rfl
  have k_snapComplete := maskOf (V := 1270785) hw rfl
  unfold leadManifestAck
  repeat' (first
    | with_reducible rfl
    | with_reducible assumption
    | with_reducible refine onUnd_fp b14 _ _ ?_
    | with_reducible apply snapComplete_fp k_snapComplete
    | with_reducible refine ite_fp ?_ ?_
    | split)

theorem sealSnap_fp {fw : Nat} {fz : State} (hw : 1270785 &&& fw = 1270785) (s : State)
    (hz : Fp fw fz s) : Fp fw fz (sealSnap s) := by
  have b17 := bitOf hw 17 rfl
  have k_keepManifest := maskOf (V := 16384) hw rfl
  have k_set := maskOf (V := 1) hw rfl
  have k_sendTransfer := maskOf (V := 1049601) hw rfl
  have k_storeBlock := maskOf (V := 131073) hw rfl
  have k_leadManifestAck := maskOf (V := 1270785) hw rfl
  unfold sealSnap
  repeat' (first
    | with_reducible rfl
    | with_reducible assumption
    | with_reducible refine onLdg_fp b17 _ _ ?_
    | with_reducible apply keepManifest_fp k_keepManifest
    | with_reducible apply set_fp k_set
    | with_reducible apply sendTransfer_fp k_sendTransfer
    | with_reducible refine advance_fp _ ?_
    | with_reducible apply storeBlock_fp k_storeBlock
    | with_reducible apply leadManifestAck_fp k_leadManifestAck
    | with_reducible refine foldl_fp _ _ (fun _ _ _ => ?_) ?_)

theorem leadCopied_fp {fw : Nat} {fz : State} (hw : 1270785 &&& fw = 1270785) (s : State) (src cue : Nat) (shards : List Shard)
    (hz : Fp fw fz s) : Fp fw fz (leadCopied s src cue shards) := by
  have b14 := bitOf hw 14 rfl
  have k_sealSnap := maskOf (V := 1270785) hw rfl
  unfold leadCopied
  repeat' (first
    | with_reducible rfl
    | with_reducible assumption
    | with_reducible refine onUnd_fp b14 _ _ ?_
    | with_reducible apply sealSnap_fp k_sealSnap
    | with_reducible refine ite_fp ?_ ?_)

theorem takeCut_fp {fw : Nat} {fz : State} (hw : 1065985 &&& fw = 1065985) (s : State) (n : Nat)
    (hz : Fp fw fz s) : Fp fw fz (takeCut s n) := by
  have b14 := bitOf hw 14 rfl
  have k_set := maskOf (V := 1) hw rfl
  have k_send := maskOf (V := 1049601) hw rfl
  unfold takeCut
  repeat' (first
    | with_reducible rfl
    | with_reducible assumption
    | with_reducible refine onUnd_fp b14 _ _ ?_
    | with_reducible apply set_fp k_set
    | with_reducible apply send_fp k_send
    | with_reducible refine ite_fp ?_ ?_
    | split)

theorem undBoundary_fp {fw : Nat} {fz : State} (hw : 16385 &&& fw = 16385) (s : State) (n : Nat)
    (hz : Fp fw fz s) : Fp fw fz (undBoundary s n) := by
  have k_abandonSnap := maskOf (V := 16385) hw rfl
  unfold undBoundary
  repeat' (first
    | with_reducible rfl
    | with_reducible assumption
    | with_reducible apply abandonSnap_fp k_abandonSnap
    | with_reducible refine ite_fp ?_ ?_)

theorem cutTold_fp {fw : Nat} {fz : State} (hw : 16385 &&& fw = 16385) (s : State) (company seq : Nat)
    (hz : Fp fw fz s) : Fp fw fz (cutTold s company seq) := by
  have b14 := bitOf hw 14 rfl
  have k_set := maskOf (V := 1) hw rfl
  unfold cutTold
  repeat' (first
    | with_reducible rfl
    | with_reducible assumption
    | with_reducible refine onUnd_fp b14 _ _ ?_
    | with_reducible apply set_fp k_set
    | with_reducible refine ite_fp ?_ ?_)

theorem execSnap_fp (msg : CueTok) (listCue : Nat) (s : State) (t : State) (h : execSnap msg listCue s = .next t) :
    Fp 966659 s t := by
  have hw : 966659 &&& 966659 = 966659 := rfl
  unfold execSnap at h
  simp only [Host.Outcome.next.injEq] at h
  subst h
  have hz : Fp 966659 s s := Fp.refl _ _
  have b14 := bitOf hw 14 rfl
  have k_report := maskOf (V := 950275) hw rfl
  repeat' (first
    | with_reducible rfl
    | with_reducible assumption
    | with_reducible refine onUnd_fp b14 _ _ ?_
    | with_reducible apply report_fp k_report
    | with_reducible refine advance_fp _ ?_
    | with_reducible refine ite_fp ?_ ?_)

theorem execCutAck_fp (src : Fin 1024) (company cue : Nat) (s : State) (t : State) (h : execCutAck src company cue s = .next t) :
    Fp 16384 s t := by
  have hw : 16384 &&& 16384 = 16384 := rfl
  unfold execCutAck at h
  simp only [Host.Outcome.next.injEq] at h
  subst h
  have hz : Fp 16384 s s := Fp.refl _ _
  have k_leadCutAck := maskOf (V := 16384) hw rfl
  repeat' (first
    | with_reducible rfl
    | with_reducible assumption
    | with_reducible apply leadCutAck_fp k_leadCutAck
    | with_reducible refine ite_fp ?_ ?_)

theorem execCopied_fp (src : Fin 1024) (company cue : Nat) (shards : List Shard) (s : State) (t : State) (h : execCopied src company cue shards s = .next t) :
    Fp 1270785 s t := by
  have hw : 1270785 &&& 1270785 = 1270785 := rfl
  unfold execCopied at h
  simp only [Host.Outcome.next.injEq] at h
  subst h
  have hz : Fp 1270785 s s := Fp.refl _ _
  have k_leadCopied := maskOf (V := 1270785) hw rfl
  repeat' (first
    | with_reducible rfl
    | with_reducible assumption
    | with_reducible apply leadCopied_fp k_leadCopied
    | with_reducible refine ite_fp ?_ ?_)

theorem execNoSpace_fp (src : Fin 1024) (company cue : Nat) (s : State) (t : State) (h : execNoSpace src company cue s = .next t) :
    Fp 16385 s t := by
  have hw : 16385 &&& 16385 = 16385 := rfl
  unfold execNoSpace at h
  simp only [Host.Outcome.next.injEq] at h
  subst h
  have hz : Fp 16385 s s := Fp.refl _ _
  have k_abandonSnap := maskOf (V := 16385) hw rfl
  repeat' (first
    | with_reducible rfl
    | with_reducible assumption
    | with_reducible apply abandonSnap_fp k_abandonSnap
    | with_reducible refine ite_fp ?_ ?_)

theorem execCopyFault_fp (src : Fin 1024) (company cue : Nat) (s : State) (t : State) (h : execCopyFault src company cue s = .next t) :
    Fp 16385 s t := by
  have hw : 16385 &&& 16385 = 16385 := rfl
  unfold execCopyFault at h
  simp only [Host.Outcome.next.injEq] at h
  subst h
  have hz : Fp 16385 s s := Fp.refl _ _
  have k_abandonSnap := maskOf (V := 16385) hw rfl
  repeat' (first
    | with_reducible rfl
    | with_reducible assumption
    | with_reducible apply abandonSnap_fp k_abandonSnap
    | with_reducible refine ite_fp ?_ ?_)

theorem execManifestAck_fp (src : Fin 1024) (company seq : Nat) (s : State) (t : State) (h : execManifestAck src company seq s = .next t) :
    Fp 1270785 s t := by
  have hw : 1270785 &&& 1270785 = 1270785 := rfl
  unfold execManifestAck at h
  simp only [Host.Outcome.next.injEq] at h
  subst h
  have hz : Fp 1270785 s s := Fp.refl _ _
  have k_leadManifestAck := maskOf (V := 1270785) hw rfl
  repeat' (first
    | with_reducible rfl
    | with_reducible assumption
    | with_reducible apply leadManifestAck_fp k_leadManifestAck
    | with_reducible refine ite_fp ?_ ?_)

theorem execSnapshotForce_fp (v : Word) (s : State) (t : State) (h : execSnapshotForce v s = .next t) :
    Fp 745491 s t := by
  have hw : 745491 &&& 745491 = 745491 := rfl
  unfold execSnapshotForce at h
  simp only [Host.Outcome.next.injEq] at h
  subst h
  have hz : Fp 745491 s s := Fp.refl _ _
  have b14 := bitOf hw 14 rfl
  have k_commandWord := maskOf (V := 729107) hw rfl
  repeat' (first
    | with_reducible rfl
    | with_reducible assumption
    | with_reducible refine onUnd_fp b14 _ _ ?_
    | with_reducible apply commandWord_fp k_commandWord
    | with_reducible refine ite_fp ?_ ?_)

theorem execSnapshotCopyDone_fp (poison : Bool) (s : State) (t : State) (h : execSnapshotCopyDone poison s = .next t) :
    Fp 1274881 s t := by
  have hw : 1274881 &&& 1274881 = 1274881 := rfl
  unfold execSnapshotCopyDone at h
  simp only [Host.Outcome.next.injEq] at h
  subst h
  have hz : Fp 1274881 s s := Fp.refl _ _
  have b14 := bitOf hw 14 rfl
  have k_demandDom := maskOf (V := 4097) hw rfl
  have k_abandonSnap := maskOf (V := 16385) hw rfl
  have k_send := maskOf (V := 1049601) hw rfl
  have k_dropView := maskOf (V := 16384) hw rfl
  have k_sendTransfer := maskOf (V := 1049601) hw rfl
  have k_leadCopied := maskOf (V := 1270785) hw rfl
  repeat' (first
    | with_reducible rfl
    | with_reducible assumption
    | with_reducible refine onUnd_fp b14 _ _ ?_
    | with_reducible apply demandDom_fp k_demandDom
    | with_reducible apply abandonSnap_fp k_abandonSnap
    | with_reducible apply send_fp k_send
    | with_reducible apply dropView_fp k_dropView
    | with_reducible apply sendTransfer_fp k_sendTransfer
    | with_reducible refine advance_fp _ ?_
    | with_reducible apply leadCopied_fp k_leadCopied
    | with_reducible refine foldl_fp _ _ (fun _ _ _ => ?_) ?_
    | with_reducible refine foldlFst_fp _ _ (fun _ _ _ => ?_) ?_
    | with_reducible refine foldlSnd_fp _ _ (fun _ _ _ => ?_) ?_
    | with_reducible refine ite_fp ?_ ?_
    | split)

theorem execCopyBeforeWrite_fp (page : Bool) (n : Nat) (waitNs : Nat) (s : State) (t : State) (h : execCopyBeforeWrite page n waitNs s = .next t) :
    Fp 16385 s t := by
  have hw : 16385 &&& 16385 = 16385 := rfl
  unfold execCopyBeforeWrite at h
  simp only [Host.Outcome.next.injEq] at h
  subst h
  have hz : Fp 16385 s s := Fp.refl _ _
  have b14 := bitOf hw 14 rfl
  have k_set := maskOf (V := 1) hw rfl
  have k_inc := maskOf (V := 1) hw rfl
  repeat' (first
    | with_reducible rfl
    | with_reducible assumption
    | with_reducible refine onUnd_fp b14 _ _ ?_
    | with_reducible apply set_fp k_set
    | with_reducible apply inc_fp k_inc
    | with_reducible refine ite_fp ?_ ?_)

theorem execSnapshotTimeout_fp (s : State) (t : State) (h : execSnapshotTimeout s = .next t) :
    Fp 16385 s t := by
  have hw : 16385 &&& 16385 = 16385 := rfl
  unfold execSnapshotTimeout at h
  simp only [Host.Outcome.next.injEq] at h
  subst h
  have hz : Fp 16385 s s := Fp.refl _ _
  have k_abandonSnap := maskOf (V := 16385) hw rfl
  repeat' (first
    | with_reducible rfl
    | with_reducible assumption
    | with_reducible apply abandonSnap_fp k_abandonSnap
    | with_reducible refine ite_fp ?_ ?_)

theorem execDrainDone_fp (poison : Bool) (s : State) (t : State) (h : execDrainDone poison s = .next t) :
    Fp 1070081 s t := by
  have hw : 1070081 &&& 1070081 = 1070081 := rfl
  unfold execDrainDone at h
  simp only [Host.Outcome.next.injEq] at h
  subst h
  have hz : Fp 1070081 s s := Fp.refl _ _
  have b14 := bitOf hw 14 rfl
  have b20 := bitOf hw 20 rfl
  have k_demandDom := maskOf (V := 4097) hw rfl
  have k_set := maskOf (V := 1) hw rfl
  have k_abandonSnap := maskOf (V := 16385) hw rfl
  have k_send := maskOf (V := 1049601) hw rfl
  repeat' (first
    | with_reducible rfl
    | with_reducible assumption
    | with_reducible refine onUnd_fp b14 _ _ ?_
    | with_reducible refine onOut_fp b20 _ _ ?_
    | with_reducible apply demandDom_fp k_demandDom
    | with_reducible apply set_fp k_set
    | with_reducible apply abandonSnap_fp k_abandonSnap
    | with_reducible apply send_fp k_send
    | with_reducible refine ite_fp ?_ ?_
    | split)

theorem execWcopyRefreshDone_fp (s : State) (t : State) (h : execWcopyRefreshDone s = .next t) :
    Fp 4097 s t := by
  have hw : 4097 &&& 4097 = 4097 := rfl
  unfold execWcopyRefreshDone at h
  simp only [Host.Outcome.next.injEq] at h
  subst h
  have hz : Fp 4097 s s := Fp.refl _ _
  have k_demandDom := maskOf (V := 4097) hw rfl
  have k_set := maskOf (V := 1) hw rfl
  repeat' (first
    | with_reducible rfl
    | with_reducible assumption
    | with_reducible apply demandDom_fp k_demandDom
    | with_reducible apply set_fp k_set
    | with_reducible refine ite_fp ?_ ?_)

theorem repointHere_fp1 {fw : Nat} {fz : State} (hw : 1573895 &&& fw = 1573895) (s : State) (fn callId company lead pos tag : Nat)
    (hz : Fp fw fz s) : Fp fw fz (repointHere s fn callId company lead pos tag).1 := by
  have k_onEnt := maskOf (V := 2) hw rfl
  have k_forwardReady := maskOf (V := 1573895) hw rfl
  have k_wmUpdate := maskOf (V := 524289) hw rfl
  unfold repointHere
  repeat' (first
    | with_reducible rfl
    | with_reducible assumption
    | with_reducible apply onEnt_fp k_onEnt
    | with_reducible apply forwardReady_fp k_forwardReady
    | with_reducible apply wmUpdate_fp k_wmUpdate
    | with_reducible refine ite_fp ?_ ?_
    | split)

theorem repointHere_fp {fw : Nat} {fz t : State} (hw : 1573895 &&& fw = 1573895) {s : State} {fn callId company lead pos tag : Nat} {x}
    (he : repointHere s fn callId company lead pos tag = (t, x)) (hz : Fp fw fz s) : Fp fw fz t := by
  have k := repointHere_fp1 hw s fn callId company lead pos tag hz
  rwa [he] at k

theorem restAnswer_fp {fw : Nat} {fz : State} (hw : 6211147 &&& fw = 6211147) (s : State) (slot : Nat) (ended : Bool)
    (hz : Fp fw fz s) : Fp fw fz (restAnswer s slot ended) := by
  have b3 := bitOf hw 3 rfl
  have b14 := bitOf hw 14 rfl
  have k_inc := maskOf (V := 1) hw rfl
  have k_announceTable := maskOf (V := 6211147) hw rfl
  have k_sweepBlocks := maskOf (V := 512) hw rfl
  unfold restAnswer
  repeat' (first
    | with_reducible rfl
    | with_reducible assumption
    | with_reducible refine onStm_fp b3 _ _ ?_
    | with_reducible refine onUnd_fp b14 _ _ ?_
    | with_reducible apply inc_fp k_inc
    | with_reducible apply announceTable_fp k_announceTable
    | with_reducible apply sweepBlocks_fp k_sweepBlocks
    | with_reducible refine ite_fp ?_ ?_)

theorem execRepoint_fp (src : Fin 1024) (tag : BitVec 16) (fn : Fin 128) (callId : Word) (company : Nat) (lead : Fin 1024) (pos : BitVec 20) (s : State) (t : State) (h : execRepoint src tag fn callId company lead pos s = .next t) :
    Fp 1573895 s t := by
  have hw : 1573895 &&& 1573895 = 1573895 := rfl
  unfold execRepoint at h
  simp only [Host.Outcome.next.injEq] at h
  subst h
  have hz : Fp 1573895 s s := Fp.refl _ _
  have k_repointHere := maskOf (V := 1573895) hw rfl
  have k_reply := maskOf (V := 1049601) hw rfl
  repeat' (first
    | with_reducible rfl
    | with_reducible assumption
    | with_reducible apply repointHere_fp k_repointHere (by assumption)
    | with_reducible apply repointHere_fp1 k_repointHere
    | with_reducible apply reply_fp k_reply)

theorem restoreCostume_fp {fw : Nat} {fz t : State} (hw : 5244673 &&& fw = 5244673) {s : State} {imgs : List (Nat × Nat × Nat × Nat × List Byte)} {r : Rec} {x : Option (Nat × Nat)}
    (he : restoreCostume s imgs r = some (x, t)) (hz : Fp fw fz s) : Fp fw fz t := by
  have k_sendVer := maskOf (V := 1049601) hw rfl
  have k_holdVer := maskOf (V := 4195073) hw rfl
  unfold restoreCostume at he
  try simp only [] at he
  repeat' split at he
  all_goals first
    | (simp only [reduceCtorEq] at he)
    | (simp only [Option.some.injEq, Prod.mk.injEq] at he; first | subst he | (obtain ⟨-, he⟩ := he; subst he))
  repeat' (first
    | with_reducible rfl
    | with_reducible assumption
    | with_reducible apply sendVer_fp k_sendVer
    | with_reducible apply holdVer_fp k_holdVer)

theorem takeIn_fp {fw : Nat} {fz t : State} (hw : 6211403 &&& fw = 6211403) {s : State} {imgs : List (Nat × Nat × Nat × Nat × List Byte)} {tag : Nat} {r : Rec} {x : Nat}
    (he : takeIn s imgs tag r = some (x, t)) (hz : Fp fw fz s) : Fp fw fz t := by
  have b3 := bitOf hw 3 rfl
  have b6 := bitOf hw 6 rfl
  have b14 := bitOf hw 14 rfl
  have k_restoreCostume := maskOf (V := 5244673) hw rfl
  have k_freeSlot := maskOf (V := 0) hw rfl
  have k_drawBlocks := maskOf (V := 513) hw rfl
  have k_announceBlocks := maskOf (V := 6211147) hw rfl
  unfold takeIn at he
  try simp only [] at he
  repeat' split at he
  all_goals first
    | (simp only [reduceCtorEq] at he)
    | (simp only [Option.some.injEq, Prod.mk.injEq] at he; first | subst he | (obtain ⟨-, he⟩ := he; subst he))
  repeat' (first
    | with_reducible rfl
    | with_reducible assumption
    | with_reducible refine onStm_fp b3 _ _ ?_
    | with_reducible refine onPrm_fp b6 _ _ ?_
    | with_reducible refine onUnd_fp b14 _ _ ?_
    | with_reducible apply restoreCostume_fp k_restoreCostume (by assumption)
    | with_reducible apply restoreCostume_fp1 k_restoreCostume
    | with_reducible apply freeSlot_fp k_freeSlot (by assumption)
    | with_reducible apply freeSlot_fp1 k_freeSlot
    | with_reducible apply drawBlocks_fp k_drawBlocks (by assumption)
    | with_reducible apply drawBlocks_fp1 k_drawBlocks
    | with_reducible apply announceBlocks_fp k_announceBlocks)

theorem restoreHere_fp {fw : Nat} {fz t : State} (hw : 6211407 &&& fw = 6211407) {s : State}
    {imgs : List (Nat × Nat × Nat × Nat × List Byte)} {r : Rec} (he : restoreHere s imgs r = some t) (hz : Fp fw fz s) : Fp fw fz t := by
  have k_repointHere := maskOf (V := 1573895) hw rfl
  have k_restAnswer := maskOf (V := 6211147) hw rfl
  have k_request := maskOf (V := 1049601) hw rfl
  unfold restoreHere at he
  split at he
  rename_i tag s1 h1
  rw [Option.map_eq_some_iff] at he
  obtain ⟨⟨slot, s2⟩, h2, rfl⟩ := he
  have hz := takeIn_fp (maskOf (V := 6211403) hw rfl) h2 (takeTag_fp (maskOf (V := 1024) hw rfl) h1 hz)
  dsimp only
  repeat' (first
    | with_reducible assumption
    | with_reducible apply repointHere_fp k_repointHere (by assumption)
    | with_reducible apply repointHere_fp1 k_repointHere
    | with_reducible apply restAnswer_fp k_restAnswer
    | with_reducible apply request_fp k_request
    | split)

theorem endLostHere_fp {fw : Nat} {fz : State} (hw : 1573895 &&& fw = 1573895) (s : State) (fn callId : Nat)
    (hz : Fp fw fz s) : Fp fw fz (endLostHere s fn callId) := by
  have k_forwardReady := maskOf (V := 1573895) hw rfl
  have k_onEnt := maskOf (V := 2) hw rfl
  unfold endLostHere
  repeat' (first
    | with_reducible rfl
    | with_reducible assumption
    | with_reducible apply forwardReady_fp k_forwardReady
    | with_reducible apply onEnt_fp k_onEnt
    | with_reducible refine ite_fp ?_ ?_
    | split)

theorem endLost_fp {fw : Nat} {fz : State} (hw : 1573895 &&& fw = 1573895) (s : State) (r : Rec)
    (hz : Fp fw fz s) : Fp fw fz (endLost s r) := by
  have k_inc := maskOf (V := 1) hw rfl
  have k_endLostHere := maskOf (V := 1573895) hw rfl
  have k_reply := maskOf (V := 1049601) hw rfl
  unfold endLost
  repeat' (first
    | with_reducible rfl
    | with_reducible assumption
    | with_reducible apply inc_fp k_inc
    | with_reducible apply endLostHere_fp k_endLostHere
    | with_reducible apply reply_fp k_reply
    | with_reducible refine ite_fp ?_ ?_)

theorem endUnheldHere_fp {fw : Nat} {fz : State} (hw : 1573895 &&& fw = 1573895) (s : State) (company : Nat) (held : List (Nat × Nat))
    (hz : Fp fw fz s) : Fp fw fz (endUnheldHere s company held) := by
  have k_endLostHere := maskOf (V := 1573895) hw rfl
  have k_inc := maskOf (V := 1) hw rfl
  unfold endUnheldHere
  repeat' (first
    | with_reducible rfl
    | with_reducible assumption
    | with_reducible apply endLostHere_fp k_endLostHere
    | with_reducible apply inc_fp k_inc
    | with_reducible refine foldl_fp _ _ (fun _ _ _ => ?_) ?_)

theorem endUnheld_fp {fw : Nat} {fz : State} (hw : 1573895 &&& fw = 1573895) (s : State) (company : Nat) (held : List (Nat × Nat × Nat))
    (hz : Fp fw fz s) : Fp fw fz (endUnheld s company held) := by
  have k_endUnheldHere := maskOf (V := 1573895) hw rfl
  have k_sendTransfer := maskOf (V := 1049601) hw rfl
  unfold endUnheld
  repeat' (first
    | with_reducible rfl
    | with_reducible assumption
    | with_reducible apply endUnheldHere_fp k_endUnheldHere
    | with_reducible apply sendTransfer_fp k_sendTransfer
    | with_reducible refine advance_fp _ ?_
    | with_reducible refine foldl_fp _ _ (fun _ _ _ => ?_) ?_)

theorem placeOne_fp1 {fw : Nat} {fz : State} (hw : 6211407 &&& fw = 6211407) (imgs : List (Nat × Nat × Nat × Nat × List Byte)) (o : Offer)
    (a : State × List (Nat × Nat)) (hz : Fp fw fz a.1) : Fp fw fz (placeOne imgs o a).1 := by
  obtain ⟨s, placed⟩ := a
  simp only at hz
  unfold placeOne
  dsimp only
  split
  · rename_i c hc
    split
    · rename_i t ht
      have hf : Fp fw fz t := by
        split at ht
        · exact restoreHere_fp (maskOf hw rfl) ht hz
        · split at ht
          · rw [Option.map_eq_some_iff] at ht
            obtain ⟨d, -, rfl⟩ := ht
            exact onUnd_fp (bitOf hw 14 rfl) _ _ (sendTransfer_fp (maskOf hw rfl) _ _ _ _ (advance_fp _ hz))
          · exact absurd ht (by simp only [reduceCtorEq, not_false_eq_true])
      split
      · exact inc_fp (maskOf (V := 1) hw rfl) _ _ _ hf
      · exact hf
    · exact hz
  · exact endLost_fp (maskOf hw rfl) s _ hz

theorem placeCall_fp1 {fw : Nat} {fz : State} (hw : 6211407 &&& fw = 6211407) (m : Manifest)
    (imgs : List (Nat × Nat × Nat × Nat × List Byte)) (a : State × List (Nat × Nat)) (r : Rec) (hz : Fp fw fz a.1) :
    Fp fw fz (placeCall m imgs a r).1 :=
  placeOne_fp1 hw imgs _ a hz

theorem putBlocks_fp {fw : Nat} {fz : State} (hw : 4211201 &&& fw = 4211201) (s : State) (bs : List (Nat × List Byte))
    (hz : Fp fw fz s) : Fp fw fz (putBlocks s bs) := by
  have k_writeBytes := maskOf (V := 4194816) hw rfl
  have k_copyFirst := maskOf (V := 16385) hw rfl
  unfold putBlocks
  repeat' (first
    | with_reducible rfl
    | with_reducible assumption
    | with_reducible apply writeBytes_fp k_writeBytes
    | with_reducible apply copyFirst_fp k_copyFirst
    | with_reducible refine foldl_fp _ _ (fun _ _ _ => ?_) ?_)

theorem fillCall_fp {fw : Nat} {fz : State} (hw : 5260801 &&& fw = 5260801) (s : State) (kv : List (Nat × Nat × List Byte)) (r : Rest)
    (hz : Fp fw fz s) : Fp fw fz (fillCall s kv r) := by
  have k_putBlocks := maskOf (V := 4211201) hw rfl
  have k_sendTransfer := maskOf (V := 1049601) hw rfl
  unfold fillCall
  repeat' (first
    | with_reducible rfl
    | with_reducible assumption
    | with_reducible apply putBlocks_fp k_putBlocks
    | with_reducible apply sendTransfer_fp k_sendTransfer
    | with_reducible refine advance_fp _ ?_
    | with_reducible refine foldl_fp _ _ (fun _ _ _ => ?_) ?_
    | with_reducible refine foldlFst_fp _ _ (fun _ _ _ => ?_) ?_
    | with_reducible refine foldlSnd_fp _ _ (fun _ _ _ => ?_) ?_
    | with_reducible refine ite_fp ?_ ?_
    | split)

theorem fillOwn_fp {fw : Nat} {fz : State} (hw : 5260801 &&& fw = 5260801) (s : State) (m : Manifest)
    (hz : Fp fw fz s) : Fp fw fz (fillOwn s m) := by
  have k_fillCall := maskOf (V := 5260801) hw rfl
  unfold fillOwn
  repeat' (first
    | with_reducible rfl
    | with_reducible assumption
    | with_reducible apply fillCall_fp k_fillCall
    | with_reducible refine foldl_fp _ _ (fun _ _ _ => ?_) ?_)

theorem endReads_fp {fw : Nat} {fz : State} (hw : 16384 &&& fw = 16384) (s : State)
    (hz : Fp fw fz s) : Fp fw fz (endReads s) := by
  have b14 := bitOf hw 14 rfl
  unfold endReads
  repeat' (first
    | with_reducible rfl
    | with_reducible assumption
    | with_reducible refine onUnd_fp b14 _ _ ?_)

theorem placeAll_fp {fw : Nat} {fz : State} (hw : 6211407 &&& fw = 6211407) (s : State) (m : Manifest)
    (hz : Fp fw fz s) : Fp fw fz (placeAll s m) := by
  have k_placeCall := maskOf (V := 6211407) hw rfl
  have k_endReads := maskOf (V := 16384) hw rfl
  have k_fillOwn := maskOf (V := 5260801) hw rfl
  have k_endUnheld := maskOf (V := 1573895) hw rfl
  unfold placeAll
  repeat' (first
    | with_reducible rfl
    | with_reducible assumption
    | with_reducible apply placeCall_fp1 k_placeCall
    | with_reducible apply endReads_fp k_endReads
    | with_reducible apply fillOwn_fp k_fillOwn
    | with_reducible apply endUnheld_fp k_endUnheld
    | with_reducible refine foldl_fp _ _ (fun _ _ _ => ?_) ?_
    | with_reducible refine foldlFst_fp _ _ (fun _ _ _ => ?_) ?_)

theorem gotOffer_fp {fw : Nat} {fz : State} (hw : 6211407 &&& fw = 6211407) (s : State) (src : Nat) (bs : List Byte)
    (hz : Fp fw fz s) : Fp fw fz (gotOffer s src bs) := by
  have k_tellDevs := maskOf (V := 1049601) hw rfl
  have k_restoreHere := maskOf (V := 6211407) hw rfl
  have k_fillCall := maskOf (V := 5260801) hw rfl
  unfold gotOffer
  repeat' (first
    | with_reducible rfl
    | with_reducible assumption
    | with_reducible apply tellDevs_fp k_tellDevs
    | with_reducible apply restoreHere_fp k_restoreHere (by assumption)
    | with_reducible apply restoreHere_fp1 k_restoreHere
    | with_reducible apply fillCall_fp k_fillCall
    | with_reducible refine ite_fp ?_ ?_
    | split
    | with_reducible dsimp only)

theorem offerAnswer_fp {fw : Nat} {fz : State} (hw : 6211407 &&& fw = 6211407) (s : State) (accepted : Bool) (callId who : Nat)
    (hz : Fp fw fz s) : Fp fw fz (offerAnswer s accepted callId who) := by
  have b14 := bitOf hw 14 rfl
  have k_inc := maskOf (V := 1) hw rfl
  have k_placeOne := maskOf (V := 6211407) hw rfl
  have k_fillCall := maskOf (V := 5260801) hw rfl
  unfold offerAnswer
  repeat' (first
    | with_reducible rfl
    | with_reducible assumption
    | with_reducible refine onUnd_fp b14 _ _ ?_
    | with_reducible apply inc_fp k_inc
    | with_reducible apply placeOne_fp1 k_placeOne
    | with_reducible apply fillCall_fp k_fillCall
    | with_reducible refine foldl_fp _ _ (fun _ _ _ => ?_) ?_
    | with_reducible refine foldlFst_fp _ _ (fun _ _ _ => ?_) ?_
    | with_reducible refine foldlSnd_fp _ _ (fun _ _ _ => ?_) ?_
    | with_reducible refine ite_fp ?_ ?_
    | split
    | with_reducible dsimp only)

theorem gotFill_fp {fw : Nat} {fz : State} (hw : 4211201 &&& fw = 4211201) (s : State) (src : Nat) (bs : List Byte)
    (hz : Fp fw fz s) : Fp fw fz (gotFill s src bs) := by
  have k_putBlocks := maskOf (V := 4211201) hw rfl
  unfold gotFill
  repeat' (first
    | with_reducible rfl
    | with_reducible assumption
    | with_reducible apply putBlocks_fp k_putBlocks
    | with_reducible refine ite_fp ?_ ?_)

theorem gotHeld_fp {fw : Nat} {fz : State} (hw : 1573895 &&& fw = 1573895) (s : State) (bs : List Byte)
    (hz : Fp fw fz s) : Fp fw fz (gotHeld s bs) := by
  have k_endUnheldHere := maskOf (V := 1573895) hw rfl
  unfold gotHeld
  repeat' (first
    | with_reducible rfl
    | with_reducible assumption
    | with_reducible apply endUnheldHere_fp k_endUnheldHere)

theorem replayPlace_fp {fw : Nat} {fz : State} (hw : 6211403 &&& fw = 6211403) (s : State) (m : Manifest)
    (hz : Fp fw fz s) : Fp fw fz (replayPlace s m) := by
  have b14 := bitOf hw 14 rfl
  have k_takeIn := maskOf (V := 6211403) hw rfl
  have k_onCall := maskOf (V := 8) hw rfl
  have k_endReads := maskOf (V := 16384) hw rfl
  have k_fillOwn := maskOf (V := 5260801) hw rfl
  have k_set := maskOf (V := 1) hw rfl
  unfold replayPlace
  repeat' (first
    | with_reducible rfl
    | with_reducible assumption
    | with_reducible refine onUnd_fp b14 _ _ ?_
    | with_reducible apply takeIn_fp k_takeIn (by assumption)
    | with_reducible apply takeIn_fp1 k_takeIn
    | with_reducible apply onCall_fp k_onCall
    | with_reducible apply endReads_fp k_endReads
    | with_reducible apply fillOwn_fp k_fillOwn
    | with_reducible apply set_fp k_set
    | with_reducible refine foldl_fp _ _ (fun _ _ _ => ?_) ?_
    | with_reducible refine foldlFst_fp _ _ (fun _ _ _ => ?_) ?_
    | with_reducible refine foldlSnd_fp _ _ (fun _ _ _ => ?_) ?_
    | with_reducible refine ite_fp ?_ ?_
    | split)

theorem placeFor_fp {fw : Nat} {fz : State} (hw : 6211407 &&& fw = 6211407) (s : State) (m : Manifest)
    (hz : Fp fw fz s) : Fp fw fz (placeFor s m) := by
  have k_replayPlace := maskOf (V := 6211403) hw rfl
  have k_placeAll := maskOf (V := 6211407) hw rfl
  unfold placeFor
  repeat' (first
    | with_reducible rfl
    | with_reducible assumption
    | with_reducible apply replayPlace_fp k_replayPlace
    | with_reducible apply placeAll_fp k_placeAll
    | with_reducible refine ite_fp ?_ ?_)

theorem tryManifest_fp {fw : Nat} {fz : State} (hw : 6225791 &&& fw = 6225791) (n : Nat) (s : State)
    (hz : Fp fw fz s) : Fp fw fz (tryManifest n s) := by
  have b14 := bitOf hw 14 rfl
  have b15 := bitOf hw 15 rfl
  have k_set := maskOf (V := 1) hw rfl
  have k_replay := maskOf (V := 6225791) hw rfl
  have k_endUnheld := maskOf (V := 1573895) hw rfl
  have k_takeTag := maskOf (V := 1024) hw rfl
  have k_request := maskOf (V := 1049601) hw rfl
  have k_placeFor := maskOf (V := 6211407) hw rfl
  induction n generalizing s with
  | zero =>
    unfold tryManifest
    repeat' (first
      | with_reducible assumption)
  | succ n ih =>
    unfold tryManifest
    repeat' (first
      | with_reducible rfl
      | with_reducible assumption
      | with_reducible apply ih
      | with_reducible refine onUnd_fp b14 _ _ ?_
      | with_reducible refine onPbk_fp b15 _ _ ?_
      | with_reducible apply set_fp k_set
      | with_reducible apply replay_fp k_replay
      | with_reducible apply endUnheld_fp k_endUnheld
      | with_reducible apply takeTag_fp k_takeTag (by assumption)
      | with_reducible apply takeTag_fp1 k_takeTag
      | with_reducible apply request_fp k_request
      | with_reducible apply placeFor_fp k_placeFor
      | with_reducible refine foldl_fp _ _ (fun _ _ _ => ?_) ?_
      | with_reducible refine foldlFst_fp _ _ (fun _ _ _ => ?_) ?_
      | with_reducible refine foldlSnd_fp _ _ (fun _ _ _ => ?_) ?_
      | with_reducible refine ite_fp ?_ ?_
      | split
      | with_reducible dsimp only)

theorem beginRestore_fp {fw : Nat} {fz : State} (hw : 6225791 &&& fw = 6225791) (s : State) (company : Nat)
    (hz : Fp fw fz s) : Fp fw fz (beginRestore s company) := by
  have b14 := bitOf hw 14 rfl
  have k_tryManifest := maskOf (V := 6225791) hw rfl
  unfold beginRestore
  repeat' (first
    | with_reducible rfl
    | with_reducible assumption
    | with_reducible refine onUnd_fp b14 _ _ ?_
    | with_reducible apply tryManifest_fp k_tryManifest
    | with_reducible refine ite_fp ?_ ?_)

theorem shardFailed_fp {fw : Nat} {fz : State} (hw : 6225791 &&& fw = 6225791) (s : State)
    (hz : Fp fw fz s) : Fp fw fz (shardFailed s) := by
  have b14 := bitOf hw 14 rfl
  have k_tryManifest := maskOf (V := 6225791) hw rfl
  unfold shardFailed
  repeat' (first
    | with_reducible rfl
    | with_reducible assumption
    | with_reducible refine onUnd_fp b14 _ _ ?_
    | with_reducible apply tryManifest_fp k_tryManifest)

theorem execShardRead_fp (src : Fin 1024) (tag : BitVec 16) (seq company shard first count : Nat) (s : State) (t : State) (h : execShardRead src tag seq company shard first count s = .next t) :
    Fp 1049601 s t := by
  have hw : 1049601 &&& 1049601 = 1049601 := rfl
  unfold execShardRead at h
  simp only [Host.Outcome.next.injEq] at h
  subst h
  have hz : Fp 1049601 s s := Fp.refl _ _
  have k_sendPkt := maskOf (V := 1049601) hw rfl
  repeat' (first
    | with_reducible rfl
    | with_reducible assumption
    | with_reducible apply sendPkt_fp k_sendPkt
    | with_reducible refine foldl_fp _ _ (fun _ _ _ => ?_) ?_
    | with_reducible refine foldlFst_fp _ _ (fun _ _ _ => ?_) ?_
    | with_reducible refine foldlSnd_fp _ _ (fun _ _ _ => ?_) ?_
    | with_reducible refine ite_fp ?_ ?_
    | split)

theorem execShardData_fp (src : Fin 1024) (tag : BitVec 16) (epoch : BitVec 8) (data : List Byte) (poison : Bool) (s : State) (t : State) (h : execShardData src tag epoch data poison s = .next t) :
    Fp 6225791 s t := by
  have hw : 6225791 &&& 6225791 = 6225791 := rfl
  unfold execShardData at h
  simp only [Host.Outcome.next.injEq] at h
  subst h
  have hz : Fp 6225791 s s := Fp.refl _ _
  have b10 := bitOf hw 10 rfl
  have b14 := bitOf hw 14 rfl
  have k_inc := maskOf (V := 1) hw rfl
  have k_issueWaiting := maskOf (V := 1049601) hw rfl
  have k_set := maskOf (V := 1) hw rfl
  have k_shardFailed := maskOf (V := 6225791) hw rfl
  have k_placeFor := maskOf (V := 6211407) hw rfl
  repeat' (first
    | with_reducible rfl
    | with_reducible assumption
    | with_reducible refine onFab_fp b10 _ _ ?_ ?_
    | with_reducible simp only [List.length_map, List.length_set, List.length_mapIdx, List.length_modify]
    | with_reducible refine onUnd_fp b14 _ _ ?_
    | with_reducible apply inc_fp k_inc
    | with_reducible apply issueWaiting_fp k_issueWaiting
    | with_reducible apply set_fp k_set
    | with_reducible apply shardFailed_fp k_shardFailed
    | with_reducible apply placeFor_fp k_placeFor
    | with_reducible refine ite_fp ?_ ?_
    | split)

theorem execRestoreFillDone_fp (fn : Fin 128) (callId : Word) (s : State) (t : State) (h : execRestoreFillDone fn callId s = .next t) :
    Fp 540683 s t := by
  have hw : 540683 &&& 540683 = 540683 := rfl
  unfold execRestoreFillDone at h
  simp only [Host.Outcome.next.injEq] at h
  subst h
  have hz : Fp 540683 s s := Fp.refl _ _
  have b14 := bitOf hw 14 rfl
  have k_onCall := maskOf (V := 8) hw rfl
  have k_wmUpdate := maskOf (V := 524289) hw rfl
  have k_onEnt := maskOf (V := 2) hw rfl
  repeat' (first
    | with_reducible rfl
    | with_reducible assumption
    | with_reducible refine onUnd_fp b14 _ _ ?_
    | with_reducible apply onCall_fp k_onCall
    | with_reducible apply wmUpdate_fp k_wmUpdate
    | with_reducible apply onEnt_fp k_onEnt
    | with_reducible refine foldl_fp _ _ (fun _ _ _ => ?_) ?_
    | with_reducible refine foldlFst_fp _ _ (fun _ _ _ => ?_) ?_
    | with_reducible refine foldlSnd_fp _ _ (fun _ _ _ => ?_) ?_
    | with_reducible refine ite_fp ?_ ?_
    | split)

theorem execUndHostGo_fp (v : Word) (s : State) (t : State) (h : execUndHostGo v s = .next t) :
    Fp 6285151 s t := by
  have hw : 6285151 &&& 6285151 = 6285151 := rfl
  unfold execUndHostGo at h
  simp only [Host.Outcome.next.injEq] at h
  subst h
  have hz : Fp 6285151 s s := Fp.refl _ _
  have b14 := bitOf hw 14 rfl
  have k_commandWord := maskOf (V := 729107) hw rfl
  have k_set := maskOf (V := 1) hw rfl
  have k_placeAll := maskOf (V := 6211407) hw rfl
  repeat' (first
    | with_reducible rfl
    | with_reducible assumption
    | with_reducible refine onUnd_fp b14 _ _ ?_
    | with_reducible apply commandWord_fp k_commandWord
    | with_reducible apply set_fp k_set
    | with_reducible apply placeAll_fp k_placeAll
    | with_reducible refine ite_fp ?_ ?_
    | split)

theorem gotManifest_fp {fw : Nat} {fz : State} (hw : 1262593 &&& fw = 1262593) (s : State) (src : Nat) (m : Manifest)
    (hz : Fp fw fz s) : Fp fw fz (gotManifest s src m) := by
  have k_keepManifest := maskOf (V := 16384) hw rfl
  have k_dropView := maskOf (V := 16384) hw rfl
  have k_drainAfter := maskOf (V := 212993) hw rfl
  have k_send := maskOf (V := 1049601) hw rfl
  unfold gotManifest
  repeat' (first
    | with_reducible rfl
    | with_reducible assumption
    | with_reducible apply keepManifest_fp k_keepManifest
    | with_reducible apply dropView_fp k_dropView
    | with_reducible apply drainAfter_fp k_drainAfter
    | with_reducible apply send_fp k_send
    | with_reducible refine ite_fp ?_ ?_)

theorem gotScript_fp {fw : Nat} {fz : State} (hw : 1049665 &&& fw = 1049665) (s : State) (src : Nat) (bs : List Byte)
    (hz : Fp fw fz s) : Fp fw fz (gotScript s src bs) := by
  have b6 := bitOf hw 6 rfl
  have k_noteScripts := maskOf (V := 1) hw rfl
  have k_tellDevs := maskOf (V := 1049601) hw rfl
  unfold gotScript
  repeat' (first
    | with_reducible rfl
    | with_reducible assumption
    | with_reducible refine onPrm_fp b6 _ _ ?_
    | with_reducible apply noteScripts_fp k_noteScripts
    | with_reducible apply tellDevs_fp k_tellDevs
    | with_reducible refine ite_fp ?_ ?_
    | split)

theorem execTransfer_fp (src : Fin 1024) (id : Word) (off : Nat) (data : List Byte) (poison : Bool) (s : State) (t : State) (h : execTransfer src id off data poison s = .next t) :
    Fp 6276943 s t := by
  have hw : 6276943 &&& 6276943 = 6276943 := rfl
  unfold execTransfer at h
  simp only [Host.Outcome.next.injEq] at h
  subst h
  have hz : Fp 6276943 s s := Fp.refl _ _
  have b14 := bitOf hw 14 rfl
  have k_gotManifest := maskOf (V := 1262593) hw rfl
  have k_gotCostume := maskOf (V := 5244673) hw rfl
  have k_gotSpill := maskOf (V := 513) hw rfl
  have k_gotFacts := maskOf (V := 8) hw rfl
  have k_gotHeld := maskOf (V := 1573895) hw rfl
  have k_gotOffer := maskOf (V := 6211407) hw rfl
  have k_gotFill := maskOf (V := 4211201) hw rfl
  have k_gotScript := maskOf (V := 1049665) hw rfl
  repeat' (first
    | with_reducible rfl
    | with_reducible assumption
    | with_reducible refine onUnd_fp b14 _ _ ?_
    | with_reducible apply gotManifest_fp k_gotManifest
    | with_reducible apply gotCostume_fp k_gotCostume
    | with_reducible apply gotSpill_fp k_gotSpill
    | with_reducible apply gotFacts_fp k_gotFacts
    | with_reducible apply gotHeld_fp k_gotHeld
    | with_reducible apply gotOffer_fp k_gotOffer
    | with_reducible apply gotFill_fp k_gotFill
    | with_reducible apply gotScript_fp k_gotScript
    | with_reducible refine ite_fp ?_ ?_
    | split)

end Sys2Proof.Machine
end

