-- ==== Sys2Proof/Laws/FootStageplot.lean ====
section
/-!
SUPPORT. Footprints of the operations of Machine/Stageplot.lean: what each may touch (Fp).
-/
namespace Sys2Proof.Machine

theorem rxMarks_fp {fw : Nat} {fz : State} (hw : 1 &&& fw = 1) (s : State) (p : Plot)
    (hz : Fp fw fz s) : Fp fw fz (rxMarks s p) := by
  have k_set := maskOf (V := 1) hw rfl
  unfold rxMarks
  repeat' (first
    | with_reducible rfl
    | with_reducible assumption
    | with_reducible apply set_fp k_set
    | with_reducible refine foldl_fp _ _ (fun _ _ _ => ?_) ?_)

theorem putShadow_fp {fw : Nat} {fz : State} (hw : 8193 &&& fw = 8193) (s : State) (p : Plot)
    (hz : Fp fw fz s) : Fp fw fz (putShadow s p) := by
  have b0 := bitOf hw 0 rfl
  have b13 := bitOf hw 13 rfl
  have k_rxMarks := maskOf (V := 1) hw rfl
  have k_set := maskOf (V := 1) hw rfl
  unfold putShadow
  repeat' (first
    | with_reducible rfl
    | with_reducible assumption
    | with_reducible refine onRegs_fp b0 _ _ ?_
    | with_reducible refine onSpl_fp b13 _ _ ?_
    | with_reducible apply rxMarks_fp k_rxMarks
    | with_reducible apply set_fp k_set
    | with_reducible refine foldl_fp _ _ (fun _ _ _ => ?_) ?_
    | with_reducible refine foldlFst_fp _ _ (fun _ _ _ => ?_) ?_
    | with_reducible refine foldlSnd_fp _ _ (fun _ _ _ => ?_) ?_
    | split)

theorem shadowActs_fp {fw : Nat} {fz : State} (hw : 1 &&& fw = 1) (s : State)
    (hz : Fp fw fz s) : Fp fw fz (shadowActs s) := by
  have b0 := bitOf hw 0 rfl
  unfold shadowActs
  repeat' (first
    | with_reducible rfl
    | with_reducible assumption
    | with_reducible refine onRegs_fp b0 _ _ ?_)

theorem shadowIn_fp {fw : Nat} {fz : State} (hw : 8193 &&& fw = 8193) (s : State)
    (hz : Fp fw fz s) : Fp fw fz (shadowIn s) := by
  have b13 := bitOf hw 13 rfl
  have k_shadowActs := maskOf (V := 1) hw rfl
  have k_set := maskOf (V := 1) hw rfl
  unfold shadowIn
  repeat' (first
    | with_reducible rfl
    | with_reducible assumption
    | with_reducible refine onSpl_fp b13 _ _ ?_
    | with_reducible apply shadowActs_fp k_shadowActs
    | with_reducible apply set_fp k_set)

theorem execStageplotLoad_fp (v : Word) (s : State) (t : State) (h : execStageplotLoad v s = .next t) :
    Fp 733203 s t := by
  have hw : 733203 &&& 733203 = 733203 := rfl
  unfold execStageplotLoad at h
  simp only [Host.Outcome.next.injEq] at h
  subst h
  have hz : Fp 733203 s s := Fp.refl _ _
  have b13 := bitOf hw 13 rfl
  have k_commandWord := maskOf (V := 729107) hw rfl
  have k_set := maskOf (V := 1) hw rfl
  have k_demandDom := maskOf (V := 4097) hw rfl
  repeat' (first
    | with_reducible rfl
    | with_reducible assumption
    | with_reducible refine onSpl_fp b13 _ _ ?_
    | with_reducible apply commandWord_fp k_commandWord
    | with_reducible apply set_fp k_set
    | with_reducible apply demandDom_fp k_demandDom
    | with_reducible refine ite_fp ?_ ?_)

theorem execStageplotLoadDone_fp (s : State) (t : State) (h : execStageplotLoadDone s = .next t) :
    Fp 208897 s t := by
  have hw : 208897 &&& 208897 = 208897 := rfl
  unfold execStageplotLoadDone at h
  simp only [Host.Outcome.next.injEq] at h
  subst h
  have hz : Fp 208897 s s := Fp.refl _ _
  have b13 := bitOf hw 13 rfl
  have k_demandDom := maskOf (V := 4097) hw rfl
  have k_audit := maskOf (V := 196609) hw rfl
  have k_set := maskOf (V := 1) hw rfl
  have k_putShadow := maskOf (V := 8193) hw rfl
  repeat' (first
    | with_reducible rfl
    | with_reducible assumption
    | with_reducible refine onSpl_fp b13 _ _ ?_
    | with_reducible apply demandDom_fp k_demandDom
    | with_reducible apply audit_fp k_audit
    | with_reducible refine advance_fp _ ?_
    | with_reducible apply set_fp k_set
    | with_reducible apply putShadow_fp k_putShadow
    | with_reducible refine ite_fp ?_ ?_
    | split)

theorem setSwapState_fp {fw : Nat} {fz : State} (hw : 1 &&& fw = 1) (s : State) (v : Nat)
    (hz : Fp fw fz s) : Fp fw fz (setSwapState s v) := by
  have k_set := maskOf (V := 1) hw rfl
  unfold setSwapState
  repeat' (first
    | with_reducible rfl
    | with_reducible assumption
    | with_reducible apply set_fp k_set
    | with_reducible refine ite_fp ?_ ?_)

theorem swapRefused_fp {fw : Nat} {fz : State} (hw : 3 &&& fw = 3) (s : State) (reason map : Nat)
    (hz : Fp fw fz s) : Fp fw fz (swapRefused s reason map) := by
  have k_set := maskOf (V := 1) hw rfl
  have k_setSwapState := maskOf (V := 1) hw rfl
  have k_deviceNotice := maskOf (V := 3) hw rfl
  unfold swapRefused
  repeat' (first
    | with_reducible rfl
    | with_reducible assumption
    | with_reducible apply set_fp k_set
    | with_reducible apply setSwapState_fp k_setSwapState
    | with_reducible apply deviceNotice_fp k_deviceNotice
    | with_reducible refine ite_fp ?_ ?_)

theorem cancelSwap_fp {fw : Nat} {fz : State} (hw : 8193 &&& fw = 8193) (s : State)
    (hz : Fp fw fz s) : Fp fw fz (cancelSwap s) := by
  have b13 := bitOf hw 13 rfl
  have k_setSwapState := maskOf (V := 1) hw rfl
  unfold cancelSwap
  repeat' (first
    | with_reducible rfl
    | with_reducible assumption
    | with_reducible refine onSpl_fp b13 _ _ ?_
    | with_reducible apply setSwapState_fp k_setSwapState
    | with_reducible refine ite_fp ?_ ?_
    | split)

theorem execSwapReq_fp (fn : Fin 128) (v : Word) (s : State) (t : State) (h : execSwapReq fn v s = .next t) :
    Fp 729107 s t := by
  have hw : 729107 &&& 729107 = 729107 := rfl
  unfold execSwapReq at h
  simp only [Host.Outcome.next.injEq] at h
  subst h
  have hz : Fp 729107 s s := Fp.refl _ _
  have b13 := bitOf hw 13 rfl
  have k_commandWord := maskOf (V := 729107) hw rfl
  have k_cancelSwap := maskOf (V := 8193) hw rfl
  have k_swapRefused := maskOf (V := 3) hw rfl
  have k_setSwapState := maskOf (V := 1) hw rfl
  repeat' (first
    | with_reducible rfl
    | with_reducible assumption
    | with_reducible refine onSpl_fp b13 _ _ ?_
    | with_reducible apply commandWord_fp k_commandWord
    | with_reducible apply cancelSwap_fp k_cancelSwap
    | with_reducible apply swapRefused_fp k_swapRefused
    | with_reducible apply setSwapState_fp k_setSwapState
    | with_reducible refine ite_fp ?_ ?_)

theorem execSwapCancel_fp (v : Word) (s : State) (t : State) (h : execSwapCancel v s = .next t) :
    Fp 729107 s t := by
  have hw : 729107 &&& 729107 = 729107 := rfl
  unfold execSwapCancel at h
  simp only [Host.Outcome.next.injEq] at h
  subst h
  have hz : Fp 729107 s s := Fp.refl _ _
  have k_commandWord := maskOf (V := 729107) hw rfl
  have k_cancelSwap := maskOf (V := 8193) hw rfl
  repeat' (first
    | with_reducible rfl
    | with_reducible assumption
    | with_reducible apply commandWord_fp k_commandWord
    | with_reducible apply cancelSwap_fp k_cancelSwap
    | with_reducible refine ite_fp ?_ ?_)

theorem clipLevels_fp {fw : Nat} {fz : State} (hw : 4 &&& fw = 4) (s : State)
    (hz : Fp fw fz s) : Fp fw fz (clipLevels s) := by
  have b2 := bitOf hw 2 rfl
  unfold clipLevels
  repeat' (first
    | with_reducible rfl
    | with_reducible assumption
    | with_reducible refine onBox_fp b2 _ _ ?_)

theorem swapBoundary_fp {fw : Nat} {fz : State} (hw : 204807 &&& fw = 204807) (s : State) (n : Nat)
    (hz : Fp fw fz s) : Fp fw fz (swapBoundary s n) := by
  have b13 := bitOf hw 13 rfl
  have k_set := maskOf (V := 1) hw rfl
  have k_audit := maskOf (V := 196609) hw rfl
  have k_swapRefused := maskOf (V := 3) hw rfl
  have k_clipLevels := maskOf (V := 4) hw rfl
  have k_shadowIn := maskOf (V := 8193) hw rfl
  unfold swapBoundary
  repeat' (first
    | with_reducible rfl
    | with_reducible assumption
    | with_reducible refine onSpl_fp b13 _ _ ?_
    | with_reducible apply set_fp k_set
    | with_reducible apply audit_fp k_audit
    | with_reducible apply swapRefused_fp k_swapRefused
    | with_reducible apply clipLevels_fp k_clipLevels
    | with_reducible apply shadowIn_fp k_shadowIn
    | with_reducible refine ite_fp ?_ ?_
    | split)

theorem setScene_fp {fw : Nat} {fz : State} (hw : 1 &&& fw = 1) (s : State) (st : Nat)
    (hz : Fp fw fz s) : Fp fw fz (setScene s st) := by
  have k_set := maskOf (V := 1) hw rfl
  unfold setScene
  repeat' (first
    | with_reducible rfl
    | with_reducible assumption
    | with_reducible apply set_fp k_set)

theorem markLost_fp {fw : Nat} {fz : State} (hw : 1024 &&& fw = 1024) (s : State) (c : Nat)
    (hz : Fp fw fz s) : Fp fw fz (markLost s c) := by
  have b10 := bitOf hw 10 rfl
  have k_putTopo := maskOf (V := 1024) hw rfl
  unfold markLost
  repeat' (first
    | with_reducible rfl
    | with_reducible assumption
    | with_reducible refine onFab_fp b10 _ _ ?_ ?_
    | with_reducible simp only []
    | with_reducible apply putTopo_fp k_putTopo
    | with_reducible refine foldl_fp _ _ (fun _ _ _ => ?_) ?_)

theorem clearLost_fp {fw : Nat} {fz : State} (hw : 17408 &&& fw = 17408) (s : State) (c : Nat)
    (hz : Fp fw fz s) : Fp fw fz (clearLost s c) := by
  have b10 := bitOf hw 10 rfl
  have b14 := bitOf hw 14 rfl
  have k_putTopo := maskOf (V := 1024) hw rfl
  unfold clearLost
  repeat' (first
    | with_reducible rfl
    | with_reducible assumption
    | with_reducible refine onFab_fp b10 _ _ ?_ ?_
    | with_reducible simp only []
    | with_reducible refine onUnd_fp b14 _ _ ?_
    | with_reducible apply putTopo_fp k_putTopo
    | with_reducible refine foldl_fp _ _ (fun _ _ _ => ?_) ?_)

theorem tellScene_fp {fw : Nat} {fz : State} (hw : 1049601 &&& fw = 1049601) (s : State) (c : Scene) (outcome : Nat)
    (hz : Fp fw fz s) : Fp fw fz (tellScene s c outcome) := by
  have k_tellDevs := maskOf (V := 1049601) hw rfl
  unfold tellScene
  repeat' (first
    | with_reducible rfl
    | with_reducible assumption
    | with_reducible apply tellDevs_fp k_tellDevs)

theorem sceneTold_fp {fw : Nat} {fz : State} (hw : 24577 &&& fw = 24577) (s : State) (src outcome company cue : Nat)
    (hz : Fp fw fz s) : Fp fw fz (sceneTold s src outcome company cue) := by
  have b13 := bitOf hw 13 rfl
  have k_cancelSwap := maskOf (V := 8193) hw rfl
  have k_abandonSnap := maskOf (V := 16385) hw rfl
  unfold sceneTold
  repeat' (first
    | with_reducible rfl
    | with_reducible assumption
    | with_reducible refine onSpl_fp b13 _ _ ?_
    | with_reducible apply cancelSwap_fp k_cancelSwap
    | with_reducible apply abandonSnap_fp k_abandonSnap
    | with_reducible refine ite_fp ?_ ?_)

theorem sceneEnds_fp {fw : Nat} {fz : State} (hw : 25600 &&& fw = 25600) (s : State) (src company : Nat) (serves : Bool)
    (hz : Fp fw fz s) : Fp fw fz (sceneEnds s src company serves) := by
  have b13 := bitOf hw 13 rfl
  have k_clearLost := maskOf (V := 17408) hw rfl
  have k_markLost := maskOf (V := 1024) hw rfl
  unfold sceneEnds
  repeat' (first
    | with_reducible rfl
    | with_reducible assumption
    | with_reducible refine onSpl_fp b13 _ _ ?_
    | with_reducible apply clearLost_fp k_clearLost
    | with_reducible apply markLost_fp k_markLost
    | with_reducible refine ite_fp ?_ ?_)

theorem sceneFails_fp {fw : Nat} {fz : State} (hw : 1074177 &&& fw = 1074177) (s : State)
    (hz : Fp fw fz s) : Fp fw fz (sceneFails s) := by
  have b13 := bitOf hw 13 rfl
  have b14 := bitOf hw 14 rfl
  have k_tellScene := maskOf (V := 1049601) hw rfl
  have k_set := maskOf (V := 1) hw rfl
  have k_setScene := maskOf (V := 1) hw rfl
  have k_tellDevs := maskOf (V := 1049601) hw rfl
  have k_markLost := maskOf (V := 1024) hw rfl
  unfold sceneFails
  repeat' (first
    | with_reducible rfl
    | with_reducible assumption
    | with_reducible refine onSpl_fp b13 _ _ ?_
    | with_reducible refine onUnd_fp b14 _ _ ?_
    | with_reducible apply tellScene_fp k_tellScene
    | with_reducible apply set_fp k_set
    | with_reducible apply setScene_fp k_setScene
    | with_reducible apply tellDevs_fp k_tellDevs
    | with_reducible apply markLost_fp k_markLost
    | split)

theorem sceneRefused_fp {fw : Nat} {fz : State} (hw : 8193 &&& fw = 8193) (s : State) (result : Nat)
    (hz : Fp fw fz s) : Fp fw fz (sceneRefused s result) := by
  have b13 := bitOf hw 13 rfl
  have k_set := maskOf (V := 1) hw rfl
  unfold sceneRefused
  repeat' (first
    | with_reducible rfl
    | with_reducible assumption
    | with_reducible refine onSpl_fp b13 _ _ ?_
    | with_reducible apply set_fp k_set)

theorem sceneDecide_fp {fw : Nat} {fz : State} (hw : 1074177 &&& fw = 1074177) (s : State)
    (hz : Fp fw fz s) : Fp fw fz (sceneDecide s) := by
  have b13 := bitOf hw 13 rfl
  have k_sceneRefused := maskOf (V := 8193) hw rfl
  have k_setScene := maskOf (V := 1) hw rfl
  have k_set := maskOf (V := 1) hw rfl
  have k_tellScene := maskOf (V := 1049601) hw rfl
  have k_cancelSwap := maskOf (V := 8193) hw rfl
  have k_abandonSnap := maskOf (V := 16385) hw rfl
  unfold sceneDecide
  repeat' (first
    | with_reducible rfl
    | with_reducible assumption
    | with_reducible refine onSpl_fp b13 _ _ ?_
    | with_reducible apply sceneRefused_fp k_sceneRefused
    | with_reducible apply setScene_fp k_setScene
    | with_reducible apply set_fp k_set
    | with_reducible apply tellScene_fp k_tellScene
    | with_reducible apply cancelSwap_fp k_cancelSwap
    | with_reducible apply abandonSnap_fp k_abandonSnap
    | with_reducible refine ite_fp ?_ ?_
    | split)

theorem sceneAnswer_fp {fw : Nat} {fz : State} (hw : 1074177 &&& fw = 1074177) (s : State) (dev : Nat) (found : List Nat)
    (hz : Fp fw fz s) : Fp fw fz (sceneAnswer s dev found) := by
  have b13 := bitOf hw 13 rfl
  have k_sceneDecide := maskOf (V := 1074177) hw rfl
  unfold sceneAnswer
  repeat' (first
    | with_reducible rfl
    | with_reducible assumption
    | with_reducible refine onSpl_fp b13 _ _ ?_
    | with_reducible apply sceneDecide_fp k_sceneDecide
    | with_reducible refine ite_fp ?_ ?_
    | split)

theorem sceneStatus_fp {fw : Nat} {fz : State} (hw : 1074177 &&& fw = 1074177) (s : State) (dev outcome value detail : Nat)
    (hz : Fp fw fz s) : Fp fw fz (sceneStatus s dev outcome value detail) := by
  have k_sceneAnswer := maskOf (V := 1074177) hw rfl
  unfold sceneStatus
  repeat' (first
    | with_reducible rfl
    | with_reducible assumption
    | with_reducible apply sceneAnswer_fp k_sceneAnswer)

theorem execSceneStart_fp (v : Word) (s : State) (t : State) (h : execSceneStart v s = .next t) :
    Fp 1795091 s t := by
  have hw : 1795091 &&& 1795091 = 1795091 := rfl
  unfold execSceneStart at h
  simp only [Host.Outcome.next.injEq] at h
  subst h
  have hz : Fp 1795091 s s := Fp.refl _ _
  have b13 := bitOf hw 13 rfl
  have k_commandWord := maskOf (V := 729107) hw rfl
  have k_set := maskOf (V := 1) hw rfl
  have k_setScene := maskOf (V := 1) hw rfl
  have k_sceneAnswer := maskOf (V := 1074177) hw rfl
  have k_takeTag := maskOf (V := 1024) hw rfl
  have k_request := maskOf (V := 1049601) hw rfl
  have k_sceneDecide := maskOf (V := 1074177) hw rfl
  repeat' (first
    | with_reducible rfl
    | with_reducible assumption
    | with_reducible refine onSpl_fp b13 _ _ ?_
    | with_reducible apply commandWord_fp k_commandWord
    | with_reducible apply set_fp k_set
    | with_reducible apply setScene_fp k_setScene
    | with_reducible apply sceneAnswer_fp k_sceneAnswer
    | with_reducible apply takeTag_fp k_takeTag (by assumption)
    | with_reducible apply takeTag_fp1 k_takeTag
    | with_reducible apply request_fp k_request
    | with_reducible apply sceneDecide_fp k_sceneDecide
    | with_reducible refine foldl_fp _ _ (fun _ _ _ => ?_) ?_
    | with_reducible refine foldlFst_fp _ _ (fun _ _ _ => ?_) ?_
    | with_reducible refine foldlSnd_fp _ _ (fun _ _ _ => ?_) ?_
    | with_reducible refine ite_fp ?_ ?_
    | split)

theorem execSceneQuery_fp (src : Fin 1024) (tag : BitVec 16) (plan : Word) (company : Nat) (s : State) (t : State) (h : execSceneQuery src tag plan company s = .next t) :
    Fp 1049601 s t := by
  have hw : 1049601 &&& 1049601 = 1049601 := rfl
  unfold execSceneQuery at h
  simp only [Host.Outcome.next.injEq] at h
  subst h
  have hz : Fp 1049601 s s := Fp.refl _ _
  have k_reply := maskOf (V := 1049601) hw rfl
  repeat' (first
    | with_reducible rfl
    | with_reducible assumption
    | with_reducible apply reply_fp k_reply
    | with_reducible refine advance_fp _ ?_)

theorem plotRegsD_fp {fw : Nat} {fz : State} (hw : 1 &&& fw = 1) (s : State) (p : Plot)
    (hz : Fp fw fz s) : Fp fw fz (plotRegsD s p) := by
  have k_set := maskOf (V := 1) hw rfl
  unfold plotRegsD
  repeat' (first
    | with_reducible rfl
    | with_reducible assumption
    | with_reducible apply set_fp k_set)

theorem bootTargets_fp {fw : Nat} {fz : State} (hw : 1 &&& fw = 1) (s : State) (p : Plot)
    (hz : Fp fw fz s) : Fp fw fz (bootTargets s p) := by
  have k_set := maskOf (V := 1) hw rfl
  unfold bootTargets
  repeat' (first
    | with_reducible rfl
    | with_reducible assumption
    | with_reducible apply set_fp k_set
    | with_reducible refine foldl_fp _ _ (fun _ _ _ => ?_) ?_
    | with_reducible refine foldlFst_fp _ _ (fun _ _ _ => ?_) ?_
    | with_reducible refine foldlSnd_fp _ _ (fun _ _ _ => ?_) ?_
    | with_reducible refine ite_fp ?_ ?_)

theorem reloadWeights_fp {fw : Nat} {fz : State} (hw : 4194817 &&& fw = 4194817) (s : State)
    (hz : Fp fw fz s) : Fp fw fz (reloadWeights s) := by
  have k_writeByte := maskOf (V := 4194816) hw rfl
  have k_set := maskOf (V := 1) hw rfl
  have k_skipFree := maskOf (V := 0) hw rfl
  unfold reloadWeights
  repeat' (first
    | with_reducible rfl
    | with_reducible assumption
    | with_reducible apply writeByte_fp k_writeByte
    | with_reducible apply set_fp k_set
    | with_reducible apply skipFree_fp k_skipFree
    | with_reducible refine foldl_fp _ _ (fun _ _ _ => ?_) ?_)

theorem applyShadow_fp {fw : Nat} {fz : State} (hw : 4203265 &&& fw = 4203265) (s : State)
    (hz : Fp fw fz s) : Fp fw fz (applyShadow s) := by
  have b8 := bitOf hw 8 rfl
  have b9 := bitOf hw 9 rfl
  have k_bootTargets := maskOf (V := 1) hw rfl
  have k_plotRegsD := maskOf (V := 1) hw rfl
  have k_shadowIn := maskOf (V := 8193) hw rfl
  have k_loadSheets := maskOf (V := 4194816) hw rfl
  have k_reloadWeights := maskOf (V := 4194817) hw rfl
  have k_castRoles := maskOf (V := 1) hw rfl
  unfold applyShadow
  repeat' (first
    | with_reducible rfl
    | with_reducible assumption
    | with_reducible refine onWdr_fp b8 _ _ ?_
    | with_reducible refine onMdw_fp b9 _ _ ?_ ?_
    | with_reducible apply bootTargets_fp k_bootTargets
    | with_reducible apply plotRegsD_fp k_plotRegsD
    | with_reducible apply shadowIn_fp k_shadowIn
    | with_reducible apply loadSheets_fp k_loadSheets
    | with_reducible apply reloadWeights_fp k_reloadWeights
    | with_reducible apply castRoles_fp k_castRoles
    | with_reducible refine foldl_fp _ _ (fun _ _ _ => ?_) ?_
    | with_reducible refine foldlFst_fp _ _ (fun _ _ _ => ?_) ?_
    | with_reducible refine foldlSnd_fp _ _ (fun _ _ _ => ?_) ?_
    | with_reducible refine ite_fp ?_ ?_
    | split)

theorem readCut_fp {fw : Nat} {fz : State} (hw : 6225791 &&& fw = 6225791) (s : State) (c : Scene)
    (hz : Fp fw fz s) : Fp fw fz (readCut s c) := by
  have b14 := bitOf hw 14 rfl
  have k_tryManifest := maskOf (V := 6225791) hw rfl
  unfold readCut
  repeat' (first
    | with_reducible rfl
    | with_reducible assumption
    | with_reducible refine onUnd_fp b14 _ _ ?_
    | with_reducible apply tryManifest_fp k_tryManifest
    | with_reducible refine ite_fp ?_ ?_
    | split)

theorem leadApplied_fp {fw : Nat} {fz : State} (hw : 6225791 &&& fw = 6225791) (s : State) (src : Nat)
    (hz : Fp fw fz s) : Fp fw fz (leadApplied s src) := by
  have b13 := bitOf hw 13 rfl
  have k_set := maskOf (V := 1) hw rfl
  have k_readCut := maskOf (V := 6225791) hw rfl
  have k_setScene := maskOf (V := 1) hw rfl
  unfold leadApplied
  repeat' (first
    | with_reducible rfl
    | with_reducible assumption
    | with_reducible refine onSpl_fp b13 _ _ ?_
    | with_reducible apply set_fp k_set
    | with_reducible apply readCut_fp k_readCut
    | with_reducible apply setScene_fp k_setScene
    | with_reducible refine ite_fp ?_ ?_
    | split)

theorem execApplyDone_fp (s : State) (t : State) (h : execApplyDone s = .next t) :
    Fp 6225791 s t := by
  have hw : 6225791 &&& 6225791 = 6225791 := rfl
  unfold execApplyDone at h
  simp only [Host.Outcome.next.injEq] at h
  subst h
  have hz : Fp 6225791 s s := Fp.refl _ _
  have b3 := bitOf hw 3 rfl
  have k_leadApplied := maskOf (V := 6225791) hw rfl
  have k_applyShadow := maskOf (V := 4203265) hw rfl
  have k_send := maskOf (V := 1049601) hw rfl
  repeat' (first
    | with_reducible rfl
    | with_reducible assumption
    | with_reducible refine onStm_fp b3 _ _ ?_
    | with_reducible apply leadApplied_fp k_leadApplied
    | with_reducible apply applyShadow_fp k_applyShadow
    | with_reducible apply send_fp k_send
    | with_reducible refine ite_fp ?_ ?_
    | split)

theorem execApplied_fp (src : Fin 1024) (company : Nat) (s : State) (t : State) (h : execApplied src company s = .next t) :
    Fp 6225791 s t := by
  have hw : 6225791 &&& 6225791 = 6225791 := rfl
  unfold execApplied at h
  simp only [Host.Outcome.next.injEq] at h
  subst h
  have hz : Fp 6225791 s s := Fp.refl _ _
  have k_leadApplied := maskOf (V := 6225791) hw rfl
  repeat' (first
    | with_reducible rfl
    | with_reducible assumption
    | with_reducible apply leadApplied_fp k_leadApplied
    | with_reducible refine ite_fp ?_ ?_)

theorem execSceneTimeout_fp (s : State) (t : State) (h : execSceneTimeout s = .next t) :
    Fp 3171329 s t := by
  have hw : 3171329 &&& 3171329 = 3171329 := rfl
  unfold execSceneTimeout at h
  simp only [Host.Outcome.next.injEq] at h
  subst h
  have hz : Fp 3171329 s s := Fp.refl _ _
  have b21 := bitOf hw 21 rfl
  have k_sceneFails := maskOf (V := 1074177) hw rfl
  repeat' (first
    | with_reducible rfl
    | with_reducible assumption
    | with_reducible refine setSt_fp b21 _ _ ?_
    | with_reducible apply sceneFails_fp k_sceneFails
    | with_reducible refine ite_fp ?_ ?_
    | split)

theorem sceneGone_fp {fw : Nat} {fz : State} (hw : 1074177 &&& fw = 1074177) (s : State) (d : Nat)
    (hz : Fp fw fz s) : Fp fw fz (sceneGone s d) := by
  have k_sceneFails := maskOf (V := 1074177) hw rfl
  have k_sceneAnswer := maskOf (V := 1074177) hw rfl
  unfold sceneGone
  repeat' (first
    | with_reducible rfl
    | with_reducible assumption
    | with_reducible apply sceneFails_fp k_sceneFails
    | with_reducible apply sceneAnswer_fp k_sceneAnswer
    | with_reducible refine ite_fp ?_ ?_
    | split)

theorem rebuildPool_fp {fw : Nat} {fz : State} (hw : 6211147 &&& fw = 6211147) (s : State) (n : Nat)
    (hz : Fp fw fz s) : Fp fw fz (rebuildPool s n) := by
  have b9 := bitOf hw 9 rfl
  have k_drawBlocks := maskOf (V := 513) hw rfl
  have k_onCall := maskOf (V := 8) hw rfl
  have k_announceBlocks := maskOf (V := 6211147) hw rfl
  unfold rebuildPool
  repeat' (first
    | with_reducible rfl
    | with_reducible assumption
    | with_reducible refine onMdw_fp b9 _ _ ?_ ?_
    | with_reducible apply drawBlocks_fp k_drawBlocks (by assumption)
    | with_reducible apply drawBlocks_fp1 k_drawBlocks
    | with_reducible apply onCall_fp k_onCall
    | with_reducible apply announceBlocks_fp k_announceBlocks
    | with_reducible refine foldl_fp _ _ (fun _ _ _ => ?_) ?_)

theorem leadMoves_fp1 {fw : Nat} {fz : State} (hw : 1573895 &&& fw = 1573895) (s : State) (fn callId company lead tag : Nat)
    (hz : Fp fw fz s) : Fp fw fz (leadMoves s fn callId company lead tag).1 := by
  have k_forwardReady := maskOf (V := 1573895) hw rfl
  have k_onEnt := maskOf (V := 2) hw rfl
  unfold leadMoves
  repeat' (first
    | with_reducible rfl
    | with_reducible assumption
    | with_reducible apply forwardReady_fp k_forwardReady
    | with_reducible apply onEnt_fp k_onEnt
    | with_reducible refine ite_fp ?_ ?_
    | split)

theorem leadMoves_fp {fw : Nat} {fz t : State} (hw : 1573895 &&& fw = 1573895) {s : State} {fn callId company lead tag : Nat} {x}
    (he : leadMoves s fn callId company lead tag = (t, x)) (hz : Fp fw fz s) : Fp fw fz t := by
  have k := leadMoves_fp1 hw s fn callId company lead tag hz
  rwa [he] at k

theorem callGone_fp {fw : Nat} {fz : State} (hw : 6211147 &&& fw = 6211147) (s : State) (fn callId src : Nat)
    (hz : Fp fw fz s) : Fp fw fz (callGone s fn callId src) := by
  have b3 := bitOf hw 3 rfl
  have k_announceTable := maskOf (V := 6211147) hw rfl
  have k_sweepBlocks := maskOf (V := 512) hw rfl
  unfold callGone
  repeat' (first
    | with_reducible rfl
    | with_reducible assumption
    | with_reducible refine onStm_fp b3 _ _ ?_
    | with_reducible apply announceTable_fp k_announceTable
    | with_reducible apply sweepBlocks_fp k_sweepBlocks
    | split)

theorem leadTold_fp {fw : Nat} {fz : State} (hw : 1573895 &&& fw = 1573895) (s : State) (src callId detail : Nat)
    (hz : Fp fw fz s) : Fp fw fz (leadTold s src callId detail) := by
  have k_leadMoves := maskOf (V := 1573895) hw rfl
  have k_tellDevs := maskOf (V := 1049601) hw rfl
  unfold leadTold
  repeat' (first
    | with_reducible rfl
    | with_reducible assumption
    | with_reducible apply leadMoves_fp k_leadMoves (by assumption)
    | with_reducible apply leadMoves_fp1 k_leadMoves
    | with_reducible apply tellDevs_fp k_tellDevs
    | with_reducible refine ite_fp ?_ ?_)

theorem restartEnd_fp {fw : Nat} {fz : State} (hw : 1573895 &&& fw = 1573895) (s : State) (r : Rec)
    (hz : Fp fw fz s) : Fp fw fz (restartEnd s r) := by
  have k_endLostHere := maskOf (V := 1573895) hw rfl
  have k_reply := maskOf (V := 1049601) hw rfl
  unfold restartEnd
  repeat' (first
    | with_reducible rfl
    | with_reducible assumption
    | with_reducible apply endLostHere_fp k_endLostHere
    | with_reducible apply reply_fp k_reply
    | with_reducible refine ite_fp ?_ ?_)

theorem restartTake_fp {fw : Nat} {fz : State} (hw : 6211407 &&& fw = 6211407) (same : Bool) (imgs : List (Nat × Nat × Nat × Nat × List Byte)) (s : State) (r : Rec)
    (hz : Fp fw fz s) : Fp fw fz (restartTake same imgs s r) := by
  have k_takeTag := maskOf (V := 1024) hw rfl
  have k_restartEnd := maskOf (V := 1573895) hw rfl
  have k_takeIn := maskOf (V := 6211403) hw rfl
  have k_onCall := maskOf (V := 8) hw rfl
  have k_leadMoves := maskOf (V := 1573895) hw rfl
  have k_callGone := maskOf (V := 6211147) hw rfl
  have k_tellDevs := maskOf (V := 1049601) hw rfl
  unfold restartTake
  repeat' (first
    | with_reducible rfl
    | with_reducible assumption
    | with_reducible apply takeTag_fp k_takeTag (by assumption)
    | with_reducible apply takeTag_fp1 k_takeTag
    | with_reducible apply restartEnd_fp k_restartEnd
    | with_reducible apply takeIn_fp k_takeIn (by assumption)
    | with_reducible apply takeIn_fp1 k_takeIn
    | with_reducible apply onCall_fp k_onCall
    | with_reducible apply leadMoves_fp k_leadMoves (by assumption)
    | with_reducible apply leadMoves_fp1 k_leadMoves
    | with_reducible apply callGone_fp k_callGone
    | with_reducible apply tellDevs_fp k_tellDevs
    | with_reducible refine ite_fp ?_ ?_
    | split)

theorem restartCalls_fp {fw : Nat} {fz : State} (hw : 6211407 &&& fw = 6211407) (s : State) (n : Nat) (c : Scene)
    (hz : Fp fw fz s) : Fp fw fz (restartCalls s n c) := by
  have b3 := bitOf hw 3 rfl
  have b14 := bitOf hw 14 rfl
  have k_restartTake := maskOf (V := 6211407) hw rfl
  have k_endCall := maskOf (V := 6211151) hw rfl
  have k_rebuildPool := maskOf (V := 6211147) hw rfl
  have k_fillOwn := maskOf (V := 5260801) hw rfl
  have k_endReads := maskOf (V := 16384) hw rfl
  unfold restartCalls
  repeat' (first
    | with_reducible rfl
    | with_reducible assumption
    | with_reducible refine onStm_fp b3 _ _ ?_
    | with_reducible refine onUnd_fp b14 _ _ ?_
    | with_reducible apply restartTake_fp k_restartTake
    | with_reducible apply endCall_fp k_endCall
    | with_reducible apply rebuildPool_fp k_rebuildPool
    | with_reducible apply fillOwn_fp k_fillOwn
    | with_reducible apply endReads_fp k_endReads
    | with_reducible refine foldl_fp _ _ (fun _ _ _ => ?_) ?_
    | with_reducible refine foldlFst_fp _ _ (fun _ _ _ => ?_) ?_
    | with_reducible refine foldlSnd_fp _ _ (fun _ _ _ => ?_) ?_
    | with_reducible refine ite_fp ?_ ?_
    | split)

theorem sceneRestart_fp {fw : Nat} {fz : State} (hw : 6225791 &&& fw = 6225791) (s : State) (n : Nat) (c : Scene)
    (hz : Fp fw fz s) : Fp fw fz (sceneRestart s n c) := by
  have b13 := bitOf hw 13 rfl
  have k_readCut := maskOf (V := 6225791) hw rfl
  have k_sceneFails := maskOf (V := 1074177) hw rfl
  have k_restartCalls := maskOf (V := 6211407) hw rfl
  have k_tellDevs := maskOf (V := 1049601) hw rfl
  have k_clearLost := maskOf (V := 17408) hw rfl
  have k_set := maskOf (V := 1) hw rfl
  have k_setScene := maskOf (V := 1) hw rfl
  unfold sceneRestart
  repeat' (first
    | with_reducible rfl
    | with_reducible assumption
    | with_reducible refine onSpl_fp b13 _ _ ?_
    | with_reducible apply readCut_fp k_readCut
    | with_reducible apply sceneFails_fp k_sceneFails
    | with_reducible apply restartCalls_fp k_restartCalls
    | with_reducible apply tellDevs_fp k_tellDevs
    | with_reducible apply clearLost_fp k_clearLost
    | with_reducible apply set_fp k_set
    | with_reducible apply setScene_fp k_setScene
    | with_reducible refine ite_fp ?_ ?_)

theorem sceneBoundary_fp {fw : Nat} {fz : State} (hw : 6225791 &&& fw = 6225791) (s : State) (n : Nat)
    (hz : Fp fw fz s) : Fp fw fz (sceneBoundary s n) := by
  have k_setScene := maskOf (V := 1) hw rfl
  have k_sceneRestart := maskOf (V := 6225791) hw rfl
  unfold sceneBoundary
  repeat' (first
    | with_reducible rfl
    | with_reducible assumption
    | with_reducible apply setScene_fp k_setScene
    | with_reducible apply sceneRestart_fp k_sceneRestart
    | with_reducible refine ite_fp ?_ ?_
    | split)

end Sys2Proof.Machine
end

