-- ==== Sys2Proof/Laws/FootPromptBook.lean ====
section
/-!
SUPPORT. Footprints of the operations of Machine/PromptBook.lean: what each may touch (Fp).
-/
namespace Sys2Proof.Machine

theorem sealFrame_fp1 {fw : Nat} {fz : State} (hw : 196609 &&& fw = 196609) (s : State) (seq : Nat) (f : Option Nat × List BookRec)
    (hz : Fp fw fz s) : Fp fw fz (sealFrame s seq f).2 := by
  have k_takeIv := maskOf (V := 196609) hw rfl
  unfold sealFrame
  repeat' (first
    | with_reducible rfl
    | with_reducible assumption
    | with_reducible apply takeIv_fp k_takeIv (by assumption)
    | with_reducible apply takeIv_fp1 k_takeIv)

theorem sealFrame_fp {fw : Nat} {fz t : State} (hw : 196609 &&& fw = 196609) {s : State} {seq : Nat} {f : Option Nat × List BookRec} {x}
    (he : sealFrame s seq f = (x, t)) (hz : Fp fw fz s) : Fp fw fz t := by
  have k := sealFrame_fp1 hw s seq f hz
  rwa [he] at k

theorem sealFrames_fp1 {fw : Nat} {fz : State} (hw : 196609 &&& fw = 196609) (s : State) (seq : Nat) (fs : List (Option Nat × List BookRec))
    (hz : Fp fw fz s) : Fp fw fz (sealFrames s seq fs).2 := by
  have k_sealFrame := maskOf (V := 196609) hw rfl
  unfold sealFrames
  repeat' (first
    | with_reducible rfl
    | with_reducible assumption
    | with_reducible apply sealFrame_fp k_sealFrame (by assumption)
    | with_reducible apply sealFrame_fp1 k_sealFrame
    | with_reducible refine foldl_fp _ _ (fun _ _ _ => ?_) ?_
    | with_reducible refine foldlFst_fp _ _ (fun _ _ _ => ?_) ?_
    | with_reducible refine foldlSnd_fp _ _ (fun _ _ _ => ?_) ?_)

theorem sealFrames_fp {fw : Nat} {fz t : State} (hw : 196609 &&& fw = 196609) {s : State} {seq : Nat} {fs : List (Option Nat × List BookRec)} {x}
    (he : sealFrames s seq fs = (x, t)) (hz : Fp fw fz s) : Fp fw fz t := by
  have k := sealFrames_fp1 hw s seq fs hz
  rwa [he] at k

theorem areaWrite_fp {fw : Nat} {fz : State} (hw : 1048576 &&& fw = 1048576) (s : State) (off : Nat) (bs : List Byte)
    (hz : Fp fw fz s) : Fp fw fz (areaWrite s off bs) := by
  have b20 := bitOf hw 20 rfl
  unfold areaWrite
  repeat' (first
    | with_reducible rfl
    | with_reducible assumption
    | with_reducible refine onOut_fp b20 _ _ ?_)

theorem capPut_fp {fw : Nat} {fz : State} (hw : 1081345 &&& fw = 1081345) (s : State) (bs : List Byte)
    (hz : Fp fw fz s) : Fp fw fz (capPut s bs) := by
  have b15 := bitOf hw 15 rfl
  have k_areaWrite := maskOf (V := 1048576) hw rfl
  have k_set := maskOf (V := 1) hw rfl
  unfold capPut
  repeat' (first
    | with_reducible rfl
    | with_reducible assumption
    | with_reducible refine onPbk_fp b15 _ _ ?_
    | with_reducible apply areaWrite_fp k_areaWrite
    | with_reducible apply set_fp k_set)

theorem closeFrames_fp {fw : Nat} {fz : State} (hw : 1277953 &&& fw = 1277953) (s : State) (rs : List BookRec)
    (hz : Fp fw fz s) : Fp fw fz (closeFrames s rs) := by
  have b15 := bitOf hw 15 rfl
  have k_set := maskOf (V := 1) hw rfl
  have k_sealFrames := maskOf (V := 196609) hw rfl
  have k_capPut := maskOf (V := 1081345) hw rfl
  unfold closeFrames
  repeat' (first
    | with_reducible rfl
    | with_reducible assumption
    | with_reducible refine onPbk_fp b15 _ _ ?_
    | with_reducible apply set_fp k_set
    | with_reducible apply sealFrames_fp k_sealFrames (by assumption)
    | with_reducible apply sealFrames_fp1 k_sealFrames
    | with_reducible apply capPut_fp k_capPut
    | with_reducible refine ite_fp ?_ ?_)

theorem closeCapsule_fp {fw : Nat} {fz : State} (hw : 1277953 &&& fw = 1277953) (s : State) (n : Nat)
    (hz : Fp fw fz s) : Fp fw fz (closeCapsule s n) := by
  have b15 := bitOf hw 15 rfl
  have k_set := maskOf (V := 1) hw rfl
  have k_sealFrames := maskOf (V := 196609) hw rfl
  have k_capPut := maskOf (V := 1081345) hw rfl
  have k_areaWrite := maskOf (V := 1048576) hw rfl
  have k_inc := maskOf (V := 1) hw rfl
  unfold closeCapsule
  repeat' (first
    | with_reducible rfl
    | with_reducible assumption
    | with_reducible refine onPbk_fp b15 _ _ ?_
    | with_reducible apply set_fp k_set
    | with_reducible apply sealFrames_fp k_sealFrames (by assumption)
    | with_reducible apply sealFrames_fp1 k_sealFrames
    | with_reducible apply capPut_fp k_capPut
    | with_reducible apply areaWrite_fp k_areaWrite
    | with_reducible apply inc_fp k_inc
    | with_reducible refine ite_fp ?_ ?_)

theorem putEmit_fp {fw : Nat} {fz : State} (hw : 1278977 &&& fw = 1278977) (s : State)
    (hz : Fp fw fz s) : Fp fw fz (putEmit s) := by
  have b15 := bitOf hw 15 rfl
  have k_emit := maskOf (V := 1049600) hw rfl
  have k_sealFrames := maskOf (V := 196609) hw rfl
  have k_capPut := maskOf (V := 1081345) hw rfl
  have k_areaWrite := maskOf (V := 1048576) hw rfl
  unfold putEmit
  repeat' (first
    | with_reducible rfl
    | with_reducible assumption
    | with_reducible refine onPbk_fp b15 _ _ ?_
    | with_reducible apply emit_fp k_emit
    | with_reducible apply sealFrames_fp k_sealFrames (by assumption)
    | with_reducible apply sealFrames_fp1 k_sealFrames
    | with_reducible apply capPut_fp k_capPut
    | with_reducible apply areaWrite_fp k_areaWrite
    | with_reducible refine ite_fp ?_ ?_)

theorem openCapsule_fp {fw : Nat} {fz : State} (hw : 1278977 &&& fw = 1278977) (s : State) (n : Nat)
    (hz : Fp fw fz s) : Fp fw fz (openCapsule s n) := by
  have b15 := bitOf hw 15 rfl
  have k_putEmit := maskOf (V := 1278977) hw rfl
  have k_set := maskOf (V := 1) hw rfl
  unfold openCapsule
  repeat' (first
    | with_reducible rfl
    | with_reducible assumption
    | with_reducible refine onPbk_fp b15 _ _ ?_
    | with_reducible apply putEmit_fp k_putEmit
    | with_reducible apply set_fp k_set)

theorem bookLoss_fp {fw : Nat} {fz : State} (hw : 32769 &&& fw = 32769) (s : State)
    (hz : Fp fw fz s) : Fp fw fz (bookLoss s) := by
  have b15 := bitOf hw 15 rfl
  have k_book := maskOf (V := 32769) hw rfl
  unfold bookLoss
  repeat' (first
    | with_reducible rfl
    | with_reducible assumption
    | with_reducible refine onPbk_fp b15 _ _ ?_
    | with_reducible apply book_fp k_book
    | with_reducible refine ite_fp ?_ ?_)

theorem bookBoundary_fp {fw : Nat} {fz : State} (hw : 1803265 &&& fw = 1803265) (s : State) (n : Nat) (cut : Bool)
    (hz : Fp fw fz s) : Fp fw fz (bookBoundary s n cut) := by
  have b15 := bitOf hw 15 rfl
  have k_bookAt := maskOf (V := 32769) hw rfl
  have k_closeFrames := maskOf (V := 1277953) hw rfl
  have k_openCapsule := maskOf (V := 1278977) hw rfl
  have k_closeCapsule := maskOf (V := 1277953) hw rfl
  have k_bookLoss := maskOf (V := 32769) hw rfl
  have k_wmUpdate := maskOf (V := 524289) hw rfl
  unfold bookBoundary
  repeat' (first
    | with_reducible rfl
    | with_reducible assumption
    | with_reducible refine onPbk_fp b15 _ _ ?_
    | with_reducible apply bookAt_fp k_bookAt
    | with_reducible apply closeFrames_fp k_closeFrames
    | with_reducible apply openCapsule_fp k_openCapsule
    | with_reducible apply closeCapsule_fp k_closeCapsule
    | with_reducible apply bookLoss_fp k_bookLoss
    | with_reducible apply wmUpdate_fp k_wmUpdate
    | with_reducible refine ite_fp ?_ ?_)

theorem endReplay_fp {fw : Nat} {fz : State} (hw : 6291327 &&& fw = 6291327) (s : State) (result : Nat)
    (hz : Fp fw fz s) : Fp fw fz (endReplay s result) := by
  have b3 := bitOf hw 3 rfl
  have b15 := bitOf hw 15 rfl
  have k_announceTable := maskOf (V := 6211147) hw rfl
  have k_dropHeath := maskOf (V := 513) hw rfl
  have k_set := maskOf (V := 1) hw rfl
  have k_sweepBlocks := maskOf (V := 512) hw rfl
  have k_replay := maskOf (V := 6225791) hw rfl
  have k_emit := maskOf (V := 1049600) hw rfl
  have k_putEmit := maskOf (V := 1278977) hw rfl
  have k_endReads := maskOf (V := 16384) hw rfl
  unfold endReplay
  repeat' (first
    | with_reducible rfl
    | with_reducible assumption
    | with_reducible refine onStm_fp b3 _ _ ?_
    | with_reducible refine onPbk_fp b15 _ _ ?_
    | with_reducible apply announceTable_fp k_announceTable
    | with_reducible apply dropHeath_fp k_dropHeath
    | with_reducible apply set_fp k_set
    | with_reducible apply sweepBlocks_fp k_sweepBlocks
    | with_reducible apply replay_fp k_replay
    | with_reducible apply emit_fp k_emit
    | with_reducible apply putEmit_fp k_putEmit
    | with_reducible apply endReads_fp k_endReads
    | with_reducible refine foldl_fp _ _ (fun _ _ _ => ?_) ?_)

theorem execReplayGo_fp (v : Word) (s : State) (t : State) (h : execReplayGo v s = .next t) :
    Fp 6291327 s t := by
  have hw : 6291327 &&& 6291327 = 6291327 := rfl
  unfold execReplayGo at h
  simp only [Host.Outcome.next.injEq] at h
  subst h
  have hz : Fp 6291327 s s := Fp.refl _ _
  have b14 := bitOf hw 14 rfl
  have b15 := bitOf hw 15 rfl
  have k_commandWord := maskOf (V := 729107) hw rfl
  have k_set := maskOf (V := 1) hw rfl
  have k_replay := maskOf (V := 6225791) hw rfl
  have k_emit := maskOf (V := 1049600) hw rfl
  have k_tryManifest := maskOf (V := 6225791) hw rfl
  repeat' (first
    | with_reducible rfl
    | with_reducible assumption
    | with_reducible refine onUnd_fp b14 _ _ ?_
    | with_reducible refine onPbk_fp b15 _ _ ?_
    | with_reducible apply commandWord_fp k_commandWord
    | with_reducible apply set_fp k_set
    | with_reducible apply replay_fp k_replay
    | with_reducible apply emit_fp k_emit
    | with_reducible apply tryManifest_fp k_tryManifest
    | with_reducible refine ite_fp ?_ ?_
    | split)

theorem execReplayAbort_fp (v : Word) (s : State) (t : State) (h : execReplayAbort v s = .next t) :
    Fp 6291327 s t := by
  have hw : 6291327 &&& 6291327 = 6291327 := rfl
  unfold execReplayAbort at h
  simp only [Host.Outcome.next.injEq] at h
  subst h
  have hz : Fp 6291327 s s := Fp.refl _ _
  have k_commandWord := maskOf (V := 729107) hw rfl
  have k_endReplay := maskOf (V := 6291327) hw rfl
  repeat' (first
    | with_reducible rfl
    | with_reducible assumption
    | with_reducible apply commandWord_fp k_commandWord
    | with_reducible apply endReplay_fp k_endReplay
    | with_reducible refine ite_fp ?_ ?_)

theorem gatherCard_fp1 {fw : Nat} {fz : State} (hw : 6225791 &&& fw = 6225791) (s : State) (r : BookRec)
    (hz : Fp fw fz s) : Fp fw fz (gatherCard s r).1 := by
  have b15 := bitOf hw 15 rfl
  have k_replay := maskOf (V := 6225791) hw rfl
  unfold gatherCard
  repeat' (first
    | with_reducible rfl
    | with_reducible assumption
    | with_reducible refine onPbk_fp b15 _ _ ?_
    | with_reducible apply replay_fp k_replay
    | with_reducible refine ite_fp ?_ ?_
    | split
    | with_reducible dsimp only)

theorem gatherCard_fp {fw : Nat} {fz t : State} (hw : 6225791 &&& fw = 6225791) {s : State} {r : BookRec} {x}
    (he : gatherCard s r = (t, x)) (hz : Fp fw fz s) : Fp fw fz t := by
  have k := gatherCard_fp1 hw s r hz
  rwa [he] at k

theorem replayCard_fp1 {fw : Nat} {fz : State} (hw : 6225791 &&& fw = 6225791) (s : State) (r : BookRec)
    (hz : Fp fw fz s) : Fp fw fz (replayCard s r).1 := by
  have b3 := bitOf hw 3 rfl
  have k_gatherCard := maskOf (V := 6225791) hw rfl
  have k_drawBlocks := maskOf (V := 513) hw rfl
  have k_emitNotice := maskOf (V := 1082368) hw rfl
  have k_freeHandle := maskOf (V := 512) hw rfl
  have k_onCall := maskOf (V := 8) hw rfl
  unfold replayCard
  repeat' (first
    | with_reducible rfl
    | with_reducible assumption
    | with_reducible refine onStm_fp b3 _ _ ?_
    | with_reducible apply gatherCard_fp k_gatherCard (by assumption)
    | with_reducible apply gatherCard_fp1 k_gatherCard
    | with_reducible apply drawBlocks_fp k_drawBlocks (by assumption)
    | with_reducible apply drawBlocks_fp1 k_drawBlocks
    | with_reducible apply emitNotice_fp k_emitNotice
    | with_reducible apply freeHandle_fp k_freeHandle
    | with_reducible apply onCall_fp k_onCall
    | with_reducible refine ite_fp ?_ ?_
    | split)

theorem replayCard_fp {fw : Nat} {fz t : State} (hw : 6225791 &&& fw = 6225791) {s : State} {r : BookRec} {x}
    (he : replayCard s r = (t, x)) (hz : Fp fw fz s) : Fp fw fz t := by
  have k := replayCard_fp1 hw s r hz
  rwa [he] at k

theorem replayOp_fp {fw : Nat} {fz : State} (hw : 6211151 &&& fw = 6211151) (s : State) (r : BookRec)
    (hz : Fp fw fz s) : Fp fw fz (replayOp s r) := by
  have k_releaseCall := maskOf (V := 6211151) hw rfl
  have k_resumeNow := maskOf (V := 6211151) hw rfl
  have k_onCall := maskOf (V := 8) hw rfl
  have k_freeHeath := maskOf (V := 1050113) hw rfl
  have k_continueNow := maskOf (V := 1606671) hw rfl
  have k_pauseNow := maskOf (V := 1082377) hw rfl
  unfold replayOp
  repeat' (first
    | with_reducible rfl
    | with_reducible assumption
    | with_reducible apply releaseCall_fp k_releaseCall
    | with_reducible apply resumeNow_fp k_resumeNow
    | with_reducible apply onCall_fp k_onCall
    | with_reducible apply freeHeath_fp k_freeHeath
    | with_reducible apply continueNow_fp k_continueNow
    | with_reducible apply pauseNow_fp k_pauseNow
    | with_reducible refine ite_fp ?_ ?_
    | split)

theorem setReplayCue_fp {fw : Nat} {fz : State} (hw : 1 &&& fw = 1) (s : State) (cue : Nat)
    (hz : Fp fw fz s) : Fp fw fz (setReplayCue s cue) := by
  have k_set := maskOf (V := 1) hw rfl
  unfold setReplayCue
  repeat' (first
    | with_reducible rfl
    | with_reducible assumption
    | with_reducible apply set_fp k_set)

theorem replayLines_fp1 {fw : Nat} {fz : State} (hw : 1 &&& fw = 1) (s : State) (r : BookRec)
    (hz : Fp fw fz s) : Fp fw fz (replayLines s r).1 := by
  have k_setReplayCue := maskOf (V := 1) hw rfl
  have k_set := maskOf (V := 1) hw rfl
  unfold replayLines
  repeat' (first
    | with_reducible rfl
    | with_reducible assumption
    | with_reducible apply setReplayCue_fp k_setReplayCue
    | with_reducible apply set_fp k_set
    | with_reducible refine ite_fp ?_ ?_
    | split)

theorem replayLines_fp {fw : Nat} {fz t : State} (hw : 1 &&& fw = 1) {s : State} {r : BookRec} {x}
    (he : replayLines s r = (t, x)) (hz : Fp fw fz s) : Fp fw fz t := by
  have k := replayLines_fp1 hw s r hz
  rwa [he] at k

theorem replayCompose_fp1 {fw : Nat} {fz : State} (hw : 6225919 &&& fw = 6225919) (s : State) (n : Nat) (r : BookRec)
    (hz : Fp fw fz s) : Fp fw fz (replayCompose s n r).1 := by
  have b3 := bitOf hw 3 rfl
  have b15 := bitOf hw 15 rfl
  unfold replayCompose
  extract_lets xs ofK slotOf budgets ov s1 credit s2 s3 toks h record d
  have h3 : Fp fw fz s3 := setReplayCue_fp (maskOf hw rfl) _ _
    (composeCue_fp (maskOf hw rfl) _ _ _ (onStm_fp b3 _ _ (onPbk_fp b15 _ _ hz)))
  clear_value d s3
  split
  · exact h3
  · exact set_fp (maskOf hw rfl) _ _ _ h3

theorem replayRecords_fp1 {fw : Nat} {fz : State} (hw : 6225919 &&& fw = 6225919) (n : Nat) (k : Nat) (s : State)
    (hz : Fp fw fz s) : Fp fw fz (replayRecords n k s).1 := by
  have b15 := bitOf hw 15 rfl
  have k_replay := maskOf (V := 6225791) hw rfl
  have k_replayCompose := maskOf (V := 6225919) hw rfl
  have k_replayCard := maskOf (V := 6225791) hw rfl
  have k_replayOp := maskOf (V := 6211151) hw rfl
  have k_endCall := maskOf (V := 6211151) hw rfl
  have k_replayLines := maskOf (V := 1) hw rfl
  induction k generalizing s with
  | zero =>
    unfold replayRecords
    repeat' (first
      | with_reducible assumption)
  | succ n ih =>
    unfold replayRecords
    repeat' (first
      | with_reducible rfl
      | with_reducible assumption
      | with_reducible apply ih
      | with_reducible refine onPbk_fp b15 _ _ ?_
      | with_reducible apply replay_fp k_replay
      | with_reducible apply replayCompose_fp1 k_replayCompose
      | with_reducible apply replayCard_fp k_replayCard (by assumption)
      | with_reducible apply replayCard_fp1 k_replayCard
      | with_reducible apply replayOp_fp k_replayOp
      | with_reducible apply endCall_fp k_endCall
      | with_reducible apply replayLines_fp k_replayLines (by assumption)
      | with_reducible apply replayLines_fp1 k_replayLines
      | with_reducible refine ite_fp ?_ ?_
      | split
      | with_reducible dsimp only)

theorem replayRecords_fp {fw : Nat} {fz t : State} (hw : 6225919 &&& fw = 6225919) {n : Nat} {k : Nat} {s : State} {x}
    (he : replayRecords n k s = (t, x)) (hz : Fp fw fz s) : Fp fw fz t := by
  have k := replayRecords_fp1 hw n k s hz
  rwa [he] at k

theorem replayCue_fp {fw : Nat} {fz : State} (hw : 6291455 &&& fw = 6291455) (s : State) (n : Nat)
    (hz : Fp fw fz s) : Fp fw fz (replayCue s n) := by
  have k_replayRecords := maskOf (V := 6225919) hw rfl
  have k_replay := maskOf (V := 6225791) hw rfl
  have k_endReplay := maskOf (V := 6291327) hw rfl
  unfold replayCue
  repeat' (first
    | with_reducible rfl
    | with_reducible assumption
    | with_reducible apply replayRecords_fp k_replayRecords (by assumption)
    | with_reducible apply replayRecords_fp1 k_replayRecords
    | with_reducible apply replay_fp k_replay
    | with_reducible apply endReplay_fp k_endReplay
    | split)

end Sys2Proof.Machine
end

