-- ==== Sys2Proof/Laws/FootCueLine.lean ====
section
/-!
SUPPORT. Footprints of the operations of Machine/CueLine.lean: what each may touch (Fp).
-/
namespace Sys2Proof.Machine

theorem loseLock_fp {fw : Nat} {fz : State} (hw : 17 &&& fw = 17) (s : State)
    (hz : Fp fw fz s) : Fp fw fz (loseLock s) := by
  have b4 := bitOf hw 4 rfl
  have k_set := maskOf (V := 1) hw rfl
  unfold loseLock
  repeat' (first
    | with_reducible rfl
    | with_reducible assumption
    | with_reducible refine onCue_fp b4 _ _ ?_ ?_ ?_
    | with_reducible apply set_fp k_set
    | with_reducible refine ite_fp ?_ ?_)

theorem becomeRoot_fp {fw : Nat} {fz : State} (hw : 17 &&& fw = 17) (s : State) (primary : Bool)
    (hz : Fp fw fz s) : Fp fw fz (becomeRoot s primary) := by
  have b4 := bitOf hw 4 rfl
  have k_set := maskOf (V := 1) hw rfl
  unfold becomeRoot
  repeat' (first
    | with_reducible rfl
    | with_reducible assumption
    | with_reducible refine onCue_fp b4 _ _ ?_ ?_ ?_
    | with_reducible apply set_fp k_set)

theorem setFirst_fp {fw : Nat} {fz : State} (hw : 16 &&& fw = 16) (s : State)
    (hz : Fp fw fz s) : Fp fw fz (setFirst s) := by
  have b4 := bitOf hw 4 rfl
  unfold setFirst
  repeat' (first
    | with_reducible rfl
    | with_reducible assumption
    | with_reducible refine onCue_fp b4 _ _ ?_ ?_ ?_
    | with_reducible refine ite_fp ?_ ?_)

theorem putAnchor_fp {fw : Nat} {fz : State} (hw : 17 &&& fw = 17) (s : State) (ac ast p : Nat)
    (hz : Fp fw fz s) : Fp fw fz (putAnchor s ac ast p) := by
  have b4 := bitOf hw 4 rfl
  have k_set := maskOf (V := 1) hw rfl
  unfold putAnchor
  repeat' (first
    | with_reducible rfl
    | with_reducible assumption
    | with_reducible refine onCue_fp b4 _ _ ?_ ?_ ?_
    | with_reducible apply set_fp k_set)

theorem enterRoot_fp {fw : Nat} {fz : State} (hw : 17 &&& fw = 17) (s : State) (primary : Bool)
    (hz : Fp fw fz s) : Fp fw fz (enterRoot s primary) := by
  have k_becomeRoot := maskOf (V := 17) hw rfl
  have k_setFirst := maskOf (V := 16) hw rfl
  have k_putAnchor := maskOf (V := 17) hw rfl
  unfold enterRoot
  repeat' (first
    | with_reducible rfl
    | with_reducible assumption
    | with_reducible apply becomeRoot_fp k_becomeRoot
    | with_reducible apply setFirst_fp k_setFirst
    | with_reducible apply putAnchor_fp k_putAnchor
    | with_reducible refine ite_fp ?_ ?_
    | split)

theorem cueTopo_fp {fw : Nat} {fz : State} (hw : 17 &&& fw = 17) (s : State)
    (hz : Fp fw fz s) : Fp fw fz (cueTopo s) := by
  have b4 := bitOf hw 4 rfl
  have k_setFirst := maskOf (V := 16) hw rfl
  have k_becomeRoot := maskOf (V := 17) hw rfl
  have k_enterRoot := maskOf (V := 17) hw rfl
  have k_loseLock := maskOf (V := 17) hw rfl
  have k_set := maskOf (V := 1) hw rfl
  unfold cueTopo
  repeat' (first
    | with_reducible rfl
    | with_reducible assumption
    | with_reducible refine onCue_fp b4 _ _ ?_ ?_ ?_
    | with_reducible apply setFirst_fp k_setFirst
    | with_reducible apply becomeRoot_fp k_becomeRoot
    | with_reducible apply enterRoot_fp k_enterRoot
    | with_reducible apply loseLock_fp k_loseLock
    | with_reducible apply set_fp k_set
    | with_reducible refine ite_fp ?_ ?_)

end Sys2Proof.Machine
end

