-- ==== Sys2Proof/Laws/FootFabric.lean ====
section
/-!
SUPPORT. Footprints of the operations of Machine/Fabric.lean: what each may touch (Fp).
-/
namespace Sys2Proof.Machine

theorem setLink_fp {fw : Nat} {fz : State} (hw : 1 &&& fw = 1) (s : State) (l st : Nat)
    (hz : Fp fw fz s) : Fp fw fz (setLink s l st) := by
  have k_set := maskOf (V := 1) hw rfl
  unfold setLink
  repeat' (first
    | with_reducible rfl
    | with_reducible assumption
    | with_reducible apply set_fp k_set)

theorem ctrl_fp {fw : Nat} {fz : State} (hw : 1048576 &&& fw = 1048576) (s : State) (l kind v : Nat)
    (hz : Fp fw fz s) : Fp fw fz (ctrl s l kind v) := by
  have b20 := bitOf hw 20 rfl
  unfold ctrl
  repeat' (first
    | with_reducible rfl
    | with_reducible assumption
    | with_reducible refine onOut_fp b20 _ _ ?_
    | with_reducible refine ite_fp ?_ ?_)

theorem drbgTake_fp {fw : Nat} {fz t : State} (hw : 65665 &&& fw = 65665) {s : State} {x : Nat}
    (he : drbgTake s = some (x, t)) (hz : Fp fw fz s) : Fp fw fz t := by
  have b16 := bitOf hw 16 rfl
  unfold drbgTake at he
  split at he
  · simp only [reduceCtorEq] at he
  · rw [Option.map_eq_some_iff] at he
    obtain ⟨d, -, he⟩ := he
    rw [Prod.mk.injEq] at he
    rw [← he.2]
    have k := onSdr_fp b16 s (fun x => { x with drbg := some (Config.drbgGen d).2, gens := x.gens + 1 }) rfl rfl hz
    exact ite_fp (windRequest_fp (maskOf hw rfl) _ _ k) k

theorem entropyFail_fp {fw : Nat} {fz : State} (hw : 196609 &&& fw = 196609) (s : State) (spdm : Bool)
    (hz : Fp fw fz s) : Fp fw fz (entropyFail s spdm) := by
  have k_audit := maskOf (V := 196609) hw rfl
  unfold entropyFail
  repeat' (first
    | with_reducible rfl
    | with_reducible assumption
    | with_reducible apply audit_fp k_audit)

theorem pendFails_fp {fw : Nat} {fz : State} (hw : 6225791 &&& fw = 6225791) (s : State) (p : Pend)
    (hz : Fp fw fz s) : Fp fw fz (pendFails s p) := by
  have b10 := bitOf hw 10 rfl
  have k_inc := maskOf (V := 1) hw rfl
  have k_issueWaiting := maskOf (V := 1049601) hw rfl
  have k_set := maskOf (V := 1) hw rfl
  have k_forwardReady := maskOf (V := 1573895) hw rfl
  have k_refuseSlot := maskOf (V := 524291) hw rfl
  have k_onSlot := maskOf (V := 2) hw rfl
  have k_restAnswer := maskOf (V := 6211147) hw rfl
  have k_shardFailed := maskOf (V := 6225791) hw rfl
  have k_runTokens := maskOf (V := 1999919) hw rfl
  unfold pendFails
  repeat' (first
    | with_reducible rfl
    | with_reducible assumption
    | with_reducible refine onFab_fp b10 _ _ ?_ ?_
    | with_reducible simp only []
    | with_reducible apply inc_fp k_inc
    | with_reducible apply issueWaiting_fp k_issueWaiting
    | with_reducible apply set_fp k_set
    | with_reducible apply forwardReady_fp k_forwardReady
    | with_reducible apply refuseSlot_fp k_refuseSlot
    | with_reducible apply onSlot_fp k_onSlot
    | with_reducible apply restAnswer_fp k_restAnswer
    | with_reducible apply shardFailed_fp k_shardFailed
    | with_reducible apply runTokens_fp k_runTokens
    | with_reducible refine ite_fp ?_ ?_
    | split)

theorem reSend_fp {fw : Nat} {fz : State} (hw : 1049601 &&& fw = 1049601) (s : State) (p : Packet)
    (hz : Fp fw fz s) : Fp fw fz (reSend s p) := by
  have k_emit := maskOf (V := 1049600) hw rfl
  have k_inc := maskOf (V := 1) hw rfl
  unfold reSend
  repeat' (first
    | with_reducible rfl
    | with_reducible assumption
    | with_reducible apply emit_fp k_emit
    | with_reducible apply inc_fp k_inc
    | split)

theorem sendHeld_fp {fw : Nat} {fz : State} (hw : 1049601 &&& fw = 1049601) (s : State)
    (hz : Fp fw fz s) : Fp fw fz (sendHeld s) := by
  have b10 := bitOf hw 10 rfl
  have k_reSend := maskOf (V := 1049601) hw rfl
  unfold sendHeld
  repeat' (first
    | with_reducible rfl
    | with_reducible assumption
    | with_reducible refine onFab_fp b10 _ _ ?_ ?_
    | with_reducible simp only [List.length_map, List.length_set, List.length_mapIdx, List.length_modify]
    | with_reducible apply reSend_fp k_reSend
    | with_reducible refine foldl_fp _ _ (fun _ _ _ => ?_) ?_)

theorem dropTransit_fp {fw : Nat} {fz : State} (hw : 527361 &&& fw = 527361) (s : State)
    (hz : Fp fw fz s) : Fp fw fz (dropTransit s) := by
  have k_onSw := maskOf (V := 2048) hw rfl
  have k_owe := maskOf (V := 1024) hw rfl
  have k_wmUpdate := maskOf (V := 524289) hw rfl
  have k_inc := maskOf (V := 1) hw rfl
  unfold dropTransit
  repeat' (first
    | with_reducible rfl
    | with_reducible assumption
    | with_reducible apply onSw_fp k_onSw
    | with_reducible apply owe_fp k_owe
    | with_reducible apply wmUpdate_fp k_wmUpdate
    | with_reducible apply inc_fp k_inc
    | with_reducible refine foldl_fp _ _ (fun _ _ _ => ?_) ?_
    | with_reducible refine foldlFst_fp _ _ (fun _ _ _ => ?_) ?_
    | with_reducible refine foldlSnd_fp _ _ (fun _ _ _ => ?_) ?_
    | with_reducible refine ite_fp ?_ ?_)

theorem topoActs_fp {fw : Nat} {fz : State} (hw : 6225791 &&& fw = 6225791) (s : State) (d st : Nat)
    (hz : Fp fw fz s) : Fp fw fz (topoActs s d st) := by
  have k_pendFails := maskOf (V := 6225791) hw rfl
  have k_dropTransit := maskOf (V := 527361) hw rfl
  have k_sceneGone := maskOf (V := 1074177) hw rfl
  have k_cueTopo := maskOf (V := 17) hw rfl
  have k_sendHeld := maskOf (V := 1049601) hw rfl
  unfold topoActs
  repeat' (first
    | with_reducible rfl
    | with_reducible assumption
    | with_reducible apply pendFails_fp k_pendFails
    | with_reducible apply dropTransit_fp k_dropTransit
    | with_reducible apply sceneGone_fp k_sceneGone
    | with_reducible apply cueTopo_fp k_cueTopo
    | with_reducible apply sendHeld_fp k_sendHeld
    | with_reducible refine foldl_fp _ _ (fun _ _ _ => ?_) ?_
    | with_reducible refine foldlFst_fp _ _ (fun _ _ _ => ?_) ?_
    | with_reducible refine foldlSnd_fp _ _ (fun _ _ _ => ?_) ?_
    | with_reducible refine ite_fp ?_ ?_)

theorem updateTopo_fp {fw : Nat} {fz : State} (hw : 6225791 &&& fw = 6225791) (s : State) (d st ep : Nat) (but : Option Nat)
    (hz : Fp fw fz s) : Fp fw fz (updateTopo s d st ep but) := by
  have k_topoActs := maskOf (V := 6225791) hw rfl
  have k_announce := maskOf (V := 1048576) hw rfl
  have k_putTopo := maskOf (V := 1024) hw rfl
  unfold updateTopo
  repeat' (first
    | with_reducible rfl
    | with_reducible assumption
    | with_reducible apply topoActs_fp k_topoActs
    | with_reducible apply announce_fp k_announce
    | with_reducible apply putTopo_fp k_putTopo
    | with_reducible refine ite_fp ?_ ?_)

theorem declareAbsent_fp {fw : Nat} {fz : State} (hw : 6225791 &&& fw = 6225791) (s : State) (d : Nat)
    (hz : Fp fw fz s) : Fp fw fz (declareAbsent s d) := by
  have k_report := maskOf (V := 950275) hw rfl
  have k_topoActs := maskOf (V := 6225791) hw rfl
  have k_announce := maskOf (V := 1048576) hw rfl
  have k_putTopo := maskOf (V := 1024) hw rfl
  unfold declareAbsent
  repeat' (first
    | with_reducible rfl
    | with_reducible assumption
    | with_reducible apply report_fp k_report
    | with_reducible apply topoActs_fp k_topoActs
    | with_reducible apply announce_fp k_announce
    | with_reducible apply putTopo_fp k_putTopo)

theorem absenceCheck_fp {fw : Nat} {fz : State} (hw : 6225791 &&& fw = 6225791) (s : State) (d : Nat)
    (hz : Fp fw fz s) : Fp fw fz (absenceCheck s d) := by
  have k_declareAbsent := maskOf (V := 6225791) hw rfl
  unfold absenceCheck
  repeat' (first
    | with_reducible rfl
    | with_reducible assumption
    | with_reducible apply declareAbsent_fp k_declareAbsent
    | with_reducible refine ite_fp ?_ ?_)

theorem drainedNow_fp {fw : Nat} {fz : State} (hw : 528385 &&& fw = 528385) (s : State)
    (hz : Fp fw fz s) : Fp fw fz (drainedNow s) := by
  have b19 := bitOf hw 19 rfl
  have k_set := maskOf (V := 1) hw rfl
  have k_tripFall := maskOf (V := 4097) hw rfl
  unfold drainedNow
  repeat' (first
    | with_reducible rfl
    | with_reducible assumption
    | with_reducible refine onBrd_fp b19 _ _ ?_
    | with_reducible apply set_fp k_set
    | with_reducible apply tripFall_fp k_tripFall
    | with_reducible refine ite_fp ?_ ?_)

theorem checkDrained_fp {fw : Nat} {fz : State} (hw : 528385 &&& fw = 528385) (s : State)
    (hz : Fp fw fz s) : Fp fw fz (checkDrained s) := by
  have k_drainedNow := maskOf (V := 528385) hw rfl
  unfold checkDrained
  repeat' (first
    | with_reducible rfl
    | with_reducible assumption
    | with_reducible apply drainedNow_fp k_drainedNow
    | with_reducible refine ite_fp ?_ ?_)

theorem leaveUp_fp {fw : Nat} {fz : State} (hw : 6225791 &&& fw = 6225791) (s : State) (l : Nat)
    (hz : Fp fw fz s) : Fp fw fz (leaveUp s l) := by
  have k_report := maskOf (V := 950275) hw rfl
  have k_onLink := maskOf (V := 1024) hw rfl
  have k_setLink := maskOf (V := 1) hw rfl
  have k_putTopo := maskOf (V := 1024) hw rfl
  have k_checkDrained := maskOf (V := 528385) hw rfl
  have k_cueTopo := maskOf (V := 17) hw rfl
  have k_sendHeld := maskOf (V := 1049601) hw rfl
  have k_absenceCheck := maskOf (V := 6225791) hw rfl
  unfold leaveUp
  repeat' (first
    | with_reducible rfl
    | with_reducible assumption
    | with_reducible apply report_fp k_report
    | with_reducible apply onLink_fp k_onLink
    | with_reducible apply setLink_fp k_setLink
    | with_reducible apply putTopo_fp k_putTopo
    | with_reducible apply checkDrained_fp k_checkDrained
    | with_reducible apply cueTopo_fp k_cueTopo
    | with_reducible apply sendHeld_fp k_sendHeld
    | with_reducible apply absenceCheck_fp k_absenceCheck)

theorem linkOff_fp {fw : Nat} {fz : State} (hw : 1578001 &&& fw = 1578001) (s : State) (l : Nat)
    (hz : Fp fw fz s) : Fp fw fz (linkOff s l) := by
  have k_checkDrained := maskOf (V := 528385) hw rfl
  have k_cueTopo := maskOf (V := 17) hw rfl
  have k_sendHeld := maskOf (V := 1049601) hw rfl
  have k_onLink := maskOf (V := 1024) hw rfl
  have k_setLink := maskOf (V := 1) hw rfl
  unfold linkOff
  repeat' (first
    | with_reducible rfl
    | with_reducible assumption
    | with_reducible apply checkDrained_fp k_checkDrained
    | with_reducible apply cueTopo_fp k_cueTopo
    | with_reducible apply sendHeld_fp k_sendHeld
    | with_reducible apply onLink_fp k_onLink
    | with_reducible apply setLink_fp k_setLink)

theorem writeExit_fp {fw : Nat} {fz : State} (hw : 1602561 &&& fw = 1602561) (s : State)
    (hz : Fp fw fz s) : Fp fw fz (writeExit s) := by
  have b10 := bitOf hw 10 rfl
  have k_announce := maskOf (V := 1048576) hw rfl
  have k_putTopo := maskOf (V := 1024) hw rfl
  have k_ctrl := maskOf (V := 1048576) hw rfl
  have k_onLink := maskOf (V := 1024) hw rfl
  have k_setLink := maskOf (V := 1) hw rfl
  have k_checkDrained := maskOf (V := 528385) hw rfl
  have k_sceneGone := maskOf (V := 1074177) hw rfl
  unfold writeExit
  repeat' (first
    | with_reducible rfl
    | with_reducible assumption
    | with_reducible refine onFab_fp b10 _ _ ?_ ?_
    | with_reducible simp only []
    | with_reducible apply announce_fp k_announce
    | with_reducible apply putTopo_fp k_putTopo
    | with_reducible apply ctrl_fp k_ctrl
    | with_reducible apply onLink_fp k_onLink
    | with_reducible apply setLink_fp k_setLink
    | with_reducible apply checkDrained_fp k_checkDrained
    | with_reducible apply sceneGone_fp k_sceneGone
    | with_reducible refine foldl_fp _ _ (fun _ _ _ => ?_) ?_
    | with_reducible refine foldlFst_fp _ _ (fun _ _ _ => ?_) ?_
    | with_reducible refine foldlSnd_fp _ _ (fun _ _ _ => ?_) ?_
    | with_reducible refine ite_fp ?_ ?_)

theorem replay_fp {fw : Nat} {fz : State} (hw : 6225791 &&& fw = 6225791) (s : State) (l : Nat)
    (hz : Fp fw fz s) : Fp fw fz (replay s l) := by
  have k_inc := maskOf (V := 1) hw rfl
  have k_onLink := maskOf (V := 1024) hw rfl
  have k_leaveUp := maskOf (V := 6225791) hw rfl
  unfold replay
  repeat' (first
    | with_reducible rfl
    | with_reducible assumption
    | with_reducible apply inc_fp k_inc
    | with_reducible apply onLink_fp k_onLink
    | with_reducible apply leaveUp_fp k_leaveUp
    | with_reducible refine ite_fp ?_ ?_)

theorem gotPacket_fp {fw : Nat} {fz : State} (hw : 953347 &&& fw = 953347) (s : State) (l : Nat) (p : Packet)
    (hz : Fp fw fz s) : Fp fw fz (gotPacket s l p) := by
  have b10 := bitOf hw 10 rfl
  have k_owe := maskOf (V := 1024) hw rfl
  have k_report := maskOf (V := 950275) hw rfl
  have k_inc := maskOf (V := 1) hw rfl
  have k_wmUpdate := maskOf (V := 524289) hw rfl
  have k_onSw := maskOf (V := 2048) hw rfl
  unfold gotPacket
  repeat' (first
    | with_reducible rfl
    | with_reducible assumption
    | with_reducible refine onFab_fp b10 _ _ ?_ ?_
    | with_reducible simp only []
    | with_reducible apply owe_fp k_owe
    | with_reducible apply report_fp k_report
    | with_reducible apply inc_fp k_inc
    | with_reducible refine advance_fp _ ?_
    | with_reducible apply wmUpdate_fp k_wmUpdate
    | with_reducible apply onSw_fp k_onSw
    | with_reducible refine ite_fp ?_ ?_)

theorem takePackets_fp {fw : Nat} {fz : State} (hw : 953347 &&& fw = 953347) (l : Nat) (n : Nat) (s : State)
    (hz : Fp fw fz s) : Fp fw fz (takePackets l n s) := by
  have k_onLink := maskOf (V := 1024) hw rfl
  have k_gotPacket := maskOf (V := 953347) hw rfl
  induction n generalizing s with
  | zero =>
    unfold takePackets
    repeat' (first
      | with_reducible assumption)
  | succ n ih =>
    unfold takePackets
    repeat' (first
      | with_reducible rfl
      | with_reducible assumption
      | with_reducible apply ih
      | with_reducible apply onLink_fp k_onLink
      | with_reducible apply gotPacket_fp k_gotPacket
      | with_reducible refine ite_fp ?_ ?_)

theorem takeAck_fp {fw : Nat} {fz : State} (hw : 6225791 &&& fw = 6225791) (s : State) (l : Nat) (flit : BitVec 2048)
    (hz : Fp fw fz s) : Fp fw fz (takeAck s l flit) := by
  have k_onLink := maskOf (V := 1024) hw rfl
  have k_wmUpdate := maskOf (V := 524289) hw rfl
  have k_sendHeld := maskOf (V := 1049601) hw rfl
  have k_replay := maskOf (V := 6225791) hw rfl
  unfold takeAck
  repeat' (first
    | with_reducible rfl
    | with_reducible assumption
    | with_reducible apply onLink_fp k_onLink
    | with_reducible apply wmUpdate_fp k_wmUpdate
    | with_reducible apply sendHeld_fp k_sendHeld
    | with_reducible apply replay_fp k_replay
    | with_reducible refine ite_fp ?_ ?_)

theorem execFlitReceive_fp (link : Fin 12) (flit : BitVec 2048) (s : State) (t : State) (h : execFlitReceive link flit s = .next t) :
    Fp 6225791 s t := by
  have hw : 6225791 &&& 6225791 = 6225791 := rfl
  unfold execFlitReceive at h
  simp only [Host.Outcome.next.injEq] at h
  subst h
  have hz : Fp 6225791 s s := Fp.refl _ _
  have k_report := maskOf (V := 950275) hw rfl
  have k_inc := maskOf (V := 1) hw rfl
  have k_ctrl := maskOf (V := 1048576) hw rfl
  have k_takeAck := maskOf (V := 6225791) hw rfl
  have k_takePackets := maskOf (V := 953347) hw rfl
  have k_onLink := maskOf (V := 1024) hw rfl
  repeat' (first
    | with_reducible rfl
    | with_reducible assumption
    | with_reducible apply report_fp k_report
    | with_reducible apply inc_fp k_inc
    | with_reducible refine advance_fp _ ?_
    | with_reducible apply ctrl_fp k_ctrl
    | with_reducible apply takeAck_fp k_takeAck
    | with_reducible apply takePackets_fp k_takePackets
    | with_reducible apply onLink_fp k_onLink
    | with_reducible refine ite_fp ?_ ?_)

theorem execPacketForward_fp (pkt : Packet) (s : State) (t : State) (h : execPacketForward pkt s = .next t) :
    Fp 1575937 s t := by
  have hw : 1575937 &&& 1575937 = 1575937 := rfl
  unfold execPacketForward at h
  simp only [Host.Outcome.next.injEq] at h
  subst h
  have hz : Fp 1575937 s s := Fp.refl _ _
  have k_onSw := maskOf (V := 2048) hw rfl
  have k_wmUpdate := maskOf (V := 524289) hw rfl
  have k_owe := maskOf (V := 1024) hw rfl
  have k_putOut := maskOf (V := 1049600) hw rfl
  repeat' (first
    | with_reducible rfl
    | with_reducible assumption
    | with_reducible apply onSw_fp k_onSw
    | with_reducible apply wmUpdate_fp k_wmUpdate
    | with_reducible apply owe_fp k_owe
    | with_reducible apply putOut_fp k_putOut
    | with_reducible refine ite_fp ?_ ?_
    | split)

theorem execIdleFlit_fp (link : Fin 12) (s : State) (t : State) (h : execIdleFlit link s = .next t) :
    Fp 1049600 s t := by
  have hw : 1049600 &&& 1049600 = 1049600 := rfl
  unfold execIdleFlit at h
  simp only [Host.Outcome.next.injEq] at h
  subst h
  have hz : Fp 1049600 s s := Fp.refl _ _
  have k_ctrl := maskOf (V := 1048576) hw rfl
  have k_onLink := maskOf (V := 1024) hw rfl
  repeat' (first
    | with_reducible rfl
    | with_reducible assumption
    | with_reducible apply ctrl_fp k_ctrl
    | with_reducible apply onLink_fp k_onLink
    | with_reducible refine ite_fp ?_ ?_
    | split)

theorem execReplayTimeout_fp (link : Fin 12) (s : State) (t : State) (h : execReplayTimeout link s = .next t) :
    Fp 6225791 s t := by
  have hw : 6225791 &&& 6225791 = 6225791 := rfl
  unfold execReplayTimeout at h
  simp only [Host.Outcome.next.injEq] at h
  subst h
  have hz : Fp 6225791 s s := Fp.refl _ _
  have k_replay := maskOf (V := 6225791) hw rfl
  repeat' (first
    | with_reducible rfl
    | with_reducible assumption
    | with_reducible apply replay_fp k_replay
    | with_reducible refine ite_fp ?_ ?_)

theorem execLinkEn_fp (link : Fin 12) (v : Word) (s : State) (t : State) (h : execLinkEn link v s = .next t) :
    Fp 1782803 s t := by
  have hw : 1782803 &&& 1782803 = 1782803 := rfl
  unfold execLinkEn at h
  simp only [Host.Outcome.next.injEq] at h
  subst h
  have hz : Fp 1782803 s s := Fp.refl _ _
  have k_commandWord := maskOf (V := 729107) hw rfl
  have k_set := maskOf (V := 1) hw rfl
  have k_linkOff := maskOf (V := 1578001) hw rfl
  have k_setLink := maskOf (V := 1) hw rfl
  repeat' (first
    | with_reducible rfl
    | with_reducible assumption
    | with_reducible apply commandWord_fp k_commandWord
    | with_reducible apply set_fp k_set
    | with_reducible apply linkOff_fp k_linkOff
    | with_reducible apply setLink_fp k_setLink
    | with_reducible refine ite_fp ?_ ?_)

theorem execTrainingComplete_fp (link : Fin 12) (s : State) (t : State) (h : execTrainingComplete link s = .next t) :
    Fp 1048577 s t := by
  have hw : 1048577 &&& 1048577 = 1048577 := rfl
  unfold execTrainingComplete at h
  simp only [Host.Outcome.next.injEq] at h
  subst h
  have hz : Fp 1048577 s s := Fp.refl _ _
  have k_ctrl := maskOf (V := 1048576) hw rfl
  have k_setLink := maskOf (V := 1) hw rfl
  repeat' (first
    | with_reducible rfl
    | with_reducible assumption
    | with_reducible apply ctrl_fp k_ctrl
    | with_reducible apply setLink_fp k_setLink
    | with_reducible refine ite_fp ?_ ?_)

theorem execTrainTimeout_fp (link : Fin 12) (s : State) (t : State) (h : execTrainTimeout link s = .next t) :
    Fp 1025 s t := by
  have hw : 1025 &&& 1025 = 1025 := rfl
  unfold execTrainTimeout at h
  simp only [Host.Outcome.next.injEq] at h
  subst h
  have hz : Fp 1025 s s := Fp.refl _ _
  have k_onLink := maskOf (V := 1024) hw rfl
  have k_inc := maskOf (V := 1) hw rfl
  repeat' (first
    | with_reducible rfl
    | with_reducible assumption
    | with_reducible apply onLink_fp k_onLink
    | with_reducible apply inc_fp k_inc
    | with_reducible refine ite_fp ?_ ?_)

theorem execTrainRestart_fp (link : Fin 12) (s : State) (t : State) (h : execTrainRestart link s = .next t) :
    Fp 1024 s t := by
  have hw : 1024 &&& 1024 = 1024 := rfl
  unfold execTrainRestart at h
  simp only [Host.Outcome.next.injEq] at h
  subst h
  have hz : Fp 1024 s s := Fp.refl _ _
  have k_onLink := maskOf (V := 1024) hw rfl
  repeat' (first
    | with_reducible rfl
    | with_reducible assumption
    | with_reducible apply onLink_fp k_onLink
    | with_reducible refine ite_fp ?_ ?_)

theorem isolate_fp {fw : Nat} {fz : State} (hw : 1015811 &&& fw = 1015811) (s : State) (l cause : Nat)
    (hz : Fp fw fz s) : Fp fw fz (isolate s l cause) := by
  have k_set := maskOf (V := 1) hw rfl
  have k_setLink := maskOf (V := 1) hw rfl
  have k_audit := maskOf (V := 196609) hw rfl
  have k_report := maskOf (V := 950275) hw rfl
  unfold isolate
  repeat' (first
    | with_reducible rfl
    | with_reducible assumption
    | with_reducible apply set_fp k_set
    | with_reducible apply setLink_fp k_setLink
    | with_reducible apply audit_fp k_audit
    | with_reducible apply report_fp k_report
    | with_reducible refine advance_fp _ ?_
    | with_reducible refine ite_fp ?_ ?_)

theorem firstUp_fp {fw : Nat} {fz : State} (hw : 132097 &&& fw = 132097) (s : State)
    (hz : Fp fw fz s) : Fp fw fz (firstUp s) := by
  have b10 := bitOf hw 10 rfl
  have b17 := bitOf hw 17 rfl
  have k_storeBlock := maskOf (V := 131073) hw rfl
  have k_set := maskOf (V := 1) hw rfl
  have k_putTopo := maskOf (V := 1024) hw rfl
  unfold firstUp
  repeat' (first
    | with_reducible rfl
    | with_reducible assumption
    | with_reducible refine onFab_fp b10 _ _ ?_ ?_
    | with_reducible simp only []
    | with_reducible refine onLdg_fp b17 _ _ ?_
    | with_reducible apply storeBlock_fp k_storeBlock
    | with_reducible apply set_fp k_set
    | with_reducible apply putTopo_fp k_putTopo
    | with_reducible refine ite_fp ?_ ?_)

theorem tellLost_fp {fw : Nat} {fz : State} (hw : 1049601 &&& fw = 1049601) (s : State) (d : Nat)
    (hz : Fp fw fz s) : Fp fw fz (tellLost s d) := by
  have k_tellDevs := maskOf (V := 1049601) hw rfl
  unfold tellLost
  repeat' (first
    | with_reducible rfl
    | with_reducible assumption
    | with_reducible apply tellDevs_fp k_tellDevs
    | with_reducible refine foldl_fp _ _ (fun _ _ _ => ?_) ?_)

theorem learnLost_fp {fw : Nat} {fz : State} (hw : 25600 &&& fw = 25600) (s : State) (src c detail : Nat)
    (hz : Fp fw fz s) : Fp fw fz (learnLost s src c detail) := by
  have b14 := bitOf hw 14 rfl
  have k_sceneEnds := maskOf (V := 25600) hw rfl
  have k_markLost := maskOf (V := 1024) hw rfl
  unfold learnLost
  repeat' (first
    | with_reducible rfl
    | with_reducible assumption
    | with_reducible refine onUnd_fp b14 _ _ ?_
    | with_reducible apply sceneEnds_fp k_sceneEnds
    | with_reducible apply markLost_fp k_markLost
    | with_reducible refine ite_fp ?_ ?_)

theorem linkUp_fp {fw : Nat} {fz : State} (hw : 6225791 &&& fw = 6225791) (s : State) (l : Nat) (r : IdRec)
    (hz : Fp fw fz s) : Fp fw fz (linkUp s l r) := by
  have k_set := maskOf (V := 1) hw rfl
  have k_setLink := maskOf (V := 1) hw rfl
  have k_onLink := maskOf (V := 1024) hw rfl
  have k_firstUp := maskOf (V := 132097) hw rfl
  have k_announce := maskOf (V := 1048576) hw rfl
  have k_putTopo := maskOf (V := 1024) hw rfl
  have k_updateTopo := maskOf (V := 6225791) hw rfl
  have k_tellLost := maskOf (V := 1049601) hw rfl
  have k_cueTopo := maskOf (V := 17) hw rfl
  have k_sendHeld := maskOf (V := 1049601) hw rfl
  unfold linkUp
  repeat' (first
    | with_reducible rfl
    | with_reducible assumption
    | with_reducible apply set_fp k_set
    | with_reducible apply setLink_fp k_setLink
    | with_reducible apply onLink_fp k_onLink
    | with_reducible apply firstUp_fp k_firstUp
    | with_reducible apply announce_fp k_announce
    | with_reducible apply putTopo_fp k_putTopo
    | with_reducible apply updateTopo_fp k_updateTopo
    | with_reducible apply tellLost_fp k_tellLost
    | with_reducible apply cueTopo_fp k_cueTopo
    | with_reducible apply sendHeld_fp k_sendHeld)

theorem execIdentityRecord_fp (link : Fin 12) (r : IdRec) (s : State) (t : State) (h : execIdentityRecord link r s = .next t) :
    Fp 6291455 s t := by
  have hw : 6291455 &&& 6291455 = 6291455 := rfl
  unfold execIdentityRecord at h
  simp only [Host.Outcome.next.injEq] at h
  subst h
  have hz : Fp 6291455 s s := Fp.refl _ _
  have k_isolate := maskOf (V := 1015811) hw rfl
  have k_drbgTake := maskOf (V := 65665) hw rfl
  have k_entropyFail := maskOf (V := 196609) hw rfl
  have k_linkUp := maskOf (V := 6225791) hw rfl
  repeat' (first
    | with_reducible rfl
    | with_reducible assumption
    | with_reducible apply isolate_fp k_isolate
    | with_reducible apply drbgTake_fp k_drbgTake (by assumption)
    | with_reducible apply drbgTake_fp1 k_drbgTake
    | with_reducible apply entropyFail_fp k_entropyFail
    | with_reducible apply linkUp_fp k_linkUp
    | with_reducible refine ite_fp ?_ ?_
    | split)

theorem linkLoss_fp {fw : Nat} {fz : State} (hw : 6225791 &&& fw = 6225791) (s : State) (l : Nat)
    (hz : Fp fw fz s) : Fp fw fz (linkLoss s l) := by
  have k_leaveUp := maskOf (V := 6225791) hw rfl
  have k_setLink := maskOf (V := 1) hw rfl
  unfold linkLoss
  repeat' (first
    | with_reducible rfl
    | with_reducible assumption
    | with_reducible apply leaveUp_fp k_leaveUp
    | with_reducible apply setLink_fp k_setLink
    | with_reducible refine ite_fp ?_ ?_)

theorem execLinkSignalLoss_fp (link : Fin 12) (s : State) (t : State) (h : execLinkSignalLoss link s = .next t) :
    Fp 6225791 s t := by
  have hw : 6225791 &&& 6225791 = 6225791 := rfl
  unfold execLinkSignalLoss at h
  simp only [Host.Outcome.next.injEq] at h
  subst h
  have hz : Fp 6225791 s s := Fp.refl _ _
  have k_linkLoss := maskOf (V := 6225791) hw rfl
  have k_onLink := maskOf (V := 1024) hw rfl
  repeat' (first
    | with_reducible rfl
    | with_reducible assumption
    | with_reducible apply linkLoss_fp k_linkLoss
    | with_reducible apply onLink_fp k_onLink
    | with_reducible refine ite_fp ?_ ?_)

theorem execLinkSilence_fp (link : Fin 12) (s : State) (t : State) (h : execLinkSilence link s = .next t) :
    Fp 6225791 s t := by
  have hw : 6225791 &&& 6225791 = 6225791 := rfl
  unfold execLinkSilence at h
  simp only [Host.Outcome.next.injEq] at h
  subst h
  have hz : Fp 6225791 s s := Fp.refl _ _
  have k_linkLoss := maskOf (V := 6225791) hw rfl
  repeat' (first
    | with_reducible rfl
    | with_reducible assumption
    | with_reducible apply linkLoss_fp k_linkLoss)

theorem execTopologyUpdate_fp (link : Fin 12) (dev : Fin 1024) (state : Nat) (epoch : BitVec 8) (s : State) (t : State) (h : execTopologyUpdate link dev state epoch s = .next t) :
    Fp 6225791 s t := by
  have hw : 6225791 &&& 6225791 = 6225791 := rfl
  unfold execTopologyUpdate at h
  simp only [Host.Outcome.next.injEq] at h
  subst h
  have hz : Fp 6225791 s s := Fp.refl _ _
  have k_updateTopo := maskOf (V := 6225791) hw rfl
  repeat' (first
    | with_reducible rfl
    | with_reducible assumption
    | with_reducible apply updateTopo_fp k_updateTopo
    | with_reducible refine ite_fp ?_ ?_)

theorem execExit_fp (v : Word) (s : State) (t : State) (h : execExit v s = .next t) :
    Fp 1799187 s t := by
  have hw : 1799187 &&& 1799187 = 1799187 := rfl
  unfold execExit at h
  simp only [Host.Outcome.next.injEq] at h
  subst h
  have hz : Fp 1799187 s s := Fp.refl _ _
  have k_commandWord := maskOf (V := 729107) hw rfl
  have k_writeExit := maskOf (V := 1602561) hw rfl
  repeat' (first
    | with_reducible rfl
    | with_reducible assumption
    | with_reducible apply commandWord_fp k_commandWord
    | with_reducible apply writeExit_fp k_writeExit
    | with_reducible refine ite_fp ?_ ?_)

theorem execExitFence_fp (link : Fin 12) (s : State) (t : State) (h : execExitFence link s = .next t) :
    Fp 6225791 s t := by
  have hw : 6225791 &&& 6225791 = 6225791 := rfl
  unfold execExitFence at h
  simp only [Host.Outcome.next.injEq] at h
  subst h
  have hz : Fp 6225791 s s := Fp.refl _ _
  have k_onLink := maskOf (V := 1024) hw rfl
  have k_setLink := maskOf (V := 1) hw rfl
  have k_updateTopo := maskOf (V := 6225791) hw rfl
  repeat' (first
    | with_reducible rfl
    | with_reducible assumption
    | with_reducible apply onLink_fp k_onLink
    | with_reducible apply setLink_fp k_setLink
    | with_reducible apply updateTopo_fp k_updateTopo
    | with_reducible refine ite_fp ?_ ?_)

theorem execExitAck_fp (link : Fin 12) (s : State) (t : State) (h : execExitAck link s = .next t) :
    Fp 529409 s t := by
  have hw : 529409 &&& 529409 = 529409 := rfl
  unfold execExitAck at h
  simp only [Host.Outcome.next.injEq] at h
  subst h
  have hz : Fp 529409 s s := Fp.refl _ _
  have k_checkDrained := maskOf (V := 528385) hw rfl
  have k_onLink := maskOf (V := 1024) hw rfl
  repeat' (first
    | with_reducible rfl
    | with_reducible assumption
    | with_reducible apply checkDrained_fp k_checkDrained
    | with_reducible apply onLink_fp k_onLink
    | with_reducible refine ite_fp ?_ ?_)

theorem execExitAckSend_fp (link : Fin 12) (s : State) (t : State) (h : execExitAckSend link s = .next t) :
    Fp 1577985 s t := by
  have hw : 1577985 &&& 1577985 = 1577985 := rfl
  unfold execExitAckSend at h
  simp only [Host.Outcome.next.injEq] at h
  subst h
  have hz : Fp 1577985 s s := Fp.refl _ _
  have k_checkDrained := maskOf (V := 528385) hw rfl
  have k_ctrl := maskOf (V := 1048576) hw rfl
  have k_onLink := maskOf (V := 1024) hw rfl
  repeat' (first
    | with_reducible rfl
    | with_reducible assumption
    | with_reducible apply checkDrained_fp k_checkDrained
    | with_reducible apply ctrl_fp k_ctrl
    | with_reducible apply onLink_fp k_onLink
    | with_reducible refine ite_fp ?_ ?_)

theorem execExitTimeout_fp (s : State) (t : State) (h : execExitTimeout s = .next t) :
    Fp 2625537 s t := by
  have hw : 2625537 &&& 2625537 = 2625537 := rfl
  unfold execExitTimeout at h
  simp only [Host.Outcome.next.injEq] at h
  subst h
  have hz : Fp 2625537 s s := Fp.refl _ _
  have b21 := bitOf hw 21 rfl
  have k_drainedNow := maskOf (V := 528385) hw rfl
  have k_set := maskOf (V := 1) hw rfl
  repeat' (first
    | with_reducible rfl
    | with_reducible assumption
    | with_reducible refine setSt_fp b21 _ _ ?_
    | with_reducible apply drainedNow_fp k_drainedNow
    | with_reducible apply set_fp k_set
    | with_reducible refine ite_fp ?_ ?_)

theorem deviceTold_fp {fw : Nat} {fz : State} (hw : 6219599 &&& fw = 6219599) (s : State) (src outcome value detail : Nat)
    (hz : Fp fw fz s) : Fp fw fz (deviceTold s src outcome value detail) := by
  have b9 := bitOf hw 9 rfl
  have k_sceneTold := maskOf (V := 24577) hw rfl
  have k_cutTold := maskOf (V := 16385) hw rfl
  have k_sceneEnds := maskOf (V := 25600) hw rfl
  have k_leadTold := maskOf (V := 1573895) hw rfl
  have k_callGone := maskOf (V := 6211147) hw rfl
  have k_copyHeld := maskOf (V := 320) hw rfl
  have k_copyWithdrawn := maskOf (V := 65) hw rfl
  have k_leadEvicted := maskOf (V := 256) hw rfl
  have k_noHandle := maskOf (V := 513) hw rfl
  have k_learnLost := maskOf (V := 25600) hw rfl
  have k_dropHeath := maskOf (V := 513) hw rfl
  have k_offerAnswer := maskOf (V := 6211407) hw rfl
  have k_verTold := maskOf (V := 257) hw rfl
  unfold deviceTold
  repeat' (first
    | with_reducible rfl
    | with_reducible assumption
    | with_reducible refine onMdw_fp b9 _ _ ?_ ?_
    | with_reducible apply sceneTold_fp k_sceneTold
    | with_reducible apply cutTold_fp k_cutTold
    | with_reducible apply sceneEnds_fp k_sceneEnds
    | with_reducible apply leadTold_fp k_leadTold
    | with_reducible apply callGone_fp k_callGone
    | with_reducible apply copyHeld_fp k_copyHeld
    | with_reducible apply copyWithdrawn_fp k_copyWithdrawn
    | with_reducible apply leadEvicted_fp k_leadEvicted
    | with_reducible apply noHandle_fp k_noHandle
    | with_reducible apply learnLost_fp k_learnLost
    | with_reducible apply dropHeath_fp k_dropHeath
    | with_reducible apply offerAnswer_fp k_offerAnswer
    | with_reducible apply verTold_fp k_verTold
    | with_reducible refine ite_fp ?_ ?_)

theorem execStatus_fp (src : Fin 1024) (tag : BitVec 16) (epoch : BitVec 8) (code outcome value detail : Nat) (s : State) (t : State) (h : execStatus src tag epoch code outcome value detail s = .next t) :
    Fp 6223695 s t := by
  have hw : 6223695 &&& 6223695 = 6223695 := rfl
  unfold execStatus at h
  simp only [Host.Outcome.next.injEq] at h
  subst h
  have hz : Fp 6223695 s s := Fp.refl _ _
  have b10 := bitOf hw 10 rfl
  have k_inc := maskOf (V := 1) hw rfl
  have k_issueWaiting := maskOf (V := 1049601) hw rfl
  have k_set := maskOf (V := 1) hw rfl
  have k_decideTag := maskOf (V := 1573903) hw rfl
  have k_restAnswer := maskOf (V := 6211147) hw rfl
  have k_sceneStatus := maskOf (V := 1074177) hw rfl
  have k_checkDrained := maskOf (V := 528385) hw rfl
  have k_arriveFinal := maskOf (V := 1049611) hw rfl
  have k_endLostHere := maskOf (V := 1573895) hw rfl
  have k_deviceTold := maskOf (V := 6219599) hw rfl
  have k_srcTells := maskOf (V := 8) hw rfl
  have k_handleFrom := maskOf (V := 1049603) hw rfl
  repeat' (first
    | with_reducible rfl
    | with_reducible assumption
    | with_reducible refine onFab_fp b10 _ _ ?_ ?_
    | with_reducible simp only [List.length_map, List.length_set, List.length_mapIdx, List.length_modify]
    | with_reducible apply inc_fp k_inc
    | with_reducible apply issueWaiting_fp k_issueWaiting
    | with_reducible apply set_fp k_set
    | with_reducible apply decideTag_fp k_decideTag
    | with_reducible apply restAnswer_fp k_restAnswer
    | with_reducible apply sceneStatus_fp k_sceneStatus
    | with_reducible apply checkDrained_fp k_checkDrained
    | with_reducible apply arriveFinal_fp k_arriveFinal
    | with_reducible apply endLostHere_fp k_endLostHere
    | with_reducible apply deviceTold_fp k_deviceTold
    | with_reducible apply srcTells_fp k_srcTells
    | with_reducible apply handleFrom_fp k_handleFrom
    | with_reducible refine ite_fp ?_ ?_
    | split)

theorem execAdvert_fp (_src : Fin 1024) (company model : Nat) (admitting exact lost : Bool) (freeSlots freeBlocks cue : Nat) (s : State) (t : State) (h : execAdvert _src company model admitting exact lost freeSlots freeBlocks cue s = .next t) :
    Fp 1024 s t := by
  have hw : 1024 &&& 1024 = 1024 := rfl
  unfold execAdvert at h
  simp only [Host.Outcome.next.injEq] at h
  subst h
  have hz : Fp 1024 s s := Fp.refl _ _
  have b10 := bitOf hw 10 rfl
  repeat' (first
    | with_reducible rfl
    | with_reducible assumption
    | with_reducible refine onFab_fp b10 _ _ ?_ ?_)

end Sys2Proof.Machine
end

