-- ==== Sys2Proof/Laws/FootStageDoor.lean ====
section
/-!
SUPPORT. Footprints of the operations of Machine/StageDoor.lean: what each may touch (Fp).
-/
namespace Sys2Proof.Machine

theorem spdmOut_fp {fw : Nat} {fz : State} (hw : 1114112 &&& fw = 1114112) (s : State) (code : Nat) (body : List Byte)
    (hz : Fp fw fz s) : Fp fw fz (spdmOut s code body) := by
  have b16 := bitOf hw 16 rfl
  have b20 := bitOf hw 20 rfl
  unfold spdmOut
  repeat' (first
    | with_reducible rfl
    | with_reducible assumption
    | with_reducible refine onSdr_fp b16 _ _ ?_ ?_ ?_
    | with_reducible refine onOut_fp b20 _ _ ?_
    | with_reducible refine advance_fp _ ?_
    | with_reducible refine ite_fp ?_ ?_)

theorem spdmError_fp {fw : Nat} {fz : State} (hw : 1114112 &&& fw = 1114112) (s : State) (e : Nat)
    (hz : Fp fw fz s) : Fp fw fz (spdmError s e) := by
  have k_spdmOut := maskOf (V := 1114112) hw rfl
  unfold spdmError
  repeat' (first
    | with_reducible rfl
    | with_reducible assumption
    | with_reducible apply spdmOut_fp k_spdmOut)

theorem spdmFails_fp {fw : Nat} {fz : State} (hw : 1114112 &&& fw = 1114112) (s : State)
    (hz : Fp fw fz s) : Fp fw fz (spdmFails s) := by
  have k_spdmError := maskOf (V := 1114112) hw rfl
  unfold spdmFails
  repeat' (first
    | with_reducible rfl
    | with_reducible assumption
    | with_reducible apply spdmError_fp k_spdmError
    | with_reducible refine advance_fp _ ?_)

theorem withNonce_fp {fw : Nat} {fz : State} (hw : 1245313 &&& fw = 1245313) (s : State) (f : Nat → State → State)
    (hf : ∀ (v0 : Nat) (v1 : State), Fp fw fz v1 → Fp fw fz (f v0 v1)) (hz : Fp fw fz s) : Fp fw fz (withNonce s f) := by
  have k_drbgTake := maskOf (V := 65665) hw rfl
  have k_spdmFails := maskOf (V := 1114112) hw rfl
  have k_entropyFail := maskOf (V := 196609) hw rfl
  unfold withNonce
  repeat' (first
    | with_reducible rfl
    | with_reducible assumption
    | with_reducible apply drbgTake_fp k_drbgTake (by assumption)
    | with_reducible apply drbgTake_fp1 k_drbgTake
    | with_reducible apply spdmFails_fp k_spdmFails
    | with_reducible apply entropyFail_fp k_entropyFail
    | with_reducible apply hf
    | split)

theorem execGetVersion_fp (s : State) (t : State) (h : execGetVersion s = .next t) :
    Fp 1114112 s t := by
  have hw : 1114112 &&& 1114112 = 1114112 := rfl
  unfold execGetVersion at h
  simp only [Host.Outcome.next.injEq] at h
  subst h
  have hz : Fp 1114112 s s := Fp.refl _ _
  have k_spdmOut := maskOf (V := 1114112) hw rfl
  repeat' (first
    | with_reducible rfl
    | with_reducible assumption
    | with_reducible apply spdmOut_fp k_spdmOut)

theorem execGetCapabilities_fp (s : State) (t : State) (h : execGetCapabilities s = .next t) :
    Fp 1114112 s t := by
  have hw : 1114112 &&& 1114112 = 1114112 := rfl
  unfold execGetCapabilities at h
  simp only [Host.Outcome.next.injEq] at h
  subst h
  have hz : Fp 1114112 s s := Fp.refl _ _
  have k_spdmOut := maskOf (V := 1114112) hw rfl
  repeat' (first
    | with_reducible rfl
    | with_reducible assumption
    | with_reducible apply spdmOut_fp k_spdmOut
    | with_reducible refine advance_fp _ ?_)

theorem execNegotiateAlgorithms_fp (algs : List Nat) (s : State) (t : State) (h : execNegotiateAlgorithms algs s = .next t) :
    Fp 1114112 s t := by
  have hw : 1114112 &&& 1114112 = 1114112 := rfl
  unfold execNegotiateAlgorithms at h
  simp only [Host.Outcome.next.injEq] at h
  subst h
  have hz : Fp 1114112 s s := Fp.refl _ _
  have b16 := bitOf hw 16 rfl
  have k_spdmOut := maskOf (V := 1114112) hw rfl
  repeat' (first
    | with_reducible rfl
    | with_reducible assumption
    | with_reducible refine onSdr_fp b16 _ _ ?_ ?_ ?_
    | with_reducible apply spdmOut_fp k_spdmOut)

theorem execGetDigests_fp (s : State) (t : State) (h : execGetDigests s = .next t) :
    Fp 1114112 s t := by
  have hw : 1114112 &&& 1114112 = 1114112 := rfl
  unfold execGetDigests at h
  simp only [Host.Outcome.next.injEq] at h
  subst h
  have hz : Fp 1114112 s s := Fp.refl _ _
  have k_spdmOut := maskOf (V := 1114112) hw rfl
  repeat' (first
    | with_reducible rfl
    | with_reducible assumption
    | with_reducible apply spdmOut_fp k_spdmOut)

theorem execGetCertificate_fp (slot off len : Nat) (s : State) (t : State) (h : execGetCertificate slot off len s = .next t) :
    Fp 1114112 s t := by
  have hw : 1114112 &&& 1114112 = 1114112 := rfl
  unfold execGetCertificate at h
  simp only [Host.Outcome.next.injEq] at h
  subst h
  have hz : Fp 1114112 s s := Fp.refl _ _
  have k_spdmError := maskOf (V := 1114112) hw rfl
  have k_spdmOut := maskOf (V := 1114112) hw rfl
  repeat' (first
    | with_reducible rfl
    | with_reducible assumption
    | with_reducible apply spdmError_fp k_spdmError
    | with_reducible apply spdmOut_fp k_spdmOut
    | with_reducible refine ite_fp ?_ ?_)

theorem execChallenge_fp (slot : Nat) (nonce : BitVec 256) (s : State) (t : State) (h : execChallenge slot nonce s = .next t) :
    Fp 1245313 s t := by
  have hw : 1245313 &&& 1245313 = 1245313 := rfl
  unfold execChallenge at h
  simp only [Host.Outcome.next.injEq] at h
  subst h
  have hz : Fp 1245313 s s := Fp.refl _ _
  have k_spdmError := maskOf (V := 1114112) hw rfl
  have k_withNonce := maskOf (V := 1245313) hw rfl
  have k_spdmOut := maskOf (V := 1114112) hw rfl
  repeat' (first
    | with_reducible rfl
    | with_reducible assumption
    | with_reducible apply spdmError_fp k_spdmError
    | with_reducible refine withNonce_fp k_withNonce _ _ (fun _ _ _ => ?_) ?_
    | with_reducible apply spdmOut_fp k_spdmOut
    | with_reducible refine ite_fp ?_ ?_)

theorem execGetMeasurements_fp (signed : Bool) (idx : Nat) (nonce : BitVec 256) (s : State) (t : State) (h : execGetMeasurements signed idx nonce s = .next t) :
    Fp 1245313 s t := by
  have hw : 1245313 &&& 1245313 = 1245313 := rfl
  unfold execGetMeasurements at h
  simp only [Host.Outcome.next.injEq] at h
  subst h
  have hz : Fp 1245313 s s := Fp.refl _ _
  have k_spdmError := maskOf (V := 1114112) hw rfl
  have k_withNonce := maskOf (V := 1245313) hw rfl
  have k_spdmOut := maskOf (V := 1114112) hw rfl
  repeat' (first
    | with_reducible rfl
    | with_reducible assumption
    | with_reducible apply spdmError_fp k_spdmError
    | with_reducible refine withNonce_fp k_withNonce _ _ (fun _ _ _ => ?_) ?_
    | with_reducible apply spdmOut_fp k_spdmOut
    | with_reducible refine ite_fp ?_ ?_)

theorem countSessions_fp {fw : Nat} {fz : State} (hw : 1 &&& fw = 1) (s : State)
    (hz : Fp fw fz s) : Fp fw fz (countSessions s) := by
  have k_set := maskOf (V := 1) hw rfl
  unfold countSessions
  repeat' (first
    | with_reducible rfl
    | with_reducible assumption
    | with_reducible apply set_fp k_set)

theorem onSess_fp {fw : Nat} {fz : State} (hw : 65536 &&& fw = 65536) (s : State) (sid : Nat) (f : Sess → Sess)
    (hz : Fp fw fz s) : Fp fw fz (onSess s sid f) := by
  have b16 := bitOf hw 16 rfl
  unfold onSess
  repeat' (first
    | with_reducible rfl
    | with_reducible assumption
    | with_reducible refine onSdr_fp b16 _ _ ?_ ?_ ?_)

theorem closeSess_fp {fw : Nat} {fz : State} (hw : 196609 &&& fw = 196609) (s : State) (x : Sess)
    (hz : Fp fw fz s) : Fp fw fz (closeSess s x) := by
  have b16 := bitOf hw 16 rfl
  have k_audit := maskOf (V := 196609) hw rfl
  have k_countSessions := maskOf (V := 1) hw rfl
  unfold closeSess
  repeat' (first
    | with_reducible rfl
    | with_reducible assumption
    | with_reducible refine onSdr_fp b16 _ _ ?_ ?_ ?_
    | with_reducible apply audit_fp k_audit
    | with_reducible apply countSessions_fp k_countSessions)

theorem execKeyExchange_fp (i3c : Bool) (pub : Nat) (s : State) (t : State) (h : execKeyExchange i3c pub s = .next t) :
    Fp 1245313 s t := by
  have hw : 1245313 &&& 1245313 = 1245313 := rfl
  unfold execKeyExchange at h
  simp only [Host.Outcome.next.injEq] at h
  subst h
  have hz : Fp 1245313 s s := Fp.refl _ _
  have b16 := bitOf hw 16 rfl
  have k_spdmError := maskOf (V := 1114112) hw rfl
  have k_spdmFails := maskOf (V := 1114112) hw rfl
  have k_withNonce := maskOf (V := 1245313) hw rfl
  have k_countSessions := maskOf (V := 1) hw rfl
  have k_spdmOut := maskOf (V := 1114112) hw rfl
  have k_audit := maskOf (V := 196609) hw rfl
  repeat' (first
    | with_reducible rfl
    | with_reducible assumption
    | with_reducible refine onSdr_fp b16 _ _ ?_ ?_ ?_
    | with_reducible apply spdmError_fp k_spdmError
    | with_reducible apply spdmFails_fp k_spdmFails
    | with_reducible refine withNonce_fp k_withNonce _ _ (fun _ _ _ => ?_) ?_
    | with_reducible apply countSessions_fp k_countSessions
    | with_reducible refine advance_fp _ ?_
    | with_reducible apply spdmOut_fp k_spdmOut
    | with_reducible apply audit_fp k_audit
    | with_reducible refine ite_fp ?_ ?_)

theorem execFinish_fp (sid : Nat) (ok : Bool) (oper : Option (Nat × Nat)) (s : State) (t : State) (h : execFinish sid ok oper s = .next t) :
    Fp 1245185 s t := by
  have hw : 1245185 &&& 1245185 = 1245185 := rfl
  unfold execFinish at h
  simp only [Host.Outcome.next.injEq] at h
  subst h
  have hz : Fp 1245185 s s := Fp.refl _ _
  have k_spdmError := maskOf (V := 1114112) hw rfl
  have k_spdmFails := maskOf (V := 1114112) hw rfl
  have k_closeSess := maskOf (V := 196609) hw rfl
  have k_spdmOut := maskOf (V := 1114112) hw rfl
  have k_onSess := maskOf (V := 65536) hw rfl
  repeat' (first
    | with_reducible rfl
    | with_reducible assumption
    | with_reducible apply spdmError_fp k_spdmError
    | with_reducible apply spdmFails_fp k_spdmFails
    | with_reducible apply closeSess_fp k_closeSess
    | with_reducible apply spdmOut_fp k_spdmOut
    | with_reducible apply onSess_fp k_onSess
    | with_reducible refine ite_fp ?_ ?_
    | split)

theorem execHeartbeat_fp (sid : Nat) (s : State) (t : State) (h : execHeartbeat sid s = .next t) :
    Fp 1114112 s t := by
  have hw : 1114112 &&& 1114112 = 1114112 := rfl
  unfold execHeartbeat at h
  simp only [Host.Outcome.next.injEq] at h
  subst h
  have hz : Fp 1114112 s s := Fp.refl _ _
  have k_spdmError := maskOf (V := 1114112) hw rfl
  have k_spdmOut := maskOf (V := 1114112) hw rfl
  repeat' (first
    | with_reducible rfl
    | with_reducible assumption
    | with_reducible apply spdmError_fp k_spdmError
    | with_reducible apply spdmOut_fp k_spdmOut
    | with_reducible refine ite_fp ?_ ?_
    | split)

theorem execKeyUpdate_fp (sid : Nat) (s : State) (t : State) (h : execKeyUpdate sid s = .next t) :
    Fp 1114112 s t := by
  have hw : 1114112 &&& 1114112 = 1114112 := rfl
  unfold execKeyUpdate at h
  simp only [Host.Outcome.next.injEq] at h
  subst h
  have hz : Fp 1114112 s s := Fp.refl _ _
  have k_spdmError := maskOf (V := 1114112) hw rfl
  have k_spdmOut := maskOf (V := 1114112) hw rfl
  have k_onSess := maskOf (V := 65536) hw rfl
  repeat' (first
    | with_reducible rfl
    | with_reducible assumption
    | with_reducible apply spdmError_fp k_spdmError
    | with_reducible apply spdmOut_fp k_spdmOut
    | with_reducible apply onSess_fp k_onSess
    | with_reducible refine ite_fp ?_ ?_
    | split)

theorem execEndSession_fp (sid : Nat) (s : State) (t : State) (h : execEndSession sid s = .next t) :
    Fp 1245185 s t := by
  have hw : 1245185 &&& 1245185 = 1245185 := rfl
  unfold execEndSession at h
  simp only [Host.Outcome.next.injEq] at h
  subst h
  have hz : Fp 1245185 s s := Fp.refl _ _
  have k_spdmError := maskOf (V := 1114112) hw rfl
  have k_spdmOut := maskOf (V := 1114112) hw rfl
  have k_closeSess := maskOf (V := 196609) hw rfl
  have k_spdmFails := maskOf (V := 1114112) hw rfl
  repeat' (first
    | with_reducible rfl
    | with_reducible assumption
    | with_reducible apply spdmError_fp k_spdmError
    | with_reducible apply spdmOut_fp k_spdmOut
    | with_reducible apply closeSess_fp k_closeSess
    | with_reducible apply spdmFails_fp k_spdmFails
    | with_reducible refine ite_fp ?_ ?_
    | split)

theorem execChunkSend_fp (handle seq : Nat) (last : Bool) (data : List Byte) (s : State) (t : State) (h : execChunkSend handle seq last data s = .next t) :
    Fp 1114112 s t := by
  have hw : 1114112 &&& 1114112 = 1114112 := rfl
  unfold execChunkSend at h
  simp only [Host.Outcome.next.injEq] at h
  subst h
  have hz : Fp 1114112 s s := Fp.refl _ _
  have b16 := bitOf hw 16 rfl
  have k_spdmError := maskOf (V := 1114112) hw rfl
  have k_spdmOut := maskOf (V := 1114112) hw rfl
  repeat' (first
    | with_reducible rfl
    | with_reducible assumption
    | with_reducible refine onSdr_fp b16 _ _ ?_ ?_ ?_
    | with_reducible apply spdmError_fp k_spdmError
    | with_reducible apply spdmOut_fp k_spdmOut
    | with_reducible refine ite_fp ?_ ?_)

theorem execChunkGet_fp (handle seq : Nat) (s : State) (t : State) (h : execChunkGet handle seq s = .next t) :
    Fp 1114112 s t := by
  have hw : 1114112 &&& 1114112 = 1114112 := rfl
  unfold execChunkGet at h
  simp only [Host.Outcome.next.injEq] at h
  subst h
  have hz : Fp 1114112 s s := Fp.refl _ _
  have b16 := bitOf hw 16 rfl
  have b20 := bitOf hw 20 rfl
  have k_spdmError := maskOf (V := 1114112) hw rfl
  repeat' (first
    | with_reducible rfl
    | with_reducible assumption
    | with_reducible refine onSdr_fp b16 _ _ ?_ ?_ ?_
    | with_reducible refine onOut_fp b20 _ _ ?_
    | with_reducible apply spdmError_fp k_spdmError
    | with_reducible refine ite_fp ?_ ?_)

theorem vendor_fp {fw : Nat} {fz : State} (hw : 1245185 &&& fw = 1245185) (s : State) (sid : Nat) (oper needsOpen : Bool) (f : State → State)
    (hf : ∀ (v0 : State), Fp fw fz v0 → Fp fw fz (f v0)) (hz : Fp fw fz s) : Fp fw fz (vendor s sid oper needsOpen f) := by
  have k_spdmError := maskOf (V := 1114112) hw rfl
  have k_audit := maskOf (V := 196609) hw rfl
  unfold vendor
  repeat' (first
    | with_reducible rfl
    | with_reducible assumption
    | with_reducible apply spdmError_fp k_spdmError
    | with_reducible apply audit_fp k_audit
    | with_reducible refine advance_fp _ ?_
    | with_reducible apply hf
    | with_reducible refine ite_fp ?_ ?_)

theorem vendorAudited_fp {fw : Nat} {fz : State} (hw : 1245185 &&& fw = 1245185) (s : State) (sid : Nat) (oper needsOpen : Bool) (f : State → State)
    (hf : ∀ (v0 : State), Fp fw fz v0 → Fp fw fz (f v0)) (hz : Fp fw fz s) : Fp fw fz (vendorAudited s sid oper needsOpen f) := by
  have k_vendor := maskOf (V := 1245185) hw rfl
  have k_spdmFails := maskOf (V := 1114112) hw rfl
  unfold vendorAudited
  repeat' (first
    | with_reducible rfl
    | with_reducible assumption
    | with_reducible refine vendor_fp k_vendor _ _ _ _ _ (fun _ _ => ?_) ?_
    | with_reducible apply spdmFails_fp k_spdmFails
    | with_reducible apply hf
    | with_reducible refine ite_fp ?_ ?_)

theorem vendorDone_fp {fw : Nat} {fz : State} (hw : 1114112 &&& fw = 1114112) (s : State)
    (hz : Fp fw fz s) : Fp fw fz (vendorDone s) := by
  have k_spdmOut := maskOf (V := 1114112) hw rfl
  unfold vendorDone
  repeat' (first
    | with_reducible rfl
    | with_reducible assumption
    | with_reducible apply spdmOut_fp k_spdmOut)

theorem execSetHouseKey_fp (sid : Nat) (key : BitVec 256) (s : State) (t : State) (h : execSetHouseKey sid key s = .next t) :
    Fp 1245185 s t := by
  have hw : 1245185 &&& 1245185 = 1245185 := rfl
  unfold execSetHouseKey at h
  simp only [Host.Outcome.next.injEq] at h
  subst h
  have hz : Fp 1245185 s s := Fp.refl _ _
  have b16 := bitOf hw 16 rfl
  have k_vendorAudited := maskOf (V := 1245185) hw rfl
  have k_spdmFails := maskOf (V := 1114112) hw rfl
  have k_set := maskOf (V := 1) hw rfl
  have k_vendorDone := maskOf (V := 1114112) hw rfl
  have k_audit := maskOf (V := 196609) hw rfl
  repeat' (first
    | with_reducible rfl
    | with_reducible assumption
    | with_reducible refine onSdr_fp b16 _ _ ?_ ?_ ?_
    | with_reducible refine vendorAudited_fp k_vendorAudited _ _ _ _ _ (fun _ _ => ?_) ?_
    | with_reducible apply spdmFails_fp k_spdmFails
    | with_reducible apply set_fp k_set
    | with_reducible apply vendorDone_fp k_vendorDone
    | with_reducible apply audit_fp k_audit
    | with_reducible refine ite_fp ?_ ?_)

theorem execProgramKey_fp (sid idx : Nat) (digest : BitVec 384) (s : State) (t : State) (h : execProgramKey sid idx digest s = .next t) :
    Fp 1245185 s t := by
  have hw : 1245185 &&& 1245185 = 1245185 := rfl
  unfold execProgramKey at h
  simp only [Host.Outcome.next.injEq] at h
  subst h
  have hz : Fp 1245185 s s := Fp.refl _ _
  have b16 := bitOf hw 16 rfl
  have k_vendorAudited := maskOf (V := 1245185) hw rfl
  have k_spdmFails := maskOf (V := 1114112) hw rfl
  have k_vendorDone := maskOf (V := 1114112) hw rfl
  have k_audit := maskOf (V := 196609) hw rfl
  repeat' (first
    | with_reducible rfl
    | with_reducible assumption
    | with_reducible refine onSdr_fp b16 _ _ ?_ ?_ ?_
    | with_reducible refine vendorAudited_fp k_vendorAudited _ _ _ _ _ (fun _ _ => ?_) ?_
    | with_reducible apply spdmFails_fp k_spdmFails
    | with_reducible apply vendorDone_fp k_vendorDone
    | with_reducible apply audit_fp k_audit
    | with_reducible refine ite_fp ?_ ?_)

theorem mem_revoke {idx : Nat} (l : List Nat) : ∀ k ∈ l, k ∈ (if idx ∈ l then l else l ++ [idx]) := by
  intro k hk
  split
  · exact hk
  · exact List.mem_append_left _ hk

theorem execRevokeKey_fp (sid idx : Nat) (s : State) (t : State) (h : execRevokeKey sid idx s = .next t) :
    Fp 1245185 s t := by
  have hw : 1245185 &&& 1245185 = 1245185 := rfl
  unfold execRevokeKey at h
  simp only [Host.Outcome.next.injEq] at h
  subst h
  have hz : Fp 1245185 s s := Fp.refl _ _
  have b16 := bitOf hw 16 rfl
  have k_vendorAudited := maskOf (V := 1245185) hw rfl
  have k_spdmFails := maskOf (V := 1114112) hw rfl
  have k_vendorDone := maskOf (V := 1114112) hw rfl
  have k_audit := maskOf (V := 196609) hw rfl
  repeat' (first
    | with_reducible rfl
    | with_reducible assumption
    | with_reducible refine vendorAudited_fp k_vendorAudited _ _ _ _ _ (fun _ _ => ?_) ?_
    | with_reducible apply spdmFails_fp k_spdmFails
    | with_reducible apply vendorDone_fp k_vendorDone
    | with_reducible apply audit_fp k_audit
    | with_reducible refine onSdrUp_fp b16 _ _ (le_refl _) (mem_revoke _) ?_
    | with_reducible refine ite_fp ?_ ?_)

theorem le_of_floorMay {s : State} {v : Nat} (h : floorMay s v = true) : s.sdr.floor ≤ v := by
  simp only [floorMay, Bool.and_eq_true, decide_eq_true_eq] at h
  exact h.1

theorem raiseFloor_fp {fw : Nat} {fz : State} (hw : 196609 &&& fw = 196609) (s : State) (fn v : Nat) (spdm : Bool)
    (hv : s.sdr.floor ≤ v) (hz : Fp fw fz s) : Fp fw fz (raiseFloor s fn v spdm) :=
  audit_fp (maskOf hw rfl) _ _ _ _ _ _ (onSdrUp_fp (bitOf hw 16 rfl) _ _ hv (fun _ x => x) (set_fp (maskOf hw rfl) _ _ _ hz))

theorem injectFault_fp {fw : Nat} {fz : State} (hw : 950275 &&& fw = 950275) (s : State) (code : Nat)
    (hz : Fp fw fz s) : Fp fw fz (injectFault s code) := by
  have k_reportAs := maskOf (V := 950275) hw rfl
  unfold injectFault
  repeat' (first
    | with_reducible rfl
    | with_reducible assumption
    | with_reducible apply reportAs_fp k_reportAs
    | with_reducible refine ite_fp ?_ ?_
    | split)

theorem setLocked_fp {fw : Nat} {fz : State} (hw : 5214755 &&& fw = 5214755) (s : State) (v : Word) (f : Fld)
    (hz : Fp fw fz s) : Fp fw fz (setLocked s v f) := by
  have k_raiseFloor := maskOf (V := 196609) hw rfl
  have k_injectFault := maskOf (V := 950275) hw rfl
  have k_set := maskOf (V := 1) hw rfl
  have k_idataStore := maskOf (V := 4198945) hw rfl
  have k_setTaken := maskOf (V := 1) hw rfl
  unfold setLocked
  repeat' (first
    | with_reducible rfl
    | with_reducible assumption
    | with_reducible apply injectFault_fp k_injectFault
    | with_reducible apply set_fp k_set
    | with_reducible apply idataStore_fp k_idataStore
    | with_reducible apply setTaken_fp k_setTaken
    | with_reducible refine raiseFloor_fp k_raiseFloor _ _ _ _ (le_of_floorMay (by assumption)) ?_
    | split
    | with_reducible dsimp only)

theorem execWriteLocked_fp (sid off : Nat) (v : Word) (s : State) (t : State) (h : execWriteLocked sid off v s = .next t) :
    Fp 6263347 s t := by
  have hw : 6263347 &&& 6263347 = 6263347 := rfl
  unfold execWriteLocked at h
  simp only [Host.Outcome.next.injEq] at h
  subst h
  have hz : Fp 6263347 s s := Fp.refl _ _
  have k_vendorAudited := maskOf (V := 1245185) hw rfl
  have k_spdmFails := maskOf (V := 1114112) hw rfl
  have k_afterWrite := maskOf (V := 524307) hw rfl
  have k_setLocked := maskOf (V := 5214755) hw rfl
  have k_vendorDone := maskOf (V := 1114112) hw rfl
  have k_audit := maskOf (V := 196609) hw rfl
  repeat' (first
    | with_reducible rfl
    | with_reducible assumption
    | with_reducible refine vendorAudited_fp k_vendorAudited _ _ _ _ _ (fun _ _ => ?_) ?_
    | with_reducible apply spdmFails_fp k_spdmFails
    | with_reducible apply afterWrite_fp k_afterWrite
    | with_reducible apply setLocked_fp k_setLocked
    | with_reducible apply vendorDone_fp k_vendorDone
    | with_reducible apply audit_fp k_audit
    | with_reducible refine foldl_fp _ _ (fun _ _ _ => ?_) ?_
    | with_reducible refine foldlFst_fp _ _ (fun _ _ _ => ?_) ?_
    | with_reducible refine foldlSnd_fp _ _ (fun _ _ _ => ?_) ?_
    | with_reducible refine ite_fp ?_ ?_)

theorem execRaiseFloor_fp (sid : Nat) (seq : Word) (s : State) (t : State) (h : execRaiseFloor sid seq s = .next t) :
    Fp 1245185 s t := by
  have hw : 1245185 &&& 1245185 = 1245185 := rfl
  unfold execRaiseFloor at h
  simp only [Host.Outcome.next.injEq] at h
  subst h
  have hz : Fp 1245185 s s := Fp.refl _ _
  have k_vendorAudited := maskOf (V := 1245185) hw rfl
  have k_vendorDone := maskOf (V := 1114112) hw rfl
  have k_raiseFloor := maskOf (V := 196609) hw rfl
  have k_spdmFails := maskOf (V := 1114112) hw rfl
  repeat' (first
    | with_reducible rfl
    | with_reducible assumption
    | with_reducible refine vendorAudited_fp k_vendorAudited _ _ _ _ _ (fun _ _ => ?_) ?_
    | with_reducible apply vendorDone_fp k_vendorDone
    | with_reducible apply spdmFails_fp k_spdmFails
    | with_reducible refine raiseFloor_fp k_raiseFloor _ _ _ _ (le_of_floorMay (by assumption)) ?_
    | split)

theorem execReadAudit_fp (sid first count : Nat) (s : State) (t : State) (h : execReadAudit sid first count s = .next t) :
    Fp 1245185 s t := by
  have hw : 1245185 &&& 1245185 = 1245185 := rfl
  unfold execReadAudit at h
  simp only [Host.Outcome.next.injEq] at h
  subst h
  have hz : Fp 1245185 s s := Fp.refl _ _
  have k_vendor := maskOf (V := 1245185) hw rfl
  have k_spdmOut := maskOf (V := 1114112) hw rfl
  repeat' (first
    | with_reducible rfl
    | with_reducible assumption
    | with_reducible refine vendor_fp k_vendor _ _ _ _ _ (fun _ _ => ?_) ?_
    | with_reducible apply spdmOut_fp k_spdmOut)

theorem fullZeroise_fp {fw : Nat} {fz : State} (hw : 1799169 &&& fw = 1799169) (s : State) (spdm : Bool)
    (hz : Fp fw fz s) : Fp fw fz (fullZeroise s spdm) := by
  have b14 := bitOf hw 14 rfl
  have b16 := bitOf hw 16 rfl
  have k_countSessions := maskOf (V := 1) hw rfl
  have k_set := maskOf (V := 1) hw rfl
  have k_writeExit := maskOf (V := 1602561) hw rfl
  have k_audit := maskOf (V := 196609) hw rfl
  unfold fullZeroise
  repeat' (first
    | with_reducible rfl
    | with_reducible assumption
    | with_reducible refine onUnd_fp b14 _ _ ?_
    | with_reducible refine onSdr_fp b16 _ _ ?_ ?_ ?_
    | with_reducible apply countSessions_fp k_countSessions
    | with_reducible apply set_fp k_set
    | with_reducible apply writeExit_fp k_writeExit
    | with_reducible apply audit_fp k_audit
    | with_reducible refine ite_fp ?_ ?_)

theorem zeroiseTenant_fp {fw : Nat} {fz : State} (hw : 196609 &&& fw = 196609) (s : State) (t : Nat) (spdm : Bool)
    (hz : Fp fw fz s) : Fp fw fz (zeroiseTenant s t spdm) := by
  have b16 := bitOf hw 16 rfl
  have k_audit := maskOf (V := 196609) hw rfl
  unfold zeroiseTenant
  repeat' (first
    | with_reducible rfl
    | with_reducible assumption
    | with_reducible refine onSdr_fp b16 _ _ ?_ ?_ ?_
    | with_reducible apply audit_fp k_audit)

theorem execSpdmZeroise_fp (sid : Nat) (tenant : Option (BitVec 12)) (s : State) (t : State) (h : execSpdmZeroise sid tenant s = .next t) :
    Fp 1799169 s t := by
  have hw : 1799169 &&& 1799169 = 1799169 := rfl
  unfold execSpdmZeroise at h
  simp only [Host.Outcome.next.injEq] at h
  subst h
  have hz : Fp 1799169 s s := Fp.refl _ _
  have k_vendorAudited := maskOf (V := 1245185) hw rfl
  have k_fullZeroise := maskOf (V := 1799169) hw rfl
  have k_vendorDone := maskOf (V := 1114112) hw rfl
  have k_zeroiseTenant := maskOf (V := 196609) hw rfl
  repeat' (first
    | with_reducible rfl
    | with_reducible assumption
    | with_reducible refine vendorAudited_fp k_vendorAudited _ _ _ _ _ (fun _ _ => ?_) ?_
    | with_reducible apply fullZeroise_fp k_fullZeroise
    | with_reducible apply vendorDone_fp k_vendorDone
    | with_reducible apply zeroiseTenant_fp k_zeroiseTenant
    | split)

theorem execZeroise_fp (v : Word) (s : State) (t : State) (h : execZeroise v s = .next t) :
    Fp 1799187 s t := by
  have hw : 1799187 &&& 1799187 = 1799187 := rfl
  unfold execZeroise at h
  simp only [Host.Outcome.next.injEq] at h
  subst h
  have hz : Fp 1799187 s s := Fp.refl _ _
  have k_commandWord := maskOf (V := 729107) hw rfl
  have k_zeroiseTenant := maskOf (V := 196609) hw rfl
  have k_fullZeroise := maskOf (V := 1799169) hw rfl
  repeat' (first
    | with_reducible rfl
    | with_reducible assumption
    | with_reducible apply commandWord_fp k_commandWord
    | with_reducible apply zeroiseTenant_fp k_zeroiseTenant
    | with_reducible apply fullZeroise_fp k_fullZeroise
    | with_reducible refine ite_fp ?_ ?_)

theorem execTenantZero_fp (v : Word) (s : State) (t : State) (h : execTenantZero v s = .next t) :
    Fp 729107 s t := by
  have hw : 729107 &&& 729107 = 729107 := rfl
  unfold execTenantZero at h
  simp only [Host.Outcome.next.injEq] at h
  subst h
  have hz : Fp 729107 s s := Fp.refl _ _
  have k_commandWord := maskOf (V := 729107) hw rfl
  have k_zeroiseTenant := maskOf (V := 196609) hw rfl
  repeat' (first
    | with_reducible rfl
    | with_reducible assumption
    | with_reducible apply commandWord_fp k_commandWord
    | with_reducible apply zeroiseTenant_fp k_zeroiseTenant
    | with_reducible refine ite_fp ?_ ?_)

theorem overwrite_fp {fw : Nat} {fz : State} (hw : 4211520 &&& fw = 4211520) (s : State)
    (hz : Fp fw fz s) : Fp fw fz (overwrite s) := by
  unfold overwrite
  refine onUnd_fp (bitOf hw 14 rfl) _ _ (onPrm_fp (bitOf hw 6 rfl) _ _ (onWdr_fp (bitOf hw 8 rfl) _ _
    (onMem_fp (bitOf hw 9 rfl) (bitOf hw 22 rfl) _ _ ?_ hz)))
  intro h
  exact AMap.wf_filter (V := Byte) _ _ _ h

theorem execZeroiseComplete_fp (s : State) (t : State) (h : execZeroiseComplete s = .next t) :
    Fp 4277057 s t := by
  have hw : 4277057 &&& 4277057 = 4277057 := rfl
  unfold execZeroiseComplete at h
  simp only [Host.Outcome.next.injEq] at h
  subst h
  have hz : Fp 4277057 s s := Fp.refl _ _
  have b16 := bitOf hw 16 rfl
  have k_overwrite := maskOf (V := 4211520) hw rfl
  have k_set := maskOf (V := 1) hw rfl
  repeat' (first
    | with_reducible rfl
    | with_reducible assumption
    | with_reducible refine onSdr_fp b16 _ _ ?_ ?_ ?_
    | with_reducible apply overwrite_fp k_overwrite
    | with_reducible apply set_fp k_set
    | with_reducible refine ite_fp ?_ ?_)

theorem execTamper_fp (sensor : Word) (s : State) (t : State) (h : execTamper sensor s = .next t) :
    Fp 1799169 s t := by
  have hw : 1799169 &&& 1799169 = 1799169 := rfl
  unfold execTamper at h
  simp only [Host.Outcome.next.injEq] at h
  subst h
  have hz : Fp 1799169 s s := Fp.refl _ _
  have k_audit := maskOf (V := 196609) hw rfl
  have k_fullZeroise := maskOf (V := 1799169) hw rfl
  repeat' (first
    | with_reducible rfl
    | with_reducible assumption
    | with_reducible apply audit_fp k_audit
    | with_reducible apply fullZeroise_fp k_fullZeroise
    | with_reducible refine ite_fp ?_ ?_)

theorem execTkeyImport_fp (v : Word) (s : State) (t : State) (h : execTkeyImport v s = .next t) :
    Fp 729107 s t := by
  have hw : 729107 &&& 729107 = 729107 := rfl
  unfold execTkeyImport at h
  simp only [Host.Outcome.next.injEq] at h
  subst h
  have hz : Fp 729107 s s := Fp.refl _ _
  have b16 := bitOf hw 16 rfl
  have k_commandWord := maskOf (V := 729107) hw rfl
  have k_set := maskOf (V := 1) hw rfl
  have k_audit := maskOf (V := 196609) hw rfl
  repeat' (first
    | with_reducible rfl
    | with_reducible assumption
    | with_reducible refine onSdr_fp b16 _ _ ?_ ?_ ?_
    | with_reducible apply commandWord_fp k_commandWord
    | with_reducible apply set_fp k_set
    | with_reducible apply audit_fp k_audit
    | with_reducible refine ite_fp ?_ ?_
    | split)

theorem keyBoundary_fp {fw : Nat} {fz : State} (hw : 196609 &&& fw = 196609) (s : State) (n : Nat)
    (hz : Fp fw fz s) : Fp fw fz (keyBoundary s n) := by
  have b16 := bitOf hw 16 rfl
  have k_audit := maskOf (V := 196609) hw rfl
  have k_set := maskOf (V := 1) hw rfl
  unfold keyBoundary
  repeat' (first
    | with_reducible rfl
    | with_reducible assumption
    | with_reducible refine onSdr_fp b16 _ _ ?_ ?_ ?_
    | with_reducible apply audit_fp k_audit
    | with_reducible apply set_fp k_set
    | with_reducible refine ite_fp ?_ ?_
    | split)

theorem execFloorWrite_fp (fn : Fin 128) (v : Word) (s : State) (t : State) (h : execFloorWrite fn v s = .next t) :
    Fp 196609 s t := by
  have hw : 196609 &&& 196609 = 196609 := rfl
  unfold execFloorWrite at h
  simp only [Host.Outcome.next.injEq] at h
  subst h
  have hz : Fp 196609 s s := Fp.refl _ _
  have k_lockedOut := maskOf (V := 196609) hw rfl
  have k_raiseFloor := maskOf (V := 196609) hw rfl
  repeat' (first
    | with_reducible rfl
    | with_reducible assumption
    | with_reducible apply lockedOut_fp k_lockedOut
    | with_reducible refine raiseFloor_fp k_raiseFloor _ _ _ _ (le_of_floorMay (And.left (Bool.and_eq_true_iff.mp (by assumption)))) ?_
    | split)

theorem execAuditClose_fp (s : State) (t : State) (h : execAuditClose s = .next t) :
    Fp 196609 s t := by
  have hw : 196609 &&& 196609 = 196609 := rfl
  unfold execAuditClose at h
  simp only [Host.Outcome.next.injEq] at h
  subst h
  have hz : Fp 196609 s s := Fp.refl _ _
  have k_handAudit := maskOf (V := 196609) hw rfl
  repeat' (first
    | with_reducible rfl
    | with_reducible assumption
    | with_reducible apply handAudit_fp k_handAudit)

end Sys2Proof.Machine
end

