-- ==== Sys2Proof/Laws/FootLedger.lean ====
section
/-!
SUPPORT. Footprints of the operations of Machine/Ledger.lean: what each may touch (Fp).
-/
namespace Sys2Proof.Machine

theorem retire_fp {fw : Nat} {fz : State} (hw : 950275 &&& fw = 950275) (s : State) (p : Nat)
    (hz : Fp fw fz s) : Fp fw fz (retire s p) := by
  have k_journalAdd := maskOf (V := 131072) hw rfl
  have k_onPblk := maskOf (V := 131072) hw rfl
  have k_ledgerShow := maskOf (V := 1) hw rfl
  have k_inc := maskOf (V := 1) hw rfl
  have k_report := maskOf (V := 950275) hw rfl
  have k_set := maskOf (V := 1) hw rfl
  unfold retire
  repeat' (first
    | with_reducible rfl
    | with_reducible assumption
    | with_reducible apply journalAdd_fp k_journalAdd
    | with_reducible apply onPblk_fp k_onPblk
    | with_reducible apply ledgerShow_fp k_ledgerShow
    | with_reducible apply inc_fp k_inc
    | with_reducible apply report_fp k_report
    | with_reducible refine advance_fp _ ?_
    | with_reducible apply set_fp k_set
    | with_reducible refine ite_fp ?_ ?_)

theorem failFree_fp {fw : Nat} {fz : State} (hw : 950275 &&& fw = 950275) (s : State)
    (hz : Fp fw fz s) : Fp fw fz (failFree s) := by
  have k_retire := maskOf (V := 950275) hw rfl
  unfold failFree
  repeat' (first
    | with_reducible rfl
    | with_reducible assumption
    | with_reducible apply retire_fp k_retire
    | with_reducible refine advance_fp _ ?_
    | split)

theorem writeBlock_fp {fw : Nat} {fz : State} (hw : 950275 &&& fw = 950275) (s : State) (lb : Nat) (ok : Bool)
    (hz : Fp fw fz s) : Fp fw fz (writeBlock s lb ok) := by
  have k_storeBlock := maskOf (V := 131073) hw rfl
  have k_failFree := maskOf (V := 950275) hw rfl
  unfold writeBlock
  repeat' (first
    | with_reducible rfl
    | with_reducible assumption
    | with_reducible apply storeBlock_fp k_storeBlock
    | with_reducible apply failFree_fp k_failFree
    | with_reducible refine ite_fp ?_ ?_)

theorem nextPage_fp {fw : Nat} {fz : State} (hw : 950275 &&& fw = 950275) (s : State) (ok : Bool)
    (hz : Fp fw fz s) : Fp fw fz (nextPage s ok) := by
  have b17 := bitOf hw 17 rfl
  have k_ledgerShow := maskOf (V := 1) hw rfl
  have k_onPblk := maskOf (V := 131072) hw rfl
  have k_retire := maskOf (V := 950275) hw rfl
  have k_storeBlock := maskOf (V := 131073) hw rfl
  unfold nextPage
  repeat' (first
    | with_reducible rfl
    | with_reducible assumption
    | with_reducible refine onLdg_fp b17 _ _ ?_
    | with_reducible apply ledgerShow_fp k_ledgerShow
    | with_reducible apply onPblk_fp k_onPblk
    | with_reducible apply retire_fp k_retire
    | with_reducible apply storeBlock_fp k_storeBlock
    | with_reducible refine ite_fp ?_ ?_)

theorem persisted_fp {fw : Nat} {fz : State} (hw : 196609 &&& fw = 196609) (s : State) (n : Nat)
    (hz : Fp fw fz s) : Fp fw fz (persisted s n) := by
  have b16 := bitOf hw 16 rfl
  have k_audit := maskOf (V := 196609) hw rfl
  unfold persisted
  repeat' (first
    | with_reducible rfl
    | with_reducible assumption
    | with_reducible refine onSdr_fp b16 _ _ ?_ ?_ ?_
    | with_reducible apply audit_fp k_audit
    | with_reducible refine ite_fp ?_ ?_)

theorem execLogPageProgram_fp (ok : Bool) (s : State) (t : State) (h : execLogPageProgram ok s = .next t) :
    Fp 1019907 s t := by
  have hw : 1019907 &&& 1019907 = 1019907 := rfl
  unfold execLogPageProgram at h
  simp only [Host.Outcome.next.injEq] at h
  subst h
  have hz : Fp 1019907 s s := Fp.refl _ _
  have b17 := bitOf hw 17 rfl
  have k_demandDom := maskOf (V := 4097) hw rfl
  have k_nextPage := maskOf (V := 950275) hw rfl
  have k_persisted := maskOf (V := 196609) hw rfl
  repeat' (first
    | with_reducible rfl
    | with_reducible assumption
    | with_reducible refine onLdg_fp b17 _ _ ?_
    | with_reducible apply demandDom_fp k_demandDom
    | with_reducible apply nextPage_fp k_nextPage
    | with_reducible apply persisted_fp k_persisted
    | with_reducible refine ite_fp ?_ ?_)

theorem putSlot_fp {fw : Nat} {fz : State} (hw : 131072 &&& fw = 131072) (s : State) (k : Nat) (x : ImgSlot)
    (hz : Fp fw fz s) : Fp fw fz (putSlot s k x) := by
  have b17 := bitOf hw 17 rfl
  unfold putSlot
  repeat' (first
    | with_reducible rfl
    | with_reducible assumption
    | with_reducible refine onLdg_fp b17 _ _ ?_)

theorem storeResult_fp {fw : Nat} {fz : State} (hw : 1 &&& fw = 1) (s : State) (r : Nat)
    (hz : Fp fw fz s) : Fp fw fz (storeResult s r) := by
  have k_set := maskOf (V := 1) hw rfl
  unfold storeResult
  repeat' (first
    | with_reducible rfl
    | with_reducible assumption
    | with_reducible apply set_fp k_set)

theorem beginStore_fp {fw : Nat} {fz : State} (hw : 131073 &&& fw = 131073) (s : State) (k : Nat) (x : ImgSlot)
    (hz : Fp fw fz s) : Fp fw fz (beginStore s k x) := by
  have b17 := bitOf hw 17 rfl
  have k_storeBlock := maskOf (V := 131073) hw rfl
  have k_putSlot := maskOf (V := 131072) hw rfl
  have k_storeResult := maskOf (V := 1) hw rfl
  unfold beginStore
  repeat' (first
    | with_reducible rfl
    | with_reducible assumption
    | with_reducible refine onLdg_fp b17 _ _ ?_
    | with_reducible apply storeBlock_fp k_storeBlock
    | with_reducible apply putSlot_fp k_putSlot
    | with_reducible apply storeResult_fp k_storeResult)

theorem tryStore_fp {fw : Nat} {fz : State} (hw : 131073 &&& fw = 131073) (s : State) (k : Nat) (img : List Byte)
    (hz : Fp fw fz s) : Fp fw fz (tryStore s k img) := by
  have k_storeResult := maskOf (V := 1) hw rfl
  have k_beginStore := maskOf (V := 131073) hw rfl
  unfold tryStore
  repeat' (first
    | with_reducible rfl
    | with_reducible assumption
    | with_reducible apply storeResult_fp k_storeResult
    | with_reducible refine advance_fp _ ?_
    | with_reducible apply beginStore_fp k_beginStore
    | split)

theorem execLedgerStore_fp (v : Word) (s : State) (t : State) (h : execLedgerStore v s = .next t) :
    Fp 733203 s t := by
  have hw : 733203 &&& 733203 = 733203 := rfl
  unfold execLedgerStore at h
  simp only [Host.Outcome.next.injEq] at h
  subst h
  have hz : Fp 733203 s s := Fp.refl _ _
  have k_commandWord := maskOf (V := 729107) hw rfl
  have k_storeResult := maskOf (V := 1) hw rfl
  have k_tryStore := maskOf (V := 131073) hw rfl
  have k_demandDom := maskOf (V := 4097) hw rfl
  repeat' (first
    | with_reducible rfl
    | with_reducible assumption
    | with_reducible apply commandWord_fp k_commandWord
    | with_reducible apply storeResult_fp k_storeResult
    | with_reducible apply tryStore_fp k_tryStore
    | with_reducible apply demandDom_fp k_demandDom
    | with_reducible refine ite_fp ?_ ?_)

theorem execLedgerStoreDone_fp (ok : Bool) (s : State) (t : State) (h : execLedgerStoreDone ok s = .next t) :
    Fp 954371 s t := by
  have hw : 954371 &&& 954371 = 954371 := rfl
  unfold execLedgerStoreDone at h
  simp only [Host.Outcome.next.injEq] at h
  subst h
  have hz : Fp 954371 s s := Fp.refl _ _
  have b17 := bitOf hw 17 rfl
  have k_demandDom := maskOf (V := 4097) hw rfl
  have k_failFree := maskOf (V := 950275) hw rfl
  have k_storeResult := maskOf (V := 1) hw rfl
  have k_storeBlock := maskOf (V := 131073) hw rfl
  have k_putSlot := maskOf (V := 131072) hw rfl
  have k_set := maskOf (V := 1) hw rfl
  repeat' (first
    | with_reducible rfl
    | with_reducible assumption
    | with_reducible refine onLdg_fp b17 _ _ ?_
    | with_reducible apply demandDom_fp k_demandDom
    | with_reducible apply failFree_fp k_failFree
    | with_reducible apply storeResult_fp k_storeResult
    | with_reducible apply storeBlock_fp k_storeBlock
    | with_reducible apply putSlot_fp k_putSlot
    | with_reducible apply set_fp k_set
    | with_reducible refine foldl_fp _ _ (fun _ _ _ => ?_) ?_
    | with_reducible refine foldlFst_fp _ _ (fun _ _ _ => ?_) ?_
    | with_reducible refine foldlSnd_fp _ _ (fun _ _ _ => ?_) ?_
    | with_reducible refine ite_fp ?_ ?_
    | split)

theorem execWearLevelMove_fp (ok : Bool) (s : State) (t : State) (h : execWearLevelMove ok s = .next t) :
    Fp 954371 s t := by
  have hw : 954371 &&& 954371 = 954371 := rfl
  unfold execWearLevelMove at h
  simp only [Host.Outcome.next.injEq] at h
  subst h
  have hz : Fp 954371 s s := Fp.refl _ _
  have b17 := bitOf hw 17 rfl
  have k_demandDom := maskOf (V := 4097) hw rfl
  have k_rewriteTo := maskOf (V := 131073) hw rfl
  have k_storeBlock := maskOf (V := 131073) hw rfl
  have k_retire := maskOf (V := 950275) hw rfl
  repeat' (first
    | with_reducible rfl
    | with_reducible assumption
    | with_reducible refine onLdg_fp b17 _ _ ?_
    | with_reducible apply demandDom_fp k_demandDom
    | with_reducible refine advance_fp _ ?_
    | with_reducible apply rewriteTo_fp k_rewriteTo
    | with_reducible apply storeBlock_fp k_storeBlock
    | with_reducible apply retire_fp k_retire
    | with_reducible refine ite_fp ?_ ?_
    | split)

theorem execEccScheduledMove_fp (lb : Nat) (ok : Bool) (s : State) (t : State) (h : execEccScheduledMove lb ok s = .next t) :
    Fp 954371 s t := by
  have hw : 954371 &&& 954371 = 954371 := rfl
  unfold execEccScheduledMove at h
  simp only [Host.Outcome.next.injEq] at h
  subst h
  have hz : Fp 954371 s s := Fp.refl _ _
  have k_demandDom := maskOf (V := 4097) hw rfl
  have k_writeBlock := maskOf (V := 950275) hw rfl
  repeat' (first
    | with_reducible rfl
    | with_reducible assumption
    | with_reducible apply demandDom_fp k_demandDom
    | with_reducible apply writeBlock_fp k_writeBlock
    | with_reducible refine ite_fp ?_ ?_)

theorem cutRewrite_fp {fw : Nat} {fz : State} (hw : 131073 &&& fw = 131073) (s : State) (lb : Nat)
    (hz : Fp fw fz s) : Fp fw fz (cutRewrite s lb) := by
  have k_onPblk := maskOf (V := 131072) hw rfl
  have k_rewriteTo := maskOf (V := 131073) hw rfl
  unfold cutRewrite
  repeat' (first
    | with_reducible rfl
    | with_reducible assumption
    | with_reducible refine advance_fp _ ?_
    | with_reducible apply onPblk_fp k_onPblk
    | with_reducible apply rewriteTo_fp k_rewriteTo
    | with_reducible refine ite_fp ?_ ?_
    | split
    | with_reducible dsimp only)

theorem nandFault_fp {fw : Nat} {fz : State} (hw : 131072 &&& fw = 131072) (s : State)
    (hz : Fp fw fz s) : Fp fw fz (nandFault s) := by
  have k_onPblk := maskOf (V := 131072) hw rfl
  unfold nandFault
  repeat' (first
    | with_reducible rfl
    | with_reducible assumption
    | with_reducible refine advance_fp _ ?_
    | with_reducible apply onPblk_fp k_onPblk
    | with_reducible refine ite_fp ?_ ?_
    | split
    | with_reducible dsimp only)

theorem loseBlock_fp {fw : Nat} {fz : State} (hw : 131072 &&& fw = 131072) (s : State) (lb : Nat)
    (hz : Fp fw fz s) : Fp fw fz (loseBlock s lb) := by
  have b17 := bitOf hw 17 rfl
  unfold loseBlock
  repeat' (first
    | with_reducible rfl
    | with_reducible assumption
    | with_reducible refine onLdg_fp b17 _ _ ?_)

theorem repoint_fp {fw : Nat} {fz : State} (hw : 950275 &&& fw = 950275) (s : State) (p : Nat)
    (hz : Fp fw fz s) : Fp fw fz (repoint s p) := by
  have b17 := bitOf hw 17 rfl
  have k_inc := maskOf (V := 1) hw rfl
  have k_loseBlock := maskOf (V := 131072) hw rfl
  have k_report := maskOf (V := 950275) hw rfl
  unfold repoint
  repeat' (first
    | with_reducible rfl
    | with_reducible assumption
    | with_reducible refine onLdg_fp b17 _ _ ?_
    | with_reducible apply inc_fp k_inc
    | with_reducible apply loseBlock_fp k_loseBlock
    | with_reducible apply report_fp k_report
    | with_reducible refine advance_fp _ ?_
    | with_reducible refine ite_fp ?_ ?_
    | split)

theorem resolve_fp {fw : Nat} {fz : State} (hw : 1999887 &&& fw = 1999887) (s : State)
    (hz : Fp fw fz s) : Fp fw fz (resolve s) := by
  have k_complete := maskOf (V := 1606671) hw rfl
  have k_repoint := maskOf (V := 950275) hw rfl
  have k_onPblk := maskOf (V := 131072) hw rfl
  have k_inc := maskOf (V := 1) hw rfl
  unfold resolve
  repeat' (first
    | with_reducible rfl
    | with_reducible assumption
    | with_reducible apply complete_fp k_complete (by assumption)
    | with_reducible apply complete_fp1 k_complete
    | with_reducible apply repoint_fp k_repoint
    | with_reducible apply onPblk_fp k_onPblk
    | with_reducible apply inc_fp k_inc
    | with_reducible refine foldl_fp _ _ (fun _ _ _ => ?_) ?_)

theorem recover_fp {fw : Nat} {fz : State} (hw : 1999887 &&& fw = 1999887) (s : State)
    (hz : Fp fw fz s) : Fp fw fz (recover s) := by
  have b17 := bitOf hw 17 rfl
  have k_cutRewrite := maskOf (V := 131073) hw rfl
  have k_nandFault := maskOf (V := 131072) hw rfl
  have k_report := maskOf (V := 950275) hw rfl
  have k_resolve := maskOf (V := 1999887) hw rfl
  have k_set := maskOf (V := 1) hw rfl
  have k_ledgerShow := maskOf (V := 1) hw rfl
  unfold recover
  repeat' (first
    | with_reducible rfl
    | with_reducible assumption
    | with_reducible refine onLdg_fp b17 _ _ ?_
    | with_reducible apply cutRewrite_fp k_cutRewrite
    | with_reducible refine advance_fp _ ?_
    | with_reducible apply nandFault_fp k_nandFault
    | with_reducible apply report_fp k_report
    | with_reducible apply resolve_fp k_resolve
    | with_reducible apply set_fp k_set
    | with_reducible apply ledgerShow_fp k_ledgerShow
    | with_reducible refine ite_fp ?_ ?_
    | split)

end Sys2Proof.Machine
end

