-- ==== Sys2Proof/Laws/FootHostLoss.lean ====
section
/-!
SUPPORT. Footprints of the operations of Machine/HostLoss.lean: what each may touch (Fp).
-/
namespace Sys2Proof.Machine

theorem resetRange_fp {fw : Nat} {fz : State} (hw : 1 &&& fw = 1) (s : State) (a n : Nat)
    (hz : Fp fw fz s) : Fp fw fz (resetRange s a n) := by
  have b0 := bitOf hw 0 rfl
  unfold resetRange
  repeat' (first
    | with_reducible rfl
    | with_reducible assumption
    | with_reducible refine onRegs_fp b0 _ _ ?_)

theorem resetQueues_fp {fw : Nat} {fz : State} (hw : 524291 &&& fw = 524291) (s : State)
    (hz : Fp fw fz s) : Fp fw fz (resetQueues s) := by
  have b1 := bitOf hw 1 rfl
  have k_abortQueues := maskOf (V := 524291) hw rfl
  have k_resetRange := maskOf (V := 1) hw rfl
  unfold resetQueues
  repeat' (first
    | with_reducible rfl
    | with_reducible assumption
    | with_reducible refine onHiu_fp b1 _ _ ?_
    | with_reducible apply abortQueues_fp k_abortQueues
    | with_reducible apply resetRange_fp k_resetRange)

theorem cancelCall_fp {fw : Nat} {fz : State} (hw : 1573893 &&& fw = 1573893) (s : State) (e : CallEnt) (code : Nat)
    (hz : Fp fw fz s) : Fp fw fz (cancelCall s e code) := by
  have k_arriveCard := maskOf (V := 525317) hw rfl
  have k_sendPkt := maskOf (V := 1049601) hw rfl
  unfold cancelCall
  repeat' (first
    | with_reducible rfl
    | with_reducible assumption
    | with_reducible apply arriveCard_fp k_arriveCard
    | with_reducible apply sendPkt_fp k_sendPkt
    | with_reducible refine ite_fp ?_ ?_)

theorem linkGone_fp {fw : Nat} {fz : State} (hw : 1 &&& fw = 1) (s : State)
    (hz : Fp fw fz s) : Fp fw fz (linkGone s) := by
  have k_set := maskOf (V := 1) hw rfl
  unfold linkGone
  repeat' (first
    | with_reducible rfl
    | with_reducible assumption
    | with_reducible apply set_fp k_set)

theorem loseHost_fp {fw : Nat} {fz : State} (hw : 1574415 &&& fw = 1574415) (s : State)
    (hz : Fp fw fz s) : Fp fw fz (loseHost s) := by
  have b1 := bitOf hw 1 rfl
  have k_abortQueues := maskOf (V := 524291) hw rfl
  have k_set := maskOf (V := 1) hw rfl
  have k_linkGone := maskOf (V := 1) hw rfl
  have k_toLead := maskOf (V := 1049601) hw rfl
  have k_leadSpilled := maskOf (V := 1574415) hw rfl
  unfold loseHost
  repeat' (first
    | with_reducible rfl
    | with_reducible assumption
    | with_reducible refine onHiu_fp b1 _ _ ?_
    | with_reducible apply abortQueues_fp k_abortQueues
    | with_reducible apply set_fp k_set
    | with_reducible apply linkGone_fp k_linkGone
    | with_reducible refine toLead_fp k_toLead _ _ _ _ _ (fun _ _ => ?_) ?_
    | with_reducible apply leadSpilled_fp k_leadSpilled
    | with_reducible refine foldl_fp _ _ (fun _ _ _ => ?_) ?_
    | with_reducible refine foldlFst_fp _ _ (fun _ _ _ => ?_) ?_
    | with_reducible refine foldlSnd_fp _ _ (fun _ _ _ => ?_) ?_
    | with_reducible refine ite_fp ?_ ?_)

theorem tellParks_fp {fw : Nat} {fz : State} (hw : 1049611 &&& fw = 1049611) (s : State)
    (hz : Fp fw fz s) : Fp fw fz (tellParks s) := by
  have k_onEnt := maskOf (V := 2) hw rfl
  have k_tellLead := maskOf (V := 1049609) hw rfl
  unfold tellParks
  repeat' (first
    | with_reducible rfl
    | with_reducible assumption
    | with_reducible apply onEnt_fp k_onEnt
    | with_reducible apply tellLead_fp k_tellLead
    | with_reducible refine foldl_fp _ _ (fun _ _ _ => ?_) ?_)

theorem parkHost_fp {fw : Nat} {fz : State} (hw : 1049611 &&& fw = 1049611) (s : State)
    (hz : Fp fw fz s) : Fp fw fz (parkHost s) := by
  have b1 := bitOf hw 1 rfl
  have k_tellParks := maskOf (V := 1049611) hw rfl
  unfold parkHost
  repeat' (first
    | with_reducible rfl
    | with_reducible assumption
    | with_reducible refine onHiu_fp b1 _ _ ?_
    | with_reducible apply tellParks_fp k_tellParks)

theorem execHostLoss_fp (s : State) (t : State) (h : execHostLoss s = .next t) :
    Fp 1574415 s t := by
  have hw : 1574415 &&& 1574415 = 1574415 := rfl
  unfold execHostLoss at h
  simp only [Host.Outcome.next.injEq] at h
  subst h
  have hz : Fp 1574415 s s := Fp.refl _ _
  have k_loseHost := maskOf (V := 1574415) hw rfl
  repeat' (first
    | with_reducible rfl
    | with_reducible assumption
    | with_reducible apply loseHost_fp k_loseHost)

theorem execPerstAssert_fp (s : State) (t : State) (h : execPerstAssert s = .next t) :
    Fp 1574415 s t := by
  have hw : 1574415 &&& 1574415 = 1574415 := rfl
  unfold execPerstAssert at h
  simp only [Host.Outcome.next.injEq] at h
  subst h
  have hz : Fp 1574415 s s := Fp.refl _ _
  have b1 := bitOf hw 1 rfl
  have b19 := bitOf hw 19 rfl
  have k_loseHost := maskOf (V := 1574415) hw rfl
  have k_linkGone := maskOf (V := 1) hw rfl
  have k_resetQueues := maskOf (V := 524291) hw rfl
  have k_resetRange := maskOf (V := 1) hw rfl
  repeat' (first
    | with_reducible rfl
    | with_reducible assumption
    | with_reducible refine onHiu_fp b1 _ _ ?_
    | with_reducible refine onBrd_fp b19 _ _ ?_
    | with_reducible apply loseHost_fp k_loseHost
    | with_reducible apply linkGone_fp k_linkGone
    | with_reducible apply resetQueues_fp k_resetQueues
    | with_reducible apply resetRange_fp k_resetRange
    | with_reducible refine foldl_fp _ _ (fun _ _ _ => ?_) ?_
    | with_reducible refine foldlFst_fp _ _ (fun _ _ _ => ?_) ?_
    | with_reducible refine foldlSnd_fp _ _ (fun _ _ _ => ?_) ?_
    | with_reducible refine ite_fp ?_ ?_)

theorem execPerstDeassert_fp (s : State) (t : State) (h : execPerstDeassert s = .next t) :
    Fp 524288 s t := by
  have hw : 524288 &&& 524288 = 524288 := rfl
  unfold execPerstDeassert at h
  simp only [Host.Outcome.next.injEq] at h
  subst h
  have hz : Fp 524288 s s := Fp.refl _ _
  have b19 := bitOf hw 19 rfl
  repeat' (first
    | with_reducible rfl
    | with_reducible assumption
    | with_reducible refine onBrd_fp b19 _ _ ?_
    | with_reducible refine ite_fp ?_ ?_)

theorem execPcieLinkUp_fp (width rate : Nat) (s : State) (t : State) (h : execPcieLinkUp width rate s = .next t) :
    Fp 3 s t := by
  have hw : 3 &&& 3 = 3 := rfl
  unfold execPcieLinkUp at h
  simp only [Host.Outcome.next.injEq] at h
  subst h
  have hz : Fp 3 s s := Fp.refl _ _
  have b1 := bitOf hw 1 rfl
  have k_set := maskOf (V := 1) hw rfl
  repeat' (first
    | with_reducible rfl
    | with_reducible assumption
    | with_reducible refine onHiu_fp b1 _ _ ?_
    | with_reducible apply set_fp k_set
    | with_reducible refine advance_fp _ ?_
    | with_reducible refine ite_fp ?_ ?_)

theorem graceEnds_fp {fw : Nat} {fz : State} (hw : 1573895 &&& fw = 1573895) (code : Nat) (s : State) (e : CallEnt)
    (hz : Fp fw fz s) : Fp fw fz (graceEnds code s e) := by
  have k_dropEnt := maskOf (V := 2) hw rfl
  have k_cancelCall := maskOf (V := 1573893) hw rfl
  have k_unreserveNq := maskOf (V := 2) hw rfl
  unfold graceEnds
  repeat' (first
    | with_reducible rfl
    | with_reducible assumption
    | with_reducible apply dropEnt_fp k_dropEnt
    | with_reducible apply cancelCall_fp k_cancelCall
    | with_reducible apply unreserveNq_fp k_unreserveNq
    | with_reducible refine ite_fp ?_ ?_)

theorem dropSlots_fp {fw : Nat} {fz : State} (hw : 2 &&& fw = 2) (s : State) (fs : List Nat)
    (hz : Fp fw fz s) : Fp fw fz (dropSlots s fs) := by
  have b1 := bitOf hw 1 rfl
  unfold dropSlots
  repeat' (first
    | with_reducible rfl
    | with_reducible assumption
    | with_reducible refine onHiu_fp b1 _ _ ?_)

theorem graceHeath_fp {fw : Nat} {fz : State} (hw : 1049609 &&& fw = 1049609) (s : State)
    (hz : Fp fw fz s) : Fp fw fz (graceHeath s) := by
  have b3 := bitOf hw 3 rfl
  have k_toLead := maskOf (V := 1049601) hw rfl
  unfold graceHeath
  repeat' (first
    | with_reducible rfl
    | with_reducible assumption
    | with_reducible refine onStm_fp b3 _ _ ?_
    | with_reducible refine toLead_fp k_toLead _ _ _ _ _ (fun _ _ => ?_) ?_
    | with_reducible refine foldl_fp _ _ (fun _ _ _ => ?_) ?_
    | with_reducible refine foldlFst_fp _ _ (fun _ _ _ => ?_) ?_
    | with_reducible refine foldlSnd_fp _ _ (fun _ _ _ => ?_) ?_
    | with_reducible refine ite_fp ?_ ?_)

theorem execGraceExpiry_fp (s : State) (t : State) (h : execGraceExpiry s = .next t) :
    Fp 3671055 s t := by
  have hw : 3671055 &&& 3671055 = 3671055 := rfl
  unfold execGraceExpiry at h
  simp only [Host.Outcome.next.injEq] at h
  subst h
  have hz : Fp 3671055 s s := Fp.refl _ _
  have b1 := bitOf hw 1 rfl
  have b21 := bitOf hw 21 rfl
  have k_dropSlots := maskOf (V := 2) hw rfl
  have k_graceEnds := maskOf (V := 1573895) hw rfl
  have k_set := maskOf (V := 1) hw rfl
  have k_graceHeath := maskOf (V := 1049609) hw rfl
  repeat' (first
    | with_reducible rfl
    | with_reducible assumption
    | with_reducible refine onHiu_fp b1 _ _ ?_
    | with_reducible refine setSt_fp b21 _ _ ?_
    | with_reducible apply dropSlots_fp k_dropSlots
    | with_reducible apply graceEnds_fp k_graceEnds
    | with_reducible apply set_fp k_set
    | with_reducible apply graceHeath_fp k_graceHeath
    | with_reducible refine foldl_fp _ _ (fun _ _ _ => ?_) ?_
    | with_reducible refine foldlFst_fp _ _ (fun _ _ _ => ?_) ?_
    | with_reducible refine foldlSnd_fp _ _ (fun _ _ _ => ?_) ?_
    | with_reducible refine ite_fp ?_ ?_
    | split)

theorem execFunctionLevelReset_fp (fn : Fin 128) (s : State) (t : State) (h : execFunctionLevelReset fn s = .next t) :
    Fp 1573895 s t := by
  have hw : 1573895 &&& 1573895 = 1573895 := rfl
  unfold execFunctionLevelReset at h
  simp only [Host.Outcome.next.injEq] at h
  subst h
  have hz : Fp 1573895 s s := Fp.refl _ _
  have b1 := bitOf hw 1 rfl
  have k_graceEnds := maskOf (V := 1573895) hw rfl
  have k_resetRange := maskOf (V := 1) hw rfl
  have k_wmUpdate := maskOf (V := 524289) hw rfl
  have k_resetQueues := maskOf (V := 524291) hw rfl
  repeat' (first
    | with_reducible rfl
    | with_reducible assumption
    | with_reducible refine onHiu_fp b1 _ _ ?_
    | with_reducible apply graceEnds_fp k_graceEnds
    | with_reducible apply resetRange_fp k_resetRange
    | with_reducible apply wmUpdate_fp k_wmUpdate
    | with_reducible apply resetQueues_fp k_resetQueues
    | with_reducible refine foldl_fp _ _ (fun _ _ _ => ?_) ?_
    | with_reducible refine foldlFst_fp _ _ (fun _ _ _ => ?_) ?_
    | with_reducible refine foldlSnd_fp _ _ (fun _ _ _ => ?_) ?_
    | with_reducible refine ite_fp ?_ ?_)

theorem execFlrComplete_fp (fn : Fin 128) (s : State) (t : State) (h : execFlrComplete fn s = .next t) :
    Fp 2 s t := by
  have hw : 2 &&& 2 = 2 := rfl
  unfold execFlrComplete at h
  simp only [Host.Outcome.next.injEq] at h
  subst h
  have hz : Fp 2 s s := Fp.refl _ _
  have b1 := bitOf hw 1 rfl
  repeat' (first
    | with_reducible rfl
    | with_reducible assumption
    | with_reducible refine onHiu_fp b1 _ _ ?_)

theorem pcieAnswer_fp {fw : Nat} {fz : State} (hw : 1048576 &&& fw = 1048576) (s : State) (c data : Nat)
    (hz : Fp fw fz s) : Fp fw fz (pcieAnswer s c data) := by
  have b20 := bitOf hw 20 rfl
  unfold pcieAnswer
  repeat' (first
    | with_reducible rfl
    | with_reducible assumption
    | with_reducible refine onOut_fp b20 _ _ ?_)

theorem execConfigurationRequest_fp (fn : Fin 128) (s : State) (t : State) (h : execConfigurationRequest fn s = .next t) :
    Fp 1048576 s t := by
  have hw : 1048576 &&& 1048576 = 1048576 := rfl
  unfold execConfigurationRequest at h
  simp only [Host.Outcome.next.injEq] at h
  subst h
  have hz : Fp 1048576 s s := Fp.refl _ _
  have k_pcieAnswer := maskOf (V := 1048576) hw rfl
  repeat' (first
    | with_reducible rfl
    | with_reducible assumption
    | with_reducible apply pcieAnswer_fp k_pcieAnswer
    | with_reducible refine ite_fp ?_ ?_)

theorem execPasidTlp_fp (s : State) (t : State) (h : execPasidTlp s = .next t) :
    Fp 1048576 s t := by
  have hw : 1048576 &&& 1048576 = 1048576 := rfl
  unfold execPasidTlp at h
  simp only [Host.Outcome.next.injEq] at h
  subst h
  have hz : Fp 1048576 s s := Fp.refl _ _
  have k_pcieAnswer := maskOf (V := 1048576) hw rfl
  repeat' (first
    | with_reducible rfl
    | with_reducible assumption
    | with_reducible apply pcieAnswer_fp k_pcieAnswer)

end Sys2Proof.Machine
end

