-- ==== Sys2Proof/Laws/FootBringUp.lean ====
section
/-!
SUPPORT. Footprints of the operations of Machine/BringUp.lean: what each may touch (Fp).
-/
namespace Sys2Proof.Machine

theorem cleared_fp {fw : Nat} {fz : State} (hw : 16777215 &&& fw = 16777215) (s : State) (warm : Bool)
    (hz : Fp fw fz s) : Fp fw fz (cleared s warm) :=
  hz.trans (Fp.mono (V := 16777215) ⟨rfl, le_refl _, fun _ => rfl, fun _ => rfl, fun _ => rfl, le_refl _, fun _ h => h,
    fun b => absurd b (by decide), fun b => absurd b (by decide), fun b => absurd b (by decide), fun b => absurd b (by decide), fun b => absurd b (by decide), fun b => absurd b (by decide), fun b => absurd b (by decide), fun b => absurd b (by decide), fun b => absurd b (by decide), fun b => absurd b (by decide), fun b => absurd b (by decide), fun b => absurd b (by decide), fun b => absurd b (by decide), fun b => absurd b (by decide), fun b => absurd b (by decide), fun b => absurd b (by decide), fun b => absurd b (by decide), fun b => absurd b (by decide), fun b => absurd b (by decide), fun b => absurd b (by decide), fun b => absurd b (by decide), fun b => absurd b (by decide), fun b => absurd b (by decide), fun b => absurd b (by decide)⟩ hw)

theorem setPhase_fp {fw : Nat} {fz : State} (hw : 1 &&& fw = 1) (s : State) (p : Nat)
    (hz : Fp fw fz s) : Fp fw fz (setPhase s p) := by
  have k_set := maskOf (V := 1) hw rfl
  unfold setPhase
  repeat' (first
    | with_reducible rfl
    | with_reducible assumption
    | with_reducible apply set_fp k_set)

theorem bootFails_fp {fw : Nat} {fz : State} (hw : 1 &&& fw = 1) (s : State) (why : Nat)
    (hz : Fp fw fz s) : Fp fw fz (bootFails s why) := by
  have k_set := maskOf (V := 1) hw rfl
  have k_setPhase := maskOf (V := 1) hw rfl
  unfold bootFails
  repeat' (first
    | with_reducible rfl
    | with_reducible assumption
    | with_reducible apply set_fp k_set
    | with_reducible apply setPhase_fp k_setPhase)

theorem beginSelftest_fp {fw : Nat} {fz : State} (hw : 1999887 &&& fw = 1999887) (s : State)
    (hz : Fp fw fz s) : Fp fw fz (beginSelftest s) := by
  have b17 := bitOf hw 17 rfl
  have b19 := bitOf hw 19 rfl
  have k_recover := maskOf (V := 1999887) hw rfl
  have k_setPhase := maskOf (V := 1) hw rfl
  have k_set := maskOf (V := 1) hw rfl
  have k_storeBlock := maskOf (V := 131073) hw rfl
  unfold beginSelftest
  repeat' (first
    | with_reducible rfl
    | with_reducible assumption
    | with_reducible refine onLdg_fp b17 _ _ ?_
    | with_reducible refine onBrd_fp b19 _ _ ?_
    | with_reducible apply recover_fp k_recover
    | with_reducible apply setPhase_fp k_setPhase
    | with_reducible apply set_fp k_set
    | with_reducible apply storeBlock_fp k_storeBlock
    | with_reducible refine ite_fp ?_ ?_)

theorem leaveReset_fp {fw : Nat} {fz : State} (hw : 1999887 &&& fw = 1999887) (s : State)
    (hz : Fp fw fz s) : Fp fw fz (leaveReset s) := by
  have k_beginSelftest := maskOf (V := 1999887) hw rfl
  unfold leaveReset
  repeat' (first
    | with_reducible rfl
    | with_reducible assumption
    | with_reducible apply beginSelftest_fp k_beginSelftest
    | with_reducible refine ite_fp ?_ ?_)

theorem putCredits_fp {fw : Nat} {fz : State} (hw : 1 &&& fw = 1) (s : State) (p : Plot)
    (hz : Fp fw fz s) : Fp fw fz (putCredits s p) := by
  have k_set := maskOf (V := 1) hw rfl
  unfold putCredits
  repeat' (first
    | with_reducible rfl
    | with_reducible assumption
    | with_reducible apply set_fp k_set
    | with_reducible refine foldl_fp _ _ (fun _ _ _ => ?_) ?_)

theorem plotRegsP_fp {fw : Nat} {fz : State} (hw : 17 &&& fw = 17) (s : State) (p : Plot)
    (hz : Fp fw fz s) : Fp fw fz (plotRegsP s p) := by
  have b4 := bitOf hw 4 rfl
  have k_set := maskOf (V := 1) hw rfl
  have k_putCredits := maskOf (V := 1) hw rfl
  unfold plotRegsP
  repeat' (first
    | with_reducible rfl
    | with_reducible assumption
    | with_reducible refine onCue_fp b4 _ _ ?_ ?_ ?_
    | with_reducible apply set_fp k_set
    | with_reducible apply putCredits_fp k_putCredits
    | with_reducible refine foldl_fp _ _ (fun _ _ _ => ?_) ?_)

theorem putLocked_fp {fw : Nat} {fz : State} (hw : 196609 &&& fw = 196609) (s : State) (p : Plot)
    (hz : Fp fw fz s) : Fp fw fz (putLocked s p) := by
  have k_raiseFloor := maskOf (V := 196609) hw rfl
  have k_set := maskOf (V := 1) hw rfl
  unfold putLocked
  repeat' (first
    | with_reducible rfl
    | with_reducible assumption
    | with_reducible apply set_fp k_set
    | with_reducible refine foldl_fp _ _ (fun _ _ _ => ?_) ?_
    | with_reducible refine foldlFst_fp _ _ (fun _ _ _ => ?_) ?_
    | with_reducible refine foldlSnd_fp _ _ (fun _ _ _ => ?_) ?_
    | with_reducible refine raiseFloor_fp k_raiseFloor _ _ _ _ (le_of_floorMay (by assumption)) ?_
    | split)

theorem bootApply_fp {fw : Nat} {fz : State} (hw : 5218835 &&& fw = 5218835) (s : State) (p : Plot)
    (hz : Fp fw fz s) : Fp fw fz (bootApply s p) := by
  have b9 := bitOf hw 9 rfl
  have k_shadowIn := maskOf (V := 8193) hw rfl
  have k_putShadow := maskOf (V := 8193) hw rfl
  have k_setPhase := maskOf (V := 1) hw rfl
  have k_putLocked := maskOf (V := 196609) hw rfl
  have k_plotRegsD := maskOf (V := 1) hw rfl
  have k_plotRegsP := maskOf (V := 17) hw rfl
  have k_report := maskOf (V := 950275) hw rfl
  have k_bootFails := maskOf (V := 1) hw rfl
  have k_bootTargets := maskOf (V := 1) hw rfl
  have k_loadSheets := maskOf (V := 4194816) hw rfl
  have k_castRoles := maskOf (V := 1) hw rfl
  have k_set := maskOf (V := 1) hw rfl
  unfold bootApply
  repeat' (first
    | with_reducible rfl
    | with_reducible assumption
    | with_reducible apply shadowIn_fp k_shadowIn
    | with_reducible apply putShadow_fp k_putShadow
    | with_reducible apply setPhase_fp k_setPhase
    | with_reducible apply putLocked_fp k_putLocked
    | with_reducible apply plotRegsD_fp k_plotRegsD
    | with_reducible apply plotRegsP_fp k_plotRegsP
    | with_reducible apply report_fp k_report
    | with_reducible refine advance_fp _ ?_
    | with_reducible apply bootFails_fp k_bootFails
    | with_reducible apply bootTargets_fp k_bootTargets
    | with_reducible apply loadSheets_fp k_loadSheets
    | with_reducible apply castRoles_fp k_castRoles
    | with_reducible apply set_fp k_set
    | with_reducible refine foldl_fp _ _ (fun _ _ _ => ?_) ?_
    | with_reducible refine foldlFst_fp _ _ (fun _ _ _ => ?_) ?_
    | with_reducible refine foldlSnd_fp _ _ (fun _ _ _ => ?_) ?_
    | with_reducible refine onMem_fp b9 (bitOf hw 22 rfl) _ _ (fun _ => rfl) ?_
    | with_reducible refine ite_fp ?_ ?_)

theorem bootImage_fp {fw : Nat} {fz : State} (hw : 6288915 &&& fw = 6288915) (s : State)
    (hz : Fp fw fz s) : Fp fw fz (bootImage s) := by
  have b16 := bitOf hw 16 rfl
  have b17 := bitOf hw 17 rfl
  have k_setPhase := maskOf (V := 1) hw rfl
  have k_set := maskOf (V := 1) hw rfl
  have k_bootFails := maskOf (V := 1) hw rfl
  have k_fullZeroise := maskOf (V := 1799169) hw rfl
  have k_bootApply := maskOf (V := 5218835) hw rfl
  unfold bootImage
  repeat' (first
    | with_reducible rfl
    | with_reducible assumption
    | with_reducible refine onSdr_fp b16 _ _ ?_ ?_ ?_
    | with_reducible refine onLdg_fp b17 _ _ ?_
    | with_reducible apply setPhase_fp k_setPhase
    | with_reducible apply set_fp k_set
    | with_reducible apply bootFails_fp k_bootFails
    | with_reducible apply fullZeroise_fp k_fullZeroise
    | with_reducible apply bootApply_fp k_bootApply
    | with_reducible refine ite_fp ?_ ?_
    | split)

theorem bootNext_fp {fw : Nat} {fz : State} (hw : 6288915 &&& fw = 6288915) (s : State)
    (hz : Fp fw fz s) : Fp fw fz (bootNext s) := by
  have k_bootImage := maskOf (V := 6288915) hw rfl
  unfold bootNext
  repeat' (first
    | with_reducible rfl
    | with_reducible assumption
    | with_reducible apply bootImage_fp k_bootImage
    | with_reducible refine ite_fp ?_ ?_)

theorem execColdPowerUp_fp (sealHigh : Bool) (sled : BitVec 3) (ordered hbmOk : Bool) (s : State) (t : State) (h : execColdPowerUp sealHigh sled ordered hbmOk s = .next t) :
    Fp 16777215 s t := by
  have hw : 16777215 &&& 16777215 = 16777215 := rfl
  unfold execColdPowerUp at h
  simp only [Host.Outcome.next.injEq] at h
  subst h
  have hz : Fp 16777215 s s := Fp.refl _ _
  have b19 := bitOf hw 19 rfl
  have k_cleared := maskOf (V := 16777215) hw rfl
  have k_set := maskOf (V := 1) hw rfl
  have k_report := maskOf (V := 950275) hw rfl
  have k_leaveReset := maskOf (V := 1999887) hw rfl
  repeat' (first
    | with_reducible rfl
    | with_reducible assumption
    | with_reducible refine onBrd_fp b19 _ _ ?_
    | with_reducible refine advance_fp _ ?_
    | with_reducible apply cleared_fp k_cleared
    | with_reducible apply set_fp k_set
    | with_reducible apply report_fp k_report
    | with_reducible apply leaveReset_fp k_leaveReset
    | with_reducible refine ite_fp ?_ ?_)

theorem execSupplyLoss_fp (s : State) (t : State) (h : execSupplyLoss s = .next t) :
    Fp 16777215 s t := by
  have hw : 16777215 &&& 16777215 = 16777215 := rfl
  unfold execSupplyLoss at h
  simp only [Host.Outcome.next.injEq] at h
  subst h
  have hz : Fp 16777215 s s := Fp.refl _ _
  have b19 := bitOf hw 19 rfl
  have k_cleared := maskOf (V := 16777215) hw rfl
  repeat' (first
    | with_reducible rfl
    | with_reducible assumption
    | with_reducible refine onBrd_fp b19 _ _ ?_
    | with_reducible apply cleared_fp k_cleared)

theorem warmReset_fp {fw : Nat} {fz : State} (hw : 16777215 &&& fw = 16777215) (s : State)
    (hz : Fp fw fz s) : Fp fw fz (warmReset s) := by
  have b19 := bitOf hw 19 rfl
  have k_set := maskOf (V := 1) hw rfl
  have k_cleared := maskOf (V := 16777215) hw rfl
  have k_leaveReset := maskOf (V := 1999887) hw rfl
  unfold warmReset
  repeat' (first
    | with_reducible rfl
    | with_reducible assumption
    | with_reducible refine onBrd_fp b19 _ _ ?_
    | with_reducible apply set_fp k_set
    | with_reducible apply cleared_fp k_cleared
    | with_reducible apply leaveReset_fp k_leaveReset
    | with_reducible refine ite_fp ?_ ?_)

theorem execWarmRst_fp (lowNs : Nat) (s : State) (t : State) (h : execWarmRst lowNs s = .next t) :
    Fp 16777215 s t := by
  have hw : 16777215 &&& 16777215 = 16777215 := rfl
  unfold execWarmRst at h
  simp only [Host.Outcome.next.injEq] at h
  subst h
  have hz : Fp 16777215 s s := Fp.refl _ _
  have b19 := bitOf hw 19 rfl
  have k_warmReset := maskOf (V := 16777215) hw rfl
  repeat' (first
    | with_reducible rfl
    | with_reducible assumption
    | with_reducible refine onBrd_fp b19 _ _ ?_
    | with_reducible apply warmReset_fp k_warmReset
    | with_reducible refine advance_fp _ ?_
    | with_reducible refine ite_fp ?_ ?_)

theorem execWarmResetFlushDone_fp (s : State) (t : State) (h : execWarmResetFlushDone s = .next t) :
    Fp 16777215 s t := by
  have hw : 16777215 &&& 16777215 = 16777215 := rfl
  unfold execWarmResetFlushDone at h
  simp only [Host.Outcome.next.injEq] at h
  subst h
  have hz : Fp 16777215 s s := Fp.refl _ _
  have k_set := maskOf (V := 1) hw rfl
  have k_cleared := maskOf (V := 16777215) hw rfl
  have k_beginSelftest := maskOf (V := 1999887) hw rfl
  repeat' (first
    | with_reducible rfl
    | with_reducible assumption
    | with_reducible apply set_fp k_set
    | with_reducible apply cleared_fp k_cleared
    | with_reducible apply beginSelftest_fp k_beginSelftest
    | with_reducible refine ite_fp ?_ ?_)

theorem execWarmRstRelease_fp (s : State) (t : State) (h : execWarmRstRelease s = .next t) :
    Fp 1999887 s t := by
  have hw : 1999887 &&& 1999887 = 1999887 := rfl
  unfold execWarmRstRelease at h
  simp only [Host.Outcome.next.injEq] at h
  subst h
  have hz : Fp 1999887 s s := Fp.refl _ _
  have b19 := bitOf hw 19 rfl
  have k_beginSelftest := maskOf (V := 1999887) hw rfl
  repeat' (first
    | with_reducible rfl
    | with_reducible assumption
    | with_reducible refine onBrd_fp b19 _ _ ?_
    | with_reducible apply beginSelftest_fp k_beginSelftest
    | with_reducible refine ite_fp ?_ ?_)

theorem execStartupTestsDone_fp (raw : BitVec 4096) (s : State) (t : State) (h : execStartupTestsDone raw s = .next t) :
    Fp 6289043 s t := by
  have hw : 6289043 &&& 6289043 = 6289043 := rfl
  unfold execStartupTestsDone at h
  simp only [Host.Outcome.next.injEq] at h
  subst h
  have hz : Fp 6289043 s s := Fp.refl _ _
  have k_startupTests := maskOf (V := 1015939) hw rfl
  have k_bootNext := maskOf (V := 6288915) hw rfl
  have k_windBootDone := maskOf (V := 524288) hw rfl
  repeat' (first
    | with_reducible rfl
    | with_reducible assumption
    | with_reducible apply startupTests_fp k_startupTests
    | with_reducible apply bootNext_fp k_bootNext
    | with_reducible apply windBootDone_fp k_windBootDone
    | with_reducible refine ite_fp ?_ ?_)

theorem sdrError_fp {fw : Nat} {fz : State} (hw : 2094083 &&& fw = 2094083) (s : State) (fails : Nat)
    (hz : Fp fw fz s) : Fp fw fz (sdrError s fails) := by
  have k_audit := maskOf (V := 196609) hw rfl
  have k_set := maskOf (V := 1) hw rfl
  have k_bootFails := maskOf (V := 1) hw rfl
  have k_writeExit := maskOf (V := 1602561) hw rfl
  have k_report := maskOf (V := 950275) hw rfl
  unfold sdrError
  repeat' (first
    | with_reducible rfl
    | with_reducible assumption
    | with_reducible apply audit_fp k_audit
    | with_reducible apply set_fp k_set
    | with_reducible apply bootFails_fp k_bootFails
    | with_reducible apply writeExit_fp k_writeExit
    | with_reducible apply report_fp k_report
    | with_reducible refine advance_fp _ ?_
    | with_reducible refine ite_fp ?_ ?_)

theorem execSelftestDone_fp (fails : BitVec 8) (s : State) (t : State) (h : execSelftestDone fails s = .next t) :
    Fp 6288915 s t := by
  have hw : 6288915 &&& 6288915 = 6288915 := rfl
  unfold execSelftestDone at h
  simp only [Host.Outcome.next.injEq] at h
  subst h
  have hz : Fp 6288915 s s := Fp.refl _ _
  have b19 := bitOf hw 19 rfl
  have k_audit := maskOf (V := 196609) hw rfl
  have k_set := maskOf (V := 1) hw rfl
  have k_bootNext := maskOf (V := 6288915) hw rfl
  have k_sdrError := maskOf (V := 2094083) hw rfl
  repeat' (first
    | with_reducible rfl
    | with_reducible assumption
    | with_reducible refine onBrd_fp b19 _ _ ?_
    | with_reducible apply audit_fp k_audit
    | with_reducible apply set_fp k_set
    | with_reducible apply bootNext_fp k_bootNext
    | with_reducible apply sdrError_fp k_sdrError
    | with_reducible refine ite_fp ?_ ?_)

theorem setWload_fp {fw : Nat} {fz : State} (hw : 1 &&& fw = 1) (s : State) (st : Nat)
    (hz : Fp fw fz s) : Fp fw fz (setWload s st) := by
  have k_set := maskOf (V := 1) hw rfl
  unfold setWload
  repeat' (first
    | with_reducible rfl
    | with_reducible assumption
    | with_reducible apply set_fp k_set)

theorem putDigest_fp {fw : Nat} {fz : State} (hw : 1 &&& fw = 1) (s : State) (d : Nat)
    (hz : Fp fw fz s) : Fp fw fz (putDigest s d) := by
  have k_set := maskOf (V := 1) hw rfl
  unfold putDigest
  repeat' (first
    | with_reducible rfl
    | with_reducible assumption
    | with_reducible apply set_fp k_set
    | with_reducible refine foldl_fp _ _ (fun _ _ _ => ?_) ?_)

theorem execWloadBegin_fp (v : Word) (s : State) (t : State) (h : execWloadBegin v s = .next t) :
    Fp 729107 s t := by
  have hw : 729107 &&& 729107 = 729107 := rfl
  unfold execWloadBegin at h
  simp only [Host.Outcome.next.injEq] at h
  subst h
  have hz : Fp 729107 s s := Fp.refl _ _
  have k_commandWord := maskOf (V := 729107) hw rfl
  have k_set := maskOf (V := 1) hw rfl
  have k_setWload := maskOf (V := 1) hw rfl
  have k_putDigest := maskOf (V := 1) hw rfl
  repeat' (first
    | with_reducible rfl
    | with_reducible assumption
    | with_reducible apply commandWord_fp k_commandWord
    | with_reducible apply set_fp k_set
    | with_reducible apply setWload_fp k_setWload
    | with_reducible apply putDigest_fp k_putDigest
    | with_reducible refine ite_fp ?_ ?_)

theorem execWloadDone_fp (v : Word) (s : State) (t : State) (h : execWloadDone v s = .next t) :
    Fp 729107 s t := by
  have hw : 729107 &&& 729107 = 729107 := rfl
  unfold execWloadDone at h
  simp only [Host.Outcome.next.injEq] at h
  subst h
  have hz : Fp 729107 s s := Fp.refl _ _
  have k_commandWord := maskOf (V := 729107) hw rfl
  have k_setWload := maskOf (V := 1) hw rfl
  repeat' (first
    | with_reducible rfl
    | with_reducible assumption
    | with_reducible apply commandWord_fp k_commandWord
    | with_reducible apply setWload_fp k_setWload
    | with_reducible refine ite_fp ?_ ?_)

theorem execWeightHashDone_fp (s : State) (t : State) (h : execWeightHashDone s = .next t) :
    Fp 1 s t := by
  have hw : 1 &&& 1 = 1 := rfl
  unfold execWeightHashDone at h
  simp only [Host.Outcome.next.injEq] at h
  subst h
  have hz : Fp 1 s s := Fp.refl _ _
  have k_setWload := maskOf (V := 1) hw rfl
  have k_putDigest := maskOf (V := 1) hw rfl
  repeat' (first
    | with_reducible rfl
    | with_reducible assumption
    | with_reducible apply setWload_fp k_setWload
    | with_reducible apply putDigest_fp k_putDigest
    | with_reducible refine ite_fp ?_ ?_)

end Sys2Proof.Machine
end

