-- ==== Sys2Proof/Laws/FootSwales.lean ====
section
/-!
SUPPORT. Footprints of the operations of Machine/Swales.lean: what each may touch (Fp).
-/
namespace Sys2Proof.Machine

theorem setSwPhase_fp {fw : Nat} {fz : State} (hw : 524289 &&& fw = 524289) (s : State) (i st : Nat)
    (hz : Fp fw fz s) : Fp fw fz (setSwPhase s i st) := by
  have k_wmUpdate := maskOf (V := 524289) hw rfl
  have k_set := maskOf (V := 1) hw rfl
  unfold setSwPhase
  repeat' (first
    | with_reducible rfl
    | with_reducible assumption
    | with_reducible apply wmUpdate_fp k_wmUpdate
    | with_reducible apply set_fp k_set)

theorem execSwaleWrite_fp (i : Nat) (words : List (BitVec 64)) (s : State) (t : State) (h : execSwaleWrite i words s = .next t) :
    Fp 526337 s t := by
  have hw : 526337 &&& 526337 = 526337 := rfl
  unfold execSwaleWrite at h
  simp only [Host.Outcome.next.injEq] at h
  subst h
  have hz : Fp 526337 s s := Fp.refl _ _
  have k_inc := maskOf (V := 1) hw rfl
  have k_onSw := maskOf (V := 2048) hw rfl
  have k_wmUpdate := maskOf (V := 524289) hw rfl
  have k_set := maskOf (V := 1) hw rfl
  repeat' (first
    | with_reducible rfl
    | with_reducible assumption
    | with_reducible apply inc_fp k_inc
    | with_reducible apply onSw_fp k_onSw
    | with_reducible apply wmUpdate_fp k_wmUpdate
    | with_reducible apply set_fp k_set
    | with_reducible refine ite_fp ?_ ?_)

theorem execSwaleRead_fp (i : Nat) (s : State) (t : State) (h : execSwaleRead i s = .next t) :
    Fp 953347 s t := by
  have hw : 953347 &&& 953347 = 953347 := rfl
  unfold execSwaleRead at h
  simp only [Host.Outcome.next.injEq] at h
  subst h
  have hz : Fp 953347 s s := Fp.refl _ _
  have k_onSw := maskOf (V := 2048) hw rfl
  have k_owe := maskOf (V := 1024) hw rfl
  have k_set := maskOf (V := 1) hw rfl
  have k_inc := maskOf (V := 1) hw rfl
  have k_report := maskOf (V := 950275) hw rfl
  have k_wmUpdate := maskOf (V := 524289) hw rfl
  repeat' (first
    | with_reducible rfl
    | with_reducible assumption
    | with_reducible apply onSw_fp k_onSw
    | with_reducible apply owe_fp k_owe
    | with_reducible apply set_fp k_set
    | with_reducible apply inc_fp k_inc
    | with_reducible apply report_fp k_report
    | with_reducible refine advance_fp _ ?_
    | with_reducible apply wmUpdate_fp k_wmUpdate
    | with_reducible refine ite_fp ?_ ?_
    | split)

theorem execMark_fp (i : Nat) (s : State) (t : State) (h : execMark i s = .next t) :
    Fp 2048 s t := by
  have hw : 2048 &&& 2048 = 2048 := rfl
  unfold execMark at h
  simp only [Host.Outcome.next.injEq] at h
  subst h
  have hz : Fp 2048 s s := Fp.refl _ _
  have k_onSw := maskOf (V := 2048) hw rfl
  repeat' (first
    | with_reducible rfl
    | with_reducible assumption
    | with_reducible apply onSw_fp k_onSw
    | with_reducible refine ite_fp ?_ ?_)

theorem execRewind_fp (i : Nat) (s : State) (t : State) (h : execRewind i s = .next t) :
    Fp 526337 s t := by
  have hw : 526337 &&& 526337 = 526337 := rfl
  unfold execRewind at h
  simp only [Host.Outcome.next.injEq] at h
  subst h
  have hz : Fp 526337 s s := Fp.refl _ _
  have k_wmUpdate := maskOf (V := 524289) hw rfl
  have k_onSw := maskOf (V := 2048) hw rfl
  repeat' (first
    | with_reducible rfl
    | with_reducible assumption
    | with_reducible apply wmUpdate_fp k_wmUpdate
    | with_reducible apply onSw_fp k_onSw
    | with_reducible refine ite_fp ?_ ?_)

theorem execRelease_fp (i k : Nat) (s : State) (t : State) (h : execRelease i k s = .next t) :
    Fp 527361 s t := by
  have hw : 527361 &&& 527361 = 527361 := rfl
  unfold execRelease at h
  simp only [Host.Outcome.next.injEq] at h
  subst h
  have hz : Fp 527361 s s := Fp.refl _ _
  have k_onSw := maskOf (V := 2048) hw rfl
  have k_wmUpdate := maskOf (V := 524289) hw rfl
  have k_onLink := maskOf (V := 1024) hw rfl
  repeat' (first
    | with_reducible rfl
    | with_reducible assumption
    | with_reducible apply onSw_fp k_onSw
    | with_reducible apply wmUpdate_fp k_wmUpdate
    | with_reducible apply onLink_fp k_onLink
    | with_reducible refine ite_fp ?_ ?_)

theorem leadResetCue_fp {fw : Nat} {fz : State} (hw : 8 &&& fw = 8) (s : State) (src cue : Nat)
    (hz : Fp fw fz s) : Fp fw fz (leadResetCue s src cue) := by
  have b3 := bitOf hw 3 rfl
  unfold leadResetCue
  repeat' (first
    | with_reducible rfl
    | with_reducible assumption
    | with_reducible refine onStm_fp b3 _ _ ?_)

theorem cueArrivalReset_fp {fw : Nat} {fz : State} (hw : 1049609 &&& fw = 1049609) (s : State)
    (hz : Fp fw fz s) : Fp fw fz (cueArrivalReset s) := by
  have b3 := bitOf hw 3 rfl
  have k_toLead := maskOf (V := 1049601) hw rfl
  have k_leadResetCue := maskOf (V := 8) hw rfl
  unfold cueArrivalReset
  repeat' (first
    | with_reducible rfl
    | with_reducible assumption
    | with_reducible refine onStm_fp b3 _ _ ?_
    | with_reducible refine toLead_fp k_toLead _ _ _ _ _ (fun _ _ => ?_) ?_
    | with_reducible apply leadResetCue_fp k_leadResetCue
    | with_reducible refine ite_fp ?_ ?_)

theorem setQueue_fp {fw : Nat} {fz : State} (hw : 4 &&& fw = 4) (s : State) (q : List QCard)
    (hz : Fp fw fz s) : Fp fw fz (setQueue s q) := by
  have b2 := bitOf hw 2 rfl
  have k_noteHead := maskOf (V := 4) hw rfl
  unfold setQueue
  repeat' (first
    | with_reducible rfl
    | with_reducible assumption
    | with_reducible refine onBox_fp b2 _ _ ?_
    | with_reducible apply noteHead_fp k_noteHead)

theorem ingressReset_fp {fw : Nat} {fz : State} (hw : 524295 &&& fw = 524295) (s : State)
    (hz : Fp fw fz s) : Fp fw fz (ingressReset s) := by
  have b2 := bitOf hw 2 rfl
  have k_setQueue := maskOf (V := 4) hw rfl
  have k_refuseSlot := maskOf (V := 524291) hw rfl
  unfold ingressReset
  repeat' (first
    | with_reducible rfl
    | with_reducible assumption
    | with_reducible refine onBox_fp b2 _ _ ?_
    | with_reducible apply setQueue_fp k_setQueue
    | with_reducible apply refuseSlot_fp k_refuseSlot
    | with_reducible refine foldl_fp _ _ (fun _ _ _ => ?_) ?_
    | with_reducible refine foldlFst_fp _ _ (fun _ _ _ => ?_) ?_
    | with_reducible refine foldlSnd_fp _ _ (fun _ _ _ => ?_) ?_
    | with_reducible refine ite_fp ?_ ?_)

theorem rebuildQueue_fp {fw : Nat} {fz : State} (hw : 4 &&& fw = 4) (s : State)
    (hz : Fp fw fz s) : Fp fw fz (rebuildQueue s) := by
  have b2 := bitOf hw 2 rfl
  have k_setQueue := maskOf (V := 4) hw rfl
  unfold rebuildQueue
  repeat' (first
    | with_reducible rfl
    | with_reducible assumption
    | with_reducible refine onBox_fp b2 _ _ ?_
    | with_reducible apply setQueue_fp k_setQueue)

theorem swaleLoses_fp {fw : Nat} {fz : State} (hw : 1608783 &&& fw = 1608783) (s : State) (i : Nat)
    (hz : Fp fw fz s) : Fp fw fz (swaleLoses s i) := by
  have b3 := bitOf hw 3 rfl
  have b6 := bitOf hw 6 rfl
  have b10 := bitOf hw 10 rfl
  have b15 := bitOf hw 15 rfl
  have k_onSw := maskOf (V := 2048) hw rfl
  have k_ingressReset := maskOf (V := 524295) hw rfl
  have k_rebuildQueue := maskOf (V := 4) hw rfl
  have k_cueArrivalReset := maskOf (V := 1049609) hw rfl
  have k_onLink := maskOf (V := 1024) hw rfl
  have k_abortQueue := maskOf (V := 524291) hw rfl
  have k_inc := maskOf (V := 1) hw rfl
  have k_set := maskOf (V := 1) hw rfl
  unfold swaleLoses
  repeat' (first
    | with_reducible rfl
    | with_reducible assumption
    | with_reducible refine onStm_fp b3 _ _ ?_
    | with_reducible refine onPrm_fp b6 _ _ ?_
    | with_reducible refine onFab_fp b10 _ _ ?_ ?_
    | with_reducible simp only []
    | with_reducible refine onPbk_fp b15 _ _ ?_
    | with_reducible apply onSw_fp k_onSw
    | with_reducible apply ingressReset_fp k_ingressReset
    | with_reducible apply rebuildQueue_fp k_rebuildQueue
    | with_reducible apply cueArrivalReset_fp k_cueArrivalReset
    | with_reducible apply onLink_fp k_onLink
    | with_reducible apply abortQueue_fp k_abortQueue
    | with_reducible apply inc_fp k_inc
    | with_reducible apply set_fp k_set
    | with_reducible refine ite_fp ?_ ?_)

theorem mismatch_fp {fw : Nat} {fz : State} (hw : 2001999 &&& fw = 2001999) (s : State) (i : Nat) (run : Bool)
    (hz : Fp fw fz s) : Fp fw fz (mismatch s i run) := by
  have k_inc := maskOf (V := 1) hw rfl
  have k_set := maskOf (V := 1) hw rfl
  have k_report := maskOf (V := 950275) hw rfl
  have k_setSwPhase := maskOf (V := 524289) hw rfl
  have k_swaleLoses := maskOf (V := 1608783) hw rfl
  unfold mismatch
  repeat' (first
    | with_reducible rfl
    | with_reducible assumption
    | with_reducible apply inc_fp k_inc
    | with_reducible apply set_fp k_set
    | with_reducible refine advance_fp _ ?_
    | with_reducible apply report_fp k_report
    | with_reducible apply setSwPhase_fp k_setSwPhase
    | with_reducible apply swaleLoses_fp k_swaleLoses
    | with_reducible refine ite_fp ?_ ?_)

theorem execPointerMismatch_fp (i : Nat) (s : State) (t : State) (h : execPointerMismatch i s = .next t) :
    Fp 2001999 s t := by
  have hw : 2001999 &&& 2001999 = 2001999 := rfl
  unfold execPointerMismatch at h
  simp only [Host.Outcome.next.injEq] at h
  subst h
  have hz : Fp 2001999 s s := Fp.refl _ _
  have k_mismatch := maskOf (V := 2001999) hw rfl
  repeat' (first
    | with_reducible rfl
    | with_reducible assumption
    | with_reducible apply mismatch_fp k_mismatch
    | with_reducible refine ite_fp ?_ ?_)

theorem execSwaleReset_fp (i : Nat) (v : Word) (s : State) (t : State) (h : execSwaleReset i v s = .next t) :
    Fp 1813599 s t := by
  have hw : 1813599 &&& 1813599 = 1813599 := rfl
  unfold execSwaleReset at h
  simp only [Host.Outcome.next.injEq] at h
  subst h
  have hz : Fp 1813599 s s := Fp.refl _ _
  have k_commandWord := maskOf (V := 729107) hw rfl
  have k_inc := maskOf (V := 1) hw rfl
  have k_setSwPhase := maskOf (V := 524289) hw rfl
  have k_swaleLoses := maskOf (V := 1608783) hw rfl
  repeat' (first
    | with_reducible rfl
    | with_reducible assumption
    | with_reducible apply commandWord_fp k_commandWord
    | with_reducible apply inc_fp k_inc
    | with_reducible apply setSwPhase_fp k_setSwPhase
    | with_reducible apply swaleLoses_fp k_swaleLoses
    | with_reducible refine ite_fp ?_ ?_)

theorem execFlushDone_fp (i : Nat) (s : State) (t : State) (h : execFlushDone i s = .next t) :
    Fp 526337 s t := by
  have hw : 526337 &&& 526337 = 526337 := rfl
  unfold execFlushDone at h
  simp only [Host.Outcome.next.injEq] at h
  subst h
  have hz : Fp 526337 s s := Fp.refl _ _
  have k_setSwPhase := maskOf (V := 524289) hw rfl
  have k_onSw := maskOf (V := 2048) hw rfl
  repeat' (first
    | with_reducible rfl
    | with_reducible assumption
    | with_reducible apply setSwPhase_fp k_setSwPhase
    | with_reducible apply onSw_fp k_onSw
    | with_reducible refine ite_fp ?_ ?_)

theorem execHoldDone_fp (i : Nat) (s : State) (t : State) (h : execHoldDone i s = .next t) :
    Fp 524289 s t := by
  have hw : 524289 &&& 524289 = 524289 := rfl
  unfold execHoldDone at h
  simp only [Host.Outcome.next.injEq] at h
  subst h
  have hz : Fp 524289 s s := Fp.refl _ _
  have k_setSwPhase := maskOf (V := 524289) hw rfl
  repeat' (first
    | with_reducible rfl
    | with_reducible assumption
    | with_reducible apply setSwPhase_fp k_setSwPhase
    | with_reducible refine ite_fp ?_ ?_)

theorem execWatermarkDwellEnd_fp (egress : Bool) (s : State) (t : State) (h : execWatermarkDwellEnd egress s = .next t) :
    Fp 2621440 s t := by
  have hw : 2621440 &&& 2621440 = 2621440 := rfl
  unfold execWatermarkDwellEnd at h
  simp only [Host.Outcome.next.injEq] at h
  subst h
  have hz : Fp 2621440 s s := Fp.refl _ _
  have b21 := bitOf hw 21 rfl
  have k_wmPin := maskOf (V := 524288) hw rfl
  repeat' (first
    | with_reducible rfl
    | with_reducible assumption
    | with_reducible refine setSt_fp b21 _ _ ?_
    | with_reducible apply wmPin_fp k_wmPin
    | with_reducible refine ite_fp ?_ ?_)

theorem execResetCue_fp (src : Fin 1024) (company cue : Nat) (s : State) (t : State) (h : execResetCue src company cue s = .next t) :
    Fp 8 s t := by
  have hw : 8 &&& 8 = 8 := rfl
  unfold execResetCue at h
  simp only [Host.Outcome.next.injEq] at h
  subst h
  have hz : Fp 8 s s := Fp.refl _ _
  have k_leadResetCue := maskOf (V := 8) hw rfl
  repeat' (first
    | with_reducible rfl
    | with_reducible assumption
    | with_reducible apply leadResetCue_fp k_leadResetCue
    | with_reducible refine ite_fp ?_ ?_)

theorem execSilentSelfReset_fp (s : State) (t : State) (h : execSilentSelfReset s = .next t) :
    Fp 16777215 s t := by
  have hw : 16777215 &&& 16777215 = 16777215 := rfl
  unfold execSilentSelfReset at h
  simp only [Host.Outcome.next.injEq] at h
  subst h
  have hz : Fp 16777215 s s := Fp.refl _ _
  have k_set := maskOf (V := 1) hw rfl
  have k_cleared := maskOf (V := 16777215) hw rfl
  have k_beginSelftest := maskOf (V := 1999887) hw rfl
  repeat' (first
    | with_reducible rfl
    | with_reducible assumption
    | with_reducible apply set_fp k_set
    | with_reducible apply cleared_fp k_cleared
    | with_reducible apply beginSelftest_fp k_beginSelftest
    | split)

end Sys2Proof.Machine
end

