-- ==== Sys2Proof/Laws/FootCueSync.lean ====
section
/-!
SUPPORT. Footprints of the operations of Machine/CueSync.lean: what each may touch (Fp).
-/
namespace Sys2Proof.Machine

theorem stepSt_fp {fw : Nat} {fz : State} (hw : 2621440 &&& fw = 2621440) (s : State) (t : Nat)
    (hz : Fp fw fz s) : Fp fw fz (stepSt s t) := by
  have b19 := bitOf hw 19 rfl
  have b21 := bitOf hw 21 rfl
  unfold stepSt
  repeat' (first
    | with_reducible rfl
    | with_reducible assumption
    | with_reducible refine onBrd_fp b19 _ _ ?_
    | with_reducible refine setSt_fp b21 _ _ ?_)

theorem slewSt_fp {fw : Nat} {fz : State} (hw : 2097168 &&& fw = 2097168) (s : State) (t : Nat)
    (hz : Fp fw fz s) : Fp fw fz (slewSt s t) := by
  have b4 := bitOf hw 4 rfl
  have b21 := bitOf hw 21 rfl
  unfold slewSt
  repeat' (first
    | with_reducible rfl
    | with_reducible assumption
    | with_reducible refine onCue_fp b4 _ _ ?_ ?_ ?_
    | with_reducible refine setSt_fp b21 _ _ ?_)

theorem takeTod_fp {fw : Nat} {fz : State} (hw : 2621457 &&& fw = 2621457) (s : State)
    (hz : Fp fw fz s) : Fp fw fz (takeTod s) := by
  have b4 := bitOf hw 4 rfl
  have k_set := maskOf (V := 1) hw rfl
  have k_slewSt := maskOf (V := 2097168) hw rfl
  have k_stepSt := maskOf (V := 2621440) hw rfl
  unfold takeTod
  repeat' (first
    | with_reducible rfl
    | with_reducible assumption
    | with_reducible refine onCue_fp b4 _ _ ?_ ?_ ?_
    | with_reducible apply set_fp k_set
    | with_reducible apply slewSt_fp k_slewSt
    | with_reducible apply stepSt_fp k_stepSt
    | with_reducible refine ite_fp ?_ ?_)

theorem startTime_fp {fw : Nat} {fz : State} (hw : 2621440 &&& fw = 2621440) (s : State)
    (hz : Fp fw fz s) : Fp fw fz (startTime s) := by
  have k_stepSt := maskOf (V := 2621440) hw rfl
  unfold startTime
  repeat' (first
    | with_reducible rfl
    | with_reducible assumption
    | with_reducible apply stepSt_fp k_stepSt
    | with_reducible refine ite_fp ?_ ?_)

theorem execPpsEdge_fp (s : State) (t : State) (h : execPpsEdge s = .next t) :
    Fp 2621457 s t := by
  have hw : 2621457 &&& 2621457 = 2621457 := rfl
  unfold execPpsEdge at h
  simp only [Host.Outcome.next.injEq] at h
  subst h
  have hz : Fp 2621457 s s := Fp.refl _ _
  have k_setFirst := maskOf (V := 16) hw rfl
  have k_takeTod := maskOf (V := 2621457) hw rfl
  have k_enterRoot := maskOf (V := 17) hw rfl
  have k_startTime := maskOf (V := 2621440) hw rfl
  repeat' (first
    | with_reducible rfl
    | with_reducible assumption
    | with_reducible apply setFirst_fp k_setFirst
    | with_reducible apply takeTod_fp k_takeTod
    | with_reducible apply enterRoot_fp k_enterRoot
    | with_reducible apply startTime_fp k_startTime
    | with_reducible refine ite_fp ?_ ?_)

theorem execPpsTimeout_fp (s : State) (t : State) (h : execPpsTimeout s = .next t) :
    Fp 1 s t := by
  have hw : 1 &&& 1 = 1 := rfl
  unfold execPpsTimeout at h
  simp only [Host.Outcome.next.injEq] at h
  subst h
  have hz : Fp 1 s s := Fp.refl _ _
  have k_set := maskOf (V := 1) hw rfl
  repeat' (first
    | with_reducible rfl
    | with_reducible assumption
    | with_reducible apply set_fp k_set
    | with_reducible refine ite_fp ?_ ?_)

theorem execPrimaryRootTimeout_fp (s : State) (t : State) (h : execPrimaryRootTimeout s = .next t) :
    Fp 2621457 s t := by
  have hw : 2621457 &&& 2621457 = 2621457 := rfl
  unfold execPrimaryRootTimeout at h
  simp only [Host.Outcome.next.injEq] at h
  subst h
  have hz : Fp 2621457 s s := Fp.refl _ _
  have k_enterRoot := maskOf (V := 17) hw rfl
  have k_set := maskOf (V := 1) hw rfl
  have k_startTime := maskOf (V := 2621440) hw rfl
  repeat' (first
    | with_reducible rfl
    | with_reducible assumption
    | with_reducible apply enterRoot_fp k_enterRoot
    | with_reducible apply set_fp k_set
    | with_reducible apply startTime_fp k_startTime
    | with_reducible refine ite_fp ?_ ?_)

theorem execSecondaryRootTimeout_fp (s : State) (t : State) (h : execSecondaryRootTimeout s = .next t) :
    Fp 2621457 s t := by
  have hw : 2621457 &&& 2621457 = 2621457 := rfl
  unfold execSecondaryRootTimeout at h
  simp only [Host.Outcome.next.injEq] at h
  subst h
  have hz : Fp 2621457 s s := Fp.refl _ _
  have k_enterRoot := maskOf (V := 17) hw rfl
  have k_startTime := maskOf (V := 2621440) hw rfl
  repeat' (first
    | with_reducible rfl
    | with_reducible assumption
    | with_reducible apply enterRoot_fp k_enterRoot
    | with_reducible apply startTime_fp k_startTime
    | with_reducible refine ite_fp ?_ ?_
    | split)

theorem takeAnchor_fp {fw : Nat} {fz : State} (hw : 950291 &&& fw = 950291) (s : State) (m : TimeMsg)
    (hz : Fp fw fz s) : Fp fw fz (takeAnchor s m) := by
  have b4 := bitOf hw 4 rfl
  have k_putAnchor := maskOf (V := 17) hw rfl
  have k_report := maskOf (V := 950275) hw rfl
  unfold takeAnchor
  repeat' (first
    | with_reducible rfl
    | with_reducible assumption
    | with_reducible refine onCue_fp b4 _ _ ?_ ?_ ?_
    | with_reducible apply putAnchor_fp k_putAnchor
    | with_reducible apply report_fp k_report
    | with_reducible refine advance_fp _ ?_
    | with_reducible refine ite_fp ?_ ?_)

theorem setRuns_fp {fw : Nat} {fz : State} (hw : 16 &&& fw = 16) (s : State) (inRun outRun : Nat)
    (hz : Fp fw fz s) : Fp fw fz (setRuns s inRun outRun) := by
  have b4 := bitOf hw 4 rfl
  unfold setRuns
  repeat' (first
    | with_reducible rfl
    | with_reducible assumption
    | with_reducible refine onCue_fp b4 _ _ ?_ ?_ ?_)

theorem noteOffset_fp {fw : Nat} {fz : State} (hw : 1 &&& fw = 1) (s : State) (off : Int)
    (hz : Fp fw fz s) : Fp fw fz (noteOffset s off) := by
  have k_set := maskOf (V := 1) hw rfl
  unfold noteOffset
  repeat' (first
    | with_reducible rfl
    | with_reducible assumption
    | with_reducible apply set_fp k_set)

theorem lockStep_fp {fw : Nat} {fz : State} (hw : 950291 &&& fw = 950291) (s : State) (off : Int)
    (hz : Fp fw fz s) : Fp fw fz (lockStep s off) := by
  have k_noteOffset := maskOf (V := 1) hw rfl
  have k_setRuns := maskOf (V := 16) hw rfl
  have k_set := maskOf (V := 1) hw rfl
  have k_report := maskOf (V := 950275) hw rfl
  have k_loseLock := maskOf (V := 17) hw rfl
  unfold lockStep
  repeat' (first
    | with_reducible rfl
    | with_reducible assumption
    | with_reducible apply noteOffset_fp k_noteOffset
    | with_reducible apply setRuns_fp k_setRuns
    | with_reducible apply set_fp k_set
    | with_reducible apply report_fp k_report
    | with_reducible refine advance_fp _ ?_
    | with_reducible apply loseLock_fp k_loseLock
    | with_reducible refine ite_fp ?_ ?_)

theorem takeRoot_fp {fw : Nat} {fz : State} (hw : 17 &&& fw = 17) (s : State) (primary : Bool)
    (hz : Fp fw fz s) : Fp fw fz (takeRoot s primary) := by
  have b4 := bitOf hw 4 rfl
  have k_cueTopo := maskOf (V := 17) hw rfl
  unfold takeRoot
  repeat' (first
    | with_reducible rfl
    | with_reducible assumption
    | with_reducible refine onCue_fp b4 _ _ ?_ ?_ ?_
    | with_reducible apply cueTopo_fp k_cueTopo
    | with_reducible refine ite_fp ?_ ?_)

theorem leaveRoot_fp {fw : Nat} {fz : State} (hw : 17 &&& fw = 17) (s : State) (l : Nat)
    (hz : Fp fw fz s) : Fp fw fz (leaveRoot s l) := by
  have b4 := bitOf hw 4 rfl
  have k_set := maskOf (V := 1) hw rfl
  unfold leaveRoot
  repeat' (first
    | with_reducible rfl
    | with_reducible assumption
    | with_reducible refine onCue_fp b4 _ _ ?_ ?_ ?_
    | with_reducible apply set_fp k_set)

theorem sendTime_fp {fw : Nat} {fz : State} (hw : 1048576 &&& fw = 1048576) (s : State) (l : Nat)
    (hz : Fp fw fz s) : Fp fw fz (sendTime s l) := by
  have k_ctrl := maskOf (V := 1048576) hw rfl
  unfold sendTime
  repeat' (first
    | with_reducible rfl
    | with_reducible assumption
    | with_reducible apply ctrl_fp k_ctrl)

theorem sendTimes_fp {fw : Nat} {fz : State} (hw : 1048576 &&& fw = 1048576) (s : State)
    (hz : Fp fw fz s) : Fp fw fz (sendTimes s) := by
  have k_sendTime := maskOf (V := 1048576) hw rfl
  unfold sendTimes
  repeat' (first
    | with_reducible rfl
    | with_reducible assumption
    | with_reducible apply sendTime_fp k_sendTime
    | with_reducible refine foldl_fp _ _ (fun _ _ _ => ?_) ?_
    | with_reducible refine foldlFst_fp _ _ (fun _ _ _ => ?_) ?_
    | with_reducible refine foldlSnd_fp _ _ (fun _ _ _ => ?_) ?_
    | with_reducible refine ite_fp ?_ ?_)

theorem execTimeExchange_fp (link : Fin 12) (m : TimeMsg) (s : State) (t : State) (h : execTimeExchange link m s = .next t) :
    Fp 4096019 s t := by
  have hw : 4096019 &&& 4096019 = 4096019 := rfl
  unfold execTimeExchange at h
  simp only [Host.Outcome.next.injEq] at h
  subst h
  have hz : Fp 4096019 s s := Fp.refl _ _
  have k_sendTime := maskOf (V := 1048576) hw rfl
  have k_leaveRoot := maskOf (V := 17) hw rfl
  have k_takeRoot := maskOf (V := 17) hw rfl
  have k_putAnchor := maskOf (V := 17) hw rfl
  have k_stepSt := maskOf (V := 2621440) hw rfl
  have k_slewSt := maskOf (V := 2097168) hw rfl
  have k_setFirst := maskOf (V := 16) hw rfl
  have k_lockStep := maskOf (V := 950291) hw rfl
  have k_takeAnchor := maskOf (V := 950291) hw rfl
  repeat' (first
    | with_reducible rfl
    | with_reducible assumption
    | with_reducible apply sendTime_fp k_sendTime
    | with_reducible apply leaveRoot_fp k_leaveRoot
    | with_reducible apply takeRoot_fp k_takeRoot
    | with_reducible apply putAnchor_fp k_putAnchor
    | with_reducible apply stepSt_fp k_stepSt
    | with_reducible apply slewSt_fp k_slewSt
    | with_reducible apply setFirst_fp k_setFirst
    | with_reducible apply lockStep_fp k_lockStep
    | with_reducible apply takeAnchor_fp k_takeAnchor
    | with_reducible refine ite_fp ?_ ?_)

theorem execHoldoverExpiry_fp (s : State) (t : State) (h : execHoldoverExpiry s = .next t) :
    Fp 4125699 s t := by
  have hw : 4125699 &&& 4125699 = 4125699 := rfl
  unfold execHoldoverExpiry at h
  simp only [Host.Outcome.next.injEq] at h
  subst h
  have hz : Fp 4125699 s s := Fp.refl _ _
  have b21 := bitOf hw 21 rfl
  have k_writeExit := maskOf (V := 1602561) hw rfl
  have k_report := maskOf (V := 950275) hw rfl
  have k_set := maskOf (V := 1) hw rfl
  repeat' (first
    | with_reducible rfl
    | with_reducible assumption
    | with_reducible refine setSt_fp b21 _ _ ?_
    | with_reducible apply writeExit_fp k_writeExit
    | with_reducible apply report_fp k_report
    | with_reducible refine advance_fp _ ?_
    | with_reducible apply set_fp k_set
    | with_reducible refine ite_fp ?_ ?_)

theorem execPeriodRequest_fp (v : Word) (s : State) (t : State) (h : execPeriodRequest v s = .next t) :
    Fp 1777683 s t := by
  have hw : 1777683 &&& 1777683 = 1777683 := rfl
  unfold execPeriodRequest at h
  simp only [Host.Outcome.next.injEq] at h
  subst h
  have hz : Fp 1777683 s s := Fp.refl _ _
  have b4 := bitOf hw 4 rfl
  have k_commandWord := maskOf (V := 729107) hw rfl
  have k_set := maskOf (V := 1) hw rfl
  have k_sendTimes := maskOf (V := 1048576) hw rfl
  repeat' (first
    | with_reducible rfl
    | with_reducible assumption
    | with_reducible refine onCue_fp b4 _ _ ?_ ?_ ?_
    | with_reducible apply commandWord_fp k_commandWord
    | with_reducible apply set_fp k_set
    | with_reducible apply sendTimes_fp k_sendTimes
    | with_reducible refine ite_fp ?_ ?_)

theorem execCueMonFall_fp (s : State) (t : State) (h : execCueMonFall s = .next t) :
    Fp 2621456 s t := by
  have hw : 2621456 &&& 2621456 = 2621456 := rfl
  unfold execCueMonFall at h
  simp only [Host.Outcome.next.injEq] at h
  subst h
  have hz : Fp 2621456 s s := Fp.refl _ _
  have b4 := bitOf hw 4 rfl
  have b19 := bitOf hw 19 rfl
  have b21 := bitOf hw 21 rfl
  repeat' (first
    | with_reducible rfl
    | with_reducible assumption
    | with_reducible refine onCue_fp b4 _ _ ?_ ?_ ?_
    | with_reducible refine onBrd_fp b19 _ _ ?_
    | with_reducible refine setSt_fp b21 _ _ ?_
    | split)

theorem tripOn_fp {fw : Nat} {fz : State} (hw : 4129 &&& fw = 4129) (s : State)
    (hz : Fp fw fz s) : Fp fw fz (tripOn s) := by
  have b12 := bitOf hw 12 rfl
  have k_applyThrottle := maskOf (V := 4129) hw rfl
  have k_set := maskOf (V := 1) hw rfl
  unfold tripOn
  repeat' (first
    | with_reducible rfl
    | with_reducible assumption
    | with_reducible refine onLgt_fp b12 _ _ ?_
    | with_reducible apply applyThrottle_fp k_applyThrottle
    | with_reducible apply set_fp k_set)

theorem thermalTrip_fp {fw : Nat} {fz : State} (hw : 2028579 &&& fw = 2028579) (s : State) (sensor : Nat)
    (hz : Fp fw fz s) : Fp fw fz (thermalTrip s sensor) := by
  have k_tripFall := maskOf (V := 4097) hw rfl
  have k_writeExit := maskOf (V := 1602561) hw rfl
  have k_report := maskOf (V := 950275) hw rfl
  have k_tripOn := maskOf (V := 4129) hw rfl
  unfold thermalTrip
  repeat' (first
    | with_reducible rfl
    | with_reducible assumption
    | with_reducible apply tripFall_fp k_tripFall
    | with_reducible apply writeExit_fp k_writeExit
    | with_reducible apply report_fp k_report
    | with_reducible refine advance_fp _ ?_
    | with_reducible apply tripOn_fp k_tripOn)

theorem noteTemp_fp {fw : Nat} {fz : State} (hw : 528385 &&& fw = 528385) (s : State) (t : Nat)
    (hz : Fp fw fz s) : Fp fw fz (noteTemp s t) := by
  have b12 := bitOf hw 12 rfl
  have b19 := bitOf hw 19 rfl
  have k_set := maskOf (V := 1) hw rfl
  unfold noteTemp
  repeat' (first
    | with_reducible rfl
    | with_reducible assumption
    | with_reducible refine onLgt_fp b12 _ _ ?_
    | with_reducible refine onBrd_fp b19 _ _ ?_
    | with_reducible apply set_fp k_set
    | with_reducible refine ite_fp ?_ ?_)

theorem execTempSample_fp (temps : List Nat) (s : State) (t : State) (h : execTempSample temps s = .next t) :
    Fp 2028579 s t := by
  have hw : 2028579 &&& 2028579 = 2028579 := rfl
  unfold execTempSample at h
  simp only [Host.Outcome.next.injEq] at h
  subst h
  have hz : Fp 2028579 s s := Fp.refl _ _
  have k_thermalTrip := maskOf (V := 2028579) hw rfl
  have k_noteTemp := maskOf (V := 528385) hw rfl
  repeat' (first
    | with_reducible rfl
    | with_reducible assumption
    | with_reducible apply thermalTrip_fp k_thermalTrip
    | with_reducible apply noteTemp_fp k_noteTemp
    | with_reducible refine foldl_fp _ _ (fun _ _ _ => ?_) ?_
    | with_reducible refine foldlFst_fp _ _ (fun _ _ _ => ?_) ?_
    | with_reducible refine foldlSnd_fp _ _ (fun _ _ _ => ?_) ?_
    | with_reducible refine ite_fp ?_ ?_)

end Sys2Proof.Machine
end

