-- ==== Sys2Proof/Laws/FootLaunch.lean ====
section
/-!
SUPPORT. Footprints of the operations of Machine/Launch.lean: what each may touch (Fp).
-/
namespace Sys2Proof.Machine

theorem composeNext_fp {fw : Nat} {fz : State} (hw : 6291455 &&& fw = 6291455) (s : State) (n : Nat)
    (hz : Fp fw fz s) : Fp fw fz (composeNext s n) := by
  have k_sendSnap := maskOf (V := 1065985) hw rfl
  have k_replayCue := maskOf (V := 6291455) hw rfl
  have k_composeCue := maskOf (V := 6211567) hw rfl
  have k_undCompose := maskOf (V := 1065985) hw rfl
  unfold composeNext
  repeat' (first
    | with_reducible rfl
    | with_reducible assumption
    | with_reducible apply sendSnap_fp k_sendSnap
    | with_reducible apply replayCue_fp k_replayCue
    | with_reducible apply composeCue_fp k_composeCue
    | with_reducible apply undCompose_fp k_undCompose
    | with_reducible refine ite_fp ?_ ?_
    | split)

theorem execCompositionStart_fp (s : State) (t : State) (h : execCompositionStart s = .next t) :
    Fp 8388607 s t := by
  have hw : 8388607 &&& 8388607 = 8388607 := rfl
  unfold execCompositionStart at h
  simp only [Host.Outcome.next.injEq] at h
  subst h
  have hz : Fp 8388607 s s := Fp.refl _ _
  have b3 := bitOf hw 3 rfl
  have b21 := bitOf hw 21 rfl
  have k_composeNext := maskOf (V := 6291455) hw rfl
  repeat' (first
    | with_reducible rfl
    | with_reducible assumption
    | with_reducible refine onStm_fp b3 _ _ ?_
    | with_reducible refine setSt_fp b21 _ _ ?_
    | with_reducible apply composeNext_fp k_composeNext
    | with_reducible refine ite_fp ?_ ?_)

theorem dropBoard_fp {fw : Nat} {fz : State} (hw : 1574415 &&& fw = 1574415) (s : State)
    (hz : Fp fw fz s) : Fp fw fz (dropBoard s) := by
  have b3 := bitOf hw 3 rfl
  have k_sweepBlocks := maskOf (V := 512) hw rfl
  have k_answerOp := maskOf (V := 1573903) hw rfl
  unfold dropBoard
  repeat' (first
    | with_reducible rfl
    | with_reducible assumption
    | with_reducible refine onStm_fp b3 _ _ ?_
    | with_reducible apply sweepBlocks_fp k_sweepBlocks
    | with_reducible apply answerOp_fp k_answerOp
    | with_reducible refine foldl_fp _ _ (fun _ _ _ => ?_) ?_)

theorem dropAllHeath_fp {fw : Nat} {fz : State} (hw : 513 &&& fw = 513) (s : State)
    (hz : Fp fw fz s) : Fp fw fz (dropAllHeath s) := by
  have k_dropHeath := maskOf (V := 513) hw rfl
  unfold dropAllHeath
  repeat' (first
    | with_reducible rfl
    | with_reducible assumption
    | with_reducible apply dropHeath_fp k_dropHeath
    | with_reducible refine foldl_fp _ _ (fun _ _ _ => ?_) ?_)

theorem restoreLost_fp {fw : Nat} {fz : State} (hw : 6225791 &&& fw = 6225791) (s : State) (company : Nat)
    (hz : Fp fw fz s) : Fp fw fz (restoreLost s company) := by
  have b14 := bitOf hw 14 rfl
  have k_endLostHere := maskOf (V := 1573895) hw rfl
  have k_beginRestore := maskOf (V := 6225791) hw rfl
  unfold restoreLost
  repeat' (first
    | with_reducible rfl
    | with_reducible assumption
    | with_reducible refine onUnd_fp b14 _ _ ?_
    | with_reducible apply endLostHere_fp k_endLostHere
    | with_reducible apply beginRestore_fp k_beginRestore
    | with_reducible refine foldl_fp _ _ (fun _ _ _ => ?_) ?_
    | with_reducible refine foldlFst_fp _ _ (fun _ _ _ => ?_) ?_
    | with_reducible refine foldlSnd_fp _ _ (fun _ _ _ => ?_) ?_
    | with_reducible refine ite_fp ?_ ?_)

theorem markBoundary_fp {fw : Nat} {fz : State} (hw : 1024 &&& fw = 1024) (s : State)
    (hz : Fp fw fz s) : Fp fw fz (markBoundary s) := by
  have k_markLost := maskOf (V := 1024) hw rfl
  unfold markBoundary
  repeat' (first
    | with_reducible rfl
    | with_reducible assumption
    | with_reducible apply markLost_fp k_markLost
    | with_reducible refine foldl_fp _ _ (fun _ _ _ => ?_) ?_)

theorem lostBoundary_fp {fw : Nat} {fz : State} (hw : 6225791 &&& fw = 6225791) (s : State)
    (hz : Fp fw fz s) : Fp fw fz (lostBoundary s) := by
  have k_dropAllHeath := maskOf (V := 513) hw rfl
  have k_dropBoard := maskOf (V := 1574415) hw rfl
  have k_restoreLost := maskOf (V := 6225791) hw rfl
  unfold lostBoundary
  repeat' (first
    | with_reducible rfl
    | with_reducible assumption
    | with_reducible apply dropAllHeath_fp k_dropAllHeath
    | with_reducible apply dropBoard_fp k_dropBoard
    | with_reducible apply restoreLost_fp k_restoreLost
    | with_reducible refine foldl_fp _ _ (fun _ _ _ => ?_) ?_
    | with_reducible refine foldlFst_fp _ _ (fun _ _ _ => ?_) ?_
    | with_reducible refine foldlSnd_fp _ _ (fun _ _ _ => ?_) ?_
    | with_reducible refine ite_fp ?_ ?_)

theorem anchorBoundary_fp {fw : Nat} {fz : State} (hw : 17 &&& fw = 17) (s : State) (n : Nat)
    (hz : Fp fw fz s) : Fp fw fz (anchorBoundary s n) := by
  have k_putAnchor := maskOf (V := 17) hw rfl
  unfold anchorBoundary
  repeat' (first
    | with_reducible rfl
    | with_reducible assumption
    | with_reducible apply putAnchor_fp k_putAnchor
    | with_reducible refine ite_fp ?_ ?_
    | split)

theorem monBoundary_fp {fw : Nat} {fz : State} (hw : 524304 &&& fw = 524304) (s : State) (n : Nat)
    (hz : Fp fw fz s) : Fp fw fz (monBoundary s n) := by
  have b4 := bitOf hw 4 rfl
  have b19 := bitOf hw 19 rfl
  unfold monBoundary
  repeat' (first
    | with_reducible rfl
    | with_reducible assumption
    | with_reducible refine onCue_fp b4 _ _ ?_ ?_ ?_
    | with_reducible refine onBrd_fp b19 _ _ ?_
    | with_reducible refine ite_fp ?_ ?_)

theorem windowBoundary_fp {fw : Nat} {fz : State} (hw : 262145 &&& fw = 262145) (s : State) (n : Nat)
    (hz : Fp fw fz s) : Fp fw fz (windowBoundary s n) := by
  have b18 := bitOf hw 18 rfl
  have k_set := maskOf (V := 1) hw rfl
  unfold windowBoundary
  repeat' (first
    | with_reducible rfl
    | with_reducible assumption
    | with_reducible refine onFlt_fp b18 _ _ ?_
    | with_reducible apply set_fp k_set
    | with_reducible refine ite_fp ?_ ?_)

theorem modelBoundary_fp {fw : Nat} {fz : State} (hw : 1 &&& fw = 1) (s : State) (n : Nat)
    (hz : Fp fw fz s) : Fp fw fz (modelBoundary s n) := by
  have k_set := maskOf (V := 1) hw rfl
  unfold modelBoundary
  repeat' (first
    | with_reducible rfl
    | with_reducible assumption
    | with_reducible apply set_fp k_set
    | with_reducible refine advance_fp _ ?_
    | with_reducible refine ite_fp ?_ ?_)

theorem histBoundary_fp {fw : Nat} {fz : State} (hw : 8 &&& fw = 8) (s : State) (n : Nat)
    (hz : Fp fw fz s) : Fp fw fz (histBoundary s n) := by
  have b3 := bitOf hw 3 rfl
  unfold histBoundary
  repeat' (first
    | with_reducible rfl
    | with_reducible assumption
    | with_reducible refine onStm_fp b3 _ _ ?_)

theorem sweepBoundary_fp {fw : Nat} {fz : State} (hw : 66177 &&& fw = 66177) (s : State) (n : Nat)
    (hz : Fp fw fz s) : Fp fw fz (sweepBoundary s n) := by
  have b7 := bitOf hw 7 rfl
  have k_tryRekey := maskOf (V := 65665) hw rfl
  have k_set := maskOf (V := 1) hw rfl
  have k_uncache := maskOf (V := 512) hw rfl
  unfold sweepBoundary
  repeat' (first
    | with_reducible rfl
    | with_reducible assumption
    | with_reducible refine onGrs_fp b7 _ _ ?_
    | with_reducible apply tryRekey_fp k_tryRekey
    | with_reducible apply set_fp k_set
    | with_reducible apply uncache_fp k_uncache
    | with_reducible refine ite_fp ?_ ?_)

theorem drbgBoundary_fp {fw : Nat} {fz : State} (hw : 65665 &&& fw = 65665) (s : State)
    (hz : Fp fw fz s) : Fp fw fz (drbgBoundary s) := by
  have k_windRequest := maskOf (V := 65665) hw rfl
  unfold drbgBoundary
  repeat' (first
    | with_reducible rfl
    | with_reducible assumption
    | with_reducible apply windRequest_fp k_windRequest
    | with_reducible refine ite_fp ?_ ?_)

theorem advertise_fp {fw : Nat} {fz : State} (hw : 1049601 &&& fw = 1049601) (s : State)
    (hz : Fp fw fz s) : Fp fw fz (advertise s) := by
  have b10 := bitOf hw 10 rfl
  have k_sendAll := maskOf (V := 1049601) hw rfl
  unfold advertise
  repeat' (first
    | with_reducible rfl
    | with_reducible assumption
    | with_reducible refine onFab_fp b10 _ _ ?_ ?_
    | with_reducible simp only []
    | with_reducible apply sendAll_fp k_sendAll
    | split)

theorem leadBoundary_fp {fw : Nat} {fz : State} (hw : 6225791 &&& fw = 6225791) (s : State) (n : Nat)
    (hz : Fp fw fz s) : Fp fw fz (leadBoundary s n) := by
  have k_markBoundary := maskOf (V := 1024) hw rfl
  have k_boardBoundary := maskOf (V := 6211151) hw rfl
  have k_wardrobeBoundary := maskOf (V := 6211407) hw rfl
  have k_lostBoundary := maskOf (V := 6225791) hw rfl
  have k_modelBoundary := maskOf (V := 1) hw rfl
  have k_histBoundary := maskOf (V := 8) hw rfl
  have k_budgetBoundary := maskOf (V := 4) hw rfl
  unfold leadBoundary
  repeat' (first
    | with_reducible rfl
    | with_reducible assumption
    | with_reducible apply markBoundary_fp k_markBoundary
    | with_reducible apply boardBoundary_fp k_boardBoundary
    | with_reducible apply wardrobeBoundary_fp k_wardrobeBoundary
    | with_reducible apply lostBoundary_fp k_lostBoundary
    | with_reducible apply modelBoundary_fp k_modelBoundary
    | with_reducible apply histBoundary_fp k_histBoundary
    | with_reducible apply budgetBoundary_fp k_budgetBoundary
    | with_reducible refine ite_fp ?_ ?_)

theorem stageBoundary_fp {fw : Nat} {fz : State} (hw : 2000431 &&& fw = 2000431) (s : State) (n : Nat)
    (hz : Fp fw fz s) : Fp fw fz (stageBoundary s n) := by
  have k_launchList := maskOf (V := 2000431) hw rfl
  have k_launchOther := maskOf (V := 1) hw rfl
  unfold stageBoundary
  repeat' (first
    | with_reducible rfl
    | with_reducible assumption
    | with_reducible apply launchList_fp k_launchList
    | with_reducible apply launchOther_fp k_launchOther
    | split)

theorem cueBoundary_fp {fw : Nat} {fz : State} (hw : 6291455 &&& fw = 6291455) (s : State) (n : Nat)
    (hz : Fp fw fz s) : Fp fw fz (cueBoundary s n) := by
  have k_handAudit := maskOf (V := 196609) hw rfl
  have k_windowBoundary := maskOf (V := 262145) hw rfl
  have k_monBoundary := maskOf (V := 524304) hw rfl
  have k_swapBoundary := maskOf (V := 204807) hw rfl
  have k_leadBoundary := maskOf (V := 6225791) hw rfl
  have k_parkHost := maskOf (V := 1049611) hw rfl
  have k_liftThrottle := maskOf (V := 4097) hw rfl
  have k_ringBoundary := maskOf (V := 1048578) hw rfl
  have k_stageBoundary := maskOf (V := 2000431) hw rfl
  have k_census := maskOf (V := 950383) hw rfl
  have k_takeCut := maskOf (V := 1065985) hw rfl
  have k_sceneBoundary := maskOf (V := 6225791) hw rfl
  have k_bookBoundary := maskOf (V := 1803265) hw rfl
  have k_undBoundary := maskOf (V := 16385) hw rfl
  have k_keyBoundary := maskOf (V := 196609) hw rfl
  have k_sweepBoundary := maskOf (V := 66177) hw rfl
  have k_drbgBoundary := maskOf (V := 65665) hw rfl
  have k_freeScripts := maskOf (V := 65) hw rfl
  have k_advertise := maskOf (V := 1049601) hw rfl
  unfold cueBoundary
  repeat' (first
    | with_reducible rfl
    | with_reducible assumption
    | with_reducible apply handAudit_fp k_handAudit
    | with_reducible apply windowBoundary_fp k_windowBoundary
    | with_reducible apply monBoundary_fp k_monBoundary
    | with_reducible apply swapBoundary_fp k_swapBoundary
    | with_reducible apply leadBoundary_fp k_leadBoundary
    | with_reducible apply parkHost_fp k_parkHost
    | with_reducible apply liftThrottle_fp k_liftThrottle
    | with_reducible apply ringBoundary_fp k_ringBoundary
    | with_reducible apply stageBoundary_fp k_stageBoundary
    | with_reducible apply census_fp k_census
    | with_reducible apply takeCut_fp k_takeCut
    | with_reducible apply sceneBoundary_fp k_sceneBoundary
    | with_reducible apply bookBoundary_fp k_bookBoundary
    | with_reducible apply undBoundary_fp k_undBoundary
    | with_reducible apply keyBoundary_fp k_keyBoundary
    | with_reducible apply sweepBoundary_fp k_sweepBoundary
    | with_reducible apply drbgBoundary_fp k_drbgBoundary
    | with_reducible apply freeScripts_fp k_freeScripts
    | with_reducible apply advertise_fp k_advertise
    | with_reducible refine ite_fp ?_ ?_)

theorem execCueLaunch_fp (s : State) (t : State) (h : execCueLaunch s = .next t) :
    Fp 16777215 s t := by
  have hw : 16777215 &&& 16777215 = 16777215 := rfl
  unfold execCueLaunch at h
  simp only [Host.Outcome.next.injEq] at h
  subst h
  have hz : Fp 16777215 s s := Fp.refl _ _
  have b4 := bitOf hw 4 rfl
  have b21 := bitOf hw 21 rfl
  have k_anchorBoundary := maskOf (V := 17) hw rfl
  have k_cueBoundary := maskOf (V := 6291455) hw rfl
  repeat' (first
    | with_reducible rfl
    | with_reducible assumption
    | with_reducible refine setSt_fp b21 _ _ ?_
    | with_reducible apply anchorBoundary_fp k_anchorBoundary
    | with_reducible apply cueBoundary_fp k_cueBoundary
    | with_reducible refine onCueNum_fp b4 (bitOf hw 23 rfl) _ _ ?_
    | with_reducible refine ite_fp ?_ ?_)

end Sys2Proof.Machine
end

