-- ==== Sys2Proof/Laws/FootFaults.lean ====
section
/-!
SUPPORT. Footprints of the operations of Machine/Faults.lean: what each may touch (Fp).
-/
namespace Sys2Proof.Machine

theorem eccCount_fp {fw : Nat} {fz : State} (hw : 1 &&& fw = 1) (s : State) (code : Nat)
    (hz : Fp fw fz s) : Fp fw fz (eccCount s code) := by
  have k_inc := maskOf (V := 1) hw rfl
  unfold eccCount
  repeat' (first
    | with_reducible rfl
    | with_reducible assumption
    | with_reducible apply inc_fp k_inc
    | with_reducible refine ite_fp ?_ ?_)

theorem eccPoison_fp {fw : Nat} {fz : State} (hw : 512 &&& fw = 512) (s : State) (code inst detail : Nat)
    (hz : Fp fw fz s) : Fp fw fz (eccPoison s code inst detail) := by
  have k_setPoison := maskOf (V := 512) hw rfl
  unfold eccPoison
  repeat' (first
    | with_reducible rfl
    | with_reducible assumption
    | with_reducible apply setPoison_fp k_setPoison
    | with_reducible refine advance_fp _ ?_
    | with_reducible refine ite_fp ?_ ?_)

theorem execFaultReport_fp (code inst : BitVec 16) (detail : Word) (s : State) (t : State) (h : execFaultReport code inst detail s = .next t) :
    Fp 950787 s t := by
  have hw : 950787 &&& 950787 = 950787 := rfl
  unfold execFaultReport at h
  simp only [Host.Outcome.next.injEq] at h
  subst h
  have hz : Fp 950787 s s := Fp.refl _ _
  have k_report := maskOf (V := 950275) hw rfl
  have k_eccPoison := maskOf (V := 512) hw rfl
  have k_eccCount := maskOf (V := 1) hw rfl
  repeat' (first
    | with_reducible rfl
    | with_reducible assumption
    | with_reducible apply report_fp k_report
    | with_reducible apply eccPoison_fp k_eccPoison
    | with_reducible apply eccCount_fp k_eccCount)

theorem execCrashCapsuleTimeout_fp (s : State) (t : State) (h : execCrashCapsuleTimeout s = .next t) :
    Fp 135169 s t := by
  have hw : 135169 &&& 135169 = 135169 := rfl
  unfold execCrashCapsuleTimeout at h
  simp only [Host.Outcome.next.injEq] at h
  subst h
  have hz : Fp 135169 s s := Fp.refl _ _
  have b17 := bitOf hw 17 rfl
  have k_tripFall := maskOf (V := 4097) hw rfl
  repeat' (first
    | with_reducible rfl
    | with_reducible assumption
    | with_reducible refine onLdg_fp b17 _ _ ?_
    | with_reducible apply tripFall_fp k_tripFall
    | with_reducible refine ite_fp ?_ ?_)

theorem clearFlds_fp {fw : Nat} {fz : State} (hw : 1 &&& fw = 1) (s : State) (fs : List Fld)
    (hz : Fp fw fz s) : Fp fw fz (clearFlds s fs) := by
  have k_set := maskOf (V := 1) hw rfl
  unfold clearFlds
  repeat' (first
    | with_reducible rfl
    | with_reducible assumption
    | with_reducible apply set_fp k_set
    | with_reducible refine foldl_fp _ _ (fun _ _ _ => ?_) ?_)

theorem resetPrompter_fp {fw : Nat} {fz : State} (hw : 65 &&& fw = 65) (s : State)
    (hz : Fp fw fz s) : Fp fw fz (resetPrompter s) := by
  have b6 := bitOf hw 6 rfl
  have k_clearFlds := maskOf (V := 1) hw rfl
  unfold resetPrompter
  repeat' (first
    | with_reducible rfl
    | with_reducible assumption
    | with_reducible refine onPrm_fp b6 _ _ ?_
    | with_reducible apply clearFlds_fp k_clearFlds)

theorem resetWardrobe_fp {fw : Nat} {fz : State} (hw : 257 &&& fw = 257) (s : State)
    (hz : Fp fw fz s) : Fp fw fz (resetWardrobe s) := by
  have b8 := bitOf hw 8 rfl
  have k_noteWdr := maskOf (V := 1) hw rfl
  have k_clearFlds := maskOf (V := 1) hw rfl
  unfold resetWardrobe
  repeat' (first
    | with_reducible rfl
    | with_reducible assumption
    | with_reducible refine onWdr_fp b8 _ _ ?_
    | with_reducible apply noteWdr_fp k_noteWdr
    | with_reducible apply clearFlds_fp k_clearFlds)

theorem resetUnderstudy_fp {fw : Nat} {fz : State} (hw : 1065985 &&& fw = 1065985) (s : State)
    (hz : Fp fw fz s) : Fp fw fz (resetUnderstudy s) := by
  have b14 := bitOf hw 14 rfl
  have k_abandonSnap := maskOf (V := 16385) hw rfl
  have k_send := maskOf (V := 1049601) hw rfl
  have k_dropView := maskOf (V := 16384) hw rfl
  have k_clearFlds := maskOf (V := 1) hw rfl
  unfold resetUnderstudy
  repeat' (first
    | with_reducible rfl
    | with_reducible assumption
    | with_reducible refine onUnd_fp b14 _ _ ?_
    | with_reducible apply abandonSnap_fp k_abandonSnap
    | with_reducible apply send_fp k_send
    | with_reducible apply dropView_fp k_dropView
    | with_reducible apply clearFlds_fp k_clearFlds
    | with_reducible refine ite_fp ?_ ?_
    | split)

theorem resetBook_fp {fw : Nat} {fz : State} (hw : 32769 &&& fw = 32769) (s : State)
    (hz : Fp fw fz s) : Fp fw fz (resetBook s) := by
  have b15 := bitOf hw 15 rfl
  have k_set := maskOf (V := 1) hw rfl
  have k_clearFlds := maskOf (V := 1) hw rfl
  unfold resetBook
  repeat' (first
    | with_reducible rfl
    | with_reducible assumption
    | with_reducible refine onPbk_fp b15 _ _ ?_
    | with_reducible apply set_fp k_set
    | with_reducible apply clearFlds_fp k_clearFlds
    | with_reducible refine ite_fp ?_ ?_)

theorem prstOne_fp {fw : Nat} {fz : State} (hw : 2016579 &&& fw = 2016579) (v : Word) (s : State) (b : PrstBlock)
    (hz : Fp fw fz s) : Fp fw fz (prstOne v s b) := by
  have k_resetPrompter := maskOf (V := 65) hw rfl
  have k_resetWardrobe := maskOf (V := 257) hw rfl
  have k_resetUnderstudy := maskOf (V := 1065985) hw rfl
  have k_resetBook := maskOf (V := 32769) hw rfl
  have k_report := maskOf (V := 950275) hw rfl
  have k_set := maskOf (V := 1) hw rfl
  unfold prstOne
  repeat' (first
    | with_reducible rfl
    | with_reducible assumption
    | with_reducible apply resetPrompter_fp k_resetPrompter
    | with_reducible apply resetWardrobe_fp k_resetWardrobe
    | with_reducible apply resetUnderstudy_fp k_resetUnderstudy
    | with_reducible apply resetBook_fp k_resetBook
    | with_reducible apply report_fp k_report
    | with_reducible refine advance_fp _ ?_
    | with_reducible apply set_fp k_set
    | with_reducible refine ite_fp ?_ ?_
    | split)

theorem execPartialReset_fp (v : Word) (s : State) (t : State) (h : execPartialReset v s = .next t) :
    Fp 2090323 s t := by
  have hw : 2090323 &&& 2090323 = 2090323 := rfl
  unfold execPartialReset at h
  simp only [Host.Outcome.next.injEq] at h
  subst h
  have hz : Fp 2090323 s s := Fp.refl _ _
  have k_commandWord := maskOf (V := 729107) hw rfl
  have k_prstOne := maskOf (V := 2016579) hw rfl
  repeat' (first
    | with_reducible rfl
    | with_reducible assumption
    | with_reducible apply commandWord_fp k_commandWord
    | with_reducible apply prstOne_fp k_prstOne
    | with_reducible refine foldl_fp _ _ (fun _ _ _ => ?_) ?_
    | with_reducible refine foldlFst_fp _ _ (fun _ _ _ => ?_) ?_
    | with_reducible refine foldlSnd_fp _ _ (fun _ _ _ => ?_) ?_
    | with_reducible refine ite_fp ?_ ?_)

theorem execPartialResetComplete_fp (b : Fin 4) (s : State) (t : State) (h : execPartialResetComplete b s = .next t) :
    Fp 1 s t := by
  have hw : 1 &&& 1 = 1 := rfl
  unfold execPartialResetComplete at h
  simp only [Host.Outcome.next.injEq] at h
  subst h
  have hz : Fp 1 s s := Fp.refl _ _
  have k_set := maskOf (V := 1) hw rfl
  repeat' (first
    | with_reducible rfl
    | with_reducible assumption
    | with_reducible apply set_fp k_set
    | split)

theorem execFaultInject_fp (fn : Fin 128) (v : Word) (s : State) (t : State) (h : execFaultInject fn v s = .next t) :
    Fp 1015811 s t := by
  have hw : 1015811 &&& 1015811 = 1015811 := rfl
  unfold execFaultInject at h
  simp only [Host.Outcome.next.injEq] at h
  subst h
  have hz : Fp 1015811 s s := Fp.refl _ _
  have k_lockedOut := maskOf (V := 196609) hw rfl
  have k_injectFault := maskOf (V := 950275) hw rfl
  have k_set := maskOf (V := 1) hw rfl
  repeat' (first
    | with_reducible rfl
    | with_reducible assumption
    | with_reducible apply lockedOut_fp k_lockedOut
    | with_reducible apply injectFault_fp k_injectFault
    | with_reducible apply set_fp k_set
    | with_reducible refine ite_fp ?_ ?_)

end Sys2Proof.Machine
end

