-- ==== Sys2Proof/Laws/FootStep.lean ====
section
/-!
SUPPORT. What every command and every step keeps: the footprint lemmas put together, arm by arm.
-/
namespace Sys2Proof.Machine

/-- A command's next state keeps the queue, the order of free values, the memory's canonical form, the Players, the links, the
rollback floor and every revocation. -/
theorem exec_fp (c : Instr) (s t : State) (h : exec c s = .next t) : Fp 16777215 s t := by
  cases c with
  | registerWrite a0 a1 a2 a3 => exact Fp.mono (execRegisterWrite_fp a0 a1 a2 a3 s t h) rfl
  | heldRwsWriteLands => exact Fp.mono (execHeldRwsWriteLands_fp s t h) rfl
  | cueNowRead => exact Fp.mono (execCueNowRead_fp s t h) rfl
  | sqTailDoorbell a0 a1 a2 => exact Fp.mono (execSqTailDoorbell_fp a0 a1 a2 s t h) rfl
  | lqHeadDoorbell a0 a1 a2 => exact Fp.mono (execLqHeadDoorbell_fp a0 a1 a2 s t h) rfl
  | nqHeadDoorbell a0 a1 => exact Fp.mono (execNqHeadDoorbell_fp a0 a1 s t h) rfl
  | cardFetch a0 => exact Fp.mono (execCardFetch_fp a0 s t h) rfl
  | promptPullDone a0 a1 a2 a3 a4 => exact Fp.mono (execPromptPullDone_fp a0 a1 a2 a3 a4 s t h) rfl
  | submit => exact Fp.mono (execSubmit_fp s t h) rfl
  | contin => exact Fp.mono (execContin_fp s t h) rfl
  | pause => exact Fp.mono (execPause_fp s t h) rfl
  | resume => exact Fp.mono (execResume_fp s t h) rfl
  | cancel => exact Fp.mono (execCancel_fp s t h) rfl
  | releasePrefix => exact Fp.mono (execReleasePrefix_fp s t h) rfl
  | prefixLookup a0 => exact Fp.mono (execPrefixLookup_fp a0 s t h) rfl
  | lineWrite a0 a1 a2 => exact Fp.mono (execLineWrite_fp a0 a1 a2 s t h) rfl
  | noticeWrite a0 a1 a2 => exact Fp.mono (execNoticeWrite_fp a0 a1 a2 s t h) rfl
  | hqTailDoorbell a0 a1 a2 => exact Fp.mono (execHqTailDoorbell_fp a0 a1 a2 s t h) rfl
  | h2d a0 a1 a2 => exact Fp.mono (execH2d_fp a0 a1 a2 s t h) rfl
  | d2h a0 a1 => exact Fp.mono (execD2h_fp a0 a1 s t h) rfl
  | fence a0 => exact Fp.mono (execFence_fp a0 s t h) rfl
  | descriptorComplete a0 => exact Fp.mono (execDescriptorComplete_fp a0 s t h) rfl
  | hqResume a0 a1 => exact Fp.mono (execHqResume_fp a0 a1 s t h) rfl
  | hostLoss => exact Fp.mono (execHostLoss_fp s t h) rfl
  | perstAssert => exact Fp.mono (execPerstAssert_fp s t h) rfl
  | perstDeassert => exact Fp.mono (execPerstDeassert_fp s t h) rfl
  | pcieLinkUp a0 a1 => exact Fp.mono (execPcieLinkUp_fp a0 a1 s t h) rfl
  | reclaim a0 a1 => exact Fp.mono (execReclaim_fp a0 a1 s t h) rfl
  | graceExpiry => exact Fp.mono (execGraceExpiry_fp s t h) rfl
  | functionLevelReset a0 => exact Fp.mono (execFunctionLevelReset_fp a0 s t h) rfl
  | cueLaunch => exact Fp.mono (execCueLaunch_fp s t h) rfl
  | compositionStart => exact Fp.mono (execCompositionStart_fp s t h) rfl
  | budgetCompute a0 a1 => exact Fp.mono (execBudgetCompute_fp a0 a1 s t h) rfl
  | cueMonFall => exact Fp.mono (execCueMonFall_fp s t h) rfl
  | periodRequest a0 => exact Fp.mono (execPeriodRequest_fp a0 s t h) rfl
  | ppsEdge => exact Fp.mono (execPpsEdge_fp s t h) rfl
  | ppsTimeout => exact Fp.mono (execPpsTimeout_fp s t h) rfl
  | primaryRootTimeout => exact Fp.mono (execPrimaryRootTimeout_fp s t h) rfl
  | secondaryRootTimeout => exact Fp.mono (execSecondaryRootTimeout_fp s t h) rfl
  | timeExchange a0 a1 => exact Fp.mono (execTimeExchange_fp a0 a1 s t h) rfl
  | holdoverExpiry => exact Fp.mono (execHoldoverExpiry_fp s t h) rfl
  | completion a0 => exact Fp.mono (execCompletion_fp a0 s t h) rfl
  | pushSlotFill a0 => exact Fp.mono (execPushSlotFill_fp a0 s t h) rfl
  | take a0 => exact Fp.mono (execTake_fp a0 s t h) rfl
  | refetch a0 => exact Fp.mono (execRefetch_fp a0 s t h) rfl
  | branch a0 => exact Fp.mono (execBranch_fp a0 s t h) rfl
  | done a0 => exact Fp.mono (execDone_fp a0 s t h) rfl
  | chunk a0 => exact Fp.mono (execChunk_fp a0 s t h) rfl
  | halt a0 => exact Fp.mono (execHalt_fp a0 s t h) rfl
  | computeWord a0 a1 => exact Fp.mono (execComputeWord_fp a0 a1 s t h) rfl
  | badop a0 => exact Fp.mono (execBadop_fp a0 s t h) rfl
  | ipar a0 => exact Fp.mono (execIpar_fp a0 s t h) rfl
  | reloadDone a0 => exact Fp.mono (execReloadDone_fp a0 s t h) rfl
  | haltReq a0 a1 => exact Fp.mono (execHaltReq_fp a0 a1 s t h) rfl
  | seqRefetch a0 a1 => exact Fp.mono (execSeqRefetch_fp a0 a1 s t h) rfl
  | idataStore a0 a1 a2 => exact Fp.mono (execIdataStore_fp a0 a1 a2 s t h) rfl
  | localPass a0 a1 a2 a3 a4 a5 a6 => exact Fp.mono (execLocalPass_fp a0 a1 a2 a3 a4 a5 a6 s t h) rfl
  | mergePass a0 a1 => exact Fp.mono (execMergePass_fp a0 a1 s t h) rfl
  | candList a0 a1 a2 a3 a4 a5 a6 a7 a8 a9 a10 => exact Fp.mono (execCandList_fp a0 a1 a2 a3 a4 a5 a6 a7 a8 a9 a10 s t h) rfl
  | step a0 a1 => exact Fp.mono (execStep_fp a0 a1 s t h) rfl
  | chunkDone a0 a1 => exact Fp.mono (execChunkDone_fp a0 a1 s t h) rfl
  | line a0 a1 a2 => exact Fp.mono (execLine_fp a0 a1 a2 s t h) rfl
  | credit a0 a1 => exact Fp.mono (execCredit_fp a0 a1 s t h) rfl
  | cueList a0 a1 => exact Fp.mono (execCueList_fp a0 a1 s t h) rfl
  | activation a0 a1 a2 a3 a4 a5 a6 a7 a8 a9 => exact Fp.mono (execActivation_fp a0 a1 a2 a3 a4 a5 a6 a7 a8 a9 s t h) rfl
  | partials a0 a1 a2 a3 a4 a5 a6 => exact Fp.mono (execPartials_fp a0 a1 a2 a3 a4 a5 a6 s t h) rfl
  | prompt a0 a1 a2 a3 a4 => exact Fp.mono (execPrompt_fp a0 a1 a2 a3 a4 s t h) rfl
  | transfer a0 a1 a2 a3 a4 => exact Fp.mono (execTransfer_fp a0 a1 a2 a3 a4 s t h) rfl
  | blockSet a0 => exact Fp.mono (execBlockSet_fp a0 s t h) rfl
  | tableClear a0 => exact Fp.mono (execTableClear_fp a0 s t h) rfl
  | context a0 a1 a2 a3 => exact Fp.mono (execContext_fp a0 a1 a2 a3 s t h) rfl
  | budget a0 a1 a2 a3 a4 a5 => exact Fp.mono (execBudget_fp a0 a1 a2 a3 a4 a5 s t h) rfl
  | advert a0 a1 a2 a3 a4 a5 a6 a7 a8 => exact Fp.mono (execAdvert_fp a0 a1 a2 a3 a4 a5 a6 a7 a8 s t h) rfl
  | snap a0 a1 => exact Fp.mono (execSnap_fp a0 a1 s t h) rfl
  | cutAck a0 a1 a2 => exact Fp.mono (execCutAck_fp a0 a1 a2 s t h) rfl
  | copied a0 a1 a2 a3 => exact Fp.mono (execCopied_fp a0 a1 a2 a3 s t h) rfl
  | noSpace a0 a1 a2 => exact Fp.mono (execNoSpace_fp a0 a1 a2 s t h) rfl
  | copyFault a0 a1 a2 => exact Fp.mono (execCopyFault_fp a0 a1 a2 s t h) rfl
  | manifestAck a0 a1 a2 => exact Fp.mono (execManifestAck_fp a0 a1 a2 s t h) rfl
  | applied a0 a1 => exact Fp.mono (execApplied_fp a0 a1 s t h) rfl
  | resident a0 a1 a2 a3 a4 => exact Fp.mono (execResident_fp a0 a1 a2 a3 a4 s t h) rfl
  | spilled a0 a1 a2 => exact Fp.mono (execSpilled_fp a0 a1 a2 s t h) rfl
  | filled a0 a1 a2 => exact Fp.mono (execFilled_fp a0 a1 a2 s t h) rfl
  | resetCue a0 a1 a2 => exact Fp.mono (execResetCue_fp a0 a1 a2 s t h) rfl
  | status a0 a1 a2 a3 a4 a5 a6 => exact Fp.mono (execStatus_fp a0 a1 a2 a3 a4 a5 a6 s t h) rfl
  | repoint a0 a1 a2 a3 a4 a5 a6 => exact Fp.mono (execRepoint_fp a0 a1 a2 a3 a4 a5 a6 s t h) rfl
  | shardRead a0 a1 a2 a3 a4 a5 a6 => exact Fp.mono (execShardRead_fp a0 a1 a2 a3 a4 a5 a6 s t h) rfl
  | shardData a0 a1 a2 a3 a4 => exact Fp.mono (execShardData_fp a0 a1 a2 a3 a4 s t h) rfl
  | sceneQuery a0 a1 a2 a3 => exact Fp.mono (execSceneQuery_fp a0 a1 a2 a3 s t h) rfl
  | restoreFillDone a0 a1 => exact Fp.mono (execRestoreFillDone_fp a0 a1 s t h) rfl
  | scriptLoad a0 => exact Fp.mono (execScriptLoad_fp a0 s t h) rfl
  | scriptLoadDone => exact Fp.mono (execScriptLoadDone_fp s t h) rfl
  | withdraw a0 => exact Fp.mono (execWithdraw_fp a0 s t h) rfl
  | retest a0 => exact Fp.mono (execRetest_fp a0 s t h) rfl
  | windBlock a0 => exact Fp.mono (execWindBlock_fp a0 s t h) rfl
  | gorseTestGo a0 => exact Fp.mono (execGorseTestGo_fp a0 s t h) rfl
  | costumeLoad a0 a1 => exact Fp.mono (execCostumeLoad_fp a0 a1 s t h) rfl
  | costumeLoadDone => exact Fp.mono (execCostumeLoadDone_fp s t h) rfl
  | pendingLoadResume => exact Fp.mono (execPendingLoadResume_fp s t h) rfl
  | revoke a0 => exact Fp.mono (execRevoke_fp a0 s t h) rfl
  | residencyCopyDone a0 a1 a2 => exact Fp.mono (execResidencyCopyDone_fp a0 a1 a2 s t h) rfl
  | tableInvalidate a0 => exact Fp.mono (execTableInvalidate_fp a0 s t h) rfl
  | heathSpillDone a0 a1 => exact Fp.mono (execHeathSpillDone_fp a0 a1 s t h) rfl
  | heathFillDone a0 a1 => exact Fp.mono (execHeathFillDone_fp a0 a1 s t h) rfl
  | flitReceive a0 a1 => exact Fp.mono (execFlitReceive_fp a0 a1 s t h) rfl
  | packetForward a0 => exact Fp.mono (execPacketForward_fp a0 s t h) rfl
  | idleFlit a0 => exact Fp.mono (execIdleFlit_fp a0 s t h) rfl
  | replayTimeout a0 => exact Fp.mono (execReplayTimeout_fp a0 s t h) rfl
  | linkEn a0 a1 => exact Fp.mono (execLinkEn_fp a0 a1 s t h) rfl
  | trainingComplete a0 => exact Fp.mono (execTrainingComplete_fp a0 s t h) rfl
  | trainTimeout a0 => exact Fp.mono (execTrainTimeout_fp a0 s t h) rfl
  | trainRestart a0 => exact Fp.mono (execTrainRestart_fp a0 s t h) rfl
  | identityRecord a0 a1 => exact Fp.mono (execIdentityRecord_fp a0 a1 s t h) rfl
  | linkSignalLoss a0 => exact Fp.mono (execLinkSignalLoss_fp a0 s t h) rfl
  | linkSilence a0 => exact Fp.mono (execLinkSilence_fp a0 s t h) rfl
  | topologyUpdate a0 a1 a2 a3 => exact Fp.mono (execTopologyUpdate_fp a0 a1 a2 a3 s t h) rfl
  | exit a0 => exact Fp.mono (execExit_fp a0 s t h) rfl
  | exitFence a0 => exact Fp.mono (execExitFence_fp a0 s t h) rfl
  | exitAck a0 => exact Fp.mono (execExitAck_fp a0 s t h) rfl
  | exitAckSend a0 => exact Fp.mono (execExitAckSend_fp a0 s t h) rfl
  | exitTimeout => exact Fp.mono (execExitTimeout_fp s t h) rfl
  | swaleWrite a0 a1 => exact Fp.mono (execSwaleWrite_fp a0 a1 s t h) rfl
  | swaleRead a0 => exact Fp.mono (execSwaleRead_fp a0 s t h) rfl
  | mark a0 => exact Fp.mono (execMark_fp a0 s t h) rfl
  | rewind a0 => exact Fp.mono (execRewind_fp a0 s t h) rfl
  | release a0 a1 => exact Fp.mono (execRelease_fp a0 a1 s t h) rfl
  | pointerMismatch a0 => exact Fp.mono (execPointerMismatch_fp a0 s t h) rfl
  | swaleReset a0 a1 => exact Fp.mono (execSwaleReset_fp a0 a1 s t h) rfl
  | flushDone a0 => exact Fp.mono (execFlushDone_fp a0 s t h) rfl
  | holdDone a0 => exact Fp.mono (execHoldDone_fp a0 s t h) rfl
  | watermarkDwellEnd a0 => exact Fp.mono (execWatermarkDwellEnd_fp a0 s t h) rfl
  | silentSelfReset => exact Fp.mono (execSilentSelfReset_fp s t h) rfl
  | domainDemand a0 => exact Fp.mono (execDomainDemand_fp a0 s t h) rfl
  | domainIdle a0 => exact Fp.mono (execDomainIdle_fp a0 s t h) rfl
  | targetWrite a0 a1 => exact Fp.mono (execTargetWrite_fp a0 a1 s t h) rfl
  | shutdownComplete a0 => exact Fp.mono (execShutdownComplete_fp a0 s t h) rfl
  | powerupComplete a0 => exact Fp.mono (execPowerupComplete_fp a0 s t h) rfl
  | pgFail a0 => exact Fp.mono (execPgFail_fp a0 s t h) rfl
  | deepOff a0 => exact Fp.mono (execDeepOff_fp a0 s t h) rfl
  | pwrBrakeFall => exact Fp.mono (execPwrBrakeFall_fp s t h) rfl
  | pwrBrakeRise => exact Fp.mono (execPwrBrakeRise_fp s t h) rfl
  | brakeLoopTick a0 => exact Fp.mono (execBrakeLoopTick_fp a0 s t h) rfl
  | tempSample a0 => exact Fp.mono (execTempSample_fp a0 s t h) rfl
  | stageplotLoad a0 => exact Fp.mono (execStageplotLoad_fp a0 s t h) rfl
  | stageplotLoadDone => exact Fp.mono (execStageplotLoadDone_fp s t h) rfl
  | swapReq a0 a1 => exact Fp.mono (execSwapReq_fp a0 a1 s t h) rfl
  | swapCancel a0 => exact Fp.mono (execSwapCancel_fp a0 s t h) rfl
  | sceneStart a0 => exact Fp.mono (execSceneStart_fp a0 s t h) rfl
  | applyDone => exact Fp.mono (execApplyDone_fp s t h) rfl
  | sceneTimeout => exact Fp.mono (execSceneTimeout_fp s t h) rfl
  | snapshotForce a0 => exact Fp.mono (execSnapshotForce_fp a0 s t h) rfl
  | snapshotCopyDone a0 => exact Fp.mono (execSnapshotCopyDone_fp a0 s t h) rfl
  | copyBeforeWrite a0 a1 a2 => exact Fp.mono (execCopyBeforeWrite_fp a0 a1 a2 s t h) rfl
  | snapshotTimeout => exact Fp.mono (execSnapshotTimeout_fp s t h) rfl
  | drainDone a0 => exact Fp.mono (execDrainDone_fp a0 s t h) rfl
  | wcopyRefreshDone => exact Fp.mono (execWcopyRefreshDone_fp s t h) rfl
  | undHostGo a0 => exact Fp.mono (execUndHostGo_fp a0 s t h) rfl
  | replayGo a0 => exact Fp.mono (execReplayGo_fp a0 s t h) rfl
  | replayAbort a0 => exact Fp.mono (execReplayAbort_fp a0 s t h) rfl
  | getVersion => exact Fp.mono (execGetVersion_fp s t h) rfl
  | getCapabilities => exact Fp.mono (execGetCapabilities_fp s t h) rfl
  | negotiateAlgorithms a0 => exact Fp.mono (execNegotiateAlgorithms_fp a0 s t h) rfl
  | getDigests => exact Fp.mono (execGetDigests_fp s t h) rfl
  | getCertificate a0 a1 a2 => exact Fp.mono (execGetCertificate_fp a0 a1 a2 s t h) rfl
  | challenge a0 a1 => exact Fp.mono (execChallenge_fp a0 a1 s t h) rfl
  | getMeasurements a0 a1 a2 => exact Fp.mono (execGetMeasurements_fp a0 a1 a2 s t h) rfl
  | keyExchange a0 a1 => exact Fp.mono (execKeyExchange_fp a0 a1 s t h) rfl
  | finish a0 a1 a2 => exact Fp.mono (execFinish_fp a0 a1 a2 s t h) rfl
  | heartbeat a0 => exact Fp.mono (execHeartbeat_fp a0 s t h) rfl
  | keyUpdate a0 => exact Fp.mono (execKeyUpdate_fp a0 s t h) rfl
  | endSession a0 => exact Fp.mono (execEndSession_fp a0 s t h) rfl
  | chunkSend a0 a1 a2 a3 => exact Fp.mono (execChunkSend_fp a0 a1 a2 a3 s t h) rfl
  | chunkGet a0 a1 => exact Fp.mono (execChunkGet_fp a0 a1 s t h) rfl
  | setHouseKey a0 a1 => exact Fp.mono (execSetHouseKey_fp a0 a1 s t h) rfl
  | programKey a0 a1 a2 => exact Fp.mono (execProgramKey_fp a0 a1 a2 s t h) rfl
  | revokeKey a0 a1 => exact Fp.mono (execRevokeKey_fp a0 a1 s t h) rfl
  | writeLocked a0 a1 a2 => exact Fp.mono (execWriteLocked_fp a0 a1 a2 s t h) rfl
  | raiseFloor a0 a1 => exact Fp.mono (execRaiseFloor_fp a0 a1 s t h) rfl
  | spdmZeroise a0 a1 => exact Fp.mono (execSpdmZeroise_fp a0 a1 s t h) rfl
  | readAudit a0 a1 a2 => exact Fp.mono (execReadAudit_fp a0 a1 a2 s t h) rfl
  | zeroise a0 => exact Fp.mono (execZeroise_fp a0 s t h) rfl
  | zeroiseComplete => exact Fp.mono (execZeroiseComplete_fp s t h) rfl
  | tenantZero a0 => exact Fp.mono (execTenantZero_fp a0 s t h) rfl
  | tkeyImport a0 => exact Fp.mono (execTkeyImport_fp a0 s t h) rfl
  | floorWrite a0 a1 => exact Fp.mono (execFloorWrite_fp a0 a1 s t h) rfl
  | tamper a0 => exact Fp.mono (execTamper_fp a0 s t h) rfl
  | selftestDone a0 => exact Fp.mono (execSelftestDone_fp a0 s t h) rfl
  | auditClose => exact Fp.mono (execAuditClose_fp s t h) rfl
  | logPageProgram a0 => exact Fp.mono (execLogPageProgram_fp a0 s t h) rfl
  | ledgerStore a0 => exact Fp.mono (execLedgerStore_fp a0 s t h) rfl
  | ledgerStoreDone a0 => exact Fp.mono (execLedgerStoreDone_fp a0 s t h) rfl
  | wearLevelMove a0 => exact Fp.mono (execWearLevelMove_fp a0 s t h) rfl
  | coldPowerUp a0 a1 a2 a3 => exact Fp.mono (execColdPowerUp_fp a0 a1 a2 a3 s t h) rfl
  | supplyLoss => exact Fp.mono (execSupplyLoss_fp s t h) rfl
  | warmRst a0 => exact Fp.mono (execWarmRst_fp a0 s t h) rfl
  | warmResetFlushDone => exact Fp.mono (execWarmResetFlushDone_fp s t h) rfl
  | warmRstRelease => exact Fp.mono (execWarmRstRelease_fp s t h) rfl
  | wloadBegin a0 => exact Fp.mono (execWloadBegin_fp a0 s t h) rfl
  | wloadDone a0 => exact Fp.mono (execWloadDone_fp a0 s t h) rfl
  | weightHashDone => exact Fp.mono (execWeightHashDone_fp s t h) rfl
  | faultReport a0 a1 a2 => exact Fp.mono (execFaultReport_fp a0 a1 a2 s t h) rfl
  | crashCapsuleTimeout => exact Fp.mono (execCrashCapsuleTimeout_fp s t h) rfl
  | partialReset a0 => exact Fp.mono (execPartialReset_fp a0 s t h) rfl
  | faultInject a0 a1 => exact Fp.mono (execFaultInject_fp a0 a1 s t h) rfl
  | card a0 a1 a2 a3 a4 => exact Fp.mono (execCard_fp a0 a1 a2 a3 a4 s t h) rfl
  | configurationRequest a0 => exact Fp.mono (execConfigurationRequest_fp a0 s t h) rfl
  | pasidTlp => exact Fp.mono (execPasidTlp_fp s t h) rfl
  | startupTestsDone a0 => exact Fp.mono (execStartupTestsDone_fp a0 s t h) rfl
  | flrComplete a0 => exact Fp.mono (execFlrComplete_fp a0 s t h) rfl
  | partialResetComplete a0 => exact Fp.mono (execPartialResetComplete_fp a0 s t h) rfl
  | eccScheduledMove a0 a1 => exact Fp.mono (execEccScheduledMove_fp a0 a1 s t h) rfl
  | rbDataRead => exact Fp.mono (execRbDataRead_fp s t h) rfl

theorem stepIdle_fp (s : State) : Fp 2097152 s (s.setSt (s.st + 1)) := setSt_fp rfl s _ (Fp.refl _ s)

/-- The step of a queue that is not empty runs its front command on the rest. -/
theorem step_cons (c : Instr) (q : List Instr) (s : State) (h : s.pending = c :: q) : step s = exec c (s.setPending q) := by
  unfold step
  rw [h]

theorem step_nil (s : State) (h : s.pending = []) : step s = .next (s.setSt (s.st + 1)) := by
  unfold step
  rw [h]

/-- What one step keeps; `q` is the queue it leaves. -/
theorem step_keeps (s t : State) (h : step s = .next t) : t.pending = s.pending.tail ∧ Fp 16777215 (s.setPending s.pending.tail) t := by
  cases hp : s.pending with
  | nil =>
    rw [step_nil s hp] at h
    have e : s.setPending [] = s := by rw [← hp]; rfl
    rw [List.tail_nil, e, ← Host.Outcome.next.inj h]
    exact ⟨hp, Fp.mono (stepIdle_fp s) rfl⟩
  | cons c q =>
    rw [step_cons c q s hp] at h
    have k := exec_fp c _ _ h
    exact ⟨k.pending, k⟩

end Sys2Proof.Machine
end

