-- ==== Sys2Proof/Laws/Frame.lean ====
section
/-!
SUPPORT. From a footprint to the parts of a frame.
-/
namespace Sys2Proof.Machine

/-- The bit of a footprint that stands for a part. -/
def Part.bitNo : Part → Nat
  | .regs => 0
  | .hiu => 1
  | .box => 2
  | .stm => 3
  | .cue => 4
  | .ply => 5
  | .prm => 6
  | .grs => 7
  | .wdr => 8
  | .mdw => 9
  | .fab => 10
  | .swl => 11
  | .lgt => 12
  | .spl => 13
  | .und => 14
  | .pbk => 15
  | .sdr => 16
  | .ldg => 17
  | .flt => 18
  | .brd => 19
  | .out => 20
  | .time => 21
  | .bytes => 22
  | .cueNumber => 23

/-- A part outside a footprint is the same. -/
theorem Fp.part {w : Nat} {s t : State} (h : Fp w s t) (p : Part) (hp : w.testBit p.bitNo = false) : p.same s t := by
  cases p with
  | regs => exact h.regs hp
  | hiu => exact h.hiu hp
  | box => exact h.box hp
  | stm => exact h.stm hp
  | cue => exact h.cue hp
  | ply => exact h.ply hp
  | prm => exact h.prm hp
  | grs => exact h.grs hp
  | wdr => exact h.wdr hp
  | mdw => exact h.mdw hp
  | fab => exact h.fab hp
  | swl => exact h.swl hp
  | lgt => exact h.lgt hp
  | spl => exact h.spl hp
  | und => exact h.und hp
  | pbk => exact h.pbk hp
  | sdr => exact h.sdr hp
  | ldg => exact h.ldg hp
  | flt => exact h.flt hp
  | brd => exact h.brd hp
  | out => exact h.out hp
  | time => exact h.st hp
  | bytes => exact fun a => by unfold readByte; rw [h.mem hp]
  | cueNumber => exact h.cueNo hp

/-- The parts of a list hold every part whose bit a footprint sets. -/
def covers (ps : List Part) (w : Nat) : Bool := (allBut []).all fun p => decide (p ∈ ps) || !w.testBit p.bitNo

/-- A footprint as a frame: the queue, and every part outside the list, are the same. -/
theorem Fp.parts {w : Nat} {s t : State} {ps : List Part} (h : Fp w s t) (hc : covers ps w = true) :
    t.pending = s.pending ∧ ∀ p : Part, p ∉ ps → p.same s t := by
  refine ⟨h.pending, fun p hp => h.part p ?_⟩
  have k := List.all_eq_true.mp hc p (by cases p <;> decide)
  simpa [hp] using k

end Sys2Proof.Machine
end

