-- ==== Sys2Proof/Laws/Reads.lean ====
section
/-!
SUPPORT. What a register field reads after each operation on the state.
-/
namespace Sys2Proof.Machine

@[simp] theorem get_set_same (s : State) (f : Fld) (v : Nat) : get (set s f v) f = v % 2 ^ f.width :=
  AMap.getD_setD_same _ _ _ _

theorem get_set_other (s : State) (f g : Fld) (v : Nat) (h : f.key ≠ g.key) : get (set s g v) f = get s f :=
  AMap.getD_setD_other _ _ _ _ _ _ h

@[simp] theorem getA_set (s : State) (f g : Fld) (v : Nat) : getA (set s g v) f = getA s f := rfl

@[simp] theorem getA_setA_same (s : State) (f : Fld) (v : Nat) : getA (setA s f v) f = v % 2 ^ f.width :=
  AMap.getD_setD_same _ _ _ _

theorem getA_setA_other (s : State) (f g : Fld) (v : Nat) (h : f.key ≠ g.key) : getA (setA s g v) f = getA s f :=
  AMap.getD_setD_other _ _ _ _ _ _ h

@[simp] theorem get_setA (s : State) (f g : Fld) (v : Nat) : get (setA s g v) f = get s f := rfl

@[simp] theorem get_inc_same (s : State) (f : Fld) (k : Nat) : get (inc s f k) f = satAdd f.width (get s f) k % 2 ^ f.width :=
  AMap.getD_setD_same _ _ _ _

theorem get_inc_other (s : State) (f g : Fld) (k : Nat) (h : f.key ≠ g.key) : get (inc s g k) f = get s f :=
  AMap.getD_setD_other _ _ _ _ _ _ h

/-- Two states with one register block read alike. -/
theorem get_congr {s t : State} (h : t.regs = s.regs) (f : Fld) : get t f = get s f := by
  unfold get
  rw [h]

theorem getA_congr {s t : State} (h : t.regs = s.regs) (f : Fld) : getA t f = getA s f := by
  unfold getA
  rw [h]

@[simp] theorem get_onHiu (s : State) (g : Hiu → Hiu) (f : Fld) : get (s.onHiu g) f = get s f := rfl
@[simp] theorem getA_onHiu (s : State) (g : Hiu → Hiu) (f : Fld) : getA (s.onHiu g) f = getA s f := rfl

@[simp] theorem get_onBox (s : State) (g : Box → Box) (f : Fld) : get (s.onBox g) f = get s f := rfl
@[simp] theorem getA_onBox (s : State) (g : Box → Box) (f : Fld) : getA (s.onBox g) f = getA s f := rfl

@[simp] theorem get_onStm (s : State) (g : Stm → Stm) (f : Fld) : get (s.onStm g) f = get s f := rfl
@[simp] theorem getA_onStm (s : State) (g : Stm → Stm) (f : Fld) : getA (s.onStm g) f = getA s f := rfl

@[simp] theorem get_onCue (s : State) (g : Cue → Cue) (f : Fld) : get (s.onCue g) f = get s f := rfl
@[simp] theorem getA_onCue (s : State) (g : Cue → Cue) (f : Fld) : getA (s.onCue g) f = getA s f := rfl

@[simp] theorem get_onPly (s : State) (g : List Player → List Player) (f : Fld) : get (s.onPly g) f = get s f := rfl
@[simp] theorem getA_onPly (s : State) (g : List Player → List Player) (f : Fld) : getA (s.onPly g) f = getA s f := rfl

@[simp] theorem get_onPrm (s : State) (g : Prm → Prm) (f : Fld) : get (s.onPrm g) f = get s f := rfl
@[simp] theorem getA_onPrm (s : State) (g : Prm → Prm) (f : Fld) : getA (s.onPrm g) f = getA s f := rfl

@[simp] theorem get_onGrs (s : State) (g : Grs → Grs) (f : Fld) : get (s.onGrs g) f = get s f := rfl
@[simp] theorem getA_onGrs (s : State) (g : Grs → Grs) (f : Fld) : getA (s.onGrs g) f = getA s f := rfl

@[simp] theorem get_onWdr (s : State) (g : Wdr → Wdr) (f : Fld) : get (s.onWdr g) f = get s f := rfl
@[simp] theorem getA_onWdr (s : State) (g : Wdr → Wdr) (f : Fld) : getA (s.onWdr g) f = getA s f := rfl

@[simp] theorem get_onMdw (s : State) (g : Mdw → Mdw) (f : Fld) : get (s.onMdw g) f = get s f := rfl
@[simp] theorem getA_onMdw (s : State) (g : Mdw → Mdw) (f : Fld) : getA (s.onMdw g) f = getA s f := rfl

@[simp] theorem get_onFab (s : State) (g : Fab → Fab) (f : Fld) : get (s.onFab g) f = get s f := rfl
@[simp] theorem getA_onFab (s : State) (g : Fab → Fab) (f : Fld) : getA (s.onFab g) f = getA s f := rfl

@[simp] theorem get_onSwl (s : State) (g : AMap Sw → AMap Sw) (f : Fld) : get (s.onSwl g) f = get s f := rfl
@[simp] theorem getA_onSwl (s : State) (g : AMap Sw → AMap Sw) (f : Fld) : getA (s.onSwl g) f = getA s f := rfl

@[simp] theorem get_onLgt (s : State) (g : Lgt → Lgt) (f : Fld) : get (s.onLgt g) f = get s f := rfl
@[simp] theorem getA_onLgt (s : State) (g : Lgt → Lgt) (f : Fld) : getA (s.onLgt g) f = getA s f := rfl

@[simp] theorem get_onSpl (s : State) (g : Spl → Spl) (f : Fld) : get (s.onSpl g) f = get s f := rfl
@[simp] theorem getA_onSpl (s : State) (g : Spl → Spl) (f : Fld) : getA (s.onSpl g) f = getA s f := rfl

@[simp] theorem get_onUnd (s : State) (g : Und → Und) (f : Fld) : get (s.onUnd g) f = get s f := rfl
@[simp] theorem getA_onUnd (s : State) (g : Und → Und) (f : Fld) : getA (s.onUnd g) f = getA s f := rfl

@[simp] theorem get_onPbk (s : State) (g : Pbk → Pbk) (f : Fld) : get (s.onPbk g) f = get s f := rfl
@[simp] theorem getA_onPbk (s : State) (g : Pbk → Pbk) (f : Fld) : getA (s.onPbk g) f = getA s f := rfl

@[simp] theorem get_onSdr (s : State) (g : Sdr → Sdr) (f : Fld) : get (s.onSdr g) f = get s f := rfl
@[simp] theorem getA_onSdr (s : State) (g : Sdr → Sdr) (f : Fld) : getA (s.onSdr g) f = getA s f := rfl

@[simp] theorem get_onLdg (s : State) (g : Ldg → Ldg) (f : Fld) : get (s.onLdg g) f = get s f := rfl
@[simp] theorem getA_onLdg (s : State) (g : Ldg → Ldg) (f : Fld) : getA (s.onLdg g) f = getA s f := rfl

@[simp] theorem get_onFlt (s : State) (g : Flt → Flt) (f : Fld) : get (s.onFlt g) f = get s f := rfl
@[simp] theorem getA_onFlt (s : State) (g : Flt → Flt) (f : Fld) : getA (s.onFlt g) f = getA s f := rfl

@[simp] theorem get_onBrd (s : State) (g : Brd → Brd) (f : Fld) : get (s.onBrd g) f = get s f := rfl
@[simp] theorem getA_onBrd (s : State) (g : Brd → Brd) (f : Fld) : getA (s.onBrd g) f = getA s f := rfl

@[simp] theorem get_onOut (s : State) (g : Out → Out) (f : Fld) : get (s.onOut g) f = get s f := rfl
@[simp] theorem getA_onOut (s : State) (g : Out → Out) (f : Fld) : getA (s.onOut g) f = getA s f := rfl

@[simp] theorem get_advance (s : State) (f : Fld) : get (advance s) f = get s f := rfl
@[simp] theorem get_setSt (s : State) (x : Nat) (f : Fld) : get (s.setSt x) f = get s f := rfl
@[simp] theorem get_setPending (s : State) (q : List Instr) (f : Fld) : get (s.setPending q) f = get s f := rfl

end Sys2Proof.Machine
end

