-- ==== Sys2Proof/Laws/Keep.lean ====
section
/-!
SUPPORT. Which register blocks the shared operations of Machine/Ops.lean write: a field of another block keeps its value. A block
is 1 MB of BAR0 (R848); `Fld.blk` is its number.
-/
namespace Sys2Proof.Machine

/-- The 1 MB block a field's key falls in. -/
def Fld.blk (f : Fld) : Nat := f.key / 0x2000000

theorem get_set_blk (s : State) (f g : Fld) (v : Nat) (h : f.blk ≠ g.blk) : get (set s g v) f = get s f :=
  get_set_other s f g v fun e => h (by unfold Fld.blk; rw [e])

theorem get_inc_blk (s : State) (f g : Fld) (k : Nat) (h : f.blk ≠ g.blk) : get (inc s g k) f = get s f :=
  get_set_blk s f g _ h

theorem get_foldl {α : Type} (f : Fld) (g : State → α → State) (h : ∀ s a, get (g s a) f = get s f) (l : List α) :
    ∀ s, get (l.foldl g s) f = get s f := by
  induction l with
  | nil => intro s; rfl
  | cons a l ih => intro s; exact (ih _).trans (h s a)

theorem get_foldl_mem {α : Type} (f : Fld) (g : State → α → State) (l : List α) (h : ∀ a ∈ l, ∀ s, get (g s a) f = get s f) :
    ∀ s, get (l.foldl g s) f = get s f := by
  induction l with
  | nil => intro s; rfl
  | cons a l ih =>
    intro s
    exact (ih (fun b hb => h b (List.mem_cons_of_mem _ hb)) _).trans (h a List.mem_cons_self s)

/-- The fields that a fault report can change: of the fault block, the Prompt Book, capture Swale 0xA1 and the Ledger. -/
def reportFlds : List Fld :=
  [Fld.fltStatusPin, Fld.fltStatusNoticeDrop, Fld.fltStatusDegraded, Fld.fltStatusFatal, Fld.fltStatusEw, Fld.fltLogNextV,
    Fld.fltCountNoteV, Fld.fltCountCorrV, Fld.fltCountContV, Fld.fltCountDegFatDegraded, Fld.fltCountDegFatFatal,
    Fld.fltWindowCorr, Fld.fltWindowCont, Fld.fltCrashV, Fld.pbkSeqV, Fld.pbkStatusReplayable, Fld.swlLostV 0xA1,
    Fld.ldgStatusFree, Fld.ldgWearLow, Fld.ldgWearHigh]

def reportKeys : List Nat := reportFlds.map Fld.key

theorem key_ne {f g : Fld} (h : f.key ∉ reportKeys) (hg : g.key ∈ reportKeys) : f.key ≠ g.key := fun e => h (e ▸ hg)

theorem get_set_rep (s : State) {f : Fld} (g : Fld) (v : Nat) (h : f.key ∉ reportKeys) (hg : g.key ∈ reportKeys) :
    get (set s g v) f = get s f := get_set_other s f g v (key_ne h hg)

theorem get_inc_rep (s : State) {f : Fld} (g : Fld) (k : Nat) (h : f.key ∉ reportKeys) (hg : g.key ∈ reportKeys) :
    get (inc s g k) f = get s f := get_inc_other s f g k (key_ne h hg)

theorem get_deviceNotice (s : State) (n : Notice) (f : Fld) (h : f.key ∉ reportKeys) : get (deviceNotice s n) f = get s f := by
  unfold deviceNotice; split
  · rfl
  · exact get_inc_rep _ Fld.fltStatusNoticeDrop _ h (by decide)

theorem get_faultNotice (s : State) (c k d : Nat) (f : Fld) (h : f.key ∉ reportKeys) :
    get (faultNotice s c k d) f = get s f := by
  unfold faultNotice; split
  · exact get_deviceNotice _ _ _ h
  · rfl

theorem get_faultPin (s : State) (f : Fld) (h : f.key ∉ reportKeys) : get (faultPin s) f = get s f := by
  unfold faultPin; exact get_set_rep _ Fld.fltStatusPin _ h (by decide)

theorem get_bookAt (s : State) (c k : Nat) (t : Option Nat) (p : Nat) (f : Fld) (h : f.key ∉ reportKeys) :
    get (bookAt s c k t p) f = get s f := by
  have a : ∀ (u : State) (g : Fld) v, g.key ∈ reportKeys → get (set u g v) f = get u f := fun u g v hg => get_set_rep u g v h hg
  have b : ∀ (u : State) (g : Fld), g.key ∈ reportKeys → get (inc u g 1) f = get u f := fun u g hg => get_inc_rep u g 1 h hg
  unfold bookAt; split
  · dsimp only; split
    · rw [get_onPbk, a _ Fld.pbkStatusReplayable _ (by decide), b _ (Fld.swlLostV 0xA1) (by decide), a _ Fld.pbkSeqV _ (by decide)]
    · split
      · rw [get_onPbk, a _ Fld.pbkSeqV _ (by decide)]
      · rw [get_onPbk, a _ Fld.pbkStatusReplayable _ (by decide), b _ (Fld.swlLostV 0xA1) (by decide), a _ Fld.pbkSeqV _ (by decide)]
  · rfl

theorem get_logFault (s : State) (c k i d : Nat) (f : Fld) (h : f.key ∉ reportKeys) :
    get (logFault s c k i d).1 f = get s f := by
  have a : ∀ u : State, get (set u Fld.fltLogNextV (get u Fld.fltLogNextV + 1)) f = get u f := fun u =>
    get_set_rep u Fld.fltLogNextV _ h (by decide)
  unfold logFault; dsimp only
  split
  · split
    · rfl
    · dsimp only; rw [get_onFlt, a]
  · rw [if_neg Bool.false_ne_true, get_onFlt, a]

theorem get_earlyWarning (s : State) (c k : Nat) (f : Fld) (h : f.key ∉ reportKeys) : get (earlyWarning s c k) f = get s f := by
  have a : ∀ n d, get (((set (inc (logFault s 0x1203 0 0xFFFF d).1 Fld.fltCountNoteV n) Fld.fltStatusEw 1)).onFlt
      fun x => { x with earlyWarn := true }) f = get s f := fun n d => by
    rw [get_onFlt, get_set_rep _ Fld.fltStatusEw _ h (by decide), get_inc_rep _ Fld.fltCountNoteV _ h (by decide),
      get_logFault _ _ _ _ _ _ h]
  unfold earlyWarning; dsimp only
  split
  · rw [get_faultNotice _ _ _ _ _ h, a]
  · rw [a]

theorem get_countFault (s : State) (c k : Nat) (n : Bool) (f : Fld) (h : f.key ∉ reportKeys) :
    get (countFault s c k n) f = get s f := by
  have c : ∀ (u : State) (g : Fld), g.key ∈ reportKeys → get (inc u g 1) f = get u f := fun u g hg => get_inc_rep u g 1 h hg
  have w : ∀ (u : State) (g : Fld), g.key ∈ reportKeys → get (set u g 1) f = get u f := fun u g hg => get_set_rep u g 1 h hg
  have ew : ∀ (u : State) (a b : Nat), get (earlyWarning u a b) f = get u f := fun u a b => get_earlyWarning u a b f h
  unfold countFault
  split
  · dsimp only
    generalize hu : inc (inc s Fld.fltCountCorrV 1) Fld.fltWindowCorr 1 = u
    have hk : get u f = get s f := by rw [← hu, c _ _ (by decide), c _ _ (by decide)]
    split
    · rw [ew, get_onFlt, hk]
    · exact hk
  split
  · dsimp only
    generalize hu : inc (inc s Fld.fltCountContV 1) Fld.fltWindowCont 1 = u
    have hk : get u f = get s f := by rw [← hu, c _ _ (by decide), c _ _ (by decide)]
    split
    · rw [ew, get_onFlt, hk]
    · exact hk
  split
  · dsimp only
    generalize hu : set (inc s Fld.fltCountDegFatDegraded 1) Fld.fltStatusDegraded 1 = u
    have hk : get u f = get s f := by rw [← hu, w _ _ (by decide), c _ _ (by decide)]
    split
    · rw [ew, hk]
    · exact hk
  split
  · rw [w _ Fld.fltStatusFatal (by decide), c _ Fld.fltCountDegFatFatal (by decide)]
  · exact c s Fld.fltCountNoteV (by decide)

theorem get_ledgerShow (s : State) (f : Fld) (h : f.key ∉ reportKeys) : get (ledgerShow s) f = get s f := by
  unfold ledgerShow; dsimp only
  rw [get_set_rep _ Fld.ldgWearHigh _ h (by decide), get_set_rep _ Fld.ldgWearLow _ h (by decide),
    get_set_rep _ Fld.ldgStatusFree _ h (by decide)]

theorem get_rewriteTo (s : State) (lb p : Nat) (f : Fld) (h : f.key ∉ reportKeys) : get (rewriteTo s lb p) f = get s f := by
  unfold rewriteTo; dsimp only
  rw [get_ledgerShow _ _ h]
  unfold onPblk journalAdd
  simp only [get_onLdg]

theorem get_storeBlock (s : State) (lb : Nat) (f : Fld) (h : f.key ∉ reportKeys) : get (storeBlock s lb) f = get s f := by
  unfold storeBlock; split
  · rw [get_rewriteTo _ _ _ _ h, get_advance]
  · rfl

theorem get_crashCapsule (s : State) (c : Nat) (f : Fld) (h : f.key ∉ reportKeys) : get (crashCapsule s c) f = get s f := by
  unfold crashCapsule; split
  · split
    · dsimp only
      rw [get_foldl f storeBlock (fun u b => get_storeBlock u b f h), get_onLdg]
      exact get_inc_rep _ Fld.fltCrashV _ h (by decide)
    · rfl
  · rfl

/-- A fault report changes no field outside `reportFlds`. -/
theorem get_reportAs (s : State) (j : Bool) (c i d : Nat) (f : Fld) (h : f.key ∉ reportKeys) :
    get (reportAs s j c i d) f = get s f := by
  unfold reportAs; split
  · rfl
  · rename_i cls _
    dsimp only
    rw [get_faultPin _ _ h]
    have a : ∀ u : State, get (if cls = 4 ∧ j = false then crashCapsule u c else u) f = get u f := fun u => by
      split
      · exact get_crashCapsule _ _ _ h
      · rfl
    rw [a]
    unfold book
    rw [get_bookAt _ _ _ _ _ _ h]
    have b : ∀ u : State, get (if c = 0x1203 then set u Fld.fltStatusEw 1 else u) f = get u f := fun u => by
      split
      · exact get_set_rep _ Fld.fltStatusEw _ h (by decide)
      · rfl
    rw [b, get_countFault _ _ _ _ _ h]
    split
    · rw [get_faultNotice _ _ _ _ _ h, get_logFault _ _ _ _ _ _ h]
    · exact get_logFault _ _ _ _ _ _ h

theorem get_report (s : State) (c i d : Nat) (f : Fld) (h : f.key ∉ reportKeys) : get (report s c i d) f = get s f :=
  get_reportAs s false c i d f h

/-- A field of any other block is outside `reportFlds`. -/
theorem outside_report (f : Fld) (h : f.blk ∉ [0x10, 0x14, 0x16, 0x17]) : f.key ∉ reportKeys := fun e => by
  have : ∀ k ∈ reportKeys, k / 0x2000000 ∈ [0x10, 0x14, 0x16, 0x17] := by decide
  exact h (this _ e)

theorem get_handAudit (s : State) (k : Nat) (f : Fld) : get (handAudit s k) f = get s f := rfl

theorem get_audit (s : State) (c n : Nat) (b : Bool) (x d : Nat) (f : Fld) (h : f.blk ≠ 0x15) :
    get (audit s c n b x d) f = get s f := by
  have e : ∀ g : Fld, g.blk = 0x15 → f.blk ≠ g.blk := fun g hg => by rw [hg]; exact h
  unfold audit; split
  · split
    · rw [get_onSdr]; exact get_inc_blk _ _ Fld.sdrAuditLostV _ (e _ (by decide))
    · rfl
  · dsimp only; split
    · split
      · split <;> rfl
      · rw [get_onSdr]; exact get_set_blk _ _ Fld.sdrAuditNextV _ (e _ (by decide))
    · rw [get_onSdr]; exact get_set_blk _ _ Fld.sdrAuditNextV _ (e _ (by decide))

/-! Packets: only the Fabric's own registers. -/

theorem get_emit (s : State) (p : Packet) (f : Fld) : get (emit s p) f = get s f := by
  unfold emit; split <;> rfl

theorem get_sendPkt (s : State) (k d t e : Nat) (x : Bool) (b : List Byte) (f : Fld) (h : f.blk ≠ 0xF) :
    get (sendPkt s k d t e x b) f = get s f := by
  unfold sendPkt; split
  · exact get_inc_blk _ _ _ _ h
  · exact get_emit _ _ _

theorem get_issue (s : State) (k d t : Nat) (b : List Token) (x : List Byte) (f : Fld) (h : f.blk ≠ 0xF) :
    get (issue s k d t b x) f = get s f := by
  unfold issue; dsimp only
  rw [get_sendPkt _ _ _ _ _ _ _ _ h, get_set_blk _ _ _ _ (by exact h)]; rfl

theorem get_request (s : State) (k d t : Nat) (x : List Byte) (f : Fld) (h : f.blk ≠ 0xF) :
    get (request s k d t x) f = get s f := by
  unfold request; split
  · exact get_issue _ _ _ _ _ _ _ h
  · rfl

theorem get_issueWaiting (s : State) (f : Fld) (h : f.blk ≠ 0xF) : get (issueWaiting s) f = get s f := by
  unfold issueWaiting; split
  · rfl
  · split
    · exact get_issue _ _ _ _ _ _ _ h
    · rfl

theorem get_sendHeld (s : State) (f : Fld) (h : f.blk ≠ 0xF) : get (sendHeld s) f = get s f := by
  unfold sendHeld
  refine (get_foldl f reSend (fun u p => ?_) _ _).trans rfl
  unfold reSend; split
  · exact get_emit _ _ _
  · exact get_inc_blk _ _ _ _ h

end Sys2Proof.Machine
end

