-- ==== Sys2Proof/Laws/Lists.lean ====
section
/-!
SUPPORT. Finding an element of a list after some of its elements have changed.
-/
namespace Sys2Proof.Machine

theorem find?_mapIf {α : Type} (p : α → Bool) (f : α → α) (l : List α) (hf : ∀ x, p x = true → p (f x) = true) :
    (mapIf p f l).find? p = (l.find? p).map f := by
  induction l with
  | nil => rfl
  | cons x r ih =>
    unfold mapIf at ih ⊢
    rw [List.map_cons, List.find?_cons, List.find?_cons]
    cases h : p x
    · simp only [Bool.false_eq_true, if_false, h]
      exact ih
    · simp only [if_true, hf x h, Option.map_some]

theorem find?_mapFirst {α : Type} (p : α → Bool) (f : α → α) (l : List α) (hf : ∀ x, p x = true → p (f x) = true) :
    (mapFirst p f l).find? p = (l.find? p).map f := by
  induction l with
  | nil => rfl
  | cons x r ih =>
    unfold mapFirst
    cases h : p x
    · simp only [Bool.false_eq_true, if_false, List.find?_cons, h]
      exact ih
    · simp only [if_true, List.find?_cons, hf x h, h, Option.map_some]

/-- The Call Map entry of a Call after a change that keeps its name. -/
theorem entOf_onEnt (s : State) (fn callId : Nat) (f : CallEnt → CallEnt) (hf : ∀ e, (f e).fn = e.fn ∧ (f e).callId = e.callId) :
    entOf (onEnt s fn callId f) fn callId = (entOf s fn callId).map f :=
  find?_mapIf (fun e : CallEnt => e.fn = fn && e.callId = callId) f _ (fun x h => by rw [(hf x).1, (hf x).2]; exact h)

theorem entOf_congr {s t : State} (h : t.hiu = s.hiu) (fn callId : Nat) : entOf t fn callId = entOf s fn callId := by
  unfold entOf
  rw [h]

end Sys2Proof.Machine
end

