-- ==== Sys2Proof/WellFormed.lean ====
section
/-!
DEFINITION. Well-formed commands: what the spec's formats bound in a command's operands (Table FAB-8, Table FAB-9,
Table HAY-2, Table SWL-4, R845). Meanings are total; an ill-formed command is one no wire or bus can carry.
-/
namespace Sys2Proof

/-- A register offset is a multiple of 4 inside the 32 MiB of BAR0 for the PF and inside the 16 KiB window of a VF
(R56, R845, R846). -/
def wfOffset (fn : Fin 128) (off : Nat) : Bool :=
  off % 4 == 0 && decide (off < (if fn.val = 0 then 0x2000000 else 0x4000))

/-- Between 1 and `n` items in one packet (Table FAB-8). -/
def wfItems (n k : Nat) : Bool := decide (1 ≤ k) && decide (k ≤ n)

/-- A token id is 24 bits (Table HIU-12). -/
def wfToken (t : Word) : Bool := decide (t.toNat < 2 ^ 24)

/-- A well-formed command. -/
def Instr.wf : Instr → Bool
  | .registerWrite fn off _ _ => wfOffset fn off
  | .promptPullDone _ _ toks _ _ => toks.all wfToken && decide (toks.length ≤ 0xFFFFF)
  | .hqTailDoorbell _ _ descs => decide (descs.length ≤ 0x8000)
  | .h2d _ data _ => decide (data.length < 2 ^ 32)
  | .pcieLinkUp width rate => decide (width ≤ 16) && decide (rate ≤ 6)
  | .completion toks => wfItems 256 toks.length
  | .chunkDone _ ents => wfItems 256 ents.length
  | .line _ _ lines => wfItems 256 lines.length
  | .credit _ ents => wfItems 512 ents.length
  | .cueList _ toks => wfItems 256 toks.length
  | .localPass _ _ _ _ heads _ _ => decide (heads.length ≤ 4)
  | .candList _ _ _ _ rank part _ _ _ ents heads =>
    decide (rank < 8) && decide (part < 4) && decide (ents.length + heads.length ≤ 510) && decide (heads.length ≤ 4)
  | .prompt _ _ _ _ toks => toks.all wfToken && decide (toks.length ≤ 1024)
  | .partials _ _ _ _ data _ _ => decide (data.length ≤ 4080)
  | .activation _ _ _ _ _ _ _ _ _ body => decide (body.data.length ≤ 4080)
  | .transfer _ _ _ data _ => decide (data.length ≤ 4080)
  | .copied _ _ _ shards => decide (shards.length ≤ 128)
  | .idataStore _ _ _ => true
  | .swaleWrite i _ => Machine.swlExists i
  | .swaleRead i => Machine.swlExists i
  | .mark i => Machine.swlExists i
  | .rewind i => Machine.swlExists i
  | .release i _ => Machine.swlExists i
  | .pointerMismatch i => Machine.swlExists i
  | .swaleReset i _ => Machine.swlExists i
  | .flushDone i => Machine.swlExists i
  | .holdDone i => Machine.swlExists i
  | .tempSample temps => decide (temps.length ≤ 64) && temps.all (fun t => decide (t < 1024))
  | .topologyUpdate _ _ state _ => decide (state < 4)
  | .card _ _ _ _ c => decide (1 ≤ Machine.cardOp c)
  | .blockSet msg => decide (Machine.clKind msg = 0x11)
  | .tableClear msg => decide (Machine.clKind msg = 0x12)
  | .snap msg _ => decide (Machine.clKind msg = 0x13)
  | .heldRwsWriteLands | .cueNowRead | .sqTailDoorbell .. | .lqHeadDoorbell .. | .nqHeadDoorbell .. | .cardFetch _
  | .submit | .contin | .pause | .resume | .cancel | .releasePrefix | .prefixLookup _ | .lineWrite .. | .noticeWrite ..
  | .d2h .. | .fence _ | .descriptorComplete _ | .hqResume .. | .hostLoss | .perstAssert | .perstDeassert | .reclaim ..
  | .graceExpiry | .functionLevelReset _ | .cueLaunch | .compositionStart | .budgetCompute .. | .cueMonFall
  | .periodRequest _ | .ppsEdge | .ppsTimeout | .primaryRootTimeout | .secondaryRootTimeout | .timeExchange ..
  | .holdoverExpiry | .pushSlotFill _ | .take _ | .refetch _ | .branch _ | .done _ | .chunk _ | .halt _
  | .computeWord .. | .badop _ | .ipar _ | .reloadDone _ | .haltReq .. | .seqRefetch .. | .mergePass .. | .step ..
  | .context .. | .budget .. | .advert .. | .cutAck .. | .noSpace .. | .copyFault ..
  | .manifestAck .. | .applied .. | .resident .. | .spilled .. | .filled .. | .resetCue .. | .status .. | .repoint ..
  | .shardRead .. | .shardData .. | .sceneQuery .. | .restoreFillDone .. | .scriptLoad _ | .scriptLoadDone
  | .withdraw _ | .retest _ | .windBlock _ | .gorseTestGo _ | .costumeLoad .. | .costumeLoadDone | .pendingLoadResume
  | .revoke _ | .residencyCopyDone .. | .tableInvalidate _ | .heathSpillDone .. | .heathFillDone .. | .flitReceive ..
  | .packetForward _ | .idleFlit _ | .replayTimeout _ | .linkEn .. | .trainingComplete _ | .trainTimeout _
  | .trainRestart _ | .identityRecord .. | .linkSignalLoss _ | .linkSilence _ | .exit _ | .exitFence _ | .exitAck _
  | .exitAckSend _ | .exitTimeout | .watermarkDwellEnd _ | .silentSelfReset | .domainDemand _ | .domainIdle _
  | .targetWrite .. | .shutdownComplete _ | .powerupComplete _ | .pgFail _ | .deepOff _ | .pwrBrakeFall | .pwrBrakeRise
  | .brakeLoopTick _ | .stageplotLoad _ | .stageplotLoadDone | .swapReq .. | .swapCancel _ | .sceneStart _ | .applyDone
  | .sceneTimeout | .snapshotForce _ | .snapshotCopyDone _ | .copyBeforeWrite .. | .snapshotTimeout | .drainDone _
  | .wcopyRefreshDone | .undHostGo _ | .replayGo _ | .replayAbort _ | .getVersion | .getCapabilities
  | .negotiateAlgorithms _ | .getDigests | .getCertificate .. | .challenge .. | .getMeasurements .. | .keyExchange ..
  | .finish .. | .heartbeat _ | .keyUpdate _ | .endSession _ | .chunkSend .. | .chunkGet .. | .setHouseKey ..
  | .programKey .. | .revokeKey .. | .writeLocked .. | .raiseFloor .. | .spdmZeroise .. | .readAudit .. | .zeroise _
  | .zeroiseComplete | .tenantZero _ | .tkeyImport _ | .floorWrite .. | .tamper _ | .selftestDone _ | .auditClose
  | .logPageProgram _ | .ledgerStore _ | .ledgerStoreDone _ | .wearLevelMove _ | .coldPowerUp .. | .supplyLoss
  | .warmRst _ | .warmResetFlushDone | .warmRstRelease | .wloadBegin _ | .wloadDone _ | .weightHashDone
  | .faultReport .. | .crashCapsuleTimeout | .partialReset _ | .faultInject .. | .configurationRequest _ | .pasidTlp
  | .startupTestsDone _ | .flrComplete _ | .partialResetComplete _ | .eccScheduledMove .. | .rbDataRead => true

end Sys2Proof
end

