-- ==== Sys2Proof/Tests/Slice0.lean ====
section
/-!
SUPPORT. Tests: ill-formed commands that WellFormed refuses, a small state or operand for the hypotheses of each statement,
and values the spec itself gives. A hypothesis on an uninterpreted function of Config (a signature that verifies, a key that
unwraps) cannot be shown of a concrete value: the witness meets the others.
-/
/-! Small states. -/

namespace Sys2Proof.Tests
set_option Elab.async false
open Sys2Proof.Machine

/-- Booted, with nothing else set. -/
def boot0 : State := set State.reset Fld.hiuBootPhase 4

/-- Company 4, of model 49, on devices 0 (its lead) and 1 (stage 1). -/
def co0 : CompanyInfo := ⟨4, 49, false, [⟨0, 0, 0⟩, ⟨1, 1, 0⟩]⟩

/-- A set that names device `dev` a member of Company 4 of a one-Rack House. -/
def plot0 (dev : Nat) : Plot where
  planId := 7
  seq := 3
  houseId := 0
  device := dev
  digest := 11
  imgDigest := 12
  racks := 1
  rootPrimary := 0
  rootSecondary := 1
  period := 2000000
  anchorCue := 0
  domain := 0
  expect := [64, 64, 64, 64, 8, 8, 8, 8, 1, 1, 1, 1]
  credits := []
  sealRequired := false
  locked := []
  operKeys := []
  nonApproved := false
  swing := false
  company := 4
  companies := [co0]
  shardBase := 0
  shardWidth := 1024
  shards := [(0, 1024)]
  stageLayers := []
  buddy := 0
  wGran := 2
  cGran := 1
  troupes := [0, 0]
  castOrder := [0, 1]
  tableBase := 0x1000000000
  poolBase := 0x1100000000
  poolBlocks := 4096
  blockBytes := 4096
  prefixEntries := 4096
  costumePool := 64
  scriptStore := 1024
  undRegion := 0
  stagingBase := 0x1200000000
  stagingLen := 1048576
  regionMiB := 1
  window := 1048576
  templates := []
  cueWords := []
  models := [⟨49, 1024, 8, 3, 8, 4096, 4096, 16, 0, []⟩]
  prefs := [(49, [4])]
  targets := []
  rws := []
  words := [(1, [7])]

/-- Device `dev`, booted with that set in force. -/
def dev0 (dev : Nat) : State :=
  set (set (boot0.onSpl fun p => { p with active := some (plot0 dev) }) Fld.fabSelfDevice dev) Fld.fabSelfRacks 1

/-- A ring of 2^6 entries for function 5: submission, Line and Notice ring 0. -/
def rings0 (s : State) : State :=
  set (set (set (set (set (set s (Fld.sqCtlLog2size 5 0) 6) (Fld.sqCtlEn 5 0) 1) (Fld.lqCtlLog2size 5 0) 6)
    (Fld.lqCtlEn 5 0) 1) (Fld.nqCtlLog2size 5) 6) (Fld.nqCtlEn 5) 1

/-- A domain that is Struck. -/
def dark0 (d : Nat) (s : State) : State := set s (Fld.lgtDomStatusState d) 4

/-! Register commands and doorbells. -/

theorem witness_RegisterCommands :
    (writable boot0 0 Fld.lgtCapCapMw.off = true ∧ roleDenied boot0 0 Fld.lgtCapCapMw.off = none) ∧
    (writable boot0 0 Fld.cuePeriodNextV.off = true ∧ (roleDenied boot0 0 Fld.cuePeriodNextV.off).isSome = true) ∧
    (∀ f ∈ [Fld.hiuGraceGraceMs, Fld.stmRetiredRetired, Fld.cueTodLoV], writable boot0 0 f.off = true ∧
      roleDenied boot0 0 f.off = none ∧ inWindow 0 f.off = false ∧ f.off ∉ [0x1700000, 0x1700004, 0x300034, 0x200000] ∧
      ¬(0xE00100 ≤ f.off ∧ f.off < 0xE00180) ∧ fieldsAt 0 f.off = [f] ∧ ownRow f = false) ∧
    (Fld.cueTodLoV.acc = .rw ∧ (takes boot0 (stored boot0 Fld.cueTodLoV) (carried Fld.cueTodLoV 5#32)).1 = true ∧
      Fld.hiuGraceGraceMs.acc = .rwl ∧ sealedMode boot0 = false ∧
      (takes boot0 (stored boot0 Fld.hiuGraceGraceMs) (carried Fld.hiuGraceGraceMs 30000#32)).1 = true ∧
      Fld.stmRetiredRetired.acc = .ctrAny ∧ boot0.spl.heldRws = []) ∧
    (let f := Fld.plyFaultWprot 0
     writable boot0 0 f.off = true ∧ roleDenied boot0 0 f.off = none ∧ inWindow 0 f.off = false ∧ f ∈ fieldsAt 0 f.off ∧
       ∀ g ∈ fieldsAt 0 f.off, g.acc = .w1c ∧ ownRow g = false ∧ ((stored boot0 g).key = (stored boot0 f).key → g = f)) ∧
    (let w := [(Fld.boxAdmitCtlCutoffUs, 5), (Fld.lgtCapCapMw, 300000)]
     let s := set (boot0.onSpl fun p => { p with heldRws := [w], swapEnd := 7 }) Fld.splSwapStatusState 2
     s.spl.scene = none ∧ s.spl.passed = none ∧ s.spl.heldRws = [w] ∧ (w.map fun x => x.1.key).Nodup ∧
       (∀ x ∈ w, x.1.key ≠ Fld.splSwapStatusDirty.key) ∧ get s Fld.splSwapStatusState = 2) ∧
    (booted boot0 = true ∧ rbWord boot0 = none) ∧
    (let s := set (dev0 0) Fld.splRbSectSect 1
     booted s = true ∧ rbWord s = some 7) := by decide +kernel

theorem witness_RegisterWriteTurnedAway :
    (0x7#4 ≠ 0xF#4) ∧ fieldsAt 0 0x1FFFFFC = [] ∧ fieldsAt 127 0x3FFC = [] ∧ writable State.reset 0 Fld.cuePeriodNextV.off = false := by
  decide +kernel

theorem witness_Doorbells : let s := rings0 boot0
    (5 ∉ s.hiu.flr ∧ bits 63#32 0 16 < 2 ^ get s (Fld.sqCtlLog2size 5 0)) ∧ 2 ^ get s (Fld.sqCtlLog2size 5 0) ≤ bits 64#32 0 16 ∧
    ringSize s 5 0 ≤ bits 64#32 0 16 ∧ bits 63#32 0 16 < ringSize s 5 0 ∧
    ringSize s 5 4 ≤ bits 64#32 0 16 ∧ bits 63#32 0 16 < ringSize s 5 4 ∧
    (let u := set boot0 (Fld.hqCtlLog2size 3) 6
     writable u 0 (hqCtlOff 3) = true ∧ 2 ^ get u (Fld.hqCtlLog2size 3) ≤ bits 64#32 0 16) := by decide +kernel

/-! Cards, Calls and Call Map entries. -/

/-- A card of tenant 9 and Call 0x1F40 with the fields of Table HIU-3 that follow. -/
def card0 (op company plen maxNew : Nat) : Card :=
  BitVec.ofNat 1024 (place 0 8 op + place 8 8 1 + place 32 32 0x1F40 + place 64 12 9 + place 80 16 company + place 96 16 49 +
    place 192 64 0x40000000 + place 256 20 plen + place 288 20 maxNew)

/-- A Call Map entry of function 5 whose next Line is at position 64. -/
def ent0 : CallEnt := newEnt 5 4 0 (card0 1 4 64 700)

/-- A Line of that Call at a position. -/
def line0 (pos : Nat) : Line := mkLine 0x1F40 pos 0 0 17 0 3 false false false

/-- The lead's device with tenant 9 bound to function 5, budgets, and the cards of a queue. -/
def box0 (q : List QCard) : State :=
  let s := set (set (set (dev0 0) (Fld.boxFnTenantValid 5) 1) (Fld.boxFnTenantTenant 5) 9) Fld.boxAdmitCtlAdmitEn 1
  let s := setA (setA s (Fld.boxTenCapsLiveCap.ix 9) 8) (Fld.boxTenCapsBlockCap.ix 9) 1000
  s.onBox fun b => { b with q := q, levels := [(9, 5000)] }

def qcard0 (op plen : Nat) : QCard := ⟨0, 5, 1, card0 op 4 plen 700, List.replicate plen 3⟩

/-- A Call of that card in slot 2, decoding, listed in cue 5. -/
def call0 : Call :=
  { newCall 2 0 (qcard0 1 64) 3 [(1, false)] none 0 with phase := .decoding, pend := [], listed := [⟨5, 1, 0, 64, false, 0⟩] }

def onBoard (s : State) (c : Call) : State := s.onStm fun m => { m with board := [c] }

/-! Host attachment. -/

theorem witness_CardFetch : let s := set (rings0 (dev0 0)) (Fld.sqTailIdx 5 0) 1
    let c := card0 1 4 64 700
    (booted s = true ∧ s.hiu.hostLost = false ∧ s.hiu.outcomes.length < 8192 ∧ swFull s 0 = false ∧
      (isLead s && swFull s 1) = false ∧ nextCard s = some (5, 0)) ∧
    (cardOp c = 1 ∧ cardCheck (fetched s 5 0 c) 5 c = 0 ∧ chooseCompany (fetched s 5 0 c) c = some 4 ∧ 4 ∉ s.fab.lost ∧
      leadOf (fetched s 5 0 c) 4 = some 0 ∧ domLit s 56 = true ∧ domLit (dark0 56 s) 56 = false ∧
      nextCard (dark0 56 s) = some (5, 0)) := by decide +kernel

theorem witness_PromptPull :
    let o : OutSlot := ⟨5, 0x1F40, 1, 9, 0, none, some (card0 1 4 64 700), none, [], false, true, 1⟩
    let s := (dev0 0).onHiu fun h => { h with outcomes := [o], callMap := [ent0] }
    findIdx (fun o => o.fn = 5 && o.callId = 0x1F40 && o.card.isSome && !o.ready) s.hiu.outcomes = some 0 ∧
    entOf s 5 0x1F40 = some ent0 ∧ ((plotOf? s).bind fun p => p.model ent0.model).map (·.vocab) = some 1024 ∧
    ((1023#32 : Word).toNat < 1024 ∧ 1024 ≤ (1024#32 : Word).toNat) := by
  decide +kernel

theorem witness_RingWrites :
    let s := (rings0 (dev0 0)).onHiu fun h => { h with callMap := [{ ent0 with win := [line0 64] }] }
    (entOf s 5 0x1F40 = some { ent0 with win := [line0 64] } ∧ dueLine s { ent0 with win := [line0 64] } = some (line0 64) ∧
      hostUp s 5 = true ∧ ringOn s 5 0 = true ∧ (ringOf s 5 0).out.length < ringSize s 5 0 ∧ ent0.redo = 0 ∧
      inTurn s 5 0 (lineId { ent0 with win := [line0 64] } (line0 64)) = true ∧ domLit s 56 = true ∧
      dueLine (dark0 56 s) { ent0 with win := [line0 64] } = some (line0 64) ∧ domLit (dark0 56 s) 56 = false) ∧
    (let n := mkNotice 0x1F40 5 3 0 0 0 64 9 0 3
     let s := (rings0 (dev0 0)).onHiu fun h => { h with outcomes := [⟨5, 0x1F40, 5, 9, 0, none, none, some n, [], false, false, 0⟩] }
     (pickNotice s 5 (.outcome 0)).map (fun x => (x.1, x.2.1)) = some (n, true) ∧ ringOn s 5 4 = true ∧
       ((pickNotice s 5 (.outcome 0)).all fun x => x.2.2.1 % 2 ≠ 1 || inTurn s 5 4 x.2.2.1) = true ∧
       (ringOf s 5 4).out.length < ringSize s 5 4) ∧
    (let n := mkNotice 0x1F40 5 1 0 0 0 64 9 0 3
     let s := (rings0 (dev0 0)).onHiu fun h => { h with callMap := [{ ent0 with admittedN := some n }] }
     (pickNotice s 5 (.call 0x1F40 1)).map (fun x => (x.1, x.2.1)) = some (n, false) ∧ hostUp s 5 = true ∧
       nqFree s 5 = true) := by decide +kernel

theorem witness_Reclaim :
    (let s := boot0.onHiu fun h => { h with grace := [(5, 0)] }
     writable s 5 0x2004 = true ∧ bit 1#32 0 = true ∧ ∃ g ∈ s.hiu.grace, g.1 = 5) ∧
    (let s := boot0.onHiu fun h => { h with expired := [(5, 3)] }
     writable s 5 0x2004 = true ∧ (∀ g ∈ s.hiu.grace, g.1 ≠ 5) ∧ s.hiu.expired.find? (fun x => x.1 = 5) = some (5, 3)) ∧
    writable boot0 0 0x82004 = true := by decide +kernel

theorem witness_HostPackets :
    (let s := (dev0 0).onHiu fun h => { h with callMap := [ent0] }
     entOf s 5 (lineCallId (line0 64)) = some ent0 ∧ servesCall s ent0 1 = true ∧ ent0.next ≤ linePos (line0 64) ∧
       ent0.win.length < 64 ∧ ent0.win = [] ∧ ent0.finalN = none ∧ ent0.finalWritten = false ∧ ent0.restored = false) ∧ isLead (dev0 0) = true := by decide +kernel

/-- A descriptor that moves four bytes between host memory and Meadow, or fences the queues of a mask. -/
def desc0 (op mask : Nat) : Desc :=
  BitVec.ofNat 256 (place 0 8 op + (if op = 3 then place 60 4 mask else place 32 32 4 + place 64 64 0x40000000 +
    place 128 64 0x1000000000))

/-- Host queues 0 and 1 that run, with a descriptor accepted in queue 0 and one accepted after it in queue 1. -/
def hq0 (d : Desc) (fin : Bool) : State := (set (dev0 0) (Fld.hqCtlEn 0) 1).onHiu fun h => { h with
  hqs := [⟨[⟨d, fin, 0, 1⟩]⟩, ⟨[⟨desc0 1 0, false, 0, 2⟩]⟩, ⟨[]⟩, ⟨[]⟩] }

theorem witness_HostQueues :
    (let s := set (set boot0 (Fld.hqCtlLog2size 0) 6) (Fld.hqCtlEn 0) 1
     writable s 0 (hqCtlOff 0) = true ∧ isSet s (Fld.hqCtlEn 0) = true ∧ bits 63#32 0 16 < 2 ^ get s (Fld.hqCtlLog2size 0)) ∧
    (let s := hq0 (desc0 1 0) false
     (hqNext s 0).map (·.1) = some 0 ∧ dOp (desc0 1 0) = 1 ∧ descLegal s (desc0 1 0) = true ∧
       (sealedMode s && touchesLoft (dDev (desc0 1 0)) (dLen (desc0 1 0)) 0 0x20000) = false ∧ domLit s 56 = true ∧
       (hqNext (dark0 56 s) 0).map (·.1) = some 0 ∧ domLit (dark0 56 s) 56 = false) ∧
    (let s := hq0 (desc0 2 0) false
     (hqNext s 0).map (·.1) = some 0 ∧ dOp (desc0 2 0) = 2 ∧ descLegal s (desc0 2 0) = true ∧ sealedMode s = false) ∧
    (writable boot0 0 (hqCtlOff 3) = true ∧ bit 2#32 1 = true) := by decide +kernel

theorem witness_Fence :
    (let s := hq0 (desc0 3 2) false
     (hqNext s 0).map (·.1) = some 0 ∧ dOp (desc0 3 2) = 3 ∧ descLegal s (desc0 3 2) = true ∧
       (∀ j < 28, bit (desc0 3 2) (32 + j) = true → ownBusy s j 1 = false) ∧
       ∀ j < 4, j ≠ 0 → bit (desc0 3 2) (32 + 28 + j) = true → ∀ e ∈ hqOf s j, e.stamp = 0 ∨ 1 ≤ e.stamp) ∧
    (let s := hq0 (desc0 1 0) true
     hqOf s 0 = [⟨desc0 1 0, true, 0, 1⟩] ∧ isSet s (Fld.hqStatusHalted 0) = false ∧ 0 < s.hiu.hqs.length) ∧
    (let s := hq0 (desc0 9 0) false
     hqOf s 0 = [⟨desc0 9 0, false, 0, 1⟩] ∧ isSet s (Fld.hqCtlEn 0) = true ∧ descLegal s (desc0 9 0) = false) := by decide +kernel

theorem witness_H2dMemoryFrame :
    ∃ t, exec (.h2d 0 [1, 2, 3, 4] ⟨none, true, []⟩) (hq0 (desc0 1 0) false) = .next t ∧ readByte t 0x1000000000 = 1 ∧
      readByte t 0x1000000004 = 0 := ⟨_, rfl, by decide +kernel, by decide +kernel⟩

/-! Gorse, Meadow and the Box Office. -/

/-- Wind HEALTHY with no block ready. -/
def wind0 : State := set boot0 Fld.grsWindStatusState 1

/-- Raw bits that alternate, and raw bits that do not change. -/
def raw0 : BitVec 1536 := BitVec.ofNat 1536 ((2 ^ 1536 - 1) / 3)
def raw1 : BitVec 1536 := 0

theorem witness_Gorse :
    (windHealthy wind0 = true ∧ wind0.grs.reqs = [] ∧ (wind0.onGrs fun g => { g with reqs := [1] }).grs.reqs = [1] ∧ wind0.grs.ready.length < 4 ∧ get wind0 Fld.grsWindStatusConsec < 2) ∧
    (let g := wind0.grs
     let h (raw : BitVec 1536) := healthBits raw ⟨g.rctLast, g.rctRun, g.aptN, g.aptBit, g.aptCnt, false, false⟩
     (h raw0).rct = false ∧ (h raw0).apt = false ∧ (h raw1).rct = true) ∧
    (reaches boot0 0 Fld.grsWindCtlRetest.off = true ∧ bit 1#32 0 = true ∧ get wind0 Fld.grsWindStatusState ≠ 0) ∧
    reaches boot0 0 Fld.grsTestGoGo.off = true ∧ leadDev (dev0 0) = some 0 := by decide +kernel

/-- A BLOCK_SET of ordinal 3 of slot 2 to block 5, and a TABLE_CLEAR of slot 2. -/
def blockSet0 : CueTok := BitVec.ofNat 128 (place 0 8 0x11 + place 16 14 2 + place 32 14 3 + place 64 22 5)
def tableClear0 : CueTok := BitVec.ofNat 128 (place 0 8 0x12 + place 16 14 2)

theorem witness_BlockTables :
    (tableMsgBad (dev0 0) blockSet0 = false ∧ clKind blockSet0 = 0x11) ∧
    (tableMsgBad (dev0 0) tableClear0 = false ∧ clKind tableClear0 = 0x12) ∧
    (reaches boot0 0 Fld.mdwTableInvalTable.off = true ∧ bits 9#32 0 3 = 1 ∧ bit 9#32 3 = true) ∧
    (let c := { call0 with lookupDone := false }
     callAt (onBoard (dev0 0) c) 2 = some c ∧ c.lookupDone = false ∧ c.phase ≠ .ended) := by decide +kernel

theorem witness_SubmitDecides :
    (headCard (box0 [qcard0 1 64]) 1 = some (qcard0 1 64) ∧ admitCheck (box0 [qcard0 1 64]) (qcard0 1 64) = 0) ∧
    admitCheck ((box0 [qcard0 1 64]).onBox fun b => { b with levels := [(9, 63)] }) (qcard0 1 64) = stBudget ∧
    (let s := (box0 [qcard0 1 64]).onHiu fun h => { h with outcomes := [⟨5, 0x1F40, 1, 9, 0, some 1, none, none, [], false, true, 0⟩] }
     headCard s 1 = some (qcard0 1 64) ∧ (qcard0 1 64).src = selfDev s ∧ findIdx (fun o => o.tag = some 1) s.hiu.outcomes = some 0 ∧
       admitCheck s (qcard0 1 64) = 0) := by
  decide +kernel

theorem witness_CallOperations :
    (∀ op ∈ [2, 3, 4, 5], let s := onBoard (box0 [qcard0 op 64]) call0
      headCard s op = some (qcard0 op 64) ∧ callOf s 0 5 (cardCallId (card0 op 4 64 700)) = some call0 ∧
        refusesAll s = false ∧ boundHere s (qcard0 op 64) = true ∧ admitting s = true ∧ sceneOn s = false ∧
        (qcard0 op 64).tag ≠ lostTag ∧ callOf (box0 [qcard0 op 64]) 0 5 (cardCallId (card0 op 4 64 700)) = none ∧
        refusesAll (set s Fld.pbkReplayStatusState 2) = true) ∧
    (let q : QCard := ⟨0, 5, lostTag, card0 5 4 64 700, []⟩
     headCard (box0 [q]) 5 = some q ∧ q.tag = lostTag) ∧
    (let s := onBoard (box0 [qcard0 2 64]) call0
     64 ≤ levelOf s 9 ∧ tenBlocks s 9 + ceilDiv 64 64 ≤ blockCap s 9 ∧ ceilDiv 64 64 ≤ unreserved s) ∧
    (tenantKey ((dev0 0).onSdr fun d => { d with hk := some 1, tkeys := [(9, 1)] }) 9).isSome = true ∧
    (let q : QCard := ⟨0, 5, 1, BitVec.ofNat 1024 (card0 6 4 0 0).toNat, []⟩
     let s := (box0 [q]).onMdw fun m => { m with handles := [⟨9, 0, 49, none, []⟩] }
     headCard s 6 = some q ∧ refusesAll s = false ∧ boundHere s q = true ∧ admitting s = true ∧ (∃ x ∈ s.mdw.handles, x.tenant = cardTenant q.card ∧ x.handle = cardPrefixOut q.card)) := by
  decide +kernel

theorem witness_MemberReports : let s := onBoard (dev0 0) call0
    (isLead s = true ∧ 1 ∈ memberDevs s ∧ callAt s 2 = some call0 ∧
      listingOf call0 5 false = some ⟨5, 1, 0, 64, false, 0⟩) ∧
    (∀ c ∈ s.stm.board, c.credits ≤ 64) ∧
    (callAt (onBoard (dev0 0) { call0 with heath := .spilling }) 2).map (·.heath) = some .spilling ∧
    (callAt (onBoard (dev0 0) { call0 with heath := .filling }) 2).map (·.heath) = some .filling := by decide +kernel

/-! Heath, domains and energy. -/

theorem witness_HeathTransfers :
    (let s := set (set (onBoard (dev0 0) { call0 with heath := .spilling }) Fld.mdwHeathCtlEn 1) Fld.mdwHeathSizeV 4096
     let u := s.onSdr fun d => { d with hk := some 1, tkeys := [(9, 1)] }
     spillDue u 2 = true ∧ spillLost u 2 = false ∧ isSet u Fld.mdwHeathCtlEn = true ∧ heathFit u (spillPages u 2) = some 0) ∧
    (let h : HeathE := ⟨2, 0, 1, 0, [], []⟩
     let s := (onBoard (dev0 0) { call0 with heath := .filling }).onMdw fun m => { m with heath := [h] }
     let u := s.onSdr fun d => { d with hk := some 1, tkeys := [(9, 1)] }
     u.mdw.heath.find? (fun h => h.slot = 2) = some h ∧ fillDue u 2 = true ∧ spillLost u 2 = false) := by decide +kernel

theorem witness_Domains :
    (domPhase (set boot0 (Fld.lgtDomStatusState 20) 3) 20 = 0 ∧ domState (set boot0 (Fld.lgtDomStatusState 20) 3) 20 ≠ 0) ∧
    domPhase (set boot0 (Fld.lgtDomStatusPhase 20) 1) 20 = 1 ∧ domPhase boot0 63 = 0 ∧
    (let s := set boot0 (Fld.lgtDomCtlTarget 20) 2
     domPhase s 20 = 0 ∧ domState s 20 < domTarget s 20 ∧ mayFall s 20 (domTarget s 20) = true) ∧
    (∀ k ∈ [1, 4],
      let s := onDom (set (set boot0 (Fld.lgtDomCtlTarget 20) k) (Fld.lgtDomStatusPhase 20) 1) 20 fun d => { d with fall := k }
      domPhase s 20 = 1 ∧ isSet s (Fld.lgtDomStatusPendingOn 20) = false ∧ s.lgt.trip = false ∧
        domTarget s 20 ≤ (domOf s 20).fall ∧ (domOf s 20).fall = k) ∧
    (let s := set boot0 (Fld.lgtDomStatusPhase 20) 2
     domPhase s 20 = 2 ∧ isSet s (Fld.lgtDomStatusPendingOff 20) = false ∧ s.lgt.trip = false) := by decide +kernel

theorem witness_TargetWrite :
    (let s := set boot0 (Fld.lgtDomStatusState 20) 3
     let t := set (commandWord s 0 (Fld.lgtDomCtlTarget 20).off 0#32) (Fld.lgtDomCtlTarget 20) 0
     reaches s 0 (Fld.lgtDomCtlTarget 20).off = true ∧ bits 0#32 0 3 = 0 ∧ domState t 20 ≠ 0 ∧ domPhase t 20 = 0) ∧
    (let s := onDom boot0 20 fun d => { d with demand := true }
     let t := set (commandWord s 0 (Fld.lgtDomCtlTarget 20).off 2#32) (Fld.lgtDomCtlTarget 20) 2
     reaches s 0 (Fld.lgtDomCtlTarget 20).off = true ∧ bits 2#32 0 3 = 2 ∧ domPhase t 20 = 0 ∧ (domOf t 20).demand = true) ∧
    (let s := set ((List.range 63).foldl (fun s d => set s (Fld.lgtDomStatusState d) 4) boot0) Fld.fabExitCtlDrained 1
     reaches s 0 Fld.lgtCtlDeepOff.off = true ∧ bit 2#32 1 = true ∧ isSet s Fld.fabExitCtlDrained = true ∧
       ∀ d < 63, domState s d = 4 ∧ domPhase s d = 0) := by decide +kernel

theorem witness_Energy :
    (booted (dev0 0) = true ∧ (leadDev (dev0 0)).isSome = true ∧ (∀ b ∈ (dev0 0).lgt.budgets, b.1 ≠ nextCue (dev0 0)) ∧
      isSet (set (dev0 0) Fld.lgtCtlBudgetEn 0) Fld.lgtCtlBudgetEn = false) ∧
    (isLead (dev0 0) = true ∧ 1 ∈ memberDevs (dev0 0)) ∧ isSet (set boot0 Fld.lgtStatusBrake 1) Fld.lgtStatusBrake = true ∧
    (boot0.onLgt fun l => { l with throttle := true }).lgt.throttle = true ∧ boot0.lgt.throttle = false := by decide +kernel

/-! Beats, tokens and Players. -/

/-- A push beat of Player 5 for cue 7 that waits for two counts. -/
def beat0 : Beat where
  idx := 3
  ctr := 2
  cue := 7
  player := 5
  push := true
  deadline := 0
  seq := 1
  poison := false
  fail := false
  issued := false
  abandoned := false
  void := false
  frame := false
  costume := false
  spec := false
  slots := [2]
  chunks := 4
  chunksDone := 0
  flow := 0
  ordinal := 0
  entry := 16
  lc := [3, 0, 0, 0]
  tokens := []
  start := 0
  toks := 64
  waits := []
  result := false
  troupe := 0
  ins := []
  stoch := false

def withBeat (s : State) (b : Beat) : State := s.onStm fun m => { m with beats := [b] }

/-- The token of Table STM-4 for a beat of a device. -/
def tok0 (device beat count src cue : Nat) : Token :=
  BitVec.ofNat 64 (place 0 14 beat + place 16 4 count + place 20 10 device + place 32 16 cue + place 48 8 src)

theorem witness_Completions :
    (let t := tok0 0 3 1 7 7
     let s := withBeat (dev0 0) beat0
     beatAt s (tokBeat t) = some beat0 ∧ tokCount t = 1 ∧ tokDevice t = selfDev s ∧ tokSource t = 7 ∧
       tokCue t = beat0.cue % 65536 ∧ tokCount t ≤ beat0.ctr ∧ { beat0 with ctr := 1 }.dead = false) ∧
    (let t := tok0 0 3 3 7 7
     let s := withBeat (dev0 0) beat0
     s.stm.arriving = [] ∧ ∀ b, beatAt s (tokBeat t) = some b → b = beat0 ∧ b.ctr < tokCount t) ∧
    (addrOk boot0 0x1000000000 4 = true ∧ guarded boot0 0x1000000000 4 = false ∧ meadowBase ≤ 0x1000000000 ∧
      addrOk boot0 0x40000000 4 = false ∧ addrOk boot0 (iAddr 6 0) 4 = true ∧ guarded boot0 (iAddr 6 0) 4 = true) := by
  refine ⟨by decide +kernel, ⟨by decide +kernel, ?_⟩, by decide +kernel⟩
  intro b h
  have e : b = beat0 := Option.some.inj (h.symm.trans (by decide +kernel))
  subst e; decide +kernel

/-- The header of a Cue List for cue 5. -/
def header0 : CueTok := BitVec.ofNat 128 (place 0 8 1 + place 32 48 5)

theorem witness_Listings :
    (let s := dev0 0
     fromLead s 0 = true ∧ selfStage s = some 0 ∧ clKind header0 = 1) ∧
    (let s := dev0 1
     0 ∈ memberDevs s ∧ selfStage s = some 1 ∧ 2 ∉ s.stm.noTable ∧ 2 ∈ (s.onStm fun m => { m with noTable := [2] }).stm.noTable) := by decide +kernel

/-- The Stage runs, and Player 5 is of the Troupe in role `r`; its ready beat is of kind `push`. -/
def troupe0 (r : Nat) (push : Bool) : State :=
  set (set (withBeat (set (dev0 0) (Fld.plyRoleRole 5) r) { beat0 with ctr := 0, push := push }) (Fld.plyRoleInTroupe 5) 1)
    Fld.stmCtlEn 1

/-- Player 5 with word `w` in front. -/
def front0 (w : Nat) (s : State) : State := onPlayer s 5 fun x => { x with win := List.replicate 8 w }

/-- The same with beat 3 in hand. -/
def hand0 (w : Nat) (s : State) : State :=
  setSeq (onPlayer (front0 w s) 5 fun x => { x with beat := some 3 }) 5 1

theorem witness_PlayersTake :
    (let s := troupe0 1 true
     get s (Fld.plyRoleRole 5) = 1 ∧ s.stm.pushSlots.get? 5 = none ∧ pushStopped s = false ∧ seqState s 5 ≠ 3 ∧
       domLit s 2 = true ∧ issuable s 5 true = some { beat0 with ctr := 0 }) ∧
    (let s := front0 (2 ^ 56) ((troupe0 1 true).onStm fun m => { m with pushSlots := [(5, 3)] })
     s.ply.length = 96 ∧ frontIs (withWindow s 5) 5 1 = true ∧ isSet s (Fld.plySeqCtlHaltReq 5) = false ∧
       (s.stm.pushSlots.get? 5).bind (beatAt s) = some { beat0 with ctr := 0 }) ∧
    (let s := front0 (2 ^ 56) (troupe0 2 false)
     frontIs (withWindow s 5) 5 1 = true ∧ isSet s (Fld.plySeqCtlHaltReq 5) = false ∧
       (s.stm.pushSlots.get? 5).bind (beatAt s) = none ∧ get s (Fld.plyRoleRole 5) = 2 ∧ domLit s 2 = true ∧
       issuable s 5 false = some { beat0 with ctr := 0, push := false }) ∧
    (let s := front0 (2 ^ 56) (troupe0 1 false)
     (s.stm.pushSlots.get? 5).bind (beatAt s) = none ∧ get s (Fld.plyRoleRole 5) ≠ 2) ∧
    isSet (set (front0 (2 ^ 56) (dev0 0)) (Fld.plySeqCtlHaltReq 5) 1) (Fld.plySeqCtlHaltReq 5) = true := by decide +kernel

/-- A branch to word 0x123 on loop counter 0. -/
def branch0 : Nat := 3 * 2 ^ 56 + 2 ^ 16 + 0x123

theorem witness_SequencerFlow : let b := withBeat (dev0 0) { beat0 with ctr := 0 }
    (frontIs (withWindow (hand0 (2 * 2 ^ 56) b) 5) 5 2 = true ∧ pcOf (hand0 (2 * 2 ^ 56) b) 5 < 0x3FFF) ∧
    (frontWord (withWindow (hand0 branch0 b) 5) 5 = some branch0 ∧ wordClass branch0 = 3 ∧ badWord branch0 = false) ∧
    frontIs (withWindow (hand0 (6 * 2 ^ 56) b) 5) 5 6 = true := by decide +kernel

theorem witness_BeatsEnd : let b := withBeat (dev0 0) { beat0 with ctr := 0 }
    (let s := hand0 (4 * 2 ^ 56) b
     frontIs (withWindow s 5) 5 4 = true ∧ inHand (withWindow s 5) 5 = some { beat0 with ctr := 0 }) ∧
    (let s := hand0 (5 * 2 ^ 56) b
     frontIs (withWindow s 5) 5 5 = true ∧ inHand (withWindow s 5) 5 = some { beat0 with ctr := 0 } ∧ beat0.push = true ∧
       pcOf s 5 < 0x3FFF ∧ (playerOf s 5).cut = false ∧
       (playerOf (onPlayer s 5 fun x => { x with cut := true }) 5).chunk + 1 < beat0.chunks) ∧
    (frontWord (withWindow (hand0 0 b) 5) 5 = some 0 ∧ badWord 0 = true) ∧
    (seqState (dev0 0) 5 < 2 ∧ seqState (setSeq (dev0 0) 5 3) 5 = 3 ∧ (dev0 0).ply.length = 96) ∧
    (beat0.flow = 0 ∧ beat0.result = false ∧ beat0.abandoned = false ∧ { beat0 with abandoned := true }.abandoned = true) := by decide +kernel

theorem witness_ComputeWords : let w := 0x10 * 2 ^ 56
    let s := hand0 w (withBeat (dev0 0) { beat0 with ctr := 0 })
    (frontWord (withWindow s 5) 5 = some w ∧ wordClass w = 0x10 ∧
      opWaits (withWindow s 5) (.store 0x1000000000 [1, 2]) = false ∧
      opAddrOk (withWindow s 5) 5 (.store 0x1000000000 [1, 2]) = true ∧
      opWaits (withWindow s 5) (.store 0x40000000 [1]) = false ∧ opAddrOk (withWindow s 5) 5 (.store 0x40000000 [1]) = false) ∧
    (protectedByte s 5 (physOf (iAddr 6 0)) = true ∧ (∀ i < 4, protectedByte s 5 (physOf (0x1000000000 + i)) = false) ∧
      meadowBase ≤ 0x1000000000) ∧
    (opPoison (setPoison s 0x1000000000) 5 (.add 0x1000000000 0x1000000004 0x1000000008) = true ∧
      inHand (setPoison s 0x1000000000) 5 = some { beat0 with ctr := 0 }) := by
  decide +kernel

theorem witness_PlayerRegisters :
    (reaches boot0 0 (seqCtlOff 5) = true ∧ bit 1#32 0 = true ∧ seqState (commandWord boot0 0 (seqCtlOff 5) 1#32) 5 = 0) ∧
    (let s := set (setSeq boot0 5 2) (Fld.plySeqCtlHaltReq 5) 1
     reaches s 0 (seqCtlOff 5) = true ∧ seqState (commandWord s 0 (seqCtlOff 5) 0#32) 5 = 2) ∧
    (bit 0#32 0 = false ∧ bit 2#32 1 = true ∧ (playerOf (commandWord boot0 0 (seqCtlOff 5) 2#32) 5).beyond = false) ∧
    (reaches boot0 0 (0x400028 + 0x10000 * 5) = true ∧ sealedMode boot0 = false ∧ domLit boot0 2 = true) ∧
    (reaches (dark0 2 boot0) 0 (0x400028 + 0x10000 * 5) = true ∧ sealedMode (dark0 2 boot0) = false ∧
      (dark0 2 boot0).ply.length = 96 ∧ domLit (dark0 2 boot0) 2 = false) ∧
    (let s := set boot0 Fld.sdrStatusSealed 1
     reaches s 0 (0x400028 + 0x10000 * 5) = true ∧ sealedMode s = true) := by decide +kernel

/-! Scripts, sampling, Costumes and the Cue Line. -/

/-- A Script of tenant 9, a version of Costume 3 of tenant 9. -/
def script0 : Script := ⟨1, 9, 4, 49, 0, [], [], [], false, 4096⟩
def ver0 : Ver := ⟨9, 3, 1, 77, 49, true, false, 2, false, true, [], 0, [], [], []⟩

theorem witness_ScriptLoads :
    (reaches (dev0 0) 0 Fld.prmLoadCtlLoad.off = true ∧ bit 1#32 0 = true ∧ bit 1#32 1 = false ∧
      get (commandWord (dev0 0) 0 Fld.prmLoadCtlLoad.off 1#32) Fld.prmLoadStatusResult ≠ 1) ∧
    (let s := set (dev0 0) Fld.prmLoadStatusResult 1
     get s Fld.prmLoadStatusResult = 1 ∧ s.prm.load = none) ∧
    (let s := (set (dev0 0) Fld.prmLoadStatusResult 1).onPrm fun p => { p with load := some script0, scripts := [script0] }
     s.prm.load = some script0 ∧ isStopSet script0 = isStopSet script0 ∧ script0 ∈ s.prm.scripts) ∧
    (let s := (set (dev0 0) Fld.prmLoadStatusResult 1).onPrm fun p =>
        { p with load := some script0, scripts := List.replicate 1024 { script0 with id := 5 } }
     (∀ y ∈ s.prm.scripts, isStopSet y = isStopSet script0 → y.id ≠ script0.id) ∧
       1024 ≤ (s.prm.scripts.filter fun y => isStopSet y = isStopSet script0).length) := by decide +kernel

theorem witness_ScriptsHeld :
    (∀ cs ∈ [[], [1]],
     let s := ((set (dev0 0) Fld.prmLoadStatusResult 1).onPrm fun p => { p with load := some script0, copies := some cs }).onSpl fun p =>
        { p with active := some { plot0 0 with scriptStore := 65536 } }
     s.spl.active = some { plot0 0 with scriptStore := 65536 } ∧ s.prm.scripts = [] ∧
       (s.prm.scripts.map (·.bytes)).sum + script0.bytes ≤ 65536 ∧ copyDevs s ≠ [] ∧ s.prm.copies = some cs) ∧
    (let s := (set (set (dev0 0) Fld.prmLoadCtlKind 1) Fld.prmLoadCtlId 4).onPrm fun p => { p with scripts := [script0] }
     let v := 0x00040012#32
     let u := commandWord s 0 Fld.prmLoadCtlWithdraw.off v
     reaches s 0 Fld.prmLoadCtlWithdraw.off = true ∧ bit v 1 = true ∧ bit v 0 = false ∧ get u Fld.prmLoadStatusResult ≠ 1 ∧
       get u Fld.prmLoadCtlId = 4 ∧ get u Fld.prmLoadCtlKind = 1 ∧ isStopSet script0 = false) := by
  decide +kernel

/-- A sampled position of slot 2 at position 64 of cue 5, greedy or with temperature 1. -/
def req0 (temp : Nat) : SampReq :=
  ⟨BitVec.ofNat 1024 ((card0 1 4 64 700).toNat + place 512 32 temp), 0, 5, 5, 63, 0, [], 0, false, true, true, none⟩

/-- The last stage of one rank that holds the whole vocabulary, with its Prompter on and the record of slot 2 awaited. -/
def prm0 : State :=
  (set (set (set (dev0 1) Fld.prmShardGeomLast 1) Fld.prmShardGeomRanks 1) Fld.prmCtlEn 1).onStm fun m =>
    { m with awaits := [(5, 2)] }

/-- A whole list of the one rank, and what merges it. -/
def list0 : CandL := ⟨2, 5, 64, 0, [0], some 0, false, false, false, [(17, 0x3F800000)], []⟩
def merge0 (temp : Nat) : Merge := ⟨2, req0 temp, 64, []⟩
def bind0 : Bind := ⟨none, none, 0, [], false⟩

/-- A step record of slot 2 in cue 5. -/
def step0 : StepRec := BitVec.ofNat 256 (place 0 14 2 + place 16 16 5 + place 32 20 64)

theorem witness_LocalPass :
    let s := set (set (dev0 1) Fld.prmShardGeomLast 1) Fld.prmCtlEn 1
    atLast s = true ∧ isSet s Fld.prmCtlEn = true ∧ domLit s 57 = true ∧ (req0 0).base.toNat < (64#20).toNat ∧
      (64#20).toNat = (req0 0).base.toNat + 1 ∧ (64#20).toNat ≤ (req0 0).base.toNat + (req0 0).depth + 1 ∧
      awaited s (req0 0).cue [2] = [] := by decide +kernel

theorem witness_Lists :
    (mergeRank prm0 2 = prmRank prm0 ∧ atLast prm0 = true ∧ (5, 2) ∈ prm0.stm.awaits ∧ prm0.prm.lists = [] ∧ 0 < prmRanks prm0 ∧
      1 ≤ mergeK prm0 2 5 ∧ inShard prm0 0 17 = true) ∧
    (let x := { list0 with got := [1], final := some 1, ents := [] }
     x.bad = false ∧ x.whole = false ∧ 0 ∉ x.got ∧ x.ents.length + 1 ≤ mergeK prm0 2 5) ∧
    prmRanks prm0 ≤ 1 ∧ mergeK prm0 2 5 < 4097 ∧
    (let x := { list0 with bad := true, ents := [], got := [1] }
     let s := prm0.onPrm fun p => { p with lists := [x] }
     s.prm.lists.find? (fun x => x.slot = 2 && x.cue16 = 5 && x.pos = 64 && x.rank = 0 && x.bad && !decide (0 ∈ x.got)) = some x) := by
  decide +kernel

theorem witness_Records :
    (0 ∈ memberDevs prm0 ∧ stepReserved step0 = false ∧ isLead prm0 = false ∧ stepSlot step0 = 2 ∧ stepCue step0 = 5 ∧
      prm0.stm.awaits = [(5, 2)]) ∧
    (dev0 1).stm.awaits = [] := by decide +kernel

theorem witness_MergePass :
    (let s := prm0.onPrm fun p => { p with merges := [merge0 0] }
     s.prm.merges.find? (fun m => m.slot = 2 && m.next = 64) = some (merge0 0) ∧
       (mergeLists s (merge0 0)).length ≠ prmRanks s) ∧
    (let s := prm0.onPrm fun p => { p with merges := [merge0 0], lists := [list0], binds := [(2, bind0)] }
     (mergeLists s (merge0 0)).length = prmRanks s ∧ isSet s Fld.prmCtlEn = true ∧ domLit s 58 = true ∧
       s.prm.binds.get? 2 = some bind0 ∧ isGreedy (merge0 0).req.card = true ∧ domLit (dark0 58 s) 58 = false ∧
       (mergeLists (dark0 58 s) (merge0 0)).length = prmRanks (dark0 58 s) ∧ isSet (dark0 58 s) Fld.prmCtlEn = true) ∧
    (let m := merge0 0x3F800000
     let s := (prm0.onPrm fun p => { p with merges := [m], lists := [list0], binds := [(2, bind0)] }).onGrs fun g =>
        { g with ctx := [(2, (5#256, false))] }
     isGreedy m.req.card = false ∧ mergeCands m (mergeLists s m) = [(17, 0x3F800000)] ∧ 0x3F800000 ≠ pInf ∧
       s.grs.ctx.get? 2 = some (5#256, false)) ∧
    (bind0.absent = false ∧ { bind0 with absent := true }.absent = true) := by decide +kernel

theorem witness_Costumes :
    (reaches (dev0 0) 0 Fld.wdrLoadCtlLoad.off = true ∧ bit 1#32 0 = true ∧ wdrIdle (dev0 0) = true ∧
      reaches (dev0 0) 0 Fld.wdrLoadCtlRevoke.off = true ∧ bit 2#32 1 = true ∧
      (let u := commandWord (dev0 0) 0 Fld.wdrLoadCtlRevoke.off 2#32
       versOf u (get u Fld.wdrLoadCtlTenant) (get u Fld.wdrLoadCtlId) = []) ∧
      (let u := commandWord ((dev0 0).onWdr fun w => { w with vers := [{ ver0 with tenant := 0, id := 0 }] }) 0
        Fld.wdrLoadCtlRevoke.off 2#32
       versOf u (get u Fld.wdrLoadCtlTenant) (get u Fld.wdrLoadCtlId) ≠ [])) ∧
    (let s := set (dev0 0) Fld.wdrLoadStatusResult 1
     get s Fld.wdrLoadStatusResult = 1 ∧ domLit s 59 = true ∧ s.wdr.load = none ∧ domLit (dark0 59 s) 59 = false ∧
       get (dark0 59 s) Fld.wdrLoadStatusResult = 1) ∧
    (let s := (set (dev0 0) Fld.wdrLoadStatusResult 1).onWdr fun w =>
        { w with load := some ver0, vers := [{ ver0 with tenant := 8 }] }
     s.wdr.load = some ver0 ∧ ∃ x ∈ s.wdr.vers, x.id = ver0.id ∧ x.tenant ≠ ver0.tenant) ∧
    (isLead (dev0 0) = true ∧ 4 = ownId (dev0 0) ∧ 1 ∈ memberDevs (dev0 0)) := by decide +kernel

/-- The lead with a load of `ver0` under a result, its Costume pool and the members whose slice is not in place. -/
def load0 (result pool : Nat) (cs : Option (List Nat)) : State :=
  ((set (dev0 0) Fld.wdrLoadStatusResult result).onWdr fun w => { w with load := some ver0, copies := cs }).onSpl fun p =>
    { p with active := some { plot0 0 with costumePool := pool } }

theorem witness_CostumeInstalls :
    (∀ cs ∈ [none, some [], some [1]], ∀ k ∈ [1, 7],
     let s := load0 k 1048576 cs
     get s Fld.wdrLoadStatusResult = k ∧ domLit s 59 = true ∧ s.wdr.load = some ver0 ∧ s.wdr.vers = [] ∧ verRoom s ver0 = true ∧
       otherMembers s ≠ [] ∧ s.wdr.copies = cs) ∧
    verRoom (load0 1 0 none) ver0 = false := by decide +kernel

theorem witness_Residency :
    let s := (set (dev0 1) Fld.plyLoftPartC 1).onWdr fun w => { w with vers := [ver0] }
    s.wdr.vers.find? (fun x => x.tenant = ver0.tenant && x.id = ver0.id && x.ver = ver0.ver && x.copying) = some ver0 ∧
      usedPages s + ver0.pages ≤ costumePages s ∧ (s.wdr.vers.filter (·.resident)).length < 512 ∧
      leadDev s ≠ some (selfDev s) ∧ s.lgt.throttle = false ∧ domLit s 59 = true ∧ domLit (dark0 59 s) 59 = false ∧
      (s.onLgt fun l => { l with throttle := true }).lgt.throttle = true := by decide +kernel

/-- The lead in a clock state, with its Stage running. -/
def clock0 (k : Nat) : State := set (set (dev0 0) Fld.cueStatusState k) Fld.stmCtlEn 1

theorem witness_Cues :
    (composes (clock0 1) = true ∧ (clock0 1).stm.nextComp ≤ nextCue (clock0 1)) ∧
    (let s := (clock0 1).onStm fun m => { m with nextComp := 9 }
     nextCue s < s.stm.nextComp) ∧
    (booted (clock0 1) = true ∧ cueState (clock0 1) = 1) ∧ (booted (clock0 3) = true ∧ cueState (clock0 3) = 3) := by decide +kernel

theorem witness_RootsKeepTime :
    (let s := (clock0 4).onCue fun c => { c with todNew := true }
     cueState s = 4 ∧ s.cue.launched = false ∧ s.cue.todNew = true) ∧
    (let s := (clock0 4).onCue fun c => { c with todNew := true, launched := true }
     cueState s = 4 ∧ s.cue.launched = true ∧ s.cue.todNew = true) ∧
    (cueState (clock0 4) = 4 ∧ (clock0 4).cue.todNew = false) ∧
    (∀ b ∈ [false, true],
      let s := (clock0 0).onCue fun c => { c with todNew := b }
      primaryStarts s = true ∧ s.cue.todNew = b) ∧
    (todNext (clock0 0) = 0 ∧ todNext (set (clock0 0) Fld.cueTodLoV 5) ≠ 0) ∧
    (∀ k ∈ [0, 2],
      let s := set (dev0 1) Fld.cueStatusState k
      s.spl.active = some (plot0 1) ∧ booted s = true ∧ isRoot s false = true ∧ (topoOf s (plot0 1).rootPrimary).state ≠ 1 ∧
        cueState s = k) := by decide +kernel

/-- Link 3 runs and is the parent's. -/
def timed0 (anchored launched : Bool) : State :=
  (set (set (clock0 1) (Fld.fabLinkStatusState 3) 3) Fld.cueStatusParent 3).onCue fun c =>
    { c with anchored := anchored, launched := launched }

theorem witness_TimeExchange :
    ∀ l ∈ [false, true], ∀ a ∈ [false, true],
     let s := timed0 a l
     booted s = true ∧ linkRuns s 3 = true ∧ s.cue.anchored = a ∧ s.cue.launched = l ∧ cueState s ≠ 3 ∧ cueState s ≠ 4 ∧
       get s Fld.cueStatusParent = 3 ∧ s.cue.rootPrimary = true ∧ get s Fld.cueStatusParent ≠ 5 ∧
       get s Fld.cueStatusParent ≠ 0xF := by decide +kernel

theorem witness_TimeAnswered :
    (linkRuns boot0 3 = false ∧ booted State.reset = false ∧ cueState (clock0 3) = 3) ∧
    (let s := set (timed0 true true) Fld.cueStatusState 4
     booted s = true ∧ linkRuns s 3 = true ∧ cueState s = 4 ∧ s.cue.launched = true) ∧
    (let s := set (set (clock0 4) Fld.fabSelfDevice 1) (Fld.fabLinkStatusState 3) 3
     linkRuns s 3 = true ∧ cueState s = 4 ∧ isRoot s true = false) ∧
    (clock0 1).cue.anchorCue = 0 ∧ (clock0 1).cue.anchorSt = 0 := by decide +kernel

theorem witness_CueLine :
    (let s := (clock0 0).onCue fun c => { c with inRun := 15 }
     (0 : Int).natAbs ≤ getA s Fld.cueLockLockPs ∧ s.cue.inRun = 15 ∧ cueState s = 0) ∧
    (let s := (clock0 1).onCue fun c => { c with outRun := 2 }
     getA s Fld.cueLockLockPs < (10 ^ 9 : Int).natAbs ∧ getA s Fld.cueLockLossNs * 1000 < (10 ^ 9 : Int).natAbs ∧
       s.cue.outRun = 2 ∧ cueState s = 1) ∧
    cueState (clock0 2) = 2 ∧
    (reaches (clock0 4) 0 Fld.cuePeriodAtHiV.off = true ∧ periodOk 2000000 = true ∧ periodOk 2000001 = false ∧
      periodOk 250000 = true ∧ periodOk 249000 = false ∧ periodOk 32000000 = true ∧ periodOk 32001000 = false) ∧
    (let s := (clock0 4).onCue fun c => { c with pendAnchor := some (9, 0, 250000) }
     s.cue.pendAnchor = some (9, 0, 250000) ∧ cueNum s < 9) ∧
    (let s := (clock0 1).onCue fun c => { c with monSt := some 7 }
     s.cue.monSt = some 7) := by decide +kernel

theorem witness_PeriodRequest :
    ∀ x ∈ [(16, true), (15, false)],
      let s := set (set (clock0 4) Fld.cuePeriodNextV 250000) Fld.cuePeriodAtLoV x.1
      let u := set (commandWord s 0 Fld.cuePeriodAtHiV.off 0) Fld.cuePeriodAtHiV 0
      (periodOk (get u Fld.cuePeriodNextV) && decide (cueNum u + 16 ≤ periodAt u)) = x.2 ∧ u.cue.pendAnchor = none := by decide +kernel

theorem witness_Temperature :
    (getA boot0 Fld.lgtThermAlert ≤ [870, 860].foldl max 0 ∧ [870, 860].foldl max 0 < 880) ∧
    ([500].foldl max 0 + 40 ≤ getA boot0 Fld.lgtThermAlert) ∧
    (let h := getA boot0 Fld.lgtThermAlert - 1
     [h].foldl max 0 < getA boot0 Fld.lgtThermAlert ∧ getA boot0 Fld.lgtThermAlert < [h].foldl max 0 + 40 ∧ h < 880) ∧
    (880 ≤ [880].foldl max 0 ∧ boot0.lgt.trip = false) := by decide +kernel

/-! Swales, resets, boot, the Ledger and faults. -/

/-- Instance 8 with an item of one word. -/
def sw0 (n : Nat) : State := onSw boot0 8 fun x => { x with items := List.replicate n [(7, false)] }

theorem witness_SwaleItems :
    (let s := onSw boot0 8 fun x => { x with items := [[(7, true)]] }
     swPhase s 8 = 0 ∧ (swOf s 8).items = [[(7, true)]] ∧ ∃ x ∈ [((7 : Nat), true)], x.2 = true) ∧
    (swlExists 8 = true ∧ swPhase (set (sw0 1) (Fld.swlStatusState 8) 1) 8 ≠ 0) ∧
    (swlExists 8 = true ∧ swPhase (sw0 1) 8 = 0 ∧ swFull (sw0 1) 8 = false ∧ (swOf (sw0 1) 8).items = [[(7, false)]] ∧
      swlExists 7 = false ∧ (swOf boot0 8).items = []) ∧
    (let s := onSw boot0 8 fun x => { x with items := List.replicate (swDepth boot0 8) [(7, false)] }
     swPhase s 8 = 0 ∧ swFull s 8 = true ∧ swDisplace s 8 = false ∧ swDisplace (set s (Fld.swlCfgPolicy 8) 1) 8 = true) ∧
    (let s := set (sw0 1) (Fld.swlCfgMark 8) 1
     swMarked s 8 = true ∧ swPhase s 8 = 0) := by decide +kernel

theorem witness_SwaleResets :
    (let s := set boot0 (Fld.swlCfgBuild 8) 1
     let u := commandWord s 0 (Fld.swlCtlReset 8).off 1#32
     swG s 8 = true ∧ swPhase s 8 ≠ 1 ∧ reaches s 0 (Fld.swlCtlReset 8).off = true ∧ bit 1#32 0 = true ∧ swG u 8 = true ∧
       swPhase u 8 ≠ 1) ∧
    swPhase (set boot0 (Fld.swlStatusState 8) 1) 8 = 1 ∧ swPhase (set boot0 (Fld.swlStatusState 8) 2) 8 = 2 ∧
    (isLead (dev0 0) = true ∧ ownId (dev0 0) = 4 ∧ 1 ∈ memberDevs (dev0 0)) ∧
    ((boot0.onFab fun f => { f with silent := some 2 }).fab.silent = some 2 ∧ boot0.fab.silent = none) := by decide +kernel

theorem witness_HostLoss :
    ((boot0.onHiu fun h => { h with hostLost := true }).hiu.hostLost = true) ∧
    (let s := (dev0 0).onHiu fun h => { h with callMap := [ent0], grace := [(6, 3)] }
     s.hiu.hostLost = false ∧ s.stm.board = [] ∧ isLead s = true ∧ ∀ g ∈ s.hiu.grace, g.1 ≠ 5) ∧
    (isLead (dev0 1) = false ∧ (dev0 1).mdw.spills = [] ∧ (dev0 1).hiu.hostLost = false) ∧
    ((boot0.onBrd fun b => { b with perst := true }).brd.perst = true) ∧
    (let s := boot0.onBrd fun b => { b with perst := false }
     s.brd.perst = false ∧ 16 ∈ [1, 2, 4, 8, 16] ∧ get s Fld.hiuBootPhase ≠ 0 ∧
       max s.brd.cfgFrom s.brd.resetEnd + 100000000 ≤ ((s.setSt 100000000).st : Int)) ∧
    (let s := boot0.onHiu fun h => { h with grace := [(5, 2), (6, 3)], callMap := [ent0] }
     s.hiu.grace = (5, 2) :: [(6, 3)] ∧ [((6 : Nat), (3 : Nat))].foldl (fun a x => min a x.2) 2 = 2) ∧
    (boot0.hiu.grace = [] ∧ boot0.hiu.flr.Nodup ∧ get State.reset Fld.hiuBootPhase = 0) := by decide +kernel

theorem witness_Resets :
    ((State.reset.onBrd fun b => { b with warmLow := true }).brd.warmLow = true ∧ State.reset.brd.warmLow = false) ∧
    (let s := boot0.onBrd fun b => { b with powered := true }
     s.brd.powered = true ∧ bootPhase s ≠ 0 ∧ domState s 63 ≠ 4 ∧ s.fab.exitWritten = false) ∧
    ((boot0.onBrd fun b => { b with powered := false }).brd.powered = false ∧
      (boot0.onBrd fun b => { b with flushing := true }).brd.flushing = true) ∧
    (let s := State.reset.onBrd fun b => { b with warmLow := true, powered := true }
     s.brd.warmLow = true ∧ s.brd.powered = true ∧ bootPhase s = 0) := by decide +kernel

theorem witness_Boot :
    (let s := set (set State.reset Fld.hiuBootPhase 1) Fld.grsWindStatusState 1
     bootPhase (startupTests 0 s) = 1 ∧ bootPhase (startupTests 0 (setPhase s 2)) ≠ 1) ∧
    (let s := set State.reset Fld.hiuBootPhase 1
     sdrState s = 0 ∧ bootPhase s ≠ 0) ∧
    (let s := set boot0 Fld.sdrStatusState 1
     (1#8 : BitVec 8) ≠ 0#8 ∧ sdrState s = 1) ∧
    (let u := commandWord (dev0 0) 0 Fld.plyWloadCtlBegin.off 1#32
     reaches (dev0 0) 0 Fld.plyWloadCtlBegin.off = true ∧ bit 1#32 0 = true ∧ isSet u Fld.stmCtlEn = false ∧
       isSet (commandWord (set (dev0 0) Fld.stmCtlEn 1) 0 Fld.plyWloadCtlBegin.off 1#32) Fld.stmCtlEn = true) ∧
    (let s := set (dev0 0) Fld.plyWloadStatusState 1
     reaches s 0 Fld.plyWloadCtlDone.off = true ∧ bit 2#32 1 = true ∧ bit 2#32 0 = false ∧
       get (commandWord s 0 Fld.plyWloadCtlDone.off 2#32) Fld.plyWloadStatusState = 1) ∧
    get (set (dev0 0) Fld.plyWloadStatusState 2) Fld.plyWloadStatusState = 2 := by decide +kernel

/-- The Ledger is ready. -/
def led0 : State := set (dev0 0) Fld.ldgStatusState 1

theorem witness_LogPages :
    (let s := led0.onLdg fun l => { l with logPage := [5] }
     ledgerReady s = true ∧ domLit s 61 = true ∧ s.ldg.logPage ≠ [] ∧ s.sdr.lossPend = 0 ∧ domLit (dark0 61 s) 61 = false ∧
       ledgerReady (dark0 61 s) = true) ∧
    (let s := led0.onFlt fun f => { f with log := [mkFault 0x0301 3 3 0 0 0 1 0 0] }
     s.ldg.logPage = [] ∧ (s.flt.log.filter fun r => decide (s.ldg.faultNext ≤ bits r 224 32)) ≠ []) := by decide +kernel

theorem witness_LedgerStores :
    (let u := commandWord led0 0 Fld.ldgStoreCtlStore.off 1#32
     reaches led0 0 Fld.ldgStoreCtlStore.off = true ∧ bit 1#32 0 = true ∧ get u Fld.ldgStoreStatusResult ≠ 1 ∧
       ledgerReady u = true ∧ get u Fld.ldgStoreCtlSlot < u.ldg.slots.length ∧ u.ldg.bootSlot ≠ some (get u Fld.ldgStoreCtlSlot)) ∧
    (let s := set led0 Fld.ldgStatusState 2
     ledgerReady (commandWord s 0 Fld.ldgStoreCtlStore.off 1#32) = false ∧
       get (commandWord s 0 Fld.ldgStoreCtlStore.off 1#32) Fld.ldgStoreStatusResult ≠ 1) ∧
    (let s := led0.onLdg fun l => { l with bootSlot := some 0 }
     let u := commandWord s 0 Fld.ldgStoreCtlStore.off 1#32
     u.ldg.bootSlot = some (get u Fld.ldgStoreCtlSlot)) ∧
    (let s := led0.onLdg fun l => { l with storing := some (1, ImgSlot.empty) }
     s.ldg.storing = some (1, ImgSlot.empty) ∧ 1 < s.ldg.slots.length ∧ ledgerReady s = true ∧ domLit s 61 = true ∧
       isSet s Fld.ldgStoreCtlPrefer = false ∧ isSet (set s Fld.ldgStoreCtlPrefer 1) Fld.ldgStoreCtlPrefer = true ∧
       domLit (dark0 61 s) 61 = false) := by decide +kernel

/-- A worn block in the pool beyond the first mapping. -/
def worn0 : State := led0.onLdg fun l => { l with phys := [(40 + logicalBlocks, { PBlk.fresh with erases := 600 })] }

theorem witness_LedgerMoves :
    (worn0.ldg.lastMove = none ∧ ledgerReady worn0 = true ∧ domLit worn0 61 = true ∧ domLit (dark0 61 worn0) 61 = false ∧
      5 < logicalBlocks ∧ get worn0 Fld.ldgStatusState ≠ 2) ∧
    (mostWorn worn0 = some (40 + logicalBlocks, 600) ∧ 5 ∈ coldBlocks worn0 600) ∧
    (let s := led0.onLdg fun l => { l with lastMove := some 5 }
     s.ldg.lastMove = some 5 ∧ s.st < 5 + 100000000) := by decide +kernel

/-- A search of the pool that comes by a free block ends. -/
theorem findFree_isSome (s : State) : ∀ n p j, j < n → poolFree s (32 + (p + j) % 16352) = true → (findFree s n p).isSome = true
  | 0, _, _, h, _ => absurd h (Nat.not_lt_zero _)
  | n + 1, p, j, h, hf => by
    unfold findFree
    split
    · rfl
    · next hp =>
      match j, h, hf with
      | 0, _, hf => exact absurd hf hp
      | j + 1, h, hf => exact findFree_isSome s n (p + 1) j (by omega) (by rw [Nat.add_assoc, Nat.add_comm 1 j]; exact hf)

theorem led0_pool (k : Nat) (h : 2706 ≤ k) (hk : k < 16352) : poolFree led0 (32 + k) = true := by
  have hm : led0.ldg.map = [] := by decide +kernel
  have hp : led0.ldg.phys = [] := by decide +kernel
  have hl : logicalBlocks = 2706 := rfl
  simp only [poolFree, pblk, AMap.getD, hm, hp, hl, PBlk.first]
  simp [AMap.get?, PBlk.fresh, show ¬32 + k < 2738 by omega]
  omega

theorem witness_FreeBlock : ∃ p, findFree led0 16352 (fresh led0) = some p := by
  have h (p : Nat) : (findFree led0 16352 p).isSome = true := by
    by_cases hr : 2706 ≤ p % 16352
    · exact findFree_isSome led0 16352 p 0 (by omega) (led0_pool _ (by omega) (by omega))
    · exact findFree_isSome led0 16352 p (2706 - p % 16352) (by omega) (led0_pool _ (by omega) (by omega))
  exact Option.isSome_iff_exists.1 (h _)

theorem witness_Faults :
    (faultClass 0x0999 = none ∧ faultClass 0x0301 = some 3 ∧ faultClass 0x0302 = some 4 ∧ faultClass 0x1202 = some 0) ∧
    (let s := boot0.onFlt fun f => { f with log := [mkFault 0x0302 4 3 1 (cueNum boot0) 0 1 9 0] }
     (∃ r, s.flt.log.getLast? = some r ∧ frCode r = 0x0302 ∧ frInst r = 1 ∧ frDetail r = 9 ∧ frCue r = cueNum s ∧
       frCount r < 65535)) ∧
    (faultClass 0x0405 ≠ none ∧ faultClass 0x0802 ≠ none ∧ (3 : Nat) < 96) ∧
    (boot0.ldg.crashBusy = false ∧ (boot0.onLdg fun l => { l with crashBusy := true }).ldg.crashBusy = true) ∧
    (∀ b ∈ prstBlocks, let v : Word := BitVec.ofNat 32 (2 ^ b.bitNo)
      (∀ x ∈ prstBlocks, bit v x.bitNo = decide (x = b)) ∧ reaches boot0 0 Fld.fltPrstPrm.off = true ∧
        ∀ d ∈ b.doms, domState (commandWord boot0 0 Fld.fltPrstPrm.off v) d = 0) ∧
    (reaches boot0 0 Fld.fltInjectCode.off = true ∧ sealedMode boot0 = false ∧
      reaches (set boot0 Fld.sdrStatusSealed 1) 0 Fld.fltInjectCode.off = true ∧
      sealedMode (set boot0 Fld.sdrStatusSealed 1) = true) := by
  refine ⟨by decide +kernel, ⟨_, rfl, by decide +kernel⟩, by decide +kernel, by decide +kernel, by decide +kernel, by decide +kernel⟩

/-! Links, flits, exit and the Stage Door. -/

def link0 (k : Nat) : State := set boot0 (Fld.fabLinkStatusState 3) k

/-- What the peer of link 0 of device 0 sends, if it is the device the House section names. -/
def id0 (device link digest : Nat) (good : Bool) : IdRec :=
  ⟨Fin.ofNat 1024 device, Fin.ofNat 12 link, 4#8, digest, good, good, good⟩

theorem witness_LinksComeUp :
    (let u := set (commandWord boot0 0 (Fld.fabLinkCtlEn 3).off 1#32) (Fld.fabLinkCtlEn 3) 1
     reaches boot0 0 (Fld.fabLinkCtlEn 3).off = true ∧ bit 1#32 0 = true ∧ linkState u 3 = 0 ∧ domState u 49 = 0 ∧
       domPhase u 49 = 0) ∧
    (linkState (link0 1) 3 = 1 ∧ (linkAt (link0 1) 3).waiting = false ∧ (link0 1).fab.links.length = 12) ∧
    (let s := (set (dev0 0) (Fld.fabLinkStatusState 0) 2).onSdr fun d => { d with hk := some 1, drbg := some 2 }
     s.spl.active = some (plot0 0) ∧ linkState s 0 = 2 ∧ s.sdr.hk = some 1 ∧
       isSet (set s Fld.sdrStatusNeedSeed 1) Fld.sdrStatusNeedSeed = true ∧
       (let r := id0 64 (Nat.xor 0 2) 11 true
        r.device.val = (plot0 0).expect.getD 0 1024 ∧ r.link.val = Nat.xor 0 2 ∧ r.digest = (plot0 0).digest ∧
          r.chainOk = true ∧ r.sigOk = true ∧ r.hmacOk = true) ∧
       ((id0 65 2 11 true).device.val ≠ (plot0 0).expect.getD 0 1024 ∧ (id0 64 2 12 true).digest ≠ (plot0 0).digest ∧
         (id0 64 2 11 false).chainOk = false)) ∧
    (linkRuns (link0 3) 3 = true ∧ linkState (link0 1) 3 ∉ [2, 3, 4]) ∧
    (let s := set (link0 3) (Fld.fabLinkStatusState 1) 3
     linkRuns s 1 = true ∧ linkPeer s 1 = linkPeer s 3) := by decide +kernel

theorem leBytes_take (n : Nat) : ∀ (m v c : Nat), (leBytes (n + m) (v + c * 256 ^ n)).take n = leBytes n v := by
  induction n with
  | zero => intro m v c; simp [leBytes]
  | succ n ih =>
    intro m v c
    have e : v + c * 256 ^ (n + 1) = v + 256 * (c * 256 ^ n) := by rw [Nat.pow_succ]; ring
    rw [Nat.add_right_comm n 1 m, leBytes, leBytes, List.take_succ_cons, e, Nat.add_mul_div_left _ _ (by decide), ih]
    congr 1
    apply BitVec.eq_of_toNat_eq
    simp only [BitVec.toNat_ofNat]
    omega

theorem crcBit_lt (n : Nat) : ∀ c, c < 2 ^ 64 → crcBit n c < 2 ^ 64 := by
  induction n with
  | zero => exact fun c h => h
  | succ n ih =>
    intro c h
    refine ih _ ?_
    split
    · exact Nat.xor_lt_two_pow (Nat.mod_lt _ (by decide)) (by decide)
    · omega

theorem crc64_lt (bs : List Byte) : crc64 bs < 2 ^ 64 := by
  unfold crc64
  have h0 : 0 < 2 ^ 64 := by decide
  generalize 0 = c at h0
  induction bs generalizing c with
  | nil => exact h0
  | cons b l ih =>
    rw [List.foldl_cons]
    have k : b.toNat * 2 ^ 56 < 2 ^ 64 := by have := b.isLt; omega
    exact ih _ (crcBit_lt 8 _ (Nat.xor_lt_two_pow h0 k))

/-- The flit whose bytes 0 to 247 spell `b`, with its CRC. -/
def withCrc (b : Nat) : BitVec 2048 := BitVec.ofNat 2048 (b + crc64 (leBytes 248 b) * 2 ^ 1984)

theorem withCrc_toNat (b : Nat) (h : b < 2 ^ 1984) : (withCrc b).toNat = b + crc64 (leBytes 248 b) * 2 ^ 1984 := by
  have c := crc64_lt (leBytes 248 b)
  rw [withCrc, BitVec.toNat_ofNat]
  generalize crc64 (leBytes 248 b) = k at c
  refine Nat.mod_eq_of_lt ?_
  calc b + k * 2 ^ 1984 < 2 ^ 1984 + k * 2 ^ 1984 := Nat.add_lt_add_right h _
    _ = (k + 1) * 2 ^ 1984 := by rw [Nat.add_mul, Nat.one_mul, Nat.add_comm]
    _ ≤ 2 ^ 64 * 2 ^ 1984 := Nat.mul_le_mul_right _ c
    _ = 2 ^ 2048 := by rw [← Nat.pow_add]

theorem withCrc_bytes (b : Nat) (h : b < 2 ^ 1984) : (wireBytes (withCrc b)).take 248 = leBytes 248 b := by
  have e : (2 : Nat) ^ 1984 = 256 ^ 248 := by decide +kernel
  have n : 2048 / 8 = 248 + 8 := by decide
  unfold wireBytes
  rw [withCrc_toNat b h, e, n]
  exact leBytes_take 248 8 b _

theorem add_high (b k : Nat) (c : k < 2 ^ 64) (h : b < 2 ^ 1984) : (b + k * 2 ^ 1984) / 2 ^ 1984 % 2 ^ 64 = k := by
  rw [Nat.add_mul_div_right _ _ (Nat.two_pow_pos 1984), Nat.div_eq_of_lt h, Nat.zero_add, Nat.mod_eq_of_lt c]

theorem withCrc_good (b : Nat) (h : b < 2 ^ 1984) :
    crc64 ((wireBytes (withCrc b)).take 248) = bits (withCrc b) 1984 64 := by
  have t : bits (withCrc b) 1984 64 = crc64 (leBytes 248 b) :=
    (congrArg (fun x => x / 2 ^ 1984 % 2 ^ 64) (withCrc_toNat b h)).trans (add_high b _ (crc64_lt _) h)
  rw [withCrc_bytes b h, t]

theorem withCrc_bits (b lo w : Nat) (h : b < 2 ^ 1984) (k : lo + w ≤ 1984) : bits (withCrc b) lo w = b / 2 ^ lo % 2 ^ w := by
  rw [bits, withCrc_toNat b h]
  have e : (2 : Nat) ^ 1984 = 2 ^ lo * (2 ^ w * 2 ^ (1984 - lo - w)) := by rw [← Nat.pow_add, ← Nat.pow_add]; congr 1; omega
  rw [e, show ∀ a x y z : Nat, b + a * (x * (y * z)) = b + x * (y * (a * z)) from fun a x y z => by ring,
    Nat.add_mul_div_left _ _ (Nat.two_pow_pos lo), Nat.add_mul_mod_self_left]

/-- A link UP at epoch 4 of its peer, and the first bytes of a flit of that epoch: its sequence number and its type. -/
def up0 : State := set (link0 3) (Fld.fabLinkStatusPeerEpoch 3) 4
def flit0 (seq kind : Nat) : Nat := place 0 12 seq + place 36 8 4 + place 44 3 kind

theorem witness_FlitsMove :
    linkRuns boot0 3 = false ∧ linkRuns up0 3 = true ∧
    (∀ b < 2 ^ 1984, crc64 ((wireBytes (withCrc b)).take 248) = bits (withCrc b) 1984 64) ∧
    (∀ b ∈ [flit0 0 0, flit0 1 0, flit0 0 1, flit0 0 2], b < 2 ^ 1984 ∧ b / 2 ^ 36 % 2 ^ 8 = get up0 (Fld.fabLinkStatusPeerEpoch 3) ∧
      b / 2 ^ 47 % 2 = 0 ∧ b / 2 ^ 24 % 2 = 0) ∧
    crc64 ((wireBytes (BitVec.ofNat 2048 (2 ^ 1984))).take 8) ≠ bits (BitVec.ofNat 2048 (2 ^ 1984)) 1984 64 ∧
    flit0 0 0 / 2 ^ 36 % 2 ^ 8 ≠ get (link0 3) (Fld.fabLinkStatusPeerEpoch 3) ∧
    ((linkAt up0 3).seqRx = flit0 0 0 % 2 ^ 12 ∧ (linkAt up0 3).seqRx ≠ flit0 1 0 % 2 ^ 12 ∧ up0.fab.links.length = 12) ∧
    ((∀ i < 8, (linkAt up0 3).owed.getD i 0 = 0) ∧ (linkAt up0 3).owed.length = 8 ∧ (linkAt up0 3).retry = [] ∧
      (linkAt up0 3).replays < 15) ∧
    (let s := up0.onFab fun f => { f with links := f.links.modify 3 fun l =>
        { l with retry := [(0, 0)], replays := 15, owed := [0, 3, 0, 0, 0, 0, 0, 0] } }
     (linkAt s 3).retry ≠ [] ∧ 15 ≤ (linkAt s 3).replays ∧ (linkAt s 3).owed.getD 1 0 ≠ 0 ∧
       ∀ j < 1, (linkAt s 3).owed.getD j 0 = 0) ∧
    (topoChanges (dev0 0) 5 1 4 = true ∧ topoChanges (dev0 0) 0 1 4 = false ∧ up0.fab.silent = none) ∧
    rxFull up0 3 (List.replicate 242 0) = false := by
  refine ⟨by decide +kernel, by decide +kernel, withCrc_good, by decide +kernel, by decide +kernel, by decide +kernel,
    by decide +kernel, by decide +kernel, by decide +kernel, by decide +kernel, by decide +kernel⟩

/-- All links UP, with credits, and a packet at the head of receive buffer 0. -/
def transit0 (credit : Nat) : State :=
  let s := (List.range 12).foldl (fun s l => set s (Fld.fabLinkStatusState l) 3) boot0
  let s := s.onFab fun f => { f with links := f.links.map fun l => { l with credits := List.replicate 8 credit } }
  onSw s 0x20 fun x => { x with items := [(List.range 32).map fun i => (if i < 2 then bits (BitVec.ofNat 128 (place 0 8 0x01)) (64 * i) 64 else 0, false)] }

theorem witness_PacketForward :
    let p : Packet := ⟨BitVec.ofNat 128 (place 0 8 0x01), []⟩
    let out (s : State) := reHead p (forwardSub s 0 p) (pDirs p)
    (swOf (transit0 9) (0x20 + 0)).items.head?.map itemPkt = some p ∧ mayLeave (transit0 9) (out (transit0 9)) = true ∧
      (swOf (transit0 0) (0x20 + 0)).items.head?.map itemPkt = some p ∧ mayLeave (transit0 0) (out (transit0 0)) = false := by
  decide +kernel

theorem witness_Exits :
    (reaches boot0 0 Fld.fabExitCtlExit.off = true ∧ bit 1#32 0 = true ∧
      (commandWord boot0 0 Fld.fabExitCtlExit.off 1#32).fab.exitWritten = false ∧
      (commandWord (boot0.onFab fun f => { f with exitWritten := true }) 0 Fld.fabExitCtlExit.off 1#32).fab.exitWritten = true) ∧
    (linkState up0 3 = 3 ∧ linkState boot0 3 ≠ 3 ∧ linkState boot0 3 ≠ 4) ∧
    (let s := (link0 4).onFab fun f => { f with topo := [(0, ⟨2, 1, 0, false⟩)] }
     linkState s 3 = 4 ∧ s.fab.links.length = 12 ∧ (topoOf s (linkPeer s 3)).state = 2 ∧ s.fab.pend = [] ∧
       holdsFor s (linkPeer s 3) = false ∧ ∀ x ∈ (linkAt s 3).owed, x = 0) ∧
    (let s := boot0.onFab fun f => { f with exitWritten := true }
     s.fab.exitWritten = true ∧ get s Fld.fabExitCtlDrained = 0) ∧
    (let p : Pend := ⟨9, 7, 0x10, [], 0, 0⟩
     let s := boot0.onFab fun f => { f with pend := [p, ⟨10, 7, 0x12, [], 0, 0⟩, ⟨11, 7, 0x14, [], 0, 0⟩] }
     (s.fab.pend.find? fun p => p.tag = 9 && p.dst = 7) = some p ∧ (4 : Nat) ≠ get s Fld.fabEpochEpoch ∧
       (s.fab.pend.find? fun p => p.tag = 9 && p.dst = 8) = none ∧
       (s.fab.pend.find? fun p => p.tag = 10 && p.dst = 7) = some ⟨10, 7, 0x12, [], 0, 0⟩ ∧
       (s.fab.pend.find? fun p => p.tag = 11 && p.dst = 7) = some ⟨11, 7, 0x14, [], 0, 0⟩ ∧ s.hiu.callMap = [] ∧ s.fab.silent = none) ∧
    (let e : CallEnt := { ent0 with tag := 9, lead := 7, decided := true }
     let s := boot0.onHiu fun h => { h with callMap := [e] }
     (0#8).toNat = get s Fld.fabEpochEpoch ∧ s.fab.pend = [] ∧
       (s.hiu.callMap.find? fun e => e.tag = 9 && e.decided && e.lead = 7 && e.finalN.isNone && !e.finalWritten) = some e ∧
       (∀ e ∈ s.hiu.callMap, e.tag ≠ 0xFFFF) ∧ (∀ e ∈ s.hiu.callMap, e.tag ≠ 8) ∧ outScene ≤ 255 ∧ 3 < outScene) ∧
    (let r : Rest := ⟨2, 10, false, false, []⟩
     (boot0.onUnd fun u => { u with restore := [r] }).und.restore.find? (fun r => r.tag = 10) = some r) := by decide +kernel

/-- A READY Stage Door with a session of its own, and what the session may do. -/
def sdr0 (finished oper : Bool) : State :=
  (set (dev0 0) Fld.sdrStatusState 1).onSdr fun d => { d with sessions := [⟨5, false, 0, finished, oper⟩] }

theorem witness_Sessions :
    (sessOf (sdr0 false false) 5 = some ⟨5, false, 0, false, false⟩ ∧ sdrState (sdr0 false false) = 1) ∧
    auditRoom ((sdr0 true true).onSdr fun d => { d with unpersisted := 1024 }) = false := by decide +kernel

theorem witness_SpdmAnswers :
    (sdrState (sdr0 true true) = 1 ∧ (sdr0 true true).sdr.sessions.length < 4 ∧ auditRoom (sdr0 true true) = true ∧
      (drbgTake (sdr0 true true)).isNone = true ∧
      (drbgTake ((sdr0 true true).onSdr fun d => { d with drbg := some 2 })).isSome = true) ∧
    (sessOf (sdr0 true true) 5 = some ⟨5, false, 0, true, true⟩ ∧ sessOf (sdr0 true true) 6 = none) ∧
    (4 ≤ ((sdr0 true true).onSdr fun d => { d with sessions := List.replicate 4 ⟨5, false, 0, true, true⟩ }).sdr.sessions.length) ∧
    ((sdr0 true true).sdr.chunkHandle = none ∧
      ((sdr0 true true).onSdr fun d => { d with chunkHandle := some (7, 2) }).sdr.chunkHandle = some (7, 1 + 1)) := by
  refine ⟨⟨by decide +kernel, by decide +kernel, by decide +kernel, by decide +kernel, rfl⟩, by decide +kernel,
    by decide +kernel, by decide +kernel⟩

theorem witness_VendorRequests :
    (sdrState (sdr0 false false) = 1 ∧ sessOf (sdr0 false false) 5 = some ⟨5, false, 0, false, false⟩) ∧
    (sessOf (sdr0 true true) 5 = some ⟨5, false, 0, true, true⟩ ∧ auditRoom (sdr0 true true) = true ∧
      (sdr0 true true).sdr.hk = none ∧ (sdr0 true true).sdr.zeroing = false) ∧
    (sealedMode (sdr0 true true) = false ∧ (sdr0 true true).sdr.keys.get? 1 = none ∧
      ((sdr0 true true).onSdr fun d => { d with keys := [(1, 8)] }).sdr.keys.get? 1 = some 8 ∧
      sealedMode (set (sdr0 true true) Fld.sdrStatusSealed 1) = true) ∧
    (floorMay (sdr0 true true) 0 = true ∧ floorMay (sdr0 true true) 9 = false ∧
      ((fieldsAt 0 Fld.lgtCapCapMw.off).filter fun f => f.acc = .rwl) = [] ∧
      ((fieldsAt 0 Fld.fltInjectCode.off).filter fun f => f.acc = .rwl) ≠ []) := by decide +kernel

theorem witness_KeysAndZeroise :
    (let v := 1#32
     let u := commandWord (sdr0 true true) 0 Fld.sdrZeroCtlZeroise.off v
     reaches (sdr0 true true) 0 Fld.sdrZeroCtlZeroise.off = true ∧ auditRoom u = true ∧ sdrState u ≠ 3 ∧ u.sdr.zeroing = false ∧
       bit v 0 = true ∧ bit v 1 = false ∧ bit 2#32 0 = false ∧ bit 2#32 1 = true) ∧
    (let s := set ((sdr0 true true).onSdr fun d => { d with zeroing := true }) Fld.fabExitCtlDrained 1
     s.sdr.zeroing = true ∧ get s Fld.fabExitCtlDrained = 1) ∧
    (let s := (sdr0 true true).onSdr fun d => { d with hk := some 3 }
     let u := commandWord s 0 Fld.sdrTkeyImportImport.off 1#32
     reaches s 0 Fld.sdrTkeyImportImport.off = true ∧ auditRoom u = true ∧ cryptoOn u = true ∧ importBusy u = false ∧
       importBusy (commandWord (set s Fld.sdrTkeyResultResult 2) 0 Fld.sdrTkeyImportImport.off 1#32) = true ∧
       (houseKey u "TENANTWRAP" 256).isSome = true) ∧
    (reaches (sdr0 true true) 0 Fld.sdrFloorSeq.off = true ∧ sealedMode (sdr0 true true) = false ∧ auditRoom (sdr0 true true) = true ∧
      floorMay (sdr0 true true) (0#32).toNat = true ∧ floorMay (sdr0 true true) (9#32).toNat = false ∧
      sealedMode (set (sdr0 true true) Fld.sdrStatusSealed 1) = true ∧
      reaches (set (sdr0 true true) Fld.sdrStatusSealed 1) 0 Fld.sdrFloorSeq.off = true ∧
      sdrState (set boot0 Fld.sdrStatusState 3) = 3 ∧ sdrState (sdr0 true true) ≠ 3 ∧ (sdr0 true true).sdr.zeroing = false ∧
      get (sdr0 true true) Fld.fabExitCtlDrained = 0) ∧
    (let s := (sdr0 true true).onSdr fun d => { d with audit := [9], unpersisted := 1 }
     keepLast (s.sdr.unpersisted - s.sdr.handed) s.sdr.audit = [9]) := by
  refine ⟨by decide +kernel, by decide +kernel, ⟨by decide +kernel, by decide +kernel, by decide +kernel, by decide +kernel,
    by decide +kernel, rfl⟩, by decide +kernel, by decide +kernel⟩

/-! The Understudy, the Stageplot and the Prompt Book. -/

/-- The lead with a snapshot of cue 5 in a state of UND_STATUS. -/
def und0 (k : Nat) (f : Und → Und) : State := (set (dev0 0) Fld.undStatusState k).onUnd f

/-- A SNAP message of cue 5. -/
def snap0 (cue : Nat) : CueTok := BitVec.ofNat 128 (place 0 8 0x13 + place 64 48 cue)

def mf0 : Manifest := ⟨4, 5, 1, 49, [⟨1, 0, 0, 0, 0, 4, 9, (0, 0), (0, 0)⟩], []⟩

theorem witness_Snapshots :
    (snapBad (snap0 5) = false ∧ snapCue (snap0 5) = snapCue (snap0 5) ∧ snapBad (0 : CueTok) = true) ∧
    (let s := und0 1 id
     ofCompany s 1 4 = true ∧ ofCompany s 1 5 = false ∧ undState s = 1 ∧ 1 ∉ s.und.copiedBy ∧
       (0 ∈ memberDevs s ∧ 0 ∉ s.und.copiedBy) ∧ 1 ∉ s.und.mfAcks) ∧
    (let s := und0 1 fun u => { u with copiedBy := [0] }
     1 ∉ s.und.copiedBy ∧ ∀ d ∈ memberDevs s, d ∈ s.und.copiedBy ∨ d = 1) ∧
    (let s := und0 2 fun u => { u with mfAcks := [0], snapSeq := 1, manifests := [mf0] }
     undState s = 2 ∧ (∀ d ∈ memberDevs s, d ∈ s.und.mfAcks ∨ d = 1) ∧
       (s.und.manifests.find? fun m => m.company = ownId s && m.snapSeq = s.und.snapSeq) = some mf0) ∧
    (reaches (dev0 0) 0 Fld.undCtlForce.off = true ∧ bit 4#32 2 = true ∧ (dev0 0).und.copying = false) := by decide +kernel

theorem witness_SnapshotCopies :
    (let s := boot0.onUnd fun u => { u with copying := true, frozen := [7], frozenPages := [3] }
     s.und.copying = true ∧ domLit s 60 = true ∧ isLead s = false ∧ 7 ∈ s.und.frozen ∧ 3 ∈ s.und.frozenPages ∧
       (dark0 60 s).und.copying = true ∧ domLit (dark0 60 s) 60 = false) ∧
    (let s := und0 1 fun u => { u with copying := true }
     s.und.copying = true ∧ domLit s 60 = true ∧ isLead s = true ∧ undState s = 1 ∧ selfDev s ∉ s.und.copiedBy ∧
       (1 ∈ memberDevs s ∧ 1 ∉ s.und.copiedBy ∧ 1 ≠ selfDev s)) ∧
    (let s := (und0 1 id).onCue fun c => { c with num := 4000 }
     isLead s = true ∧ isLead (dev0 1) = false ∧ undState s ≠ 0 ∧ s.und.cutCue + max 1 (get s Fld.undTimeoutCues) ≤ cueNum s ∧
       cueNum (und0 1 id) < (und0 1 id).und.cutCue + max 1 (get (und0 1 id) Fld.undTimeoutCues)) ∧
    (let s := set (und0 0 fun u => { u with draining := [1] }) Fld.undStatusDraining 1
     get s Fld.undStatusDraining = 1 ∧ s.lgt.throttle = false ∧ s.und.draining ≠ [] ∧ cryptoOn s = true ∧ domLit s 60 = true ∧
       domLit (dark0 60 s) 60 = false ∧ (dark0 60 s).lgt.throttle = false ∧ get (dark0 60 s) Fld.undStatusDraining = 1 ∧
       get (und0 0 id) Fld.undStatusDraining = 0) ∧
    (get (set (dev0 0) Fld.plyWloadStatusState 3) Fld.plyWloadStatusState = 3 ∧
      domLit (dark0 60 (set (dev0 0) Fld.plyWloadStatusState 3)) 60 = false ∧ get (dev0 0) Fld.plyWloadStatusState ≠ 3) := by
  decide +kernel

/-- A manifest of Company 4 with one shard of four bytes whose digest is that of its bytes. -/
def shard0 : Shard := ⟨1, 0, 0, 0, 7, 4, Config.sha384 [1, 2, 3, 4], (0, 0), (0, 0)⟩

theorem witness_Restores :
    (let s := (dev0 0).onHiu fun h => { h with callMap := [ent0] }
     entOf (dev0 0) 5 0x1F40 = none ∧ entOf s 5 0x1F40 = some ent0 ∧ ent0.finalN = none ∧ ent0.finalWritten = false) ∧
    (entOf ((dev0 0).onHiu fun h => { h with callMap := [{ ent0 with finalWritten := true }] }) 5 0x1F40 =
      some { ent0 with finalWritten := true }) ∧
    (let s := (dev0 0).onHiu fun h => { h with callMap := [{ ent0 with restored := true }] }
     entOf s 5 0x1F40 = some { ent0 with restored := true }) ∧
    ((dev0 0).und.manifests = [] ∧ (dev0 0).und.transfers = [] ∧ get (dev0 0) Fld.fabEpochEpoch ≠ 4 ∧ (dev0 0).fab.pend = []) ∧
    (reaches (dev0 0) 0 Fld.undHostCtlGo.off = true ∧ bit 1#32 0 = true ∧
      isLead (commandWord (dev0 0) 0 Fld.undHostCtlGo.off 1#32) = true ∧ isLead (dev0 1) = false ∧
      parseManifest (readBytes (dev0 0) 0 224) = none) := by decide +kernel

theorem witness_ShardRead :
    let m : Manifest := { mf0 with shards := [shard0] }
    let s := (dev0 0).onUnd fun u => { u with manifests := [m], bodies := [(1, [1, 2, 3, 4])] }
    (s.und.manifests.find? fun m => m.company = 4 && m.snapSeq = 1) = some m ∧ m.shards[0]? = some shard0 ∧
      heldShard s shard0 = some [1, 2, 3, 4] ∧ shard0.kind ≠ 2 := by
  refine ⟨rfl, rfl, ?_, by decide⟩
  simp [heldShard, shard0, State.onUnd]

/-- A shard of key and value blocks: two blocks of the size its manifest gives, which is 0 here. -/
theorem witness_ShardBlocks : let x : Shard := { shard0 with kind := 2 }
    x.kind = 2 ∧ [1, 2, 3, 4, 5, 6, 7, (8 : Byte)].length / (4 + fieldAt mf0.raw 0x30 4) = 2 ∧ (1 : Nat) < 2 ∧ 0 < (1 : Nat) := by
  decide +kernel

theorem witness_ShardData :
    let p : Pend := ⟨9, 7, 0x26, [], 0, 0⟩
    let s := ((dev0 0).onFab fun f => { f with pend := [p] }).onUnd fun u => { u with reads := [(9, mf0, shard0)] }
    (s.fab.pend.find? fun p => p.tag = 9 && p.dst = 7) = some p ∧
      (s.und.reads.find? fun r => r.1 = 9) = some (9, mf0, shard0) ∧ [1, 2, 3, 4].length = shard0.length ∧
      Config.sha384 [1, 2, 3, 4] = shard0.digest := by
  refine ⟨rfl, rfl, rfl, rfl⟩

/-- The lead with a shadow set, and one with a scene change under way. -/
def shadow0 (f : Spl → Spl) : State := (dev0 0).onSpl fun p => f { p with shadow := some (plot0 0) }
def scene0 (acc : Bool) : Scene := ⟨4, 5, 0, [], [], acc, [], false, [0, 1], [], []⟩

theorem witness_Stageplot :
    (let u := commandWord (dev0 0) 0 Fld.splLoadCtlLoad.off 1#32
     reaches (dev0 0) 0 Fld.splLoadCtlLoad.off = true ∧ bit 1#32 0 = true ∧ auditRoom u = true ∧
       get u Fld.splLoadStatusResult ∉ [1, 6]) ∧
    (let s := set (dev0 0) Fld.splLoadStatusResult 1
     get (commandWord s 0 Fld.splLoadCtlLoad.off 1#32) Fld.splLoadStatusResult ∈ [1, 6] ∧ get s Fld.splLoadStatusResult = 1 ∧
       domLit s 62 = true ∧ domLit (dark0 62 s) 62 = false ∧ get (dark0 62 s) Fld.splLoadStatusResult = 1 ∧
       imageVerdict s s.spl.image = some (3, 0) ∧ get (dev0 0) Fld.splLoadStatusResult ≠ 1) ∧
    (let u := commandWord (dev0 0) 0 Fld.splSwapCtlReq.off 1#32
     reaches (dev0 0) 0 Fld.splSwapCtlReq.off = true ∧ bit 1#32 0 = true ∧ bit 1#32 1 = false ∧ u.spl.scene = none ∧ u.spl.passed = none ∧
       get u Fld.splSwapAtLoV + get u Fld.splSwapAtHiV = 0) ∧
    (let s := (dev0 0).onSpl fun p => { p with passed := some (4, 9, 1) }
     (commandWord s 0 Fld.splSwapCtlReq.off 1#32).spl.passed.isSome = true) ∧
    (let w := commandWord (dev0 0) 0 Fld.splSwapCtlReq.off 3#32
     bit 3#32 1 = true ∧ (cancelSwap w).spl.scene = none ∧ (cancelSwap w).spl.passed = none) ∧
    (let s := (set (dev0 0) Fld.splSwapAtLoV 1).onCue fun c => { c with num := 9 }
     let u := commandWord (s.setSt (2 ^ 50)) 0 Fld.splSwapCtlReq.off 1#32
     launchSt u (swapCue u) ≤ u.st ∧ get u Fld.splSwapAtLoV + get u Fld.splSwapAtHiV ≠ 0) ∧
    (let s := set ((dev0 0).onSpl fun p => { p with swapAt := some (100, 0) }) Fld.cuePeriodNsV 2000000
     let u := commandWord s 0 Fld.splSwapCtlCancel.off 2#32
     reaches s 0 Fld.splSwapCtlCancel.off = true ∧ bit 2#32 0 = false ∧ bit 2#32 1 = true ∧ u.spl.swapAt = some (100, 0) ∧
       u.st < launchSt u 100 ∧ launchSt (u.setSt (2 ^ 50)) 100 ≤ 2 ^ 50 ∧ (dev0 0).spl.swapAt = none) ∧
    (let u := commandWord (shadow0 id) 0 Fld.splSceneCtlStart.off 1#32
     reaches (shadow0 id) 0 Fld.splSceneCtlStart.off = true ∧ isShadowLead u = true ∧ shadowOwn u = some co0 ∧
       u.spl.scene = none ∧ get u Fld.splSceneStatusState ≠ 5 ∧
       (∀ d ∈ shadowDevs u ++ activeDevs u co0.id, d = selfDev u ∨ present u d = false) ∧
       (sceneVerdict (sceneLocal u co0.id (sceneCue u))).isSome = true) ∧
    isShadowLead (commandWord (dev0 0) 0 Fld.splSceneCtlStart.off 1#32) = false ∧
    (commandWord (shadow0 fun p => { p with scene := some (scene0 true) }) 0 Fld.splSceneCtlStart.off 1#32).spl.scene.isSome
      = true := by decide +kernel

/-- A set whose Company is its lead alone. -/
def plot1 : Plot := { plot0 0 with companies := [{ co0 with members := [⟨0, 0, 0⟩] }] }

theorem witness_SceneAccepted :
    let s := set (((dev0 0).onSpl fun p => { p with shadow := some plot1, active := some plot1 }).onCue
      fun c => { c with first := 8 }) Fld.cuePeriodNsV 2000000
    let u := commandWord s 0 Fld.splSceneCtlStart.off 1#32
    isShadowLead u = true ∧ u.spl.scene = none ∧ (∀ d ∈ shadowDevs u ++ activeDevs u 4, d = selfDev u) ∧
      sceneVerdict (sceneLocal u 4 (sceneCue u)) = none := by decide +kernel

theorem witness_Scenes :
    (let s := shadow0 fun p => { p with scene := some (scene0 true) }
     s.spl.shadow = some (plot0 0) ∧ s.spl.scene = some (scene0 true) ∧ get s Fld.splSceneStatusState ∈ [0, 1, 4, 5] ∧
       get (set s Fld.splSceneStatusState 3) Fld.splSceneStatusState = 3 ∧ 1 ∈ shadowDevs s ∧ 1 ∉ (scene0 true).applied ∧
       (0 ∈ shadowDevs s ∧ 0 ∉ (scene0 true).applied ∧ 0 ≠ 1)) ∧
    (∀ d ∈ shadowDevs (shadow0 id), d ∈ [0] ∨ d = 1) ∧ (shadow0 id).spl.scene = none ∧
    ((scene0 true).accepted = true ∧ (scene0 false).accepted = false) := by decide +kernel

/-- A change that was accepted and waits for its members, and the states in which APPLY_DONE means nothing to it. -/
theorem witness_Applied :
    (let s := set (shadow0 fun p => { p with scene := some (scene0 true) }) Fld.splSceneStatusState 3
     s.spl.shadow = some (plot0 0) ∧ s.spl.scene = some (scene0 true) ∧ get s Fld.splSceneStatusState = 3) ∧
    (shadowOwn (shadow0 id) = some co0 ∧ co0.lead = some 0 ∧ selfDev (applyShadow (shadow0 id)) = 0 ∧
      (shadow0 id).spl.scene = none) ∧
    (let s := set (shadow0 id) Fld.fabSelfDevice 1
     (shadowOwn s).bind CompanyInfo.lead = some 0 ∧ selfDev (applyShadow s) = 1) ∧
    (shadowOwn ((dev0 0).onSpl fun p => { p with shadow := some { plot0 0 with company := 0xFFFF } }) = none) := by decide +kernel

theorem witness_Replays :
    (let u := commandWord (dev0 0) 0 Fld.pbkReplayCtlGo.off 1#32
     reaches (dev0 0) 0 Fld.pbkReplayCtlGo.off = true ∧ bit 1#32 0 = true ∧ isLead u = true ∧ replaying u = false ∧
       u.stm.board = [] ∧ parseManifest (readBytes u 0 224) = none ∧ isLead (dev0 1) = false) ∧
    (let s := set (dev0 0) Fld.pbkReplayStatusState 2
     replaying (commandWord s 0 Fld.pbkReplayCtlGo.off 1#32) = true ∧ reaches s 0 Fld.pbkReplayCtlAbort.off = true ∧
       bit 2#32 1 = true) := by decide +kernel

/-! Whole-machine statements. -/

theorem idle_device_meets_inv : Inv (dev0 0) ∧ (dev0 0).pending = [] := by
  refine ⟨⟨?_, ?_, ?_⟩, ?_⟩ <;> decide +kernel

theorem time_moves : boot0.cue.launched = false ∧ (boot0.onCue fun c => { c with launched := true }).cue.launched = true ∧
    resets .cueLaunch = false := by decide +kernel

theorem epochs_wrap : newerEpoch 0x01 0xFF = true ∧ newerEpoch 0xFF 0x01 = false ∧ newerEpoch 0x80 0x01 = true ∧
    newerEpoch 0x81 0x01 = false := by decide

/-! Ill-formed commands. -/

theorem wf_registerWrite : (Instr.registerWrite 5 0x4000 0xF#4 0).wf = false ∧ (Instr.registerWrite 0 0x1FFFFFE 0xF#4 0).wf = false ∧
    (Instr.registerWrite 0 0x2000000 0xF#4 0).wf = false ∧ (Instr.registerWrite 0 0x1FFFFFC 0xF#4 0).wf = true := by decide +kernel

theorem wf_tokens : (Instr.promptPullDone 5 1 [0x1000000#32] false false).wf = false ∧
    (Instr.prompt 0 5 1 0 [0x1000000#32]).wf = false ∧ (Instr.prompt 0 5 1 0 (List.replicate 1025 0)).wf = false := by decide +kernel

theorem wf_counts : (Instr.completion []).wf = false ∧ (Instr.completion (List.replicate 257 0)).wf = false ∧
    (Instr.chunkDone 0 []).wf = false ∧ (Instr.line 0 5 []).wf = false ∧ (Instr.credit 0 []).wf = false ∧
    (Instr.credit 0 (List.replicate 513 (0, 0, 1))).wf = false ∧ (Instr.cueList 0 []).wf = false ∧
    (Instr.tempSample (List.replicate 65 0)).wf = false ∧ (Instr.tempSample [1024]).wf = false := by decide +kernel

theorem wf_lists : (Instr.localPass 2 64 (req0 0) [] [[], [], [], [], []] false false).wf = false ∧
    (Instr.candList 0 2 5 64 8 0 true false false [] []).wf = false ∧
    (Instr.candList 0 2 5 64 0 4 true false false [] []).wf = false ∧
    (Instr.candList 0 2 5 64 0 0 true false false (List.replicate 511 (0, 0)) []).wf = false ∧
    (Instr.candList 0 2 5 64 0 0 true false false [] (List.replicate 5 none)).wf = false := by decide +kernel

theorem wf_bytes : (Instr.partials 0 3 7 0 (List.replicate 4081 0) false false).wf = false ∧
    (Instr.transfer 0 1 0 (List.replicate 4081 0) false).wf = false ∧
    (Instr.activation 0 5 false [(2, 64)] 0 0 false false false ⟨true, 0, List.replicate 4081 0, false⟩).wf = false ∧
    (Instr.copied 0 4 5 (List.replicate 129 shard0)).wf = false := by decide +kernel

theorem wf_instances : (Instr.swaleWrite 7 []).wf = false ∧ (Instr.swaleRead 6 ).wf = false ∧ (Instr.mark 20).wf = false ∧
    (Instr.rewind 0x1F).wf = false ∧ (Instr.release 0xA2 1).wf = false ∧ (Instr.pointerMismatch 0xFF).wf = false ∧
    (Instr.swaleReset 0x1C0 1).wf = false ∧ (Instr.flushDone 7).wf = false ∧ (Instr.holdDone 7).wf = false := by decide +kernel

theorem wf_kinds : (Instr.blockSet tableClear0).wf = false ∧ (Instr.tableClear blockSet0).wf = false ∧ (Instr.snap blockSet0 5).wf = false ∧
    (Instr.card 0 5 0 0 0).wf = false ∧ (Instr.topologyUpdate 3 5 4 1).wf = false ∧ (Instr.pcieLinkUp 17 6).wf = false ∧
    (Instr.pcieLinkUp 16 7).wf = false := by decide +kernel

end Sys2Proof.Tests
end

section
/-!
SUPPORT. What the operations behind the doorbells, the loss of the host and a Function Level Reset leave of the HIU's state: its
rings, its Call Map and its grace timers.
-/
namespace Sys2Proof.Machine

/-- A fold keeps what each of its steps keeps. -/
theorem foldl_keeps {α β : Type} (p : State → β) (g : State → α → State) (h : ∀ s a, p (g s a) = p s) (l : List α) :
    ∀ s, p (l.foldl g s) = p s := by
  induction l with
  | nil => intro s; rfl
  | cons a l ih => intro s; exact (ih _).trans (h s a)

theorem bits_lt {n : Nat} (v : BitVec n) (lo w : Nat) : bits v lo w < 2 ^ w := Nat.mod_lt _ (Nat.two_pow_pos w)

/-- A field reads back a value that fits it. -/
theorem get_set_of_lt (s : State) (f : Fld) (v : Nat) (h : v < 2 ^ f.width) : get (set s f v) f = v := by
  rw [get_set_same, Nat.mod_eq_of_lt h]

/-! Operations that leave the HIU's own state alone. -/

theorem wmUpdate_hiu (s : State) (i : Nat) : (wmUpdate s i).hiu = s.hiu := (wmUpdate_fp rfl s i (Fp.refl 524289 s)).hiu rfl

theorem returnCredits_hiu (s : State) (fn : Nat) (calls : List CallEnt) : (returnCredits s fn calls).hiu = s.hiu :=
  (returnCredits_fp rfl s fn calls (Fp.refl 1049609 s)).hiu rfl

theorem cancelCall_hiu (s : State) (e : CallEnt) (code : Nat) : (cancelCall s e code).hiu = s.hiu :=
  (cancelCall_fp rfl s e code (Fp.refl 1573893 s)).hiu rfl

theorem graceHeath_hiu (s : State) : (graceHeath s).hiu = s.hiu := (graceHeath_fp rfl s (Fp.refl 1049609 s)).hiu rfl

theorem setEach_hiu (f : Nat → Fld) (v : Nat) (fns : List Nat) (s : State) :
    (fns.foldl (fun s n => set s (f n) v) s).hiu = s.hiu :=
  foldl_keeps (·.hiu) (fun s n => set s (f n) v) (fun _ _ => rfl) fns s

/-! Rings. -/

theorem ringOf_congr {s t : State} (h : t.hiu.rings = s.hiu.rings) (fn n : Nat) : ringOf t fn n = ringOf s fn n := by
  unfold ringOf
  rw [h]

@[simp] theorem ringOf_putRing_same (s : State) (fn n : Nat) (r : Ring) : ringOf (putRing s fn n r) fn n = r :=
  AMap.getD_setD_same _ _ _ _

theorem doorbell_of_lt {s : State} {fn size : Nat} {v : Word} (hf : fn ∉ s.hiu.flr) (h : bits v 0 16 < size) :
    doorbell s fn size v = some (bits v 0 16) := if_pos ⟨h, hf⟩

theorem doorbell_of_le {s : State} {fn size : Nat} {v : Word} (h : size ≤ bits v 0 16) : doorbell s fn size v = none :=
  if_neg fun c => absurd c.1 (Nat.not_lt.2 h)

theorem doorbellErr_eq_set {s : State} {fn : Nat} (hf : fn ∉ s.hiu.flr) :
    doorbellErr s fn = set s (Fld.fnStatusDbErr fn) 1 := if_neg hf

/-- To release more entries than are held is to release all of them. -/
theorem drop_min_length {α : Type} (l : List α) (k : Nat) : l.drop (min l.length k) = l.drop k := by
  rcases Nat.le_total l.length k with h | h
  · rw [Nat.min_eq_left h, List.drop_length, List.drop_eq_nil_of_le h]
  · rw [Nat.min_eq_right h]

/-- The Call Map entries that FINAL Notices free leave every ring as it was. -/
theorem freeFinals_rings (fn : Nat) (ids : List Nat) (s : State) :
    (ids.foldl (fun s id => if id % 2 = 1 then dropEnt s fn (id / 2) else s) s).hiu.rings = s.hiu.rings :=
  foldl_keeps (·.hiu.rings) _ (fun s id => by split <;> rfl) ids s

theorem freeFinals_get (fn : Nat) (ids : List Nat) (s : State) (f : Fld) :
    get (ids.foldl (fun s id => if id % 2 = 1 then dropEnt s fn (id / 2) else s) s) f = get s f :=
  get_foldl f _ (fun s id => by split <;> rfl) ids s

/-! Host queues: no operation on one touches a grace timer. -/

theorem acceptHq_grace (s : State) (k : Nat) : (acceptHq s k).hiu.grace = s.hiu.grace := by
  unfold acceptHq
  split <;> rfl

theorem hqHead_grace (s : State) (k : Nat) : (hqHead s k).hiu.grace = s.hiu.grace := by
  unfold hqHead
  rw [wmUpdate_hiu, set_hiu, acceptHq_grace]

theorem abortQueue_grace (s : State) (k : Nat) : (abortQueue s k).hiu.grace = s.hiu.grace := by
  unfold abortQueue
  split
  · rfl
  · rw [hqHead_grace]
    rfl

theorem abortQueues_grace (s : State) : (abortQueues s).hiu.grace = s.hiu.grace :=
  foldl_keeps (·.hiu.grace) _ abortQueue_grace _ s

/-! Loss of the host. -/

/-- A grace timer for every function for which none runs (log entry 40), started at `t`. -/
def startGrace (grace : List (Nat × Nat)) (t : Nat) : List (Nat × Nat) :=
  grace ++ (allFns.filter fun f => !grace.any fun g => g.1 = f).map fun f => (f, t)

/-- The state after a loss of the host, before this member's Heath spills end. -/
def hostGone (s : State) : State :=
  allFns.foldl (fun s f => set s (Fld.fnStatusGrace f) 1)
    ((abortQueues (set (linkGone s) Fld.hiuLinkStatusHostAbsent 1)).onHiu fun h => { h with
      hostLost := true, grace := startGrace h.grace s.st })

theorem hostGone_fp (s : State) : Fp 524291 s (hostGone s) := by
  unfold hostGone
  refine foldl_fp _ _ (fun _ _ h => set_fp rfl _ _ _ h) (onHiu_fp rfl _ _ ?_)
  exact abortQueues_fp rfl _ (set_fp rfl _ _ _ (linkGone_fp rfl _ (Fp.refl _ s)))

theorem hostGone_hostLost (s : State) : (hostGone s).hiu.hostLost = true := by
  unfold hostGone
  rw [setEach_hiu]
  rfl

theorem hostGone_grace (s : State) : (hostGone s).hiu.grace = startGrace s.hiu.grace s.st := by
  unfold hostGone
  rw [setEach_hiu, State.onHiu_hiu, abortQueues_grace]
  rfl

theorem isLead_congr {s t : State} (h : t.spl = s.spl) : isLead t = isLead s := by
  unfold isLead
  rw [h]

/-- The slots whose Heath spill on this member ends with the host. -/
def spillSlots (s : State) : List Nat :=
  if isLead s then (s.stm.board.filter fun c => c.heath = .spilling).map (·.slot) else s.mdw.spills.map (·.slot)

theorem loseHost_eq {s : State} (hup : s.hiu.hostLost = false) : loseHost s =
    (spillSlots (hostGone s)).foldl (fun s x => toLead s 8 x 1 fun s => leadSpilled s (selfDev s) x 1) (hostGone s) :=
  if_neg (by rw [hup]; exact Bool.false_ne_true)

/-- With no spill of this member in progress, nothing follows the loss. -/
theorem loseHost_of_no_spill {s : State} (hup : s.hiu.hostLost = false)
    (hlead : isLead s = true → ∀ c ∈ s.stm.board, c.heath ≠ .spilling) (hmember : isLead s = false → s.mdw.spills = []) :
    loseHost s = hostGone s := by
  have fp := hostGone_fp s
  have hslots : spillSlots (hostGone s) = [] := by
    unfold spillSlots
    rw [isLead_congr (fp.spl rfl), fp.stm rfl, fp.mdw rfl]
    split
    · rename_i h
      simpa using hlead h
    · rename_i h
      simpa using hmember (by simpa using h)
  rw [loseHost_eq hup, hslots, List.foldl_nil]

theorem subset_startGrace (grace : List (Nat × Nat)) (t : Nat) : ∀ g ∈ grace, g ∈ startGrace grace t :=
  fun _ h => List.mem_append_left _ h

theorem mem_startGrace_of_none {grace : List (Nat × Nat)} {f : Nat} (t : Nat) (hf : f < 128) (h : ∀ g ∈ grace, g.1 ≠ f) :
    (f, t) ∈ startGrace grace t := by
  refine List.mem_append_right _ (List.mem_map.2 ⟨f, List.mem_filter.2 ⟨List.mem_range.2 hf, ?_⟩, rfl⟩)
  simpa using h

/-! The Calls of a function leave the Call Map. -/

/-- Of the HIU, the end of a Call's grace touches its Call Map entry and the rings' reservations alone. -/
theorem graceEnds_hiu (code : Nat) (s : State) (e : CallEnt) : ∃ rings, (graceEnds code s e).hiu =
    { s.hiu with
      rings := rings, callMap := s.hiu.callMap.filter fun x => !(decide (x.fn = e.fn) && decide (x.callId = e.callId)) } := by
  unfold graceEnds
  rw [cancelCall_hiu]
  split
  · exact ⟨_, rfl⟩
  · exact ⟨_, rfl⟩

theorem graceEnds_st (code : Nat) (s : State) (e : CallEnt) : (graceEnds code s e).st = s.st :=
  (graceEnds_fp rfl code s e (Fp.refl 1573895 s)).st rfl

/-- The entries of these Calls go, and no other. -/
theorem graceEnds_foldl_hiu (code : Nat) (es : List CallEnt) : ∀ s : State, ∃ rings, (es.foldl (graceEnds code) s).hiu =
    { s.hiu with
      rings := rings
      callMap := s.hiu.callMap.filter fun x => es.all fun e => !(decide (x.fn = e.fn) && decide (x.callId = e.callId)) } := by
  induction es with
  | nil => exact fun s => ⟨s.hiu.rings, by simp⟩
  | cons e es ih =>
    intro s
    obtain ⟨r₁, h₁⟩ := graceEnds_hiu code s e
    obtain ⟨r₂, h₂⟩ := ih (graceEnds code s e)
    refine ⟨r₂, ?_⟩
    rw [List.foldl_cons, h₂, h₁]
    simp only [List.filter_filter, List.all_cons, Bool.and_comm]

/-- When every Call of the functions in `p` ends, the Calls of the others are left. -/
theorem endCalls_hiu (code : Nat) (p : Nat → Bool) (s : State) : ∃ rings,
    ((s.hiu.callMap.filter fun e => p e.fn).foldl (graceEnds code) s).hiu =
      { s.hiu with rings := rings, callMap := s.hiu.callMap.filter fun e => !p e.fn } := by
  have hleft : (s.hiu.callMap.filter fun x => (s.hiu.callMap.filter fun e => p e.fn).all fun e =>
      !(decide (x.fn = e.fn) && decide (x.callId = e.callId))) = s.hiu.callMap.filter fun e => !p e.fn := by
    refine List.filter_congr fun x hx => ?_
    rw [Bool.eq_iff_iff, List.all_eq_true, Bool.not_eq_true']
    constructor
    · intro hall
      by_contra hp
      simpa using hall x (List.mem_filter.2 ⟨hx, by simpa using hp⟩)
    · intro hp e he
      have hne : x.fn ≠ e.fn := fun c => by simp [← c, hp] at he
      simp [hne]
  rw [← hleft]
  exact graceEnds_foldl_hiu code _ s

/-- The functions whose grace timers started at `first`. -/
def graceFns (s : State) (first : Nat) : List Nat := (s.hiu.grace.filter fun x => x.2 = first).map Prod.fst

theorem mem_graceFns {s : State} {first f : Nat} : f ∈ graceFns s first ↔ (f, first) ∈ s.hiu.grace := by
  simp [graceFns]

/-- The Calls of the functions `fs` end, with the outcome slots of their undecided SUBMITs. -/
def endGrace (s : State) (fs : List Nat) : State :=
  dropSlots ((s.hiu.callMap.filter fun e => decide (e.fn ∈ fs)).foldl (graceEnds stHostLost) s) fs

theorem endGrace_hiu (s : State) (fs : List Nat) : ∃ rings outcomes, (endGrace s fs).hiu = { s.hiu with
    rings := rings, outcomes := outcomes, callMap := s.hiu.callMap.filter fun e => !decide (e.fn ∈ fs) } := by
  obtain ⟨r, h⟩ := endCalls_hiu stHostLost (fun f => decide (f ∈ fs)) s
  refine ⟨r, s.hiu.outcomes.filter fun o => !(o.made && decide (o.fn ∈ fs)), ?_⟩
  unfold endGrace dropSlots
  rw [State.onHiu_hiu, h]

theorem endGrace_st (s : State) (fs : List Nat) : (endGrace s fs).st = s.st :=
  foldl_keeps (·.st) _ (graceEnds_st stHostLost) _ s

/-- The grace timers of the functions `fs` end, and the counts of their Calls are noted. -/
def clearGrace (s : State) (fs : List Nat) (counts : List (Nat × Nat)) : State :=
  (fs.foldl (fun s f => set s (Fld.fnStatusGrace f) 0) s).onHiu fun h => { h with
    grace := h.grace.filter (fun x => decide (x.1 ∉ fs))
    unread := h.unread.filter (fun x => decide (x.1 ∉ fs)), redo := h.redo.filter (fun x => decide (x.1 ∉ fs))
    expired := h.expired.filter (fun x => decide (x.1 ∉ fs)) ++ counts }

theorem clearGrace_st (s : State) (fs : List Nat) (counts : List (Nat × Nat)) : (clearGrace s fs counts).st = s.st :=
  foldl_keeps (·.st) (fun s f => set s (Fld.fnStatusGrace f) 0) (fun _ _ => rfl) fs s

/-- Heath entries are given up only where the host stays away; this touches neither the HIU nor the time. -/
def graceHeathIf (s : State) : State := if s.hiu.hostLost then graceHeath s else s

theorem graceHeathIf_fp (s : State) : Fp 1049609 s (graceHeathIf s) :=
  ite_fp (graceHeath_fp rfl s (Fp.refl _ s)) (Fp.refl _ s)

/-- How many of a function's Calls have not ended (R110). -/
def liveCalls (s : State) (f : Nat) : Nat := (s.hiu.callMap.filter fun e => e.fn = f && entLive e).length

/-- The state after the grace timers that started at `first` have ended. -/
def graceOver (s : State) (first : Nat) : State :=
  let fs := graceFns s first
  graceHeathIf (clearGrace (endGrace (s.setSt (max s.st (graceEnd s first))) fs) fs (fs.map fun f => (f, liveCalls s f)))

theorem graceOver_st (s : State) (first : Nat) : (graceOver s first).st = max s.st (graceEnd s first) := by
  unfold graceOver
  rw [(graceHeathIf_fp _).st rfl, clearGrace_st, endGrace_st, State.setSt_st]

theorem graceOver_hiu (s : State) (first : Nat) :
    (graceOver s first).hiu.grace = s.hiu.grace.filter (fun x => decide (x.1 ∉ graceFns s first)) ∧
    (graceOver s first).hiu.callMap = s.hiu.callMap.filter (fun e => !decide (e.fn ∈ graceFns s first)) ∧
    (graceOver s first).hiu.expired = s.hiu.expired.filter (fun x => decide (x.1 ∉ graceFns s first)) ++
      (graceFns s first).map fun f => (f, liveCalls s f) := by
  unfold graceOver clearGrace
  rw [(graceHeathIf_fp _).hiu rfl, State.onHiu_hiu, setEach_hiu]
  obtain ⟨r, o, h⟩ := endGrace_hiu (s.setSt (max s.st (graceEnd s first))) (graceFns s first)
  rw [h]
  exact ⟨rfl, rfl, rfl⟩

/-- Among the Calls of `fs`, those of one function are all of that function's. -/
theorem liveCalls_within (s : State) {fs : List Nat} {f : Nat} (hf : f ∈ fs) :
    ((s.hiu.callMap.filter fun e => decide (e.fn ∈ fs)).filter fun e => e.fn = f && entLive e).length = liveCalls s f := by
  unfold liveCalls
  rw [List.filter_filter]
  congr 2
  funext e
  by_cases h : e.fn = f
  · simp [h, hf]
  · simp [h]

theorem exec_graceExpiry_cons {s : State} {g : Nat × Nat} {r : List (Nat × Nat)} (h : s.hiu.grace = g :: r) :
    exec .graceExpiry s = .next (graceOver s (r.foldl (fun a x => min a x.2) g.2)) := by
  have hcounts (fs : List Nat) : (fs.map fun f => (f, ((s.hiu.callMap.filter fun e => decide (e.fn ∈ fs)).filter
      fun e => e.fn = f && entLive e).length)) = fs.map fun f => (f, liveCalls s f) :=
    List.map_congr_left fun f hf => by rw [liveCalls_within s hf]
  unfold graceOver
  dsimp only
  rw [← hcounts]
  change execGraceExpiry s = _
  unfold execGraceExpiry
  split
  · rename_i hn
    exact absurd (h.symm.trans hn) (List.cons_ne_nil _ _)
  · rename_i g' r' hc
    obtain ⟨rfl, rfl⟩ := List.cons.inj (h.symm.trans hc)
    rfl

end Sys2Proof.Machine
end

section
/-!
OBLIGATION O3. Doorbells: in range they take effect, out of range they set DB_ERR and move nothing.
-/
namespace Sys2Proof.Machine

theorem sqTailDoorbell_in_range (fn : Fin 128) (n : Fin 4) (v : Word) (s : State) (hf : fn.val ∉ s.hiu.flr)
    (h : bits v 0 16 < 2 ^ get s (Fld.sqCtlLog2size fn.val n.val)) :
    exec (.sqTailDoorbell fn n v) s = .next (set s (Fld.sqTailIdx fn.val n.val) (bits v 0 16)) := by
  change execSqTailDoorbell fn n v s = _
  unfold execSqTailDoorbell
  rw [doorbell_of_lt hf h]

theorem sqTailDoorbell_out_of_range (fn : Fin 128) (n : Fin 4) (v : Word) (s : State) (hf : fn.val ∉ s.hiu.flr)
    (h : 2 ^ get s (Fld.sqCtlLog2size fn.val n.val) ≤ bits v 0 16) :
    exec (.sqTailDoorbell fn n v) s = .next (set s (Fld.fnStatusDbErr fn.val) 1) := by
  change execSqTailDoorbell fn n v s = _
  unfold execSqTailDoorbell
  rw [doorbell_of_le h, doorbellErr_eq_set hf]

theorem lqHeadDoorbell_out_of_range (fn : Fin 128) (n : Fin 4) (v : Word) (s : State) (hf : fn.val ∉ s.hiu.flr)
    (h : ringSize s fn.val n.val ≤ bits v 0 16) :
    exec (.lqHeadDoorbell fn n v) s = .next (set s (Fld.fnStatusDbErr fn.val) 1) := by
  change execLqHeadDoorbell fn n v s = _
  unfold execLqHeadDoorbell
  rw [doorbell_of_le h, doorbellErr_eq_set hf]

theorem nqHeadDoorbell_out_of_range (fn : Fin 128) (v : Word) (s : State) (hf : fn.val ∉ s.hiu.flr)
    (h : ringSize s fn.val 4 ≤ bits v 0 16) :
    exec (.nqHeadDoorbell fn v) s = .next (set s (Fld.fnStatusDbErr fn.val) 1) := by
  change execNqHeadDoorbell fn v s = _
  unfold execNqHeadDoorbell
  rw [doorbell_of_le h, doorbellErr_eq_set hf]

theorem hqTailDoorbell_out_of_range (k : Fin 4) (v : Word) (descs : List Desc) (s : State)
    (hw : writable s 0 (hqCtlOff k.val) = true) (h : 2 ^ get s (Fld.hqCtlLog2size k.val) ≤ bits v 0 16) :
    exec (.hqTailDoorbell k v descs) s = .next (set s (Fld.fnStatusDbErr 0) 1) := by
  change execHqTailDoorbell k v descs s = _
  unfold execHqTailDoorbell
  simp only [hw, h, Bool.not_true, Bool.false_eq_true, if_false, if_true]

/-- A Line ring's HEAD releases the entries it passes; credits and watermarks leave the ring alone. -/
theorem lqHeadDoorbell_releases (fn : Fin 128) (n : Fin 4) (v : Word) (s : State) (hf : fn.val ∉ s.hiu.flr)
    (h : bits v 0 16 < ringSize s fn.val n.val) :
    ∃ t, exec (.lqHeadDoorbell fn n v) s = .next t ∧
      (ringOf t fn.val n.val).out = (ringOf s fn.val n.val).out.drop
        (headSteps (ringSize s fn.val n.val) (ringOf s fn.val n.val).out.length (get s (Fld.lqHeadIdx fn.val n.val))
          (bits v 0 16)) := by
  rw [← drop_min_length]
  change ∃ t, execLqHeadDoorbell fn n v s = .next t ∧ _
  unfold execLqHeadDoorbell
  rw [doorbell_of_lt hf h]
  refine ⟨_, rfl, ?_⟩
  dsimp only
  rw [ringOf_congr (congrArg Hiu.rings ((wmUpdate_hiu _ _).trans (returnCredits_hiu _ _ _)))]
  exact congrArg Ring.out (ringOf_putRing_same _ _ _ _)

/-- The Notice ring's HEAD takes the index and releases the entries it passes; the Call Map entries freed leave both alone. -/
theorem nqHeadDoorbell_releases (fn : Fin 128) (v : Word) (s : State) (hf : fn.val ∉ s.hiu.flr)
    (h : bits v 0 16 < ringSize s fn.val 4) :
    ∃ t, exec (.nqHeadDoorbell fn v) s = .next t ∧ get t (Fld.nqHeadIdx fn.val) = bits v 0 16 ∧
      (ringOf t fn.val 4).out = (ringOf s fn.val 4).out.drop
        (headSteps (ringSize s fn.val 4) (ringOf s fn.val 4).out.length (get s (Fld.nqHeadIdx fn.val)) (bits v 0 16)) := by
  rw [← drop_min_length]
  change ∃ t, execNqHeadDoorbell fn v s = .next t ∧ _
  unfold execNqHeadDoorbell
  rw [doorbell_of_lt hf h]
  refine ⟨_, rfl, ?_, ?_⟩
  · dsimp only
    rw [freeFinals_get]
    exact get_set_of_lt s (Fld.nqHeadIdx fn.val) _ (bits_lt v 0 16)
  · dsimp only
    rw [ringOf_congr (freeFinals_rings _ _ _)]
    exact congrArg Ring.out (ringOf_putRing_same _ _ _ _)

/-- Settles O3: each doorbell's check against the ring's size decides, and what follows a HEAD in range leaves the ring alone. -/
theorem doorbellsComplete : Obligations.DoorbellsComplete :=
  ⟨sqTailDoorbell_in_range, sqTailDoorbell_out_of_range, lqHeadDoorbell_out_of_range, nqHeadDoorbell_out_of_range,
    hqTailDoorbell_out_of_range, lqHeadDoorbell_releases, nqHeadDoorbell_releases⟩

end Sys2Proof.Machine
end

section
/-!
OBLIGATION O37. Loss of the host, the grace timers, Function Level Resets and configuration requests.
-/
namespace Sys2Proof.Machine

theorem hostLoss_when_lost (s : State) (h : s.hiu.hostLost = true) : exec .hostLoss s = .next s :=
  congrArg Host.Outcome.next (if_pos h)

theorem hostLoss_starts_grace (s : State) (hup : s.hiu.hostLost = false)
    (hlead : isLead s = true → ∀ c ∈ s.stm.board, c.heath ≠ .spilling) (hmember : isLead s = false → s.mdw.spills = []) :
    ∃ t, exec .hostLoss s = .next t ∧ t.hiu.hostLost = true ∧ t.mdw = s.mdw ∧ (∀ g ∈ s.hiu.grace, g ∈ t.hiu.grace) ∧
      ∀ f < 128, (∀ g ∈ s.hiu.grace, g.1 ≠ f) → (f, s.st) ∈ t.hiu.grace := by
  refine ⟨hostGone s, congrArg Host.Outcome.next (loseHost_of_no_spill hup hlead hmember), hostGone_hostLost s,
    (hostGone_fp s).mdw rfl, ?_⟩
  rw [hostGone_grace]
  exact ⟨subset_startGrace _ _, fun f hf h => mem_startGrace_of_none _ hf h⟩

/-- A ring stops; the reservations stay with their Calls (Table MAP-4). -/
def stopRing (r : Ring) : Ring := ⟨0, 0, false, r.resv, []⟩

/-- The registers and host queues as PERST_N leaves them, before the rings stop. -/
def perstReset (s : State) : State :=
  (List.range 128).foldl (fun s f => resetRange (resetRange s (winBase f) 0x44) (winBase f + 0x1000) 0x120)
    (resetQueues (if booted s then loseHost s else linkGone s))

theorem exec_perstAssert (s : State) : exec .perstAssert s =
    .next (((perstReset s).onHiu fun h => { h with rings := h.rings.map fun r => (r.1, stopRing r.2) }).onBrd fun b =>
      { b with perst := true }) := rfl

theorem perstAssert_stops_rings (s : State) :
    ∃ t, exec .perstAssert s = .next t ∧ t.brd.perst = true ∧ ∀ r ∈ t.hiu.rings, r.2.written = 0 ∧ r.2.out = [] := by
  rw [exec_perstAssert]
  generalize perstReset s = u
  refine ⟨_, rfl, rfl, fun r hr => ?_⟩
  obtain ⟨q, -, rfl⟩ := List.mem_map.1 hr
  exact ⟨rfl, rfl⟩

theorem perstDeassert_rises (s : State) (h : s.brd.perst = true) :
    exec .perstDeassert s = .next (s.onBrd fun b => { b with perst := false, cfgFrom := s.st }) :=
  congrArg Host.Outcome.next (if_pos h)

/-- FLIT mode at 64 GT/s; at a lower rate its value is a free choice. -/
def linkFlit (rate : Nat) (s : State) : State :=
  if rate = 6 then set s Fld.hiuLinkStatusFlit 1 else advance (set s Fld.hiuLinkStatusFlit (fresh s % 2))

theorem linkFlit_keeps (rate : Nat) (s : State) (f : Fld) (h : f.key ≠ Fld.hiuLinkStatusFlit.key) :
    get (linkFlit rate s) f = get s f := by
  unfold linkFlit
  split
  · exact get_set_other _ _ _ _ h
  · exact get_set_other _ _ _ _ h

theorem exec_pcieLinkUp {w r : Nat} {s : State} (hp : s.brd.perst = false) (hw : w ∈ [1, 2, 4, 8, 16]) (h1 : 1 ≤ r)
    (h6 : r ≤ 6) : exec (.pcieLinkUp w r) s = .next ((set (linkFlit r (set (set s Fld.hiuLinkStatusRate r)
      Fld.hiuLinkStatusWidth w)) Fld.hiuLinkStatusHostAbsent 0).onHiu fun h => { h with hostLost := false }) := by
  have hr : ¬(r = 0 ∨ 6 < r) := by omega
  change execPcieLinkUp w r s = _
  unfold execPcieLinkUp
  simp only [hp, hw, hr, not_true_eq_false, decide_false, Bool.or_self, Bool.false_eq_true, if_false]
  rfl

theorem pcieLinkUp_shows_link (w r : Nat) (s : State) (hp : s.brd.perst = false) (hw : w ∈ [1, 2, 4, 8, 16]) (h1 : 1 ≤ r)
    (h6 : r ≤ 6) :
    ∃ t, exec (.pcieLinkUp w r) s = .next t ∧ get t Fld.hiuLinkStatusRate = r ∧ get t Fld.hiuLinkStatusWidth = w ∧
      get t Fld.hiuLinkStatusHostAbsent = 0 ∧ t.hiu.hostLost = false ∧ (r = 6 → get t Fld.hiuLinkStatusFlit = 1) := by
  have hw16 : w ≤ 16 := by simp at hw; omega
  refine ⟨_, exec_pcieLinkUp hp hw h1 h6, ?_, ?_, ?_, rfl, ?_⟩ <;> rw [get_onHiu]
  · rw [get_set_other _ _ _ _ (by decide), linkFlit_keeps _ _ _ (by decide), get_set_other _ _ _ _ (by decide)]
    exact get_set_of_lt _ Fld.hiuLinkStatusRate r (by change r < 16; omega)
  · rw [get_set_other _ _ _ _ (by decide), linkFlit_keeps _ _ _ (by decide)]
    exact get_set_of_lt _ Fld.hiuLinkStatusWidth w (by change w < 32; omega)
  · exact get_set_same _ _ _
  · rintro rfl
    rw [get_set_other _ _ _ _ (by decide)]
    exact get_set_same _ Fld.hiuLinkStatusFlit 1

theorem graceExpiry_nil (s : State) (h : s.hiu.grace = []) : exec .graceExpiry s = .next s := by
  change execGraceExpiry s = _
  unfold execGraceExpiry
  rw [h]

theorem graceExpiry_ends_calls (g : Nat × Nat) (r : List (Nat × Nat)) (s : State) (h : s.hiu.grace = g :: r) :
    let first := r.foldl (fun a x => min a x.2) g.2
    let gone (f : Nat) : Prop := (f, first) ∈ s.hiu.grace
    ∃ t, exec .graceExpiry s = .next t ∧ t.st = max s.st (graceEnd s first) ∧
      (∀ x, x ∈ t.hiu.grace ↔ x ∈ s.hiu.grace ∧ ¬ gone x.1) ∧ (∀ e, e ∈ t.hiu.callMap → ¬ gone e.fn) ∧
      (∀ e ∈ s.hiu.callMap, ¬ gone e.fn → e ∈ t.hiu.callMap) ∧
      ∀ f, gone f → (f, (s.hiu.callMap.filter fun e => e.fn = f && entLive e).length) ∈ t.hiu.expired := by
  intro first gone
  have hgone (f : Nat) : f ∈ graceFns s first ↔ gone f := mem_graceFns
  obtain ⟨hgrace, hcalls, hexpired⟩ := graceOver_hiu s first
  refine ⟨graceOver s first, exec_graceExpiry_cons h, graceOver_st s first, fun x => ?_, fun e he => ?_, fun e he hne => ?_,
    fun f hf => ?_⟩
  · simp [hgrace, hgone]
  · rw [hcalls] at he
    simpa [hgone] using (List.mem_filter.1 he).2
  · rw [hcalls]
    exact List.mem_filter.2 ⟨he, by simpa [hgone] using hne⟩
  · rw [hexpired]
    exact List.mem_append_right _ (List.mem_map.2 ⟨f, (hgone f).2 hf, rfl⟩)

/-- What a Function Level Reset makes of the HIU's state: all that it holds of the function but its Calls goes, and the function's
window is in reset. -/
def flrHiu (h : Hiu) (f : Nat) : Hiu := { h with
  outcomes := h.outcomes.filter fun o => o.fn ≠ f
  rings := h.rings.filter fun r => r.1 / 8 ≠ f
  rrSq := h.rrSq.del f
  grace := h.grace.filter fun g => g.1 ≠ f, expired := h.expired.filter fun x => x.1 ≠ f
  unread := h.unread.filter fun x => x.1 ≠ f, redo := h.redo.filter fun x => x.1 ≠ f
  flr := if f ∈ h.flr then h.flr else h.flr ++ [f] }

theorem mem_flrHiu_flr (h : Hiu) (f : Nat) : f ∈ (flrHiu h f).flr := by
  unfold flrHiu
  dsimp only
  split
  · assumption
  · exact List.mem_append_right _ List.mem_cons_self

/-- A VF's reset ends the function's Calls, then clears what the HIU holds of it; its registers and watermark follow outside the HIU. -/
theorem functionLevelReset_hiu (fn : Fin 128) (s : State) (hfn : fn.val ≠ 0) :
    ∃ t, exec (.functionLevelReset fn) s = .next t ∧
      t.hiu = flrHiu ((s.hiu.callMap.filter fun e => e.fn = fn.val).foldl (graceEnds stCancelled) s).hiu fn.val := by
  refine ⟨_, rfl, ?_⟩
  rw [wmUpdate_hiu, if_neg hfn]
  rfl

theorem functionLevelReset_clears_function (fn : Fin 128) (s : State) (hfn : fn.val ≠ 0) :
    ∃ t, exec (.functionLevelReset fn) s = .next t ∧ fn.val ∈ t.hiu.flr ∧ (∀ e ∈ t.hiu.callMap, e.fn ≠ fn.val) ∧
      (∀ o ∈ t.hiu.outcomes, o.fn ≠ fn.val) ∧ (∀ r ∈ t.hiu.rings, r.1 / 8 ≠ fn.val) ∧
      (∀ e ∈ s.hiu.callMap, e.fn ≠ fn.val → e ∈ t.hiu.callMap) ∧
      (∀ o ∈ s.hiu.outcomes, o.fn ≠ fn.val → o ∈ t.hiu.outcomes) ∧ t.mdw = s.mdw := by
  obtain ⟨t, ht, hhiu⟩ := functionLevelReset_hiu fn s hfn
  obtain ⟨rings, hcalls⟩ := endCalls_hiu stCancelled (fun f => decide (f = fn.val)) s
  rw [hcalls] at hhiu
  have hmdw : t.mdw = s.mdw := (execFunctionLevelReset_fp fn s t ht).mdw rfl
  refine ⟨t, ht, ?_, ?_, ?_, ?_, ?_, ?_, hmdw⟩ <;> rw [hhiu]
  · exact mem_flrHiu_flr _ _
  · exact fun e he => by simpa using (List.mem_filter.1 he).2
  · exact fun o ho => by simpa using (List.mem_filter.1 ho).2
  · exact fun r hr => by simpa using (List.mem_filter.1 hr).2
  · exact fun e he hne => List.mem_filter.2 ⟨he, by simpa using hne⟩
  · exact fun o ho hne => List.mem_filter.2 ⟨ho, by simpa using hne⟩

theorem functionLevelReset_pf_keeps_storage (s : State) :
    ∃ t, exec (.functionLevelReset 0) s = .next t ∧ t.mdw = s.mdw ∧ t.prm = s.prm ∧ t.wdr = s.wdr := by
  have fp := execFunctionLevelReset_fp 0 s _ rfl
  exact ⟨_, rfl, fp.mdw rfl, fp.prm rfl, fp.wdr rfl⟩

theorem flrComplete_frees_window (fn : Fin 128) (s : State) (h : s.hiu.flr.Nodup) :
    ∃ t, exec (.flrComplete fn) s = .next t ∧ fn.val ∉ t.hiu.flr ∧ t.regs = s.regs :=
  ⟨_, rfl, h.not_mem_erase, rfl⟩

/-- Configuration requests are retried until 100 ms after the later of PERST_N's rise and the end of RESET (R802). -/
theorem configurationRequest_eq (fn : Fin 128) (s : State) : exec (.configurationRequest fn) s = .next
    (if s.brd.perst = true ∨ get s Fld.hiuBootPhase = 0 ∨ (s.st : Int) < max s.brd.cfgFrom s.brd.resetEnd + 100000000 then
      pcieAnswer s pcieRrs 0 else pcieAnswer s pcieSc (revisionId s fn)) := by
  change execConfigurationRequest fn s = _
  unfold execConfigurationRequest
  simp only [Bool.or_eq_true, decide_eq_true_eq, or_assoc]

theorem configurationRequest_shows_revision (fn : Fin 128) (s : State) (hp : s.brd.perst = false)
    (hb : get s Fld.hiuBootPhase ≠ 0) (ht : max s.brd.cfgFrom s.brd.resetEnd + 100000000 ≤ (s.st : Int)) :
    ∃ t, exec (.configurationRequest fn) s = .next t ∧ t.out.pcie = s.out.pcie ++ [(pcieSc, revisionId s fn)] := by
  rw [configurationRequest_eq, if_neg (by simp [hp, hb, ht])]
  exact ⟨_, rfl, rfl⟩

theorem configurationRequest_retries (fn : Fin 128) (s : State)
    (h : s.brd.perst = true ∨ get s Fld.hiuBootPhase = 0 ∨ (s.st : Int) < max s.brd.cfgFrom s.brd.resetEnd + 100000000) :
    ∃ t, exec (.configurationRequest fn) s = .next t ∧ t.out.pcie = s.out.pcie ++ [(pcieRrs, 0)] := by
  rw [configurationRequest_eq, if_pos h]
  exact ⟨_, rfl, rfl⟩

theorem pasidTlp_unsupported (s : State) : ∃ t, exec .pasidTlp s = .next t ∧ t.out.pcie = s.out.pcie ++ [(pcieUr, 0)] :=
  ⟨_, rfl, rfl⟩

/-- Settles O37: clause by clause, from what each command leaves of the HIU's state. -/
theorem hostLossCompletes : Obligations.HostLossCompletes :=
  ⟨hostLoss_when_lost, hostLoss_starts_grace, perstAssert_stops_rings, perstDeassert_rises, pcieLinkUp_shows_link,
    graceExpiry_nil, graceExpiry_ends_calls, functionLevelReset_clears_function, functionLevelReset_pf_keeps_storage,
    flrComplete_frees_window, configurationRequest_shows_revision, configurationRequest_retries, pasidTlp_unsupported⟩

end Sys2Proof.Machine
end

section
/-!
SUPPORT. The decision on an operation of a live Call: what the Box Office does with the card at its head, case by
case, and what an operation that waits for its boundary leaves of the Call Board.
-/
namespace Sys2Proof.Machine

theorem mapIf_decide {α : Type} (P : α → Prop) [DecidablePred P] (f : α → α) (l : List α) :
    mapIf (fun x => decide (P x)) f l = l.map fun x => if P x then f x else x := by
  simp only [mapIf, decide_eq_true_eq]

/-- Two changes of the same elements are one, where the first leaves them the same elements. -/
theorem mapIf_mapIf {α : Type} (p : α → Bool) (f g : α → α) (l : List α) (hf : ∀ x, p x = true → p (f x) = true) :
    mapIf p g (mapIf p f l) = mapIf p (fun x => g (f x)) l := by
  unfold mapIf
  rw [List.map_map]
  refine List.map_congr_left fun x _ => ?_
  by_cases h : p x = true
  · simp [h, hf x h]
  · simp [h]

/-! Operations that leave the Call Board alone. -/

theorem popHead_stm (s : State) : (popHead s).stm = s.stm := (popHead_fp rfl s (Fp.refl 525317 s)).stm rfl

theorem bookCard_stm (s : State) (q : QCard) (status slot : Nat) : (bookCard s q status slot).stm = s.stm :=
  (bookCard_fp rfl s q status slot (Fp.refl 32769 s)).stm rfl

theorem setLevel_stm (s : State) (t : Nat) (v : Int) : (setLevel s t v).stm = s.stm :=
  (setLevel_fp rfl s t v (Fp.refl 4 s)).stm rfl

/-! An operation that waits. -/

/-- The operation that a card asks of its Call. -/
def cardCOp (q : QCard) : COp := ⟨cardOp q.card, q.src, q.tag, cardTtl q.card, q.prompt⟩

theorem queueOp_stm (s : State) (q : QCard) (c : Call) : (queueOp s q c).stm = { s.stm with
    board := mapIf (fun x => x.slot = c.slot) (fun x => { x with ops := x.ops ++ [cardCOp q] }) s.stm.board } := by
  unfold queueOp
  rw [popHead_stm, bookCard_stm]
  rfl

theorem queueOp_board (s : State) (q : QCard) (c : Call) : (queueOp s q c).stm.board =
    s.stm.board.map fun x => if x.slot = c.slot then { x with ops := x.ops ++ [cardCOp q] } else x := by
  rw [queueOp_stm]
  exact mapIf_decide _ _ _

theorem endFor_board (s : State) (q : QCard) : (endFor s q).stm.board = s.stm.board.map fun x =>
    if x.src = q.src ∧ x.fn = q.fn ∧ x.callId = cardCallId q.card then
      { x with doom := some (cardTtl q.card), tag := 65536, owed := false, finalOut := true } else x := by
  unfold endFor
  rw [popHead_stm]
  simp only [State.onStm_stm, mapIf, Bool.and_eq_true, decide_eq_true_eq, and_assoc]

/-! The decision on an operation. -/

section
variable {s : State} {q : QCard} {c : Call} {op : Nat} (f : QCard → Call → State)

theorem decideOp_of_lostTag (hq : headCard s op = some q) (ht : q.tag = lostTag) : decideOp s op f = endFor s q := by
  simp only [decideOp, hq, ht, if_true]

theorem decideOp_of_ended (hq : headCard s op = some q) (ht : q.tag ≠ lostTag)
    (hc : callOf s q.src q.fn (cardCallId q.card) = none) : decideOp s op f = dropHead s q := by
  simp only [decideOp, hq, ht, hc, if_false]

theorem decideOp_of_refusesAll (hq : headCard s op = some q) (ht : q.tag ≠ lostTag)
    (hc : callOf s q.src q.fn (cardCallId q.card) = some c) (hr : refusesAll s = true) :
    decideOp s op f = refuseHead s q stCapacity c.kvLen := by
  simp only [decideOp, hq, ht, hc, hr, if_false, if_true]

/-- An operation passes the checks of the whole Company; a CANCEL also where the Company does not admit. -/
theorem decideOp_of_accepted (hq : headCard s op = some q) (ht : q.tag ≠ lostTag)
    (hc : callOf s q.src q.fn (cardCallId q.card) = some c) (hr : refusesAll s = false) (hb : boundHere s q = true)
    (ha : op = 5 ∨ admitting s = true ∧ sceneOn s = false) : decideOp s op f = f q c := by
  have hpass : (decide (op ≠ 5) && (!admitting s || sceneOn s)) = false := by
    rcases ha with rfl | ⟨ha, hs⟩
    · rfl
    · rw [ha, hs]
      exact Bool.and_false _
  simp only [decideOp, hq, ht, hc, hr, hb, hpass, if_false, Bool.not_true, Bool.false_eq_true]

end

end Sys2Proof.Machine
end

section
/-!
OBLIGATION O14. Operations on a live Call: PAUSE, RESUME, CANCEL, CONTINUE, and RELEASE_PREFIX.
-/
namespace Sys2Proof.Machine

theorem resume_waits (q : QCard) (c : Call) (s : State) (hq : headCard s 4 = some q) (ht : q.tag ≠ lostTag)
    (hc : callOf s q.src q.fn (cardCallId q.card) = some c) (hr : refusesAll s = false) (hb : boundHere s q = true)
    (ha : admitting s = true) (hs : sceneOn s = false) :
    ∃ t, exec .resume s = .next t ∧ t.stm.board = s.stm.board.map fun x => if x.slot = c.slot then
      { x with ops := x.ops ++ [cardCOp q] } else x :=
  ⟨_, congrArg Host.Outcome.next (decideOp_of_accepted _ hq ht hc hr hb (.inr ⟨ha, hs⟩)), queueOp_board s q c⟩

theorem cancel_waits (q : QCard) (c : Call) (s : State) (hq : headCard s 5 = some q) (ht : q.tag ≠ lostTag)
    (hc : callOf s q.src q.fn (cardCallId q.card) = some c) (hr : refusesAll s = false) (hb : boundHere s q = true) :
    ∃ t, exec .cancel s = .next t ∧ t.stm.board = s.stm.board.map fun x => if x.slot = c.slot then
      { x with ops := x.ops ++ [cardCOp q] } else x :=
  ⟨_, congrArg Host.Outcome.next (decideOp_of_accepted _ hq ht hc hr hb (.inl rfl)), queueOp_board s q c⟩

/-- A CANCEL that the submitting device makes itself ends its Call (R103, R109; log entry 41). -/
theorem cancel_by_device_ends_call (q : QCard) (s : State) (hq : headCard s 5 = some q) (ht : q.tag = lostTag) :
    ∃ t, exec .cancel s = .next t ∧ t.stm.board = s.stm.board.map fun x =>
      if x.src = q.src ∧ x.fn = q.fn ∧ x.callId = cardCallId q.card then
        { x with doom := some (cardTtl q.card), tag := 65536, owed := false, finalOut := true } else x :=
  ⟨_, congrArg Host.Outcome.next (decideOp_of_lostTag _ hq ht), endFor_board s q⟩

theorem pause_waits (q : QCard) (c : Call) (s : State) (hq : headCard s 3 = some q) (ht : q.tag ≠ lostTag)
    (hc : callOf s q.src q.fn (cardCallId q.card) = some c) (hr : refusesAll s = false) (hb : boundHere s q = true)
    (ha : admitting s = true) (hs : sceneOn s = false) (hk : (tenantKey s c.tenant).isSome = true) :
    ∃ t, exec .pause s = .next t ∧ t.stm.board = s.stm.board.map fun x => if x.slot = c.slot then
      { x with ops := x.ops ++ [cardCOp q] } else x := by
  have hkey : ¬ (tenantKey s c.tenant).isNone = true := by rwa [Option.isNone_iff_eq_none, ← ne_eq, Option.ne_none_iff_isSome]
  exact ⟨_, congrArg Host.Outcome.next
    ((decideOp_of_accepted _ hq ht hc hr hb (.inr ⟨ha, hs⟩)).trans (if_neg hkey)), queueOp_board s q c⟩

/-- CONTINUE's charge (R125, R145): its tokens to its tenant, its blocks to the Call's reservation. -/
def chargeContin (s : State) (q : QCard) (c : Call) : State :=
  (onCall (setLevel s c.tenant (levelOf s c.tenant - cardPromptLen q.card)) c.slot
    fun x => { x with resv := x.resv + ceilDiv (cardPromptLen q.card) 64 }).onStm fun m =>
      { m with admittedToks := m.admittedToks + cardPromptLen q.card }

theorem chargeContin_stm (s : State) (q : QCard) (c : Call) : (chargeContin s q c).stm = { s.stm with
    admittedToks := s.stm.admittedToks + cardPromptLen q.card
    board := mapIf (fun x => x.slot = c.slot) (fun x => { x with resv := x.resv + ceilDiv (cardPromptLen q.card) 64 })
      s.stm.board } := by
  unfold chargeContin onCall
  rw [State.onStm_stm, State.onStm_stm, setLevel_stm]

theorem exec_contin_accepted {q : QCard} {c : Call} {s : State} (hq : headCard s 2 = some q) (ht : q.tag ≠ lostTag)
    (hc : callOf s q.src q.fn (cardCallId q.card) = some c) (hr : refusesAll s = false) (hb : boundHere s q = true)
    (ha : admitting s = true) (hs : sceneOn s = false) (hlevel : cardPromptLen q.card ≤ levelOf s c.tenant)
    (hcap : tenBlocks s c.tenant + ceilDiv (cardPromptLen q.card) 64 ≤ blockCap s c.tenant)
    (hfree : ceilDiv (cardPromptLen q.card) 64 ≤ unreserved s) :
    exec .contin s = .next (queueOp (chargeContin s q c) q c) := by
  refine congrArg Host.Outcome.next ((decideOp_of_accepted _ hq ht hc hr hb (.inr ⟨ha, hs⟩)).trans ?_)
  exact (if_neg (not_or.2 ⟨not_lt.2 hlevel, not_lt.2 hcap⟩)).trans (if_neg (not_lt.2 hfree))

theorem contin_waits_and_reserves (q : QCard) (c : Call) (s : State) (hq : headCard s 2 = some q) (ht : q.tag ≠ lostTag)
    (hc : callOf s q.src q.fn (cardCallId q.card) = some c) (hr : refusesAll s = false) (hb : boundHere s q = true)
    (ha : admitting s = true) (hs : sceneOn s = false) (hlevel : cardPromptLen q.card ≤ levelOf s c.tenant)
    (hcap : tenBlocks s c.tenant + ceilDiv (cardPromptLen q.card) 64 ≤ blockCap s c.tenant)
    (hfree : ceilDiv (cardPromptLen q.card) 64 ≤ unreserved s) :
    ∃ t, exec .contin s = .next t ∧ t.stm.admittedToks = s.stm.admittedToks + cardPromptLen q.card ∧
      t.stm.board = s.stm.board.map fun x => if x.slot = c.slot then
        { x with resv := x.resv + ceilDiv (cardPromptLen q.card) 64, ops := x.ops ++ [cardCOp q] } else x := by
  refine ⟨_, exec_contin_accepted hq ht hc hr hb ha hs hlevel hcap hfree, ?_, ?_⟩ <;> rw [queueOp_stm, chargeContin_stm]
  dsimp only
  rw [mapIf_mapIf]
  · exact mapIf_decide _ _ _
  · exact fun _ h => h

theorem freeHandle_handles (s : State) (t h : Nat) :
    (freeHandle s t h).mdw.handles = s.mdw.handles.filter fun x => !(x.tenant = t && x.handle = h) := rfl

/-- The handle named goes whatever the card's flag PREFIX_OUT holds (log entry 146). -/
theorem releasePrefix_frees_handle (q : QCard) (s : State) (hq : headCard s 6 = some q) (hr : refusesAll s = false)
    (hb : boundHere s q = true) (ha : admitting s = true)
    (hh : ∃ x ∈ s.mdw.handles, x.tenant = cardTenant q.card ∧ x.handle = cardPrefixOut q.card) :
    exec .releasePrefix s = .next (answer (popHead (bookCard (freeHandle s (cardTenant q.card) (cardPrefixOut q.card)) q stOk
      0xFFFF)) q.src q.tag stOk 0 noPos 0) ∧
    ∀ x ∈ (freeHandle s (cardTenant q.card) (cardPrefixOut q.card)).mdw.handles,
      ¬ (x.tenant = cardTenant q.card ∧ x.handle = cardPrefixOut q.card) := by
  constructor
  · have hany : (s.mdw.handles.any fun x => x.tenant = cardTenant q.card && x.handle = cardPrefixOut q.card) = true := by
      simpa using hh
    change execReleasePrefix s = _
    simp only [execReleasePrefix, hq, hr, hb, ha, hany, Bool.not_true, Bool.false_eq_true, if_false, if_true]
  · rintro x hx ⟨ht, hh⟩
    rw [freeHandle_handles] at hx
    simp [ht, hh] at hx

theorem operation_of_ended_call_is_dropped (q : QCard) (s : State) (ht : q.tag ≠ lostTag)
    (hc : callOf s q.src q.fn (cardCallId q.card) = none) :
    (headCard s 2 = some q → exec .contin s = .next (dropHead s q)) ∧
    (headCard s 3 = some q → exec .pause s = .next (dropHead s q)) ∧
    (headCard s 4 = some q → exec .resume s = .next (dropHead s q)) ∧
    (headCard s 5 = some q → exec .cancel s = .next (dropHead s q)) := by
  refine ⟨fun hq => ?_, fun hq => ?_, fun hq => ?_, fun hq => ?_⟩ <;>
    exact congrArg Host.Outcome.next (decideOp_of_ended _ hq ht hc)

/-- A Company that refuses every card refuses CANCEL too (log entry 46). -/
theorem operation_refused_by_company (q : QCard) (c : Call) (s : State) (ht : q.tag ≠ lostTag)
    (hc : callOf s q.src q.fn (cardCallId q.card) = some c) (hr : refusesAll s = true) :
    (headCard s 2 = some q → exec .contin s = .next (refuseHead s q stCapacity c.kvLen)) ∧
    (headCard s 3 = some q → exec .pause s = .next (refuseHead s q stCapacity c.kvLen)) ∧
    (headCard s 4 = some q → exec .resume s = .next (refuseHead s q stCapacity c.kvLen)) ∧
    (headCard s 5 = some q → exec .cancel s = .next (refuseHead s q stCapacity c.kvLen)) := by
  refine ⟨fun hq => ?_, fun hq => ?_, fun hq => ?_, fun hq => ?_⟩ <;>
    exact congrArg Host.Outcome.next (decideOp_of_refusesAll _ hq ht hc hr)

/-- Settles O14: each operation's clause is one case of the Box Office's decision. -/
theorem callOperationsComplete : Obligations.CallOperationsComplete :=
  ⟨resume_waits, cancel_waits, cancel_by_device_ends_call, pause_waits, contin_waits_and_reserves, releasePrefix_frees_handle,
    operation_of_ended_call_is_dropped, operation_refused_by_company⟩

end Sys2Proof.Machine
end

section
/-!
SUPPORT. The Cue Line's two commands: when a composition or a launch takes place, and what the boundary of a cue leaves of the cue
clock.
-/
namespace Sys2Proof.Machine

/-- LOCKED, HOLDOVER and ROOT are the states that launch (R228, Table CUE-2). -/
theorem canLaunch_iff (s : State) : canLaunch s = true ↔ cueState s = 1 ∨ cueState s = 2 ∨ cueState s = 4 := by
  simp [canLaunch, cueState]

/-! Composition. -/

/-- The state in which the composition of the next cue begins: its instant has come, and that cue is not composed again. -/
def compositionTurn (s : State) : State :=
  (s.setSt (max s.st (composeSt s (nextCue s)))).onStm fun m => { m with nextComp := nextCue s + 1 }

theorem exec_compositionStart_composes {s : State} (hc : composes s = true) (hn : s.stm.nextComp ≤ nextCue s) :
    exec .compositionStart s = .next (composeNext (compositionTurn s) (nextCue s)) := by
  change execCompositionStart s = _
  simp [execCompositionStart, compositionTurn, hc, hn]

theorem exec_compositionStart_once {s : State} (hn : nextCue s < s.stm.nextComp) : exec .compositionStart s = .next s := by
  change execCompositionStart s = _
  simp [execCompositionStart, hn]

/-! Launch. -/

/-- The state in which the boundary of the next cue begins: its instant has come, and it is the cue in progress. -/
def launchTurn (s : State) : State :=
  let u := s.setSt (max s.st (launchSt s (nextCue s)))
  (anchorBoundary u (nextCue s)).onCue fun c => { c with
    num := nextCue s, launched := true, slewFrom := if c.launched then c.slewFrom else u.st }

theorem exec_cueLaunch_launches {s : State} (hb : booted s = true) (hl : canLaunch s = true) :
    exec .cueLaunch s = .next (cueBoundary (launchTurn s) (nextCue s)) := by
  change execCueLaunch s = _
  simp [execCueLaunch, launchTurn, hb, hl]

theorem exec_cueLaunch_idle {s : State} (h : booted s = false ∨ canLaunch s = false) : exec .cueLaunch s = .next s := by
  change execCueLaunch s = _
  rcases h with h | h <;> simp [execCueLaunch, h]

/-- An anchor that comes into force moves no Stage Time. -/
@[simp] theorem anchorBoundary_st (s : State) (n : Nat) : (anchorBoundary s n).st = s.st :=
  (anchorBoundary_fp (fw := 17) rfl s n (Fp.refl _ s)).st rfl

@[simp] theorem launchTurn_st (s : State) : (launchTurn s).st = max s.st (launchSt s (nextCue s)) :=
  anchorBoundary_st _ _

/-- The boundary's actions launch no further cue and move no Stage Time (R234). -/
theorem cueBoundary_clock (s : State) (n : Nat) :
    (cueBoundary s n).cue.num = s.cue.num ∧ (cueBoundary s n).cue.launched = s.cue.launched ∧ (cueBoundary s n).st = s.st := by
  have h := cueBoundary_fp (fw := 6291455) rfl s n (Fp.refl _ s)
  obtain ⟨hnum, hlaunched⟩ := h.cueNo rfl
  exact ⟨hnum, hlaunched, h.st rfl⟩

theorem cueLaunch_launches_next {s : State} (hb : booted s = true) (hs : cueState s = 1 ∨ cueState s = 2 ∨ cueState s = 4) :
    ∃ t, exec .cueLaunch s = .next t ∧ cueNum t = nextCue s ∧ t.cue.launched = true ∧ nextCue t = nextCue s + 1 ∧
      launchSt s (nextCue s) ≤ t.st ∧ s.st ≤ t.st := by
  obtain ⟨hnum, hlaunched, hst⟩ := cueBoundary_clock (launchTurn s) (nextCue s)
  have hnow : cueNum (cueBoundary (launchTurn s) (nextCue s)) = nextCue s := hnum
  replace hlaunched : (cueBoundary (launchTurn s) (nextCue s)).cue.launched = true := hlaunched
  rw [launchTurn_st] at hst
  refine ⟨_, exec_cueLaunch_launches hb ((canLaunch_iff s).2 hs), hnow, hlaunched, ?_, ?_, ?_⟩
  · rw [nextCue, if_pos hlaunched]
    exact congrArg (· + 1) hnow
  · exact hst ▸ le_max_right _ _
  · exact hst ▸ le_max_left _ _

theorem cueLaunch_waits {s : State} (h : booted s = false ∨ cueState s = 0 ∨ cueState s = 3) :
    exec .cueLaunch s = .next s := by
  refine exec_cueLaunch_idle (h.imp_right fun hs => Bool.eq_false_iff.2 fun hl => ?_)
  have hstates := (canLaunch_iff s).1 hl
  omega

/-- Settles O31: each command's guard decides, and the footprint of the boundary leaves the cue clock as the launch set it. -/
theorem cuesComplete : Obligations.CuesComplete :=
  ⟨fun s hc hn => ⟨compositionTurn s, exec_compositionStart_composes hc hn, le_max_right _ _, rfl, rfl⟩,
    fun _ => exec_compositionStart_once, fun _ => cueLaunch_launches_next, fun _ => cueLaunch_waits⟩

end Sys2Proof.Machine
end

section
/-!
OBLIGATION O42. A link that leaves EXIT may be the last one a tripped device waits for: DRAINED is then reached in the same step, the
domains fall (R625), and the links of a domain that leaves Lit go OFF (Table FAB-6), not to TRAIN.
-/
namespace Sys2Proof.Machine

/-- A device that has tripped and written EXIT. Links 4 and 5, the pair to device 8, are in EXIT, all others OFF; link 5 has its EXIT_ACK,
link 4 has none. -/
def trippedExiting : State :=
  let s := [4, 5].foldl (fun s l => set (setLink s l 4) (Fld.fabLinkStatusPeer l) 8) State.reset
  ((onLink s 5 fun k => { k with drained := true }).onFab fun b => { b with exitWritten := true }).onLgt fun g =>
    { g with trip := true }

/-- The absence check passes by the drained link of the pair. -/
theorem trippedExiting_pair :
    linkRuns trippedExiting 4 = true ∧ linkRuns trippedExiting 5 = true ∧
      linkPeer trippedExiting 5 = linkPeer trippedExiting 4 := by decide +kernel

/-- The loss of link 4 drains the device, and the trip takes the pair's domain, and with it the link, down. -/
theorem trippedExiting_loss :
    get (leaveUp trippedExiting 4) Fld.fabExitCtlDrained = 1 ∧ domPhase (leaveUp trippedExiting 4) 50 = 1 ∧
      linkState (leaveUp trippedExiting 4) 4 = 0 := by decide +kernel

/-- Refutes O42: its clause on a lost link whose neighbour keeps another link claims TRAIN, but on a tripped device the loss of the last
link without an EXIT_ACK reaches DRAINED and leaves the link OFF. -/
theorem not_linksComeUp : ¬ Obligations.LinksComeUp := by
  rintro ⟨-, -, -, -, -, hruns, -⟩
  obtain ⟨hlost, hkept, hpeer⟩ := trippedExiting_pair
  obtain ⟨-, -, hlosing⟩ := hruns 4 trippedExiting hlost
  obtain ⟨htrain, -⟩ := hlosing 5 (by decide) (by decide) hkept hpeer
  obtain ⟨-, -, hoff⟩ := trippedExiting_loss
  exact absurd (htrain.symm.trans hoff) (by decide)

end Sys2Proof.Machine
end

section
/-!
OBLIGATION O60. The ring order of epochs, and the topology record that follows it.
-/
namespace Sys2Proof.Machine

theorem newerEpoch_zero (a : Nat) : newerEpoch a 0 = true := rfl

theorem newerEpoch_iff {a b : Nat} (hb : b ≠ 0) :
    newerEpoch a b = true ↔ 1 ≤ (a + 255 - b) % 255 ∧ (a + 255 - b) % 255 ≤ 127 := by
  simp [newerEpoch, hb]

/-- The model's sum stays above 0, so that its residue is that of the difference of two recorded epochs. -/
theorem epochDiff_emod {a b : Nat} (hb : b ≤ 255) : ((a : Int) - b) % 255 = ((a + 255 - b) % 255 : Nat) := by omega

/-- Two different epochs lie on opposite sides of the ring of 255. -/
theorem epochDiff_swap {a b : Nat} (ha : a ≤ 255) (hb : b ≤ 255) (h : (a + 255 - b) % 255 ≠ 0) :
    (b + 255 - a) % 255 = 255 - (a + 255 - b) % 255 := by omega

theorem epochDiff_eq_zero_iff {a b : Nat} (ha : 1 ≤ a) (ha' : a ≤ 255) (hb : 1 ≤ b) (hb' : b ≤ 255) :
    (a + 255 - b) % 255 = 0 ↔ a = b := by omega

theorem newerEpoch_ring (a b : Nat) (ha : 1 ≤ a) (ha' : a ≤ 255) (hb : 1 ≤ b) (hb' : b ≤ 255) :
    (newerEpoch a b = true ↔ 1 ≤ ((a : Int) - b) % 255 ∧ ((a : Int) - b) % 255 ≤ 127) ∧
    (newerEpoch b a = true ↔ 128 ≤ ((a : Int) - b) % 255 ∧ ((a : Int) - b) % 255 ≤ 254) ∧
    (a = b ↔ ((a : Int) - b) % 255 = 0) := by
  have hswap := epochDiff_swap ha' hb'
  have hswap' := epochDiff_swap hb' ha'
  have hlt : (a + 255 - b) % 255 < 255 := Nat.mod_lt _ (by decide)
  rw [newerEpoch_iff (by omega), newerEpoch_iff (by omega), epochDiff_emod hb', ← epochDiff_eq_zero_iff ha ha' hb hb']
  generalize (a + 255 - b) % 255 = d at *
  generalize (b + 255 - a) % 255 = d' at *
  refine ⟨?_, ?_, ?_⟩ <;> omega

/-- What a report needs to change the record (R540). -/
theorem topoChanges_newer (s : State) (d st ep : Nat) (h : topoChanges s d st ep = true) :
    newerEpoch ep (topoOf s d).epoch = true ∨
      (((ep : Int) - (topoOf s d).epoch) % 255 = 0 ∧ (topoOf s d).state < st) := by
  simp only [topoChanges, Bool.and_eq_true, Bool.or_eq_true, decide_eq_true_eq] at h
  obtain ⟨-, hnewer | ⟨⟨-, hepoch⟩, hstate⟩⟩ := h
  · exact Or.inl hnewer
  · exact Or.inr ⟨by omega, hstate⟩

theorem updateTopo_of_not_changes {s : State} {d st ep : Nat} (link : Option Nat) (h : topoChanges s d st ep = false) :
    updateTopo s d st ep link = s := if_neg (Bool.eq_false_iff.1 h)

theorem updateTopo_of_changes {s : State} {d st ep : Nat} (link : Option Nat) (h : topoChanges s d st ep = true) :
    updateTopo s d st ep link =
      topoActs (announce (putTopo s d { topoOf s d with state := st, epoch := ep }) d st ep link) d st := if_pos h

/-- Settles O60: the ring order is arithmetic modulo 255, and a report that the record does not follow changes nothing. -/
theorem newerEpochsWin : Obligations.NewerEpochsWin :=
  ⟨topoChanges_newer, fun _ _ _ _ link => updateTopo_of_not_changes link, newerEpoch_zero, newerEpoch_ring, by decide⟩

end Sys2Proof.Machine
end

section
/-!
SUPPORT. What packets that leave, the watermarks, the time tree and a failing scene change keep of the links (LinksKept): their states,
their receive sides and exits, and the control flits sent.
-/
namespace Sys2Proof.Machine

/-- From `s` to `t` no link changed its state, its place in the flits it receives or its EXIT_ACK, the device's own exit did not begin,
and no control flit left. -/
structure LinksKept (s t : State) : Prop where
  state : ∀ l < 12, linkState t l = linkState s l
  seqRx : ∀ l, (linkAt t l).seqRx = (linkAt s l).seqRx
  drained : ∀ l, (linkAt t l).drained = (linkAt s l).drained
  exit : t.fab.exitWritten = s.fab.exitWritten ∧ t.fab.exitSt = s.fab.exitSt
  ctrl : t.out.ctrl = s.out.ctrl

theorem LinksKept.trans {s t u : State} (h : LinksKept s t) (k : LinksKept t u) : LinksKept s u where
  state l hl := (k.state l hl).trans (h.state l hl)
  seqRx l := (k.seqRx l).trans (h.seqRx l)
  drained l := (k.drained l).trans (h.drained l)
  exit := ⟨k.exit.1.trans h.exit.1, k.exit.2.trans h.exit.2⟩
  ctrl := k.ctrl.trans h.ctrl

/-- A step that leaves the registers and the links alone. -/
theorem LinksKept.of_links {s t : State} (hr : t.regs = s.regs) (hl : t.fab.links = s.fab.links)
    (hx : t.fab.exitWritten = s.fab.exitWritten ∧ t.fab.exitSt = s.fab.exitSt) (hc : t.out.ctrl = s.out.ctrl) : LinksKept s t where
  state _ _ := get_congr hr _
  seqRx l := by rw [linkAt, hl]; rfl
  drained l := by rw [linkAt, hl]; rfl
  exit := hx
  ctrl := hc

/-- A step that leaves the Fabric and the output alone keeps the links when it keeps their states. -/
theorem LinksKept.of_fab {s t : State} (hst : ∀ l < 12, linkState t l = linkState s l) (hf : t.fab = s.fab) (ho : t.out = s.out) :
    LinksKept s t where
  state := hst
  seqRx l := by rw [linkAt, hf]; rfl
  drained l := by rw [linkAt, hf]; rfl
  exit := by rw [hf]; exact ⟨rfl, rfl⟩
  ctrl := by rw [ho]

theorem LinksKept.refl (s : State) : LinksKept s s := .of_fab (fun _ _ => rfl) rfl rfl

theorem LinksKept.foldl {α : Type} (g : State → α → State) (h : ∀ s a, LinksKept s (g s a)) (l : List α) :
    ∀ s, LinksKept s (l.foldl g s) := by
  induction l with
  | nil => exact LinksKept.refl
  | cons a l ih => exact fun s => (h s a).trans (ih _)

theorem LinksKept.runs {s t : State} (h : LinksKept s t) {l : Nat} (hl : l < 12) : linkRuns t l = linkRuns s l :=
  congrArg (fun x => decide (x ∈ [3, 4])) (h.state l hl)

/-! Registers. -/

theorem linkState_blk {l : Nat} (hl : l < 12) : (Fld.fabLinkStatusState l).blk = 0xF := by
  revert l; decide

theorem set_linksKept (s : State) (f : Fld) (v : Nat) (h : ∀ l < 12, (Fld.fabLinkStatusState l).key ≠ f.key) :
    LinksKept s (set s f v) := .of_fab (fun l hl => get_set_other _ _ _ _ (h l hl)) rfl rfl

/-- Of the fields a step changes, none is in the Fabric's block. -/
theorem LinksKept.of_get {s t : State} (hget : ∀ f : Fld, f.blk = 0xF → get t f = get s f) (hf : t.fab = s.fab) (ho : t.out = s.out) :
    LinksKept s t := .of_fab (fun _ hl => hget _ (linkState_blk hl)) hf ho

theorem get_wmPin (s : State) (i : Nat) (f : Fld) : get (wmPin s i) f = get s f := by
  unfold wmPin
  dsimp only
  split
  · split <;> rfl
  · split
    · split <;> rfl
    · rfl

/-- The registers of the Swales and of the power domains lie above the Fabric's block. -/
theorem get_set_above (s : State) (f g : Fld) (v : Nat) (hf : f.blk = 0xF) (hg : 0x1000000 ≤ g.off) : get (set s g v) f = get s f :=
  get_set_other s f g v fun e => by unfold Fld.blk Fld.key at *; omega

theorem get_wmUpdate (s : State) (i : Nat) (f : Fld) (hf : f.blk = 0xF) : get (wmUpdate s i) f = get s f := by
  have hkeep (u : State) (g : Fld) (v : Nat) (hg : 0x1000000 ≤ g.off) : get (set u g v) f = get u f := get_set_above u f g v hf hg
  have hoff (k : Nat) (hk : 0x1000000 ≤ k) : 0x1000000 ≤ k + 0x40 * i := Nat.le_add_right_of_le hk
  unfold wmUpdate
  dsimp only
  rw [get_wmPin, hkeep _ (Fld.swlStatusFullW i) _ (hoff _ (by decide)), hkeep _ (Fld.swlStatusEmptyR i) _ (hoff _ (by decide)),
    hkeep _ (Fld.swlOccR i) _ (hoff _ (by decide)), hkeep _ (Fld.swlOccW i) _ (hoff _ (by decide))]
  have hwm (v : Nat) : get (set s (Fld.swlStatusWm i) v) f = get s f := hkeep _ _ _ (hoff _ (by decide))
  split
  · exact hwm 1
  · split
    · exact hwm 0
    · rfl

theorem wmUpdate_linksKept (s : State) (i : Nat) : LinksKept s (wmUpdate s i) :=
  have fp := wmUpdate_fp rfl s i (Fp.refl 524289 s)
  .of_get (get_wmUpdate s i) (fp.fab rfl) (fp.out rfl)

/-! The time tree: only the Cue Line's own registers. -/

theorem get_setFirst (s : State) (f : Fld) : get (setFirst s) f = get s f := by
  unfold setFirst
  split <;> rfl

theorem get_becomeRoot (s : State) (p : Bool) (f : Fld) (hf : f.blk ≠ 3) : get (becomeRoot s p) f = get s f := by
  unfold becomeRoot
  rw [get_onCue, get_set_blk _ _ Fld.cueStatusParent _ hf, get_set_blk _ _ Fld.cueStatusState _ hf]

theorem get_loseLock (s : State) (f : Fld) (hf : f.blk ≠ 3) : get (loseLock s) f = get s f := by
  unfold loseLock
  split
  · rw [get_onCue, get_set_blk _ _ Fld.cueStatusState _ hf]
  · rfl

theorem get_enterRoot (s : State) (p : Bool) (f : Fld) (hf : f.blk ≠ 3) : get (enterRoot s p) f = get s f := by
  unfold enterRoot putAnchor
  dsimp only
  split
  · exact get_becomeRoot s p f hf
  · split
    · rw [get_setFirst, get_onCue, get_set_blk _ _ Fld.cuePeriodNsV _ hf, get_becomeRoot s p f hf]
    · exact get_becomeRoot s p f hf

theorem get_ite {c : Prop} [Decidable c] {a b : State} {f : Fld} {v : Nat} (ha : get a f = v) (hb : get b f = v) :
    get (if c then a else b) f = v := by
  split
  · exact ha
  · exact hb

theorem get_cueTopo (s : State) (f : Fld) (hf : f.blk ≠ 3) : get (cueTopo s) f = get s f := by
  unfold cueTopo
  dsimp only
  refine get_ite (get_ite ?_ ?_) (get_ite ?_ (get_ite ?_ ?_))
  · exact (get_setFirst _ f).trans ((get_becomeRoot _ _ f hf).trans (get_ite rfl rfl))
  · exact (get_enterRoot _ _ f hf).trans (get_ite rfl rfl)
  · exact get_ite rfl rfl
  · exact get_ite ((get_loseLock _ f hf).trans (get_ite rfl rfl)) (get_ite rfl rfl)
  · exact (get_set_blk _ f Fld.cueStatusParent _ hf).trans
      (get_ite ((get_loseLock _ f hf).trans (get_ite rfl rfl)) (get_ite rfl rfl))

theorem cueTopo_linksKept (s : State) : LinksKept s (cueTopo s) :=
  have fp := cueTopo_fp rfl s (Fp.refl 17 s)
  .of_get (fun f hf => get_cueTopo s f (by rw [hf]; decide)) (fp.fab rfl) (fp.out rfl)

/-! Packets. -/

theorem linkAt_onLink_same {s : State} {l : Nat} (g : Link → Link) (hl : l < s.fab.links.length) :
    linkAt (onLink s l g) l = g (linkAt s l) := by
  simp [linkAt, onLink, hl]

theorem linkAt_onLink_other (s : State) {l k : Nat} (g : Link → Link) (h : l ≠ k) : linkAt (onLink s l g) k = linkAt s k := by
  simp [linkAt, onLink, List.getElem?_modify_ne, h]

theorem link_lt {s : State} (l : Fin 12) (h : s.fab.links.length = 12) : l.val < s.fab.links.length := by
  rw [h]
  exact l.isLt

/-- What an update of a link keeps of the link, it keeps of every link. -/
theorem linkAt_onLink_keeps {α : Type} (p : Link → α) (s : State) (l : Nat) (g : Link → Link) (h : p (g (linkAt s l)) = p (linkAt s l))
    (k : Nat) : p (linkAt (onLink s l g) k) = p (linkAt s k) := by
  by_cases hlk : l = k
  · subst hlk
    by_cases hlen : l < s.fab.links.length
    · rw [linkAt_onLink_same g hlen, h]
    · simp [linkAt, onLink, Nat.le_of_not_lt hlen]
  · rw [linkAt_onLink_other s g hlk]

theorem onLink_linksKept (s : State) (l : Nat) (g : Link → Link) (hrx : (g (linkAt s l)).seqRx = (linkAt s l).seqRx)
    (hdr : (g (linkAt s l)).drained = (linkAt s l).drained) : LinksKept s (onLink s l g) where
  state _ _ := rfl
  seqRx := linkAt_onLink_keeps Link.seqRx s l g hrx
  drained := linkAt_onLink_keeps Link.drained s l g hdr
  exit := ⟨rfl, rfl⟩
  ctrl := rfl

theorem keepFlits_keeps (bs : List (BitVec 1936)) (k : Link) :
    (keepFlits k bs).seqRx = k.seqRx ∧ (keepFlits k bs).drained = k.drained := by
  induction bs generalizing k with
  | nil => exact ⟨rfl, rfl⟩
  | cons b bs ih => exact ih _

theorem putOut_linksKept (s : State) (p : Packet) : LinksKept s (putOut s p) := by
  unfold putOut
  dsimp only
  refine (onLink_linksKept s _ _ ?_ ?_).trans (.of_links rfl rfl ⟨rfl, rfl⟩ rfl)
  · exact (keepFlits_keeps _ _).1
  · exact (keepFlits_keeps _ _).2

theorem emit_linksKept (s : State) (p : Packet) : LinksKept s (emit s p) := by
  unfold emit
  split
  · exact putOut_linksKept s p
  · exact .of_links rfl rfl ⟨rfl, rfl⟩ rfl

theorem noroute_linksKept (s : State) : LinksKept s (inc s Fld.fabNorouteNoroute 1) := set_linksKept s _ _ (by decide)

theorem sendPkt_linksKept (s : State) (kind dst tag epoch : Nat) (poison : Bool) (body : List Byte) :
    LinksKept s (sendPkt s kind dst tag epoch poison body) := by
  unfold sendPkt
  split
  · exact noroute_linksKept s
  · exact emit_linksKept s _

theorem reSend_linksKept (s : State) (p : Packet) : LinksKept s (reSend s p) := by
  unfold reSend
  split
  · exact emit_linksKept s _
  · exact noroute_linksKept s

theorem sendHeld_linksKept (s : State) : LinksKept s (sendHeld s) :=
  LinksKept.trans (t := s.onFab fun b => { b with hold := [] })
    (.of_links rfl rfl ⟨rfl, rfl⟩ rfl) (.foldl reSend reSend_linksKept _ _)

theorem tellDevs_linksKept (s : State) (ds : List Nat) (outcome value detail : Nat) :
    LinksKept s (tellDevs s ds outcome value detail) := by
  refine .foldl _ (fun u d => ?_) ds s
  split
  · exact .refl u
  · exact sendPkt_linksKept ..

/-! Scene changes. -/

theorem onSpl_linksKept (s : State) (g : Spl → Spl) : LinksKept s (s.onSpl g) := .of_fab (fun _ _ => rfl) rfl rfl

theorem onUnd_linksKept (s : State) (g : Und → Und) : LinksKept s (s.onUnd g) := .of_fab (fun _ _ => rfl) rfl rfl

theorem putTopo_linksKept (s : State) (d : Nat) (t : Topo) : LinksKept s (putTopo s d t) :=
  .of_links rfl rfl ⟨rfl, rfl⟩ rfl

theorem tellScene_linksKept (s : State) (c : Scene) (outcome : Nat) : LinksKept s (tellScene s c outcome) :=
  tellDevs_linksKept s _ outcome c.company c.cue

theorem markLost_linksKept (s : State) (c : Nat) : LinksKept s (markLost s c) := by
  unfold markLost
  refine LinksKept.trans ?_ (.foldl _ (fun u d => putTopo_linksKept u d _) _ _)
  exact .of_links rfl rfl ⟨rfl, rfl⟩ rfl

theorem sceneFails_linksKept (s : State) : LinksKept s (sceneFails s) := by
  unfold sceneFails
  split
  · refine .trans ?_ (markLost_linksKept _ _)
    refine .trans ?_ ((onSpl_linksKept _ _).trans (onUnd_linksKept _ _))
    refine .trans ?_ (tellDevs_linksKept _ _ _ _ _)
    refine .trans ?_ (tellScene_linksKept _ _ _)
    exact (set_linksKept s Fld.splSceneStatusState 5 (by decide)).trans
      (set_linksKept _ Fld.splSceneStatusResult 7 (by decide))
  · exact .refl s

theorem abandonSnap_linksKept (s : State) : LinksKept s (abandonSnap s) := by
  unfold abandonSnap
  split
  · exact .refl s
  · refine .trans ?_ ((onUnd_linksKept _ _).trans (onUnd_linksKept _ _))
    refine .trans ?_ (set_linksKept _ Fld.undStatusLastResult 2 (by decide))
    exact (set_linksKept s Fld.undStatusAbandoned _ (by decide)).trans (set_linksKept _ Fld.undStatusState 0 (by decide))

theorem setSwapState_linksKept (s : State) (v : Nat) : LinksKept s (setSwapState s v) := by
  unfold setSwapState
  split
  · exact .refl s
  · exact set_linksKept s _ _ (by decide)

theorem cancelSwap_linksKept (s : State) : LinksKept s (cancelSwap s) := by
  unfold cancelSwap
  split
  · split
    · exact (setSwapState_linksKept s 0).trans (onSpl_linksKept _ _)
    · exact .refl s
  · exact .refl s

theorem sceneDecide_linksKept (s : State) : LinksKept s (sceneDecide s) := by
  unfold sceneDecide
  split
  · exact .refl s
  · split
    · exact .refl s
    · split
      · exact (set_linksKept s Fld.splSceneStatusResult _ (by decide)).trans (onSpl_linksKept _ _)
      · refine .trans ?_ (onSpl_linksKept _ _)
        refine .trans ?_ (tellScene_linksKept _ _ _)
        refine .trans ?_ ((abandonSnap_linksKept _).trans (cancelSwap_linksKept _))
        refine .trans ?_ (set_linksKept _ Fld.splSceneStatusState 1 (by decide))
        exact (set_linksKept s Fld.splSceneStatusResult 0 (by decide)).trans
          (set_linksKept _ Fld.splSceneStatusApplied 0 (by decide))

theorem sceneAnswer_linksKept (s : State) (d : Nat) (found : List Nat) : LinksKept s (sceneAnswer s d found) := by
  unfold sceneAnswer
  split
  · split
    · exact (onSpl_linksKept s _).trans (sceneDecide_linksKept _)
    · exact .refl s
  · exact .refl s

theorem sceneGone_linksKept (s : State) (d : Nat) : LinksKept s (sceneGone s d) := by
  unfold sceneGone
  split
  · dsimp only
    split
    · split
      · exact sceneFails_linksKept s
      · exact .refl s
    · exact sceneAnswer_linksKept s d _
  · exact .refl s

end Sys2Proof.Machine
end

section
/-!
OBLIGATION O43. Flits, packets in transit, idle links, replays and topology updates.
-/
namespace Sys2Proof.Machine

/-! Control flits. -/

theorem ctrl_regs (s : State) (l k v : Nat) : (ctrl s l k v).regs = s.regs := (ctrl_fp rfl s l k v (Fp.refl 1048576 s)).regs rfl

theorem ctrl_fab (s : State) (l k v : Nat) : (ctrl s l k v).fab = s.fab := (ctrl_fp rfl s l k v (Fp.refl 1048576 s)).fab rfl

theorem ctrl_swl (s : State) (l k v : Nat) : (ctrl s l k v).swl = s.swl := (ctrl_fp rfl s l k v (Fp.refl 1048576 s)).swl rfl

theorem ctrl_sent {s : State} (l k v : Nat) (h : s.fab.silent = none) : (ctrl s l k v).out.ctrl = s.out.ctrl ++ [(l, k, v)] := by
  rw [ctrl, if_neg (by simp [h])]
  rfl

/-! The acknowledgement of a flit, and the packets in its body. -/

theorem release_keeps (k : Link) (ack : Nat) : (release k ack).seqRx = k.seqRx ∧ (release k ack).drained = k.drained := by
  unfold release
  dsimp only
  split <;> exact ⟨rfl, rfl⟩

theorem takeAck_linksKept (s : State) (l : Nat) {flit : BitVec 2048} (hn : bit flit 24 = false) :
    LinksKept s (takeAck s l flit) := by
  unfold takeAck
  dsimp only
  rw [if_neg (Bool.eq_false_iff.1 hn)]
  refine .trans ?_ (sendHeld_linksKept _)
  refine .trans ?_ (wmUpdate_linksKept _ _)
  exact onLink_linksKept s l _ (release_keeps _ _).1 (release_keeps _ _).2

/-- Without the NAK bit nothing is replayed, and the Fabric's own parts are all that an acknowledgement touches. -/
theorem takeAck_fp_noNak (s : State) (l : Nat) {flit : BitVec 2048} (hn : bit flit 24 = false) :
    Fp 1573889 s (takeAck s l flit) := by
  unfold takeAck
  dsimp only
  rw [if_neg (Bool.eq_false_iff.1 hn)]
  exact sendHeld_fp rfl _ (wmUpdate_fp rfl _ _ (onLink_fp rfl s l _ (Fp.refl _ s)))

theorem report_linksKept (s : State) (c i d : Nat) : LinksKept s (report s c i d) :=
  have fp := report_fp rfl s c i d (Fp.refl 950275 s)
  .of_get (fun f hf => get_report s c i d f (outside_report f (by rw [hf]; decide))) (fp.fab rfl) (fp.out rfl)

theorem owe_linksKept (s : State) (l lane n : Nat) : LinksKept s (owe s l lane n) := onLink_linksKept s l _ rfl rfl

theorem malformed_linksKept (s : State) (l : Nat) : LinksKept s (inc (advance s) (Fld.fabLinkDropMalformed l) 1) := by
  refine LinksKept.trans (t := advance s) (.of_fab (fun _ _ => rfl) rfl rfl) (set_linksKept (advance s) _ _ fun k _ => ?_)
  change (0xF00004 + 0x40 * k) * 32 + 0 ≠ (0xF0000C + 0x40 * l) * 32 + 16
  omega

theorem gotPacket_linksKept (s : State) (l : Nat) (p : Packet) : LinksKept s (gotPacket s l p) := by
  unfold gotPacket
  dsimp only
  split
  · exact (malformed_linksKept s l).trans ((report_linksKept _ _ _ _).trans (owe_linksKept _ _ _ _))
  · split
    · split
      · exact .of_links rfl rfl ⟨rfl, rfl⟩ rfl
      · exact owe_linksKept s l _ _
    · split
      · exact (set_linksKept s Fld.fabNorouteHopDiscard _ (by decide)).trans (owe_linksKept _ _ _ _)
      · refine .trans ?_ (wmUpdate_linksKept _ _)
        exact .of_links rfl rfl ⟨rfl, rfl⟩ rfl

theorem takePackets_linksKept (l fuel : Nat) (s : State) : LinksKept s (takePackets l fuel s) := by
  induction fuel generalizing s with
  | zero => exact .refl s
  | succ fuel ih =>
    have hbody (u : State) (g : Link → List Byte) : LinksKept u (onLink u l fun k => { k with body := g k }) :=
      onLink_linksKept u l _ rfl rfl
    unfold takePackets
    dsimp only
    split
    · split
      · exact hbody s fun _ => []
      · exact .refl s
    · split
      · exact hbody s fun _ => []
      · split
        · exact (hbody s fun _ => []).trans (gotPacket_linksKept _ _ _)
        · split
          · exact .refl s
          · exact .trans ((hbody s _).trans (gotPacket_linksKept _ _ _)) (ih _)

/-! FLIT_RECEIVE. -/

theorem stoppedLink_ignores (l : Fin 12) (flit : BitVec 2048) (s : State) (h : linkRuns s l.val = false) :
    exec (.flitReceive l flit) s = .next s ∧ exec (.idleFlit l) s = .next s ∧ exec (.replayTimeout l) s = .next s ∧
      ∀ d st ep, exec (.topologyUpdate l d st ep) s = .next s := by
  have hstop : (!linkRuns s l.val) = true := by rw [h]; rfl
  have hnot : ¬ linkRuns s l.val = true := Bool.eq_false_iff.1 h
  exact ⟨congrArg Host.Outcome.next (if_pos hstop), congrArg Host.Outcome.next (if_pos hstop),
    congrArg Host.Outcome.next (if_neg hnot), fun _ _ _ => congrArg Host.Outcome.next (if_neg hnot)⟩

section
variable {l : Fin 12} {flit : BitVec 2048} {s : State}

/-- A flit that reaches a link that runs, with its CRC right and of the neighbour's epoch. -/
def FlitGood (l : Nat) (flit : BitVec 2048) (s : State) : Prop :=
  linkRuns s l = true ∧ crc64 ((wireBytes flit).take 248) = bits flit 1984 64 ∧
    bits flit 36 8 = get s (Fld.fabLinkStatusPeerEpoch l)

theorem exec_flitReceive_crcBad (hr : linkRuns s l.val = true) (hc : crc64 ((wireBytes flit).take 248) ≠ bits flit 1984 64) :
    exec (.flitReceive l flit) s = .next
      (let t := report (inc (advance s) (Fld.fabLinkErrCrc l.val) 1) 0x0A01 l.val (fresh s % 2 ^ 32)
       ctrl t l.val 6 (linkAt t l.val).seqRx) := by
  change execFlitReceive l flit s = _
  unfold execFlitReceive
  simp only [hr, hc, Bool.not_true, Bool.false_eq_true, if_false, ne_eq, not_false_eq_true, if_true]

theorem exec_flitReceive_stale (hr : linkRuns s l.val = true) (hc : crc64 ((wireBytes flit).take 248) = bits flit 1984 64)
    (he : bits flit 36 8 ≠ get s (Fld.fabLinkStatusPeerEpoch l.val)) :
    exec (.flitReceive l flit) s = .next (inc s (Fld.fabLinkDropStale l.val) 1) := by
  change execFlitReceive l flit s = _
  unfold execFlitReceive
  simp only [hr, hc, he, Bool.not_true, Bool.false_eq_true, if_false, ne_eq, not_true_eq_false, not_false_eq_true, if_true]

theorem exec_flitReceive_reserved (h : FlitGood l.val flit s) (ht : 1 < bits flit 44 3 ∨ bit flit 47 = true) :
    exec (.flitReceive l flit) s = .next s := by
  obtain ⟨hr, hc, he⟩ := h
  change execFlitReceive l flit s = _
  unfold execFlitReceive
  simp only [hr, hc, he, ht, Bool.not_true, Bool.false_eq_true, if_false, ne_eq, not_true_eq_false, if_true]

/-- A good flit of a known type: its acknowledgement first, then, of a data flit in order, its body. -/
theorem exec_flitReceive_good (h : FlitGood l.val flit s) (ht : bits flit 44 3 ≤ 1) (hm : bit flit 47 = false) :
    exec (.flitReceive l flit) s = .next
      (let t := takeAck s l.val flit
       let body := ((wireBytes flit).drop 6).take 242
       if bits flit 44 3 = 1 ∨ !linkRuns t l.val ∨ bits flit 0 12 ≠ (linkAt t l.val).seqRx then t
       else if rxFull t l.val body then ctrl t l.val 6 (linkAt t l.val).seqRx
       else takePackets l.val 32 (onLink t l.val fun k => { k with seqRx := (k.seqRx + 1) % 4096, body := k.body ++ body })) := by
  obtain ⟨hr, hc, he⟩ := h
  have hknown : ¬(1 < bits flit 44 3 ∨ bit flit 47 = true) := by simp [hm, ht]
  change execFlitReceive l flit s = _
  unfold execFlitReceive
  simp only [hr, hc, he, hknown, Bool.not_true, Bool.false_eq_true, if_false, ne_eq, not_true_eq_false]

end

theorem fabLinkErrCrc_blk (l : Fin 12) : (Fld.fabLinkErrCrc l.val).blk = 0xF := by
  revert l; decide

theorem flitReceive_crcBad (l : Fin 12) (flit : BitVec 2048) (s : State) (hr : linkRuns s l.val = true)
    (hc : crc64 ((wireBytes flit).take 248) ≠ bits flit 1984 64) :
    ∃ t, exec (.flitReceive l flit) s = .next t ∧ t.fab = s.fab ∧ t.swl = s.swl ∧
      get t (Fld.fabLinkErrCrc l.val) = satAdd 16 (get s (Fld.fabLinkErrCrc l.val)) 1 % 2 ^ 16 ∧
      (s.fab.silent = none → t.out.ctrl = s.out.ctrl ++ [(l.val, 6, (linkAt s l.val).seqRx)]) := by
  refine ⟨_, exec_flitReceive_crcBad hr hc, ?_⟩
  dsimp only
  generalize hu : report (inc (advance s) (Fld.fabLinkErrCrc l.val) 1) 0x0A01 l.val (fresh s % 2 ^ 32) = u
  have fp : Fp 950275 (inc (advance s) (Fld.fabLinkErrCrc l.val) 1) u := hu ▸ report_fp rfl _ _ _ _ (Fp.refl _ _)
  have hfab : u.fab = s.fab := fp.fab rfl
  have hcount : get u (Fld.fabLinkErrCrc l.val) = satAdd 16 (get s (Fld.fabLinkErrCrc l.val)) 1 % 2 ^ 16 := by
    rw [← hu, get_report _ _ _ _ _ (outside_report _ (by rw [fabLinkErrCrc_blk]; decide)), get_inc_same]
    rfl
  refine ⟨(ctrl_fab ..).trans hfab, (ctrl_swl ..).trans (fp.swl rfl), (get_congr (ctrl_regs ..) _).trans hcount, fun hs => ?_⟩
  rw [ctrl_sent _ _ _ (hfab ▸ hs), fp.out rfl, linkAt, hfab]
  rfl

/-- A data flit out of order brings its acknowledgement and nothing else; so does a control flit. -/
theorem flitReceive_ack (l : Fin 12) (flit : BitVec 2048) (s : State) (h : FlitGood l.val flit s) (hm : bit flit 47 = false)
    (ht : bits flit 44 3 = 1 ∨
      bits flit 44 3 = 0 ∧ (linkAt s l.val).seqRx ≠ bits flit 0 12 ∧ bit flit 24 = false) :
    exec (.flitReceive l flit) s = .next (takeAck s l.val flit) := by
  rw [exec_flitReceive_good h (by omega) hm]
  refine congrArg Host.Outcome.next (if_pos ?_)
  obtain hctrl | ⟨-, hseq, hn⟩ := ht
  · exact Or.inl hctrl
  · exact Or.inr (Or.inr ((takeAck_linksKept s l.val hn).seqRx l.val ▸ hseq.symm))

theorem flitReceive_data (l : Fin 12) (flit : BitVec 2048) (s : State) (h : FlitGood l.val flit s) (hm : bit flit 47 = false)
    (ht : bits flit 44 3 = 0) (hseq : (linkAt s l.val).seqRx = bits flit 0 12) (hn : bit flit 24 = false)
    (hlen : s.fab.links.length = 12)
    (hroom : rxFull (takeAck s l.val flit) l.val (((wireBytes flit).drop 6).take 242) = false) :
    ∃ t, exec (.flitReceive l flit) s = .next t ∧ (linkAt t l.val).seqRx = (bits flit 0 12 + 1) % 4096 ∧
      t.stm = s.stm ∧ t.mdw = s.mdw := by
  have kept := takeAck_linksKept s l.val hn
  have fp := takeAck_fp_noNak s l.val hn
  have hrx : (linkAt (takeAck s l.val flit) l.val).seqRx = bits flit 0 12 := (kept.seqRx l.val).trans hseq
  have hruns : linkRuns (takeAck s l.val flit) l.val = true := (kept.runs l.isLt).trans h.1
  have hfits := link_lt l (fp.nlinks hlen)
  rw [exec_flitReceive_good h (by omega) hm]
  dsimp only
  rw [if_neg (by simp [ht, hruns, hrx]), if_neg (Bool.eq_false_iff.1 hroom)]
  generalize takeAck s l.val flit = u at *
  have fp' := takePackets_fp (fw := 953347) rfl l.val 32 _ (onLink_fp rfl u l.val
    (fun k => { k with seqRx := (k.seqRx + 1) % 4096, body := k.body ++ ((wireBytes flit).drop 6).take 242 }) (Fp.refl _ u))
  refine ⟨_, rfl, ?_, (fp'.stm rfl).trans (fp.stm rfl), (fp'.mdw rfl).trans (fp.mdw rfl)⟩
  rw [(takePackets_linksKept l.val 32 _).seqRx, linkAt_onLink_same _ hfits]
  exact congrArg (fun n => (n + 1) % 4096) hrx

theorem flitReceive_good (l : Fin 12) (flit : BitVec 2048) (s : State) (hr : linkRuns s l.val = true)
    (hc : crc64 ((wireBytes flit).take 248) = bits flit 1984 64) :
    (bits flit 36 8 ≠ get s (Fld.fabLinkStatusPeerEpoch l.val) →
      exec (.flitReceive l flit) s = .next (inc s (Fld.fabLinkDropStale l.val) 1)) ∧
    (bits flit 36 8 = get s (Fld.fabLinkStatusPeerEpoch l.val) →
      ((1 < bits flit 44 3 ∨ bit flit 47 = true) → exec (.flitReceive l flit) s = .next s) ∧
      (bit flit 47 = false →
        (bits flit 44 3 = 1 → exec (.flitReceive l flit) s = .next (takeAck s l.val flit)) ∧
        (bits flit 44 3 = 0 → (linkAt s l.val).seqRx ≠ bits flit 0 12 → bit flit 24 = false →
          exec (.flitReceive l flit) s = .next (takeAck s l.val flit)) ∧
        (bits flit 44 3 = 0 → (linkAt s l.val).seqRx = bits flit 0 12 → bit flit 24 = false →
          s.fab.links.length = 12 → rxFull (takeAck s l.val flit) l.val (((wireBytes flit).drop 6).take 242) = false →
          ∃ t, exec (.flitReceive l flit) s = .next t ∧ (linkAt t l.val).seqRx = (bits flit 0 12 + 1) % 4096 ∧
            t.stm = s.stm ∧ t.mdw = s.mdw))) :=
  ⟨exec_flitReceive_stale hr hc, fun he =>
    ⟨exec_flitReceive_reserved ⟨hr, hc, he⟩, fun hm =>
      ⟨fun ht => flitReceive_ack l flit s ⟨hr, hc, he⟩ hm (Or.inl ht),
        fun ht hseq hn => flitReceive_ack l flit s ⟨hr, hc, he⟩ hm (Or.inr ⟨ht, hseq, hn⟩),
        flitReceive_data l flit s ⟨hr, hc, he⟩ hm⟩⟩⟩

/-! PACKET_FORWARD. -/

theorem find_range_first {n i : Nat} {p : Nat → Bool} (hi : i < n) (hp : p i = true) (hfirst : ∀ j < i, p j = false) :
    (List.range n).find? p = some i := by
  rw [List.find?_range_eq_some]
  exact ⟨hp, List.mem_range.2 hi, fun j hj => by simp [hfirst j hj]⟩

/-- A packet in transit goes on: its place in its receive buffer is free and its flits are on the output link. -/
def goOn (s : State) (i : Nat) (pkt out : Packet) : State :=
  let v := onSw s (0x20 + i) fun w => { w with items := w.items.drop 1 }
  let w := putOut (wmUpdate (owe v (i / 8) (i % 8) (pktUnits pkt)) (0x20 + i)) out
  wmUpdate w (8 + outLink w (pSrc out) (pDst out) (pDirs out))

theorem goOn_items (s : State) (i : Nat) (pkt out : Packet) :
    (swOf (goOn s i pkt out) (0x20 + i)).items = (swOf s (0x20 + i)).items.drop 1 := by
  have fp (v : State) : Fp 1573889 v (goOn s i pkt out) → (swOf (goOn s i pkt out) (0x20 + i)) = swOf v (0x20 + i) := fun h => by
    rw [swOf, h.swl rfl]
    rfl
  rw [fp _ (wmUpdate_fp rfl _ _ (putOut_fp rfl _ _ (wmUpdate_fp rfl _ _ (owe_fp rfl _ _ _ _ (Fp.refl _ _)))))]
  exact congrArg Sw.items (AMap.getD_setD_same _ _ _ _)

theorem goOn_packets (s : State) (i : Nat) (pkt out : Packet) :
    (goOn s i pkt out).out.packets = s.out.packets ++ [out] := by
  have hwm (v : State) (j : Nat) : (wmUpdate v j).out = v.out := (wmUpdate_fp rfl v j (Fp.refl 524289 v)).out rfl
  have hput (v : State) : (putOut v out).out.packets = v.out.packets ++ [out] := rfl
  unfold goOn
  dsimp only
  rw [hwm, hput, hwm]
  rfl

theorem goOn_fp (s : State) (i : Nat) (pkt out : Packet) : Fp 1575937 s (goOn s i pkt out) :=
  wmUpdate_fp rfl _ _ (putOut_fp rfl _ _ (wmUpdate_fp rfl _ _ (owe_fp rfl _ _ _ _ (onSw_fp rfl _ _ _ (Fp.refl _ _)))))

theorem exec_packetForward_eq {pkt : Packet} {i : Nat} {s : State} (hi : i < 96)
    (hp : (swOf s (0x20 + i)).items.head?.map itemPkt = some pkt)
    (hfirst : ∀ j < i, (swOf s (0x20 + j)).items.head?.map itemPkt ≠ some pkt) :
    exec (.packetForward pkt) s = .next
      (if !mayLeave s (reHead pkt (forwardSub s (i / 8) pkt) (pDirs pkt)) then s
       else goOn s i pkt (reHead pkt (forwardSub s (i / 8) pkt) (pDirs pkt))) := by
  have hfind : ((List.range 96).find? fun i => decide ((swOf s (0x20 + i)).items.head?.map itemPkt = some pkt)) = some i :=
    find_range_first hi (decide_eq_true hp) fun j hj => decide_eq_false (hfirst j hj)
  change execPacketForward pkt s = _
  unfold execPacketForward
  rw [hfind]
  rfl

theorem packetForward_goes (pkt : Packet) (i : Nat) (s : State) (hi : i < 96)
    (hp : (swOf s (0x20 + i)).items.head?.map itemPkt = some pkt)
    (hfirst : ∀ j < i, (swOf s (0x20 + j)).items.head?.map itemPkt ≠ some pkt) :
    let out := reHead pkt (forwardSub s (i / 8) pkt) (pDirs pkt)
    (mayLeave s out = true →
      ∃ t, exec (.packetForward pkt) s = .next t ∧ (swOf t (0x20 + i)).items = (swOf s (0x20 + i)).items.drop 1 ∧
        t.out.packets = s.out.packets ++ [out] ∧ t.stm = s.stm ∧ t.mdw = s.mdw) ∧
    (mayLeave s out = false → exec (.packetForward pkt) s = .next s) := by
  intro out
  have heq : exec (.packetForward pkt) s = .next (if !mayLeave s out then s else goOn s i pkt out) :=
    exec_packetForward_eq hi hp hfirst
  have fp := goOn_fp s i pkt out
  refine ⟨fun hgo => ⟨goOn s i pkt out, ?_, goOn_items .., goOn_packets .., fp.stm rfl, fp.mdw rfl⟩, fun hstay => ?_⟩
  · rw [heq, hgo]
    rfl
  · rw [heq, hstay]
    rfl

/-! IDLE_FLIT and REPLAY_TIMEOUT. -/

theorem idleFlit_owesNothing (l : Fin 12) (s : State) (hr : linkRuns s l.val = true)
    (h : ∀ i < 8, (linkAt s l.val).owed.getD i 0 = 0) :
    exec (.idleFlit l) s = .next (ctrl s l.val 0 ((linkAt s l.val).seqRx * 2 ^ 12)) := by
  have hnone : ((List.range 8).find? fun i => decide ((linkAt s l.val).owed.getD i 0 ≠ 0)) = none :=
    List.find?_eq_none.2 fun i hi => by rw [h i (List.mem_range.1 hi)]; decide
  change execIdleFlit l s = _
  unfold execIdleFlit
  simp only [hr, hnone, Bool.not_true, Bool.false_eq_true, if_false]

/-- The link's lane `i` has returned `n` of the credits it owes. -/
def creditsReturned (s : State) (l i n : Nat) : State :=
  onLink s l fun k => { k with owed := k.owed.set i (k.owed.getD i 0 - n) }

theorem exec_idleFlit_owes {l : Fin 12} {s : State} {i : Nat} (hr : linkRuns s l.val = true) (hi : i < 8)
    (hne : (linkAt s l.val).owed.getD i 0 ≠ 0) (hfirst : ∀ j < i, (linkAt s l.val).owed.getD j 0 = 0) :
    exec (.idleFlit l) s = .next (let n := min 255 ((linkAt s l.val).owed.getD i 0)
      ctrl (creditsReturned s l.val i n) l.val 0
        ((linkAt s l.val).seqRx * 2 ^ 12 + (i / 2) * 2 ^ 25 + i % 2 * 2 ^ 27 + n * 2 ^ 28)) := by
  have hfind : ((List.range 8).find? fun i => decide ((linkAt s l.val).owed.getD i 0 ≠ 0)) = some i :=
    find_range_first hi (decide_eq_true hne) fun j hj => by rw [hfirst j hj]; decide
  change execIdleFlit l s = _
  unfold execIdleFlit
  simp only [hr, hfind, Bool.not_true, Bool.false_eq_true, if_false]
  rfl

theorem idleFlit_returnsCredits (l : Fin 12) (s : State) (hr : linkRuns s l.val = true) (i : Nat) (hi : i < 8)
    (hlen : s.fab.links.length = 12) (hlanes : (linkAt s l.val).owed.length = 8) (hne : (linkAt s l.val).owed.getD i 0 ≠ 0)
    (hfirst : ∀ j < i, (linkAt s l.val).owed.getD j 0 = 0) :
    ∃ t, exec (.idleFlit l) s = .next t ∧
      (linkAt t l.val).owed.getD i 0 = (linkAt s l.val).owed.getD i 0 - min 255 ((linkAt s l.val).owed.getD i 0) ∧
      t.regs = s.regs := by
  refine ⟨_, exec_idleFlit_owes hr hi hne hfirst, ?_, ctrl_regs ..⟩
  rw [linkAt, ctrl_fab, ← linkAt, creditsReturned, linkAt_onLink_same _ (link_lt l hlen)]
  simp [hlanes, hi]

/-- One more replay in a row, counted. -/
def replayOnce (s : State) (l : Nat) : State :=
  inc (onLink s l fun k => { k with replays := k.replays + 1 }) (Fld.fabLinkErrReplays l) 1

theorem linkAt_replayOnce {s : State} {l : Nat} (h : l < s.fab.links.length) :
    linkAt (replayOnce s l) l = { linkAt s l with replays := (linkAt s l).replays + 1 } := linkAt_onLink_same _ h

theorem replayOnce_linksKept (s : State) (l : Nat) : LinksKept s (replayOnce s l) := by
  refine (onLink_linksKept s l _ rfl rfl).trans (set_linksKept _ _ _ fun k _ => ?_)
  change (0xF00004 + 0x40 * k) * 32 + 0 ≠ (0xF00008 + 0x40 * l) * 32 + 16
  omega

theorem exec_replayTimeout {l : Fin 12} {s : State} (hr : linkRuns s l.val = true) :
    exec (.replayTimeout l) s = .next (if (linkAt s l.val).retry.isEmpty then s
      else if 16 ≤ (linkAt (replayOnce s l.val) l.val).replays then leaveUp (replayOnce s l.val) l.val
      else replayOnce s l.val) := congrArg Host.Outcome.next (if_pos hr)

theorem replayTimeout_replays (l : Fin 12) (s : State) (hr : linkRuns s l.val = true) (hlen : s.fab.links.length = 12) :
    ((linkAt s l.val).retry = [] → exec (.replayTimeout l) s = .next s) ∧
    ((linkAt s l.val).retry ≠ [] → (linkAt s l.val).replays < 15 →
      ∃ t, exec (.replayTimeout l) s = .next t ∧ (linkAt t l.val).replays = (linkAt s l.val).replays + 1 ∧
        (linkAt t l.val).retry = (linkAt s l.val).retry ∧ linkState t l.val = linkState s l.val) ∧
    ((linkAt s l.val).retry ≠ [] → 15 ≤ (linkAt s l.val).replays →
      ∃ u, exec (.replayTimeout l) s = .next (leaveUp u l.val) ∧ (linkAt u l.val).retry = (linkAt s l.val).retry) := by
  have hat := linkAt_replayOnce (link_lt l hlen)
  rw [exec_replayTimeout hr, hat]
  refine ⟨fun he => by rw [he]; rfl, fun hne hlt => ⟨replayOnce s l.val, ?_, ?_, ?_, ?_⟩,
    fun hne hge => ⟨replayOnce s l.val, ?_, ?_⟩⟩
  · rw [if_neg (by simpa using hne), if_neg (by dsimp only; omega)]
  · rw [hat]
  · rw [hat]
  · exact (replayOnce_linksKept s l.val).state l.val l.isLt
  · rw [if_neg (by simpa using hne), if_pos (by dsimp only; omega)]
  · rw [hat]

/-! TOPOLOGY_UPDATE. -/

theorem topoOf_congr {s t : State} (h : t.fab.topo = s.fab.topo) (d : Nat) : topoOf t d = topoOf s d := by
  rw [topoOf, h]
  rfl

theorem topoOf_putTopo_same (s : State) (d : Nat) (t : Topo) : topoOf (putTopo s d t) d = t := AMap.getD_setD_same _ _ _ _

theorem reSend_topo (s : State) (p : Packet) : (reSend s p).fab.topo = s.fab.topo := by
  unfold reSend
  split
  · unfold emit
    split <;> rfl
  · rfl

theorem sendHeld_topo (s : State) : (sendHeld s).fab.topo = s.fab.topo :=
  foldl_keeps (·.fab.topo) reSend reSend_topo _ _

/-- A device that is PRESENT brings the held packets on their way and the time tree up to date. -/
theorem topoActs_present (s : State) (d : Nat) : topoActs s d 1 = cueTopo (sendHeld s) := rfl

theorem topoOf_topoActs_present (s : State) (d k : Nat) : topoOf (topoActs s d 1) k = topoOf s k := by
  have fp := cueTopo_fp rfl (sendHeld s) (Fp.refl 17 _)
  rw [topoActs_present]
  exact topoOf_congr ((congrArg Fab.topo (fp.fab rfl)).trans (sendHeld_topo s)) k

theorem exec_topologyUpdate {l : Fin 12} {s : State} (hr : linkRuns s l.val = true) (d : Fin 1024) (st : Nat) (ep : BitVec 8) :
    exec (.topologyUpdate l d st ep) s = .next (updateTopo s d.val st ep.toNat (some l.val)) :=
  congrArg Host.Outcome.next (if_pos hr)

theorem topologyUpdate_present (l : Fin 12) (d : Fin 1024) (ep : BitVec 8) (s : State) (hr : linkRuns s l.val = true)
    (h : topoChanges s d.val 1 ep.toNat = true) :
    ∃ t, exec (.topologyUpdate l d 1 ep) s = .next t ∧ (topoOf t d.val).state = 1 ∧ (topoOf t d.val).epoch = ep.toNat ∧
      t.stm = s.stm := by
  rw [exec_topologyUpdate hr, updateTopo_of_changes _ h]
  generalize hv : putTopo s d.val { topoOf s d.val with state := 1, epoch := ep.toNat } = v
  have hentry : topoOf (topoActs (announce v d.val 1 ep.toNat (some l.val)) d.val 1) d.val =
      { topoOf s d.val with state := 1, epoch := ep.toNat } := by
    have hsaid : (announce v d.val 1 ep.toNat (some l.val)).fab = v.fab :=
      (announce_fp rfl v _ _ _ _ (Fp.refl 1048576 v)).fab rfl
    rw [topoOf_topoActs_present, topoOf_congr (congrArg Fab.topo hsaid), ← hv, topoOf_putTopo_same]
  have fp : Fp 1049617 s (cueTopo (sendHeld (announce v d.val 1 ep.toNat (some l.val)))) :=
    cueTopo_fp rfl _ (sendHeld_fp rfl _ (announce_fp rfl _ _ _ _ _ (hv ▸ putTopo_fp rfl s _ _ (Fp.refl _ s))))
  exact ⟨_, rfl, by rw [hentry], by rw [hentry], fp.stm rfl⟩

theorem topologyUpdate_acts (l : Fin 12) (d : Fin 1024) (st : Nat) (ep : BitVec 8) (s : State) (hr : linkRuns s l.val = true) :
    (topoChanges s d.val st ep.toNat = false → exec (.topologyUpdate l d st ep) s = .next s) ∧
    (topoChanges s d.val st ep.toNat = true →
      exec (.topologyUpdate l d st ep) s = .next (topoActs (announce (putTopo s d.val
        { topoOf s d.val with state := st, epoch := ep.toNat }) d.val st ep.toNat (some l.val)) d.val st)) ∧
    (topoChanges s d.val 1 ep.toNat = true →
      ∃ t, exec (.topologyUpdate l d 1 ep) s = .next t ∧ (topoOf t d.val).state = 1 ∧ (topoOf t d.val).epoch = ep.toNat ∧
        t.stm = s.stm) :=
  ⟨fun h => (exec_topologyUpdate hr d st ep).trans (congrArg Host.Outcome.next (updateTopo_of_not_changes _ h)),
    fun h => (exec_topologyUpdate hr d st ep).trans (congrArg Host.Outcome.next (updateTopo_of_changes _ h)),
    topologyUpdate_present l d ep s hr⟩

/-- Settles O43: a stopped link ignores all; on a running one each command's guard decides, and what follows keeps the links' receive
sides (LinksKept) and touches only the Fabric's own parts. -/
theorem flitsMove : Obligations.FlitsMove :=
  ⟨stoppedLink_ignores, fun l flit s hr => ⟨flitReceive_crcBad l flit s hr, flitReceive_good l flit s hr⟩, packetForward_goes,
    fun l s hr => ⟨idleFlit_owesNothing l s hr, idleFlit_returnsCredits l s hr⟩, replayTimeout_replays, topologyUpdate_acts⟩

end Sys2Proof.Machine
end

section
/-!
OBLIGATION O44. Exits, STATUS answers and advertisements.
-/
namespace Sys2Proof.Machine

/-- What each step of a fold establishes of its element, and no other step undoes, holds of every element at the end. -/
theorem foldl_establishes {α : Type} (g : State → α → State) (P : α → State → Prop) (hnew : ∀ s a, P a (g s a))
    (hkeep : ∀ s a b, P a s → P a (g s b)) (l : List α) : ∀ s, ∀ a ∈ l, P a (l.foldl g s) := by
  have hold (l : List α) (a : α) : ∀ s, P a s → P a (l.foldl g s) := by
    induction l with
    | nil => exact fun _ h => h
    | cons b l ih => exact fun s h => ih _ (hkeep s a b h)
  induction l with
  | nil => exact fun _ _ h => absurd h List.not_mem_nil
  | cons b l ih =>
    intro s a ha
    rcases List.mem_cons.1 ha with rfl | ha
    · exact hold l a _ (hnew s a)
    · exact ih _ a ha

/-! EXIT. -/

theorem exec_exit {v : Word} {s : State} (hr : reaches s 0 Fld.fabExitCtlExit.off = true) (hv : bit v 0 = true) :
    exec (.exit v) s = .next (writeExit (commandWord s 0 Fld.fabExitCtlExit.off v)) :=
  congrArg Host.Outcome.next (if_pos (by rw [hr, hv]; rfl))

/-- The links that are UP. -/
def upLinks (s : State) : List Nat := (List.range 12).filter fun l => linkState s l = 3

theorem mem_upLinks {s : State} {l : Nat} : l ∈ upLinks s ↔ l < 12 ∧ linkState s l = 3 := by
  simp [upLinks]

/-- A link goes from UP to EXIT, not yet drained (R543, R544). -/
def toExit (s : State) (l : Nat) : State := onLink (setLink s l 4) l fun k => { k with drained := false }

/-- One Exit fence (R543). -/
def fence (s : State) (l : Nat) : State := ctrl (toExit s l) l 2 0

/-- EXIT is noted, with the device's own entry (R543). -/
def exitNoted (s : State) : State :=
  let v := s.onFab fun b => { b with exitWritten := true, exitSt := s.st }
  putTopo v (selfDev s) { topoOf v (selfDev s) with state := 2 }

/-- The device is announced as EXITING (R543). -/
def announceExit (s : State) : State := announce (exitNoted s) (selfDev s) 2 (get s Fld.fabEpochEpoch) none

theorem writeExit_once {s : State} (h : s.fab.exitWritten = true) : writeExit s = s := if_pos h

theorem writeExit_eq {s : State} (h : s.fab.exitWritten = false) :
    writeExit s = checkDrained (sceneGone ((upLinks s).foldl fence (announceExit s)) (selfDev s)) :=
  if_neg (Bool.eq_false_iff.1 h)

/-- While a link in EXIT is not drained, DRAINED is not reached. -/
theorem checkDrained_of_undrained {s : State} {l : Nat} (hl : l < 12) (hs : linkState s l = 4) (hd : (linkAt s l).drained = false) :
    checkDrained s = s := by
  refine if_neg fun h => ?_
  rw [Bool.and_eq_true, List.all_eq_true] at h
  have hall := h.2 l (List.mem_range.2 hl)
  simp [hs, hd] at hall

theorem checkDrained_keeps (s : State) : Fp 528385 s (checkDrained s) := checkDrained_fp rfl s (Fp.refl _ s)

theorem linkAt_toExit_drained (s : State) (l : Nat) : (linkAt (toExit s l) l).drained = false := by
  unfold toExit
  by_cases h : l < (setLink s l 4).fab.links.length
  · rw [linkAt_onLink_same _ h]
  · have hout : (onLink (setLink s l 4) l fun k => { k with drained := false }).fab.links.length ≤ l := by
      simpa [onLink] using h
    rw [linkAt, List.getD_eq_default _ _ hout]
    rfl

theorem linkState_key_ne {k l : Nat} (h : k ≠ l) : (Fld.fabLinkStatusState k).key ≠ (Fld.fabLinkStatusState l).key := by
  change (0xF00004 + 0x40 * k) * 32 + 0 ≠ (0xF00004 + 0x40 * l) * 32 + 0
  omega

theorem linkState_setLink_same (s : State) (l v : Nat) (hv : v < 8) : linkState (setLink s l v) l = v :=
  get_set_of_lt s (Fld.fabLinkStatusState l) v hv

theorem linkState_setLink_other (s : State) {k l : Nat} (v : Nat) (h : k ≠ l) : linkState (setLink s l v) k = linkState s k :=
  get_set_other s _ _ v (linkState_key_ne h)

theorem linkState_ctrl (s : State) (l k v m : Nat) : linkState (ctrl s l k v) m = linkState s m := get_congr (ctrl_regs ..) _

theorem linkAt_ctrl (s : State) (l k v m : Nat) : linkAt (ctrl s l k v) m = linkAt s m := by
  rw [linkAt, ctrl_fab]
  rfl

theorem ctrl_mem {s : State} {x : Nat × Nat × Nat} (l k v : Nat) (h : x ∈ s.out.ctrl) : x ∈ (ctrl s l k v).out.ctrl := by
  unfold ctrl
  split
  · exact h
  · exact List.mem_append_left _ h

/-- A link is in EXIT, its EXIT_ACK still to come, and a device that is not silent has sent its fence. -/
def Fenced (l : Nat) (s : State) : Prop :=
  linkState s l = 4 ∧ (linkAt s l).drained = false ∧ (s.fab.silent = none → (l, 2, 0) ∈ s.out.ctrl)

theorem fence_fences (s : State) (l : Nat) : Fenced l (fence s l) := by
  refine ⟨?_, ?_, fun hs => ?_⟩
  · rw [fence, linkState_ctrl]
    exact linkState_setLink_same s l 4 (by decide)
  · rw [fence, linkAt_ctrl]
    exact linkAt_toExit_drained s l
  · have hs' : (toExit s l).fab.silent = none := (congrArg Fab.silent (ctrl_fab (toExit s l) l 2 0)).symm.trans hs
    rw [fence, ctrl_sent _ _ _ hs']
    exact List.mem_append_right _ (List.mem_singleton.2 rfl)

theorem fence_keeps_fenced (s : State) (l k : Nat) (h : Fenced l s) : Fenced l (fence s k) := by
  rcases eq_or_ne l k with rfl | hne
  · exact fence_fences s l
  · obtain ⟨hstate, hdr, hsent⟩ := h
    refine ⟨?_, ?_, fun hs => ctrl_mem _ _ _ (hsent ?_)⟩
    · rw [fence, linkState_ctrl]
      exact (linkState_setLink_other s 4 hne).trans hstate
    · rw [fence, linkAt_ctrl, toExit, linkAt_onLink_other _ _ hne.symm]
      exact hdr
    · exact (congrArg Fab.silent (ctrl_fab (toExit s k) k 2 0)).symm.trans hs

theorem fences_fence (s : State) (ls : List Nat) {l : Nat} (h : l ∈ ls) : Fenced l (ls.foldl fence s) :=
  foldl_establishes fence Fenced fence_fences fence_keeps_fenced ls s l h

theorem fence_fab (s : State) (l : Nat) : (fence s l).fab = (toExit s l).fab := ctrl_fab ..

theorem fences_exit (ls : List Nat) (s : State) :
    (ls.foldl fence s).fab.exitWritten = s.fab.exitWritten ∧ (ls.foldl fence s).fab.exitSt = s.fab.exitSt ∧
      (ls.foldl fence s).fab.silent = s.fab.silent :=
  ⟨foldl_keeps (·.fab.exitWritten) fence (fun u l => (congrArg Fab.exitWritten (fence_fab u l)).trans rfl) ls s,
    foldl_keeps (·.fab.exitSt) fence (fun u l => (congrArg Fab.exitSt (fence_fab u l)).trans rfl) ls s,
    foldl_keeps (·.fab.silent) fence (fun u l => (congrArg Fab.silent (fence_fab u l)).trans rfl) ls s⟩

theorem fences_mem {x : Nat × Nat × Nat} (ls : List Nat) : ∀ s : State, x ∈ s.out.ctrl → x ∈ (ls.foldl fence s).out.ctrl := by
  induction ls with
  | nil => exact fun _ h => h
  | cons l ls ih => exact fun s h => ih _ (ctrl_mem l 2 0 h)

/-- The announcement on one link (R539). -/
def announceOn (dev st ep : Nat) (s : State) (l : Nat) : State :=
  if get s (Fld.fabLinkStatusState l) = 3 ∧ (none : Option Nat) ≠ some l ∧ s.fab.silent.isNone then
    s.onOut fun o => { o with ctrl := o.ctrl ++ [(l, 4, dev + st * 1024 + ep * 4096)] }
  else s

theorem announce_eq (s : State) (dev st ep : Nat) : announce s dev st ep none = (List.range 12).foldl (announceOn dev st ep) s := rfl

/-- Where a link is UP and the device is not silent, the announcement has left on the link. -/
def Announced (dev st ep l : Nat) (s : State) : Prop :=
  linkState s l = 3 → s.fab.silent = none → (l, 4, dev + st * 1024 + ep * 4096) ∈ s.out.ctrl

theorem announceOn_announces (dev st ep : Nat) (s : State) (l : Nat) : Announced dev st ep l (announceOn dev st ep s l) := by
  unfold announceOn
  split
  · exact fun _ _ => List.mem_append_right _ (List.mem_singleton.2 rfl)
  · rename_i hno
    exact fun hup hs => absurd ⟨hup, nofun, by rw [hs]; rfl⟩ hno

theorem announceOn_keeps_announced (dev st ep : Nat) (s : State) (l k : Nat) (h : Announced dev st ep l s) :
    Announced dev st ep l (announceOn dev st ep s k) := by
  unfold announceOn
  split
  · exact fun hup hs => List.mem_append_left _ (h hup hs)
  · exact h

theorem announce_mem (s : State) (dev st ep : Nat) {l : Nat} (hl : l < 12) (hup : linkState s l = 3) (hs : s.fab.silent = none) :
    (l, 4, dev + st * 1024 + ep * 4096) ∈ (announce s dev st ep none).out.ctrl := by
  have fp := announce_fp rfl s dev st ep none (Fp.refl 1048576 s)
  have hsaid : Announced dev st ep l (announce s dev st ep none) := by
    rw [announce_eq]
    exact foldl_establishes _ (Announced dev st ep) (announceOn_announces dev st ep) (announceOn_keeps_announced dev st ep) _ s l
      (List.mem_range.2 hl)
  exact hsaid ((get_congr (fp.regs rfl) _).trans hup) ((congrArg Fab.silent (fp.fab rfl)).trans hs)

theorem announceExit_fp (s : State) : Fp 1048576 (exitNoted s) (announceExit s) := announce_fp rfl _ _ _ _ _ (Fp.refl _ _)

theorem announceExit_keeps (s : State) :
    (announceExit s).fab.exitWritten = true ∧ (announceExit s).fab.exitSt = s.st ∧
      (announceExit s).fab.silent = s.fab.silent := by
  have hfab := (announceExit_fp s).fab rfl
  exact ⟨congrArg Fab.exitWritten hfab, congrArg Fab.exitSt hfab, (congrArg Fab.silent hfab).trans rfl⟩

theorem announceExit_mem {s : State} {l : Nat} (hl : l < 12) (hup : linkState s l = 3) (hs : s.fab.silent = none) :
    (l, 4, selfDev s + 2 * 1024 + get s Fld.fabEpochEpoch * 4096) ∈ (announceExit s).out.ctrl := by
  unfold announceExit
  exact announce_mem (exitNoted s) _ _ _ hl hup hs

/-- A link that was UP when EXIT was written: DRAINED waits for it, and all that was sent on it stands. -/
theorem writeExit_link {s : State} (h : s.fab.exitWritten = false) {l : Nat} (hl : l < 12) (hup : linkState s l = 3) :
    linkState (writeExit s) l = 4 ∧ (s.fab.silent = none → (l, 2, 0) ∈ (writeExit s).out.ctrl ∧
      (l, 4, selfDev s + 2 * 1024 + get s Fld.fabEpochEpoch * 4096) ∈ (writeExit s).out.ctrl) := by
  obtain ⟨hstate, hdr, hsent⟩ := fences_fence (announceExit s) (upLinks s) (mem_upLinks.2 ⟨hl, hup⟩)
  obtain ⟨-, -, hsil⟩ := fences_exit (upLinks s) (announceExit s)
  obtain ⟨-, -, hsil'⟩ := announceExit_keeps s
  have hsaid := fun hs => fences_mem (upLinks s) _ (announceExit_mem hl hup hs)
  rw [writeExit_eq h]
  generalize (upLinks s).foldl fence (announceExit s) = u at *
  have kept := sceneGone_linksKept u (selfDev s)
  have hstate' : linkState (sceneGone u (selfDev s)) l = 4 := (kept.state l hl).trans hstate
  rw [checkDrained_of_undrained hl hstate' ((kept.drained l).trans hdr), kept.ctrl]
  exact ⟨hstate', fun hs => ⟨hsent (hsil.trans (hsil'.trans hs)), hsaid hs⟩⟩

theorem writeExit_notes {s : State} (h : s.fab.exitWritten = false) :
    (writeExit s).fab.exitWritten = true ∧ (writeExit s).fab.exitSt = s.st := by
  obtain ⟨hw, hst, -⟩ := fences_exit (upLinks s) (announceExit s)
  obtain ⟨hw', hst', -⟩ := announceExit_keeps s
  obtain ⟨kw, kst⟩ := (sceneGone_linksKept ((upLinks s).foldl fence (announceExit s)) (selfDev s)).exit
  rw [writeExit_eq h, (checkDrained_keeps _).fab rfl]
  exact ⟨kw.trans (hw.trans hw'), kst.trans (hst.trans hst')⟩

theorem exit_exits (v : Word) (s : State) (hr : reaches s 0 Fld.fabExitCtlExit.off = true) (hv : bit v 0 = true) :
    let u := commandWord s 0 Fld.fabExitCtlExit.off v
    (u.fab.exitWritten = true → exec (.exit v) s = .next u) ∧
    (u.fab.exitWritten = false →
      ∃ t, exec (.exit v) s = .next t ∧ t.fab.exitWritten = true ∧ t.fab.exitSt = u.st ∧ t.stm = u.stm ∧
        (∀ l < 12, linkState u l = 3 → linkState t l = 4) ∧
        (u.fab.silent = none → ∀ l < 12, linkState u l = 3 → (l, 2, 0) ∈ t.out.ctrl ∧
          (l, 4, selfDev u + 2 * 1024 + get u Fld.fabEpochEpoch * 4096) ∈ t.out.ctrl)) := by
  intro u
  have hexec : exec (.exit v) s = .next (writeExit u) := exec_exit hr hv
  refine ⟨fun hw => by rw [hexec, writeExit_once hw], fun hw => ⟨writeExit u, hexec, ?_⟩⟩
  obtain ⟨hnoted, hst⟩ := writeExit_notes hw
  exact ⟨hnoted, hst, (writeExit_fp rfl u (Fp.refl 1602561 u)).stm rfl, fun l hl hup => (writeExit_link hw hl hup).1,
    fun hs l hl hup => (writeExit_link hw hl hup).2 hs⟩

/-! EXIT_FENCE, EXIT_ACK, EXIT_ACK_SEND and EXIT_TIMEOUT. -/

theorem exitFence_notUp (l : Fin 12) (s : State) (h : linkState s l.val ≠ 3) : exec (.exitFence l) s = .next s :=
  congrArg Host.Outcome.next (if_pos h)

theorem exec_exitFence {l : Fin 12} {s : State} (h : linkState s l.val = 3) : exec (.exitFence l) s = .next
    (updateTopo (toExit s l.val) (linkPeer s l.val) 2 (get (toExit s l.val) (Fld.fabLinkStatusPeerEpoch l.val)) (some l.val)) :=
  congrArg Host.Outcome.next (if_neg (not_not.2 h))

/-- A device that is EXITING fails the scene change it is named in, and the held packets and the time tree follow. -/
theorem topoActs_exiting (s : State) (d : Nat) : topoActs s d 2 = cueTopo (sendHeld (sceneGone s d)) := rfl

theorem updateTopo_exiting (s : State) (d ep : Nat) (but : Option Nat) :
    (∀ l < 12, linkState (updateTopo s d 2 ep but) l = linkState s l) ∧ (updateTopo s d 2 ep but).stm = s.stm := by
  cases hc : topoChanges s d 2 ep with
  | false =>
    rw [updateTopo_of_not_changes but hc]
    exact ⟨fun _ _ => rfl, rfl⟩
  | true =>
    rw [updateTopo_of_changes but hc, topoActs_exiting]
    have fp := announce_fp rfl _ d 2 ep but (putTopo_fp rfl s d { topoOf s d with state := 2, epoch := ep } (Fp.refl 1049600 s))
    generalize announce (putTopo s d { topoOf s d with state := 2, epoch := ep }) d 2 ep but = u at *
    have kept := (sceneGone_linksKept u d).trans ((sendHeld_linksKept _).trans (cueTopo_linksKept _))
    have fp' : Fp 1074193 u (cueTopo (sendHeld (sceneGone u d))) :=
      cueTopo_fp rfl _ (sendHeld_fp rfl _ (sceneGone_fp rfl u d (Fp.refl _ u)))
    exact ⟨fun l hl => (kept.state l hl).trans (get_congr (fp.regs rfl) _), (fp'.stm rfl).trans (fp.stm rfl)⟩

theorem exitFence_exits (l : Fin 12) (s : State) (h : linkState s l.val = 3) :
    ∃ t, exec (.exitFence l) s = .next t ∧ linkState t l.val = 4 ∧ t.stm = s.stm := by
  obtain ⟨hstate, hstm⟩ := updateTopo_exiting (toExit s l.val) (linkPeer s l.val)
    (get (toExit s l.val) (Fld.fabLinkStatusPeerEpoch l.val)) (some l.val)
  exact ⟨_, exec_exitFence h, (hstate l.val l.isLt).trans (linkState_setLink_same s l.val 4 (by decide)), hstm⟩

theorem exitAck_notExit (l : Fin 12) (s : State) (h : linkState s l.val ≠ 4) :
    exec (.exitAck l) s = .next s ∧ exec (.exitAckSend l) s = .next s :=
  ⟨congrArg Host.Outcome.next (if_neg h), congrArg Host.Outcome.next (if_neg (by simp [h]))⟩

/-- A link has its EXIT_ACK. -/
def acked (s : State) (l : Nat) : State := onLink s l fun k => { k with drained := true }

theorem exec_exitAck {l : Fin 12} {s : State} (h : linkState s l.val = 4) :
    exec (.exitAck l) s = .next (checkDrained (acked s l.val)) := congrArg Host.Outcome.next (if_pos h)

theorem exec_exitAckSend {l : Fin 12} {s : State} (h : linkState s l.val = 4) (hpeer : (topoOf s (linkPeer s l.val)).state = 2)
    (hpend : ∀ p ∈ s.fab.pend, p.dst ≠ linkPeer s l.val) (hheld : holdsFor s (linkPeer s l.val) = false)
    (howed : ∀ x ∈ (linkAt s l.val).owed, x = 0) :
    exec (.exitAckSend l) s = .next (checkDrained (ctrl (acked s l.val) l.val 3 0)) := by
  refine congrArg Host.Outcome.next (if_pos ?_)
  simpa [h, hpeer, hheld] using And.intro hpend howed

theorem exitAck_drains (l : Fin 12) (s : State) (h : linkState s l.val = 4) (hlen : s.fab.links.length = 12) :
    (∃ t, exec (.exitAck l) s = .next t ∧ (linkAt t l.val).drained = true ∧ t.stm = s.stm) ∧
    ((topoOf s (linkPeer s l.val)).state = 2 → (∀ p ∈ s.fab.pend, p.dst ≠ linkPeer s l.val) →
      holdsFor s (linkPeer s l.val) = false → (∀ x ∈ (linkAt s l.val).owed, x = 0) →
      ∃ t, exec (.exitAckSend l) s = .next t ∧ (linkAt t l.val).drained = true ∧
        (s.fab.silent = none → t.out.ctrl = s.out.ctrl ++ [(l.val, 3, 0)])) := by
  have hacked : (linkAt (acked s l.val) l.val).drained = true := by
    rw [acked, linkAt_onLink_same _ (link_lt l hlen)]
  have hlinks (u : State) : linkAt (checkDrained u) l.val = linkAt u l.val := by
    rw [linkAt, (checkDrained_keeps u).fab rfl]
    rfl
  refine ⟨⟨_, exec_exitAck h, by rw [hlinks, hacked], (checkDrained_keeps _).stm rfl⟩, fun hpeer hpend hheld howed =>
    ⟨_, exec_exitAckSend h hpeer hpend hheld howed, by rw [hlinks, linkAt_ctrl, hacked], fun hs => ?_⟩⟩
  rw [(checkDrained_keeps _).out rfl]
  exact ctrl_sent l.val 3 0 (s := acked s l.val) hs

/-- A domain that falls shows it in its own fields, and takes its pair's links OFF (Table FAB-6). -/
theorem get_startFall (s : State) (d x : Nat) (f : Fld) (hf : f.blk = 0xF) (hl : ∀ l < 12, f.key ≠ (Fld.fabLinkStatusState l).key) :
    get (startFall s d x) f = get s f := by
  have hdom (u : State) (g : Fld) (v : Nat) (hg : 0x1000000 ≤ g.off) : get (set u g v) f = get u f := get_set_above u f g v hf hg
  have hoff (k : Nat) (hk : 0x1000000 ≤ k) : 0x1000000 ≤ k + 0x8 * d := Nat.le_add_right_of_le hk
  have hphase : get (set (set s (Fld.lgtDomStatusPhase d) 1) (Fld.lgtDomStatusBlocked d) 0) f = get s f := by
    rw [hdom _ (Fld.lgtDomStatusBlocked d) _ (hoff _ (by decide)), hdom _ (Fld.lgtDomStatusPhase d) _ (hoff _ (by decide))]
  unfold startFall onDom
  dsimp only
  rw [get_onLgt]
  split
  · rename_i hd
    refine (get_foldl_mem f _ _ (fun l hmem u => get_set_other u f _ 0 (hl l ?_)) _).trans hphase
    simp only [List.mem_cons, List.not_mem_nil, or_false] at hmem
    omega
  · exact hphase

theorem get_tripFall (s : State) (f : Fld) (hf : f.blk = 0xF) (hl : ∀ l < 12, f.key ≠ (Fld.fabLinkStatusState l).key) :
    get (tripFall s) f = get s f := by
  unfold tripFall
  exact get_ite (get_foldl f _ (fun u d => get_ite (get_startFall u d 4 f hf hl) rfl) _ s) rfl

theorem get_drainedNow (s : State) (f : Fld) (hf : f.blk = 0xF) (hl : ∀ l < 12, f.key ≠ (Fld.fabLinkStatusState l).key) :
    get (drainedNow s) f = get (set s Fld.fabExitCtlDrained 1) f :=
  (get_tripFall _ f hf hl).trans (get_ite rfl rfl)

theorem exitTimeout_forces (s : State) (hw : s.fab.exitWritten = true) (hd : get s Fld.fabExitCtlDrained = 0) :
    ∃ t, exec .exitTimeout s = .next t ∧ get t Fld.fabExitCtlDrained = 1 ∧ get t Fld.fabExitCtlForced = 1 ∧
      s.fab.exitSt + 1000 * getA s Fld.fabExitCtlExitTimeoutUs ≤ t.st := by
  refine ⟨_, congrArg Host.Outcome.next (if_pos (by simp [hw, isSet, hd])), ?_, ?_, ?_⟩
  · rw [get_drainedNow _ _ (by decide) (by decide)]
    exact get_set_same _ _ _
  · rw [get_drainedNow _ _ (by decide) (by decide), get_set_other _ _ _ _ (by decide)]
    exact get_set_same _ _ _
  · rw [(drainedNow_fp rfl _ (Fp.refl 528385 _)).st rfl]
    exact le_max_right _ _

theorem exitTimeout_notWritten (s : State) (h : s.fab.exitWritten = false) : exec .exitTimeout s = .next s :=
  congrArg Host.Outcome.next (if_neg (by simp [h]))

/-! STATUS and ADVERT. -/

section
variable {src : Fin 1024} {tag : BitVec 16} {ep : BitVec 8} {code outcome value detail : Nat} {s : State}

theorem status_stale (he : ep.toNat ≠ get s Fld.fabEpochEpoch) :
    exec (.status src tag ep code outcome value detail) s = .next (inc s Fld.fabOrphanStaleReply 1) :=
  congrArg Host.Outcome.next (if_pos he)

/-- The pending entry of a request is free again, and a request that waited takes it (R531). -/
def freePend (s : State) (p : Pend) : State :=
  let w := s.onFab fun b => { b with pend := b.pend.erase p }
  issueWaiting (set w Fld.fabPendingV w.fab.pend.length)

/-- What the answer does for the owner of its request. -/
def answerPend (s : State) (p : Pend) (src code outcome value detail : Nat) : State :=
  if p.kind = 0x10 then decideTag s p.tag code outcome value detail
  else if p.kind = 0x12 then
    (match s.und.restore.find? fun r => r.tag = p.tag with
     | some r => restAnswer s r.slot (outcome = 2)
     | none => s)
  else if p.kind = 0x14 then sceneStatus s src outcome value detail
  else s

theorem exec_status_pend {p : Pend} (he : ep.toNat = get s Fld.fabEpochEpoch)
    (hp : (s.fab.pend.find? fun p => p.tag = tag.toNat && p.dst = src.val) = some p) :
    exec (.status src tag ep code outcome value detail) s =
      .next (checkDrained (answerPend (freePend s p) p src.val code outcome value detail)) := by
  change execStatus src tag ep code outcome value detail s = _
  unfold execStatus
  rw [if_neg (not_not.2 he), hp]
  rfl

theorem status_answers {p : Pend} (he : ep.toNat = get s Fld.fabEpochEpoch)
    (hp : (s.fab.pend.find? fun p => p.tag = tag.toNat && p.dst = src.val) = some p) :
    (p.kind = 0x10 → exec (.status src tag ep code outcome value detail) s =
      .next (checkDrained (decideTag (freePend s p) p.tag code outcome value detail))) ∧
    (p.kind = 0x12 → ∀ r, ((freePend s p).und.restore.find? fun r => r.tag = p.tag) = some r →
      exec (.status src tag ep code outcome value detail) s =
        .next (checkDrained (restAnswer (freePend s p) r.slot (outcome = 2)))) ∧
    (p.kind = 0x14 → exec (.status src tag ep code outcome value detail) s =
      .next (checkDrained (sceneStatus (freePend s p) src.val outcome value detail))) := by
  rw [exec_status_pend he hp]
  refine ⟨fun hk => ?_, fun hk r hr => ?_, fun hk => ?_⟩
  · rw [answerPend, if_pos hk]
  · rw [answerPend, if_neg (by omega), if_pos hk, hr]
  · rw [answerPend, if_neg (by omega), if_neg (by omega), if_pos hk]

/-- The Call Map entry of a Call whose end an answering lead may report (log entry 9). -/
def endingCall (s : State) (tag lead : Nat) : Option CallEnt :=
  s.hiu.callMap.find? fun e => e.tag = tag && e.decided && e.lead = lead && e.finalN.isNone && !e.finalWritten

theorem exec_status_final {e : CallEnt} (he : ep.toNat = get s Fld.fabEpochEpoch)
    (hp : (s.fab.pend.find? fun p => p.tag = tag.toNat && p.dst = src.val) = none)
    (hc : endingCall s tag.toNat src.val = some e) :
    exec (.status src tag ep code outcome value detail) s = .next (arriveFinal s e code value detail) := by
  rw [endingCall] at hc
  change execStatus src tag ep code outcome value detail s = _
  unfold execStatus
  rw [if_neg (not_not.2 he), hp]
  dsimp only
  rw [hc]

/-- A STATUS that answers no request and ends no Call: a message under the tag no request has (log entry 139), or an orphan. -/
theorem exec_status_noCall (he : ep.toNat = get s Fld.fabEpochEpoch)
    (hp : (s.fab.pend.find? fun p => p.tag = tag.toNat && p.dst = src.val) = none)
    (hc : endingCall s tag.toNat src.val = none) :
    exec (.status src tag ep code outcome value detail) s = .next
      (if tag.toNat = lostTag ∧ code = stCompanyLost ∧ outcome = 0 then endLostHere s detail value
       else if tag.toNat = lostTag ∧ outScene ≤ outcome then deviceTold s src.val outcome value detail
       else if tag.toNat = lostTag ∧ 3 ≤ outcome then srcTells s src.val outcome detail value code
       else if tag.toNat = lostTag ∧ code = stOk then handleFrom s src.val value detail
       else inc s Fld.fabOrphanOrphan 1) := by
  rw [endingCall] at hc
  change execStatus src tag ep code outcome value detail s = _
  unfold execStatus
  rw [if_neg (not_not.2 he), hp]
  dsimp only
  rw [hc]

theorem endingCall_none {tag : Nat} (lead : Nat) (h : ∀ e ∈ s.hiu.callMap, e.tag ≠ tag) : endingCall s tag lead = none :=
  List.find?_eq_none.2 fun e he => by simp [h e he]

theorem status_unasked (he : ep.toNat = get s Fld.fabEpochEpoch)
    (hp : (s.fab.pend.find? fun p => p.tag = tag.toNat && p.dst = src.val) = none) :
    (∀ e, (s.hiu.callMap.find? fun e => e.tag = tag.toNat && e.decided && e.lead = src.val && e.finalN.isNone &&
        !e.finalWritten) = some e →
      exec (.status src tag ep code outcome value detail) s = .next (arriveFinal s e code value detail)) ∧
    ((∀ e ∈ s.hiu.callMap, e.tag ≠ tag.toNat) → tag.toNat ≠ 0xFFFF →
      exec (.status src tag ep code outcome value detail) s = .next (inc s Fld.fabOrphanOrphan 1)) ∧
    ((∀ e ∈ s.hiu.callMap, e.tag ≠ 0xFFFF) → tag.toNat = 0xFFFF →
      (code = stCompanyLost → outcome = 0 →
        exec (.status src tag ep code outcome value detail) s = .next (endLostHere s detail value)) ∧
      (outScene ≤ outcome →
        exec (.status src tag ep code outcome value detail) s = .next (deviceTold s src.val outcome value detail)) ∧
      (3 ≤ outcome → outcome < outScene →
        exec (.status src tag ep code outcome value detail) s = .next (srcTells s src.val outcome detail value code))) := by
  refine ⟨fun e hc => exec_status_final he hp hc, fun h htag => ?_, fun h htag => ?_⟩
  · rw [exec_status_noCall he hp (endingCall_none _ h)]
    simp [lostTag, htag]
  · rw [exec_status_noCall he hp (endingCall_none _ (htag ▸ h))]
    have hscene : outScene = 5 := rfl
    refine ⟨fun hc ho => ?_, fun ho => ?_, fun ho ho' => ?_⟩
    · simp [lostTag, htag, hc, ho]
    · have hne : outcome ≠ 0 := by omega
      simp [lostTag, htag, hne, ho]
    · have hne : outcome ≠ 0 := by omega
      simp [lostTag, htag, hne, ho, Nat.not_le.2 ho']

end

theorem advert_replaces (src : Fin 1024) (company model : Nat) (a e x : Bool) (slots blocks cue : Nat) (s : State) :
    ∃ t, exec (.advert src company model a e x slots blocks cue) s = .next t ∧
      (∀ y, y ∈ t.fab.adverts ↔ (y ∈ s.fab.adverts ∧ y.company ≠ company) ∨
        y = ⟨company, model, a, e, x, slots, blocks, cue⟩) ∧ t.regs = s.regs ∧ t.stm = s.stm :=
  ⟨_, rfl, fun y => by simp, rfl, rfl⟩

/-- Settles O44: while one link's EXIT_ACK is out DRAINED cannot be reached, so what EXIT does to the UP links stands; the other commands
follow from their guards. -/
theorem exitsComplete : Obligations.ExitsComplete :=
  ⟨exit_exits, exitFence_exits, exitFence_notUp, exitAck_notExit, exitAck_drains, exitTimeout_forces, exitTimeout_notWritten,
    fun _ _ _ _ _ _ _ _ => ⟨status_stale, fun he => ⟨fun _ hp => status_answers he hp, status_unasked he⟩⟩, advert_replaces⟩

end Sys2Proof.Machine
end

section
/-!
OBLIGATION O35. Items enter, leave, rewind and are displaced in Swales. Each command is said once, in the case where it acts, as one
state built of named steps; the clauses read the items, the entries read out and the registers off that state.
-/
namespace Sys2Proof.Machine

/-! The items of an instance after each operation. -/

theorem swOf_congr {s t : State} (h : t.swl = s.swl) (i : Nat) : swOf t i = swOf s i := by
  rw [swOf, h, swOf]

@[simp] theorem swOf_onSw_same (s : State) (i : Nat) (f : Sw → Sw) : swOf (onSw s i f) i = f (swOf s i) :=
  AMap.getD_setD_same _ _ _ _

@[simp] theorem swOf_set (s : State) (f : Fld) (v i : Nat) : swOf (set s f v) i = swOf s i := rfl

@[simp] theorem swOf_inc (s : State) (f : Fld) (k i : Nat) : swOf (inc s f k) i = swOf s i := rfl

@[simp] theorem swOf_wmUpdate (s : State) (j i : Nat) : swOf (wmUpdate s j) i = swOf s i :=
  swOf_congr ((wmUpdate_fp rfl s j (Fp.refl 524289 s)).swl rfl) i

@[simp] theorem swOf_onLink (s : State) (l : Nat) (f : Link → Link) (i : Nat) : swOf (onLink s l f) i = swOf s i := rfl

/-! Registers of an instance. -/

@[simp] theorem get_onSw (s : State) (i : Nat) (f : Sw → Sw) (g : Fld) : get (onSw s i f) g = get s g := rfl

/-- The fields that a watermark update writes. -/
def wmFlds (i : Nat) : List Fld :=
  [Fld.swlStatusWm i, Fld.swlOccW i, Fld.swlOccR i, Fld.swlStatusEmptyR i, Fld.swlStatusFullW i]

theorem get_wmUpdate_outside {s : State} {i : Nat} {f : Fld} (h : ∀ g ∈ wmFlds i, f.key ≠ g.key) :
    get (wmUpdate s i) f = get s f := by
  have hkeep (u : State) (g : Fld) (v : Nat) (hg : g ∈ wmFlds i) : get (set u g v) f = get u f := get_set_other u f g v (h g hg)
  unfold wmUpdate
  dsimp only
  rw [get_wmPin, hkeep _ (Fld.swlStatusFullW i) _ (by simp [wmFlds]), hkeep _ (Fld.swlStatusEmptyR i) _ (by simp [wmFlds]),
    hkeep _ (Fld.swlOccR i) _ (by simp [wmFlds]), hkeep _ (Fld.swlOccW i) _ (by simp [wmFlds])]
  have hwm (v : Nat) : get (set s (Fld.swlStatusWm i) v) f = get s f := hkeep _ _ _ (by simp [wmFlds])
  exact get_ite (hwm 1) (get_ite (hwm 0) rfl)

theorem swlLostV_outside_wmFlds (i : Nat) : ∀ g ∈ wmFlds i, (Fld.swlLostV i).key ≠ g.key := by
  simp only [wmFlds, List.forall_mem_cons, List.not_mem_nil, false_imp_iff, implies_true, and_true]
  simp only [Fld.key, Fld.swlLostV, Fld.swlStatusWm, Fld.swlOccW, Fld.swlOccR, Fld.swlStatusEmptyR, Fld.swlStatusFullW]
  omega

theorem swlStatusParity_outside_wmFlds (i : Nat) : ∀ g ∈ wmFlds i, (Fld.swlStatusParity i).key ≠ g.key := by
  simp only [wmFlds, List.forall_mem_cons, List.not_mem_nil, false_imp_iff, implies_true, and_true]
  simp only [Fld.key, Fld.swlStatusParity, Fld.swlStatusWm, Fld.swlOccW, Fld.swlOccR, Fld.swlStatusEmptyR, Fld.swlStatusFullW]
  omega

/-- Registers of instances repeat every 0x40 bytes, and no field of a fault report stands at PARITY's place in such a row. -/
theorem swlStatusParity_not_reported (i : Nat) : (Fld.swlStatusParity i).key ∉ reportKeys := fun h => by
  have hplace : ∀ k ∈ reportKeys, k % 2048 ≠ 390 := by decide
  refine hplace _ h ?_
  simp only [Fld.key, Fld.swlStatusParity]
  omega

/-! SWALE_WRITE. -/

/-- A full DISPLACE instance makes room: the oldest item goes and LOST counts it. -/
def displaceOldest (s : State) (i : Nat) : State :=
  onSw (inc s (Fld.swlLostV i) 1) i fun w => { w with items := w.items.drop 1 }

/-- An item takes its place at the end; INJECT is used up by an item with a word. -/
def enterItem (s : State) (i : Nat) (inject : Bool) (ws : List (BitVec 64)) : State :=
  let s := onSw s i fun w => { w with items := w.items ++ [enterWords inject ws] }
  wmUpdate (set s (Fld.swlCtlInject i) (get s (Fld.swlCtlInject i) - b2n (!ws.isEmpty))) i

theorem enterItem_items (s : State) (i : Nat) (inject : Bool) (ws : List (BitVec 64)) :
    (swOf (enterItem s i inject ws) i).items = (swOf s i).items ++ [enterWords inject ws] := by
  simp [enterItem]

theorem enterItem_lost (s : State) (i : Nat) (inject : Bool) (ws : List (BitVec 64)) :
    get (enterItem s i inject ws) (Fld.swlLostV i) = get s (Fld.swlLostV i) := by
  have hkey : (Fld.swlLostV i).key ≠ (Fld.swlCtlInject i).key := by
    simp only [Fld.key, Fld.swlLostV, Fld.swlCtlInject]
    omega
  unfold enterItem
  dsimp only
  rw [get_wmUpdate_outside (swlLostV_outside_wmFlds i), get_set_other _ _ _ _ hkey, get_onSw]

theorem displaceOldest_items (s : State) (i : Nat) : (swOf (displaceOldest s i) i).items = (swOf s i).items.drop 1 := by
  simp [displaceOldest]

theorem displaceOldest_lost (s : State) (i : Nat) :
    get (displaceOldest s i) (Fld.swlLostV i) = min (2 ^ 32 - 1) (get s (Fld.swlLostV i) + 1) := by
  rw [displaceOldest, get_onSw, get_inc_same]
  simp only [Fld.swlLostV, satAdd]
  omega

section
variable (i : Nat) (ws : List (BitVec 64)) (s : State)

/-- A write that an instance in RUN accepts. -/
theorem exec_swaleWrite_accepted (hx : swlExists i = true) (hrun : swPhase s i = 0)
    (hroom : swFull s i = true → swDisplace s i = true) :
    exec (.swaleWrite i ws) s = .next
      (enterItem (if swFull s i then displaceOldest s i else s) i (isSet s (Fld.swlCtlInject i)) ws) := by
  have hacc : (swFull s i && !swDisplace s i) = false := by
    cases hf : swFull s i
    · rfl
    · rw [hroom hf]
      rfl
  change execSwaleWrite i ws s = _
  unfold execSwaleWrite
  rw [hx, hacc, if_neg (not_not.2 hrun)]
  rfl

theorem swaleWrite_enters (hx : swlExists i = true) (hrun : swPhase s i = 0) (hroom : swFull s i = false) :
    ∃ t, exec (.swaleWrite i ws) s = .next t ∧
      (swOf t i).items = (swOf s i).items ++ [enterWords (isSet s (Fld.swlCtlInject i)) ws] := by
  refine ⟨_, exec_swaleWrite_accepted i ws s hx hrun (by simp [hroom]), ?_⟩
  rw [enterItem_items, hroom, if_neg Bool.false_ne_true]

theorem swaleWrite_displaces (hx : swlExists i = true) (hrun : swPhase s i = 0) (hfull : swFull s i = true)
    (hd : swDisplace s i = true) :
    ∃ t, exec (.swaleWrite i ws) s = .next t ∧
      (swOf t i).items = (swOf s i).items.drop 1 ++ [enterWords (isSet s (Fld.swlCtlInject i)) ws] ∧
      get t (Fld.swlLostV i) = min (2 ^ 32 - 1) (get s (Fld.swlLostV i) + 1) := by
  refine ⟨_, exec_swaleWrite_accepted i ws s hx hrun fun _ => hd, ?_, ?_⟩
  · rw [enterItem_items, if_pos hfull, displaceOldest_items]
  · rw [enterItem_lost, if_pos hfull, displaceOldest_lost]

/-- A BLOCK write that finds no room waits outside. -/
theorem swaleWrite_blocked (hx : swlExists i = true) (hrun : swPhase s i = 0) (hfull : swFull s i = true)
    (hd : swDisplace s i = false) : exec (.swaleWrite i ws) s = .next s := by
  change execSwaleWrite i ws s = _
  unfold execSwaleWrite
  rw [hx, hfull, hd, if_neg (not_not.2 hrun)]
  rfl

theorem swaleWrite_notRunning (hx : swlExists i = true) (hrun : swPhase s i ≠ 0) :
    exec (.swaleWrite i ws) s = .next (if swDisplace s i then inc s (Fld.swlLostV i) 1 else s) := by
  change execSwaleWrite i ws s = _
  unfold execSwaleWrite
  rw [hx, if_pos hrun]
  rfl

end

/-! SWALE_READ. -/

/-- The oldest item leaves; a marked instance keeps it among the entries read out. -/
def takeItem (s : State) (i : Nat) (w : List (Nat × Bool)) (r : List (List (Nat × Bool))) : State :=
  onSw s i fun x => { x with items := r, readOut := if swMarked s i then x.readOut ++ [w] else x.readOut }

/-- The space that an item leaves in a link's receive buffer is owed to the link's partner. -/
def oweSpace (s : State) (i : Nat) (w : List (Nat × Bool)) : State :=
  if 0x20 ≤ i ∧ i < 0x80 then owe s ((i - 0x20) / 8) ((i - 0x20) % 8) (pktUnits (itemPkt w)) else s

/-- Words read with wrong parity are counted and reported. -/
def noteParity (s : State) (i bad : Nat) : State :=
  if bad = 0 then s
  else
    let s := set (inc s (Fld.swlCountPoisoned i) bad) (Fld.swlStatusParity i) 1
    let s := report (advance s) 0x0B02 i (fresh s % 2 ^ 32)
    if controlItems i then report (advance s) 0x0B03 i (fresh s % 2 ^ 32) else s

@[simp] theorem swOf_oweSpace (s : State) (i : Nat) (w : List (Nat × Bool)) (j : Nat) : swOf (oweSpace s i w) j = swOf s j :=
  swOf_congr ((ite_fp (owe_fp rfl s _ _ _ (Fp.refl 1024 s)) (Fp.refl 1024 s)).swl rfl) j

@[simp] theorem swOf_noteParity (s : State) (i bad j : Nat) : swOf (noteParity s i bad) j = swOf s j := by
  have hrep (u : State) (c d : Nat) : swOf (report (advance u) c i d) j = swOf u j :=
    swOf_congr ((report_fp rfl (advance u) c i d (Fp.refl 950275 _)).swl rfl) j
  unfold noteParity
  dsimp only
  split
  · rfl
  · split
    · rw [hrep, hrep, swOf_set, swOf_inc]
    · rw [hrep, swOf_set, swOf_inc]

theorem noteParity_sets_parity (s : State) (i : Nat) {bad : Nat} (hbad : bad ≠ 0) :
    get (noteParity s i bad) (Fld.swlStatusParity i) = 1 := by
  have hrep (u : State) (c d : Nat) :
      get (report (advance u) c i d) (Fld.swlStatusParity i) = get u (Fld.swlStatusParity i) := by
    rw [get_report _ _ _ _ _ (swlStatusParity_not_reported i), get_advance]
  have hset (u : State) : get (set u (Fld.swlStatusParity i) 1) (Fld.swlStatusParity i) = 1 := get_set_same u _ 1
  unfold noteParity
  rw [if_neg hbad]
  exact get_ite ((hrep _ _ _).trans ((hrep _ _ _).trans (hset _))) ((hrep _ _ _).trans (hset _))

section
variable (i : Nat) (w : List (Nat × Bool)) (r : List (List (Nat × Bool))) (s : State)

theorem exec_swaleRead_item (hrun : swPhase s i = 0) (hitems : (swOf s i).items = w :: r) :
    exec (.swaleRead i) s =
      .next (wmUpdate (noteParity (oweSpace (takeItem s i w r) i w) i (w.filter (·.2)).length) i) := by
  change execSwaleRead i s = _
  unfold execSwaleRead
  rw [if_neg (not_not.2 hrun), hitems]
  rfl

theorem swaleRead_takes_oldest (hrun : swPhase s i = 0) (hitems : (swOf s i).items = w :: r) :
    ∃ t, exec (.swaleRead i) s = .next t ∧ (swOf t i).items = r ∧
      (swOf t i).readOut = (if swMarked s i then (swOf s i).readOut ++ [w] else (swOf s i).readOut) ∧
      ((∃ x ∈ w, x.2 = true) → get t (Fld.swlStatusParity i) = 1) := by
  refine ⟨_, exec_swaleRead_item i w r s hrun hitems, ?_, ?_, fun ⟨x, hx, hbad⟩ => ?_⟩
  · simp [takeItem]
  · simp [takeItem]
  · have hne : (w.filter (·.2)).length ≠ 0 :=
      (List.length_pos_of_mem (List.mem_filter.2 ⟨hx, hbad⟩)).ne'
    rw [get_wmUpdate_outside (swlStatusParity_outside_wmFlds i)]
    exact noteParity_sets_parity _ i hne

/-- An empty instance, or one not in RUN, gives the idle item. -/
theorem swaleRead_idle (h : (swOf s i).items = [] ∨ swPhase s i ≠ 0) : exec (.swaleRead i) s = .next s := by
  change execSwaleRead i s = _
  unfold execSwaleRead
  by_cases hrun : swPhase s i = 0
  · have hitems : (swOf s i).items = [] := h.resolve_right (not_not.2 hrun)
    rw [if_neg (not_not.2 hrun), hitems]
  · rw [if_pos hrun]

end

/-! MARK, REWIND and RELEASE on a marked instance in RUN. -/

section
variable (i : Nat) (s : State)

theorem mark_moves_mark (hok : (swlExists i && swMarked s i && swPhase s i = 0) = true) :
    ∃ t, exec (.mark i) s = .next t ∧ (swOf t i).markAt = (swOf s i).readOut.length ∧ (swOf t i).items = (swOf s i).items := by
  refine ⟨onSw s i fun w => { w with markAt := w.readOut.length }, congrArg Host.Outcome.next (if_pos hok), ?_⟩
  simp

theorem rewind_returns_items (hok : (swlExists i && swMarked s i && swPhase s i = 0) = true) :
    ∃ t, exec (.rewind i) s = .next t ∧ (swOf t i).items = (swOf s i).readOut.drop (swOf s i).markAt ++ (swOf s i).items ∧
      (swOf t i).readOut = (swOf s i).readOut.take (swOf s i).markAt := by
  refine ⟨_, congrArg Host.Outcome.next (if_pos hok), ?_⟩
  simp

theorem release_drops_read (k : Nat) (hok : (swlExists i && swMarked s i && swPhase s i = 0) = true) :
    ∃ t, exec (.release i k) s = .next t ∧ (swOf t i).readOut = (swOf s i).readOut.drop k ∧
      (swOf t i).markAt = (swOf s i).markAt - k ∧ (swOf t i).items = (swOf s i).items := by
  refine ⟨_, congrArg Host.Outcome.next (if_pos hok), ?_⟩
  simp

theorem marks_move (hx : swlExists i = true) (hm : swMarked s i = true) (hrun : swPhase s i = 0) :
    (∃ t, exec (.mark i) s = .next t ∧ (swOf t i).markAt = (swOf s i).readOut.length ∧ (swOf t i).items = (swOf s i).items) ∧
    (∃ t, exec (.rewind i) s = .next t ∧ (swOf t i).items = (swOf s i).readOut.drop (swOf s i).markAt ++ (swOf s i).items ∧
      (swOf t i).readOut = (swOf s i).readOut.take (swOf s i).markAt) ∧
    (∀ k, ∃ t, exec (.release i k) s = .next t ∧ (swOf t i).readOut = (swOf s i).readOut.drop k ∧
      (swOf t i).markAt = (swOf s i).markAt - k ∧ (swOf t i).items = (swOf s i).items) :=
  have hok : (swlExists i && swMarked s i && swPhase s i = 0) = true := by simp [hx, hm, hrun]
  ⟨mark_moves_mark i s hok, rewind_returns_items i s hok, fun k => release_drops_read i s k hok⟩

/-- An id that no table lists is ignored by every command. -/
theorem absent_swale_ignored (hx : swlExists i = false) :
    (∀ ws, exec (.swaleWrite i ws) s = .next s) ∧ exec (.mark i) s = .next s ∧ exec (.rewind i) s = .next s ∧
      (∀ k, exec (.release i k) s = .next s) ∧ ∀ v, exec (.swaleReset i v) s = .next s := by
  have hskip : ¬ (swlExists i && swMarked s i && swPhase s i = 0) = true := by simp [hx]
  have habsent : (!swlExists i) = true := by rw [hx]; rfl
  exact ⟨fun _ => congrArg Host.Outcome.next (if_pos habsent), congrArg Host.Outcome.next (if_neg hskip),
    congrArg Host.Outcome.next (if_neg hskip), fun _ => congrArg Host.Outcome.next (if_neg hskip), fun _ => congrArg Host.Outcome.next (if_pos habsent)⟩

end

/-- Settles O35: the instance's phase, room and policy decide each command, and reports, credits and watermarks leave the items alone. -/
theorem swaleItemsComplete : Obligations.SwaleItemsComplete :=
  ⟨swaleWrite_enters, swaleWrite_blocked, swaleWrite_notRunning, swaleWrite_displaces, swaleRead_takes_oldest, swaleRead_idle,
    marks_move, absent_swale_ignored⟩

end Sys2Proof.Machine
end

section
/-!
OBLIGATION O50. The Stageplot: loads, swaps and scene changes.
-/
namespace Sys2Proof.Machine

/-! What the shared operations leave of the Stageplot's state and registers. -/

theorem get_tellDevs (s : State) (ds : List Nat) (outcome value detail : Nat) (f : Fld) (h : f.blk ≠ 0xF) :
    get (tellDevs s ds outcome value detail) f = get s f := by
  refine get_foldl f _ (fun u d => ?_) ds s
  split
  · rfl
  · exact get_sendPkt _ _ _ _ _ _ _ _ h

theorem tellDevs_spl (s : State) (ds : List Nat) (outcome value detail : Nat) :
    (tellDevs s ds outcome value detail).spl = s.spl :=
  (tellDevs_fp rfl s ds outcome value detail (Fp.refl 1049601 s)).spl rfl

theorem get_abandonSnap (s : State) (f : Fld) (h : f.blk ≠ 0x13) : get (abandonSnap s) f = get s f := by
  unfold abandonSnap dropView
  split
  · rfl
  · rw [get_onUnd, get_onUnd, get_set_blk _ _ Fld.undStatusLastResult _ h, get_set_blk _ _ Fld.undStatusState _ h,
      get_inc_blk _ _ Fld.undStatusAbandoned _ h]

theorem abandonSnap_spl (s : State) : (abandonSnap s).spl = s.spl := (abandonSnap_fp rfl s (Fp.refl 16385 s)).spl rfl

theorem demandDom_spl (s : State) (d : Nat) : (demandDom s d).spl = s.spl := (demandDom_fp rfl s d (Fp.refl 4097 s)).spl rfl

theorem demandDom_mdw (s : State) (d : Nat) : (demandDom s d).mdw = s.mdw := (demandDom_fp rfl s d (Fp.refl 4097 s)).mdw rfl

theorem audit_spl (s : State) (code fn : Nat) (spdm : Bool) (status detail : Nat) :
    (audit s code fn spdm status detail).spl = s.spl :=
  (audit_fp rfl s code fn spdm status detail (Fp.refl 196609 s)).spl rfl

theorem audit_stm (s : State) (code fn : Nat) (spdm : Bool) (status detail : Nat) :
    (audit s code fn spdm status detail).stm = s.stm :=
  (audit_fp rfl s code fn spdm status detail (Fp.refl 196609 s)).stm rfl

/-- An audit record changes no active value. -/
theorem audit_act (s : State) (code fn : Nat) (spdm : Bool) (status detail : Nat) :
    (audit s code fn spdm status detail).regs.act = s.regs.act := by
  unfold audit
  dsimp only
  split
  · split <;> rfl
  · split
    · split
      · split <;> rfl
      · rfl
    · rfl

/-! Loads (R636 to R638). -/

section
variable {s : State} {v : Word}

/-- The image that SPL_LOAD_ADDR names is taken, and waits for domain 62. -/
def loadTaken (u : State) : State :=
  (set (demandDom u 62) Fld.splLoadStatusResult 1).onSpl fun p => { p with image := stagedImage u (imageAddr u) }

theorem exec_stageplotLoad_takes (hr : reaches s 0 Fld.splLoadCtlLoad.off = true) (hb : bit v 0 = true)
    (hroom : auditRoom (commandWord s 0 Fld.splLoadCtlLoad.off v) = true)
    (hidle : get (commandWord s 0 Fld.splLoadCtlLoad.off v) Fld.splLoadStatusResult ∉ [1, 6]) :
    exec (.stageplotLoad v) s = .next (loadTaken (commandWord s 0 Fld.splLoadCtlLoad.off v)) :=
  congrArg Host.Outcome.next (if_pos (by rw [hr, hb, hroom, decide_eq_true hidle]; rfl))

theorem exec_stageplotLoad_busy
    (hbusy : get (commandWord s 0 Fld.splLoadCtlLoad.off v) Fld.splLoadStatusResult ∈ [1, 6]) :
    exec (.stageplotLoad v) s = .next (commandWord s 0 Fld.splLoadCtlLoad.off v) :=
  congrArg Host.Outcome.next (if_neg (by rw [decide_eq_false (not_not.2 hbusy)]; simp))

theorem loadTaken_image (u : State) : get (loadTaken u) Fld.splLoadStatusResult = 1 ∧
    (loadTaken u).spl.image = stagedImage u (imageAddr u) ∧ (loadTaken u).spl.shadow = u.spl.shadow ∧
    (loadTaken u).mdw = u.mdw := by
  unfold loadTaken
  refine ⟨?_, ?_, ?_, demandDom_mdw u 62⟩
  · rw [get_onSpl]
    exact get_set_of_lt _ Fld.splLoadStatusResult 1 (by decide)
  · rw [State.onSpl_spl]
  · rw [State.onSpl_spl, set_spl, demandDom_spl]

theorem stageplotLoadDone_idle (h : get s Fld.splLoadStatusResult ≠ 1) : exec .stageplotLoadDone s = .next s :=
  congrArg Host.Outcome.next (if_pos h)

theorem stageplotLoadDone_waits (h : get s Fld.splLoadStatusResult = 1) (hdark : domLit s 62 = false) :
    exec .stageplotLoadDone s = .next (demandDom s 62) := by
  change execStageplotLoadDone s = _
  simp [execStageplotLoadDone, h, hdark]

/-- The image taken in is let go. -/
def imageGone (s : State) : State := s.onSpl fun p => { p with image := [] }

/-- RESULT and FIRST_BAD of a load. -/
def loadResult (s : State) (r b : Nat) : State :=
  set (set (imageGone s) Fld.splLoadStatusResult r) Fld.splLoadStatusFirstBad b

theorem exec_stageplotLoadDone_refuses {r b : Nat} (h : get s Fld.splLoadStatusResult = 1) (hlit : domLit s 62 = true)
    (hbad : imageVerdict s s.spl.image = some (r, b)) :
    exec .stageplotLoadDone s = .next (audit (advance (loadResult s r b)) 7 0 false stOk r) := by
  change execStageplotLoadDone s = _
  simp [execStageplotLoadDone, loadResult, imageGone, h, hlit, hbad]

theorem exec_stageplotLoadDone_verified {p : Plot} (h : get s Fld.splLoadStatusResult = 1) (hlit : domLit s 62 = true)
    (hgood : imageVerdict s s.spl.image = none) (hp : plotFrom s.spl.image = some p) :
    exec .stageplotLoadDone s = .next (putShadow (audit (loadResult s 2 0) 7 0 false stOk 2) p) := by
  change execStageplotLoadDone s = _
  simp [execStageplotLoadDone, loadResult, imageGone, h, hlit, hgood, hp]

theorem stageplotLoadDone_refuses {r b : Nat} (h : get s Fld.splLoadStatusResult = 1) (hlit : domLit s 62 = true)
    (hbad : imageVerdict s s.spl.image = some (r, b)) : ∃ t, exec .stageplotLoadDone s = .next t ∧
      get t Fld.splLoadStatusResult = r % 2 ^ Fld.splLoadStatusResult.width ∧
      get t Fld.splLoadStatusFirstBad = b % 2 ^ Fld.splLoadStatusFirstBad.width ∧ t.spl = (imageGone s).spl ∧ t.stm = s.stm := by
  refine ⟨_, exec_stageplotLoadDone_refuses h hlit hbad, ?_, ?_, audit_spl _ _ _ _ _ _, audit_stm _ _ _ _ _ _⟩
  · rw [get_audit _ _ _ _ _ _ _ (by decide), get_advance]
    exact (get_set_other _ Fld.splLoadStatusResult Fld.splLoadStatusFirstBad _ (by decide)).trans (get_set_same _ _ _)
  · rw [get_audit _ _ _ _ _ _ _ (by decide), get_advance]
    exact get_set_same _ _ _

/-- What no register write changes, a new shadow changes only in `Spl.shadow`. -/
theorem putShadow_parts (s : State) (p : Plot) :
    (putShadow s p).spl = { s.spl with shadow := some p } ∧ (putShadow s p).regs.act = s.regs.act := by
  have hmarks (u : State) : (rxMarks u p).regs.act = u.regs.act := by
    unfold rxMarks
    refine foldl_keeps (·.regs.act) _ (fun _ _ => ?_) _ u
    rfl
  have hmarksSpl (u : State) : (rxMarks u p).spl = u.spl := (rxMarks_fp rfl u p (Fp.refl 1 u)).spl rfl
  unfold putShadow
  constructor
  · refine congrArg (fun x : Spl => { x with shadow := some p }) ?_
    refine (foldl_keeps (·.spl) _ (fun u x => ?_) _ _).trans (hmarksSpl _)
    split <;> rfl
  · refine (foldl_keeps (·.regs.act) _ (fun u x => ?_) _ _).trans (hmarks _)
    split <;> rfl

/-- The registers that show the shadow after a load (R638). -/
theorem putShadow_shown (s : State) (p : Plot) : get (putShadow s p) Fld.splShadowIdV = p.planId % 2 ^ 32 ∧
    get (putShadow s p) Fld.splShadowSeqV = p.seq % 2 ^ 32 ∧ get (putShadow s p) Fld.splSwapStatusDirty = 0 := by
  unfold putShadow
  refine ⟨?_, ?_, get_set_same _ Fld.splSwapStatusDirty 0⟩
  · rw [get_set_other _ _ _ _ (by decide), get_set_other _ _ _ _ (by decide)]
    exact get_set_same _ Fld.splShadowIdV _
  · rw [get_set_other _ _ _ _ (by decide)]
    exact get_set_same _ Fld.splShadowSeqV _

theorem stageplotLoadDone_verified {p : Plot} (h : get s Fld.splLoadStatusResult = 1) (hlit : domLit s 62 = true)
    (hgood : imageVerdict s s.spl.image = none) (hp : plotFrom s.spl.image = some p) : ∃ t, exec .stageplotLoadDone s = .next t ∧
      t.spl.shadow = some p ∧ t.spl.active = s.spl.active ∧ get t Fld.splShadowIdV = p.planId % 2 ^ 32 ∧
      get t Fld.splShadowSeqV = p.seq % 2 ^ 32 ∧ get t Fld.splSwapStatusDirty = 0 ∧ t.regs.act = s.regs.act := by
  obtain ⟨hspl, hact⟩ := putShadow_parts (audit (loadResult s 2 0) 7 0 false stOk 2) p
  obtain ⟨hid, hseq, hdirty⟩ := putShadow_shown (audit (loadResult s 2 0) 7 0 false stOk 2) p
  rw [audit_spl] at hspl
  exact ⟨_, exec_stageplotLoadDone_verified h hlit hgood hp, by rw [hspl], by rw [hspl]; rfl, hid, hseq, hdirty,
    hact.trans (audit_act _ _ _ _ _ _)⟩

end

/-! Swaps (R640, R644, R648, R664). -/

theorem setSwapState_spl (s : State) (v : Nat) : (setSwapState s v).spl = s.spl :=
  (setSwapState_fp rfl s v (Fp.refl 1 s)).spl rfl

theorem get_setSwapState_other (s : State) (v : Nat) (f : Fld) (h : f.key ≠ Fld.splSwapStatusState.key) :
    get (setSwapState s v) f = get s f := by
  unfold setSwapState
  split
  · rfl
  · exact get_set_other _ _ _ _ h

/-- A swap just made reads SWAPPING on (R11, R645). -/
theorem get_setSwapState_swapping {s : State} (v : Nat) (h : swapping s = true) :
    get (setSwapState s v) Fld.splSwapStatusState = 2 := by
  rw [setSwapState, if_pos h]
  simp only [swapping, Bool.and_eq_true, decide_eq_true_eq] at h
  exact h.1

theorem get_setSwapState_settled {s : State} {v : Nat} (h : swapping s = false) (hv : v < 8) :
    get (setSwapState s v) Fld.splSwapStatusState = v := by
  rw [setSwapState, h, if_neg Bool.false_ne_true]
  exact get_set_of_lt _ Fld.splSwapStatusState v hv

section
variable {s : State} {n f : Nat}

/-- The schedule is withdrawn. -/
def swapWithdrawn (s : State) : State := (setSwapState s 0).onSpl fun p => { p with swapAt := none }

theorem cancelSwap_before (h : s.spl.swapAt = some (n, f)) (hst : s.st < launchSt s n) : cancelSwap s = swapWithdrawn s := by
  simp [cancelSwap, swapWithdrawn, h, hst]

theorem cancelSwap_launched (h : s.spl.swapAt = some (n, f)) (hst : launchSt s n ≤ s.st) : cancelSwap s = s := by
  simp [cancelSwap, h, Nat.not_lt.2 hst]

theorem cancelSwap_unscheduled (h : s.spl.swapAt = none) : cancelSwap s = s := by
  simp [cancelSwap, h]

/-- A withdrawal, whether or not it comes in time, concerns the schedule alone. -/
theorem cancelSwap_cases (s : State) : cancelSwap s = s ∨ cancelSwap s = swapWithdrawn s := by
  rcases h : s.spl.swapAt with _ | ⟨n, f⟩
  · exact .inl (cancelSwap_unscheduled h)
  · rcases Nat.lt_or_ge s.st (launchSt s n) with hst | hst
    · exact .inr (cancelSwap_before h hst)
    · exact .inl (cancelSwap_launched h hst)

theorem swapWithdrawn_active (s : State) : (swapWithdrawn s).spl.active = s.spl.active := by
  rw [swapWithdrawn, State.onSpl_spl, setSwapState_spl]

theorem cancelSwap_active (s : State) : (cancelSwap s).spl.active = s.spl.active := by
  rcases cancelSwap_cases s with h | h
  · rw [h]
  · rw [h, swapWithdrawn_active]

theorem get_cancelSwap_other (s : State) (f : Fld) (h : f.key ≠ Fld.splSwapStatusState.key) : get (cancelSwap s) f = get s f := by
  rcases cancelSwap_cases s with hc | hc
  · rw [hc]
  · rw [hc]
    exact get_setSwapState_other s 0 f h

end

section
variable {s : State} {v : Word}

/-- What a REQ of function 0 does after its word and the withdrawal that the same word may ask (R640, R664). -/
def swapAsked (u : State) : State :=
  if u.spl.scene.isSome || u.spl.passed.isSome then swapRefused u 5 0
  else if launchSt u (swapCue u) ≤ u.st ∧ get u Fld.splSwapAtLoV + get u Fld.splSwapAtHiV ≠ 0 then swapRefused u 4 0
  else (setSwapState u 1).onSpl fun p => { p with swapAt := some (swapCue u, 0) }

theorem exec_swapReq (hr : reaches s 0 Fld.splSwapCtlReq.off = true) (hb : bit v 0 = true) :
    exec (.swapReq 0 v) s = .next (swapAsked (if bit v 1 then cancelSwap (commandWord s 0 Fld.splSwapCtlReq.off v)
      else commandWord s 0 Fld.splSwapCtlReq.off v)) := by
  change execSwapReq 0 v s = _
  simp [execSwapReq, swapAsked, hr, hb]

theorem swapReq_other_function {fn : Fin 128} (h : fn.val ≠ 0) : exec (.swapReq fn v) s = .next s :=
  congrArg Host.Outcome.next (if_pos h)

theorem swapAsked_changing {u : State} (h : u.spl.scene.isSome = true ∨ u.spl.passed.isSome = true) :
    swapAsked u = swapRefused u 5 0 := if_pos (Bool.or_eq_true_iff.2 h)

theorem swapAsked_late {u : State} (hs : u.spl.scene = none) (hp : u.spl.passed = none) (hl : launchSt u (swapCue u) ≤ u.st)
    (ha : get u Fld.splSwapAtLoV + get u Fld.splSwapAtHiV ≠ 0) : swapAsked u = swapRefused u 4 0 := by
  rw [swapAsked, hs, hp, if_neg (by decide), if_pos ⟨hl, ha⟩]

theorem swapAsked_schedules {u : State} (hs : u.spl.scene = none) (hp : u.spl.passed = none)
    (h : u.st < launchSt u (swapCue u) ∨ get u Fld.splSwapAtLoV + get u Fld.splSwapAtHiV = 0) :
    get (swapAsked u) Fld.splSwapStatusState = (if swapping u then 2 else 1) ∧
      (swapAsked u).spl.swapAt = some (swapCue u, 0) ∧ (swapAsked u).spl.active = u.spl.active := by
  have hset : swapAsked u = (setSwapState u 1).onSpl fun p => { p with swapAt := some (swapCue u, 0) } := by
    rw [swapAsked, hs, hp, if_neg (by decide), if_neg fun ⟨hl, ha⟩ => h.elim (Nat.not_lt.2 hl) ha]
  rw [hset]
  refine ⟨?_, rfl, ?_⟩
  · rw [get_onSpl]
    split
    next hw => exact get_setSwapState_swapping 1 hw
    next hw => exact get_setSwapState_settled (Bool.eq_false_iff.2 hw) (by decide)
  · rw [State.onSpl_spl, setSwapState_spl]

theorem exec_swapCancel (hr : reaches s 0 Fld.splSwapCtlCancel.off = true) (h0 : bit v 0 = false) (h1 : bit v 1 = true) :
    exec (.swapCancel v) s = .next (cancelSwap (commandWord s 0 Fld.splSwapCtlCancel.off v)) :=
  congrArg Host.Outcome.next (if_pos (by rw [hr, h0, h1]; rfl))

theorem swapWithdrawn_shown (u : State) : (swapping u = false → get (swapWithdrawn u) Fld.splSwapStatusState = 0) ∧
    (swapWithdrawn u).spl.swapAt = none ∧ get (swapWithdrawn u) Fld.splSwapStatusReason = get u Fld.splSwapStatusReason ∧
    get (swapWithdrawn u) Fld.splRefuseMapV = get u Fld.splRefuseMapV :=
  ⟨fun h => get_setSwapState_settled h (by decide), rfl, get_setSwapState_other u 0 _ (by decide),
    get_setSwapState_other u 0 _ (by decide)⟩

end

/-! The start of a scene change (R652 to R656). -/

theorem get_tellScene (s : State) (c : Scene) (outcome : Nat) (f : Fld) (h : f.blk ≠ 0xF) :
    get (tellScene s c outcome) f = get s f := get_tellDevs _ _ _ _ _ _ h

theorem tellScene_spl (s : State) (c : Scene) (outcome : Nat) : (tellScene s c outcome).spl = s.spl := tellDevs_spl _ _ _ _ _

theorem request_spl (s : State) (kind dst tag : Nat) (body : List Byte) : (request s kind dst tag body).spl = s.spl :=
  (request_fp rfl s kind dst tag body (Fp.refl 1049601 s)).spl rfl

theorem sceneVerdict_lt {found : List Nat} {r : Nat} (h : sceneVerdict found = some r) : r < 16 := by
  have hmem : r ∈ [3, 2, 4, 6] := List.mem_of_find?_eq_some h
  simp only [List.mem_cons, List.not_mem_nil, or_false] at hmem
  omega

section
variable {s : State} {c : Scene}

/-- The scene change is accepted: swaps of this member are withdrawn and the members are told (R655). -/
def sceneAccepted (s : State) (c : Scene) : State :=
  (tellScene (cancelSwap (abandonSnap (setScene (set (set s Fld.splSceneStatusResult 0) Fld.splSceneStatusApplied 0) 1))) c
    outScene).onSpl fun p => { p with scene := some { c with accepted := true } }

theorem sceneAccepted_active (s : State) (c : Scene) : (sceneAccepted s c).spl.active = s.spl.active := by
  unfold sceneAccepted
  rw [State.onSpl_spl, tellScene_spl, cancelSwap_active, abandonSnap_spl]
  rfl

theorem sceneAccepted_state (s : State) (c : Scene) : get (sceneAccepted s c) Fld.splSceneStatusState = 1 := by
  unfold sceneAccepted
  rw [get_onSpl, get_tellScene _ _ _ _ (by decide), get_cancelSwap_other _ _ (by decide), get_abandonSnap _ _ (by decide)]
  exact get_set_of_lt _ Fld.splSceneStatusState 1 (by decide)

/-- A decision refuses, accepts, or is not yet due. -/
theorem sceneDecide_cases (s : State) : sceneDecide s = s ∨ (∃ r, sceneDecide s = sceneRefused s r) ∨
    ∃ c, sceneDecide s = sceneAccepted s c := by
  unfold sceneDecide
  split
  · exact .inl rfl
  · split
    · exact .inl rfl
    · split
      · exact .inr (.inl ⟨_, rfl⟩)
      · exact .inr (.inr ⟨_, rfl⟩)

theorem sceneDecide_active (s : State) : (sceneDecide s).spl.active = s.spl.active := by
  rcases sceneDecide_cases s with h | ⟨r, h⟩ | ⟨c, h⟩
  · rw [h]
  · rw [h]; rfl
  · rw [h, sceneAccepted_active]

theorem sceneAnswer_active (s : State) (d : Nat) (found : List Nat) : (sceneAnswer s d found).spl.active = s.spl.active := by
  unfold sceneAnswer
  split
  · split
    · exact sceneDecide_active _
    · rfl
  · rfl

theorem sceneDecide_refuses {r : Nat} (hs : s.spl.scene = some c) (ha : c.accepted = false) (hall : c.asked = [])
    (hv : sceneVerdict c.found = some r) : sceneDecide s = sceneRefused s r := by
  simp [sceneDecide, hs, ha, hall, hv]

theorem sceneDecide_accepts (hs : s.spl.scene = some c) (ha : c.accepted = false) (hall : c.asked = [])
    (hv : sceneVerdict c.found = none) : sceneDecide s = sceneAccepted s c := by
  simp [sceneDecide, sceneAccepted, hs, ha, hall, hv]

end

section
variable {s : State} {v : Word} {co : CompanyInfo}

/-- A change that failed no longer shows. -/
def sceneCleared (u : State) : State := if get u Fld.splSceneStatusState = 5 then setScene u 0 else u

/-- The members, old and new, that a start asks: those present but this device. -/
def sceneQueried (w : State) (co : CompanyInfo) : List Nat :=
  (shadowDevs w ++ activeDevs w co.id).dedup.filter fun d => d ≠ selfDev w && present w d

/-- The scene change as a start records it. -/
def sceneOf (w : State) (co : CompanyInfo) : Scene :=
  ⟨co.id, sceneCue w, w.st, sceneQueried w co, [], false, sceneLocal w co.id (sceneCue w),
    ((w.spl.active.bind fun p => p.companyInfo co.id).bind CompanyInfo.lead).any
      (fun d => d ≠ selfDev w && present w d && decide (co.id ∉ w.fab.lost)), activeDevs w co.id, poolLayout w, []⟩

/-- A member is asked, or its answer is that it cannot be reached. -/
def sceneAsk (body : List Byte) (t : State) (d : Nat) : State :=
  if requestFails t d then sceneAnswer t d (if d ∈ shadowDevs t then [4] else [])
  else request (takeTag t).2 0x14 d (takeTag t).1 body

/-- The recorded change, and every member asked. -/
def sceneAsked (w : State) (co : CompanyInfo) : State :=
  (sceneQueried w co).foldl (sceneAsk (leBytes 16 (place 0 32 (get w Fld.splShadowIdV) + place 32 16 co.id)))
    (w.onSpl fun p => { p with scene := some (sceneOf w co) })

theorem sceneStart_not_lead (hr : reaches s 0 Fld.splSceneCtlStart.off = true) (hb : bit v 0 = true)
    (hl : isShadowLead (commandWord s 0 Fld.splSceneCtlStart.off v) = false) :
    exec (.sceneStart v) s = .next (set (commandWord s 0 Fld.splSceneCtlStart.off v) Fld.splSceneStatusResult 5) := by
  change execSceneStart v s = _
  simp [execSceneStart, hr, hb, hl]

theorem sceneStart_under_way (hr : reaches s 0 Fld.splSceneCtlStart.off = true) (hb : bit v 0 = true)
    (hl : isShadowLead (commandWord s 0 Fld.splSceneCtlStart.off v) = true)
    (hs : (commandWord s 0 Fld.splSceneCtlStart.off v).spl.scene.isSome = true) :
    exec (.sceneStart v) s = .next (set (commandWord s 0 Fld.splSceneCtlStart.off v) Fld.splSceneStatusResult 6) := by
  change execSceneStart v s = _
  simp [execSceneStart, hr, hb, hl, hs]

theorem exec_sceneStart_asks (hr : reaches s 0 Fld.splSceneCtlStart.off = true) (hb : bit v 0 = true)
    (hl : isShadowLead (commandWord s 0 Fld.splSceneCtlStart.off v) = true)
    (hs : (commandWord s 0 Fld.splSceneCtlStart.off v).spl.scene = none)
    (hco : shadowOwn (commandWord s 0 Fld.splSceneCtlStart.off v) = some co) :
    exec (.sceneStart v) s =
      .next (sceneDecide (sceneAsked (sceneCleared (commandWord s 0 Fld.splSceneCtlStart.off v)) co)) := by
  change execSceneStart v s = _
  simp only [execSceneStart, hr, hb, hl, hs, hco, Bool.not_true, Bool.or_false, Bool.false_eq_true, if_false, Option.isSome_none]
  rfl

theorem sceneAsk_fp (body : List Byte) (t : State) (d : Nat) : Fp 1074177 t (sceneAsk body t d) :=
  ite_fp (sceneAnswer_fp rfl _ _ _ (Fp.refl _ _)) (request_fp rfl _ _ _ _ _ (takeTag_fp1 rfl _ (Fp.refl _ _)))

theorem sceneAsk_active (body : List Byte) (t : State) (d : Nat) : (sceneAsk body t d).spl.active = t.spl.active := by
  unfold sceneAsk
  split
  · exact sceneAnswer_active _ _ _
  · rw [request_spl]
    rfl

theorem sceneAsked_active (w : State) (co : CompanyInfo) : (sceneAsked w co).spl.active = w.spl.active :=
  foldl_keeps (·.spl.active) _ (sceneAsk_active _) _ _

/-- A start, asked and decided, touches no more than a decision does. -/
theorem sceneDecide_sceneAsked_fp (w : State) (co : CompanyInfo) : Fp 1074177 w (sceneDecide (sceneAsked w co)) :=
  sceneDecide_fp rfl _ (foldl_fp _ _ (fun u d h => h.trans (sceneAsk_fp _ u d)) (onSpl_fp rfl w _ (Fp.refl _ w)))

theorem sceneCleared_keeps (u : State) : (sceneCleared u).stm = u.stm ∧ (sceneCleared u).mdw = u.mdw ∧
    (sceneCleared u).spl = u.spl := by
  unfold sceneCleared
  split <;> exact ⟨rfl, rfl, rfl⟩

theorem sceneQueried_sceneCleared (u : State) (co : CompanyInfo) : sceneQueried (sceneCleared u) co = sceneQueried u co := by
  unfold sceneCleared
  split
  · have hself : selfDev (setScene u 0) = selfDev u := get_set_other u Fld.fabSelfDevice Fld.splSceneStatusState 0 (by decide)
    unfold sceneQueried present
    rw [hself]
    rfl
  · rfl

theorem sceneQueried_eq_nil {u : State} (h : ∀ d ∈ shadowDevs u ++ activeDevs u co.id, d = selfDev u ∨ present u d = false) :
    sceneQueried u co = [] := by
  refine List.filter_eq_nil_iff.2 fun d hd => ?_
  rcases h d (List.mem_dedup.1 hd) with hself | habs
  · simp [hself]
  · simp [habs]

/-- With no member to ask, the change is decided as it is recorded. -/
theorem sceneAsked_alone {w : State} (h : sceneQueried w co = []) :
    sceneAsked w co = w.onSpl fun p => { p with scene := some (sceneOf w co) } := by
  rw [sceneAsked, h, List.foldl_nil]

theorem alone_accepts {w : State} (h : sceneQueried w co = []) (hv : sceneVerdict (sceneLocal w co.id (sceneCue w)) = none) :
    ∃ c, (sceneDecide (sceneAsked w co)).spl.scene = some c ∧ c.accepted = true ∧ c.company = co.id ∧ c.cue = sceneCue w ∧
      get (sceneDecide (sceneAsked w co)) Fld.splSceneStatusState = 1 := by
  rw [sceneAsked_alone h, sceneDecide_accepts (c := sceneOf w co) rfl rfl h hv]
  exact ⟨_, rfl, rfl, rfl, rfl, sceneAccepted_state _ _⟩

theorem alone_refuses {w : State} {r : Nat} (h : sceneQueried w co = [])
    (hv : sceneVerdict (sceneLocal w co.id (sceneCue w)) = some r) :
    (sceneDecide (sceneAsked w co)).spl.scene = none ∧ get (sceneDecide (sceneAsked w co)) Fld.splSceneStatusResult = r := by
  rw [sceneAsked_alone h, sceneDecide_refuses (c := sceneOf w co) rfl rfl h hv]
  exact ⟨rfl, get_set_of_lt _ Fld.splSceneStatusResult r (sceneVerdict_lt hv)⟩

theorem sceneStart_asks (hr : reaches s 0 Fld.splSceneCtlStart.off = true) (hb : bit v 0 = true)
    (hco : shadowOwn (commandWord s 0 Fld.splSceneCtlStart.off v) = some co)
    (hl : isShadowLead (commandWord s 0 Fld.splSceneCtlStart.off v) = true)
    (hs : (commandWord s 0 Fld.splSceneCtlStart.off v).spl.scene = none) :
    let u := commandWord s 0 Fld.splSceneCtlStart.off v
    let w := sceneCleared u
    (∃ t, exec (.sceneStart v) s = .next t ∧ t.stm = u.stm ∧ t.mdw = u.mdw ∧ t.spl.active = u.spl.active) ∧
    ((∀ d ∈ shadowDevs u ++ activeDevs u co.id, d = selfDev u ∨ present u d = false) →
      (sceneVerdict (sceneLocal w co.id (sceneCue w)) = none → ∃ t c, exec (.sceneStart v) s = .next t ∧
        t.spl.scene = some c ∧ c.accepted = true ∧ c.company = co.id ∧ c.cue = sceneCue w ∧
        get t Fld.splSceneStatusState = 1) ∧
      (∀ r, sceneVerdict (sceneLocal w co.id (sceneCue w)) = some r → ∃ t, exec (.sceneStart v) s = .next t ∧
        t.spl.scene = none ∧ get t Fld.splSceneStatusResult = r)) := by
  intro u w
  have hexec : exec (.sceneStart v) s = .next (sceneDecide (sceneAsked w co)) := exec_sceneStart_asks hr hb hl hs hco
  obtain ⟨hstm, hmdw, hspl⟩ := sceneCleared_keeps u
  refine ⟨⟨_, hexec, ?_, ?_, ?_⟩, fun halone => ?_⟩
  · exact ((sceneDecide_sceneAsked_fp w co).stm rfl).trans hstm
  · exact ((sceneDecide_sceneAsked_fp w co).mdw rfl).trans hmdw
  · rw [sceneDecide_active, sceneAsked_active]
    exact congrArg Spl.active hspl
  · have hnone : sceneQueried w co = [] := (sceneQueried_sceneCleared u co).trans (sceneQueried_eq_nil halone)
    refine ⟨fun hv => ?_, fun r hv => ⟨_, hexec, alone_refuses hnone hv⟩⟩
    obtain ⟨c, hc⟩ := alone_accepts hnone hv
    exact ⟨_, c, hexec, hc⟩

end

/-- SCENE_QUERY's answer; the bit on the block count is a free value (R654, Table FAB-9). -/
theorem sceneQuery_answers (src : Fin 1024) (tag : BitVec 16) (plan : Word) (company : Nat) (s : State) :
    let other := (ownCompany s).any fun c => decide (c.id ≠ company) && decide (c.id ∉ s.fab.lost)
    let busy := isLead s && decide (ownId s = company) && s.spl.swapAt.isSome
    ∃ free, exec (.sceneQuery src tag plan company) s = .next (reply (advance s) 0x20 src.val tag.toNat
      (topoOf s src.val).epoch (statusBody 0 (b2n busy) (get s Fld.splShadowIdV)
        (b2n ((sectsDiffer s).any fun id => sectionClass id = 2) + 2 * b2n other + 4 * free))) ∧ free < 2 :=
  ⟨fresh s % 2, rfl, Nat.mod_lt _ (by decide)⟩

/-! Applying the shadow set (R658). -/

theorem ite_spl {c : Prop} [Decidable c] {a b : State} (h : a.spl = b.spl) : (if c then a else b).spl = b.spl := by
  split
  · exact h
  · rfl

theorem loadSheets_spl (s : State) (p : Nat) : (loadSheets s p).spl = s.spl :=
  (loadSheets_fp rfl s p (Fp.refl 4194816 s)).spl rfl

/-- All that an apply does once the shadow is in leaves the sets alone. -/
theorem applyShadow_active {s : State} {p : Plot} (h : s.spl.shadow = some p) : (applyShadow s).spl.active = some p := by
  have hin : (applyShadow s).spl = (shadowIn s).spl := by
    unfold applyShadow
    rw [h]
    dsimp only
    refine ((castRoles_fp rfl _ _ (Fp.refl 1 _)).spl rfl).trans ?_
    refine Eq.trans (ite_spl rfl) ?_
    refine Eq.trans (ite_spl ((reloadWeights_fp rfl _ (Fp.refl 4194817 _)).spl rfl)) ?_
    refine Eq.trans (ite_spl (foldl_keeps (·.spl) loadSheets loadSheets_spl _ _)) ?_
    exact ((bootTargets_fp rfl _ p (Fp.refl 1 _)).spl rfl).trans ((plotRegsD_fp rfl _ p (Fp.refl 1 _)).spl rfl)
  rw [hin, ← h]
  rfl

section
variable {s : State} {c : Scene}

theorem applyDone_nothing (hs : s.spl.scene = none) (hp : s.spl.shadow = none) : exec .applyDone s = .next s := by
  change execApplyDone s = _
  simp [execApplyDone, hs, shadowOwn, applyShadow, hp]

/-- A member that the new configuration makes no lead lets its Call Board go (R653). -/
def boardLetGo (s : State) : State := if isLead s then s else s.onStm fun m => { m with board := [], sent := [] }

/-- A member's APPLIED goes to the shadow lead, where that is another device. -/
def appliedSent (u : State) (co : CompanyInfo) : State :=
  match co.lead with
  | some l => if l = selfDev u then u else send u 0x36 l (reportBody 6 co.id (cueNum u) 0xFFFF 0)
  | none => u

theorem exec_applyDone_no_company (hs : s.spl.scene = none) (ho : shadowOwn s = none) :
    exec .applyDone s = .next (applyShadow s) := by
  change execApplyDone s = _
  simp [execApplyDone, hs, ho]

theorem exec_applyDone_member {co : CompanyInfo} (hs : s.spl.scene = none) (ho : shadowOwn s = some co) :
    exec .applyDone s = .next (appliedSent (boardLetGo (applyShadow s)) co) := by
  change execApplyDone s = _
  simp only [execApplyDone, hs, ho]
  rfl

theorem appliedSent_self {u : State} {co : CompanyInfo} (h : co.lead = none ∨ co.lead = some (selfDev u)) : appliedSent u co = u := by
  rcases h with h | h <;> simp [appliedSent, h]

theorem appliedSent_other {u : State} {co : CompanyInfo} {l : Nat} (h : co.lead = some l) (hl : l ≠ selfDev u) :
    appliedSent u co = send u 0x36 l (reportBody 6 co.id (cueNum u) 0xFFFF 0) := by
  simp [appliedSent, h, hl]

theorem boardLetGo_spl (u : State) : (boardLetGo u).spl = u.spl := by
  unfold boardLetGo
  split <;> rfl

theorem send_spl (u : State) (kind dst : Nat) (body : List Byte) : (send u kind dst body).spl = u.spl :=
  (send_fp rfl u kind dst body (Fp.refl 1049601 u)).spl rfl

theorem appliedSent_spl (u : State) (co : CompanyInfo) : (appliedSent u co).spl = u.spl := by
  unfold appliedSent
  split
  · split
    · rfl
    · exact send_spl _ _ _ _
  · rfl

theorem applyDone_member {p : Plot} (hp : s.spl.shadow = some p) (hs : s.spl.scene = none) :
    ∃ t, exec .applyDone s = .next t ∧ t.spl.active = some p ∧
      (shadowOwn s = none → t = applyShadow s) ∧ (∀ co, shadowOwn s = some co →
        let u := boardLetGo (applyShadow s)
        (co.lead = none ∨ co.lead = some (selfDev u) → t = u) ∧
        (∀ l, co.lead = some l → l ≠ selfDev u → t = send u 0x36 l (reportBody 6 co.id (cueNum u) 0xFFFF 0))) := by
  rcases ho : shadowOwn s with _ | co
  · exact ⟨_, exec_applyDone_no_company hs ho, applyShadow_active hp, fun _ => rfl, fun _ hco => absurd hco (by simp)⟩
  · refine ⟨_, exec_applyDone_member hs ho, ?_, fun hno => absurd hno (by simp), fun co' hco => ?_⟩
    · rw [appliedSent_spl, boardLetGo_spl, applyShadow_active hp]
    · obtain rfl := Option.some.inj hco
      exact ⟨appliedSent_self, fun _ => appliedSent_other⟩

theorem applyDone_lead (hs : s.spl.scene = some c) (ha : c.accepted = true) (h3 : get s Fld.splSceneStatusState = 3) :
    exec .applyDone s = .next (leadApplied (applyShadow s) (selfDev s)) := by
  change execApplyDone s = _
  simp [execApplyDone, hs, ha, h3]

theorem applyDone_not_applying (hs : s.spl.scene = some c) (h : c.accepted = false ∨ get s Fld.splSceneStatusState ≠ 3) :
    exec .applyDone s = .next s := by
  change execApplyDone s = _
  rcases h with h | h <;> simp [execApplyDone, hs, h]

/-! APPLIED (Table SPL-5). -/

theorem applied_other_company {src : Fin 1024} {company : Nat} (h : ∀ c, s.spl.scene = some c → c.company ≠ company) :
    exec (.applied src company) s = .next s := by
  refine congrArg Host.Outcome.next (if_neg ?_)
  simpa [Option.any_eq_true] using h

/-- The scene change with one more member that has applied. -/
def Scene.withApplied (c : Scene) (d : Nat) : Scene := { c with applied := c.applied ++ [d] }

/-- A member's APPLIED is noted and counted. -/
def appliedNoted (s : State) (c : Scene) (d : Nat) : State :=
  set (s.onSpl fun p => { p with scene := some (c.withApplied d) }) Fld.splSceneStatusApplied (min 255 (c.applied.length + 1))

theorem leadApplied_notes {d : Nat} (hs : s.spl.scene = some c) (h3 : get s Fld.splSceneStatusState = 3) (hd : d ∈ shadowDevs s)
    (hnew : d ∉ c.applied) : leadApplied s d =
      if (shadowDevs s).all (fun x => decide (x ∈ c.applied ++ [d])) then
        readCut (setScene (appliedNoted s c d) 4) (c.withApplied d)
      else appliedNoted s c d := by
  have hgo : ¬ (get s Fld.splSceneStatusState ≠ 3 ∨ d ∉ shadowDevs s ∨ d ∈ c.applied) := by simp [h3, hd, hnew]
  simp only [leadApplied, hs, if_neg hgo, List.length_append, List.length_singleton]
  rfl

theorem applied_counts {src : Fin 1024} (hs : s.spl.scene = some c) (h3 : get s Fld.splSceneStatusState = 3)
    (hd : src.val ∈ shadowDevs s) (hnew : src.val ∉ c.applied) :
    ((∀ d ∈ shadowDevs s, d ∈ c.applied ∨ d = src.val) →
      exec (.applied src c.company) s = .next (readCut (setScene (appliedNoted s c src.val) 4) (c.withApplied src.val))) ∧
    ((∃ d ∈ shadowDevs s, d ∉ c.applied ∧ d ≠ src.val) → exec (.applied src c.company) s = .next (appliedNoted s c src.val)) := by
  have hexec : exec (.applied src c.company) s = .next (leadApplied s src.val) :=
    congrArg Host.Outcome.next (if_pos (by simp [hs]))
  rw [hexec, leadApplied_notes hs h3 hd hnew]
  refine ⟨fun hall => ?_, fun ⟨d, hmem, hold, hne⟩ => ?_⟩
  · rw [if_pos (by simpa using hall)]
  · rw [if_neg fun hall => ?_]
    have hin := List.all_eq_true.1 hall d hmem
    simp [hold, hne] at hin

end

/-! SCENE_TIMEOUT (R656, R661). -/

section
variable {s : State} {c : Scene}

theorem markLost_lost (s : State) (c : Nat) : c ∈ (markLost s c).fab.lost := by
  have hkeep : (markLost s c).fab.lost = if c ∈ s.fab.lost then s.fab.lost else s.fab.lost ++ [c] := by
    unfold markLost
    refine foldl_keeps (·.fab.lost) _ (fun _ _ => ?_) _ _
    rfl
  rw [hkeep]
  split
  · assumption
  · simp

theorem markLost_regs (s : State) (c : Nat) : (markLost s c).regs = s.regs := (markLost_fp rfl s c (Fp.refl 1024 s)).regs rfl

theorem markLost_spl (s : State) (c : Nat) : (markLost s c).spl = s.spl := (markLost_fp rfl s c (Fp.refl 1024 s)).spl rfl

/-- FAILED is shown, and every member and the whole House are told. -/
def sceneFailTold (s : State) (c : Scene) : State :=
  let u := tellScene (set (setScene s 5) Fld.splSceneStatusResult 7) c outSceneFails
  tellDevs u (allPresent u) outLost c.company 1

theorem get_sceneFailTold (s : State) (c : Scene) (f : Fld) (h : f.blk ≠ 0xF) :
    get (sceneFailTold s c) f = get (set (setScene s 5) Fld.splSceneStatusResult 7) f := by
  unfold sceneFailTold
  rw [get_tellDevs _ _ _ _ _ _ h, get_tellScene _ _ _ _ h]

theorem sceneFails_eq (hs : s.spl.scene = some c) : sceneFails s =
    markLost (((sceneFailTold s c).onSpl fun p => { p with scene := none }).onUnd fun u =>
      { u with sceneMan := none, sceneRead := false }) c.company := by
  simp only [sceneFails, hs]
  rfl

theorem sceneFails_shown (hs : s.spl.scene = some c) : get (sceneFails s) Fld.splSceneStatusState = 5 ∧
    get (sceneFails s) Fld.splSceneStatusResult = 7 ∧ (sceneFails s).spl.scene = none ∧ c.company ∈ (sceneFails s).fab.lost := by
  rw [sceneFails_eq hs]
  refine ⟨?_, ?_, ?_, markLost_lost _ _⟩
  · rw [get_congr (markLost_regs _ _), get_onUnd, get_onSpl, get_sceneFailTold _ _ _ (by decide), get_set_other _ _ _ _ (by decide)]
    exact get_set_of_lt _ Fld.splSceneStatusState 5 (by decide)
  · rw [get_congr (markLost_regs _ _), get_onUnd, get_onSpl, get_sceneFailTold _ _ _ (by decide)]
    exact get_set_of_lt _ Fld.splSceneStatusResult 7 (by decide)
  · rw [markLost_spl]
    rfl

theorem sceneFails_st (s : State) : (sceneFails s).st = s.st := (sceneFails_fp rfl s (Fp.refl 1074177 s)).st rfl

theorem sceneTimeout_fails (hs : s.spl.scene = some c) (ha : c.accepted = true) : ∃ t, exec .sceneTimeout s = .next t ∧
    get t Fld.splSceneStatusState = 5 ∧ get t Fld.splSceneStatusResult = 7 ∧ t.spl.scene = none ∧ c.company ∈ t.fab.lost ∧
    c.startSt + max 1 (get s Fld.splSceneTimeoutMs) * 1000000 ≤ t.st := by
  have hexec : exec .sceneTimeout s =
      .next (sceneFails (s.setSt (max s.st (c.startSt + max 1 (get s Fld.splSceneTimeoutMs) * 1000000)))) := by
    change execSceneTimeout s = _
    simp [execSceneTimeout, hs, ha]
  obtain ⟨hstate, hresult, hscene, hlost⟩ :=
    sceneFails_shown (s := s.setSt (max s.st (c.startSt + max 1 (get s Fld.splSceneTimeoutMs) * 1000000))) hs
  refine ⟨_, hexec, hstate, hresult, hscene, hlost, ?_⟩
  rw [sceneFails_st]
  exact le_max_right _ _

theorem sceneTimeout_undecided (hs : s.spl.scene = some c) (ha : c.accepted = false) : exec .sceneTimeout s = .next s := by
  change execSceneTimeout s = _
  simp [execSceneTimeout, hs, ha]

theorem sceneTimeout_idle (hs : s.spl.scene = none) : exec .sceneTimeout s = .next s := by
  change execSceneTimeout s = _
  simp [execSceneTimeout, hs]

end

/-- Settles O50: each command's guard decides; what follows keeps the sets and, but for the fields named, the registers. -/
theorem stageplotCompletes : Obligations.StageplotCompletes := by
  refine ⟨fun v s hr hb hroom => ⟨fun h => ⟨_, exec_stageplotLoad_takes hr hb hroom h, loadTaken_image _⟩, exec_stageplotLoad_busy⟩,
    fun s => stageplotLoadDone_idle, fun s => stageplotLoadDone_waits,
    fun s h hlit => ⟨fun r b => stageplotLoadDone_refuses h hlit, fun hv p => stageplotLoadDone_verified h hlit hv⟩,
    fun v s hr hb => ?_, fun fn v s => swapReq_other_function, fun v s hr h0 h1 => ?_,
    fun v s hr hb => ⟨sceneStart_not_lead hr hb, sceneStart_under_way hr hb, fun co => sceneStart_asks hr hb⟩,
    sceneQuery_answers, fun s => applyDone_nothing,
    fun s p hp => ⟨applyShadow_active hp, applyDone_member hp, fun c => applyDone_lead, fun c => applyDone_not_applying⟩,
    fun src company s => applied_other_company, fun src c s => applied_counts,
    fun c s hs => ⟨sceneTimeout_fails hs, sceneTimeout_undecided hs⟩, fun s => sceneTimeout_idle⟩
  · rw [exec_swapReq hr hb]
    exact ⟨fun h => congrArg Host.Outcome.next (swapAsked_changing h), fun hs hp =>
      ⟨fun h => ⟨_, rfl, swapAsked_schedules hs hp h⟩, fun hl ha => congrArg Host.Outcome.next (swapAsked_late hs hp hl ha)⟩⟩
  · rw [exec_swapCancel hr h0 h1]
    exact ⟨fun n f h hst => ⟨_, congrArg Host.Outcome.next (cancelSwap_before h hst), swapWithdrawn_shown _⟩,
      fun n f h hst => congrArg Host.Outcome.next (cancelSwap_launched h hst),
      fun h => congrArg Host.Outcome.next (cancelSwap_unscheduled h)⟩

end Sys2Proof.Machine
end

section
/-!
SUPPORT. What leaves the transfers received alone: a manifest taken in, the blocks of a restored Call, and the Call that another
coordinator offers touch the Understudy, but not the transfers it has received.
-/
namespace Sys2Proof.Machine

/-- What leaves the Understudy alone leaves the transfers received alone. -/
theorem Fp.transfers {w : Nat} {s t : State} (h : Fp w s t) (hw : w.testBit 14 = false) : t.und.transfers = s.und.transfers :=
  congrArg Und.transfers (h.und hw)

theorem ite_transfers {c : Prop} [Decidable c] {a b : State} {l : List (Nat × Nat × List Byte)} (ha : a.und.transfers = l)
    (hb : b.und.transfers = l) : (if c then a else b).und.transfers = l := by
  split
  · exact ha
  · exact hb

theorem sendTransfer_transfers (s : State) (dst id : Nat) (bs : List Byte) :
    (sendTransfer s dst id bs).und.transfers = s.und.transfers := (sendTransfer_fp rfl s dst id bs (Fp.refl 1049601 s)).transfers rfl

theorem tellDevs_transfers (s : State) (ds : List Nat) (outcome value detail : Nat) :
    (tellDevs s ds outcome value detail).und.transfers = s.und.transfers :=
  (tellDevs_fp rfl s ds outcome value detail (Fp.refl 1049601 s)).transfers rfl

/-! A manifest (R685). -/

theorem drainBytes_transfers (s : State) (m : Manifest) : (drainBytes s m).2.und.transfers = s.und.transfers :=
  (drainBytes_fp1 rfl s m (Fp.refl 196609 s)).transfers rfl

theorem drainAfter_transfers (s : State) (m : Manifest) : (drainAfter s m).und.transfers = s.und.transfers := by
  unfold drainAfter
  exact ite_transfers rfl (ite_transfers rfl (ite_transfers rfl (ite_transfers rfl (drainBytes_transfers _ m))))

theorem gotManifest_transfers (s : State) (src : Nat) (m : Manifest) : (gotManifest s src m).und.transfers = s.und.transfers := by
  unfold gotManifest
  refine ite_transfers ?_ rfl
  rw [(send_fp rfl _ 0x36 src _ (Fp.refl 1049601 _)).transfers rfl]
  exact drainAfter_transfers _ m

/-! The blocks of a restored Call (R693, R700). -/

theorem copyFirst_transfers (s : State) (page : Bool) (n : Nat) : (copyFirst s page n).und.transfers = s.und.transfers := by
  unfold copyFirst
  refine ite_transfers ?_ rfl
  cases page <;> rfl

theorem writeBytes_transfers (s : State) (a : Nat) (bs : List Byte) : (writeBytes s a bs).und.transfers = s.und.transfers :=
  (writeBytes_fp rfl s a bs (Fp.refl 4194816 s)).transfers rfl

theorem putBlocks_transfers (s : State) (bs : List (Nat × List Byte)) : (putBlocks s bs).und.transfers = s.und.transfers :=
  foldl_keeps (·.und.transfers) _ (fun u (b : Nat × List Byte) =>
    (writeBytes_transfers _ _ _).trans (copyFirst_transfers u false b.1)) bs s

theorem fillCall_transfers (s : State) (kv : List (Nat × Nat × List Byte)) (r : Rest) :
    (fillCall s kv r).und.transfers = s.und.transfers := by
  unfold fillCall
  split
  · refine foldl_keeps (·.und.transfers) _ (fun u m => ?_) _ s
    exact ite_transfers (putBlocks_transfers u _) (ite_transfers rfl (sendTransfer_transfers _ _ _ _))
  · rfl

theorem gotFill_transfers (s : State) (src : Nat) (bs : List Byte) : (gotFill s src bs).und.transfers = s.und.transfers :=
  ite_transfers (putBlocks_transfers s _) rfl

/-! A Call taken in (R700, R701). -/

theorem applyTable_transfers (s : State) (m : CueTok) : (applyTable s m).und.transfers = s.und.transfers := by
  have hreport : (report (advance s) 0x0803 0xFFFF (fresh s % 2 ^ 32)).und.transfers = s.und.transfers :=
    (report_fp rfl (advance s) 0x0803 0xFFFF _ (Fp.refl 950275 _)).transfers rfl
  have huncache (u : State) (p : Nat → Bool) : (uncache u p).und.transfers = u.und.transfers :=
    (uncache_fp rfl u p (Fp.refl 512 u)).transfers rfl
  have hheath : (dropHeath s (clSlot m)).und.transfers = s.und.transfers :=
    (dropHeath_fp rfl s (clSlot m) (Fp.refl 513 s)).transfers rfl
  unfold applyTable
  refine ite_transfers (ite_transfers hreport ?noted) (ite_transfers ?entry ?cleared)
  case noted =>
    rw [State.onStm_und]
    exact hreport
  case entry =>
    rw [huncache]
    exact (writeBytes_transfers _ _ _).trans (copyFirst_transfers s true _)
  case cleared =>
    rw [huncache]
    exact (copyFirst_transfers _ true _).trans hheath

theorem announceTable_transfers (s : State) (m : CueTok) : (announceTable s m).und.transfers = s.und.transfers :=
  ((sendAll_fp rfl _ 0x31 (memberDevs s) (wireBytes m) (Fp.refl 1049601 _)).transfers rfl).trans (applyTable_transfers s m)

theorem announceBlocks_transfers (slot cue : Nat) (bs : List (Nat × Bool)) (s : State) (i : Nat) :
    (announceBlocks s slot cue bs i).und.transfers = s.und.transfers := by
  induction bs generalizing s i with
  | nil => rfl
  | cons b bs ih => exact (ih _ _).trans (announceTable_transfers s _)

theorem restAnswer_transfers (s : State) (slot : Nat) (ended : Bool) : (restAnswer s slot ended).und.transfers = s.und.transfers :=
  ite_transfers (announceTable_transfers _ _) rfl

theorem takeIn_transfers {s t : State} {imgs : List (Nat × Nat × Nat × Nat × List Byte)} {tag slot : Nat} {r : Rec}
    (h : takeIn s imgs tag r = some (slot, t)) : t.und.transfers = s.und.transfers := by
  unfold takeIn at h
  split at h
  · exact absurd h (by simp)
  · split at h
    · exact absurd h (by simp)
    · rename_i cos u hcos
      have hcostume : u.und.transfers = s.und.transfers := (restoreCostume_fp rfl hcos (Fp.refl 5244673 s)).transfers rfl
      have hblocks : (drawBlocks (freeSlot u).2 u.stm.nextSeq (ceilDiv r.kvLen 64)).2.und.transfers = u.und.transfers :=
        (drawBlocks_fp1 rfl _ _ _ (Fp.refl 513 _)).transfers rfl
      obtain ⟨-, rfl⟩ := Prod.mk.inj (Option.some.inj h)
      rw [announceBlocks_transfers]
      refine Eq.trans ?_ (hblocks.trans hcostume)
      exact ite_transfers rfl rfl

theorem repointHere_transfers (s : State) (fn callId company lead pos tag : Nat) :
    (repointHere s fn callId company lead pos tag).1.und.transfers = s.und.transfers :=
  (repointHere_fp1 rfl s fn callId company lead pos tag (Fp.refl 1573895 s)).transfers rfl

theorem restoreHere_transfers {s t : State} {imgs : List (Nat × Nat × Nat × Nat × List Byte)} {r : Rec}
    (h : restoreHere s imgs r = some t) : t.und.transfers = s.und.transfers := by
  obtain ⟨⟨slot, u⟩, hin, rfl⟩ := Option.map_eq_some_iff.1 h
  have hu : u.und.transfers = (takeTag s).2.und.transfers := takeIn_transfers hin
  refine Eq.trans ?_ hu
  refine ite_transfers ?_ (ite_transfers ?_ ?_)
  · exact (restAnswer_transfers _ _ _).trans (repointHere_transfers ..)
  · exact restAnswer_transfers u slot true
  · exact (request_fp rfl u _ _ _ _ (Fp.refl 1049601 u)).transfers rfl

theorem gotOffer_transfers (s : State) (src : Nat) (bs : List Byte) : (gotOffer s src bs).und.transfers = s.und.transfers := by
  unfold gotOffer
  dsimp only
  split
  · rename_i t ht
    have htaken : t.und.transfers = s.und.transfers := by
      split at ht
      · exact restoreHere_transfers ht
      · exact absurd ht (by simp)
    split
    · exact (tellDevs_transfers _ _ _ _ _).trans ((fillCall_transfers t _ _).trans htaken)
    · exact (tellDevs_transfers _ _ _ _ _).trans htaken
  · exact tellDevs_transfers _ _ _ _ _

end Sys2Proof.Machine
end

section
/-!
OBLIGATION O49. Re-points, shard reads and their data, filled Calls, transfers, and the host restore.
-/
namespace Sys2Proof.Machine

/-! REPOINT (R701, R702, R708). -/

section
variable (src : Fin 1024) (tag : BitVec 16) {fn : Fin 128} {call : Word} (co : Nat) (lead : Fin 1024) (pos : BitVec 20) {s : State}

/-- The answer to a re-point. -/
def answerRepoint (t : State) (src tag ended : Nat) : State :=
  reply t 0x20 src tag (topoOf t src).epoch (statusBody 0 ended 0 0)

theorem exec_repoint_unknown (h : entOf s fn.val call.toNat = none) :
    exec (.repoint src tag fn call co lead pos) s = .next (answerRepoint s src.val tag.toNat 2) := by
  change execRepoint src tag fn call co lead pos s = _
  simp only [execRepoint, repointHere, h]
  rfl

theorem exec_repoint_ended {e : CallEnt} (h : entOf s fn.val call.toNat = some e)
    (hend : e.finalN.isSome = true ∨ e.finalWritten = true) :
    exec (.repoint src tag fn call co lead pos) s = .next (answerRepoint s src.val tag.toNat 2) := by
  have hor : (e.finalN.isSome || e.finalWritten) = true := by simpa using hend
  change execRepoint src tag fn call co lead pos s = _
  simp only [execRepoint, repointHere, h, hor, if_true]
  rfl

/-- A Call Map entry that takes its Lines from position `pos` on, from the lead `lead` of Company `co`. -/
def CallEnt.repointed (e : CallEnt) (co lead pos tag : Nat) : CallEnt := { e with
  company := co, lead := lead, win := e.win.filter fun l => decide (linePos l < pos)
  lines := e.lines - (e.win.filter fun l => decide (pos ≤ linePos l)).length
  next := min e.next pos, restored := true, resume := pos, decided := true, tag := tag }

theorem exec_repoint_live {e : CallEnt} (h : entOf s fn.val call.toNat = some e) (hn : e.finalN = none)
    (hw : e.finalWritten = false) : exec (.repoint src tag fn call co lead pos) s = .next (answerRepoint (forwardReady (wmUpdate
      (onEnt s fn.val call.toNat fun e => e.repointed co lead.val pos.toNat tag.toNat) 2)) src.val tag.toNat 0) := by
  change execRepoint src tag fn call co lead pos s = _
  simp only [execRepoint, repointHere, h, hn, hw, Option.isSome_none, Bool.or_self, Bool.false_eq_true, if_false]
  rfl

theorem repoint_takes_lines {e : CallEnt} (h : entOf s fn.val call.toNat = some e) (hn : e.finalN = none)
    (hw : e.finalWritten = false) : ∃ u, exec (.repoint src tag fn call co lead pos) s =
      .next (answerRepoint (forwardReady (wmUpdate u 2)) src.val tag.toNat 0) ∧
    (∀ x, entOf u fn.val call.toNat = some x → x.company = co ∧ x.lead = lead.val ∧ x.resume = pos.toNat ∧
      x.restored = true ∧ x.tag = tag.toNat ∧ ∀ l ∈ x.win, linePos l < pos.toNat) ∧ u.stm = s.stm ∧ u.mdw = s.mdw := by
  refine ⟨_, exec_repoint_live src tag co lead pos h hn hw, fun x hx => ?_, rfl, rfl⟩
  rw [entOf_onEnt, h] at hx
  · obtain rfl := Option.some.inj hx
    exact ⟨rfl, rfl, rfl, rfl, rfl, fun l hl => of_decide_eq_true (List.mem_filter.1 hl).2⟩
  · exact fun _ => ⟨rfl, rfl⟩

end

/-! SHARD_READ (R693). -/

section
variable (src : Fin 1024) (tag : BitVec 16) {seq co shard first count : Nat} {s : State} {m : Manifest} {x : Shard} {b : List Byte}

theorem exec_shardRead_none (h : ∀ m x, (s.und.manifests.find? fun m => m.company = co && m.snapSeq = seq) = some m →
      m.shards[shard]? = some x → heldShard s x = none) :
    exec (.shardRead src tag seq co shard first count) s =
      .next (sendPkt s 0x26 src.val tag.toNat (topoOf s src.val).epoch true []) := by
  change execShardRead src tag seq co shard first count s = _
  unfold execShardRead
  cases hm : s.und.manifests.find? fun m => m.company = co && m.snapSeq = seq with
  | none => rfl
  | some m =>
    cases hx : m.shards[shard]? with
    | none => simp only [Option.bind_some, hx, Option.bind_none]
    | some x => simp only [Option.bind_some, hx, h m x hm hx, Option.map_none]

/-- Of the body `b` of a shard, the bytes that a read of `count` blocks from block `first` on asks for: of a KV shard of blocks of
`n` bytes, their numbers and the blocks themselves (R693). -/
def askedBytes (n : Nat) (x : Shard) (b : List Byte) (first count : Nat) : List Byte :=
  let k := b.length / (4 + n)
  if x.kind = 2 ∧ 0 < first then
    (b.drop (4 * first)).take (4 * min count (k - first)) ++ (b.drop (4 * k + n * first)).take (n * min count (k - first))
  else if x.kind = 2 ∧ count < k then b.take (4 * count) ++ (b.drop (4 * k)).take (n * count)
  else b

/-- Data leave as the answer to a read. -/
def sendData (s : State) (src tag : Nat) (d : List Byte) : State :=
  (if d.isEmpty then [[]] else pieces 4096 (d.length / 4096 + 1) d).foldl
    (fun t p => sendPkt t 0x26 src tag (topoOf s src).epoch false p) s

theorem exec_shardRead_held (hm : (s.und.manifests.find? fun m => m.company = co && m.snapSeq = seq) = some m)
    (hx : m.shards[shard]? = some x) (hb : heldShard s x = some b) : exec (.shardRead src tag seq co shard first count) s =
      .next (sendData s src.val tag.toNat (askedBytes (fieldAt m.raw 0x30 4) x b first count)) := by
  change execShardRead src tag seq co shard first count s = _
  unfold execShardRead
  simp only [hm, hx, hb, Option.bind_some, Option.map_some]
  rfl

theorem askedBytes_whole {n : Nat} (h : x.kind ≠ 2 ∨ (first = 0 ∧ b.length / (4 + n) ≤ count)) :
    askedBytes n x b first count = b := by
  have hfrom : ¬(x.kind = 2 ∧ 0 < first) := by omega
  have hshort : ¬(x.kind = 2 ∧ count < b.length / (4 + n)) := by omega
  exact (if_neg hfrom).trans (if_neg hshort)

theorem askedBytes_head {n : Nat} (hk : x.kind = 2) (hf : first = 0) (hc : count < b.length / (4 + n)) :
    askedBytes n x b first count = b.take (4 * count) ++ (b.drop (4 * (b.length / (4 + n)))).take (n * count) := by
  have hfrom : ¬(x.kind = 2 ∧ 0 < first) := by omega
  exact (if_neg hfrom).trans (if_pos ⟨hk, hc⟩)

theorem askedBytes_from {n : Nat} (hk : x.kind = 2) (hf : 0 < first) : askedBytes n x b first count =
    (b.drop (4 * first)).take (4 * min count (b.length / (4 + n) - first)) ++
      (b.drop (4 * (b.length / (4 + n)) + n * first)).take (n * min count (b.length / (4 + n) - first)) := if_pos ⟨hk, hf⟩

end

/-! SHARD_DATA (R693, R694, R531). -/

section
variable {src : Fin 1024} {tag : BitVec 16} {ep : BitVec 8} {data : List Byte} {poison : Bool} {s : State} {p : Pend} {m : Manifest}
  {x : Shard}

theorem exec_shardData_stale (h : ep.toNat ≠ get s Fld.fabEpochEpoch) :
    exec (.shardData src tag ep data poison) s = .next (inc s Fld.fabOrphanStaleReply 1) :=
  congrArg Host.Outcome.next (if_pos h)

theorem exec_shardData_unasked (h : ep.toNat = get s Fld.fabEpochEpoch)
    (hp : (s.fab.pend.find? fun p => p.tag = tag.toNat && p.dst = src.val) = none) :
    exec (.shardData src tag ep data poison) s = .next (inc s Fld.fabOrphanOrphan 1) := by
  change execShardData src tag ep data poison s = _
  unfold execShardData
  rw [if_neg (not_not.2 h), hp]

theorem freePend_und (s : State) (p : Pend) : (freePend s p).und = s.und :=
  (issueWaiting_fp rfl _ (Fp.refl 1049601 _)).und rfl

/-- The data of the read of shard `x` under `tag` goes to the restore. -/
def keepShard (s : State) (tag : Nat) (x : Shard) (data : List Byte) : State :=
  s.onUnd fun u => { u with reads := u.reads.filter fun r => r.1 ≠ tag, got := u.got ++ [(x, data)] }

theorem exec_shardData_read (h : ep.toNat = get s Fld.fabEpochEpoch)
    (hp : (s.fab.pend.find? fun p => p.tag = tag.toNat && p.dst = src.val) = some p)
    (hr : (s.und.reads.find? fun r => r.1 = tag.toNat) = some (tag.toNat, m, x)) :
    exec (.shardData src tag ep data poison) s = .next
      (if poison = true ∨ data.length ≠ x.length ∨ Config.sha384 data ≠ x.digest then shardFailed (freePend s p)
        else if (keepShard (freePend s p) tag.toNat x data).und.reads = [] then
          placeFor (keepShard (freePend s p) tag.toNat x data) m
        else keepShard (freePend s p) tag.toNat x data) := by
  have hu : ((freePend s p).und.reads.find? fun r => r.1 = tag.toNat) = some (tag.toNat, m, x) := by rw [freePend_und]; exact hr
  change execShardData src tag ep data poison s = _
  unfold execShardData
  rw [if_neg (not_not.2 h), hp]
  unfold freePend at hu ⊢
  simp only [hu, Bool.or_eq_true, decide_eq_true_eq, or_assoc, List.isEmpty_iff]
  rfl

end

/-! RESTORE_FILL_DONE (R44, R79, R423, R588, R703). -/

section
variable {fn : Fin 128} {call : Word} {s : State}

/-- A Call in restore is the Call of this function with this id. -/
def restIs (s : State) (fn callId : Nat) (r : Rest) : Bool := (callAt s r.slot).any fun c => c.fn = fn && c.callId = callId

/-- The blocks of the Call in restore are filled. -/
def noteFilled (s : State) (fn callId : Nat) : State :=
  s.onUnd fun u => { u with restore := mapIf (restIs s fn callId) (fun r => { r with filled := true }) u.restore }

/-- A Call's restore is over: it may be listed, from now on or, where this device submitted it, once it has its RESTORED Notice. -/
def endRest (s : State) (r : Rest) : State :=
  let s := s.onUnd fun u => { u with restore := u.restore.erase r }
  onCall s r.slot fun c => { c with restoring := c.src = selfDev s }

/-- The Calls in restore of this name whose blocks are filled may be listed where they are re-pointed too. -/
def listFilled (s : State) (fn callId : Nat) : State :=
  ((noteFilled s fn callId).und.restore.filter fun r => restIs s fn callId r && r.repointed).foldl endRest (noteFilled s fn callId)

theorem endRest_regs (s : State) (r : Rest) : (endRest s r).regs = s.regs := rfl

theorem endRest_hiu (s : State) (r : Rest) : (endRest s r).hiu = s.hiu := rfl

theorem endRest_cue (s : State) (r : Rest) : (endRest s r).cue = s.cue := rfl

theorem listFilled_regs (s : State) (fn callId : Nat) : (listFilled s fn callId).regs = s.regs :=
  foldl_keeps (·.regs) endRest endRest_regs _ _

theorem listFilled_hiu (s : State) (fn callId : Nat) : (listFilled s fn callId).hiu = s.hiu :=
  foldl_keeps (·.hiu) endRest endRest_hiu _ _

theorem listFilled_cueNum (s : State) (fn callId : Nat) : cueNum (listFilled s fn callId) = cueNum s :=
  congrArg Cue.num (foldl_keeps (·.cue) endRest endRest_cue _ _)

theorem selfDev_listFilled (s : State) (fn callId : Nat) : selfDev (listFilled s fn callId) = selfDev s :=
  get_congr (listFilled_regs s fn callId) _

/-- The Calls in the slot of `r` wait only where this device submitted them. -/
def Listable (r : Rest) (s : State) : Prop := ∀ c ∈ s.stm.board, c.slot = r.slot → c.restoring = decide (c.src = selfDev s)

/-- A Call after the end of a restore is as before, but for `restoring` where the restore is of its slot. -/
theorem mem_endRest_board {s : State} {r : Rest} {c : Call} (h : c ∈ (endRest s r).stm.board) :
    (c.slot = r.slot ∧ c.restoring = decide (c.src = selfDev s)) ∨ (c.slot ≠ r.slot ∧ c ∈ s.stm.board) := by
  obtain ⟨d, hd, rfl⟩ := List.mem_map.1 h
  by_cases hs : d.slot = r.slot
  · rw [if_pos (decide_eq_true hs)]
    exact .inl ⟨hs, rfl⟩
  · rw [if_neg (by simpa using hs)]
    exact .inr ⟨hs, hd⟩

theorem endRest_listable (s : State) (r : Rest) : Listable r (endRest s r) := fun c hc hslot => by
  rcases mem_endRest_board hc with ⟨-, hres⟩ | ⟨hne, -⟩
  · exact hres
  · exact absurd hslot hne

theorem endRest_keeps_listable (s : State) (r q : Rest) (h : Listable r s) : Listable r (endRest s q) := fun c hc hslot => by
  rcases mem_endRest_board hc with ⟨-, hres⟩ | ⟨-, hold⟩
  · exact hres
  · exact h c hold hslot

theorem listFilled_board {c : Call} {fn callId : Nat} (hc : c ∈ (listFilled s fn callId).stm.board) {r : Rest}
    (hr : r ∈ s.und.restore) (hslot : r.slot = c.slot) (hp : r.repointed = true) (hmine : restIs s fn callId r = true) :
    c.restoring = decide (c.src = selfDev s) := by
  have hdone : { r with filled := true } ∈ (noteFilled s fn callId).und.restore.filter fun r =>
      restIs s fn callId r && r.repointed :=
    List.mem_filter.2 ⟨List.mem_map.2 ⟨r, hr, if_pos hmine⟩, Bool.and_eq_true_iff.2 ⟨hmine, hp⟩⟩
  have hlist := foldl_establishes endRest Listable endRest_listable endRest_keeps_listable _ (noteFilled s fn callId) _ hdone
  rw [← selfDev_listFilled s fn callId]
  exact hlist c hc hslot.symm

/-- The Call's RESTORED Notice. -/
def restoredNotice (s : State) (e : CallEnt) : Notice :=
  mkNotice e.callId e.fn 4 stRestored e.ring e.company e.resume e.tenant 0 (cueNum s)

/-- The Call gets its RESTORED Notice. -/
def noteRestored (s : State) (e : CallEnt) (fn : Nat) : State :=
  wmUpdate (onEnt s fn e.callId fun x => { x with
    restoredN := some (restoredNotice s e), parkNotice := x.parkNotice || !nqFree s fn }) 2

/-- At the submitting device a re-pointed Call that has not ended gets its Notice. -/
def tellRestored (s : State) (fn callId : Nat) : State :=
  match entOf s fn callId with
  | some e => if e.restored && !e.finalN.isSome && !e.finalWritten then noteRestored s e fn else s
  | none => s

theorem exec_restoreFillDone (fn : Fin 128) (call : Word) (s : State) : exec (.restoreFillDone fn call) s =
    .next (tellRestored (listFilled s fn.val call.toNat) fn.val call.toNat) := rfl

theorem tellRestored_elsewhere {fn callId : Nat} (h : entOf s fn callId = none) : tellRestored s fn callId = s := by
  rw [tellRestored, h]

theorem tellRestored_here {fn callId : Nat} {e : CallEnt} (h : entOf s fn callId = some e) (hr : e.restored = true)
    (hn : e.finalN = none) (hw : e.finalWritten = false) : tellRestored s fn callId = noteRestored s e fn := by
  rw [tellRestored, h]
  simp only [hr, hn, hw, Option.isSome_none, Bool.not_false, Bool.and_self, if_true]

theorem entOf_listFilled (s : State) (fn callId : Nat) : entOf (listFilled s fn callId) fn callId = entOf s fn callId :=
  entOf_congr (listFilled_hiu ..) _ _

theorem entOf_callId {e : CallEnt} {fn callId : Nat} (h : entOf s fn callId = some e) : e.callId = callId := by
  have hname := List.find?_some h
  rw [Bool.and_eq_true, decide_eq_true_eq, decide_eq_true_eq] at hname
  exact hname.2

theorem noteRestored_notice {e x : CallEnt} {fn callId : Nat} (h : entOf s fn callId = some e)
    (hx : entOf (noteRestored s e fn) fn callId = some x) : x.restoredN = some (restoredNotice s e) := by
  rw [noteRestored, entOf_congr (wmUpdate_hiu _ _), entOf_callId h, entOf_onEnt, h] at hx
  · obtain rfl := Option.some.inj hx
    rfl
  · exact fun _ => ⟨rfl, rfl⟩

theorem restoreFillDone_lists (h : entOf s fn.val call.toNat = none) :
    ∃ t, exec (.restoreFillDone fn call) s = .next t ∧ t.regs = s.regs ∧ t.hiu = s.hiu ∧
      (∀ c ∈ t.stm.board, (∃ r ∈ s.und.restore, r.slot = c.slot ∧ r.repointed = true ∧
        (callAt s r.slot).any (fun x => decide (x.fn = fn.val) && decide (x.callId = call.toNat)) = true) →
        c.restoring = decide (c.src = selfDev s)) := by
  rw [exec_restoreFillDone, tellRestored_elsewhere ((entOf_listFilled ..).trans h)]
  exact ⟨_, rfl, listFilled_regs .., listFilled_hiu ..,
    fun _ hc ⟨_, hr, hslot, hp, hmine⟩ => listFilled_board hc hr hslot hp hmine⟩

theorem restoreFillDone_notes {e : CallEnt} (h : entOf s fn.val call.toNat = some e) (hr : e.restored = true)
    (hn : e.finalN = none) (hw : e.finalWritten = false) :
    ∃ t, exec (.restoreFillDone fn call) s = .next t ∧
      (∀ x, entOf t fn.val call.toNat = some x → x.restoredN = some (restoredNotice s e)) := by
  have hent := (entOf_listFilled s fn.val call.toNat).trans h
  rw [exec_restoreFillDone, tellRestored_here hent hr hn hw]
  refine ⟨_, rfl, fun x hx => ?_⟩
  rw [noteRestored_notice hent hx, restoredNotice, listFilled_cueNum]
  rfl

end

/-! TRANSFER (R590, R685, R706). -/

section
variable (src : Fin 1024) (id : Word) {off : Nat} (data : List Byte) {s : State}

/-- The bytes received so far of a transfer. -/
def earlierPart (s : State) (src id : Nat) : List Byte :=
  match s.und.transfers.find? fun t => t.1 = src && t.2.1 = id with
  | some t => t.2.2
  | none => []

/-- The transfers received under other names. -/
def otherTransfers (s : State) (src id : Nat) : List (Nat × Nat × List Byte) :=
  s.und.transfers.filter fun t => !(decide (t.1 = src) && decide (t.2.1 = id))

theorem exec_transfer_drops {poison : Bool}
    (h : poison = true ∨ (off ≠ 0 ∧ off ≠ (earlierPart s src.val id.toNat).length)) :
    exec (.transfer src id off data poison) s =
      .next (s.onUnd fun u => { u with transfers := otherTransfers s src.val id.toNat }) := by
  refine congrArg Host.Outcome.next (if_pos ?_)
  rw [Bool.or_eq_true, Bool.and_eq_true, decide_eq_true_eq, decide_eq_true_eq]
  exact h

/-- What has been received of a transfer with the part that begins at `off`. -/
def joinedPart (s : State) (src id off : Nat) (data : List Byte) : List Byte :=
  (if off = 0 then [] else earlierPart s src id) ++ data

/-- The bytes `bs` are what has been received of a transfer. -/
def joinTransfer (s : State) (src id : Nat) (bs : List Byte) : State :=
  s.onUnd fun u => { u with transfers := otherTransfers s src id ++ [(src, id, bs)] }

/-- The whole manifest, its signature verified, that the bytes of a transfer are (R685). -/
def wholeManifest (bs : List Byte) : Option Manifest :=
  (parseManifest bs).filter fun m => m.raw.length = bs.length && manifestSigned m

/-- What the bytes of a transfer are taken for, where they are no manifest, by their first word. -/
def takeMarked (s : State) (src : Nat) (bs : List Byte) : State :=
  let mark := fieldAt bs 0 4
  if mark = costumeMark then gotCostume s src bs
  else if mark = spillMark ∧ bs.length = 76 + 2 * fieldAt bs 4 4 then (if fromLead s src then gotSpill s bs else s)
  else if mark = factsMark ∧ bs.length = 20 + 12 * fieldAt bs 4 4 then (if fromLead s src then gotFacts s bs else s)
  else if mark = heldMark ∧ bs.length = 12 + 8 * fieldAt bs 8 4 then gotHeld s bs
  else if mark = offerMark ∧ bs.length = 20 + fieldAt bs 4 4 then gotOffer s src bs
  else if mark = fillMark ∧ bs.length = 8 + fieldAt bs 4 4 * (4 + blockBytes s) then gotFill s src bs
  else gotScript s src bs

/-- What the bytes of a transfer are taken for. -/
def takeTransfer (s : State) (src : Nat) (bs : List Byte) : State :=
  match wholeManifest bs with
  | some m => gotManifest s src m
  | none => takeMarked s src bs

theorem exec_transfer_joins (h : off = 0 ∨ off = (earlierPart s src.val id.toNat).length) :
    exec (.transfer src id off data false) s = .next (takeTransfer (joinTransfer s src.val id.toNat
      (joinedPart s src.val id.toNat off data)) src.val (joinedPart s src.val id.toNat off data)) := by
  refine congrArg Host.Outcome.next (if_neg ?_)
  rw [Bool.false_or, Bool.and_eq_true, decide_eq_true_eq, decide_eq_true_eq]
  exact fun hgap => h.elim hgap.1 hgap.2

theorem takeMarked_transfers (s : State) (src : Nat) (bs : List Byte) : (takeMarked s src bs).und.transfers = s.und.transfers := by
  unfold takeMarked
  refine ite_transfers ?costume (ite_transfers (ite_transfers ?spill rfl) (ite_transfers (ite_transfers ?facts rfl)
    (ite_transfers ?held (ite_transfers ?offer (ite_transfers ?fill ?script)))))
  case costume => exact (gotCostume_fp rfl s src bs (Fp.refl 5244673 s)).transfers rfl
  case spill => exact (gotSpill_fp rfl s bs (Fp.refl 513 s)).transfers rfl
  case facts => exact (gotFacts_fp rfl s bs (Fp.refl 8 s)).transfers rfl
  case held => exact (gotHeld_fp rfl s bs (Fp.refl 1573895 s)).transfers rfl
  case offer => exact gotOffer_transfers s src bs
  case fill => exact gotFill_transfers s src bs
  case script => exact (gotScript_fp rfl s src bs (Fp.refl 1049665 s)).transfers rfl

theorem takeTransfer_transfers (s : State) (src : Nat) (bs : List Byte) :
    (takeTransfer s src bs).und.transfers = s.und.transfers := by
  unfold takeTransfer
  split
  · exact gotManifest_transfers s src _
  · exact takeMarked_transfers s src bs

theorem takeTransfer_manifest {m : Manifest} {bs : List Byte} (src : Nat) (hm : parseManifest bs = some m)
    (hlen : m.raw.length = bs.length) (hsig : manifestSigned m = true) : takeTransfer s src bs = gotManifest s src m := by
  have hwhole : wholeManifest bs = some m := by
    rw [wholeManifest, hm, Option.filter_some_pos (by simp [hlen, hsig])]
  rw [takeTransfer, hwhole]

end

/-! UND_HOST_GO (R709, R710). -/

/-- Where in Staging the manifest lies. -/
def hostAddr (u : State) : Nat := get u Fld.undHostAddrLoV + get u Fld.undHostAddrHiV * 2 ^ 32

/-- The manifest in Staging. -/
def hostManifest (u : State) : Option Manifest :=
  parseManifest (readBytes u (hostAddr u) (224 + 96 * min 1024 (readLe u (hostAddr u + 0x28) 4)))

section
variable {v : Word} {s u : State} {m : Manifest} (hr : reaches s 0 Fld.undHostCtlGo.off = true) (hb : bit v 0 = true)
  (hu : commandWord s 0 Fld.undHostCtlGo.off v = u)
include hr hb hu

theorem undHostGo_notLead (hl : isLead u = false) : exec (.undHostGo v) s = .next (set u Fld.undHostResultResult 6) := by
  change execUndHostGo v s = _
  simp only [execUndHostGo, hr, hb, hu, hl, Bool.not_true, Bool.not_false, Bool.or_self, Bool.false_eq_true, if_false, if_true]

theorem undHostGo_noManifest (hl : isLead u = true) (hm : hostManifest u = none) :
    exec (.undHostGo v) s = .next (set u Fld.undHostResultResult 3) := by
  unfold hostManifest hostAddr at hm
  change execUndHostGo v s = _
  simp only [execUndHostGo, hr, hb, hu, hl, hm, Bool.not_true, Bool.or_self, Bool.false_eq_true, if_false]

/-- With a manifest in Staging, its Company, its signature and its shards decide. -/
theorem undHostGo_manifest (hl : isLead u = true) (hm : hostManifest u = some m) :
    (m.company ∉ u.fab.lost → exec (.undHostGo v) s = .next (set u Fld.undHostResultResult 5)) ∧
    (m.company ∈ u.fab.lost → manifestSigned m = false → exec (.undHostGo v) s = .next (set u Fld.undHostResultResult 3)) ∧
    (m.company ∈ u.fab.lost → manifestSigned m = true → openShards u m.shards (hostAddr u + m.raw.length) = none →
      exec (.undHostGo v) s = .next (set u Fld.undHostResultResult 4)) ∧
    (m.company ∈ u.fab.lost → manifestSigned m = true → ∀ got, openShards u m.shards (hostAddr u + m.raw.length) = some got →
      exec (.undHostGo v) s = .next (set (placeAll (u.onUnd fun x => { x with got := got }) m) Fld.undHostResultResult 2)) := by
  unfold hostManifest at hm
  unfold hostAddr at hm ⊢
  change (_ → execUndHostGo v s = _) ∧ (_ → _ → execUndHostGo v s = _) ∧ (_ → _ → _ → execUndHostGo v s = _) ∧
    (_ → _ → ∀ got, _ → execUndHostGo v s = _)
  simp only [execUndHostGo, hr, hb, hu, hl, hm, Bool.not_true, Bool.or_self, Bool.false_eq_true, if_false]
  refine ⟨fun hco => ?_, fun hco hs => ?_, fun hco hs ho => ?_, fun hco hs got ho => ?_⟩
  · rw [if_pos hco]
  · rw [if_neg (not_not.2 hco), hs]
    rfl
  · rw [if_neg (not_not.2 hco), hs, ho]
    rfl
  · rw [if_neg (not_not.2 hco), hs, ho]
    rfl

end

/-- Settles O49: the Call Map entry, the shard held, the read's digest, the part's offset and the manifest in Staging decide; what a
transfer is taken for leaves the transfers received alone. -/
theorem restoresComplete : Obligations.RestoresComplete := by
  refine ⟨fun src tag fn call co lead pos s => ⟨exec_repoint_unknown src tag co lead pos,
      fun e => exec_repoint_ended src tag co lead pos, fun e => repoint_takes_lines src tag co lead pos⟩,
    fun src tag seq co shard first count s => ⟨exec_shardRead_none src tag, fun m x b hm hx hb => ?_⟩,
    fun src tag ep data poison s => ⟨exec_shardData_stale, fun h => ⟨exec_shardData_unasked h, fun p m x hp hr => ?_⟩⟩,
    fun fn call s => restoreFillDone_lists, fun fn call e s => restoreFillDone_notes,
    fun src id off data s => ⟨⟨_, exec_transfer_drops src id data (.inl rfl), rfl⟩,
      fun h0 h => ⟨_, exec_transfer_drops src id data (.inr ⟨h0, h⟩), rfl⟩,
      fun h => ⟨_, exec_transfer_joins src id data h, takeTransfer_transfers _ _ _⟩, fun m h hm hlen hsig =>
        (exec_transfer_joins src id data h).trans (congrArg Host.Outcome.next (takeTransfer_manifest src.val hm hlen hsig))⟩,
    fun v s hr hb => ⟨undHostGo_notLead hr hb rfl, fun hl =>
      ⟨undHostGo_noManifest hr hb rfl hl, fun m => undHostGo_manifest hr hb rfl hl⟩⟩⟩
  · have hexec := exec_shardRead_held src tag (first := first) (count := count) hm hx hb
    exact ⟨fun h => by rw [hexec, askedBytes_whole h]; rfl, fun hk hf hc => by rw [hexec, askedBytes_head hk hf hc]; rfl,
      fun hk hf => by rw [hexec, askedBytes_from hk hf]; rfl⟩
  · rw [exec_shardData_read h hp hr]
    refine ⟨fun hbad => congrArg Host.Outcome.next (if_pos hbad), fun hpoison hlen hdigest => ?_⟩
    rw [if_neg (by simp [hpoison, hlen, hdigest])]
    exact ⟨fun hleft => congrArg Host.Outcome.next (if_neg hleft), fun hall => congrArg Host.Outcome.next (if_pos hall)⟩

end Sys2Proof.Machine
end

section
/-!
OBLIGATION O47. Zeroisation, tenant key imports, the floor register, tampers and the closing of audit records. In the
registers and the Stage Door's own state an audit event touches its records and their two counters alone (`audit_keeps`), so what each
command does shows through its record.
-/
namespace Sys2Proof.Machine

/-! Audit records. -/

/-- The Stage Door's own state without its audit records. -/
def Sdr.withoutAudit (d : Sdr) : Sdr := { d with audit := [], lossPend := 0, handed := 0, unpersisted := 0 }

/-- States that agree without their audit records agree on all else that the Stage Door holds. -/
theorem eq_of_withoutAudit {α : Type} {d e : Sdr} (p : Sdr → α) (h : d.withoutAudit = e.withoutAudit)
    (hp : ∀ x, p (Sdr.withoutAudit x) = p x := by exact fun _ => rfl) : p d = p e := by
  rw [← hp d, h, hp e]

/-- The registers that count audit records. -/
def auditKeys : List Nat := [Fld.sdrAuditNextV.key, Fld.sdrAuditLostV.key]

theorem get_set_auditCount (s : State) {f g : Fld} (v : Nat) (h : f.key ∉ auditKeys) (hg : g.key ∈ auditKeys) :
    get (set s g v) f = get s f := get_set_other s f g v fun e => h (e ▸ hg)

theorem audit_keeps (s : State) (code fn : Nat) (spdm : Bool) (status detail : Nat) :
    (audit s code fn spdm status detail).sdr.withoutAudit = s.sdr.withoutAudit ∧
      ∀ f : Fld, f.key ∉ auditKeys → get (audit s code fn spdm status detail) f = get s f := by
  have hlost (v : Nat) (g : Sdr → Sdr) (f : Fld) (h : f.key ∉ auditKeys) :
      get ((set s Fld.sdrAuditLostV v).onSdr g) f = get s f := get_set_auditCount s v h (by decide)
  have hnext (v : Nat) (g : Sdr → Sdr) (f : Fld) (h : f.key ∉ auditKeys) :
      get ((set s Fld.sdrAuditNextV v).onSdr g) f = get s f := get_set_auditCount s v h (by decide)
  unfold audit
  dsimp only
  split
  · split
    · exact ⟨rfl, hlost _ _⟩
    · exact ⟨rfl, fun _ _ => rfl⟩
  · split
    · split
      · split <;> exact ⟨rfl, fun _ _ => rfl⟩
      · exact ⟨by simp only [State.onSdr_sdr, set_sdr, Sdr.withoutAudit], hnext _ _⟩
    · exact ⟨rfl, hnext _ _⟩

theorem audit_sdr (s : State) (code fn : Nat) (spdm : Bool) (status detail : Nat) :
    (audit s code fn spdm status detail).sdr.withoutAudit = s.sdr.withoutAudit := (audit_keeps ..).1

theorem get_audit_uncounted (s : State) (code fn : Nat) (spdm : Bool) (status detail : Nat) {f : Fld} (h : f.key ∉ auditKeys) :
    get (audit s code fn spdm status detail) f = get s f := (audit_keeps ..).2 f h

theorem audit_mdw (s : State) (code fn : Nat) (spdm : Bool) (status detail : Nat) :
    (audit s code fn spdm status detail).mdw = s.mdw := (audit_fp rfl s code fn spdm status detail (Fp.refl 196609 s)).mdw rfl

theorem audit_fab (s : State) (code fn : Nat) (spdm : Bool) (status detail : Nat) :
    (audit s code fn spdm status detail).fab = s.fab := (audit_fp rfl s code fn spdm status detail (Fp.refl 196609 s)).fab rfl

/-! A full zeroisation (R763, R765). -/

theorem writeExit_written (s : State) : (writeExit s).fab.exitWritten = true := by
  cases h : s.fab.exitWritten with
  | true => rw [writeExit_once h, h]
  | false => exact (writeExit_notes h).1

theorem writeExit_sdr (s : State) : (writeExit s).sdr = s.sdr := (writeExit_fp rfl s (Fp.refl 1602561 s)).sdr rfl

theorem writeExit_mdw (s : State) : (writeExit s).mdw = s.mdw := (writeExit_fp rfl s (Fp.refl 1602561 s)).mdw rfl

/-- Every key, session and seed is forgotten, and the zeroisation is under way. -/
def forgotten (d : Sdr) : Sdr := { d with
  hk := none, tkeys := [], imp := none, sessions := [], drbg := none, large := [], chunks := [], chunkHandle := none
  zeroing := true }

/-- The state as the zeroisation's audit record finds it. -/
def secretsGone (s : State) : State :=
  (countSessions (set (s.onSdr forgotten) Fld.sdrStatusHouseKey 0)).onUnd fun u => { u with draining := [] }

section
variable {s : State} (hstate : sdrState s ≠ 3) (hidle : s.sdr.zeroing = false) (spdm : Bool)
include hstate hidle

theorem fullZeroise_eq : fullZeroise s spdm = writeExit (audit (secretsGone s) 4 0 spdm 0 0xFFFFFFFF) :=
  if_neg (by simp [hstate, hidle])

theorem fullZeroise_sdr : (fullZeroise s spdm).sdr.withoutAudit = (forgotten s.sdr).withoutAudit := by
  rw [fullZeroise_eq hstate hidle, writeExit_sdr, audit_sdr]
  rfl

theorem fullZeroise_exits : (fullZeroise s spdm).fab.exitWritten = true := by
  rw [fullZeroise_eq hstate hidle]
  exact writeExit_written _

theorem fullZeroise_mdw : (fullZeroise s spdm).mdw = s.mdw := by
  rw [fullZeroise_eq hstate hidle, writeExit_mdw, audit_mdw]
  rfl

end

/-- One that is under way is not begun again. -/
theorem fullZeroise_once {s : State} (h : s.sdr.zeroing = true) (spdm : Bool) : fullZeroise s spdm = s := if_pos (Or.inr h)

/-! ZEROISE and TENANT_ZERO. -/

theorem zeroiseTenant_sdr (s : State) (t : Nat) (spdm : Bool) :
    (zeroiseTenant s t spdm).sdr.withoutAudit = { s.sdr with tkeys := s.sdr.tkeys.del t }.withoutAudit := audit_sdr ..

/-- With TENANT_ZERO set beside ZEROISE the tenant's slot is emptied first. -/
def tenantFirst (v : Word) (u : State) : State :=
  if bit v 1 then zeroiseTenant u (get u Fld.sdrZeroCtlTenant) false else u

theorem tenantFirst_keeps (v : Word) (u : State) :
    sdrState (tenantFirst v u) = sdrState u ∧ (tenantFirst v u).sdr.zeroing = u.sdr.zeroing ∧
      (tenantFirst v u).sdr.floor = u.sdr.floor ∧ (tenantFirst v u).mdw = u.mdw := by
  unfold tenantFirst
  split
  · have hsdr := zeroiseTenant_sdr u (get u Fld.sdrZeroCtlTenant) false
    exact ⟨get_audit_uncounted _ _ _ _ _ _ (by decide), (eq_of_withoutAudit Sdr.zeroing hsdr :),
      (eq_of_withoutAudit Sdr.floor hsdr :), audit_mdw ..⟩
  · exact ⟨rfl, rfl, rfl, rfl⟩

section
variable {v : Word} {s u : State} (hr : reaches s 0 Fld.sdrZeroCtlZeroise.off = true)
  (hu : commandWord s 0 Fld.sdrZeroCtlZeroise.off v = u) (hroom : auditRoom u = true)
include hr hu hroom

theorem exec_zeroise (hb : bit v 0 = true) : exec (.zeroise v) s = .next (fullZeroise (tenantFirst v u) false) := by
  subst hu
  exact congrArg Host.Outcome.next (if_pos (by rw [hr, hb, hroom]; rfl))

theorem exec_tenantZero (hb : bit v 0 = false) (ht : bit v 1 = true) (hstate : sdrState u ≠ 3) :
    exec (.tenantZero v) s = .next (zeroiseTenant u (get u Fld.sdrZeroCtlTenant) false) := by
  subst hu
  change reaches s 0 Fld.sdrZeroCtlTenantZero.off = true at hr
  change auditRoom (commandWord s 0 Fld.sdrZeroCtlTenantZero.off v) = true at hroom
  exact congrArg Host.Outcome.next (if_pos (by rw [hr, hb, ht, hroom]; exact decide_eq_true hstate))

theorem zeroise_forgets (hstate : sdrState u ≠ 3) (hidle : u.sdr.zeroing = false) (hb : bit v 0 = true) :
    ∃ t, exec (.zeroise v) s = .next t ∧ t.sdr.hk = none ∧ t.sdr.tkeys = [] ∧ t.sdr.imp = none ∧ t.sdr.sessions = [] ∧
      t.sdr.drbg = none ∧ t.sdr.zeroing = true ∧ t.fab.exitWritten = true ∧ t.sdr.floor = u.sdr.floor ∧ t.mdw = u.mdw := by
  obtain ⟨kstate, kzeroing, kfloor, kmdw⟩ := tenantFirst_keeps v u
  have hstate' : sdrState (tenantFirst v u) ≠ 3 := kstate ▸ hstate
  have hidle' : (tenantFirst v u).sdr.zeroing = false := kzeroing.trans hidle
  have hsdr := fullZeroise_sdr hstate' hidle' false
  exact ⟨_, exec_zeroise hr hu hroom hb, eq_of_withoutAudit Sdr.hk hsdr, eq_of_withoutAudit Sdr.tkeys hsdr,
    eq_of_withoutAudit Sdr.imp hsdr, eq_of_withoutAudit Sdr.sessions hsdr, eq_of_withoutAudit Sdr.drbg hsdr,
    eq_of_withoutAudit Sdr.zeroing hsdr, fullZeroise_exits hstate' hidle' false,
    (eq_of_withoutAudit Sdr.floor hsdr).trans kfloor, (fullZeroise_mdw hstate' hidle' false).trans kmdw⟩

theorem tenantZero_empties_slot (hstate : sdrState u ≠ 3) (hb : bit v 0 = false) (ht : bit v 1 = true) :
    ∃ t, exec (.tenantZero v) s = .next t ∧ t.sdr.tkeys = u.sdr.tkeys.del (get u Fld.sdrZeroCtlTenant) ∧
      t.sdr.hk = u.sdr.hk := by
  have hsdr := zeroiseTenant_sdr u (get u Fld.sdrZeroCtlTenant) false
  exact ⟨_, exec_tenantZero hr hu hroom hb ht hstate, eq_of_withoutAudit Sdr.tkeys hsdr, (eq_of_withoutAudit Sdr.hk hsdr :)⟩

end

/-! ZEROISE_COMPLETE (R765, R766). -/

theorem readByte_overwrite (s : State) (a : Nat) :
    readByte (overwrite s) a = if zeroisedByte s a then 0 else readByte s a := by
  unfold readByte AMap.getD
  change (AMap.get? (V := Byte) (s.mdw.mem.filter fun c => !zeroisedByte s c.1) a).getD 0 = _
  rw [AMap.get?_filter (V := Byte) _ (fun c => !zeroisedByte s c)]
  cases zeroisedByte s a <;> rfl

/-- The storage is overwritten and no zeroisation is under way; the state has still to show it. -/
def zeroised (s : State) : State := (overwrite s).onSdr fun d => { d with zeroing := false }

/-- The Stage Door is ZEROISED, but for one in ERROR. -/
def showZeroised (t : State) : State := if sdrState t = 2 then t else set t Fld.sdrStatusState 3

theorem sdrState_showZeroised (t : State) : sdrState (showZeroised t) = if sdrState t = 2 then 2 else 3 := by
  unfold showZeroised
  split
  · assumption
  · exact get_set_of_lt t Fld.sdrStatusState 3 (by decide)

/-- Showing the state touches only the registers. -/
theorem showZeroised_fp (t : State) : Fp 1 t (showZeroised t) :=
  ite_fp (Fp.refl 1 t) (set_fp rfl t Fld.sdrStatusState 3 (Fp.refl 1 t))

theorem exec_zeroiseComplete {s : State} (hz : s.sdr.zeroing = true) (hd : get s Fld.fabExitCtlDrained = 1) :
    exec .zeroiseComplete s = .next (showZeroised (zeroised s)) :=
  congrArg Host.Outcome.next (if_pos (by simp [hz, isSet, hd]))

theorem zeroiseComplete_empties (s : State) (hz : s.sdr.zeroing = true) (hd : get s Fld.fabExitCtlDrained = 1) :
    ∃ t, exec .zeroiseComplete s = .next t ∧ t.sdr.zeroing = false ∧
      t.mdw.blocks = [] ∧ t.wdr.vers = [] ∧ t.prm.scripts = [] ∧ t.und.bodies = [] ∧
      (∀ a, zeroisedByte s a = true → readByte t a = 0) ∧ (∀ a, zeroisedByte s a = false → readByte t a = readByte s a) ∧
      sdrState t = (if sdrState s = 2 then 2 else 3) := by
  have fp := showZeroised_fp (zeroised s)
  have hmdw := fp.mdw rfl
  have hbyte (a : Nat) : readByte (showZeroised (zeroised s)) a = if zeroisedByte s a then 0 else readByte s a :=
    (readByte_congr (congrArg Mdw.mem hmdw) a).trans (readByte_overwrite s a)
  refine ⟨_, exec_zeroiseComplete hz hd, congrArg Sdr.zeroing (fp.sdr rfl), congrArg Mdw.blocks hmdw,
    congrArg Wdr.vers (fp.wdr rfl), congrArg Prm.scripts (fp.prm rfl), congrArg Und.bodies (fp.und rfl),
    fun a ha => ?_, fun a ha => ?_, sdrState_showZeroised _⟩
  · rw [hbyte, ha, if_pos rfl]
  · rw [hbyte, ha, if_neg Bool.false_ne_true]

theorem zeroiseComplete_waits (s : State) (h : s.sdr.zeroing = false ∨ get s Fld.fabExitCtlDrained = 0) :
    exec .zeroiseComplete s = .next s := by
  refine congrArg Host.Outcome.next (if_neg ?_)
  obtain hz | hd := h
  · simp [hz]
  · simp [isSet, hd]

/-! TKEY_IMPORT (R745, R746, R748). -/

/-- The wrapped key in the import registers. -/
def importBlob (u : State) : Nat := ((List.range 10).map fun i => get u (Fld.sdrTkeyWrapV i) * 2 ^ (32 * i)).sum

/-- The cue at which an imported key comes into force. -/
def importCue (u : State) : Nat := get u Fld.sdrTkeyAtLoV + get u Fld.sdrTkeyAtHiV * 2 ^ 32

/-- An import that is taken up: no House key, a failed unwrap, or a scheduled key. -/
def importKey (u : State) : State :=
  match houseKey u "TENANTWRAP" 256 with
  | none => set u Fld.sdrTkeyResultResult 5
  | some w =>
    match Config.unwrap w (importBlob u) with
    | none => audit (set u Fld.sdrTkeyResultResult 4) 5 0 false 4 (get u Fld.sdrTkeyTenantTenant)
    | some k => (set u Fld.sdrTkeyResultResult 2).onSdr fun d =>
        { d with imp := some (get u Fld.sdrTkeyTenantTenant, k, importCue u) }

theorem importKey_noHouseKey {u : State} (h : u.sdr.hk = none) : importKey u = set u Fld.sdrTkeyResultResult 5 := by
  have hk : houseKey u "TENANTWRAP" 256 = none := by rw [houseKey, h, Option.map_none]
  unfold importKey
  rw [hk]

theorem importKey_unwrapFails {u : State} {w : Nat} (hw : houseKey u "TENANTWRAP" 256 = some w)
    (hk : Config.unwrap w (importBlob u) = none) :
    get (importKey u) Fld.sdrTkeyResultResult = 4 ∧ (importKey u).sdr.tkeys = u.sdr.tkeys ∧ (importKey u).sdr.imp = u.sdr.imp := by
  have heq : importKey u = audit (set u Fld.sdrTkeyResultResult 4) 5 0 false 4 (get u Fld.sdrTkeyTenantTenant) := by
    unfold importKey
    rw [hw]
    dsimp only
    rw [hk]
  have hsdr := audit_sdr (set u Fld.sdrTkeyResultResult 4) 5 0 false 4 (get u Fld.sdrTkeyTenantTenant)
  rw [heq]
  refine ⟨?_, eq_of_withoutAudit Sdr.tkeys hsdr, eq_of_withoutAudit Sdr.imp hsdr⟩
  rw [get_audit_uncounted _ _ _ _ _ _ (by decide)]
  exact get_set_of_lt u Fld.sdrTkeyResultResult 4 (by decide)

theorem importKey_schedules {u : State} {w k : Nat} (hw : houseKey u "TENANTWRAP" 256 = some w)
    (hk : Config.unwrap w (importBlob u) = some k) :
    get (importKey u) Fld.sdrTkeyResultResult = 2 ∧ (importKey u).sdr.tkeys = u.sdr.tkeys ∧
      (importKey u).sdr.imp = some (get u Fld.sdrTkeyTenantTenant, k, importCue u) := by
  have heq : importKey u = (set u Fld.sdrTkeyResultResult 2).onSdr fun d =>
      { d with imp := some (get u Fld.sdrTkeyTenantTenant, k, importCue u) } := by
    unfold importKey
    rw [hw]
    dsimp only
    rw [hk]
  rw [heq]
  exact ⟨get_set_of_lt u Fld.sdrTkeyResultResult 2 (by decide), rfl, rfl⟩

section
variable {v : Word} {s u : State} (hu : commandWord s 0 Fld.sdrTkeyImportImport.off v = u)
include hu

/-- An import under way, a full store of records or the ERROR state leaves the word without its action. -/
theorem exec_tkeyImport_ignored (h : importBusy u = true ∨ auditRoom u = false ∨ cryptoOn u = false) :
    exec (.tkeyImport v) s = .next u := by
  subst hu
  refine congrArg Host.Outcome.next (if_pos ?_)
  obtain h | h | h := h <;> simp [h]

theorem exec_tkeyImport_takes (hr : reaches s 0 Fld.sdrTkeyImportImport.off = true) (hb : bit v 0 = true)
    (hidle : importBusy u = false) (hroom : auditRoom u = true) (hon : cryptoOn u = true) :
    exec (.tkeyImport v) s = .next (importKey u) := by
  subst hu
  exact congrArg Host.Outcome.next (if_neg (by simp [hr, hb, hidle, hroom, hon]))

end

/-! FLOOR_WRITE (R12, R13, R761). -/

theorem raiseFloor_raises (s : State) (fn v : Nat) (spdm : Bool) (hv : v < 2 ^ 32) :
    (raiseFloor s fn v spdm).sdr.floor = v ∧ get (raiseFloor s fn v spdm) Fld.sdrFloorSeq = v := by
  refine ⟨eq_of_withoutAudit Sdr.floor (audit_sdr ..), ?_⟩
  unfold raiseFloor
  rw [get_audit_uncounted _ _ _ _ _ _ (by decide), get_onSdr]
  exact get_set_of_lt s Fld.sdrFloorSeq v hv

theorem lockedOut_floor (s : State) (fn off : Nat) (f : Fld) (v : Word) : (lockedOut s fn off f v).sdr.floor = s.sdr.floor := by
  unfold lockedOut sealedAudit
  split
  · exact eq_of_withoutAudit Sdr.floor (audit_sdr ..)
  · rfl

/-- Of the PF's write that reaches SDR_FLOOR, the mode, the value and the room for a record decide. -/
theorem exec_floorWrite (v : Word) {s : State} (hr : reaches s 0 Fld.sdrFloorSeq.off = true) : exec (.floorWrite 0 v) s = .next
    (if sealedMode s then lockedOut s 0 Fld.sdrFloorSeq.off Fld.sdrFloorSeq v
     else if floorMay s v.toNat && auditRoom s then raiseFloor s 0 v.toNat false
     else s) :=
  congrArg Host.Outcome.next (if_neg (by rw [hr]; decide))

theorem floorWrite_moves_up (v : Word) (s : State) (hr : reaches s 0 Fld.sdrFloorSeq.off = true) :
    (sealedMode s = false → auditRoom s = true → floorMay s v.toNat = true →
      ∃ t, exec (.floorWrite 0 v) s = .next t ∧ t.sdr.floor = v.toNat ∧ get t Fld.sdrFloorSeq = v.toNat) ∧
    (sealedMode s = false → floorMay s v.toNat = false → exec (.floorWrite 0 v) s = .next s) ∧
    (sealedMode s = true → ∃ t, exec (.floorWrite 0 v) s = .next t ∧ t.sdr.floor = s.sdr.floor) ∧
    (∀ fn : Fin 128, fn.val ≠ 0 → exec (.floorWrite fn v) s = .next s) := by
  rw [exec_floorWrite v hr]
  refine ⟨fun hopen hroom hmay => ⟨raiseFloor s 0 v.toNat false, ?_, raiseFloor_raises s 0 v.toNat false v.isLt⟩,
    fun hopen hmay => ?_, fun hsealed => ⟨lockedOut s 0 Fld.sdrFloorSeq.off Fld.sdrFloorSeq v, ?_, lockedOut_floor ..⟩,
    fun fn hfn => congrArg Host.Outcome.next (if_pos (by simp [hfn]))⟩
  · simp only [hopen, hroom, hmay, Bool.false_eq_true, if_false, Bool.and_self, if_true]
  · simp only [hopen, hmay, Bool.false_eq_true, if_false, Bool.false_and]
  · simp only [hsealed, if_true]

/-! TAMPER and AUDIT_CLOSE. -/

theorem exec_tamper (x : Word) {s : State} (h : sdrState s ≠ 3) :
    exec (.tamper x) s = .next (audit (fullZeroise s false) 0x0C 0 false 0 x.toNat) := congrArg Host.Outcome.next (if_neg h)

theorem tamper_zeroises (x : Word) (s : State) (h : sdrState s ≠ 3) (hidle : s.sdr.zeroing = false) :
    ∃ t, exec (.tamper x) s = .next t ∧ t.sdr.hk = none ∧ t.sdr.tkeys = [] ∧ t.fab.exitWritten = true := by
  have hsdr : (audit (fullZeroise s false) 0x0C 0 false 0 x.toNat).sdr.withoutAudit = (forgotten s.sdr).withoutAudit :=
    (audit_sdr ..).trans (fullZeroise_sdr h hidle false)
  refine ⟨_, exec_tamper x h, eq_of_withoutAudit Sdr.hk hsdr, eq_of_withoutAudit Sdr.tkeys hsdr, ?_⟩
  rw [audit_fab]
  exact fullZeroise_exits h hidle false

/-- A tamper while a zeroisation is under way leaves its record alone. -/
theorem tamper_while_zeroing (x : Word) (s : State) (h : sdrState s ≠ 3) (hz : s.sdr.zeroing = true) :
    exec (.tamper x) s = .next (audit s 0x0C 0 false 0 x.toNat) := by
  rw [exec_tamper x h, fullZeroise_once hz]

theorem auditClose_hands_oldest (r : BitVec 256) (rs : List (BitVec 256)) (s : State)
    (h : keepLast (s.sdr.unpersisted - s.sdr.handed) s.sdr.audit = r :: rs) :
    ∃ t, exec .auditClose s = .next t ∧ t.ldg.logPage = s.ldg.logPage ++ [r] ∧ t.sdr.handed = s.sdr.handed + 1 ∧
      t.regs = s.regs := by
  have holdest : (keepLast (s.sdr.unpersisted - s.sdr.handed) s.sdr.audit).take 1 = [r] := by rw [h]; rfl
  exact ⟨_, rfl, congrArg (s.ldg.logPage ++ ·) holdest,
    congrArg (fun l : List (BitVec 256) => s.sdr.handed + l.length) holdest, rfl⟩

/-- Settles O47: clause by clause, each command's effect read through the audit record that closes it. -/
theorem keysAndZeroise : Obligations.KeysAndZeroise :=
  ⟨fun _ _ hr hroom hstate hidle => ⟨zeroise_forgets hr rfl hroom hstate hidle, tenantZero_empties_slot hr rfl hroom hstate⟩,
    zeroiseComplete_empties, zeroiseComplete_waits,
    fun _ _ hr hb => ⟨fun h => exec_tkeyImport_ignored rfl (.inr h), fun hroom hon =>
      ⟨fun hbusy => exec_tkeyImport_ignored rfl (.inl hbusy), fun hidle =>
        have hexec := exec_tkeyImport_takes rfl hr hb hidle hroom hon
        ⟨fun hk => hexec.trans (congrArg Host.Outcome.next (importKey_noHouseKey hk)), fun _ hw =>
          ⟨fun hk => ⟨_, hexec, importKey_unwrapFails hw hk⟩, fun _ hk => ⟨_, hexec, importKey_schedules hw hk⟩⟩⟩⟩⟩,
    floorWrite_moves_up, tamper_zeroises, tamper_while_zeroing, fun _ _ h => congrArg Host.Outcome.next (if_pos h),
    auditClose_hands_oldest⟩

end Sys2Proof.Machine
end

section
/-!
OBLIGATION O40. The Ledger: log pages, image stores and block moves. Stores, retirements and fault reports touch of the Ledger's own
state only its blocks and its crash capsules (`Ldg.withoutBlocks`), so what each command does to the rest shows through them.
-/
namespace Sys2Proof.Machine

/-! What the shared operations leave of the Ledger. -/

/-- The Ledger's own state without its blocks, their map and journal, the place in the log ring and the crash capsules. -/
def Ldg.withoutBlocks (l : Ldg) : Ldg := { l with
  phys := [], map := [], mapSeq := 0, journalFree := 0, journalPages := 0, logPos := 0, crashes := [], crashCount := 0
  crashBusy := false }

/-- Ledgers that agree without their blocks agree on all else that they hold. -/
theorem eq_of_withoutBlocks {α : Type} {l m : Ldg} (p : Ldg → α) (h : l.withoutBlocks = m.withoutBlocks)
    (hp : ∀ x, p (Ldg.withoutBlocks x) = p x := by exact fun _ => rfl) : p l = p m := by
  rw [← hp l, h, hp m]

theorem withoutBlocks_ite {c : Prop} [Decidable c] {a b : State} {l : Ldg} (ha : a.ldg.withoutBlocks = l)
    (hb : b.ldg.withoutBlocks = l) : (if c then a else b).ldg.withoutBlocks = l := by
  split
  · exact ha
  · exact hb

@[simp] theorem ledgerShow_ldg (s : State) : (ledgerShow s).ldg = s.ldg := rfl

@[simp] theorem onPblk_withoutBlocks (s : State) (p : Nat) (f : PBlk → PBlk) :
    (onPblk s p f).ldg.withoutBlocks = s.ldg.withoutBlocks := rfl

/-- A map record moves the journal on and changes nothing else. -/
theorem journalAdd_ldg (s : State) : ∃ seq free pages,
    (journalAdd s).ldg = { s.ldg with mapSeq := seq, journalFree := free, journalPages := pages } := by
  unfold journalAdd
  simp only [State.onLdg_ldg]
  generalize (if s.ldg.journalPages = 64 then s.ldg.journalFree - 1 else s.ldg.journalFree) = free
  by_cases hfree : free < 4
  · exact ⟨_, _, _, if_pos hfree⟩
  · exact ⟨_, _, _, if_neg hfree⟩

@[simp] theorem journalAdd_withoutBlocks (s : State) : (journalAdd s).ldg.withoutBlocks = s.ldg.withoutBlocks := by
  obtain ⟨_, _, _, h⟩ := journalAdd_ldg s
  rw [h]
  rfl

theorem rewriteTo_withoutBlocks (s : State) (lb p : Nat) : (rewriteTo s lb p).ldg.withoutBlocks = s.ldg.withoutBlocks :=
  journalAdd_withoutBlocks (onPblk s p _)

@[simp] theorem storeBlock_withoutBlocks (s : State) (lb : Nat) : (storeBlock s lb).ldg.withoutBlocks = s.ldg.withoutBlocks := by
  unfold storeBlock
  split
  · exact rewriteTo_withoutBlocks (advance s) lb _
  · rfl

theorem crashCapsule_withoutBlocks (s : State) (code : Nat) :
    (crashCapsule s code).ldg.withoutBlocks = s.ldg.withoutBlocks := by
  unfold crashCapsule
  split
  · split
    · dsimp only
      rw [foldl_keeps (·.ldg.withoutBlocks) storeBlock storeBlock_withoutBlocks]
      simp only [State.onLdg_ldg, inc_ldg, Ldg.withoutBlocks]
    · rfl
  · rfl

/-- What a report does before its crash capsule touches registers, the HIU, the Prompt Book and the fault log (the mask 295043),
nothing of the Ledger. -/
theorem reportAs_withoutBlocks (s : State) (injected : Bool) (code inst detail : Nat) :
    (reportAs s injected code inst detail).ldg.withoutBlocks = s.ldg.withoutBlocks := by
  unfold reportAs
  split
  · rfl
  · refine (withoutBlocks_ite (crashCapsule_withoutBlocks _ code) rfl).trans
      (congrArg Ldg.withoutBlocks (Fp.ldg (w := 295043) (s := s) ?_ rfl))
    have hlog (cls : Nat) := logFault_fp1 (fw := 295043) rfl s code cls inst detail (Fp.refl _ s)
    have hcount (cls : Nat) (c : Prop) [Decidable c] (new : Bool) :=
      countFault_fp (fw := 295043) rfl _ code cls new (ite_fp (c := c) (faultNotice_fp rfl _ code cls detail (hlog cls)) (hlog cls))
    exact book_fp rfl _ _ _ _ (ite_fp (set_fp rfl _ _ _ (hcount _ _ _)) (hcount _ _ _))

@[simp] theorem report_withoutBlocks (s : State) (code inst detail : Nat) :
    (report s code inst detail).ldg.withoutBlocks = s.ldg.withoutBlocks := reportAs_withoutBlocks s false code inst detail

@[simp] theorem retire_withoutBlocks (s : State) (p : Nat) : (retire s p).ldg.withoutBlocks = s.ldg.withoutBlocks := by
  unfold retire
  dsimp only
  split <;> split <;> simp

/-! Free blocks and the rewrite of a logical block (R774, R776, R777). -/

theorem AMap.mem_of_get? {V : Type} {m : AMap V} {k : Nat} {v : V} (h : m.get? k = some v) : (k, v) ∈ m := by
  induction m with
  | nil => simp [AMap.get?] at h
  | cons x r ih =>
    obtain ⟨j, w⟩ := x
    unfold AMap.get? at h
    split at h
    · next hj =>
      cases h
      exact hj ▸ List.mem_cons_self
    · exact List.mem_cons_of_mem _ (ih h)

theorem findFree_poolFree {s : State} {p : Nat} : ∀ {n q : Nat}, findFree s n q = some p → poolFree s p = true
  | 0, _, h => by simp [findFree] at h
  | n + 1, q, h => by
    unfold findFree at h
    split at h
    · next hfree =>
      cases h
      exact hfree
    · exact findFree_poolFree h

/-- No logical block is mapped to a free pool block. -/
theorem poolOf_ne_free {s : State} {lb p : Nat} (hfree : poolFree s p = true) (hlb : lb < logicalBlocks) : poolOf s lb ≠ p := by
  intro hp
  simp only [poolFree, Bool.and_eq_true, Bool.not_eq_true', List.any_eq_false, decide_eq_true_eq,
    Bool.and_eq_false_iff, decide_eq_false_iff_not] at hfree
  obtain ⟨⟨_, hmap⟩, hplace⟩ := hfree
  cases hget : s.ldg.map.get? lb with
  | some q =>
    have hq : q = p := by simpa [poolOf, AMap.getD, hget] using hp
    exact hmap _ (AMap.mem_of_get? hget) hq
  | none =>
    have hq : lb + 32 = p := by simpa [poolOf, AMap.getD, hget] using hp
    subst hq
    rw [Nat.add_sub_cancel] at hplace
    exact hplace.elim (fun h => h (by omega)) (fun h => h hp)

theorem journalAdd_blocks (s : State) : (journalAdd s).ldg.phys = s.ldg.phys ∧ (journalAdd s).ldg.map = s.ldg.map := by
  obtain ⟨_, _, _, h⟩ := journalAdd_ldg s
  rw [h]
  exact ⟨rfl, rfl⟩

theorem rewriteTo_map (s : State) (lb p : Nat) : (rewriteTo s lb p).ldg.map = s.ldg.map.setD lb (lb + 32) p :=
  congrArg (·.setD lb (lb + 32) p) (journalAdd_blocks _).2

/-- The pool blocks as the new copy and the erased old one leave them. -/
theorem rewriteTo_phys (s : State) (lb p : Nat) : (rewriteTo s lb p).ldg.phys =
    (onPblk (onPblk s p (PBlk.program lb (s.ldg.mapSeq + 1))) (poolOf s lb) PBlk.erase).ldg.phys :=
  congrArg (fun m : AMap PBlk => m.setD (poolOf s lb) (PBlk.first (poolOf s lb))
    (m.getD (poolOf s lb) (PBlk.first (poolOf s lb))).erase) (journalAdd_blocks _).1

theorem poolOf_rewriteTo_same (s : State) (lb p : Nat) : poolOf (rewriteTo s lb p) lb = p := by
  rw [poolOf, rewriteTo_map, AMap.getD_setD_same]

theorem poolOf_rewriteTo_other (s : State) (lb p j : Nat) (h : j ≠ lb) : poolOf (rewriteTo s lb p) j = poolOf s j := by
  rw [poolOf, rewriteTo_map, AMap.getD_setD_other _ _ _ _ _ _ h, poolOf]

theorem pblk_onPblk_same (s : State) (p : Nat) (f : PBlk → PBlk) : pblk (onPblk s p f) p = f (pblk s p) :=
  AMap.getD_setD_same _ _ _ _

theorem pblk_onPblk_other (s : State) (p q : Nat) (f : PBlk → PBlk) (h : q ≠ p) : pblk (onPblk s p f) q = pblk s q :=
  AMap.getD_setD_other _ _ _ _ _ _ h

theorem pblk_rewriteTo_new (s : State) (lb p : Nat) (h : poolOf s lb ≠ p) :
    pblk (rewriteTo s lb p) p = (pblk s p).program lb (s.ldg.mapSeq + 1) := by
  rw [pblk, rewriteTo_phys]
  exact (pblk_onPblk_other _ _ _ _ h.symm).trans (pblk_onPblk_same s p _)

theorem pblk_rewriteTo_old (s : State) (lb p : Nat) (h : poolOf s lb ≠ p) :
    pblk (rewriteTo s lb p) (poolOf s lb) = (pblk s (poolOf s lb)).erase := by
  rw [pblk, rewriteTo_phys]
  exact (pblk_onPblk_same _ _ _).trans (congrArg PBlk.erase (pblk_onPblk_other s p _ _ h))

theorem ofLeBytes_leBytes (n : Nat) : ∀ v : Nat, ofLeBytes (leBytes n v) = v % 256 ^ n := by
  induction n with
  | zero => intro v; simp [leBytes, ofLeBytes, Nat.mod_one]
  | succ n ih =>
    intro v
    rw [leBytes, ofLeBytes, ih, BitVec.toNat_ofNat, show 256 ^ (n + 1) = 256 * 256 ^ n from Nat.pow_succ', Nat.mod_mul]

theorem spareOk_spare (lb seq : Nat) : spareOk (spare lb seq) = true := by
  have hlen : (leBytes 4 lb ++ leBytes 8 seq).length = 12 := by simp [leBytes_length]
  simp only [spareOk, spare, List.length_append, leBytes_length, List.drop_left' hlen, List.take_left' hlen, ofLeBytes_leBytes]
  simp

theorem program_complete (lb seq : Nat) (b : PBlk) : (b.program lb seq).complete = true := by
  simp [PBlk.complete, PBlk.program, spareOk_spare]

theorem program_logical {lb : Nat} (h : lb < logicalBlocks) (seq : Nat) (b : PBlk) : (b.program lb seq).logical = lb := by
  have hhead : (spare lb seq).take 2 = leBytes 2 lb := rfl
  simp only [logicalBlocks] at h
  rw [PBlk.logical, PBlk.program, hhead, ofLeBytes_leBytes]
  omega

theorem storeBlock_eq_rewriteTo {s : State} {lb p : Nat} (hrw : get s Fld.ldgStatusState ≠ 2)
    (hfind : findFree s 16352 (fresh s) = some p) : storeBlock s lb = rewriteTo (advance s) lb p := by
  rw [storeBlock, if_neg hrw, hfind]

/-- A stored logical block moves alone to a free pool block, as a complete copy, and the old one is erased. -/
theorem storeBlock_moves {s : State} {lb p : Nat} (hlb : lb < logicalBlocks) (hrw : get s Fld.ldgStatusState ≠ 2)
    (hfind : findFree s 16352 (fresh s) = some p) :
    poolFree s p = true ∧ poolOf (storeBlock s lb) lb = p ∧ (∀ j, j ≠ lb → poolOf (storeBlock s lb) j = poolOf s j) ∧
    (pblk (storeBlock s lb) p).complete = true ∧ (pblk (storeBlock s lb) p).logical = lb ∧
    (pblk (storeBlock s lb) (poolOf s lb)).erases = (pblk s (poolOf s lb)).erases + 1 ∧
    (pblk (storeBlock s lb) (poolOf s lb)).complete = false := by
  have hfree := findFree_poolFree hfind
  have hne : poolOf s lb ≠ p := poolOf_ne_free hfree hlb
  have hnew := pblk_rewriteTo_new (advance s) lb p hne
  have hold : pblk (rewriteTo (advance s) lb p) (poolOf s lb) = (pblk s (poolOf s lb)).erase :=
    pblk_rewriteTo_old (advance s) lb p hne
  rw [storeBlock_eq_rewriteTo hrw hfind, hnew, hold]
  exact ⟨hfree, poolOf_rewriteTo_same _ _ _, fun j hj => poolOf_rewriteTo_other (advance s) lb p j hj, program_complete _ _ _,
    program_logical hlb _ _, rfl, rfl⟩

/-! Log pages (R768, R770, R781, R782). -/

theorem nextPage_withoutBlocks (s : State) (ok : Bool) : (nextPage s ok).ldg.withoutBlocks = s.ldg.withoutBlocks := by
  have hplace (u : State) : (u.onLdg fun l => { l with logPos := l.logPos + 1 }).ldg.withoutBlocks = u.ldg.withoutBlocks := rfl
  unfold nextPage
  dsimp only
  rw [hplace]
  refine withoutBlocks_ite ?_ ?_
  · exact withoutBlocks_ite rfl rfl
  · rw [retire_withoutBlocks, storeBlock_withoutBlocks]
    exact withoutBlocks_ite rfl rfl

theorem nextPage_sdr (s : State) (ok : Bool) : (nextPage s ok).sdr = s.sdr := (nextPage_fp rfl s ok (Fp.refl 950275 s)).sdr rfl

theorem audit_adds_one (s : State) (code fn : Nat) (spdm : Bool) (status detail : Nat) :
    (audit s code fn spdm status detail).ldg.log = s.ldg.log ∧
      (audit s code fn spdm status detail).sdr.unpersisted ≤ s.sdr.unpersisted + 1 := by
  unfold audit
  dsimp only
  split
  · split <;> exact ⟨rfl, Nat.le_succ _⟩
  · split
    · split
      · split <;> exact ⟨rfl, Nat.le_succ _⟩
      · exact ⟨rfl, le_refl _⟩
    · exact ⟨rfl, le_refl _⟩

/-- The oldest `n` records no longer wait. -/
def noLongerWaiting (s : State) (n : Nat) : State :=
  s.onSdr fun d => { d with unpersisted := d.unpersisted - n, handed := d.handed - n }

theorem persisted_noLoss {s : State} (n : Nat) (h : s.sdr.lossPend = 0) : persisted s n = noLongerWaiting s n :=
  if_neg fun hloss => hloss.1 h

theorem persisted_counts (s : State) (n : Nat) :
    (persisted s n).ldg.log = s.ldg.log ∧ (persisted s n).sdr.unpersisted ≤ s.sdr.unpersisted - n + 1 := by
  unfold persisted
  dsimp only
  split
  · exact audit_adds_one _ _ _ _ _ _
  · exact ⟨rfl, Nat.le_succ _⟩

section
variable {s : State} {ok : Bool}

/-- A page of the audit stream is programmed. -/
def auditPage (s : State) (ok : Bool) : State :=
  (nextPage s ok).onLdg fun l => { l with
    log := keepLast 262144 (l.log ++ s.ldg.logPage.take 128), logPage := l.logPage.drop (s.ldg.logPage.take 128).length }

/-- The oldest fault records that no page of the ring holds. -/
def faultPageRecords (s : State) : List (BitVec 256) :=
  (s.flt.log.filter fun r => decide (s.ldg.faultNext ≤ bits r 224 32)).take 128

theorem exec_logPageProgram_waits (hready : ledgerReady s = true) (hdark : domLit s 61 = false) :
    exec (.logPageProgram ok) s = .next (demandDom s 61) := by
  change execLogPageProgram ok s = _
  simp [execLogPageProgram, hready, hdark]

theorem exec_logPageProgram_audit (hready : ledgerReady s = true) (hlit : domLit s 61 = true) (hpage : s.ldg.logPage ≠ []) :
    exec (.logPageProgram ok) s = .next (persisted (auditPage s ok) (s.ldg.logPage.take 128).length) := by
  change execLogPageProgram ok s = _
  simp [execLogPageProgram, auditPage, hready, hlit, hpage]

theorem exec_logPageProgram_fault (hready : ledgerReady s = true) (hlit : domLit s 61 = true) (hpage : s.ldg.logPage = [])
    (hfaults : faultPageRecords s ≠ []) : exec (.logPageProgram ok) s = .next ((nextPage s ok).onLdg fun l => { l with
      faultLog := keepLast 8388608 (l.faultLog ++ faultPageRecords s)
      faultNext := ((faultPageRecords s).getLast?.map (bits · 224 32)).getD 0 + 1 }) := by
  change execLogPageProgram ok s = _
  unfold faultPageRecords at hfaults ⊢
  simp [execLogPageProgram, hready, hlit, hpage, hfaults]

theorem auditPage_log : (auditPage s ok).ldg.log = keepLast 262144 (s.ldg.log ++ s.ldg.logPage.take 128) := by
  have hlog : (nextPage s ok).ldg.log = s.ldg.log := eq_of_withoutBlocks Ldg.log (nextPage_withoutBlocks s ok)
  unfold auditPage
  simp only [State.onLdg_ldg, hlog]

theorem auditPage_logPage : (auditPage s ok).ldg.logPage = s.ldg.logPage.drop 128 := by
  have hpage : (nextPage s ok).ldg.logPage = s.ldg.logPage := eq_of_withoutBlocks Ldg.logPage (nextPage_withoutBlocks s ok)
  unfold auditPage
  simp only [State.onLdg_ldg, hpage, List.length_take, List.drop_eq_drop_iff]
  omega

theorem logPageProgram_persists_oldest (hready : ledgerReady s = true) (hlit : domLit s 61 = true) (hpage : s.ldg.logPage ≠ []) :
    ∃ t, exec (.logPageProgram ok) s = .next t ∧
      t.ldg.log = keepLast 262144 (s.ldg.log ++ s.ldg.logPage.take 128) ∧
      t.sdr.unpersisted ≤ s.sdr.unpersisted - (s.ldg.logPage.take 128).length + 1 ∧
      (s.sdr.lossPend = 0 → t.sdr.unpersisted = s.sdr.unpersisted - (s.ldg.logPage.take 128).length ∧
        t.ldg.logPage = s.ldg.logPage.drop 128) := by
  have hsdr : (auditPage s ok).sdr = s.sdr := by rw [auditPage, State.onLdg_sdr, nextPage_sdr]
  obtain ⟨hlog, hcount⟩ := persisted_counts (auditPage s ok) (s.ldg.logPage.take 128).length
  refine ⟨_, exec_logPageProgram_audit hready hlit hpage, hlog.trans auditPage_log, hsdr ▸ hcount, fun hloss => ?_⟩
  rw [persisted_noLoss _ (hsdr ▸ hloss), noLongerWaiting, State.onSdr_sdr, State.onSdr_ldg, hsdr]
  exact ⟨rfl, auditPage_logPage⟩

theorem logPageProgram_holds_faults (hready : ledgerReady s = true) (hlit : domLit s 61 = true) (hpage : s.ldg.logPage = [])
    (hfaults : (s.flt.log.filter fun r => decide (s.ldg.faultNext ≤ bits r 224 32)) ≠ []) :
    ∃ t, exec (.logPageProgram ok) s = .next t ∧ t.ldg.faultLog = keepLast 8388608 (s.ldg.faultLog ++ faultPageRecords s) := by
  have htaken : faultPageRecords s ≠ [] := by simpa [faultPageRecords] using hfaults
  have hlog : (nextPage s ok).ldg.faultLog = s.ldg.faultLog := eq_of_withoutBlocks Ldg.faultLog (nextPage_withoutBlocks s ok)
  exact ⟨_, exec_logPageProgram_fault hready hlit hpage htaken, by simp only [State.onLdg_ldg, hlog]⟩

end

/-! Image stores (R782, R785 to R787, R790). -/

section
variable {u : State}

theorem get_demandLedger (u : State) (f : Fld) (h : f.blk ≠ 0x11) : get (demandDom u 61) f = get u f := by
  have hset (w : State) (g : Fld) (v : Nat) (hg : g.blk = 0x11) : get (set w g v) f = get w f := get_set_blk w f g v (hg ▸ h)
  unfold demandDom startRise
  dsimp only
  split
  · exact hset _ _ _ (by decide)
  · split
    · rw [hset _ _ _ (by decide), hset _ _ _ (by decide)]
      rfl
    · rfl

theorem demandDom_freeCtr (u : State) (d : Nat) : (demandDom u d).freeCtr = u.freeCtr := by
  unfold demandDom
  dsimp only
  split
  · rfl
  · split <;> rfl

theorem demandDom_ldg (u : State) (d : Nat) : (demandDom u d).ldg = u.ldg := (demandDom_fp rfl u d (Fp.refl 4097 u)).ldg rfl

theorem demandDom_sdr (u : State) (d : Nat) : (demandDom u d).sdr = u.sdr := (demandDom_fp rfl u d (Fp.refl 4097 u)).sdr rfl

/-- Demand on the Ledger's domain changes nothing that an image is judged by. -/
theorem imageVerdict_demandLedger (u : State) (img : List Byte) : imageVerdict (demandDom u 61) img = imageVerdict u img := by
  have hself : selfDev (demandDom u 61) = selfDev u := get_demandLedger u Fld.fabSelfDevice (by decide)
  have hsealed : get (demandDom u 61) Fld.sdrStatusSealed = get u Fld.sdrStatusSealed := get_demandLedger u _ (by decide)
  have hseq : get (demandDom u 61) Fld.splActiveSeqV = get u Fld.splActiveSeqV := get_demandLedger u _ (by decide)
  have hkey (i : Nat) : signKey (demandDom u 61) i = signKey u i := by rw [signKey, demandDom_sdr, signKey]
  have hsigned : imageSigned (demandDom u 61) img = imageSigned u img := by unfold imageSigned; simp only [hkey]
  unfold imageVerdict sealedMode isSet fresh
  rw [hself, hsealed, hseq, hsigned, demandDom_spl, demandDom_freeCtr]

/-- The verdicts of R637 are 3 to 6, and fit RESULT. -/
theorem imageVerdict_lt {img : List Byte} {r b : Nat} (h : imageVerdict u img = some (r, b)) : r < 16 := by
  unfold imageVerdict at h
  grind

theorem tryStore_refuses {k r b : Nat} {img : List Byte} (h : imageVerdict u img = some (r, b)) (hr : r ≠ 6) :
    tryStore u k img = storeResult (advance u) r := by
  delta tryStore -- and keep the verdict closed
  generalize imageVerdict u img = verdict at h ⊢
  have hsome : verdict.filter (fun r => r.1 ≠ 6) = some (r, b) := by simp [h, hr]
  rw [hsome]

theorem tryStore_begins {k : Nat} {img : List Byte} (h : ∀ r, imageVerdict u img = some r → r.1 = 6) :
    tryStore u k img = beginStore u k (slotImage u k img) := by
  delta tryStore
  generalize imageVerdict u img = verdict at h ⊢
  have hnone : verdict.filter (fun r => r.1 ≠ 6) = none := Option.filter_eq_none_iff.2 fun r hr => by simp [h r hr]
  rw [hnone]

theorem slotOf_storeBlock (s : State) (lb k : Nat) : slotOf (storeBlock s lb) k = slotOf s k :=
  congrArg (·.getD k ImgSlot.empty) (eq_of_withoutBlocks Ldg.slots (storeBlock_withoutBlocks s lb))

theorem slotOf_putSlot (s : State) {k : Nat} (x : ImgSlot) (h : k < s.ldg.slots.length) : slotOf (putSlot s k x) k = x := by
  simp [slotOf, putSlot, h]

theorem get_storeBlock_result (s : State) (lb : Nat) :
    get (storeBlock s lb) Fld.ldgStoreStatusResult = get s Fld.ldgStoreStatusResult := get_storeBlock s lb _ (by decide)

theorem beginStore_marks {k : Nat} {x : ImgSlot} (h : k < u.ldg.slots.length) :
    get (beginStore u k x) Fld.ldgStoreStatusResult = 1 ∧ (slotOf (beginStore u k x) k).state = 1 ∧
      (beginStore u k x).ldg.storing = some (k, x) := by
  refine ⟨?_, ?_, eq_of_withoutBlocks Ldg.storing (storeBlock_withoutBlocks _ _)⟩
  · rw [beginStore, get_storeBlock_result]
    exact get_set_of_lt u Fld.ldgStoreStatusResult 1 (by decide)
  · rw [beginStore, slotOf_storeBlock]
    exact congrArg ImgSlot.state (slotOf_putSlot (storeResult u 1) _ h)

end

section
variable {s : State} {v : Word} {u : State} (hu : commandWord s 0 Fld.ldgStoreCtlStore.off v = u)
  (hr : reaches s 0 Fld.ldgStoreCtlStore.off = true) (hb : bit v 0 = true) (hidle : get u Fld.ldgStoreStatusResult ≠ 1)
include hu hr hb hidle

theorem exec_ledgerStore_notReady (h : ledgerReady u = false) : exec (.ledgerStore v) s = .next (storeResult u 7) := by
  subst hu
  change execLedgerStore v s = _
  simp [execLedgerStore, hr, hb, hidle, h]

theorem exec_ledgerStore_booted (h : ledgerReady u = true) (hslot : u.ldg.bootSlot = some (get u Fld.ldgStoreCtlSlot)) :
    exec (.ledgerStore v) s = .next (storeResult u 6) := by
  subst hu
  change execLedgerStore v s = _
  simp [execLedgerStore, hr, hb, hidle, h, hslot]

theorem exec_ledgerStore_tries (h : ledgerReady u = true) (hslot : u.ldg.bootSlot ≠ some (get u Fld.ldgStoreCtlSlot)) :
    exec (.ledgerStore v) s = .next (tryStore (demandDom u 61) (get u Fld.ldgStoreCtlSlot) (stagedImage u (imageAddr u))) := by
  subst hu
  change execLedgerStore v s = _
  simp [execLedgerStore, hr, hb, hidle, h, hslot]

theorem ledgerStore_refuses {r b : Nat} (h : ledgerReady u = true) (hslot : u.ldg.bootSlot ≠ some (get u Fld.ldgStoreCtlSlot))
    (hbad : imageVerdict u (stagedImage u (imageAddr u)) = some (r, b)) (hr6 : r ≠ 6) :
    ∃ t, exec (.ledgerStore v) s = .next t ∧ get t Fld.ldgStoreStatusResult = r ∧ t.ldg = u.ldg := by
  have htry := exec_ledgerStore_tries hu hr hb hidle h hslot
  rw [tryStore_refuses ((imageVerdict_demandLedger u _).trans hbad) hr6] at htry
  exact ⟨_, htry, get_set_of_lt _ Fld.ldgStoreStatusResult r (imageVerdict_lt hbad), demandDom_ldg u 61⟩

theorem ledgerStore_begins (h : ledgerReady u = true) (hslot : u.ldg.bootSlot ≠ some (get u Fld.ldgStoreCtlSlot))
    (hgood : ∀ r, imageVerdict u (stagedImage u (imageAddr u)) = some r → r.1 = 6)
    (hk : get u Fld.ldgStoreCtlSlot < u.ldg.slots.length) :
    ∃ t, exec (.ledgerStore v) s = .next t ∧ get t Fld.ldgStoreStatusResult = 1 ∧
      (slotOf t (get u Fld.ldgStoreCtlSlot)).state = 1 ∧ t.ldg.storing =
        some (get u Fld.ldgStoreCtlSlot, slotImage u (get u Fld.ldgStoreCtlSlot) (stagedImage u (imageAddr u))) := by
  have htry := exec_ledgerStore_tries hu hr hb hidle h hslot
  have hslots (k : Nat) : slotOf (demandDom u 61) k = slotOf u k := congrArg (·.slots.getD k ImgSlot.empty) (demandDom_ldg u 61)
  rw [tryStore_begins (by rw [imageVerdict_demandLedger]; exact hgood), slotImage, hslots] at htry
  exact ⟨_, htry, beginStore_marks (by rw [demandDom_ldg]; exact hk)⟩

end

section
variable {s : State} {k : Nat} {x : ImgSlot}

/-- The image's blocks and then the header of its slot are written. -/
def slotWritten (s : State) (k : Nat) (x : ImgSlot) : State :=
  let blocks := (List.range (ceilDiv x.len 262144)).foldl (fun s i => storeBlock s (257 * k + 1 + i))
    (s.onLdg fun l => { l with storing := none })
  storeResult (storeBlock (putSlot blocks k x) (257 * k)) 2

/-- PREFER names slot `k`. -/
def prefers (s : State) (k : Nat) : State :=
  storeBlock ((set s Fld.ldgStatusPrefer k).onLdg fun l => { l with prefer := k }) stateBlock

theorem exec_ledgerStoreDone_waits {ok : Bool} (hs : s.ldg.storing = some (k, x)) (hdark : domLit s 61 = false) :
    exec (.ledgerStoreDone ok) s = .next (demandDom s 61) := by
  change execLedgerStoreDone ok s = _
  simp [execLedgerStoreDone, hs, hdark]

theorem exec_ledgerStoreDone_written (hs : s.ldg.storing = some (k, x)) (hready : ledgerReady s = true)
    (hlit : domLit s 61 = true) : exec (.ledgerStoreDone true) s = .next (
      if isSet (slotWritten s k x) Fld.ldgStoreCtlPrefer then prefers (slotWritten s k x) k else slotWritten s k x) := by
  have hready' : ledgerReady (s.onLdg fun l => { l with storing := none }) = true := hready
  change execLedgerStoreDone true s = _
  simp only [execLedgerStoreDone, hs, hlit, if_true, Bool.not_true, Bool.false_eq_true, if_false, hready']
  rfl

/-- Writing the slot changes of the Ledger, beside its blocks, the slot and the store under way. -/
theorem slotWritten_withoutBlocks (s : State) (k : Nat) (x : ImgSlot) : (slotWritten s k x).ldg.withoutBlocks =
    Ldg.withoutBlocks { s.ldg with storing := none, slots := s.ldg.slots.set k x } := by
  have hput (u : State) : (putSlot u k x).ldg.withoutBlocks =
      { u.ldg.withoutBlocks with slots := u.ldg.withoutBlocks.slots.set k x } := rfl
  unfold slotWritten storeResult
  dsimp only
  rw [set_ldg, storeBlock_withoutBlocks, hput, foldl_keeps (·.ldg.withoutBlocks) _ fun _ _ => storeBlock_withoutBlocks _ _]
  rfl

theorem get_slotWritten (s : State) (k : Nat) (x : ImgSlot) (f : Fld) (h : f.key ∉ reportKeys)
    (hf : f.key ≠ Fld.ldgStoreStatusResult.key) : get (slotWritten s k x) f = get s f := by
  unfold slotWritten storeResult putSlot
  dsimp only
  rw [get_set_other _ _ _ _ hf, get_storeBlock _ _ _ h, get_onLdg, get_foldl f _ fun _ _ => get_storeBlock _ _ _ h, get_onLdg]

theorem slotWritten_result (s : State) (k : Nat) (x : ImgSlot) : get (slotWritten s k x) Fld.ldgStoreStatusResult = 2 :=
  get_set_of_lt _ Fld.ldgStoreStatusResult 2 (by decide)

theorem slotOf_of_slots {t : State} (h : t.ldg.slots = s.ldg.slots.set k x) (hk : k < s.ldg.slots.length) : slotOf t k = x := by
  simp [slotOf, h, hk]

theorem prefers_withoutBlocks (s : State) (k : Nat) : (prefers s k).ldg.withoutBlocks = { s.ldg.withoutBlocks with prefer := k } :=
  storeBlock_withoutBlocks _ _

theorem prefers_result (s : State) (k : Nat) : get (prefers s k) Fld.ldgStoreStatusResult = get s Fld.ldgStoreStatusResult := by
  rw [prefers, get_storeBlock_result, get_onLdg, get_set_other _ _ _ _ (by decide)]

/-- A store that ends well leaves its slot VALID, and a preferring one names it. -/
theorem ledgerStoreDone_ends (hs : s.ldg.storing = some (k, x)) (hk : k < s.ldg.slots.length) (hready : ledgerReady s = true)
    (hlit : domLit s 61 = true) : ∃ t, exec (.ledgerStoreDone true) s = .next t ∧ slotOf t k = x ∧ t.ldg.storing = none ∧
      get t Fld.ldgStoreStatusResult = 2 ∧ (isSet s Fld.ldgStoreCtlPrefer = true → t.ldg.prefer = k) ∧
      (isSet s Fld.ldgStoreCtlPrefer = false → t.ldg.prefer = s.ldg.prefer) := by
  have hdone := exec_ledgerStoreDone_written hs hready hlit
  have hwritten := slotWritten_withoutBlocks s k x
  have hasked : isSet (slotWritten s k x) Fld.ldgStoreCtlPrefer = isSet s Fld.ldgStoreCtlPrefer :=
    congrArg (fun n => decide (n ≠ 0)) (get_slotWritten s k x _ (by decide) (by decide))
  rw [hasked] at hdone
  cases hprefer : isSet s Fld.ldgStoreCtlPrefer with
  | false =>
    rw [hprefer, if_neg Bool.false_ne_true] at hdone
    exact ⟨_, hdone, slotOf_of_slots (eq_of_withoutBlocks Ldg.slots hwritten) hk, eq_of_withoutBlocks Ldg.storing hwritten,
      slotWritten_result s k x, nofun, fun _ => (eq_of_withoutBlocks Ldg.prefer hwritten).trans rfl⟩
  | true =>
    rw [hprefer, if_pos rfl] at hdone
    have hprefers := prefers_withoutBlocks (slotWritten s k x) k
    rw [hwritten] at hprefers
    change _ = Ldg.withoutBlocks { s.ldg with storing := none, slots := s.ldg.slots.set k x, prefer := k } at hprefers
    exact ⟨_, hdone, slotOf_of_slots (eq_of_withoutBlocks Ldg.slots hprefers) hk, eq_of_withoutBlocks Ldg.storing hprefers,
      (prefers_result _ _).trans (slotWritten_result s k x), fun _ => eq_of_withoutBlocks Ldg.prefer hprefers, nofun⟩

end

/-! Moves (R775, R776, R780, R782). -/

section
variable {s : State} {p e lb : Nat} {ok : Bool}

/-- A move of wear levelling is under way. -/
def moveTaken (s : State) : State := (advance s).onLdg fun l => { l with lastMove := some s.st }


theorem exec_wearLevelMove_early {t : Nat} (h : s.ldg.lastMove = some t) (hearly : s.st < t + 100000000) :
    exec (.wearLevelMove ok) s = .next s := by
  have hany : s.ldg.lastMove.any (fun t => decide (s.st < t + 100000000)) = true := by
    rw [h, Option.any_some, decide_eq_true hearly]
  exact congrArg Host.Outcome.next (if_pos (by rw [hany, Bool.or_true]))

theorem exists_coldBlock (h : coldBlocks s e ≠ []) :
    ∃ lb ∈ coldBlocks s e, (coldBlocks s e)[fresh s % max 1 (coldBlocks s e).length]? = some lb := by
  have hlen : fresh s % max 1 (coldBlocks s e).length < (coldBlocks s e).length := by
    have := List.length_pos_iff.2 h
    rw [Nat.max_eq_right this]
    exact Nat.mod_lt _ this
  exact ⟨_, List.getElem_mem hlen, List.getElem?_eq_getElem hlen⟩

section
variable (hready : ledgerReady s = true) (hdue : ∀ t, s.ldg.lastMove = some t → t + 100000000 ≤ s.st)
include hready hdue

theorem wearLevelMove_due :
    (!ledgerReady s || s.ldg.lastMove.any (fun t => decide (s.st < t + 100000000))) = false := by
  rw [hready, Bool.not_true, Bool.false_or]
  cases h : s.ldg.lastMove with
  | none => rfl
  | some t => rw [Option.any_some, decide_eq_false (Nat.not_lt.2 (hdue t h))]

theorem exec_wearLevelMove_waits (hdark : domLit s 61 = false) : exec (.wearLevelMove ok) s = .next (demandDom s 61) := by
  change execWearLevelMove ok s = _
  unfold execWearLevelMove
  rw [wearLevelMove_due hready hdue, hdark]
  rfl

theorem exec_wearLevelMove_moves (hlit : domLit s 61 = true) (hworn : mostWorn s = some (p, e))
    (hcold : (coldBlocks s e)[fresh s % max 1 (coldBlocks s e).length]? = some lb) : exec (.wearLevelMove ok) s =
      .next (if ok then rewriteTo (moveTaken s) lb p else storeBlock (retire (moveTaken s) p) lb) := by
  change execWearLevelMove ok s = _
  unfold execWearLevelMove
  rw [wearLevelMove_due hready hdue, hlit, hworn]
  dsimp only
  rw [hcold]
  rfl

/-- One cold block goes to the most-worn free block, or to another when that one fails. -/
theorem wearLevelMove_moves (hlit : domLit s 61 = true) (hworn : mostWorn s = some (p, e)) (hcold : coldBlocks s e ≠ []) :
    ∃ lb ∈ coldBlocks s e,
      (∃ t, exec (.wearLevelMove true) s = .next t ∧ poolOf t lb = p ∧ (∀ j, j ≠ lb → poolOf t j = poolOf s j) ∧
        t.ldg.lastMove = some s.st) ∧
      exec (.wearLevelMove false) s = .next (storeBlock (retire (moveTaken s) p) lb) := by
  obtain ⟨lb, hmem, hlb⟩ := exists_coldBlock hcold
  exact ⟨lb, hmem, ⟨_, exec_wearLevelMove_moves hready hdue hlit hworn hlb, poolOf_rewriteTo_same _ lb p,
    fun j hj => poolOf_rewriteTo_other (moveTaken s) lb p j hj,
    eq_of_withoutBlocks Ldg.lastMove (rewriteTo_withoutBlocks (moveTaken s) lb p)⟩,
    exec_wearLevelMove_moves hready hdue hlit hworn hlb⟩

end

theorem exec_eccScheduledMove (hready : ledgerReady s = true) (hlb : lb < logicalBlocks) : exec (.eccScheduledMove lb ok) s =
    .next (if domLit s 61 then storeBlock (if ok then s else failFree s) lb else demandDom s 61) := by
  change execEccScheduledMove lb ok s = _
  unfold execEccScheduledMove
  rw [hready, decide_eq_true hlb]
  cases domLit s 61 <;> rfl

end

/-- Settles O40: each command's effect read through what stores and retirements leave of the Ledger, and a rewrite by the two
blocks it touches. -/
theorem ledgerCompletes : Obligations.LedgerCompletes :=
  ⟨fun _ _ => exec_logPageProgram_waits, fun _ _ => logPageProgram_persists_oldest, fun _ _ => logPageProgram_holds_faults,
    fun _ _ hr hb hidle => ⟨exec_ledgerStore_notReady rfl hr hb hidle, exec_ledgerStore_booted rfl hr hb hidle,
      fun _ _ => ledgerStore_refuses rfl hr hb hidle, ledgerStore_begins rfl hr hb hidle⟩,
    fun _ _ _ hs hk => ⟨fun _ => exec_ledgerStoreDone_waits hs, ledgerStoreDone_ends hs hk⟩,
    fun _ _ _ hready hdue hworn hcold =>
      ⟨fun _ => exec_wearLevelMove_waits hready hdue, fun hlit => wearLevelMove_moves hready hdue hlit hworn hcold⟩,
    fun _ _ _ => exec_wearLevelMove_early,
    fun _ _ _ hready hlb => ⟨fun hlit => (exec_eccScheduledMove hready hlb).trans (by rw [hlit]; rfl),
      fun hdark => (exec_eccScheduledMove hready hlb).trans (by rw [hdark]; rfl)⟩,
    fun _ _ _ => storeBlock_moves⟩

end Sys2Proof.Machine
end

section
/-!
OBLIGATION O38. Power-up, supply loss and warm resets. Every reset starts from `cleared`, so what it keeps is said once about
that; the commands then set the board's levels and the registers that tell the boot's kind.
-/
namespace Sys2Proof.Machine

/-! What a reset keeps of the Stage Door and the Ledger, and what it puts back to its reset value. -/

@[simp] theorem cleared_ldg (s : State) (warm : Bool) : (cleared s warm).ldg = s.ldg := rfl
@[simp] theorem cleared_stm (s : State) (warm : Bool) : (cleared s warm).stm = State.reset.stm := rfl
@[simp] theorem cleared_mdw (s : State) (warm : Bool) : (cleared s warm).mdw = State.reset.mdw := rfl
@[simp] theorem cleared_hiu (s : State) (warm : Bool) : (cleared s warm).hiu = State.reset.hiu := rfl

/-- The fuses outlive every reset. -/
theorem cleared_fuses (s : State) (warm : Bool) :
    (cleared s warm).sdr.floor = s.sdr.floor ∧ (cleared s warm).sdr.revoked = s.sdr.revoked := ⟨rfl, rfl⟩

/-- Only a warm reset keeps the keys (R763). -/
theorem cleared_cold_hk (s : State) : (cleared s false).sdr.hk = none := rfl

theorem cleared_warm_keys (s : State) :
    (cleared s true).sdr.hk = s.sdr.hk ∧ (cleared s true).sdr.tkeys = s.sdr.tkeys := ⟨rfl, rfl⟩

/-! Power. -/

/-- The state in the RESET phase after a cold power-up. -/
def coldReset (strap : Bool) (sled : BitVec 3) (hbm : Bool) (s : State) : State :=
  set ((cleared s false).onBrd fun b => { b with powered := true, sealStrap := strap, sled := sled.toNat, hbmOk := hbm })
    Fld.sdrStatusSealed (b2n strap)

section
variable (strap : Bool) (sled : BitVec 3) (hbm : Bool) (s : State)

/-- The straps are sampled, and the pins that the board drives stand as they stood. -/
theorem coldReset_levels : (coldReset strap sled hbm s).brd.powered = true ∧ (coldReset strap sled hbm s).brd.sealStrap = strap ∧
    (coldReset strap sled hbm s).brd.sled = sled.toNat ∧ (coldReset strap sled hbm s).brd.warmLow = s.brd.warmLow :=
  ⟨rfl, rfl, rfl, rfl⟩

/-- In the right order nothing is left to choose. -/
theorem exec_coldPowerUp_ordered : exec (.coldPowerUp strap sled true hbm) s = .next (leaveReset (coldReset strap sled hbm s)) :=
  rfl

theorem coldPowerUp_completes : ∃ u, u.brd.powered = true ∧ u.brd.sealStrap = strap ∧ u.brd.sled = sled.toNat ∧ u.ldg = s.ldg ∧
    u.sdr.floor = s.sdr.floor ∧ u.sdr.revoked = s.sdr.revoked ∧ u.sdr.hk = none ∧ u.stm = State.reset.stm ∧
    (s.brd.warmLow = true → exec (.coldPowerUp strap sled true hbm) s = .next u) ∧
    (s.brd.warmLow = false → exec (.coldPowerUp strap sled true hbm) s = .next (beginSelftest u)) := by
  obtain ⟨hpowered, hstrap, hsled, hlevel⟩ := coldReset_levels strap sled hbm s
  obtain ⟨hfloor, hrevoked⟩ := cleared_fuses s false
  refine ⟨coldReset strap sled hbm s, hpowered, hstrap, hsled, cleared_ldg s false, hfloor, hrevoked, cleared_cold_hk s,
    cleared_stm s false, fun hlow => ?held, fun hhigh => ?goesOn⟩
  case held => rw [exec_coldPowerUp_ordered, leaveReset, hlevel, if_pos hlow]
  case goesOn => rw [exec_coldPowerUp_ordered, leaveReset, hlevel, if_neg (by simp [hhigh])]

theorem supplyLoss_completes : ∃ t, exec .supplyLoss s = .next t ∧ t.brd.powered = false ∧ t.ldg = s.ldg ∧
    t.sdr.floor = s.sdr.floor ∧ t.sdr.revoked = s.sdr.revoked ∧ t.sdr.hk = none ∧ t.stm = State.reset.stm ∧
    t.mdw = State.reset.mdw := by
  obtain ⟨hfloor, hrevoked⟩ := cleared_fuses s false
  exact ⟨(cleared s false).onBrd fun b => { b with powered := false, perst := true }, rfl, rfl, cleared_ldg s false, hfloor,
    hrevoked, cleared_cold_hk s, cleared_stm s false, cleared_mdw s false⟩

end

/-! Warm resets. -/

/-- A warm reset outside DEEP whose device wrote no EXIT waits for the records alone (R797). -/
theorem warmReset_flushes {s : State} (hawake : domState s 63 ≠ 4) (hexit : s.fab.exitWritten = false) :
    warmReset s = s.onBrd fun b => { b with flushing := true } := by
  rw [warmReset, if_neg hawake, hexit, Bool.false_and, if_neg Bool.false_ne_true]

section
variable {n : Nat} {s : State}

/-- Without power WARM_RST_N counts as a level. -/
theorem exec_warmRst_unpowered (hpower : s.brd.powered = false) :
    exec (.warmRst n) s = .next (s.onBrd fun b => { b with warmLow := true }) := by
  change execWarmRst n s = _
  rw [execWarmRst, hpower, Bool.not_false, Bool.true_or, if_pos rfl]

section
variable (hpower : s.brd.powered = true) (hphase : bootPhase s ≠ 0)
include hpower hphase

/-- After the RESET phase it counts as a pulse. -/
theorem warmRst_pulse : (!s.brd.powered || decide (bootPhase s = 0 ∧ domState s 63 ≠ 4)) = false := by
  simp [hpower, hphase]

theorem exec_warmRst_recognised (hn : 1000 ≤ n) : exec (.warmRst n) s = .next (warmReset s) := by
  change execWarmRst n s = _
  rw [execWarmRst, warmRst_pulse hpower hphase, if_neg Bool.false_ne_true, if_neg (by omega), if_pos hn]

theorem exec_warmRst_ignored (hn : n < 100) : exec (.warmRst n) s = .next s := by
  change execWarmRst n s = _
  rw [execWarmRst, warmRst_pulse hpower hphase, if_neg Bool.false_ne_true, if_pos hn]

end

/-- The state in which a warm reset hands over to boot. -/
def warmCleared (s : State) : State :=
  set (set (cleared s true) Fld.hiuBootWarm 1) Fld.sdrStatusSealed (get s Fld.sdrStatusSealed)

theorem warmCleared_warm (s : State) : get (warmCleared s) Fld.hiuBootWarm = 1 := by
  rw [warmCleared, get_set_other _ _ _ _ (by decide), get_set_of_lt _ Fld.hiuBootWarm 1 (by decide)]

theorem warmCleared_sealed (s : State) : get (warmCleared s) Fld.sdrStatusSealed = get s Fld.sdrStatusSealed % 2 :=
  get_set_same _ _ _

theorem exec_warmResetFlushDone (h : s.brd.flushing = true) :
    exec .warmResetFlushDone s = .next (beginSelftest (warmCleared s)) := congrArg Host.Outcome.next (if_pos h)

theorem warmResetFlushDone_completes (h : s.brd.flushing = true) : ∃ u, exec .warmResetFlushDone s = .next (beginSelftest u) ∧
    get u Fld.hiuBootWarm = 1 ∧ get u Fld.sdrStatusSealed = get s Fld.sdrStatusSealed % 2 ∧ u.sdr.hk = s.sdr.hk ∧
    u.sdr.tkeys = s.sdr.tkeys ∧ u.ldg = s.ldg ∧ u.stm = State.reset.stm ∧ u.hiu = State.reset.hiu := by
  obtain ⟨hhouse, htenants⟩ := cleared_warm_keys s
  exact ⟨warmCleared s, exec_warmResetFlushDone h, warmCleared_warm s, warmCleared_sealed s, hhouse, htenants, cleared_ldg s true,
    cleared_stm s true, cleared_hiu s true⟩

theorem exec_warmRstRelease_goesOn (hlow : s.brd.warmLow = true) (hpower : s.brd.powered = true) (hphase : bootPhase s = 0) :
    exec .warmRstRelease s = .next (beginSelftest (s.onBrd fun b => { b with warmLow := false })) :=
  congrArg Host.Outcome.next (if_pos (by simp [hlow, hpower, hphase]))

end

/-- Settles O38: what each reset keeps is what `cleared` keeps, and the levels of the board decide whether boot goes on. -/
theorem resetsComplete : Obligations.ResetsComplete :=
  ⟨coldPowerUp_completes, supplyLoss_completes,
    fun _ _ hpower hphase hawake hexit => ⟨fun hn => (exec_warmRst_recognised hpower hphase hn).trans
        (congrArg Host.Outcome.next (warmReset_flushes hawake hexit)), exec_warmRst_ignored hpower hphase⟩,
    fun _ _ => exec_warmRst_unpowered, fun _ => warmResetFlushDone_completes, fun _ => exec_warmRstRelease_goesOn⟩

end Sys2Proof.Machine
end

section
/-!
OBLIGATION O39. The self-tests, the boot choice and the weight load. The digest's twelve registers have keys of their own, apart from
those of the load's state and of the buddy's copy, so each reads back what the load wrote there.
-/
namespace Sys2Proof.Machine

/-! The self-tests. -/

theorem audit_brd (s : State) (code fn : Nat) (spdm : Bool) (status detail : Nat) :
    (audit s code fn spdm status detail).brd = s.brd := (audit_fp rfl s code fn spdm status detail (Fp.refl 196609 s)).brd rfl

theorem exec_startupTestsDone (raw : BitVec 4096) (s : State) : exec (.startupTestsDone raw) s = .next
    (if bootPhase (startupTests raw s) = 1 then bootNext (windBootDone (startupTests raw s)) else startupTests raw s) := rfl

section
variable {s : State}

/-- The Stage Door is READY, its self-test passed and audited. -/
def sdrPassed (s : State) : State :=
  (audit (set s Fld.sdrStatusState 1) 2 0 false 0 (get s Fld.sdrStatusSealed)).onBrd fun b => { b with sdrDone := true }

theorem sdrPassed_tests (s : State) : (sdrPassed s).brd.sdrDone = true ∧ (sdrPassed s).brd.windDone = s.brd.windDone :=
  ⟨rfl, by rw [sdrPassed, State.onBrd_brd, audit_brd, set_brd]⟩

/-- A self-test of boot that passes lets boot go on. -/
theorem exec_selftestDone_passes (hstate : sdrState s = 0) (hphase : bootPhase s ≠ 0) :
    exec (.selftestDone 0#8) s = .next (bootNext (sdrPassed s)) :=
  congrArg Host.Outcome.next ((if_pos ⟨hstate, hphase⟩).trans (if_pos rfl))

theorem selftestDone_passes (hstate : sdrState s = 0) (hphase : bootPhase s ≠ 0) :
    ∃ u, exec (.selftestDone 0#8) s = .next (bootNext u) ∧ u.brd.sdrDone = true ∧ u.brd.windDone = s.brd.windDone :=
  ⟨sdrPassed s, exec_selftestDone_passes hstate hphase, sdrPassed_tests s⟩

/-- One that fails, at boot or when READY, is an ERROR. -/
theorem exec_selftestDone_fails {f : BitVec 8} (hf : f ≠ 0#8) (h : sdrState s = 0 ∧ bootPhase s ≠ 0 ∨ sdrState s = 1) :
    exec (.selftestDone f) s = .next (sdrError s f.toNat) := by
  have hfails : f.toNat ≠ 0 := fun h => hf (BitVec.eq_of_toNat_eq h)
  change execSelftestDone f s = _
  rw [execSelftestDone]
  rcases h with hboot | hready
  · rw [if_pos hboot, if_neg hfails]
  · rw [if_neg (by simp [hready]), if_pos ⟨hready, hfails⟩]

/-! The boot choice (R787). -/

/-- The slot chosen qualifies, and it is the preferred one unless that does not. -/
theorem bootChoice_prefers {k : Nat} {p : Plot} (h : bootChoice s = some (k, p)) : slotSet s k = some p ∧
    (k = s.ldg.prefer ∨ (k = 1 - s.ldg.prefer ∧ slotSet s s.ldg.prefer = none)) := by
  unfold bootChoice at h
  cases hpref : slotSet s s.ldg.prefer with
  | some q =>
    simp only [hpref, Option.some.injEq, Prod.mk.injEq] at h
    obtain ⟨rfl, rfl⟩ := h
    exact ⟨hpref, .inl rfl⟩
  | none =>
    simp only [hpref, Option.map_eq_some_iff, Prod.mk.injEq] at h
    obtain ⟨_, hother, rfl, rfl⟩ := h
    exact ⟨hother, .inr ⟨rfl, rfl⟩⟩

theorem slotSet_qualifies {k : Nat} {p : Plot} (h : slotSet s k = some p) : (slotOf s k).state = 2 ∧
    Config.sha384 (slotOf s k).image = (slotOf s k).digest ∧ imageSigned s (slotOf s k).image = true ∧
    s.sdr.floor ≤ fieldAt (slotOf s k).image 0x14 4 := by
  unfold slotSet at h
  dsimp only at h
  split at h
  case isTrue hslot =>
    obtain ⟨hvalid, hdigest, _, _, hsigned, hfloor⟩ := hslot
    exact ⟨hvalid, hdigest, hsigned, hfloor⟩
  case isFalse => nomatch h

end

/-! The weight digest. -/

/-- In a row of fields with keys of their own each reads back what was written to it. -/
theorem get_foldl_set_range (fld : Nat → Fld) (val : Nat → Nat) (hkey : ∀ i j, (fld i).key = (fld j).key → i = j) {i n : Nat}
    (hi : i < n) (s : State) :
    get ((List.range n).foldl (fun s j => set s (fld j) (val j)) s) (fld i) = val i % 2 ^ (fld i).width := by
  induction n with
  | zero => exact absurd hi (Nat.not_lt_zero i)
  | succ n ih =>
    rw [List.range_succ, List.foldl_concat]
    by_cases hlast : i = n
    · rw [hlast, get_set_same]
    · rw [get_set_other _ _ _ _ fun h => hlast (hkey i n h), ih (by omega)]

theorem plyWdigestV_key_inj (i j : Nat) (h : (Fld.plyWdigestV i).key = (Fld.plyWdigestV j).key) : i = j := by
  simp only [Fld.key, Fld.plyWdigestV] at h
  omega

/-- The digest's registers lie from 0x408020 on. -/
theorem plyWdigestV_key_ne {f : Fld} (h : f.key < 0x408020 * 32 ∨ 0x408050 * 32 ≤ f.key) {i : Nat} (hi : i < 12) :
    f.key ≠ (Fld.plyWdigestV i).key := by
  have hkey : (Fld.plyWdigestV i).key = (0x408020 + 0x4 * i) * 32 + 0 := rfl
  omega

theorem get_putDigest (s : State) (d : Nat) {i : Nat} (hi : i < 12) :
    get (putDigest s d) (Fld.plyWdigestV i) = d / 2 ^ (32 * i) % 2 ^ 32 :=
  get_foldl_set_range Fld.plyWdigestV (fun i => d / 2 ^ (32 * i)) plyWdigestV_key_inj hi s

theorem get_setWload_same (s : State) {st : Nat} (h : st < 4) : get (setWload s st) Fld.plyWloadStatusState = st :=
  get_set_of_lt s Fld.plyWloadStatusState st h

theorem get_setWload_digest (s : State) (st : Nat) {i : Nat} (hi : i < 12) :
    get (setWload s st) (Fld.plyWdigestV i) = get s (Fld.plyWdigestV i) :=
  get_set_other _ _ _ _ (plyWdigestV_key_ne (f := Fld.plyWloadStatusState) (by decide) hi).symm

/-! Weight loads (R812, R813). -/

section
variable {s u : State} {v : Word}

section
variable (hu : commandWord s 0 Fld.plyWloadCtlBegin.off v = u) (hr : reaches s 0 Fld.plyWloadCtlBegin.off = true)
  (hb : bit v 0 = true)
include hu hr hb

theorem exec_wloadBegin_refused (hrun : isSet u Fld.stmCtlEn = true) :
    exec (.wloadBegin v) s = .next (set u Fld.plyWloadStatusRefused 1) := by
  subst hu
  change execWloadBegin v s = _
  simp [execWloadBegin, hr, hb, hrun]

theorem exec_wloadBegin_loads (hstop : isSet u Fld.stmCtlEn = false) :
    exec (.wloadBegin v) s = .next (set (setWload (putDigest u 0) 1) Fld.undBuddyWcopyValid 0) := by
  subst hu
  change execWloadBegin v s = _
  simp [execWloadBegin, hr, hb, hstop]

/-- A load that begins clears the digest and gives up the buddy's copy. -/
theorem wloadBegin_loads (hstop : isSet u Fld.stmCtlEn = false) : ∃ t, exec (.wloadBegin v) s = .next t ∧
    get t Fld.plyWloadStatusState = 1 ∧ get t Fld.undBuddyWcopyValid = 0 ∧ ∀ i < 12, get t (Fld.plyWdigestV i) = 0 := by
  refine ⟨_, exec_wloadBegin_loads hu hr hb hstop, ?loading, get_set_of_lt _ Fld.undBuddyWcopyValid 0 (by decide),
    fun i hi => ?digest⟩
  case loading => rw [get_set_other _ _ _ _ (by decide), get_setWload_same _ (by decide)]
  case digest =>
    rw [get_set_other _ _ _ _ (plyWdigestV_key_ne (f := Fld.undBuddyWcopyValid) (by decide) hi).symm, get_setWload_digest _ _ hi,
      get_putDigest _ _ hi, Nat.zero_div, Nat.zero_mod]

end

theorem wloadDone_hashes (hr : reaches s 0 Fld.plyWloadCtlDone.off = true) (hdone : bit v 1 = true) (hbegin : bit v 0 = false)
    (hload : get (commandWord s 0 Fld.plyWloadCtlDone.off v) Fld.plyWloadStatusState = 1) :
    ∃ t, exec (.wloadDone v) s = .next t ∧ get t Fld.plyWloadStatusState = 2 :=
  ⟨_, congrArg Host.Outcome.next (if_pos (by simp [hr, hdone, hbegin, hload])), get_setWload_same _ (by decide)⟩

theorem weightHashDone_validates (h : get s Fld.plyWloadStatusState = 2) : ∃ t, exec .weightHashDone s = .next t ∧
    get t Fld.plyWloadStatusState = 3 ∧
    ∀ i < 12, get t (Fld.plyWdigestV i) = Config.sha384 (weightBytes s) / 2 ^ (32 * i) % 2 ^ 32 :=
  ⟨_, congrArg Host.Outcome.next (if_pos h), get_setWload_same _ (by decide),
    fun _ hi => (get_setWload_digest _ _ hi).trans (get_putDigest _ _ hi)⟩

end

/-- Settles O39: each command's guard decides, and the weight load's state and digest are read back field by field. -/
theorem bootCompletes : Obligations.BootCompletes :=
  ⟨fun raw s => ⟨fun h => (exec_startupTestsDone raw s).trans (congrArg Host.Outcome.next (if_pos h)),
      fun h => (exec_startupTestsDone raw s).trans (congrArg Host.Outcome.next (if_neg h))⟩,
    fun _ => selftestDone_passes, fun _ _ => exec_selftestDone_fails, fun _ _ _ => bootChoice_prefers,
    fun _ _ _ => slotSet_qualifies,
    fun _ _ hr hb => ⟨exec_wloadBegin_refused rfl hr hb, wloadBegin_loads rfl hr hb⟩,
    fun _ _ => wloadDone_hashes, fun _ => weightHashDone_validates⟩

end Sys2Proof.Machine
end

section
/-!
SUPPORT. Register words that reach no register: a partial write, an offset with no register, a register that takes no write now.
-/
namespace Sys2Proof.Machine

variable {fn : Fin 128} {off : Nat} {be : BitVec 4} (v : Word) {s : State}

/-- An offset with no register has no field to contribute to the word read (R853). -/
theorem readReg_of_no_fields {fn off : Nat} (s : State) (h : fieldsAt fn off = []) : readReg s fn off = 0 := by
  simp only [readReg, h, List.map_nil, List.sum_nil]

/-- A register that takes no write now takes no command's word either (R801, R858). -/
theorem commandWord_of_not_writable {fn off : Nat} (h : writable s fn off = false) : commandWord s fn off v = s :=
  if_neg (by simp [h])

theorem commandWord_of_no_fields {fn off : Nat} (s : State) (h : fieldsAt fn off = []) : commandWord s fn off v = s :=
  if_neg (by simp [h])

theorem exec_registerWrite_partial (s : State) (hbe : be ≠ 0xF#4) : exec (.registerWrite fn off be v) s = .next s :=
  congrArg Host.Outcome.next (if_neg hbe)

/-- Where a whole word changes nothing, a write changes nothing whichever bytes it enables. -/
theorem exec_registerWrite_ignored (be : BitVec 4) (h : commandWord s fn.val off v = s) :
    exec (.registerWrite fn off be v) s = .next s := by
  by_cases hbe : be = 0xF#4
  · exact congrArg Host.Outcome.next ((if_pos hbe).trans h)
  · exact exec_registerWrite_partial v s hbe

end Sys2Proof.Machine
end

section
namespace Sys2Proof.Machine

/-- Settles O2: a partial write acts on no field, and a word for an offset with no register, or for one that takes none now, stops at
the guard of `commandWord`. -/
theorem registerWriteTurnedAway : Obligations.RegisterWriteTurnedAway :=
  ⟨fun _ _ _ v s hbe => exec_registerWrite_partial v s hbe,
    fun _ _ be v s h => ⟨readReg_of_no_fields s h, exec_registerWrite_ignored v be (commandWord_of_no_fields v s h)⟩,
    fun _ _ be v _ h => exec_registerWrite_ignored v be (commandWord_of_not_writable v h)⟩

end Sys2Proof.Machine
end

section
/-!
OBLIGATIONS O52 to O56, O58. What one step keeps: each is read off the footprint of the command that ran.
-/
namespace Sys2Proof.Machine

/-- Settles O52: the queue of the state with a front command is that command and the rest. -/
theorem stepRunsFront : Obligations.StepRunsFront := fun c q s => step_cons c q { s with pending := c :: q } rfl

/-- Settles O53: an empty queue leaves only the tick. -/
theorem idleStepTicks : Obligations.IdleStepTicks := step_nil

/-- Settles O54: no byte of memory is listed at reset, and the Players and the links are lists of the device's own lengths. -/
theorem resetMeetsInvariant : Obligations.ResetMeetsInvariant := ⟨rfl, rfl, rfl⟩

/-- Settles O55: every footprint keeps the memory's canonical form, the Players and the links, whatever it may touch. -/
theorem stepKeepsInvariant : Obligations.StepKeepsInvariant := by
  rintro s t ⟨hmem, hplayers, hlinks⟩ h
  obtain ⟨-, hfp⟩ := step_keeps s t h
  exact ⟨hfp.wf hmem, hfp.players hplayers, hfp.nlinks hlinks⟩

/-- Settles O58: no footprint lowers the floor or drops a revocation. -/
theorem floorAndRevocationsHold : Obligations.FloorAndRevocationsHold := by
  intro s t h
  obtain ⟨-, hfp⟩ := step_keeps s t h
  exact ⟨hfp.floor, hfp.revoked⟩

/-- Settles O56: each command's footprint lies within the parts that `touches` lists for it. -/
theorem commandsTouchOnlyTheirParts : Obligations.CommandsTouchOnlyTheirParts := by
  intro c s t h
  cases c with
  | registerWrite a0 a1 a2 a3 => exact (execRegisterWrite_fp a0 a1 a2 a3 s t h).parts rfl
  | heldRwsWriteLands => exact (execHeldRwsWriteLands_fp s t h).parts rfl
  | cueNowRead => exact (execCueNowRead_fp s t h).parts rfl
  | sqTailDoorbell a0 a1 a2 => exact (execSqTailDoorbell_fp a0 a1 a2 s t h).parts rfl
  | lqHeadDoorbell a0 a1 a2 => exact (execLqHeadDoorbell_fp a0 a1 a2 s t h).parts rfl
  | nqHeadDoorbell a0 a1 => exact (execNqHeadDoorbell_fp a0 a1 s t h).parts rfl
  | cardFetch a0 => exact (execCardFetch_fp a0 s t h).parts rfl
  | promptPullDone a0 a1 a2 a3 a4 => exact (execPromptPullDone_fp a0 a1 a2 a3 a4 s t h).parts rfl
  | submit => exact (execSubmit_fp s t h).parts rfl
  | contin => exact (execContin_fp s t h).parts rfl
  | pause => exact (execPause_fp s t h).parts rfl
  | resume => exact (execResume_fp s t h).parts rfl
  | cancel => exact (execCancel_fp s t h).parts rfl
  | releasePrefix => exact (execReleasePrefix_fp s t h).parts rfl
  | prefixLookup a0 => exact (execPrefixLookup_fp a0 s t h).parts rfl
  | lineWrite a0 a1 a2 => exact (execLineWrite_fp a0 a1 a2 s t h).parts rfl
  | noticeWrite a0 a1 a2 => exact (execNoticeWrite_fp a0 a1 a2 s t h).parts rfl
  | hqTailDoorbell a0 a1 a2 => exact (execHqTailDoorbell_fp a0 a1 a2 s t h).parts rfl
  | h2d a0 a1 a2 => exact (execH2d_fp a0 a1 a2 s t h).parts rfl
  | d2h a0 a1 => exact (execD2h_fp a0 a1 s t h).parts rfl
  | fence a0 => exact (execFence_fp a0 s t h).parts rfl
  | descriptorComplete a0 => exact (execDescriptorComplete_fp a0 s t h).parts rfl
  | hqResume a0 a1 => exact (execHqResume_fp a0 a1 s t h).parts rfl
  | hostLoss => exact (execHostLoss_fp s t h).parts rfl
  | perstAssert => exact (execPerstAssert_fp s t h).parts rfl
  | perstDeassert => exact (execPerstDeassert_fp s t h).parts rfl
  | pcieLinkUp a0 a1 => exact (execPcieLinkUp_fp a0 a1 s t h).parts rfl
  | reclaim a0 a1 => exact (execReclaim_fp a0 a1 s t h).parts rfl
  | graceExpiry => exact (execGraceExpiry_fp s t h).parts rfl
  | functionLevelReset a0 => exact (execFunctionLevelReset_fp a0 s t h).parts rfl
  | cueLaunch => exact (execCueLaunch_fp s t h).parts rfl
  | compositionStart => exact (execCompositionStart_fp s t h).parts rfl
  | budgetCompute a0 a1 => exact (execBudgetCompute_fp a0 a1 s t h).parts rfl
  | cueMonFall => exact (execCueMonFall_fp s t h).parts rfl
  | periodRequest a0 => exact (execPeriodRequest_fp a0 s t h).parts rfl
  | ppsEdge => exact (execPpsEdge_fp s t h).parts rfl
  | ppsTimeout => exact (execPpsTimeout_fp s t h).parts rfl
  | primaryRootTimeout => exact (execPrimaryRootTimeout_fp s t h).parts rfl
  | secondaryRootTimeout => exact (execSecondaryRootTimeout_fp s t h).parts rfl
  | timeExchange a0 a1 => exact (execTimeExchange_fp a0 a1 s t h).parts rfl
  | holdoverExpiry => exact (execHoldoverExpiry_fp s t h).parts rfl
  | completion a0 => exact (execCompletion_fp a0 s t h).parts rfl
  | pushSlotFill a0 => exact (execPushSlotFill_fp a0 s t h).parts rfl
  | take a0 => exact (execTake_fp a0 s t h).parts rfl
  | refetch a0 => exact (execRefetch_fp a0 s t h).parts rfl
  | branch a0 => exact (execBranch_fp a0 s t h).parts rfl
  | done a0 => exact (execDone_fp a0 s t h).parts rfl
  | chunk a0 => exact (execChunk_fp a0 s t h).parts rfl
  | halt a0 => exact (execHalt_fp a0 s t h).parts rfl
  | computeWord a0 a1 => exact (execComputeWord_fp a0 a1 s t h).parts rfl
  | badop a0 => exact (execBadop_fp a0 s t h).parts rfl
  | ipar a0 => exact (execIpar_fp a0 s t h).parts rfl
  | reloadDone a0 => exact (execReloadDone_fp a0 s t h).parts rfl
  | haltReq a0 a1 => exact (execHaltReq_fp a0 a1 s t h).parts rfl
  | seqRefetch a0 a1 => exact (execSeqRefetch_fp a0 a1 s t h).parts rfl
  | idataStore a0 a1 a2 => exact (execIdataStore_fp a0 a1 a2 s t h).parts rfl
  | localPass a0 a1 a2 a3 a4 a5 a6 => exact (execLocalPass_fp a0 a1 a2 a3 a4 a5 a6 s t h).parts rfl
  | mergePass a0 a1 => exact (execMergePass_fp a0 a1 s t h).parts rfl
  | candList a0 a1 a2 a3 a4 a5 a6 a7 a8 a9 a10 => exact (execCandList_fp a0 a1 a2 a3 a4 a5 a6 a7 a8 a9 a10 s t h).parts rfl
  | step a0 a1 => exact (execStep_fp a0 a1 s t h).parts rfl
  | chunkDone a0 a1 => exact (execChunkDone_fp a0 a1 s t h).parts rfl
  | line a0 a1 a2 => exact (execLine_fp a0 a1 a2 s t h).parts rfl
  | credit a0 a1 => exact (execCredit_fp a0 a1 s t h).parts rfl
  | cueList a0 a1 => exact (execCueList_fp a0 a1 s t h).parts rfl
  | activation a0 a1 a2 a3 a4 a5 a6 a7 a8 a9 => exact (execActivation_fp a0 a1 a2 a3 a4 a5 a6 a7 a8 a9 s t h).parts rfl
  | partials a0 a1 a2 a3 a4 a5 a6 => exact (execPartials_fp a0 a1 a2 a3 a4 a5 a6 s t h).parts rfl
  | prompt a0 a1 a2 a3 a4 => exact (execPrompt_fp a0 a1 a2 a3 a4 s t h).parts rfl
  | transfer a0 a1 a2 a3 a4 => exact (execTransfer_fp a0 a1 a2 a3 a4 s t h).parts rfl
  | blockSet a0 => exact (execBlockSet_fp a0 s t h).parts rfl
  | tableClear a0 => exact (execTableClear_fp a0 s t h).parts rfl
  | context a0 a1 a2 a3 => exact (execContext_fp a0 a1 a2 a3 s t h).parts rfl
  | budget a0 a1 a2 a3 a4 a5 => exact (execBudget_fp a0 a1 a2 a3 a4 a5 s t h).parts rfl
  | advert a0 a1 a2 a3 a4 a5 a6 a7 a8 => exact (execAdvert_fp a0 a1 a2 a3 a4 a5 a6 a7 a8 s t h).parts rfl
  | snap a0 a1 => exact (execSnap_fp a0 a1 s t h).parts rfl
  | cutAck a0 a1 a2 => exact (execCutAck_fp a0 a1 a2 s t h).parts rfl
  | copied a0 a1 a2 a3 => exact (execCopied_fp a0 a1 a2 a3 s t h).parts rfl
  | noSpace a0 a1 a2 => exact (execNoSpace_fp a0 a1 a2 s t h).parts rfl
  | copyFault a0 a1 a2 => exact (execCopyFault_fp a0 a1 a2 s t h).parts rfl
  | manifestAck a0 a1 a2 => exact (execManifestAck_fp a0 a1 a2 s t h).parts rfl
  | applied a0 a1 => exact (execApplied_fp a0 a1 s t h).parts rfl
  | resident a0 a1 a2 a3 a4 => exact (execResident_fp a0 a1 a2 a3 a4 s t h).parts rfl
  | spilled a0 a1 a2 => exact (execSpilled_fp a0 a1 a2 s t h).parts rfl
  | filled a0 a1 a2 => exact (execFilled_fp a0 a1 a2 s t h).parts rfl
  | resetCue a0 a1 a2 => exact (execResetCue_fp a0 a1 a2 s t h).parts rfl
  | status a0 a1 a2 a3 a4 a5 a6 => exact (execStatus_fp a0 a1 a2 a3 a4 a5 a6 s t h).parts rfl
  | repoint a0 a1 a2 a3 a4 a5 a6 => exact (execRepoint_fp a0 a1 a2 a3 a4 a5 a6 s t h).parts rfl
  | shardRead a0 a1 a2 a3 a4 a5 a6 => exact (execShardRead_fp a0 a1 a2 a3 a4 a5 a6 s t h).parts rfl
  | shardData a0 a1 a2 a3 a4 => exact (execShardData_fp a0 a1 a2 a3 a4 s t h).parts rfl
  | sceneQuery a0 a1 a2 a3 => exact (execSceneQuery_fp a0 a1 a2 a3 s t h).parts rfl
  | restoreFillDone a0 a1 => exact (execRestoreFillDone_fp a0 a1 s t h).parts rfl
  | scriptLoad a0 => exact (execScriptLoad_fp a0 s t h).parts rfl
  | scriptLoadDone => exact (execScriptLoadDone_fp s t h).parts rfl
  | withdraw a0 => exact (execWithdraw_fp a0 s t h).parts rfl
  | retest a0 => exact (execRetest_fp a0 s t h).parts rfl
  | windBlock a0 => exact (execWindBlock_fp a0 s t h).parts rfl
  | gorseTestGo a0 => exact (execGorseTestGo_fp a0 s t h).parts rfl
  | costumeLoad a0 a1 => exact (execCostumeLoad_fp a0 a1 s t h).parts rfl
  | costumeLoadDone => exact (execCostumeLoadDone_fp s t h).parts rfl
  | pendingLoadResume => exact (execPendingLoadResume_fp s t h).parts rfl
  | revoke a0 => exact (execRevoke_fp a0 s t h).parts rfl
  | residencyCopyDone a0 a1 a2 => exact (execResidencyCopyDone_fp a0 a1 a2 s t h).parts rfl
  | tableInvalidate a0 => exact (execTableInvalidate_fp a0 s t h).parts rfl
  | heathSpillDone a0 a1 => exact (execHeathSpillDone_fp a0 a1 s t h).parts rfl
  | heathFillDone a0 a1 => exact (execHeathFillDone_fp a0 a1 s t h).parts rfl
  | flitReceive a0 a1 => exact (execFlitReceive_fp a0 a1 s t h).parts rfl
  | packetForward a0 => exact (execPacketForward_fp a0 s t h).parts rfl
  | idleFlit a0 => exact (execIdleFlit_fp a0 s t h).parts rfl
  | replayTimeout a0 => exact (execReplayTimeout_fp a0 s t h).parts rfl
  | linkEn a0 a1 => exact (execLinkEn_fp a0 a1 s t h).parts rfl
  | trainingComplete a0 => exact (execTrainingComplete_fp a0 s t h).parts rfl
  | trainTimeout a0 => exact (execTrainTimeout_fp a0 s t h).parts rfl
  | trainRestart a0 => exact (execTrainRestart_fp a0 s t h).parts rfl
  | identityRecord a0 a1 => exact (execIdentityRecord_fp a0 a1 s t h).parts rfl
  | linkSignalLoss a0 => exact (execLinkSignalLoss_fp a0 s t h).parts rfl
  | linkSilence a0 => exact (execLinkSilence_fp a0 s t h).parts rfl
  | topologyUpdate a0 a1 a2 a3 => exact (execTopologyUpdate_fp a0 a1 a2 a3 s t h).parts rfl
  | exit a0 => exact (execExit_fp a0 s t h).parts rfl
  | exitFence a0 => exact (execExitFence_fp a0 s t h).parts rfl
  | exitAck a0 => exact (execExitAck_fp a0 s t h).parts rfl
  | exitAckSend a0 => exact (execExitAckSend_fp a0 s t h).parts rfl
  | exitTimeout => exact (execExitTimeout_fp s t h).parts rfl
  | swaleWrite a0 a1 => exact (execSwaleWrite_fp a0 a1 s t h).parts rfl
  | swaleRead a0 => exact (execSwaleRead_fp a0 s t h).parts rfl
  | mark a0 => exact (execMark_fp a0 s t h).parts rfl
  | rewind a0 => exact (execRewind_fp a0 s t h).parts rfl
  | release a0 a1 => exact (execRelease_fp a0 a1 s t h).parts rfl
  | pointerMismatch a0 => exact (execPointerMismatch_fp a0 s t h).parts rfl
  | swaleReset a0 a1 => exact (execSwaleReset_fp a0 a1 s t h).parts rfl
  | flushDone a0 => exact (execFlushDone_fp a0 s t h).parts rfl
  | holdDone a0 => exact (execHoldDone_fp a0 s t h).parts rfl
  | watermarkDwellEnd a0 => exact (execWatermarkDwellEnd_fp a0 s t h).parts rfl
  | silentSelfReset => exact (execSilentSelfReset_fp s t h).parts rfl
  | domainDemand a0 => exact (execDomainDemand_fp a0 s t h).parts rfl
  | domainIdle a0 => exact (execDomainIdle_fp a0 s t h).parts rfl
  | targetWrite a0 a1 => exact (execTargetWrite_fp a0 a1 s t h).parts rfl
  | shutdownComplete a0 => exact (execShutdownComplete_fp a0 s t h).parts rfl
  | powerupComplete a0 => exact (execPowerupComplete_fp a0 s t h).parts rfl
  | pgFail a0 => exact (execPgFail_fp a0 s t h).parts rfl
  | deepOff a0 => exact (execDeepOff_fp a0 s t h).parts rfl
  | pwrBrakeFall => exact (execPwrBrakeFall_fp s t h).parts rfl
  | pwrBrakeRise => exact (execPwrBrakeRise_fp s t h).parts rfl
  | brakeLoopTick a0 => exact (execBrakeLoopTick_fp a0 s t h).parts rfl
  | tempSample a0 => exact (execTempSample_fp a0 s t h).parts rfl
  | stageplotLoad a0 => exact (execStageplotLoad_fp a0 s t h).parts rfl
  | stageplotLoadDone => exact (execStageplotLoadDone_fp s t h).parts rfl
  | swapReq a0 a1 => exact (execSwapReq_fp a0 a1 s t h).parts rfl
  | swapCancel a0 => exact (execSwapCancel_fp a0 s t h).parts rfl
  | sceneStart a0 => exact (execSceneStart_fp a0 s t h).parts rfl
  | applyDone => exact (execApplyDone_fp s t h).parts rfl
  | sceneTimeout => exact (execSceneTimeout_fp s t h).parts rfl
  | snapshotForce a0 => exact (execSnapshotForce_fp a0 s t h).parts rfl
  | snapshotCopyDone a0 => exact (execSnapshotCopyDone_fp a0 s t h).parts rfl
  | copyBeforeWrite a0 a1 a2 => exact (execCopyBeforeWrite_fp a0 a1 a2 s t h).parts rfl
  | snapshotTimeout => exact (execSnapshotTimeout_fp s t h).parts rfl
  | drainDone a0 => exact (execDrainDone_fp a0 s t h).parts rfl
  | wcopyRefreshDone => exact (execWcopyRefreshDone_fp s t h).parts rfl
  | undHostGo a0 => exact (execUndHostGo_fp a0 s t h).parts rfl
  | replayGo a0 => exact (execReplayGo_fp a0 s t h).parts rfl
  | replayAbort a0 => exact (execReplayAbort_fp a0 s t h).parts rfl
  | getVersion => exact (execGetVersion_fp s t h).parts rfl
  | getCapabilities => exact (execGetCapabilities_fp s t h).parts rfl
  | negotiateAlgorithms a0 => exact (execNegotiateAlgorithms_fp a0 s t h).parts rfl
  | getDigests => exact (execGetDigests_fp s t h).parts rfl
  | getCertificate a0 a1 a2 => exact (execGetCertificate_fp a0 a1 a2 s t h).parts rfl
  | challenge a0 a1 => exact (execChallenge_fp a0 a1 s t h).parts rfl
  | getMeasurements a0 a1 a2 => exact (execGetMeasurements_fp a0 a1 a2 s t h).parts rfl
  | keyExchange a0 a1 => exact (execKeyExchange_fp a0 a1 s t h).parts rfl
  | finish a0 a1 a2 => exact (execFinish_fp a0 a1 a2 s t h).parts rfl
  | heartbeat a0 => exact (execHeartbeat_fp a0 s t h).parts rfl
  | keyUpdate a0 => exact (execKeyUpdate_fp a0 s t h).parts rfl
  | endSession a0 => exact (execEndSession_fp a0 s t h).parts rfl
  | chunkSend a0 a1 a2 a3 => exact (execChunkSend_fp a0 a1 a2 a3 s t h).parts rfl
  | chunkGet a0 a1 => exact (execChunkGet_fp a0 a1 s t h).parts rfl
  | setHouseKey a0 a1 => exact (execSetHouseKey_fp a0 a1 s t h).parts rfl
  | programKey a0 a1 a2 => exact (execProgramKey_fp a0 a1 a2 s t h).parts rfl
  | revokeKey a0 a1 => exact (execRevokeKey_fp a0 a1 s t h).parts rfl
  | writeLocked a0 a1 a2 => exact (execWriteLocked_fp a0 a1 a2 s t h).parts rfl
  | raiseFloor a0 a1 => exact (execRaiseFloor_fp a0 a1 s t h).parts rfl
  | spdmZeroise a0 a1 => exact (execSpdmZeroise_fp a0 a1 s t h).parts rfl
  | readAudit a0 a1 a2 => exact (execReadAudit_fp a0 a1 a2 s t h).parts rfl
  | zeroise a0 => exact (execZeroise_fp a0 s t h).parts rfl
  | zeroiseComplete => exact (execZeroiseComplete_fp s t h).parts rfl
  | tenantZero a0 => exact (execTenantZero_fp a0 s t h).parts rfl
  | tkeyImport a0 => exact (execTkeyImport_fp a0 s t h).parts rfl
  | floorWrite a0 a1 => exact (execFloorWrite_fp a0 a1 s t h).parts rfl
  | tamper a0 => exact (execTamper_fp a0 s t h).parts rfl
  | selftestDone a0 => exact (execSelftestDone_fp a0 s t h).parts rfl
  | auditClose => exact (execAuditClose_fp s t h).parts rfl
  | logPageProgram a0 => exact (execLogPageProgram_fp a0 s t h).parts rfl
  | ledgerStore a0 => exact (execLedgerStore_fp a0 s t h).parts rfl
  | ledgerStoreDone a0 => exact (execLedgerStoreDone_fp a0 s t h).parts rfl
  | wearLevelMove a0 => exact (execWearLevelMove_fp a0 s t h).parts rfl
  | coldPowerUp a0 a1 a2 a3 => exact (execColdPowerUp_fp a0 a1 a2 a3 s t h).parts rfl
  | supplyLoss => exact (execSupplyLoss_fp s t h).parts rfl
  | warmRst a0 => exact (execWarmRst_fp a0 s t h).parts rfl
  | warmResetFlushDone => exact (execWarmResetFlushDone_fp s t h).parts rfl
  | warmRstRelease => exact (execWarmRstRelease_fp s t h).parts rfl
  | wloadBegin a0 => exact (execWloadBegin_fp a0 s t h).parts rfl
  | wloadDone a0 => exact (execWloadDone_fp a0 s t h).parts rfl
  | weightHashDone => exact (execWeightHashDone_fp s t h).parts rfl
  | faultReport a0 a1 a2 => exact (execFaultReport_fp a0 a1 a2 s t h).parts rfl
  | crashCapsuleTimeout => exact (execCrashCapsuleTimeout_fp s t h).parts rfl
  | partialReset a0 => exact (execPartialReset_fp a0 s t h).parts rfl
  | faultInject a0 a1 => exact (execFaultInject_fp a0 a1 s t h).parts rfl
  | card a0 a1 a2 a3 a4 => exact (execCard_fp a0 a1 a2 a3 a4 s t h).parts rfl
  | configurationRequest a0 => exact (execConfigurationRequest_fp a0 s t h).parts rfl
  | pasidTlp => exact (execPasidTlp_fp s t h).parts rfl
  | startupTestsDone a0 => exact (execStartupTestsDone_fp a0 s t h).parts rfl
  | flrComplete a0 => exact (execFlrComplete_fp a0 s t h).parts rfl
  | partialResetComplete a0 => exact (execPartialResetComplete_fp a0 s t h).parts rfl
  | eccScheduledMove a0 a1 => exact (execEccScheduledMove_fp a0 a1 s t h).parts rfl
  | rbDataRead => exact (execRbDataRead_fp s t h).parts rfl

end Sys2Proof.Machine
end

section
/-!
OBLIGATION O57. How a command can stop: only the two that name an address of their own look whether it exists (log entry 69).
-/
namespace Sys2Proof.Machine

/-- The commands whose operands name an address of Loft or Meadow. -/
def NamesAddress (c : Instr) : Prop :=
  (∃ p op, c = .computeWord p op) ∨ ∃ src beat cue addr data x y, c = .partials src beat cue addr data x y

/-- A compute word answers or stops at an address that does not exist. -/
theorem exec_computeWord_answers (p : Fin 96) (op : VecOp) (s : State) :
    (∃ t, exec (.computeWord p op) s = .next t) ∨ exec (.computeWord p op) s = .fault .noAddress := by
  change (∃ t, execComputeWord p op s = .next t) ∨ execComputeWord p op s = .fault .noAddress
  unfold execComputeWord
  dsimp only
  split
  · exact .inl ⟨_, rfl⟩
  · split
    · exact .inr rfl
    · exact .inl ⟨_, rfl⟩

theorem exec_partials_answers (src : Fin 1024) (beat : Fin 16384) (cue : BitVec 16) (addr : Nat) (data : List Byte) (x y : Bool)
    (s : State) : (∃ t, exec (.partials src beat cue addr data x y) s = .next t) ∨
      exec (.partials src beat cue addr data x y) s = .fault .noAddress := by
  by_cases h : addrOk s addr data.length = true
  · exact .inl ⟨_, if_pos h⟩
  · exact .inr (if_neg h)

/-- Every command answers a next state, but for one that names an address which does not exist. -/
theorem exec_answers (c : Instr) (s : State) :
    (∃ t, exec c s = .next t) ∨ exec c s = .fault .noAddress ∧ NamesAddress c := by
  cases c with
  | computeWord p op => exact (exec_computeWord_answers p op s).imp_right fun h => ⟨h, .inl ⟨p, op, rfl⟩⟩
  | partials src beat cue addr data x y =>
    exact (exec_partials_answers src beat cue addr data x y s).imp_right fun h => ⟨h, .inr ⟨_, _, _, _, _, _, _, rfl⟩⟩
  | _ => exact .inl ⟨_, rfl⟩

theorem exec_not_refused (c : Instr) (s : State) (r : Refusal) : exec c s ≠ .refused r := by
  rcases exec_answers c s with ⟨t, h⟩ | ⟨h, -⟩ <;> exact fun hr => nomatch h.symm.trans hr

theorem exec_fault {c : Instr} {s : State} {f : Fault} (hf : exec c s = .fault f) : f = .noAddress ∧ NamesAddress c := by
  rcases exec_answers c s with ⟨t, h⟩ | ⟨h, hc⟩
  · exact nomatch h.symm.trans hf
  · exact ⟨Host.Outcome.fault.inj (hf.symm.trans h), hc⟩

theorem exec_next_of_no_address {c : Instr} (s : State) (hc : ¬ NamesAddress c) : ∃ t, exec c s = .next t :=
  (exec_answers c s).resolve_right fun h => hc h.2

/-- Settles O57: the two commands that can stop are told apart by `exec_answers`, and a step's queue is its command's. -/
theorem commandsAnswer : Obligations.CommandsAnswer := by
  refine ⟨exec_not_refused, fun _ _ _ => exec_fault, fun c s hword hpartials => ?_, fun s t h => (step_keeps s t h).1⟩
  refine exec_next_of_no_address s ?_
  rintro (⟨p, op, rfl⟩ | ⟨src, beat, cue, addr, data, x, y, rfl⟩)
  · exact hword p op rfl
  · exact hpartials src beat cue addr data x y rfl

end Sys2Proof.Machine
end

section
/-!
SUPPORT. The Cue Line's clock: what its corrections, a root's entry and a time exchange leave of the time, the registers and the cue.
-/
namespace Sys2Proof.Machine

/-! Corrections (R223 to R225). -/

theorem slewSt_st (s : State) (t : Nat) :
    (slewSt s t).st = s.st + min (t - s.st) ((s.st - s.cue.slewFrom) * 50 / 1000000) := rfl

theorem slewSt_slewFrom (s : State) (t : Nat) : (slewSt s t).cue.slewFrom = s.st := rfl

theorem slewSt_todNew (s : State) (t : Nat) : (slewSt s t).cue.todNew = s.cue.todNew := rfl

theorem get_slewSt (s : State) (t : Nat) (f : Fld) : get (slewSt s t) f = get s f := by simp [slewSt]

theorem slewSt_st_le (s : State) (t : Nat) : s.st ≤ (slewSt s t).st := Nat.le_add_right _ _

theorem startTime_of_launched {s : State} (hl : s.cue.launched = true) : startTime s = s := if_neg (by simp [hl])

theorem startTime_of_todNew {s : State} (hn : s.cue.todNew = true) : startTime s = s := if_neg (by simp [hn])

/-- With no time of day ever supplied, a device that has launched no cue starts from 0. -/
theorem startTime_st {s : State} (hl : s.cue.launched = false) (hn : s.cue.todNew = false) :
    (startTime s).st = if todNext s = 0 then 0 else s.st := by
  unfold startTime
  by_cases h : todNext s = 0 <;> simp [h, hl, hn, stepSt]

/-- The time at the start is no part of the registers or of the cue. -/
theorem startTime_fp_time (s : State) : Fp 2621440 s (startTime s) := startTime_fp rfl s (Fp.refl _ s)

/-- An edge of PPS_IN has taken CUE_TOD_NEXT. -/
def todTaken (s : State) : State := (set s Fld.cueStatusPpsLost 0).onCue fun c => { c with todNew := false }

theorem todTaken_st (s : State) : (todTaken s).st = s.st := rfl

theorem todTaken_slewFrom (s : State) : (todTaken s).cue.slewFrom = s.cue.slewFrom := rfl

theorem takeTod_slews {s : State} (hn : s.cue.todNew = true) (hl : s.cue.launched = true) :
    takeTod s = slewSt (set (todTaken s) Fld.cueStatusTodFar (b2n (tooFar (todNext s) s.st))) (todNext s) :=
  (if_pos hn).trans (if_pos hl)

theorem takeTod_steps {s : State} (hn : s.cue.todNew = true) (hl : s.cue.launched = false) :
    takeTod s = stepSt (todTaken s) (todNext s) := (if_pos hn).trans (if_neg (by simp [hl]))

theorem takeTod_misses {s : State} (hn : s.cue.todNew = false) : takeTod s = set s Fld.cueStatusPpsLost 1 :=
  if_neg (by simp [hn])

/-! The first cue to launch, and a root's entry (R808, R810). -/

theorem setFirst_fp_cue (s : State) : Fp 16 s (setFirst s) := setFirst_fp rfl s (Fp.refl _ s)

theorem setFirst_cue (s : State) : ∃ n, (setFirst s).cue = { s.cue with first := n } := by
  unfold setFirst
  split
  · exact ⟨s.cue.first, rfl⟩
  · exact ⟨_, rfl⟩

theorem becomeRoot_state (s : State) (b : Bool) : cueState (becomeRoot s b) = 4 ∧
    get (becomeRoot s b) Fld.cueStatusParent = 0xF ∧ (becomeRoot s b).cue.rootPrimary = b :=
  ⟨(get_set_other _ _ _ _ (by decide)).trans (get_set_of_lt s Fld.cueStatusState 4 (by decide)),
    get_set_of_lt _ Fld.cueStatusParent 0xF (by decide), rfl⟩

theorem enterRoot_state (s : State) (b : Bool) : cueState (enterRoot s b) = 4 ∧
    get (enterRoot s b) Fld.cueStatusParent = 0xF ∧ (enterRoot s b).cue.rootPrimary = b := by
  have hroot := becomeRoot_state s b
  unfold enterRoot
  dsimp only
  split
  · exact hroot
  · split
    · obtain ⟨n, hcue⟩ := setFirst_cue (putAnchor (becomeRoot s b) ‹Plot›.anchorCue
        (ceilDiv ((becomeRoot s b).st + 10000000) (max 1 ‹Plot›.period) * ‹Plot›.period) ‹Plot›.period)
      rw [cueState, get_setFirst, get_setFirst, hcue]
      obtain ⟨hstate, hparent, hprimary⟩ := hroot
      exact ⟨(get_set_other _ _ _ _ (by decide)).trans hstate, (get_set_other _ _ _ _ (by decide)).trans hparent, hprimary⟩
    · exact hroot

/-- A root that enters keeps its time and every register but its state, its parent and the period. -/
theorem get_enterRoot_other (s : State) (b : Bool) {f : Fld} (h₁ : f.key ≠ Fld.cueStatusState.key)
    (h₂ : f.key ≠ Fld.cueStatusParent.key) (h₃ : f.key ≠ Fld.cuePeriodNsV.key) : get (enterRoot s b) f = get s f := by
  have hroot : get (becomeRoot s b) f = get s f := (get_set_other _ _ _ _ h₂).trans (get_set_other _ _ _ _ h₁)
  unfold enterRoot
  dsimp only
  split
  · exact hroot
  · split
    · rw [get_setFirst]
      exact (get_set_other _ _ _ _ h₃).trans hroot
    · exact hroot

theorem enterRoot_st (s : State) (b : Bool) : (enterRoot s b).st = s.st := (enterRoot_fp rfl s b (Fp.refl 17 s)).st rfl

/-! Time exchanges. -/

/-- The device takes its parent's clock: at its first lock with the parent's anchor, later by a slew. -/
def adoptClock (s : State) (m : TimeMsg) : State :=
  let w := if s.cue.anchored || s.cue.launched then s else putAnchor (stepSt s m.st) m.anchorCue m.anchorSt m.period
  if w.cue.launched then slewSt w m.st else w

theorem adoptClock_of_launched {s : State} (m : TimeMsg) (hl : s.cue.launched = true) : adoptClock s m = slewSt s m.st := by
  simp [adoptClock, hl]

theorem adoptClock_of_anchored {s : State} (m : TimeMsg) (hl : s.cue.launched = false) (ha : s.cue.anchored = true) :
    adoptClock s m = s := by simp [adoptClock, hl, ha]

theorem adoptClock_of_new {s : State} (m : TimeMsg) (hl : s.cue.launched = false) (ha : s.cue.anchored = false) :
    adoptClock s m = putAnchor (stepSt s m.st) m.anchorCue m.anchorSt m.period := by
  have hnew : (putAnchor (stepSt s m.st) m.anchorCue m.anchorSt m.period).cue.launched = false := hl
  simp [adoptClock, hl, ha, hnew]

/-- What the parent's exchange does once its clock is taken: its anchor, the lock, the first cue to launch. -/
def followParent (s : State) (l : Nat) (m : TimeMsg) : State :=
  setFirst (lockStep (takeAnchor s m) (exchangeOffset s l m.offPs))

theorem followParent_st (s : State) (l : Nat) (m : TimeMsg) : (followParent s l m).st = s.st :=
  (setFirst_fp (fw := 950291) rfl _ (lockStep_fp rfl _ _ (takeAnchor_fp rfl _ _ (Fp.refl _ s)))).st rfl

/-- The acting root as the parent, or any neighbour of a device with no parent, names it. -/
def hearRoot (s : State) (l : Nat) (m : TimeMsg) : State :=
  if get s Fld.cueStatusParent = l ∨ get s Fld.cueStatusParent = 0xF then takeRoot s m.rootPrimary else s

theorem hearRoot_fp (s : State) (l : Nat) (m : TimeMsg) : Fp 17 s (hearRoot s l m) :=
  ite_fp (takeRoot_fp rfl _ _ (Fp.refl _ s)) (Fp.refl _ s)

/-- A primary in ROOT gives way where it has launched no cue and hears of the secondary. -/
def yieldRoot (s : State) (l : Nat) (m : TimeMsg) : State :=
  if cueState s = 4 ∧ s.cue.launched = false ∧ isRoot s true ∧ m.rootPrimary = false then leaveRoot s l else s

theorem yieldRoot_of_launched {s : State} (l : Nat) (m : TimeMsg) (hl : s.cue.launched = true) : yieldRoot s l m = s :=
  if_neg (by simp [hl])

theorem exec_timeExchange (link : Fin 12) (m : TimeMsg) (s : State) : exec (.timeExchange link m) s =
    .next (if !booted s || !linkRuns s link || cueState s = 3 then s
      else
        let u := yieldRoot (sendTime s link) link m
        if cueState u = 4 then u
        else
          let w := hearRoot u link m
          if get w Fld.cueStatusParent ≠ link then w else followParent (adoptClock w m) link m) := rfl

theorem sendTime_fp_out (s : State) (l : Nat) : Fp 1048576 s (sendTime s l) := sendTime_fp rfl s l (Fp.refl _ s)

end Sys2Proof.Machine
end

section
/-!
OBLIGATION O59. The commands that move Stage Time: those that stand for an instant carry it to the later of now and that instant, and
after the first launch a correction only slews it forwards.
-/
namespace Sys2Proof.Machine

theorem Fp.st_le {w : Nat} {s t : State} (h : Fp w s t) (hw : w.testBit 21 = false) : s.st ≤ t.st := (h.st hw).ge

/-- A command that stands for an instant: the time becomes the later of now and that instant, and what follows leaves it. -/
theorem st_le_of_instant {w x : Nat} {s t : State} (h : Fp w (s.setSt (max s.st x)) t) (hw : w.testBit 21 = false) :
    s.st ≤ t.st := (le_max_left _ _).trans (h.st_le hw)

section
variable {s t : State}

theorem heldRwsWriteLands_st_le (h : exec .heldRwsWriteLands s = .next t) : s.st ≤ t.st := by
  have hland : ∀ u : State, Fp 8193 u (match u.spl.heldRws with
      | [] => u
      | w :: r => landWrite (u.onSpl fun p => { p with heldRws := r }) w) := by
    intro u
    split
    · exact Fp.refl _ u
    · exact landWrite_fp rfl _ _ (onSpl_fp rfl u _ (Fp.refl _ u))
  cases h
  split
  · exact le_rfl
  · refine le_trans ?_ ((hland _).st_le rfl)
    split
    · exact le_max_left _ _
    · exact le_rfl

theorem graceExpiry_st_le (h : exec .graceExpiry s = .next t) : s.st ≤ t.st := by
  cases hg : s.hiu.grace with
  | nil =>
    cases h
    rw [hg]
  | cons g r =>
    cases (exec_graceExpiry_cons hg).symm.trans h
    rw [graceOver_st]
    exact le_max_left _ _

theorem cueLaunch_st_le (h : exec .cueLaunch s = .next t) : s.st ≤ t.st := by
  by_cases hturn : booted s = true ∧ canLaunch s = true
  · obtain ⟨hb, hl⟩ := hturn
    obtain ⟨-, -, hst⟩ := cueBoundary_clock (launchTurn s) (nextCue s)
    cases (exec_cueLaunch_launches hb hl).symm.trans h
    rw [hst, launchTurn_st]
    exact le_max_left _ _
  · cases (exec_cueLaunch_idle (s := s) (by simpa using Classical.not_and_iff_not_or_not.1 hturn)).symm.trans h
    exact le_rfl

theorem compositionStart_st_le (h : exec .compositionStart s = .next t) : s.st ≤ t.st := by
  cases h
  dsimp only
  split
  · exact le_rfl
  · exact st_le_of_instant (composeNext_fp (fw := 6291455) rfl _ _ (onStm_fp rfl _ _ (Fp.refl _ _))) rfl

theorem budgetCompute_st_le {temps : List Nat} {meas : Nat} (h : exec (.budgetCompute temps meas) s = .next t) :
    s.st ≤ t.st := by
  cases h
  split
  · exact le_rfl
  · exact st_le_of_instant (sendBudget_fp (fw := 1315849) rfl _ _ _ _ (putBudget_fp rfl _ _ _ _ _ (Fp.refl _ _))) rfl

theorem cueMonFall_st_le (h : exec .cueMonFall s = .next t) : s.st ≤ t.st := by
  cases h
  split
  · exact le_max_left _ _
  · exact le_rfl

theorem holdoverExpiry_st_le (h : exec .holdoverExpiry s = .next t) : s.st ≤ t.st := by
  cases h
  split
  · exact st_le_of_instant (writeExit_fp (fw := 2^21 - 1) rfl _ (report_fp rfl _ _ _ _ (advance_fp _ (set_fp rfl _ _ _
      (Fp.refl _ _))))) rfl
  · exact le_rfl

theorem exitTimeout_st_le (h : exec .exitTimeout s = .next t) : s.st ≤ t.st := by
  cases h
  split
  · exact st_le_of_instant (drainedNow_fp (fw := 528385) rfl _ (set_fp rfl _ _ _ (Fp.refl _ _))) rfl
  · exact le_rfl

theorem watermarkDwellEnd_st_le {egress : Bool} (h : exec (.watermarkDwellEnd egress) s = .next t) : s.st ≤ t.st := by
  cases h
  split <;> exact st_le_of_instant (wmPin_fp (fw := 524288) rfl _ _ (Fp.refl _ _)) rfl

theorem sceneTimeout_st_le (h : exec .sceneTimeout s = .next t) : s.st ≤ t.st := by
  cases h
  split
  · split
    · exact st_le_of_instant (sceneFails_fp (fw := 1074177) rfl _ (Fp.refl _ _)) rfl
    · exact le_rfl
  · exact le_rfl

/-! The commands that set the clock before the first launch. -/

section
variable (hl : s.cue.launched = true)
include hl

theorem not_primaryStarts_of_launched : primaryStarts s = false := by simp [primaryStarts, hl]

theorem takeTod_st_le : s.st ≤ (takeTod s).st := by
  cases hn : s.cue.todNew with
  | false => rw [takeTod_misses hn, set_st]
  | true =>
    rw [takeTod_slews hn hl]
    exact (todTaken_st s).ge.trans (slewSt_st_le (set (todTaken s) Fld.cueStatusTodFar _) (todNext s))

theorem ppsEdge_st_le (h : exec .ppsEdge s = .next t) : s.st ≤ t.st := by
  cases h
  rw [if_neg (by simp [not_primaryStarts_of_launched hl] : ¬ primaryStarts s = true)]
  split
  · exact (takeTod_st_le hl).trans ((setFirst_fp (fw := 16) rfl _ (Fp.refl _ _)).st_le rfl)
  · exact le_rfl

theorem primaryRootTimeout_st_le (h : exec .primaryRootTimeout s = .next t) : s.st ≤ t.st := by
  cases h
  rw [if_neg (by simp [not_primaryStarts_of_launched hl] : ¬ primaryStarts s = true)]

theorem secondaryRootTimeout_st_le (h : exec .secondaryRootTimeout s = .next t) : s.st ≤ t.st := by
  cases h
  rw [startTime_of_launched hl, ite_self]
  split
  · exact le_rfl
  · exact (ite_fp (enterRoot_fp (fw := 17) rfl _ _ (Fp.refl _ s)) (Fp.refl _ s)).st_le rfl

theorem timeExchange_st_le {l : Fin 12} {m : TimeMsg} (h : exec (.timeExchange l m) s = .next t) : s.st ≤ t.st := by
  have hsend := sendTime_fp_out s l
  obtain ⟨-, hsent⟩ := hsend.cueNo rfl
  rw [hl] at hsent
  have hhear := hearRoot_fp (sendTime s l) l m
  obtain ⟨-, hheard⟩ := hhear.cueNo rfl
  rw [hsent] at hheard
  have hst : s.st ≤ (hearRoot (sendTime s l) l m).st := (hsend.st_le rfl).trans (hhear.st_le rfl)
  cases (exec_timeExchange l m s).symm.trans h
  dsimp only
  rw [yieldRoot_of_launched l m hsent, adoptClock_of_launched m hheard]
  split
  · exact le_rfl
  · split
    · exact hsend.st_le rfl
    · split
      · exact hst
      · rw [followParent_st]
        exact hst.trans (slewSt_st_le _ _)

end
end

/-- Settles O59: of the commands whose frame holds the time, those that stand for an instant take the later of two, and the corrections
of a device that has launched slew forwards. -/
theorem timeNeverFalls : Obligations.TimeNeverFalls := by
  intro c s t hl hr h
  by_cases ht : Part.time ∈ touches c
  · cases c with
    | heldRwsWriteLands => exact heldRwsWriteLands_st_le h
    | graceExpiry => exact graceExpiry_st_le h
    | cueLaunch => exact cueLaunch_st_le h
    | compositionStart => exact compositionStart_st_le h
    | budgetCompute => exact budgetCompute_st_le h
    | cueMonFall => exact cueMonFall_st_le h
    | ppsEdge => exact ppsEdge_st_le hl h
    | primaryRootTimeout => exact primaryRootTimeout_st_le hl h
    | secondaryRootTimeout => exact secondaryRootTimeout_st_le hl h
    | timeExchange => exact timeExchange_st_le hl h
    | holdoverExpiry => exact holdoverExpiry_st_le h
    | exitTimeout => exact exitTimeout_st_le h
    | watermarkDwellEnd => exact watermarkDwellEnd_st_le h
    | sceneTimeout => exact sceneTimeout_st_le h
    | coldPowerUp | supplyLoss | warmRst | warmResetFlushDone | silentSelfReset => exact nomatch hr
    | _ => exact absurd ht (of_decide_eq_false rfl)
  · obtain ⟨-, hsame⟩ := commandsTouchOnlyTheirParts c s t h
    have hst : t.st = s.st := hsame .time ht
    exact hst.ge

end Sys2Proof.Machine
end

section
/-!
OBLIGATION O32. The roots: each edge, and each end of a wait, by what it takes of CUE_TOD_NEXT.
-/
namespace Sys2Proof.Machine

section
variable {s : State}

/-- At the acting root an edge takes the time of day, and the first cue to launch follows from it. -/
theorem exec_ppsEdge_root (h : cueState s = 4) : exec .ppsEdge s = .next (setFirst (takeTod s)) :=
  congrArg Host.Outcome.next (if_pos h)

theorem rootless_of_primaryStarts (h : primaryStarts s = true) : cueState s ≠ 4 := by
  simp only [primaryStarts, Bool.and_eq_true, decide_eq_true_eq] at h
  omega

theorem not_launched_of_primaryStarts (h : primaryStarts s = true) : s.cue.launched = false := by
  simp only [primaryStarts, Bool.and_eq_true, Bool.not_eq_true'] at h
  exact h.2

theorem exec_ppsEdge_primary (h : primaryStarts s = true) :
    exec .ppsEdge s = .next (enterRoot (takeTod (startTime s)) true) :=
  congrArg Host.Outcome.next ((if_neg (rootless_of_primaryStarts h)).trans (if_pos h))

theorem tooFar_iff (a b : Nat) : tooFar a b = true ↔ b + 1000000000 < a ∨ a + 1000000000 < b := by
  simp only [tooFar, decide_eq_true_eq]
  omega

theorem todTaken_shown (s : State) : get (todTaken s) Fld.cueStatusPpsLost = 0 ∧ (todTaken s).cue.todNew = false :=
  ⟨get_set_of_lt s Fld.cueStatusPpsLost 0 (by decide), rfl⟩

theorem ppsEdge_steps (h : cueState s = 4) (hl : s.cue.launched = false) (hn : s.cue.todNew = true) :
    ∃ t, exec .ppsEdge s = .next t ∧ t.st = todNext s ∧ get t Fld.cueStatusPpsLost = 0 ∧ t.cue.todNew = false := by
  obtain ⟨n, hcue⟩ := setFirst_cue (takeTod s)
  refine ⟨_, exec_ppsEdge_root h, (setFirst_fp_cue _).st rfl |>.trans ?_, (get_setFirst _ _).trans ?_, ?_⟩
  · rw [takeTod_steps hn hl]
    rfl
  · rw [takeTod_steps hn hl]
    exact (todTaken_shown s).1
  · rw [hcue, takeTod_steps hn hl]
    rfl

theorem ppsEdge_slews (h : cueState s = 4) (hl : s.cue.launched = true) (hn : s.cue.todNew = true) :
    ∃ t, exec .ppsEdge s = .next t ∧ t.st = s.st + min (todNext s - s.st) ((s.st - s.cue.slewFrom) * 50 / 1000000) ∧
      t.cue.slewFrom = s.st ∧ get t Fld.cueStatusPpsLost = 0 ∧ t.cue.todNew = false ∧
      (get t Fld.cueStatusTodFar = 1 ↔ s.st + 1000000000 < todNext s ∨ todNext s + 1000000000 < s.st) := by
  obtain ⟨n, hcue⟩ := setFirst_cue (takeTod s)
  have hslew := takeTod_slews hn hl
  refine ⟨_, exec_ppsEdge_root h, (setFirst_fp_cue _).st rfl |>.trans ?_, ?_, (get_setFirst _ _).trans ?_, ?_, ?_⟩
  · rw [hslew, slewSt_st, set_st, set_cue, todTaken_st, todTaken_slewFrom]
  · rw [hcue, hslew, slewSt_slewFrom, set_st, todTaken_st]
  · rw [hslew, get_slewSt]
    exact (get_set_other _ _ _ _ (by decide)).trans (todTaken_shown s).1
  · rw [hcue, hslew, slewSt_todNew]
    exact (todTaken_shown s).2
  · rw [get_setFirst, hslew, get_slewSt, ← tooFar_iff]
    refine (Eq.congr_left (get_set_same (todTaken s) Fld.cueStatusTodFar (b2n (tooFar (todNext s) s.st)))).trans ?_
    cases tooFar (todNext s) s.st <;> decide

theorem ppsEdge_misses (h : cueState s = 4) (hn : s.cue.todNew = false) :
    ∃ t, exec .ppsEdge s = .next t ∧ t.st = s.st ∧ get t Fld.cueStatusPpsLost = 1 := by
  refine ⟨_, exec_ppsEdge_root h, (setFirst_fp_cue _).st rfl |>.trans ?_, (get_setFirst _ _).trans ?_⟩
  · rw [takeTod_misses hn, set_st]
  · rw [takeTod_misses hn]
    exact get_set_of_lt s Fld.cueStatusPpsLost 1 (by decide)

/-- PPS_LOST is none of the registers that a root's entry writes. -/
theorem ppsLost_enterRoot (s : State) (b : Bool) :
    get (enterRoot s b) Fld.cueStatusPpsLost = get s Fld.cueStatusPpsLost :=
  get_enterRoot_other s b (by decide) (by decide) (by decide)

theorem ppsEdge_starts_primary (h : primaryStarts s = true) :
    ∃ t, exec .ppsEdge s = .next t ∧ cueState t = 4 ∧ get t Fld.cueStatusParent = 0xF ∧ t.cue.rootPrimary = true ∧
      (s.cue.todNew = true → t.st = todNext s ∧ get t Fld.cueStatusPpsLost = 0) ∧
      (s.cue.todNew = false → get t Fld.cueStatusPpsLost = 1 ∧ t.st = if todNext s = 0 then 0 else s.st) := by
  obtain ⟨hstate, hparent, hprimary⟩ := enterRoot_state (takeTod (startTime s)) true
  have hl := not_launched_of_primaryStarts h
  refine ⟨_, exec_ppsEdge_primary h, hstate, hparent, hprimary, fun hn => ?_, fun hn => ?_⟩
  · rw [enterRoot_st, ppsLost_enterRoot, startTime_of_todNew hn, takeTod_steps hn hl]
    exact ⟨rfl, (todTaken_shown s).1⟩
  · have hstart : (startTime s).cue.todNew = false := by rw [(startTime_fp_time s).cue rfl, hn]
    rw [enterRoot_st, ppsLost_enterRoot, takeTod_misses hstart, set_st, startTime_st hl hn]
    exact ⟨get_set_of_lt _ Fld.cueStatusPpsLost 1 (by decide), rfl⟩

theorem ppsTimeout_tells (h : cueState s = 4) :
    ∃ t, exec .ppsTimeout s = .next t ∧ get t Fld.cueStatusPpsLost = 1 ∧ t.cue = s.cue :=
  ⟨_, congrArg Host.Outcome.next (if_pos h), get_set_of_lt s Fld.cueStatusPpsLost 1 (by decide), rfl⟩

theorem primaryRootTimeout_enters (h : primaryStarts s = true) :
    ∃ t, exec .primaryRootTimeout s = .next t ∧ cueState t = 4 ∧ get t Fld.cueStatusPpsLost = 1 ∧
      get t Fld.cueStatusParent = 0xF ∧ t.cue.rootPrimary = true := by
  obtain ⟨hstate, hparent, hprimary⟩ := enterRoot_state (set (startTime s) Fld.cueStatusPpsLost 1) true
  refine ⟨_, congrArg Host.Outcome.next (if_pos h), hstate, ?_, hparent, hprimary⟩
  rw [ppsLost_enterRoot]
  exact get_set_of_lt _ Fld.cueStatusPpsLost 1 (by decide)

theorem secondaryRootTimeout_enters {p : Plot} (hp : s.spl.active = some p) (hb : booted s = true) (hr : isRoot s false = true)
    (hpeer : (topoOf s p.rootPrimary).state ≠ 1) (hc : cueState s = 0 ∨ cueState s = 2) :
    ∃ t, exec .secondaryRootTimeout s = .next t ∧ cueState t = 4 ∧ get t Fld.cueStatusParent = 0xF ∧
      t.cue.rootPrimary = false := by
  refine ⟨_, ?_, enterRoot_state (if s.cue.anchored then s else startTime s) false⟩
  change execSecondaryRootTimeout s = _
  simp [execSecondaryRootTimeout, hp, hb, hr, hpeer, hc]

end

/-- Settles O32: at the acting root CUE_TOD_NEXT and the first launch decide what an edge takes; a root's entry keeps what was taken. -/
theorem rootsKeepTime : Obligations.RootsKeepTime :=
  ⟨fun _ => ppsEdge_steps, fun _ => ppsEdge_slews, fun _ => ppsEdge_misses, fun _ => ppsEdge_starts_primary,
    fun _ => ppsTimeout_tells, fun _ => primaryRootTimeout_enters, fun _ _ => secondaryRootTimeout_enters⟩

end Sys2Proof.Machine
end

section
/-!
OBLIGATION O33. Time exchanges, the lock, the holdover, period requests and CUE_MON: each command's guard decides.
-/
namespace Sys2Proof.Machine

section
variable {s : State} {link : Fin 12} {m : TimeMsg}

theorem sendTime_keeps (l : Nat) (s : State) :
    (sendTime s l).cue = s.cue ∧ (sendTime s l).st = s.st ∧ (sendTime s l).regs = s.regs := by
  have h := sendTime_fp_out s l
  exact ⟨h.cue rfl, h.st rfl, h.regs rfl⟩

theorem get_sendTime (s : State) (l : Nat) (f : Fld) : get (sendTime s l) f = get s f :=
  get_congr ((sendTime_fp_out s l).regs rfl) f

theorem sendTime_cue (s : State) (l : Nat) : (sendTime s l).cue = s.cue := (sendTime_keeps l s).1

theorem cueState_sendTime (s : State) (l : Nat) : cueState (sendTime s l) = cueState s := get_sendTime s l _

theorem isRoot_congr {s t : State} (hspl : t.spl = s.spl) (hregs : t.regs = s.regs) (b : Bool) : isRoot t b = isRoot s b := by
  unfold isRoot selfDev
  rw [hspl, get_congr hregs]

/-- Only a primary in ROOT that has launched no cue gives way, and only to the secondary (R243). -/
theorem yieldRoot_of_stays (h : cueState s ≠ 4 ∨ s.cue.launched = true ∨ isRoot s true = false ∨ m.rootPrimary = true) (l : Nat) :
    yieldRoot s l m = s := by
  refine if_neg fun ⟨hstate, hlaunched, hroot, hprimary⟩ => ?_
  rcases h with h | h | h | h
  · exact h hstate
  · exact Bool.false_ne_true (hlaunched.symm.trans h)
  · exact Bool.false_ne_true (h.symm.trans hroot)
  · exact Bool.false_ne_true (hprimary.symm.trans h)

theorem timeExchange_ignored (h : cueState s = 3 ∨ linkRuns s link = false ∨ booted s = false) :
    exec (.timeExchange link m) s = .next s := by
  rw [exec_timeExchange]
  exact congrArg _ (if_pos (by rcases h with h | h | h <;> simp [h]))

/-- A booted device that follows answers, and takes the exchange of its parent alone. -/
theorem exec_timeExchange_follower (hb : booted s = true) (hl : linkRuns s link = true) (h₃ : cueState s ≠ 3)
    (h₄ : cueState s ≠ 4) : exec (.timeExchange link m) s = .next
      (let w := hearRoot (sendTime s link) link m
        if get w Fld.cueStatusParent ≠ link then w else followParent (adoptClock w m) link m) := by
  have hsent : cueState (sendTime s link) ≠ 4 := by rwa [cueState_sendTime]
  rw [exec_timeExchange, if_neg (by simp [hb, hl, h₃]), yieldRoot_of_stays (.inl hsent)]
  dsimp only
  rw [if_neg hsent]

/-- An exchange that names the root this device knows moves nothing of the time tree. -/
theorem hearRoot_of_same (h : s.cue.rootPrimary = m.rootPrimary) (l : Nat) : hearRoot s l m = s := by
  unfold hearRoot takeRoot
  rw [if_pos h, ite_self]

/-- The parent's exchange, of the root this device knows. -/
theorem exec_timeExchange_parent (hb : booted s = true) (hl : linkRuns s link = true) (h₃ : cueState s ≠ 3)
    (h₄ : cueState s ≠ 4) (hp : get s Fld.cueStatusParent = link) (hr : s.cue.rootPrimary = m.rootPrimary) :
    exec (.timeExchange link m) s = .next (followParent (adoptClock (sendTime s link) m) link m) := by
  have hsame : hearRoot (sendTime s link) link m = sendTime s link :=
    hearRoot_of_same (by rw [sendTime_cue, hr]) link
  rw [exec_timeExchange_follower hb hl h₃ h₄, hsame]
  exact congrArg _ (if_neg (not_not.2 ((get_sendTime s link _).trans hp)))

theorem timeExchange_parent (hb : booted s = true) (hl : linkRuns s link = true) (h₃ : cueState s ≠ 3)
    (h₄ : cueState s ≠ 4) (hp : get s Fld.cueStatusParent = link) (hr : s.cue.rootPrimary = m.rootPrimary) :
    let u := sendTime s link
    (s.cue.launched = false → s.cue.anchored = true → exec (.timeExchange link m) s =
      .next (setFirst (lockStep (takeAnchor u m) (exchangeOffset u link m.offPs)))) ∧
    (s.cue.launched = false → s.cue.anchored = false → exec (.timeExchange link m) s =
      .next (let w := putAnchor (stepSt u m.st) m.anchorCue m.anchorSt m.period
        setFirst (lockStep (takeAnchor w m) (exchangeOffset w link m.offPs)))) ∧
    (s.cue.launched = true → exec (.timeExchange link m) s =
      .next (setFirst (lockStep (takeAnchor (slewSt u m.st) m) (exchangeOffset (slewSt u m.st) link m.offPs)))) := by
  have hexec := exec_timeExchange_parent (m := m) hb hl h₃ h₄ hp hr
  have hcue := sendTime_cue s link
  refine ⟨fun hl ha => ?_, fun hl ha => ?_, fun hl => ?_⟩
  · rw [hexec, adoptClock_of_anchored m (by rw [hcue, hl]) (by rw [hcue, ha])]
    rfl
  · rw [hexec, adoptClock_of_new m (by rw [hcue, hl]) (by rw [hcue, ha])]
    rfl
  · rw [hexec, adoptClock_of_launched m (by rw [hcue, hl])]
    rfl

theorem takeAnchor_of_same (hc : s.cue.anchorCue = m.anchorCue) (ht : s.cue.anchorSt = m.anchorSt)
    (hp : get s Fld.cuePeriodNsV = m.period) : takeAnchor s m = s := if_pos (.inl (by rw [hc, ht, hp]))

theorem timeExchange_other_link (hb : booted s = true) (hl : linkRuns s link = true) (h₃ : cueState s ≠ 3)
    (h₄ : cueState s ≠ 4) (hp : get s Fld.cueStatusParent ≠ link) (hnone : get s Fld.cueStatusParent ≠ 0xF) :
    exec (.timeExchange link m) s = .next (sendTime s link) := by
  have hparent := get_sendTime s link Fld.cueStatusParent
  have hsame : hearRoot (sendTime s link) link m = sendTime s link := if_neg (by simp [hparent, hp, hnone])
  rw [exec_timeExchange_follower hb hl h₃ h₄, hsame]
  exact congrArg _ (if_pos (by rwa [hparent]))

theorem timeExchange_root (hb : booted s = true) (hl : linkRuns s link = true) (h₄ : cueState s = 4)
    (h : s.cue.launched = true ∨ isRoot s true = false ∨ m.rootPrimary = true) :
    exec (.timeExchange link m) s = .next (sendTime s link) := by
  have hfp := sendTime_fp_out s link
  have hstays : s.cue.launched = true ∨ isRoot (sendTime s link) true = false ∨ m.rootPrimary = true := by
    rwa [isRoot_congr (hfp.spl rfl) (hfp.regs rfl)]
  rw [← sendTime_cue s link] at hstays
  rw [exec_timeExchange, if_neg (by simp [hb, hl, h₄]), yieldRoot_of_stays (.inr hstays)]
  exact congrArg _ (if_pos ((cueState_sendTime s link).trans h₄))

end

/-! The lock (Table CUE-2). -/

/-- The sixteenth exchange within LOCK_PS locks. -/
theorem lockStep_locks {s : State} {off : Int} (ho : off.natAbs ≤ getA s Fld.cueLockLockPs) (hrun : s.cue.inRun = 15)
    (hc : cueState s = 0 ∨ cueState s = 2) : cueState (lockStep s off) = 1 := by
  have hlocks : 16 ≤ s.cue.inRun + 1 ∧ cueState s ∈ [0, 2] := ⟨by omega, by simpa using hc⟩
  rw [show lockStep s off = _ from (if_pos ho).trans (if_pos hlocks)]
  exact get_set_of_lt _ Fld.cueStatusState 1 (by decide)

/-- CUE_OFFSET is a register of its own. -/
theorem cueState_noteOffset (s : State) (off : Int) : cueState (noteOffset s off) = cueState s :=
  get_set_other _ _ _ _ (by decide)

/-- The third exchange beyond LOSS_NS leaves LOCKED for HOLDOVER, from now on. -/
theorem lockStep_loses {s : State} {off : Int} (ho : getA s Fld.cueLockLockPs < off.natAbs)
    (hloss : getA s Fld.cueLockLossNs * 1000 < off.natAbs) (hrun : s.cue.outRun = 2) (hc : cueState s = 1) :
    ∃ u, lockStep s off = report u 0x0301 0xFFFF (fresh s % 2 ^ 32) ∧ cueState u = 2 ∧ u.cue.holdoverSt = s.st := by
  have hlocked : cueState (setRuns (noteOffset s off) 0 0) = 1 := (cueState_noteOffset s off).trans hc
  have hlost : loseLock (setRuns (noteOffset s off) 0 0) = _ := if_pos hlocked
  refine ⟨advance (loseLock (setRuns (noteOffset s off) 0 0)), ?_, ?_, ?_⟩
  · exact (if_neg (Nat.not_le.2 ho)).trans ((if_pos hloss).trans ((if_neg (by omega)).trans (if_pos hc)))
  · rw [hlost]
    exact get_set_of_lt _ Fld.cueStatusState 2 (by decide)
  · rw [hlost]
    rfl

theorem holdoverExpiry_exits {s : State} (hc : cueState s = 2) :
    ∃ u, exec .holdoverExpiry s = .next (writeExit (report u 0x0302 0xFFFF (fresh s % 2 ^ 32))) ∧ cueState u = 3 ∧
      s.cue.holdoverSt + max 1 (getA s Fld.cueLockHoldoverMs) * 1000000 ≤ u.st :=
  ⟨advance (set (s.setSt (max s.st (s.cue.holdoverSt + max 1 (getA s Fld.cueLockHoldoverMs) * 1000000))) Fld.cueStatusState 3),
    congrArg Host.Outcome.next (if_pos hc), get_set_of_lt _ Fld.cueStatusState 3 (by decide), le_max_right _ _⟩

/-! Period requests (R229 to R231). -/

section
variable {v : Word} {s u : State} (hu : set (commandWord s 0 Fld.cuePeriodAtHiV.off v) Fld.cuePeriodAtHiV v.toNat = u)
  (hr : reaches s 0 Fld.cuePeriodAtHiV.off = true)
include hu hr

theorem exec_periodRequest : exec (.periodRequest v) s = .next
    (if !periodOk (get u Fld.cuePeriodNextV) || decide (periodAt u < cueNum u + 16) ||
        u.cue.pendAnchor.any (fun a => decide (cueNum u < a.1)) then set u Fld.cueStatusPeriodErr 1
      else sendTimes (u.onCue fun c => { c with
        pendAnchor := some (periodAt u, launchSt u (periodAt u), get u Fld.cuePeriodNextV) })) := by
  subst hu
  exact congrArg Host.Outcome.next (if_neg (by simp [hr]))

theorem periodRequest_announced (hok : periodOk (get u Fld.cuePeriodNextV) = true) (hn : cueNum u + 16 ≤ periodAt u)
    (ha : ∀ a, u.cue.pendAnchor = some a → a.1 ≤ cueNum u) : ∃ t, exec (.periodRequest v) s = .next t ∧
      t.cue.pendAnchor = some (periodAt u, launchSt u (periodAt u), get u Fld.cuePeriodNextV) := by
  have hnone : u.cue.pendAnchor.any (fun a => decide (cueNum u < a.1)) = false := by
    rw [Option.any_eq_false_iff_get]
    intro hsome
    exact decide_eq_false (Nat.not_lt.2 (ha _ (Option.some_get hsome).symm))
  refine ⟨_, (exec_periodRequest hu hr).trans (congrArg _ (if_neg (by simp [hok, hnone, hn]))), ?_⟩
  rw [(sendTimes_fp rfl _ (Fp.refl 1048576 _)).cue rfl]
  rfl

theorem periodRequest_refused (h : periodOk (get u Fld.cuePeriodNextV) = false ∨ periodAt u < cueNum u + 16 ∨
    ∃ a, u.cue.pendAnchor = some a ∧ cueNum u < a.1) :
    ∃ t, exec (.periodRequest v) s = .next t ∧ get t Fld.cueStatusPeriodErr = 1 ∧ t.cue = u.cue := by
  refine ⟨_, (exec_periodRequest hu hr).trans (congrArg _ (if_pos ?_)), get_set_of_lt u Fld.cueStatusPeriodErr 1 (by decide),
    rfl⟩
  rcases h with h | h | ⟨a, ha, h⟩
  · simp [h]
  · simp [h]
  · simp [ha, h]

end

theorem cueMonFall_falls {r : Nat} {s : State} (h : s.cue.monSt = some r) :
    ∃ t, exec .cueMonFall s = .next t ∧ t.brd.monPin = false ∧ t.cue.monSt = none ∧ r + 1024 ≤ t.st := by
  refine ⟨((s.setSt (max s.st (r + 1024))).onCue fun c => { c with monSt := none }).onBrd fun b => { b with monPin := false },
    ?_, rfl, rfl, le_max_right _ _⟩
  change execCueMonFall s = _
  rw [execCueMonFall, h]

/-- Settles O33: the state, the link and the parent decide what an exchange does, and the offset what becomes of the lock. -/
theorem cueLineComplete : Obligations.CueLineComplete :=
  ⟨sendTime_keeps, fun _ _ _ => timeExchange_ignored, fun _ _ _ => timeExchange_parent, fun _ _ => takeAnchor_of_same,
    fun _ _ _ => timeExchange_other_link, fun _ _ _ => timeExchange_root, fun _ _ => lockStep_locks, fun _ _ => lockStep_loses,
    fun _ => holdoverExpiry_exits, fun _ _ hr => ⟨periodRequest_announced rfl hr, periodRequest_refused rfl hr⟩,
    fun _ _ => cueMonFall_falls⟩

end Sys2Proof.Machine
end

section
/-!
OBLIGATION O34. The temperature sensor: the hottest junction against the alert and the trip.
-/
namespace Sys2Proof.Machine

section
variable {temps : List Nat} {s : State} {h : Nat} (hmax : temps.foldl max 0 = h)

theorem noteTemp_alert (ha : getA s Fld.lgtThermAlert ≤ h) : get (noteTemp s h) Fld.lgtStatusAlert = 1 ∧
    (noteTemp s h).brd.thermPin = true ∧ get (noteTemp s h) Fld.lgtTempT = h % 2 ^ Fld.lgtTempT.width := by
  rw [show noteTemp s h = _ from if_pos ha]
  exact ⟨get_set_of_lt _ Fld.lgtStatusAlert 1 (by decide), rfl,
    (get_set_other _ _ _ _ (by decide)).trans (get_set_same s Fld.lgtTempT h)⟩

theorem noteTemp_cool (ha : h + 40 ≤ getA s Fld.lgtThermAlert) : get (noteTemp s h) Fld.lgtStatusAlert = 0 ∧
    (noteTemp s h).brd.thermPin = false := by
  rw [show noteTemp s h = _ from (if_neg (by omega)).trans (if_pos ha)]
  exact ⟨get_set_of_lt _ Fld.lgtStatusAlert 0 (by decide), rfl⟩

theorem noteTemp_between (h₁ : h < getA s Fld.lgtThermAlert) (h₂ : getA s Fld.lgtThermAlert < h + 40) :
    noteTemp s h = set s Fld.lgtTempT h := (if_neg (by omega)).trans (if_neg (by omega))

include hmax

theorem exec_tempSample_below (ht : h < 880 ∨ s.lgt.trip = true) : exec (.tempSample temps) s = .next (noteTemp s h) := by
  subst hmax
  exact congrArg Host.Outcome.next (if_neg fun ⟨hhot, hnot⟩ => ht.elim (by omega) fun h => by simp [hnot] at h)

theorem tempSample_trips (hhot : 880 ≤ h) (ht : s.lgt.trip = false) : ∃ u, exec (.tempSample temps) s = .next (tripFall
    (writeExit (report u 0x0C02 (temps.findIdx fun x => x = h) (fresh (noteTemp s h) % 2 ^ 32)))) ∧ u.lgt.trip = true ∧
      u.lgt.throttle = true ∧ get u Fld.lgtStatusTrip = 1 := by
  subst hmax
  refine ⟨advance (tripOn (noteTemp s (temps.foldl max 0))), congrArg Host.Outcome.next (if_pos ⟨hhot, ht⟩), rfl, rfl, ?_⟩
  exact (get_set_other _ _ _ _ (by decide)).trans (get_set_of_lt _ Fld.lgtStatusTrip 1 (by decide))

end

/-- Settles O34: the alert is the sample's alone, and the trip comes at 110 °C on a device that has not tripped. -/
theorem temperatureCompletes : Obligations.TemperatureCompletes :=
  fun _ _ => ⟨fun ha ht => ⟨_, exec_tempSample_below rfl ht, noteTemp_alert ha⟩,
    fun ha ht => ⟨_, exec_tempSample_below rfl ht, noteTemp_cool ha⟩,
    fun h₁ h₂ ht => (exec_tempSample_below rfl ht).trans (congrArg _ (noteTemp_between h₁ h₂)),
    tempSample_trips rfl⟩

end Sys2Proof.Machine
end

section
/-!
OBLIGATION O1. A whole word written to a register with no side effects: each field acts by its access code on what it stores.
-/
namespace Sys2Proof.Machine

/-! A word and its fields. -/

theorem exec_registerWrite_word {fn : Fin 128} {off : Nat} {v : Word} {s : State} (hw : writable s fn.val off = true)
    (hr : roleDenied s fn.val off = none) (hf : fieldsAt fn.val off ≠ []) :
    exec (.registerWrite fn off 0xF#4 v) s = .next (writeWord s fn.val off v) := by
  refine congrArg Host.Outcome.next ((if_pos rfl).trans ?_)
  rw [commandWord, if_pos (by simp [hw, hf]), hr]

theorem exec_registerWrite_denied {fn : Fin 128} {off : Nat} {v : Word} {s t : State} (hw : writable s fn.val off = true)
    (hr : roleDenied s fn.val off = some t) (hf : fieldsAt fn.val off ≠ []) :
    exec (.registerWrite fn off 0xF#4 v) s = .next t := by
  refine congrArg Host.Outcome.next ((if_pos rfl).trans ?_)
  rw [commandWord, if_pos (by simp [hw, hf]), hr]

/-- With no write held there is none to land. -/
theorem landHeld_of_none {s : State} (h : s.spl.heldRws = []) : landHeld s = s := by
  unfold landHeld
  rw [h, List.foldl_nil, show (s.onSpl fun p => { p with heldRws := [] }) = s from ?_, ite_self]
  rw [← h]
  rfl

/-- A word with no RWS field is not held. -/
theorem holdRws_of_no_rws {s : State} {v : Word} {fs : List Fld} (h : ∀ f ∈ fs, f.acc ≠ .rws) : holdRws s v fs = s := by
  have hnone : fs.filter (fun f => f.acc = .rws && (takes s (stored s f) (carried f v)).1) = [] :=
    List.filter_eq_nil_iff.2 fun f hf => by simp [h f hf]
  simp [holdRws, hnone]

theorem sealedAudit_of_unsealed {s : State} {fn off : Nat} {fs : List Fld} {v : Word}
    (h : sealedMode s = false ∨ ∀ f ∈ fs, f.acc ≠ .rwl) : sealedAudit s fn off fs v = s := by
  refine if_neg fun hc => ?_
  rw [Bool.and_eq_true, List.any_eq_true] at hc
  obtain ⟨hsealed, f, hf, hchanged⟩ := hc
  rcases h with h | h
  · exact Bool.false_ne_true (h.symm.trans hsealed)
  · simp [h f hf] at hchanged

/-- The registers of the PF that no operation follows: no ring, host queue, FAULT_N, CUE_TOD_NEXT_HI or STM_CTL. -/
def PlainReg (off : Nat) : Prop :=
  inWindow 0 off = false ∧ off ∉ [0x1700000, 0x1700004, 0x300034, 0x200000] ∧ ¬(0xE00100 ≤ off ∧ off < 0xE00180)

theorem afterWrite_plain {off : Nat} (h : PlainReg off) (s₀ s : State) : afterWrite s₀ s 0 off = s := by
  obtain ⟨hwin, hoff, hhq⟩ := h
  simp only [List.mem_cons, List.not_mem_nil, or_false, not_or] at hoff
  obtain ⟨hfault, hfault', htod, hstm⟩ := hoff
  unfold afterWrite
  simp only [hwin, Bool.false_eq_true, if_false]
  refine (if_neg fun c => c.2.elim hfault hfault').trans ((if_neg fun c => htod c.2).trans ((if_neg fun c => hstm c.2.1).trans
    (if_neg ?_)))
  rintro ⟨-, hlo, hhi, -⟩
  exact hhq ⟨hlo, hhi⟩

/-- On a plain register with neither RWS nor locked fields a word is what its fields do. -/
theorem writeWord_plain {off : Nat} {v : Word} {s : State} {fs : List Fld} (h : PlainReg off) (hheld : s.spl.heldRws = [])
    (hfs : (fieldsAt 0 off).filter (fun f => !ownRow f) = fs) (hrws : ∀ f ∈ fs, f.acc ≠ .rws)
    (hrwl : sealedMode s = false ∨ ∀ f ∈ fs, f.acc ≠ .rwl) : writeWord s 0 off v = fs.foldl (writeField s v) s := by
  simp only [writeWord, landHeld_of_none hheld, hfs, holdRws_of_no_rws hrws, sealedAudit_of_unsealed hrwl, afterWrite_plain h]

/-! One field. -/

theorem writeField_rw {s : State} {f : Fld} {v : Word} (ha : f.acc = .rw ∨ f.acc = .rwl ∧ sealedMode s = false)
    (ht : (takes s (stored s f) (carried f v)).1 = true) : writeField s v s f = set s (stored s f) (carried f v) := by
  have htaken : setTaken s s (stored s f) (carried f v) = set s (stored s f) (carried f v) := if_pos ht
  rcases ha with ha | ⟨ha, hs⟩
  · simp only [writeField, ha, htaken]
  · simp only [writeField, ha, hs, htaken, Bool.false_eq_true, if_false]

theorem writeField_ctrAny {s₀ s : State} {f : Fld} {v : Word} (ha : f.acc = .ctrAny) :
    writeField s₀ v s f = set s (stored s₀ f) 0 := by simp only [writeField, ha]

theorem writeField_w1c {s₀ s : State} {f : Fld} {v : Word} (ha : f.acc = .w1c) : writeField s₀ v s f =
    set s (stored s₀ f) (Nat.land (get s (stored s₀ f)) (Nat.xor (carried f v) (2 ^ (stored s₀ f).width - 1))) := by
  simp only [writeField, ha]

theorem writeField_w1s {s₀ s : State} {f : Fld} {v : Word} (ha : f.acc = .w1s) : writeField s₀ v s f =
    set s (stored s₀ f) (Nat.lor (get s (stored s₀ f)) (carried f v)) := by simp only [writeField, ha]

/-- To clear the same bits of a field again changes nothing. -/
theorem land_land_mod (x m w : Nat) : Nat.land (Nat.land x m % 2 ^ w) m % 2 ^ w = Nat.land x m % 2 ^ w := by
  change ((x &&& m) % 2 ^ w &&& m) % 2 ^ w = (x &&& m) % 2 ^ w
  refine Nat.eq_of_testBit_eq fun i => ?_
  simp only [Nat.testBit_mod_two_pow, Nat.testBit_and]
  cases decide (i < w) <;> simp

/-- Among W1C fields with keys of their own each keeps its old value without the bits written 1. -/
theorem get_foldl_w1c {s₀ : State} {v : Word} {f : Fld} (fs : List Fld) (hfs : ∀ g ∈ fs, g.acc = .w1c ∧
    ((stored s₀ g).key = (stored s₀ f).key → g = f)) (s : State) :
    get (fs.foldl (writeField s₀ v) s) (stored s₀ f) = if f ∈ fs then
      Nat.land (get s (stored s₀ f)) (Nat.xor (carried f v) (2 ^ (stored s₀ f).width - 1)) % 2 ^ (stored s₀ f).width
      else get s (stored s₀ f) := by
  induction fs generalizing s with
  | nil => rfl
  | cons g fs ih =>
    obtain ⟨⟨hacc, hkey⟩, hrest⟩ := List.forall_mem_cons.1 hfs
    rw [List.foldl_cons, ih hrest, writeField_w1c hacc]
    by_cases hg : g = f
    · subst hg
      rw [get_set_same, land_land_mod, if_pos List.mem_cons_self, ite_self]
    · rw [get_set_other _ _ _ _ fun h => hg (hkey h.symm)]
      simp only [List.mem_cons, Ne.symm hg, false_or]

/-! REGISTER_WRITE. -/

section
variable {off : Nat} {v : Word} {s : State} {f : Fld} (hw : writable s 0 off = true) (hr : roleDenied s 0 off = none)
  (hplain : PlainReg off) (hheld : s.spl.heldRws = [])
include hw hr hplain hheld

theorem registerWrite_single (hfs : fieldsAt 0 off = [f]) (hown : ownRow f = false) (hrws : f.acc ≠ .rws)
    (hrwl : sealedMode s = false ∨ f.acc ≠ .rwl) : exec (.registerWrite 0 off 0xF#4 v) s = .next (writeField s v s f) := by
  refine (exec_registerWrite_word (fn := 0) hw hr (by simp [hfs])).trans (congrArg _ ?_)
  rw [show ((0 : Fin 128).val) = 0 from rfl, writeWord_plain (fs := [f]) hplain hheld (by simp [hfs, hown]) (by simpa using hrws)
    (by simpa using hrwl)]
  rfl

theorem registerWrite_field (hfs : fieldsAt 0 off = [f]) (hown : ownRow f = false) :
    ((f.acc = .rw ∨ f.acc = .rwl ∧ sealedMode s = false) → (takes s (stored s f) (carried f v)).1 = true →
      ∃ t, exec (.registerWrite 0 off 0xF#4 v) s = .next t ∧ get t (stored s f) = carried f v % 2 ^ (stored s f).width) ∧
    (f.acc = .ctrAny → ∃ t, exec (.registerWrite 0 off 0xF#4 v) s = .next t ∧ get t (stored s f) = 0) := by
  refine ⟨fun ha ht => ⟨_, registerWrite_single hw hr hplain hheld hfs hown ?_ ?_, ?_⟩,
    fun ha => ⟨_, registerWrite_single hw hr hplain hheld hfs hown (by simp [ha]) (.inr (by simp [ha])), ?_⟩⟩
  · rcases ha with ha | ⟨ha, -⟩ <;> simp [ha]
  · exact ha.elim (fun ha => .inr (by simp [ha])) fun ha => .inl ha.2
  · rw [writeField_rw ha ht, get_set_same]
  · rw [writeField_ctrAny ha, get_set_same, Nat.zero_mod]

theorem registerWrite_w1c (hf : f ∈ fieldsAt 0 off) (hall : ∀ g ∈ fieldsAt 0 off, g.acc = .w1c ∧ ownRow g = false ∧
    ((stored s g).key = (stored s f).key → g = f)) :
    ∃ t, exec (.registerWrite 0 off 0xF#4 v) s = .next t ∧ get t (stored s f) =
      Nat.land (get s (stored s f)) (Nat.xor (carried f v) (2 ^ (stored s f).width - 1)) % 2 ^ (stored s f).width := by
  have hfs : (fieldsAt 0 off).filter (fun f => !ownRow f) = fieldsAt 0 off :=
    List.filter_eq_self.2 fun g hg => by simp [(hall g hg).2.1]
  have hword : writeWord s 0 off v = (fieldsAt 0 off).foldl (writeField s v) s :=
    writeWord_plain hplain hheld hfs (fun g hg => by simp [(hall g hg).1]) (.inr fun g hg => by simp [(hall g hg).1])
  refine ⟨_, exec_registerWrite_word (fn := 0) hw hr (List.ne_nil_of_mem hf), ?_⟩
  rw [show ((0 : Fin 128).val) = 0 from rfl, hword, get_foldl_w1c _ fun g hg => ⟨(hall g hg).1, (hall g hg).2.2⟩, if_pos hf]

end

/-- The registers that one role alone writes tell another one's writer so (R231, R404, R463). -/
theorem registerWrite_wrong_role {off : Nat} {v : Word} {s : State} (hw : writable s 0 off = true) :
    (off ∈ [0xA00080, 0xA00084, 0xA00088] → isLead s = false →
      exec (.registerWrite 0 off 0xF#4 v) s = .next (set s Fld.prmLoadStatusResult 7)) ∧
    (off = 0xC00008 → isLead s = false → exec (.registerWrite 0 off 0xF#4 v) s = .next (set s Fld.wdrLoadStatusResult 6)) ∧
    (off ∈ [0x300024, 0x300028, 0x30002C] → get s Fld.cueStatusState ≠ 4 →
      exec (.registerWrite 0 off 0xF#4 v) s = .next (set s Fld.cueStatusPeriodErr 1)) := by
  have hfields : ∀ o ∈ [0xA00080, 0xA00084, 0xA00088, 0xC00008, 0x300024, 0x300028, 0x30002C], fieldsAt 0 o ≠ [] := by
    decide
  refine ⟨fun ho hl => ?_, fun ho hl => ?_, fun ho hc => ?_⟩
  · refine exec_registerWrite_denied (fn := 0) hw ?_ (hfields off (by simp at ho ⊢; omega))
    exact (if_neg (by decide)).trans (if_pos ⟨by simpa using ho, hl⟩)
  · subst ho
    exact exec_registerWrite_denied (fn := 0) hw (by simp [roleDenied, hl]) (hfields _ (by decide))
  · refine exec_registerWrite_denied (fn := 0) hw ?_ (hfields off (by simp at ho ⊢; omega))
    simp only [List.mem_cons, List.not_mem_nil, or_false] at ho
    have hnotPrm : ¬ (off = 0xA00080 ∨ off = 0xA00084 ∨ off = 0xA00088) := by omega
    have hnotWdr : off ≠ 0xC00008 := by omega
    simp [roleDenied, hnotPrm, hnotWdr, ho, hc]

/-! HELD_RWS_WRITE_LANDS. -/

/-- The fields of one held write read back what was written; the active values stay. -/
theorem landWrite_shadow (w : List (Fld × Nat)) (hkeys : (w.map fun x => x.1.key).Nodup)
    (hdirty : ∀ x ∈ w, x.1.key ≠ Fld.splSwapStatusDirty.key) (s : State) :
    (∀ x ∈ w, get (landWrite s w) x.1 = x.2 % 2 ^ x.1.width) ∧
    (∀ f : Fld, f.key ∉ w.map (fun x => x.1.key) → f.key ≠ Fld.splSwapStatusDirty.key → get (landWrite s w) f = get s f) := by
  induction w generalizing s with
  | nil => exact ⟨fun _ hx => absurd hx List.not_mem_nil, fun _ _ _ => rfl⟩
  | cons y w ih =>
    rw [List.map_cons, List.nodup_cons] at hkeys
    obtain ⟨hy, hkeys⟩ := hkeys
    obtain ⟨hydirty, hdirty⟩ := List.forall_mem_cons.1 hdirty
    obtain ⟨hwritten, hother⟩ := ih hkeys hdirty (setShadow s y.1 y.2)
    refine ⟨List.forall_mem_cons.2 ⟨?_, hwritten⟩, fun f hf hfd => ?_⟩
    · exact (hother y.1 hy hydirty).trans ((get_set_other _ _ _ _ hydirty).trans (get_set_same s y.1 y.2))
    · rw [List.map_cons, List.mem_cons, not_or] at hf
      exact (hother f hf.2 hfd).trans ((get_set_other _ _ _ _ hfd).trans (get_set_other _ _ _ _ hf.1))

theorem setShadow_frame (s : State) (f : Fld) (v : Nat) :
    (setShadow s f v).spl = s.spl ∧ (setShadow s f v).regs.act = s.regs.act ∧ (setShadow s f v).st = s.st :=
  ⟨rfl, rfl, rfl⟩

theorem landWrite_frame (w : List (Fld × Nat)) (s : State) :
    (landWrite s w).spl = s.spl ∧ (landWrite s w).regs.act = s.regs.act ∧ (landWrite s w).st = s.st := by
  induction w generalizing s with
  | nil => exact ⟨rfl, rfl, rfl⟩
  | cons x w ih =>
    obtain ⟨hspl, hact, hst⟩ := setShadow_frame s x.1 x.2
    obtain ⟨ihspl, ihact, ihst⟩ := ih (setShadow s x.1 x.2)
    exact ⟨ihspl.trans hspl, ihact.trans hact, ihst.trans hst⟩

theorem landWrite_dirty {w : List (Fld × Nat)} (hw : w ≠ []) (s : State) : get (landWrite s w) Fld.splSwapStatusDirty = 1 := by
  obtain ⟨l, x, rfl⟩ := List.eq_nil_or_concat w |>.resolve_left hw
  rw [landWrite, List.concat_eq_append, List.foldl_append]
  exact get_set_of_lt _ Fld.splSwapStatusDirty 1 (by decide)

/-- The swap under which the write was held has ended. -/
def swapOver (s : State) : State :=
  if get s Fld.splSwapStatusState = 2 then
    (set s Fld.splSwapStatusState (if s.spl.swapAt.isSome then 1 else 3)).setSt (max s.st s.spl.swapEnd) else s

theorem swapOver_keeps (s : State) : (swapOver s).spl = s.spl ∧ (swapOver s).regs.act = s.regs.act ∧
    (get s Fld.splSwapStatusState = 2 → s.spl.swapEnd ≤ (swapOver s).st) := by
  unfold swapOver
  split
  · exact ⟨rfl, rfl, fun _ => le_max_right _ _⟩
  next h => exact ⟨rfl, rfl, fun c => absurd c h⟩

theorem heldRwsWriteLands_lands {w : List (Fld × Nat)} {r : List (List (Fld × Nat))} {s : State} (hs : s.spl.scene = none)
    (hp : s.spl.passed = none) (hheld : s.spl.heldRws = w :: r) (hkeys : (w.map fun x => x.1.key).Nodup)
    (hdirty : ∀ x ∈ w, x.1.key ≠ Fld.splSwapStatusDirty.key) (hw : w ≠ []) :
    ∃ t, exec .heldRwsWriteLands s = .next t ∧ t.spl.heldRws = r ∧ (∀ x ∈ w, get t x.1 = x.2 % 2 ^ x.1.width) ∧
      get t Fld.splSwapStatusDirty = 1 ∧ t.regs.act = s.regs.act ∧
      (get s Fld.splSwapStatusState = 2 → s.spl.swapEnd ≤ t.st) := by
  obtain ⟨hspl, hact, hend⟩ := swapOver_keeps s
  let u := (swapOver s).onSpl fun p => { p with heldRws := r }
  obtain ⟨hlandSpl, hlandAct, hlandSt⟩ := landWrite_frame w u
  refine ⟨landWrite u w, ?_, by rw [hlandSpl]; rfl, (landWrite_shadow w hkeys hdirty u).1, landWrite_dirty hw u,
    hlandAct.trans hact, fun h => (hend h).trans hlandSt.ge⟩
  refine congrArg Host.Outcome.next ((if_neg (by simp [hs, hp])).trans ?_)
  change (match (swapOver s).spl.heldRws with
    | [] => swapOver s
    | w :: r => landWrite ((swapOver s).onSpl fun p => { p with heldRws := r }) w) = _
  rw [hspl, hheld]

/-! The reads with an effect. -/

theorem rbDataRead_beyond {s : State} (hb : booted s = true) (hw : rbWord s = none) :
    exec .rbDataRead s = .next (set s Fld.splSwapStatusRbRange 1) := by
  change execRbDataRead s = _
  rw [execRbDataRead, if_pos hb, hw]

theorem rbDataRead_within {s : State} {w : Nat} (hb : booted s = true) (hw : rbWord s = some w) :
    exec .rbDataRead s = .next s := by
  change execRbDataRead s = _
  rw [execRbDataRead, if_pos hb, hw]

/-- Settles O1: on a plain register the word is what its fields' access codes do, in turn; a held write is the same set of fields. -/
theorem registerCommandsComplete : Obligations.RegisterCommandsComplete :=
  ⟨fun _ _ _ _ hw hr hwin hoff hhq hheld => registerWrite_field hw hr ⟨hwin, hoff, hhq⟩ hheld,
    fun _ _ _ _ hw hr hwin hoff hhq hheld => registerWrite_w1c hw hr ⟨hwin, hoff, hhq⟩ hheld,
    fun _ s f ha => by rw [writeField_w1s ha, get_set_same],
    fun _ _ _ _ => exec_registerWrite_word, fun _ _ _ => registerWrite_wrong_role,
    fun _ _ _ => heldRwsWriteLands_lands, fun _ hb => congrArg Host.Outcome.next (if_pos hb),
    fun _ => rbDataRead_beyond, fun _ _ => rbDataRead_within⟩

end Sys2Proof.Machine
end

section
/-!
OBLIGATIONS O4, O5. A card's way in: its fetch into an outcome slot, its checks, and the prompt it waits for.
-/
namespace Sys2Proof.Machine

/-! The fetch. -/

/-- Of the HIU's state a fetch touches the turn, the slots and the Notice ring's reservations. -/
theorem fetched_hiu (s : State) (fn n : Nat) (card : Card) :
    (fetched s fn n card).hiu.outcomes.length = s.hiu.outcomes.length + 1 ∧ (fetched s fn n card).hiu.rrFn = fn ∧
      (fetched s fn n card).hiu.callMap = s.hiu.callMap := by
  unfold fetched
  rw [wmUpdate_hiu]
  exact ⟨List.length_append, rfl, rfl⟩

section
variable {card : Card} {fn n : Nat} {s : State}

theorem exec_cardFetch (hb : booted s = true) (hh : s.hiu.hostLost = false) (hroom : s.hiu.outcomes.length < 8192)
    (hin : swFull s 0 = false) (hdec : (isLead s && swFull s 1) = false) (hnext : nextCard s = some (fn, n)) :
    exec (.cardFetch card) s =
      .next (if domLit s 56 then admitFetched (fetched s fn n card) fn card else demandDom s 56) := by
  refine congrArg Host.Outcome.next ((if_neg ?_).trans ?_)
  · simp [hb, hh, hin, hdec, Nat.not_le.2 hroom]
  · rw [hnext]

/-- A SUBMIT that passes its checks and has a Company with a lead enters the Call Map (R82, R84). -/
theorem admitFetched_submit {co l : Nat} (hop : cardOp card = 1) (hcheck : cardCheck s fn card = 0)
    (hco : chooseCompany s card = some co) (hlost : co ∉ s.fab.lost) (hlead : leadOf s co = some l) :
    (admitFetched s fn card).hiu.callMap = s.hiu.callMap ++ [newEnt fn co l card] := by
  unfold admitFetched
  simp only [hcheck, hop, hco, if_neg hlost, hlead]
  rw [if_neg (by decide), if_neg (not_not.2 rfl), if_pos trivial]
  rfl

end

/-- Settles O4: the guards pass, the domain decides, and of the card's checks only a SUBMIT's adds to the Call Map. -/
theorem cardFetchTakesNextCard : Obligations.CardFetchTakesNextCard := by
  intro card fn n s hb hh hroom hin hdec hnext
  have hexec := exec_cardFetch (card := card) hb hh hroom hin hdec hnext
  obtain ⟨hlen, hturn, hmap⟩ := fetched_hiu s fn n card
  refine ⟨fun hdark => ?_, fun hlit => ?_⟩
  · rw [hexec, hdark]
    rfl
  · rw [if_pos hlit] at hexec
    refine ⟨hexec, hlen, hturn, fun co l hop hcheck hco hlost hlead => ⟨_, hexec, ?_⟩⟩
    have hfab : (fetched s fn n card).fab = s.fab := (fetched_fp rfl s fn n card (Fp.refl 524291 s)).fab rfl
    rw [admitFetched_submit hop hcheck hco (by rwa [hfab]) hlead, hmap]

/-! The prompt. -/

section
variable {fn : Fin 128} {callId : Word} {toks : List Word} {poison fault : Bool} {i : Nat} {s : State}
  (hi : findIdx (fun o => o.fn = fn.val && o.callId = callId.toNat && o.card.isSome && !o.ready) s.hiu.outcomes = some i)
include hi

theorem promptPullDone_fault (hf : fault = true) :
    exec (.promptPullDone fn callId toks poison fault) s = .next (refuseSlot s i stBadCard true) := by
  change execPromptPullDone fn callId toks poison fault s = _
  simp only [execPromptPullDone, hi, hf, if_true]

theorem promptPullDone_poison (hf : fault = false) (hp : poison = true) :
    exec (.promptPullDone fn callId toks poison fault) s = .next (refuseSlot s i stPoison true) := by
  change execPromptPullDone fn callId toks poison fault s = _
  simp only [execPromptPullDone, hi, hf, hp, if_true, Bool.false_eq_true, if_false]

/-- A prompt that was read is judged by the vocabulary of its Call's model. -/
theorem exec_promptPullDone_read {e : CallEnt} {m : ModelInfo} (hf : fault = false) (hp : poison = false)
    (he : entOf s fn.val callId.toNat = some e) (hm : (plotOf? s).bind (fun p => p.model e.model) = some m) :
    exec (.promptPullDone fn callId toks poison fault) s =
      .next (if toks.any (fun t => decide (2 ^ 24 ≤ t.toNat) || decide (m.vocab ≤ t.toNat)) then refuseSlot s i stBadCard true
        else forwardReady (onSlot s i fun o => { o with ready := true, prompt := toks.map (·.toNat) })) := by
  change execPromptPullDone fn callId toks poison fault s = _
  simp only [execPromptPullDone, hi, hf, hp, he, hm, Bool.false_eq_true, if_false]

end

/-- Settles O5: a fault and poison refuse the card outright; of a prompt that was read each token is judged. -/
theorem promptPullDecides : Obligations.PromptPullDecides := by
  intro fn callId toks poison fault i s hi
  refine ⟨promptPullDone_fault hi, promptPullDone_poison hi, fun e m hf hp he hm hall => ?_, fun e m hf hp he hm hbad => ?_⟩
  · rw [exec_promptPullDone_read hi hf hp he hm, if_neg]
    rw [List.any_eq_true]
    rintro ⟨t, ht, hlarge⟩
    obtain ⟨hwidth, hvocab⟩ := hall t ht
    simp only [Bool.or_eq_true, decide_eq_true_eq] at hlarge
    omega
  · obtain ⟨t, ht, hlarge⟩ := hbad
    rw [exec_promptPullDone_read hi hf hp he hm, if_pos]
    exact List.any_eq_true.2 ⟨t, ht, by simp [hlarge]⟩

end Sys2Proof.Machine
end

section
/-!
OBLIGATIONS O6, O7, O8. The rings the device writes, what a RECLAIM has written again, and what arrives from other devices.
-/
namespace Sys2Proof.Machine

/-! Ring writes. -/

/-- A write to a ring touches its entries, its TAIL and what leaves the device; the Call Map is not part of it. -/
theorem ringWrite_ring (s : State) (fn n id : Nat) (bytes : Bool → List Byte) :
    (ringOf (ringWrite s fn n id bytes) fn n).out = (ringOf s fn n).out ++ [id] ∧
      (ringWrite s fn n id bytes).hiu.callMap = s.hiu.callMap := by
  unfold ringWrite
  dsimp only
  split <;> split <;> exact ⟨by rw [ringOf_putRing_same], rfl⟩

theorem redoDone_rings (s : State) (fn n id : Nat) : (redoDone s fn n id).hiu.rings = s.hiu.rings := by
  unfold redoDone
  dsimp only
  split
  · split <;> rfl
  · rfl

theorem noteWritten_rings (s : State) (fn n id : Nat) : (noteWritten s fn n id).hiu.rings = s.hiu.rings :=
  redoDone_rings _ fn n id

/-- The parked Calls of a function go on at most; the rest of their entries is as it was. -/
theorem redoDone_callMap (s : State) (fn n id : Nat) : (redoDone s fn n id).hiu.callMap = s.hiu.callMap ∨
    (redoDone s fn n id).hiu.callMap = mapIf (fun e => e.fn = fn) (fun e => { e with parkHost := false }) s.hiu.callMap := by
  unfold redoDone
  dsimp only
  split
  · split
    · exact .inl rfl
    · exact .inr rfl
  · exact .inl rfl

/-- A change of some entries that keeps their names, seen at one name. -/
theorem find?_mapIf_of_name {p q : CallEnt → Bool} {f : CallEnt → CallEnt} (l : List CallEnt) (hf : ∀ e, q (f e) = q e) :
    (mapIf p f l).find? q = (l.find? q).map fun e => if p e then f e else e := by
  unfold mapIf
  rw [List.find?_map]
  congr 2
  funext e
  dsimp only [Function.comp]
  split
  · exact hf e
  · rfl

/-- The entry of a Call whose Line was just noted as written: only its park may have gone. -/
theorem entOf_noteWritten {s : State} {fn callId : Nat} {e : CallEnt} (n id : Nat) (he : entOf s fn callId = some e) :
    ∃ b, entOf (noteWritten s fn n id) fn callId = some { e with parkHost := b } := by
  unfold noteWritten entOf
  rcases redoDone_callMap (s.onHiu fun h => { h with unread := h.unread ++ [(fn, n, id)] }) fn n id with h | h
  · rw [h]
    exact ⟨e.parkHost, he⟩
  · rw [h, find?_mapIf_of_name (f := fun e => { e with parkHost := false }) _ fun _ => rfl]
    change ∃ b, (entOf s fn callId).map _ = _
    rw [he, Option.map_some]
    split
    · exact ⟨false, rfl⟩
    · exact ⟨e.parkHost, rfl⟩

theorem lineWritten_name (e : CallEnt) (l : Line) : (lineWritten e l).fn = e.fn ∧ (lineWritten e l).callId = e.callId := by
  unfold lineWritten
  split <;> exact ⟨rfl, rfl⟩

/-- A function whose write failed is in Error, and its Calls park (R102). -/
theorem writeFailed_parks (s : State) (fn : Nat) : get (writeFailed s fn) (Fld.fnStatusError fn) = 1 ∧
    (writeFailed s fn).hiu.callMap = mapIf (fun x => x.fn = fn) (fun x => { x with parkErr := true }) s.hiu.callMap :=
  ⟨get_set_of_lt _ (Fld.fnStatusError fn) 1 (show 1 < 2 ^ 1 by decide), rfl⟩

theorem ringOf_onEnt (s : State) (fn callId : Nat) (f : CallEnt → CallEnt) (k n : Nat) :
    ringOf (onEnt s fn callId f) k n = ringOf s k n := rfl

/-- The state in which a Call's Line has been written and noted. -/
def lineOut (s : State) (fn : Nat) (e : CallEnt) (l : Line) : State :=
  noteWritten (onEnt (ringWrite s fn e.ring (lineId e l) fun ph => wireBytes (setBit l 52 ph)) fn e.callId
    fun e => lineWritten e l) fn e.ring (lineId e l)

theorem lineOut_ring (s : State) (fn : Nat) (e : CallEnt) (l : Line) :
    (ringOf (lineOut s fn e l) fn e.ring).out = (ringOf s fn e.ring).out ++ [lineId e l] := by
  rw [lineOut, ringOf_congr (noteWritten_rings _ _ _ _), ringOf_onEnt]
  exact (ringWrite_ring s fn e.ring (lineId e l) _).1

theorem entOf_name {s : State} {fn callId : Nat} {e : CallEnt} (he : entOf s fn callId = some e) :
    e.fn = fn ∧ e.callId = callId := by simpa using List.find?_some he

theorem entOf_lineOut {s : State} {fn callId : Nat} {e : CallEnt} (l : Line) (he : entOf s fn callId = some e) :
    ∃ b, entOf (lineOut s fn e l) fn callId = some { lineWritten e l with parkHost := b } := by
  obtain ⟨-, hid⟩ := entOf_name he
  refine entOf_noteWritten _ _ ?_
  rw [hid, entOf_onEnt _ _ _ _ fun e => lineWritten_name e l]
  rw [show entOf (ringWrite s fn e.ring (lineId e l) _) fn callId = entOf s fn callId by
    unfold entOf; rw [(ringWrite_ring _ _ _ _ _).2], he]
  rfl

section
variable {fn : Fin 128} {callId : Word} {s : State} {e : CallEnt} {l : Line} (he : entOf s fn.val callId.toNat = some e)
  (hl : dueLine s e = some l) (hup : hostUp s fn.val = true) (hon : ringOn s fn.val e.ring = true)
  (hroom : (ringOf s fn.val e.ring).out.length < ringSize s fn.val e.ring)
  (hturn : inTurn s fn.val e.ring (lineId e l) = true)
include he hl hup hon hroom hturn

/-- A due Line with room in its ring: the domain and the host's memory decide. -/
theorem exec_lineWrite (ok : Bool) : exec (.lineWrite fn callId ok) s = .next
    (if !domLit s 56 then demandDom s 56 else if !ok then writeFailed s fn.val
      else wmUpdate (if lineFinal l then tellFinal (lineOut s fn.val e l) fn.val e.callId else lineOut s fn.val e l) 2) := by
  change execLineWrite fn callId ok s = _
  simp only [execLineWrite, he, hl]
  rw [if_neg (by simp [hup, hon, hturn, hroom])]
  rfl

theorem lineWrite_decides :
    (∀ ok, domLit s 56 = false → exec (.lineWrite fn callId ok) s = .next (demandDom s 56)) ∧
    (domLit s 56 = true → ∃ t u, exec (.lineWrite fn callId true) s = .next t ∧
      u = noteWritten (onEnt (ringWrite s fn.val e.ring (lineId e l) fun ph => wireBytes (setBit l 52 ph)) fn.val e.callId
        fun e => lineWritten e l) fn.val e.ring (lineId e l) ∧
      t = wmUpdate (if lineFinal l then tellFinal u fn.val e.callId else u) 2 ∧
      (ringOf u fn.val e.ring).out = (ringOf s fn.val e.ring).out ++ [lineId e l] ∧
      (e.redo = 0 → ∃ e', entOf u fn.val callId.toNat = some e' ∧ e'.win = e.win.erase l ∧ e'.kept = e.kept ++ [l] ∧
        e'.next = linePos l + 1 ∧ (lineFinal l = true → e'.finalPos = some (linePos l)))) ∧
    (domLit s 56 = true → ∃ t, exec (.lineWrite fn callId false) s = .next t ∧ get t (Fld.fnStatusError fn.val) = 1 ∧
      t.hiu.callMap = mapIf (fun x => x.fn = fn.val) (fun x => { x with parkErr := true }) s.hiu.callMap) := by
  have hexec := exec_lineWrite he hl hup hon hroom hturn
  refine ⟨fun ok hdark => ?_, fun hlit => ?_, fun hlit => ?_⟩
  · rw [hexec, hdark]
    rfl
  · obtain ⟨b, hent⟩ := entOf_lineOut l he
    refine ⟨_, lineOut s fn.val e l, by rw [hexec, hlit]; rfl, rfl, rfl, lineOut_ring s fn.val e l, fun hredo =>
      ⟨_, hent, ?_⟩⟩
    have hnew : lineWritten e l = _ := if_neg (by omega)
    rw [hnew]
    exact ⟨rfl, rfl, rfl, fun hfinal => if_pos hfinal⟩
  · rw [hexec, hlit]
    exact ⟨_, rfl, writeFailed_parks s fn.val⟩

end

/-- A Notice whose turn and entry have come: the domain and the host's memory decide. -/
theorem exec_noticeWrite {fn : Fin 128} {sel : NoticeSel} {s : State} {n : Notice} {reserved : Bool} {id : Nat}
    {done : State → State} (hpick : pickNotice s fn.val sel = some (n, reserved, id, done)) (hup : hostUp s fn.val = true)
    (hres : reserved = true → ringOn s fn.val 4 = true ∧ (ringOf s fn.val 4).out.length < ringSize s fn.val 4)
    (hfree : reserved = false → nqFree s fn.val = true) (hturn : id % 2 = 1 → inTurn s fn.val 4 id = true) (ok : Bool) :
    exec (.noticeWrite fn sel ok) s = .next
      (if !domLit s 56 then demandDom s 56 else if !ok then writeFailed s fn.val
        else
          let u := done (ringWrite (if reserved then unreserveNq s fn.val else s) fn.val 4 id
            fun ph => wireBytes (setBit n 39 ph))
          wmUpdate (if id % 2 = 1 then noteWritten u fn.val 4 id else u) 2) := by
  have hroom : (if reserved then ringOn s fn.val 4 && decide ((ringOf s fn.val 4).out.length < ringSize s fn.val 4)
      else nqFree s fn.val) = true := by
    cases reserved with
    | true => simpa using hres rfl
    | false => exact hfree rfl
  change execNoticeWrite fn sel ok s = _
  simp only [execNoticeWrite, hpick]
  rw [if_neg (by simpa [hup, hroom] using hturn)]

/-- Settles O6: the guards pass; a dark domain is demanded, a failed write parks, and a good one is the ring's newest entry. -/
theorem ringWritesComplete : Obligations.RingWritesComplete := by
  refine ⟨fun fn callId s e l he hl hup hon hroom hturn => lineWrite_decides he hl hup hon hroom hturn,
    fun fn sel s n reserved id done hpick hup hres hfree hturn => ?_⟩
  have hexec := exec_noticeWrite hpick hup hres hfree hturn
  refine ⟨fun ok hdark => ?_, fun hlit => ?_, fun hlit => ⟨_, rfl, ?_⟩⟩
  · rw [hexec, hdark]
    rfl
  · rw [hexec, hlit]
    rfl
  · rw [hexec, hlit]
    rfl

/-! RECLAIM. -/

/-- To reserve Notice entries again touches the rings alone. -/
theorem reserveEach_hiu {α : Type} (fn : Nat) (l : List α) (s : State) : ∃ rings,
    (l.foldl (fun s _ => reserveNq s fn) s).hiu = { s.hiu with rings := rings } := by
  induction l generalizing s with
  | nil => exact ⟨_, rfl⟩
  | cons a l ih =>
    obtain ⟨rings, h⟩ := ih (reserveNq s fn)
    exact ⟨rings, h⟩

section
variable {fn : Fin 128} {v : Word} {s : State} (hw : writable s fn.val (if fn.val = 0 then 0x82004 else 0x2004) = true)
  (hv : bit v 0 = true)
include hw hv

theorem reclaim_reached : ¬ (!writable s fn.val (if fn.val = 0 then 0x82004 else 0x2004) || !bit v 0) = true := by
  rw [hw, hv]
  decide

theorem reclaim_in_grace (hg : ∃ g ∈ s.hiu.grace, g.1 = fn.val) :
    ∃ t, exec (.reclaim fn v) s = .next t ∧ get t (Fld.fnStatusGrace fn.val) = 0 ∧
      t.hiu.grace = s.hiu.grace.filter (fun g => g.1 ≠ fn.val) ∧
      t.hiu.redo = s.hiu.redo.filter (fun x => x.1 ≠ fn.val) ++ (s.hiu.unread ++ s.hiu.redo).filter (fun x => x.1 = fn.val) ∧
      t.hiu.callMap = mapIf (fun e => e.fn = fn.val) (fun e =>
          { e with
            win := e.kept ++ e.win, kept := [], redo := e.redo + e.kept.length
            parkHost := e.parkHost && (s.hiu.unread ++ s.hiu.redo).any (fun x => x.1 = fn.val)
            finalN := if e.finalWritten then e.finalKept else e.finalN, finalWritten := false }) s.hiu.callMap := by
  have hany : s.hiu.grace.any (fun g => g.1 = fn.val) = true := by simpa using hg
  obtain ⟨rings, hrings⟩ := reserveEach_hiu fn.val (s.hiu.callMap.filter fun e => e.fn = fn.val && e.finalWritten) s
  refine ⟨_, congrArg Host.Outcome.next ((if_neg (reclaim_reached hw hv)).trans (if_pos hany)),
    get_set_of_lt _ (Fld.fnStatusGrace fn.val) 0 (show 0 < 2 ^ 1 by decide), ?_⟩
  rw [set_hiu, State.onHiu_hiu, hrings]
  exact ⟨rfl, rfl, rfl⟩

theorem reclaim_after_expiry {x : Nat × Nat} (hg : ∀ g ∈ s.hiu.grace, g.1 ≠ fn.val)
    (hx : s.hiu.expired.find? (fun x => x.1 = fn.val) = some x) :
    exec (.reclaim fn v) s = .next (deviceNotice (s.onHiu fun h => { h with expired := h.expired.erase x })
      (mkNotice 0xFFFFFFFF fn.val 6 stHostLost 0 0 noPos 0 x.2 (cueNum s))) := by
  have hany : ¬ s.hiu.grace.any (fun g => g.1 = fn.val) = true := by
    rw [List.any_eq_true]
    exact fun ⟨g, hmem, h⟩ => hg g hmem (of_decide_eq_true h)
  refine congrArg Host.Outcome.next ((if_neg (reclaim_reached hw hv)).trans ((if_neg hany).trans ?_))
  rw [hx]
  rfl

end

/-- Settles O7: a running grace timer, or the count kept at its expiry, decides what RECLAIM does. -/
theorem reclaimCompletes : Obligations.ReclaimCompletes :=
  ⟨fun _ _ _ => reclaim_in_grace, fun _ _ _ _ hw hv => reclaim_after_expiry hw hv⟩

/-! What arrives. -/

/-- The entry of a Call that a Line has reached. -/
def lineIn (l : Line) (e : CallEnt) : CallEnt :=
  let e := { e with win := e.win ++ [if e.restored then setBit l 60 true else l], lines := e.lines + 1 }
  match e.finalN with
  | some n => if noticeStatus n = stCancelled ∧ ¬ e.noLine then markCancelled e (bits n 160 32) else e
  | none => e

theorem lineIn_name (l : Line) (e : CallEnt) : (lineIn l e).fn = e.fn ∧ (lineIn l e).callId = e.callId := by
  unfold lineIn
  dsimp only
  split
  · split <;> exact ⟨rfl, rfl⟩
  · exact ⟨rfl, rfl⟩

theorem lineIn_of_running {l : Line} {e : CallEnt} (hn : e.finalN = none) (hr : e.restored = false) :
    lineIn l e = { e with win := e.win ++ [l], lines := e.lines + 1 } := by
  simp only [lineIn, hn, hr, Bool.false_eq_true, if_false]

section
variable {src : Fin 1024} {fn : Fin 128} {l : Line} {s : State} {e : CallEnt}
  (he : entOf s fn.val (lineCallId l) = some e) (hserves : servesCall s e src.val = true) (hnext : e.next ≤ linePos l)
  (hwin : e.win.length < 64) (hnew : ∀ x ∈ e.win, linePos x ≠ linePos l)
include he hserves hnext hwin hnew

theorem exec_line_accepted (hlate : lateLine e l = false) :
    exec (.line src fn [l]) s = .next (wmUpdate (onEnt s fn.val e.callId (lineIn l)) 2) := by
  change execLine src fn [l] s = _
  simp only [execLine, arriveLine, List.foldl_cons, List.foldl_nil, he]
  rw [if_pos ⟨hserves, hnext, hwin, by simpa using hnew, hlate⟩]
  rfl

/-- A Line of a Call that runs waits in the Call's window. -/
theorem line_waits (hn : e.finalN = none) (hw : e.finalWritten = false) (hr : e.restored = false) :
    ∃ t e', exec (.line src fn [l]) s = .next t ∧ entOf t fn.val e.callId = some e' ∧ e'.win = e.win ++ [l] ∧
      e'.lines = e.lines + 1 := by
  have hexec := exec_line_accepted he hserves hnext hwin hnew (by simp [lateLine, hn, hw])
  obtain ⟨-, hid⟩ := entOf_name he
  refine ⟨_, lineIn l e, hexec, ?_, ?_⟩
  · rw [entOf_congr (wmUpdate_hiu _ _), entOf_onEnt _ _ _ _ (lineIn_name l), hid, he]
    rfl
  · rw [lineIn_of_running hn hr]
    exact ⟨rfl, rfl⟩

end

theorem credit_bounded {src : Fin 1024} {ents : List (Word × Fin 128 × Nat)} {s : State} :
    ∃ t, exec (.credit src ents) s = .next t ∧ t.stm.board.length = s.stm.board.length ∧
      ∀ c ∈ t.stm.board, c.credits ≤ 64 := by
  refine ⟨_, rfl, List.length_map _, fun c hc => ?_⟩
  obtain ⟨b, -, rfl⟩ := List.mem_map.1 hc
  exact min_le_left _ _

theorem credit_of_one_call {src : Fin 1024} {callId : Word} {fn : Fin 128} {k : Nat} {s : State}
    (h : ∀ c ∈ s.stm.board, c.credits ≤ 64) :
    ∃ t, exec (.credit src [(callId, fn, k)]) s = .next t ∧ t.stm.board =
      mapIf (fun c => c.src = src.val && c.callId = callId.toNat && c.fn = fn.val)
        (fun c => { c with credits := min 64 (c.credits + k) }) s.stm.board := by
  refine ⟨_, rfl, List.map_congr_left fun c hc => ?_⟩
  have hc := h c hc
  simp only [List.map_cons, List.map_nil, List.sum_cons, List.sum_nil]
  by_cases hcall : c.src = src.val ∧ c.callId = callId.toNat ∧ c.fn = fn.val
  · obtain ⟨h₁, h₂, h₃⟩ := hcall
    simp [h₁, h₂, h₃]
  · rw [if_neg hcall, if_neg (by simpa [and_assoc] using hcall)]
    simp [hc]

/-- Settles O8: each packet's clause, a Line by its entry and a credit by the Calls it names. -/
theorem hostPacketsComplete : Obligations.HostPacketsComplete :=
  ⟨fun _ _ _ _ => rfl, fun _ _ _ _ _ => line_waits, fun _ _ _ => credit_bounded, fun _ _ _ _ _ => credit_of_one_call,
    fun _ _ _ _ _ _ hl => congrArg Host.Outcome.next (if_pos hl), fun _ _ _ _ _ _ hl => congrArg Host.Outcome.next (if_pos hl)⟩

end Sys2Proof.Machine
end

section
/-!
OBLIGATIONS O9, O10. The host queues: what acceptance and HEAD leave of a queue's registers, and which bytes an H2D may store.
-/
namespace Sys2Proof.Machine

/-! What acceptance and HEAD leave. -/

/-- A host queue's registers are none of a watermark's. -/
theorem hq_outside_wmFlds {f : Fld} (h : f.off < 0x1000000) (hlo : f.lo < 32) (i : Nat) : ∀ g ∈ wmFlds i, f.key ≠ g.key := by
  simp only [wmFlds, List.forall_mem_cons, List.not_mem_nil, false_imp_iff, implies_true, and_true]
  simp only [Fld.key, Fld.swlStatusWm, Fld.swlOccW, Fld.swlOccR, Fld.swlStatusEmptyR, Fld.swlStatusFullW]
  omega

theorem get_acceptHq (s : State) (k : Nat) (f : Fld) : get (acceptHq s k) f = get s f :=
  get_congr ((acceptHq_fp rfl s k (Fp.refl 2 s)).regs rfl) f

theorem get_hqHead {s : State} {k : Nat} {f : Fld} (hoff : f.off < 0x1000000) (hlo : f.lo < 32)
    (hkey : f.key ≠ (Fld.hqHeadIdx k).key) : get (hqHead s k) f = get s f := by
  unfold hqHead
  rw [get_wmUpdate_outside (hq_outside_wmFlds hoff hlo _), get_set_other _ _ _ _ hkey, get_acceptHq]

theorem hqHead_out (s : State) (k : Nat) : (hqHead s k).out = s.out := (hqHead_fp rfl s k (Fp.refl 524291 s)).out rfl

theorem hqOf_putHq {s : State} {k : Nat} (q : List HDesc) (hk : k < s.hiu.hqs.length) : hqOf (putHq s k q) k = q := by
  simp [hqOf, putHq, List.getD_eq_getElem?_getD, hk]

theorem hqOf_congr {s t : State} (h : t.hiu = s.hiu) (k : Nat) : hqOf t k = hqOf s k := by
  unfold hqOf
  rw [h]

/-! The commands. -/

section
variable {k : Fin 4} {v : Word} {s : State}

theorem hqTailDoorbell_hands_over {descs : List Desc} (hw : writable s 0 (hqCtlOff k.val) = true)
    (hin : bits v 0 16 < 2 ^ get s (Fld.hqCtlLog2size k.val)) :
    let n := (bits v 0 16 + 2 ^ get s (Fld.hqCtlLog2size k.val) - get s (Fld.hqTailIdx k.val)) %
      2 ^ get s (Fld.hqCtlLog2size k.val)
    exec (.hqTailDoorbell k v descs) s = .next (hqHead (putHq (set s (Fld.hqTailIdx k.val) (bits v 0 16)) k.val
      (hqOf s k.val ++ (descs.take n).map fun d => ⟨d, false, 0, 0⟩)) k.val) :=
  congrArg Host.Outcome.next ((if_neg (by simp [hw])).trans (if_neg (Nat.not_le.2 hin)))

/-- RESUME clears HALTED, and what follows of the queue leaves it clear. -/
theorem hqResume_clears_halted (hw : writable s 0 (hqCtlOff k.val) = true) (hv : bit v 1 = true) :
    ∃ t, exec (.hqResume k v) s = .next t ∧ get t (Fld.hqStatusHalted k.val) = 0 := by
  refine ⟨_, congrArg Host.Outcome.next (if_pos (by simp [hw, hv])), ?_⟩
  have hkey : (Fld.hqStatusHalted k.val).key ≠ (Fld.hqHeadIdx k.val).key := by
    simp only [Fld.key, Fld.hqStatusHalted, Fld.hqHeadIdx]
    omega
  have hk := k.isLt
  rw [get_hqHead (by simp only [Fld.hqStatusHalted]; omega) (show 0 < 32 by decide) hkey]
  exact get_set_of_lt _ (Fld.hqStatusHalted k.val) 0 (show 0 < 2 ^ 1 by decide)

section
variable {i : Nat} {h : HDesc} (hnext : hqNext s k.val = some (i, h)) (hlegal : descLegal s h.d = true)
include hnext hlegal

theorem h2d_demands {data : List Byte} (hop : dOp h.d = 1) (x : Xfer) (hdark : domLit s 56 = false) :
    exec (.h2d k data x) s = .next (demandDom s 56) := by
  change execH2d k data x s = _
  simp [execH2d, hnext, hop, hlegal, hdark]

theorem h2d_writes {data : List Byte} (hop : dOp h.d = 1)
    (hopen : (sealedMode s && touchesLoft (dDev h.d) (dLen h.d) 0 0x20000) = false) (hlit : domLit s 56 = true) :
    exec (.h2d k data ⟨none, true, []⟩) s =
      .next (hqFinish (writeDevice s (dDev h.d) (data.take (dLen h.d))) k.val i 0) := by
  change execH2d k data ⟨none, true, []⟩ s = _
  simp only [execH2d, hnext]
  rw [if_neg (by simp [hop, hlegal]), if_neg (by simp [hlit]), if_neg (by simp [hopen])]
  rfl

theorem d2h_demands (hop : dOp h.d = 2) (x : Xfer) (hdark : domLit s 56 = false) :
    exec (.d2h k x) s = .next (demandDom s 56) := by
  change execD2h k x s = _
  simp [execD2h, hnext, hop, hlegal, hdark]

theorem d2h_reads (hop : dOp h.d = 2) (hopen : sealedMode s = false) (hlit : domLit s 56 = true) :
    ∃ t, exec (.d2h k ⟨none, true, []⟩) s = .next t ∧
      t.out.host = s.out.host ++ [(dHost h.d, (List.range (dLen h.d)).map fun o => readByte s (physOf (dDev h.d + o)))] ∧
      t.mdw = s.mdw ∧ t.regs = s.regs := by
  have hexec : ∃ e, exec (.d2h k ⟨none, true, []⟩) s = .next (hqFinish (s.onOut fun o => { o with
      host := o.host ++ [(dHost h.d, (List.range (dLen h.d)).map fun o => readByte s (physOf (dDev h.d + o)))] }) k.val i e) := by
    refine ⟨if (List.range (dLen h.d / 4)).any (fun o => poisoned s (physOf (dDev h.d + 4 * o)) 4) then 3 else 0, ?_⟩
    change execD2h k ⟨none, true, []⟩ s = _
    simp only [execD2h, hnext]
    rw [if_neg (by simp [hop, hlegal]), if_neg (by simp [hlit]), if_neg (by simp [hopen])]
  obtain ⟨e, hexec⟩ := hexec
  exact ⟨_, hexec, rfl, rfl, rfl⟩

end

/-- A FENCE at the front of its queue waits for the queues of its mask alone (R93). -/
theorem fence_finishes {h : HDesc} (hnext : hqNext s k.val = some (0, h)) (hop : dOp h.d = 3) (hlegal : descLegal s h.d = true)
    (hown : ∀ j < 28, bit h.d (32 + j) = true → ownBusy s j h.stamp = false)
    (hhost : ∀ j < 4, j ≠ k.val → bit h.d (32 + 28 + j) = true → ∀ e ∈ hqOf s j, e.stamp = 0 ∨ h.stamp ≤ e.stamp) :
    exec (.fence k) s = .next (hqFinish s k.val 0 0) := by
  have hclear : ((List.range 32).all fun j => j = 28 + k.val || !bit h.d (32 + j) || (if j < 28 then !ownBusy s j h.stamp
      else !((hqOf s (j - 28)).any fun e => decide (e.stamp ≠ 0) && decide (e.stamp < h.stamp)))) = true := by
    refine List.all_eq_true.2 fun j hj => ?_
    rw [List.mem_range] at hj
    by_cases hself : j = 28 + k.val
    · simp [hself]
    cases hbit : bit h.d (32 + j) with
    | false => simp
    | true =>
      by_cases hsmall : j < 28
      · simp [hsmall, hown j hsmall hbit]
      · have hdone := hhost (j - 28) (by omega) (by omega) (by rwa [show 32 + 28 + (j - 28) = 32 + j by omega])
        have hnone : ((hqOf s (j - 28)).any fun e => decide (e.stamp ≠ 0) && decide (e.stamp < h.stamp)) = false := by
          refine List.any_eq_false.2 fun e he => ?_
          have := hdone e he
          simp only [Bool.and_eq_true, decide_eq_true_eq]
          omega
        rw [if_neg hsmall, hnone]
        exact Bool.or_true _
  refine congrArg Host.Outcome.next ?_
  rw [hnext]
  exact if_pos (by simp only [hop, hlegal, hclear, decide_true, Bool.and_self])

/-! Reports (R91, R95). -/

/-- The head of the queue has left it, reported under its tag with its error. -/
def hqReported (s : State) (k : Nat) (h : HDesc) (r : List HDesc) (err : Nat) : State :=
  set (set (putHq s k r) (Fld.hqTagV k) (dTag h.d)) (Fld.hqStatusErr k) err

theorem hqReported_shows (s : State) (k : Nat) (h : HDesc) (r : List HDesc) (err : Nat) :
    get (hqReported s k h r err) (Fld.hqStatusErr k) = err % 256 ∧
      get (hqReported s k h r err) (Fld.hqTagV k) = dTag h.d % 2 ^ 32 ∧
      get (hqReported s k h r err) (Fld.hqCtlVec k) = get s (Fld.hqCtlVec k) := by
  have htag : (Fld.hqTagV k).key ≠ (Fld.hqStatusErr k).key := by
    simp only [Fld.key, Fld.hqTagV, Fld.hqStatusErr]
    omega
  have hvec : (Fld.hqCtlVec k).key ≠ (Fld.hqStatusErr k).key ∧ (Fld.hqCtlVec k).key ≠ (Fld.hqTagV k).key := by
    simp only [Fld.key, Fld.hqCtlVec, Fld.hqTagV, Fld.hqStatusErr]
    omega
  refine ⟨get_set_same _ _ _, (get_set_other _ _ _ _ htag).trans (get_set_same _ _ _), ?_⟩
  exact (get_set_other _ _ _ _ hvec.1).trans (get_set_other _ _ _ _ hvec.2)

/-- The interrupt of a finished descriptor that asks for one. -/
def hqIrq (s : State) (k : Nat) (h : HDesc) : State :=
  if dIrq h.d then s.onOut fun o => { o with msix := o.msix ++ [(0, get s (Fld.hqCtlVec k))] } else s

theorem hqIrq_keeps (s : State) (k : Nat) (h : HDesc) :
    (hqIrq s k h).regs = s.regs ∧ (hqIrq s k h).hiu = s.hiu ∧
      (hqIrq s k h).out.msix = s.out.msix ++ (if dIrq h.d then [(0, get s (Fld.hqCtlVec k))] else []) := by
  unfold hqIrq
  split
  · exact ⟨rfl, rfl, rfl⟩
  · exact ⟨rfl, rfl, (List.append_nil _).symm⟩

section
variable {h : HDesc} {r : List HDesc} (hq : hqOf s k.val = h :: r) (hrun : isSet s (Fld.hqStatusHalted k.val) = false)
include hq hrun

theorem descriptorComplete_reports (hfin : h.finished = true) :
    ∃ t u, exec (.descriptorComplete k) s = .next t ∧ t = hqHead u k.val ∧
      get u (Fld.hqStatusErr k.val) = h.err % 256 ∧ get u (Fld.hqTagV k.val) = dTag h.d % 2 ^ 32 ∧
      t.out.msix = s.out.msix ++ (if dIrq h.d then [(0, get s (Fld.hqCtlVec k.val))] else []) ∧
      (k.val < s.hiu.hqs.length → hqOf u k.val = r) := by
  obtain ⟨herr, htag, hvec⟩ := hqReported_shows s k.val h r h.err
  obtain ⟨hregs, hhiu, hmsix⟩ := hqIrq_keeps (hqReported s k.val h r h.err) k.val h
  refine ⟨_, hqIrq (hqReported s k.val h r h.err) k.val h, ?_, rfl, (get_congr hregs _).trans herr,
    (get_congr hregs _).trans htag, ?_, fun hk => (hqOf_congr hhiu _).trans (hqOf_putHq r hk)⟩
  · change execDescriptorComplete k s = _
    simp only [execDescriptorComplete, hq, hrun, hfin, Bool.false_eq_true, if_false, if_true]
    rfl
  · rw [hqHead_out, hmsix, hvec]
    rfl

/-- An illegal descriptor moves nothing, and halts its queue. -/
theorem descriptorComplete_halts (hfin : h.finished = false) (hstamp : h.stamp ≠ 0) (hen : isSet s (Fld.hqCtlEn k.val) = true)
    (hbad : descLegal s h.d = false) :
    ∃ t u, exec (.descriptorComplete k) s = .next t ∧ t = hqHead u k.val ∧ get u (Fld.hqStatusHalted k.val) = 1 ∧
      get u (Fld.hqStatusErr k.val) = 1 ∧ u.mdw = s.mdw ∧ t.out.msix = s.out.msix ∧
      (k.val < s.hiu.hqs.length → hqOf u k.val = r) := by
  have hkey : (Fld.hqStatusErr k.val).key ≠ (Fld.hqStatusHalted k.val).key := by
    simp only [Fld.key, Fld.hqStatusErr, Fld.hqStatusHalted]
    omega
  refine ⟨_, set (hqReported s k.val h r 1) (Fld.hqStatusHalted k.val) 1, ?_, rfl,
    get_set_of_lt _ (Fld.hqStatusHalted k.val) 1 (show 1 < 2 ^ 1 by decide),
    (get_set_other _ _ _ _ hkey).trans (hqReported_shows s k.val h r 1).1, rfl, by rw [hqHead_out]; rfl, fun hk => hqOf_putHq r hk⟩
  change execDescriptorComplete k s = _
  simp only [execDescriptorComplete, hq, hrun, hfin, hstamp, hen, hbad, Bool.false_eq_true, if_false, if_true, Bool.not_true,
    Bool.not_false, Bool.or_false, decide_false]
  rfl

end
end

/-- Settles O9: the queue's next descriptor, its legality and the domain decide a transfer; a report leaves the queue's rest. -/
theorem hostQueuesComplete : Obligations.HostQueuesComplete :=
  ⟨fun _ _ _ _ => hqTailDoorbell_hands_over,
    fun _ _ _ _ _ hnext hop hlegal hopen => ⟨h2d_demands hnext hlegal hop, h2d_writes hnext hlegal hop hopen⟩,
    fun _ _ _ _ hnext hop hlegal hopen => ⟨d2h_demands hnext hlegal hop, d2h_reads hnext hlegal hop hopen⟩,
    fun _ _ _ => fence_finishes, fun _ _ _ _ => descriptorComplete_reports, fun _ _ _ _ => descriptorComplete_halts,
    fun _ _ _ => hqResume_clears_halted⟩

/-! The bytes of an H2D. -/

/-- The Haywain writes the bytes its range names, and no other. -/
theorem readByte_writeDevice_other {a j : Nat} {bs : List Byte} (h : ∀ o < bs.length, physOf (a + o) ≠ j) (s : State) :
    readByte (writeDevice s a bs) j = readByte s j := by
  have hfold (l : List (Byte × Nat)) (hl : ∀ p ∈ l, physOf (a + p.2) ≠ j) (s : State) :
      readByte (l.foldl (fun s p => writeByte s (physOf (a + p.2)) p.1) s) j = readByte s j := by
    induction l generalizing s with
    | nil => rfl
    | cons p l ih =>
      obtain ⟨hp, hl⟩ := List.forall_mem_cons.1 hl
      rw [List.foldl_cons, ih hl, readByte_writeByte_other _ _ _ _ hp.symm]
  exact hfold _ (fun p hp => h p.2 (List.mem_range.1 (List.of_mem_zip hp).2)) s

/-- To mark words as poison writes no byte. -/
theorem markPoison_mem (l : List Nat) (a n : Nat) (s : State) :
    (l.foldl (fun s o => if o < n then setPoison s (physOf (a + o)) else s) s).mdw.mem = s.mdw.mem :=
  foldl_keeps (·.mdw.mem) _ (fun s o => by split <;> rfl) l s

/-- Settles O10: whichever branch an H2D takes, what it writes is a part of its descriptor's range. -/
theorem h2dMemoryFrame : Obligations.H2dMemoryFrame := by
  intro k data x s t h a ha
  cases h
  cases hnext : hqNext s k.val with
  | none => rfl
  | some d =>
    obtain ⟨i, h⟩ := d
    have hrange (g : Nat) : ∀ o < ((data.take (dLen h.d)).take g).length, physOf (dDev h.d + o) ≠ a := fun o ho =>
      ha i h hnext o (by simp only [List.length_take] at ho; omega)
    have hwhole : ∀ o < (data.take (dLen h.d)).length, physOf (dDev h.d + o) ≠ a := fun o ho =>
      ha i h hnext o (by simp only [List.length_take] at ho; omega)
    dsimp only
    split
    · rfl
    split
    · exact readByte_congr (congrArg Mdw.mem (demandDom_mdw s 56)) a
    split
    · exact readByte_congr (congrArg Mdw.mem ((audit_fp rfl s _ _ _ _ _ (Fp.refl 196609 s)).mdw rfl)) a
    split
    · split
      · exact (readByte_congr (markPoison_mem _ _ _ _) a).trans (readByte_writeDevice_other (hrange _) s)
      · rfl
    · exact (readByte_congr (markPoison_mem _ _ _ _) a).trans (readByte_writeDevice_other hwhole s)

end Sys2Proof.Machine
end

section
/-!
OBLIGATION O11. Gorse and Wind: a raw block by the verdict of its health tests, a retest, the block function and a Call's context.
-/
namespace Sys2Proof.Machine

/-! Wind blocks. -/

/-- The health tests a block meets, from where the last one left them. -/
def healthFrom (s : State) : Health := ⟨s.grs.rctLast, s.grs.rctRun, s.grs.aptN, s.grs.aptBit, s.grs.aptCnt, false, false⟩

theorem putHealth_grs (s : State) (h : Health) :
    (putHealth s h).grs.reqs = s.grs.reqs ∧ (putHealth s h).grs.ready = s.grs.ready := by
  unfold putHealth
  dsimp only
  split <;> split <;> exact ⟨rfl, rfl⟩

/-- The tests' own flags are all that a verdict writes. -/
theorem get_putHealth (s : State) (h : Health) {f : Fld} (hr : f.key ≠ Fld.grsWindStatusRctFail.key)
    (ha : f.key ≠ Fld.grsWindStatusAptFail.key) : get (putHealth s h) f = get s f := by
  have hrct : get (if h.rct then set s Fld.grsWindStatusRctFail 1 else s) f = get s f := get_ite (get_set_other _ _ _ _ hr) rfl
  exact get_ite ((get_set_other _ _ _ _ ha).trans hrct) hrct

/-- What Wind does with a block of the verdict `h`. -/
def judgeBlock (raw : BitVec 1536) (s : State) (h : Health) : State :=
  if h.rct || h.apt then
    let s := inc (putHealth s h) Fld.grsWindCountV 1
    let k := get s Fld.grsWindStatusConsec + 1
    let s := set s Fld.grsWindStatusConsec k
    if 3 ≤ k then windFail s else s
  else
    let s := set (putHealth s h) Fld.grsWindStatusConsec 0
    match s.grs.reqs with
    | w :: r => windDeliver (s.onGrs fun g => { g with reqs := r }) w (Config.sha384 (wireBytes raw))
    | [] => if s.grs.ready.length < 4 then s.onGrs fun g => { g with ready := g.ready ++ [Config.sha384 (wireBytes raw)] } else s

theorem exec_windBlock {raw : BitVec 1536} {s : State} (hs : windHealthy s = true) :
    exec (.windBlock raw) s = .next (judgeBlock raw s (healthBits raw (healthFrom s))) := by
  change execWindBlock raw s = _
  unfold execWindBlock judgeBlock healthFrom
  dsimp only
  generalize healthBits raw ⟨s.grs.rctLast, s.grs.rctRun, s.grs.aptN, s.grs.aptBit, s.grs.aptCnt, false, false⟩ = h
  exact congrArg Host.Outcome.next (if_neg (by rw [hs]; decide))

section
variable {raw : BitVec 1536} {s : State} {h : Health}

theorem judgeBlock_kept (hr : h.rct = false) (ha : h.apt = false) (hq : s.grs.reqs = []) (hroom : s.grs.ready.length < 4) :
    get (judgeBlock raw s h) Fld.grsWindStatusConsec = 0 ∧
      (judgeBlock raw s h).grs.ready = s.grs.ready ++ [Config.sha384 (wireBytes raw)] := by
  obtain ⟨hreqs, hready⟩ := putHealth_grs s h
  have hexec : judgeBlock raw s h = (set (putHealth s h) Fld.grsWindStatusConsec 0).onGrs fun g => { g with
      ready := g.ready ++ [Config.sha384 (wireBytes raw)] } := by
    simp only [judgeBlock, hr, ha, set_grs, hreqs, hq, hready]
    exact if_pos hroom
  rw [hexec]
  refine ⟨get_set_of_lt _ Fld.grsWindStatusConsec 0 (by decide), ?_⟩
  rw [State.onGrs_grs, set_grs, hready]

theorem judgeBlock_delivered (hr : h.rct = false) (ha : h.apt = false) {w : Nat} {r : List Nat} (hq : s.grs.reqs = w :: r) :
    ∃ u, judgeBlock raw s h = windDeliver u w (Config.sha384 (wireBytes raw)) ∧ u.grs.reqs = r := by
  refine ⟨(set (putHealth s h) Fld.grsWindStatusConsec 0).onGrs fun g => { g with reqs := r }, ?_, rfl⟩
  simp only [judgeBlock, hr, ha, set_grs, (putHealth_grs s h).1, hq]
  rfl

/-- A third failure in a row would fail Wind; before it the failure is counted and the blocks stay (R407). -/
theorem judgeBlock_failed (hr : h.rct = true) (hc : get s Fld.grsWindStatusConsec < 2) :
    get (judgeBlock raw s h) Fld.grsWindStatusConsec = get s Fld.grsWindStatusConsec + 1 ∧
      (judgeBlock raw s h).grs.ready = s.grs.ready := by
  have hcount : get (inc (putHealth s h) Fld.grsWindCountV 1) Fld.grsWindStatusConsec = get s Fld.grsWindStatusConsec :=
    (get_inc_other _ _ _ _ (by decide)).trans (get_putHealth s h (by decide) (by decide))
  have hexec : judgeBlock raw s h = set (inc (putHealth s h) Fld.grsWindCountV 1) Fld.grsWindStatusConsec
      (get s Fld.grsWindStatusConsec + 1) := by
    simp only [judgeBlock, hr, hcount, Bool.true_or, if_true]
    exact if_neg (by omega)
  rw [hexec]
  exact ⟨get_set_of_lt _ Fld.grsWindStatusConsec _ (show _ < 2 ^ 2 by omega), (putHealth_grs s h).2⟩

end

/-! Retests, the block function and contexts. -/

theorem windStartup_clears (s : State) : get (windStartup s) Fld.grsWindStatusState = 0 ∧
    get (windStartup s) Fld.grsWindStatusConsec = 0 ∧ (windStartup s).grs.ready = [] ∧ (windStartup s).grs.reqs = [] :=
  ⟨(get_set_other _ _ _ _ (by decide)).trans (get_set_of_lt _ Fld.grsWindStatusState 0 (by decide)),
    get_set_of_lt _ Fld.grsWindStatusConsec 0 (by decide), rfl, rfl⟩

theorem retest_restarts {v : Word} {s : State} (hr : reaches s 0 Fld.grsWindCtlRetest.off = true) (hv : bit v 0 = true)
    (hs : get s Fld.grsWindStatusState ≠ 0) :
    ∃ t, exec (.retest v) s = .next t ∧ get t Fld.grsWindStatusState = 0 ∧ get t Fld.grsWindStatusConsec = 0 ∧
      t.grs.ready = [] ∧ t.grs.reqs = [] :=
  ⟨_, congrArg Host.Outcome.next (if_pos (by simp [hr, hv, hs])), windStartup_clears _⟩

theorem grsTestOutV_key_inj (i j : Nat) (h : (Fld.grsTestOutV i).key = (Fld.grsTestOutV j).key) : i = j := by
  simp only [Fld.key, Fld.grsTestOutV] at h
  omega

theorem gorseTestGo_runs {v : Word} {s : State} (hr : reaches s 0 Fld.grsTestGoGo.off = true) (hv : bit v 0 = true) :
    ∃ t, exec (.gorseTestGo v) s = .next t ∧ get t Fld.grsTestGoDone = 1 ∧
      ∀ i < 4, get t (Fld.grsTestOutV i) = (gorseBlock ((List.range 4).map fun i => get s (Fld.grsTestKeyV i))
        ((List.range 4).map fun i => get s (Fld.grsTestCtrV i))).getD i 0 % 2 ^ 32 := by
  refine ⟨_, congrArg Host.Outcome.next (if_pos (by simp [hr, hv])), get_set_of_lt _ Fld.grsTestGoDone 1 (by decide),
    fun i hi => ?_⟩
  have hkey : (Fld.grsTestOutV i).key ≠ Fld.grsTestGoDone.key := by
    simp only [Fld.key, Fld.grsTestOutV, Fld.grsTestGoDone]
    omega
  exact (get_set_other _ _ _ _ hkey).trans (get_foldl_set_range Fld.grsTestOutV
    (fun i => (gorseBlock ((List.range 4).map fun i => get s (Fld.grsTestKeyV i))
      ((List.range 4).map fun i => get s (Fld.grsTestCtrV i))).getD i 0) grsTestOutV_key_inj hi _)

theorem context_kept {src : Fin 1024} {slot : Fin 16384} {ctx : GCtx} {poison : Bool} {s : State}
    (hl : leadDev s = some src.val) :
    ∃ t, exec (.context src slot ctx poison) s = .next t ∧ t.grs.ctx.get? slot.val = some (ctx, poison) ∧
      ∀ j, j ≠ slot.val → t.grs.ctx.get? j = s.grs.ctx.get? j :=
  ⟨_, congrArg Host.Outcome.next (if_pos (decide_eq_true hl)), AMap.get?_put_same _ _ _, fun j hj => AMap.get?_put_other _ _ j _ hj⟩

/-- Settles O11: the block's verdict, the requests that wait and the failures so far decide what Wind does with it. -/
theorem gorseCompletes : Obligations.GorseCompletes :=
  ⟨fun _ _ hs => ⟨fun hr ha hq hroom => ⟨_, exec_windBlock hs, judgeBlock_kept hr ha hq hroom⟩,
      fun hr ha _ _ hq => let ⟨u, ht, hu⟩ := judgeBlock_delivered hr ha hq; ⟨_, u, exec_windBlock hs, ht, hu⟩,
      fun hr hc => ⟨_, exec_windBlock hs, judgeBlock_failed hr hc⟩⟩,
    fun _ _ => retest_restarts, fun _ _ => gorseTestGo_runs, fun _ _ _ _ _ => context_kept⟩

end Sys2Proof.Machine
end

section
/-!
OBLIGATION O12. The block tables: the bytes and registers a table message leaves, the cached copies, and the lookup of a handle.
-/
namespace Sys2Proof.Machine

/-! The copy ahead of a write. -/

theorem copyFirst_mdw (s : State) (page : Bool) (n : Nat) : (copyFirst s page n).mdw = s.mdw :=
  (copyFirst_fp rfl s page n (Fp.refl 16385 s)).mdw rfl

theorem get_copyFirst (s : State) (page : Bool) (n : Nat) {f : Fld} (hc : f.key ≠ Fld.undStallCountV.key)
    (hm : f.key ≠ Fld.undStallMaxV.key) : get (copyFirst s page n) f = get s f :=
  get_ite ((get_set_other _ _ _ _ hm).trans (get_inc_other _ _ _ _ hc)) rfl

theorem get_dropHeath (s : State) (slot : Nat) {f : Fld} (he : f.key ≠ Fld.mdwHeathStatusEntries.key)
    (hp : f.key ≠ Fld.mdwHeathPagesV.key) : get (dropHeath s slot) f = get s f :=
  (get_set_other _ _ _ _ hp).trans (get_set_other _ _ _ _ he)

/-! Table messages. -/

theorem get_writeBytes (s : State) (a : Nat) (bs : List Byte) (f : Fld) : get (writeBytes s a bs) f = get s f := by
  induction bs generalizing s a with
  | nil => rfl
  | cons b bs ih => exact ih (writeByte s a b) (a + 1)

theorem get_uncache (s : State) (p : Nat → Bool) (f : Fld) : get (uncache s p) f = get s f := rfl

theorem readByte_uncache (s : State) (p : Nat → Bool) (a : Nat) : readByte (uncache s p) a = readByte s a := rfl

section
variable {msg : CueTok} {s : State} (hok : tableMsgBad s msg = false)
include hok

theorem applyTable_blockSet (hkind : clKind msg = 0x11) :
    applyTable s msg = uncache (writeLe (copyFirst s true (clSlot msg)) (tableAddr s (clSlot msg) (bits msg 32 14)) 4
      (mkEntry (bits msg 64 22) (bit msg 86))) (fun x => x = tableAddr s (clSlot msg) (bits msg 32 14)) :=
  (if_neg (by simp [hok])).trans (if_pos hkind)

theorem blockSet_writes_entry (hkind : clKind msg = 0x11) :
    ∃ t, exec (.blockSet msg) s = .next t ∧
      (∀ i < 4, readByte t (tableAddr s (clSlot msg) (bits msg 32 14) + i) =
        (leBytes 4 (mkEntry (bits msg 64 22) (bit msg 86))).getD i 0) ∧
      (∀ a, (a < tableAddr s (clSlot msg) (bits msg 32 14) ∨ tableAddr s (clSlot msg) (bits msg 32 14) + 4 ≤ a) →
        readByte t a = readByte s a) ∧
      ∀ f : Fld, f.key ≠ Fld.undStallCountV.key → f.key ≠ Fld.undStallMaxV.key → get t f = get s f := by
  refine ⟨_, rfl, ?_⟩
  rw [applyTable_blockSet hok hkind]
  refine ⟨fun i hi => ?_, fun a ha => ?_, fun f hc hm => ?_⟩
  · have hlen : i < (leBytes 4 (mkEntry (bits msg 64 22) (bit msg 86))).length := by rwa [leBytes_length]
    rw [readByte_uncache, writeLe, readByte_writeBytes_same _ _ _ _ hlen, List.getD_eq_getElem _ _ hlen]
  · rw [readByte_uncache, readByte_writeLe_other _ _ _ _ _ ha]
    exact readByte_congr (congrArg Mdw.mem (copyFirst_mdw _ _ _)) a
  · rw [get_uncache, writeLe, get_writeBytes, get_copyFirst s true _ hc hm]

/-- What a TABLE_CLEAR changes besides the table's bytes and the cached copies of them. -/
def clearedSlot (s : State) (slot : Nat) : State :=
  ((copyFirst (dropHeath s slot) true slot).onPrm fun p => { p with
      binds := p.binds.del slot, guesses := p.guesses.del slot, lists := p.lists.filter fun x => x.slot ≠ slot
      merges := p.merges.filter fun x => x.slot ≠ slot, handed := p.handed.filter fun x => x.1.1 ≠ slot }).onStm fun t => { t with
    flows := t.flows.filter fun x => flowSlot x.1 ≠ slot, flowNext := t.flowNext.filter fun x => flowSlot x.1 ≠ slot
    heldDone := t.heldDone.filter fun b => flowSlot b.flow ≠ slot
    spans := t.spans.filter fun x => x.slot ≠ slot, early := t.early.filter fun x => x.slot ≠ slot
    noTable := t.noTable.filter fun x => x ≠ slot }

theorem applyTable_clear (hkind : clKind msg = 0x12) :
    applyTable s msg = uncache (clearRange (clearedSlot s (clSlot msg)) (tableAddr s (clSlot msg) 0) 65536)
      (fun x => decide (tableAddr s (clSlot msg) 0 ≤ x) && decide (x < tableAddr s (clSlot msg) 0 + 65536)) :=
  (if_neg (by simp [hok])).trans (if_neg (by omega))

theorem tableClear_zeroes_table (hkind : clKind msg = 0x12) :
    ∃ t, exec (.tableClear msg) s = .next t ∧
      (∀ a, tableAddr s (clSlot msg) 0 ≤ a → a < tableAddr s (clSlot msg) 0 + 65536 → readByte t a = 0) ∧
      (∀ a, (a < tableAddr s (clSlot msg) 0 ∨ tableAddr s (clSlot msg) 0 + 65536 ≤ a) → readByte t a = readByte s a) ∧
      ∀ f : Fld, f.key ≠ Fld.undStallCountV.key → f.key ≠ Fld.undStallMaxV.key → f.key ≠ Fld.mdwHeathStatusEntries.key →
        f.key ≠ Fld.mdwHeathPagesV.key → get t f = get s f := by
  have hmem : (clearedSlot s (clSlot msg)).mdw.mem = s.mdw.mem := by
    change (copyFirst (dropHeath s (clSlot msg)) true (clSlot msg)).mdw.mem = _
    rw [copyFirst_mdw]
    rfl
  refine ⟨_, rfl, ?_⟩
  rw [applyTable_clear hok hkind]
  refine ⟨fun a h₁ h₂ => readByte_clearRange_in _ _ _ a h₁ h₂, fun a ha => ?_, fun f hc hm he hp => ?_⟩
  · rw [readByte_uncache, readByte_clearRange_out _ _ _ _ ha]
    exact readByte_congr hmem a
  · exact (get_copyFirst (dropHeath s (clSlot msg)) true _ hc hm).trans (get_dropHeath s _ he hp)

end

theorem tableInvalidate_all {v : Word} {s : State} (hr : reaches s 0 Fld.mdwTableInvalTable.off = true) (hk : bits v 0 3 = 1)
    (hall : bit v 3 = true) : ∃ t, exec (.tableInvalidate v) s = .next t ∧ t.mdw.cached = [] :=
  ⟨_, congrArg Host.Outcome.next (if_pos (by simp [hr, hk])), List.filter_eq_nil_iff.2 fun _ _ => by simp [hall]⟩

/-! The lookup of a handle. -/

/-- The blocks attached are the most recently attached ones. -/
def stampBlocks (s : State) (bs : List Nat) : State :=
  bs.foldl (fun (s : State) (b : Nat) => s.onMdw fun m => { m with
    stamp := m.stamp + 1
    blocks := match m.blocks.get? b with
      | some k => m.blocks.put b { k with lastAtt := m.stamp + 1 }
      | none => m.blocks }) s

theorem stampBlocks_stm (s : State) (bs : List Nat) : (stampBlocks s bs).stm = s.stm := by
  unfold stampBlocks
  refine foldl_keeps State.stm _ ?_ bs s
  exact fun _ _ => rfl

theorem prefixLookup_once {slot : Fin 16384} {c : Call} {s : State} (hc : callAt s slot.val = some c)
    (hdone : c.lookupDone = false) (hlive : c.phase ≠ .ended) :
    ∃ u n, exec (.prefixLookup slot) s = .next (announceBlocks (sweepBlocks u) c.slot (nextCue u)
        ((lookupBlocks s c).1.map (fun b => (b, true)) ++ c.blocks.drop n) 0) ∧ n = (lookupBlocks s c).1.length ∧
      u.stm.board = s.stm.board.map fun x => if x.slot = c.slot then { x with
        blocks := (lookupBlocks s c).1.map (fun b => (b, true)) ++ c.blocks.drop n, pend := x.pend.drop (64 * n)
        start := 64 * n, kvLen := 64 * n, hashed := n, lookupDone := true } else x := by
  let bs := (lookupBlocks s c).1
  let n := bs.length
  let w := inc (if (lookupBlocks s c).2 then inc s Fld.mdwMissHandleMiss 1 else s) Fld.mdwHitsV n
  let v := onCall w c.slot fun c' => { c' with
    blocks := bs.map (fun b => (b, true)) ++ c.blocks.drop n, pend := c'.pend.drop (64 * n), start := 64 * n, kvLen := 64 * n
    hashed := n, lookupDone := true }
  have hboard : w.stm.board = s.stm.board := by
    simp only [w, inc_stm]
    split <;> rfl
  refine ⟨stampBlocks v bs, n, ?_, rfl, ?_⟩
  · change execPrefixLookup slot s = _
    simp only [execPrefixLookup, hc]
    rw [if_neg (by simp [hdone, hlive])]
    rfl
  · rw [stampBlocks_stm]
    change mapIf (fun x => decide (x.slot = c.slot)) _ w.stm.board = _
    rw [hboard, mapIf_decide]

/-- Settles O12: a good message's kind decides, and neither the copy ahead of the write nor the slot's other state is memory. -/
theorem blockTablesComplete : Obligations.BlockTablesComplete :=
  ⟨fun _ _ => blockSet_writes_entry, fun _ _ => tableClear_zeroes_table, fun _ _ => tableInvalidate_all,
    fun _ _ _ => prefixLookup_once⟩

end Sys2Proof.Machine
end

section
/-!
OBLIGATION O13. A SUBMIT's decision: this device's number stands through it, and its answer finds the outcome slot, or leaves as a packet.
-/
namespace Sys2Proof.Machine

/-! This device's number through a decision. -/

theorem selfDev_congr {s t : State} (h : t.regs = s.regs) : selfDev t = selfDev s := get_congr h _

theorem selfDev_wmUpdate_intake (s : State) : selfDev (wmUpdate s 0) = selfDev s := get_wmUpdate_outside (by decide)

theorem selfDev_wmUpdate_decision (s : State) : selfDev (wmUpdate s 1) = selfDev s := get_wmUpdate_outside (by decide)

theorem freeRequest_regs (s : State) : (freeRequest s).regs = s.regs := (freeRequest_fp rfl s (Fp.refl 1024 s)).regs rfl

theorem noteHead_regs (s : State) : (noteHead s).regs = s.regs := (noteHead_fp rfl s (Fp.refl 4 s)).regs rfl

theorem selfDev_enterQueue (s : State) : selfDev (enterQueue s) = selfDev s := by
  refine (selfDev_congr (noteHead_regs _)).trans (get_foldl Fld.fabSelfDevice _ (fun u q => ?_) _ _)
  refine get_ite rfl ((selfDev_wmUpdate_decision _).trans (get_ite rfl ?_))
  exact get_congr (freeRequest_regs _) _

theorem selfDev_popHead (s : State) : selfDev (popHead s) = selfDev s := by
  rw [popHead, selfDev_enterQueue, selfDev_wmUpdate_intake, selfDev_wmUpdate_decision]
  rfl

theorem selfDev_book (s : State) (kind : Nat) (ten : Option Nat) (payload : Nat) :
    selfDev (book s kind ten payload) = selfDev s := get_bookAt s _ _ _ _ _ (by decide)

theorem selfDev_bookPrompt (s : State) (t : Nat) (prompt : List Nat) : selfDev (bookPrompt s t prompt) = selfDev s :=
  get_ite (selfDev_book _ _ _ _) (get_foldl Fld.fabSelfDevice _ (fun u _ => selfDev_book u _ _ _) _ _)

theorem selfDev_bookCard (s : State) (q : QCard) (status slot : Nat) : selfDev (bookCard s q status slot) = selfDev s := by
  have hbody (u : State) (g : State → Nat → Nat) : selfDev ((List.range 4).foldl (fun u i => book u 4 (some (cardTenant q.card))
      (g u i)) u) = selfDev u := get_foldl Fld.fabSelfDevice _ (fun u _ => selfDev_book u _ _ _) _ u
  unfold bookCard
  dsimp only
  have h := (hbody (book s 3 (some (cardTenant q.card)) _) fun _ i => place 0 8 i + bits q.card (256 * i) 256 * 2 ^ 64).trans
    (selfDev_book s 3 (some (cardTenant q.card)) (place 0 16 q.src + place 16 8 q.fn + place 24 8 (cardOp q.card) +
      place 32 32 (cardCallId q.card) + place 64 8 status + place 80 16 slot + place 96 48 (eligibleCue s)))
  exact get_ite ((selfDev_bookPrompt _ _ _).trans h) h

theorem selfDev_evict (s : State) : selfDev (evict s) = selfDev s := by
  unfold evict
  dsimp only
  split
  · exact get_inc_other _ _ _ _ (by decide)
  · rfl

theorem selfDev_drawBlocks (s : State) (seq k : Nat) : selfDev (drawBlocks s seq k).2 = selfDev s := by
  induction k generalizing s with
  | zero => rfl
  | succ k ih => exact (ih _).trans (get_ite (selfDev_evict s) rfl)

theorem selfDev_windRequest (s : State) (who : Nat) : selfDev (windRequest s who) = selfDev s := by
  unfold windRequest
  split
  · exact get_ite (get_set_other _ _ _ _ (by decide)) (get_set_other _ _ _ _ (by decide))
  split
  · exact get_ite ((get_set_other _ _ _ _ (by decide)).trans (get_set_other _ _ _ _ (by decide)))
      (get_set_other _ _ _ _ (by decide))
  · exact get_ite rfl rfl

theorem selfDev_tryRekey (s : State) : selfDev (tryRekey s) = selfDev s := get_ite (selfDev_windRequest _ _) rfl

theorem selfDev_takeSeed (s : State) : selfDev (takeSeed s).2 = selfDev s := by
  have hcount (u : State) (c : Nat) : selfDev (countSeed u c) = selfDev u := get_set_other _ _ _ _ (by decide)
  exact (get_ite (selfDev_tryRekey _) rfl).trans ((hcount _ _).trans (selfDev_tryRekey s))

/-! The decision up to its answer. -/

/-- What an answer looks at, and the Stage Manager, are as they were. -/
structure Unanswered (s t : State) : Prop where
  self : selfDev t = selfDev s
  hiu : t.hiu = s.hiu
  stm : t.stm = s.stm

theorem Unanswered.refl (s : State) : Unanswered s s := ⟨rfl, rfl, rfl⟩

theorem Unanswered.trans {s t u : State} (h : Unanswered s t) (k : Unanswered t u) : Unanswered s u :=
  ⟨k.self.trans h.self, k.hiu.trans h.hiu, k.stm.trans h.stm⟩

theorem unanswered_popHead (s : State) : Unanswered s (popHead s) :=
  ⟨selfDev_popHead s, (popHead_fp rfl s (Fp.refl 525317 s)).hiu rfl, popHead_stm s⟩

theorem unanswered_bookCard (s : State) (q : QCard) (status slot : Nat) : Unanswered s (bookCard s q status slot) :=
  ⟨selfDev_bookCard s q status slot, (bookCard_fp rfl s q status slot (Fp.refl 32769 s)).hiu rfl, bookCard_stm s q status slot⟩

theorem unanswered_book (s : State) (kind : Nat) (ten : Option Nat) (payload : Nat) : Unanswered s (book s kind ten payload) :=
  have h := book_fp rfl s kind ten payload (Fp.refl 32769 s)
  ⟨selfDev_book s kind ten payload, h.hiu rfl, h.stm rfl⟩

theorem unanswered_freeSlot (s : State) : Unanswered s (freeSlot s).2 :=
  have h := freeSlot_fp1 rfl s (Fp.refl 0 s)
  ⟨selfDev_congr (h.regs rfl), h.hiu rfl, h.stm rfl⟩

theorem unanswered_drawBlocks (s : State) (seq k : Nat) : Unanswered s (drawBlocks s seq k).2 :=
  have h := drawBlocks_fp1 rfl s seq k (Fp.refl 513 s)
  ⟨selfDev_drawBlocks s seq k, h.hiu rfl, h.stm rfl⟩

theorem unanswered_setLevel (s : State) (t : Nat) (v : Int) : Unanswered s (setLevel s t v) :=
  have h := setLevel_fp rfl s t v (Fp.refl 4 s)
  ⟨selfDev_congr (h.regs rfl), h.hiu rfl, h.stm rfl⟩

theorem unanswered_takeSeed (s : State) : Unanswered s (takeSeed s).2 :=
  have h := takeSeed_fp1 rfl s (Fp.refl 65665 s)
  ⟨selfDev_takeSeed s, h.hiu rfl, h.stm rfl⟩

theorem unanswered_countRefusal (s : State) (code : Nat) :
    Unanswered s (if refuseCode code then inc s (Fld.boxRefuseCountV code) 1 else s) := by
  split
  next h =>
    have hkey : Fld.fabSelfDevice.key ≠ (Fld.boxRefuseCountV code).key := by
      simp only [refuseCode, Bool.or_eq_true, Bool.and_eq_true, decide_eq_true_eq] at h
      simp only [Fld.key, Fld.fabSelfDevice, Fld.boxRefuseCountV]
      omega
    exact ⟨get_inc_other _ _ _ _ hkey, rfl, rfl⟩
  next => exact .refl s

/-! The answer. -/

/-- The footprint of an answer that finds the outcome slot, or leaves as a packet: neither the Call Board nor Meadow nor Gorse. -/
theorem answer_fp_of_outcome {s : State} {src tag : Nat} (h : src = selfDev s → ∃ i, findIdx (fun o => o.tag = some tag)
    s.hiu.outcomes = some i) (code outcome value detail : Nat) : Fp 1573895 s (answer s src tag code outcome value detail) := by
  unfold answer
  split
  next hsrc =>
    obtain ⟨i, hi⟩ := h hsrc
    simp only [decideTag, hi]
    exact decideSlot_fp rfl s i code outcome value detail (Fp.refl _ s)
  next => exact reply_fp rfl s 0x20 src tag _ _ (Fp.refl _ s)

section
variable {q : QCard} {s : State} (hslot : q.src = selfDev s → ∃ i, findIdx (fun o => o.tag = some q.tag) s.hiu.outcomes = some i)
include hslot

theorem answer_fp_of_unanswered {t : State} (h : Unanswered s t) (code outcome value detail : Nat) :
    Fp 1573895 t (answer t q.src q.tag code outcome value detail) :=
  answer_fp_of_outcome (by rwa [h.self, h.hiu]) code outcome value detail

/-- A refusal answers the card and leaves the Call Board, Meadow and Gorse. -/
theorem refuseHead_keeps {t : State} (h : Unanswered s t) (status value : Nat) :
    (refuseHead t q status value).stm = t.stm ∧ (refuseHead t q status value).mdw = t.mdw ∧
      (refuseHead t q status value).grs = t.grs := by
  have hbook := bookCard_fp rfl t q status 0xFFFF (Fp.refl 32769 t)
  have hpop := popHead_fp rfl (bookCard t q status 0xFFFF) (Fp.refl 525317 _)
  have hans := answer_fp_of_unanswered hslot ((h.trans (unanswered_bookCard t q status 0xFFFF)).trans (unanswered_popHead _))
    status 0 value 0
  exact ⟨(hans.stm rfl).trans ((hpop.stm rfl).trans (hbook.stm rfl)), (hans.mdw rfl).trans ((hpop.mdw rfl).trans (hbook.mdw rfl)),
    (hans.grs rfl).trans ((hpop.grs rfl).trans (hbook.grs rfl))⟩

/-- An admitted card's records and its answer leave the Stage Manager. -/
theorem answer_booked_stm {t : State} (hself : selfDev t = selfDev s) (hhiu : t.hiu = s.hiu) {wind : Prop} [Decidable wind]
    (slot : Nat) (ten : Option Nat) (payload n v : Nat) :
    (answer (popHead (if wind then book (bookCard t q stOk slot) 7 ten payload else bookCard t q stOk slot))
      q.src q.tag stOk 0 n v).stm = t.stm := by
  have h : Unanswered t (popHead (if wind then book (bookCard t q stOk slot) 7 ten payload else bookCard t q stOk slot)) := by
    refine ((unanswered_bookCard t q stOk slot).trans ?_).trans (unanswered_popHead _)
    split
    · exact unanswered_book _ _ _ _
    · exact .refl _
  refine ((answer_fp_of_outcome ?_ stOk 0 n v).stm rfl).trans h.stm
  rwa [h.self, hself, h.hiu, hhiu]

/-- An admission appends one Call, whatever slot, blocks, Costume and seed it draws. -/
theorem admitCall_stm : ∃ slot resv blocks costume ctx, (admitCall s q).stm = { s.stm with
    board := s.stm.board ++ [newCall slot s.stm.nextSeq q resv blocks costume ctx], nextSeq := s.stm.nextSeq + 1
    admittedToks := s.stm.admittedToks + cardPromptLen q.card } := by
  unfold admitCall
  dsimp only
  have hslot' := unanswered_freeSlot s
  generalize freeSlot s = fs at hslot' ⊢
  obtain ⟨slot, s₁⟩ := fs
  have hdraw := unanswered_drawBlocks s₁ s₁.stm.nextSeq (ceilDiv (cardPromptLen q.card) 64)
  dsimp only
  generalize drawBlocks s₁ s₁.stm.nextSeq (ceilDiv (cardPromptLen q.card) 64) = db at hdraw ⊢
  obtain ⟨bs, s₂⟩ := db
  dsimp only
  have hlevel := unanswered_setLevel s₂ (cardTenant q.card) (levelOf s₂ (cardTenant q.card) - cardPromptLen q.card)
  generalize setLevel s₂ (cardTenant q.card) (levelOf s₂ (cardTenant q.card) - cardPromptLen q.card) = s₃ at hlevel ⊢
  have hseed : Unanswered s₃ (if cardSeed q.card = 0 then takeSeed s₃ else (cardSeed q.card, s₃)).2 := by
    split
    · exact unanswered_takeSeed s₃
    · exact .refl s₃
  generalize (if cardSeed q.card = 0 then takeSeed s₃ else (cardSeed q.card, s₃)) = ts at hseed ⊢
  obtain ⟨seed, s₄⟩ := ts
  have hall : Unanswered s s₄ := ((hslot'.trans hdraw).trans hlevel).trans hseed
  rw [answer_booked_stm hslot (by exact hall.self) (by exact hall.hiu), State.onStm_stm, hall.stm, hslot'.stm]
  exact ⟨_, _, _, _, _, rfl⟩

end

theorem submit_admits {q : QCard} {s : State} (hq : headCard s 1 = some q)
    (hslot : q.src = selfDev s → ∃ i, findIdx (fun o => o.tag = some q.tag) s.hiu.outcomes = some i) (hok : admitCheck s q = 0) :
    ∃ t call, exec .submit s = .next t ∧ t.stm.board = s.stm.board ++ [call] ∧
      t.stm.nextSeq = s.stm.nextSeq + 1 ∧ t.stm.admittedToks = s.stm.admittedToks + cardPromptLen q.card ∧
      call.src = q.src ∧ call.fn = q.fn ∧ call.callId = cardCallId q.card ∧ call.tenant = cardTenant q.card ∧
      call.phase = .prefilling ∧ call.pend = q.prompt ∧ call.kvLen = 0 ∧ call.credits = 64 := by
  obtain ⟨slot, resv, blocks, costume, ctx, hstm⟩ := admitCall_stm hslot
  refine ⟨admitCall s q, newCall slot s.stm.nextSeq q resv blocks costume ctx, ?_, by rw [hstm], by rw [hstm], by rw [hstm],
    rfl, rfl, rfl, rfl, rfl, rfl, rfl, rfl⟩
  change execSubmit s = _
  simp only [execSubmit, hq, hok]
  rfl

theorem submit_refuses {q : QCard} {s : State} (hq : headCard s 1 = some q)
    (hslot : q.src = selfDev s → ∃ i, findIdx (fun o => o.tag = some q.tag) s.hiu.outcomes = some i) (hbad : admitCheck s q ≠ 0) :
    ∃ t, exec .submit s = .next t ∧ t.stm = s.stm ∧ t.mdw = s.mdw ∧ t.grs = s.grs ∧
      t = refuseHead (if refuseCode (admitCheck s q) then inc s (Fld.boxRefuseCountV (admitCheck s q)) 1 else s) q
        (admitCheck s q) noPos := by
  have hcounted : ∀ t, t = (if refuseCode (admitCheck s q) then inc s (Fld.boxRefuseCountV (admitCheck s q)) 1 else s) →
      t.mdw = s.mdw ∧ t.grs = s.grs := by
    rintro t rfl
    split <;> exact ⟨rfl, rfl⟩
  obtain ⟨hmdw, hgrs⟩ := hcounted _ rfl
  have hcount := unanswered_countRefusal s (admitCheck s q)
  obtain ⟨rstm, rmdw, rgrs⟩ := refuseHead_keeps hslot hcount (admitCheck s q) noPos
  refine ⟨_, ?_, rstm.trans hcount.stm, rmdw.trans hmdw, rgrs.trans hgrs, rfl⟩
  change execSubmit s = _
  simp only [execSubmit, hq]
  exact congrArg Host.Outcome.next (if_pos hbad)

/-- Settles O13: the card passes Table BOX-1 or fails a check of it, and its answer touches neither the Call Board nor the memory. -/
theorem submitDecides : Obligations.SubmitDecides := fun _ _ hq hslot => ⟨submit_admits hq hslot, submit_refuses hq hslot⟩

end Sys2Proof.Machine
end

section
/-!
OBLIGATION O15. A member's report finds its Call by the slot, and a change that keeps slots is seen there.
-/
namespace Sys2Proof.Machine

theorem callAt_onCall {s : State} {slot : Nat} {c : Call} (hc : callAt s slot = some c) (f : Call → Call)
    (hf : ∀ x : Call, (f x).slot = x.slot) : callAt (onCall s slot f) slot = some (f c) := by
  change (mapIf (fun x : Call => decide (x.slot = slot)) f s.stm.board).find? (fun x => decide (x.slot = slot)) = _
  rw [find?_mapIf _ _ _ fun x hx => by rwa [hf x]]
  exact congrArg (Option.map f) hc

theorem leadChunk_good {s : State} {slot cue16 start toks : Nat} {c : Call} {l : Listing} (hc : callAt s slot = some c)
    (hl : listingOf c cue16 false = some l) : ∃ f : Call → Call, leadChunk s slot cue16 start toks false false = onCall s slot f ∧
      ∀ x, (f x).slot = x.slot ∧ (f x).kvLen = max x.kvLen (start + toks) ∧ (f x).doom = x.doom := by
  simp only [leadChunk, hc, hl]
  exact ⟨_, rfl, fun _ => ⟨rfl, rfl, rfl⟩⟩

section
variable {s : State} {src : Fin 1024} {slot : Fin 16384} {c : Call} (hlead : isLead s = true) (hmem : src.val ∈ memberDevs s)
  (hc : callAt s slot.val = some c)
include hlead hmem hc

theorem chunkDone_extends {e : ChunkRep} (he : e.slot = slot) {l : Listing} (hl : listingOf c e.cue16.toNat false = some l)
    (hp : e.poison = false) (hf : e.fail = false) : ∃ t c', exec (.chunkDone src [e]) s = .next t ∧ callAt t slot.val = some c' ∧
      c'.kvLen = max c.kvLen (e.start.toNat + e.toks.toNat) ∧ c'.doom = c.doom := by
  subst he
  obtain ⟨f, heq, hkeep⟩ := leadChunk_good (start := e.start.toNat) (toks := e.toks.toNat) hc hl
  refine ⟨_, f c, congrArg Host.Outcome.next (if_pos (by simp [hlead, hmem])), ?_, (hkeep c).2⟩
  rw [List.foldl_cons, List.foldl_nil, hp, hf, heq]
  exact callAt_onCall hc f fun x => (hkeep x).1

theorem spilled_reports (hh : c.heath = .spilling) :
    ∃ t c', exec (.spilled src slot 0) s = .next t ∧ callAt t slot.val = some c' ∧ c'.reports = c.reports ++ [src.val] := by
  refine ⟨_, { c with reports := c.reports ++ [src.val] }, congrArg Host.Outcome.next (if_pos (by simp [hlead, hmem])), ?_, rfl⟩
  simp only [leadSpilled, hc]
  rw [if_neg (by simp [hh]), if_neg (by decide)]
  exact callAt_onCall hc (fun c => { c with reports := c.reports ++ [src.val] }) fun _ => rfl

theorem filled_reports (hh : c.heath = .filling) :
    ∃ t c', exec (.filled src slot 0) s = .next t ∧ callAt t slot.val = some c' ∧ c'.reports = c.reports ++ [src.val] := by
  refine ⟨_, { c with reports := c.reports ++ [src.val] }, congrArg Host.Outcome.next (if_pos (by simp [hlead, hmem])), ?_, rfl⟩
  simp only [leadFilled, hc]
  rw [if_neg (by simp), if_neg (by simp [hh]), if_neg (by decide), if_neg (by decide)]
  exact callAt_onCall hc (fun c => { c with reports := c.reports ++ [src.val] }) fun _ => rfl

theorem filled_poisons (hh : c.heath = .filling) :
    ∃ t c', exec (.filled src slot 1) s = .next t ∧ callAt t slot.val = some c' ∧ c'.doom = some stPoison := by
  refine ⟨_, { c with doom := some stPoison }, congrArg Host.Outcome.next (if_pos (by simp [hlead, hmem])), ?_, rfl⟩
  simp only [leadFilled, hc]
  rw [if_neg (by simp), if_neg (by simp [hh]), if_pos trivial]
  exact callAt_onCall hc (fun c => { c with doom := some stPoison }) fun _ => rfl

end

/-- Settles O15: each report is one change of the Call in its slot. -/
theorem memberReportsComplete : Obligations.MemberReportsComplete :=
  ⟨fun _ _ _ _ _ hlead hmem hc hl hp hf => chunkDone_extends hlead hmem hc rfl hl hp hf,
    fun _ _ _ _ => spilled_reports, fun _ _ _ _ hlead hmem hc hh =>
      ⟨filled_reports hlead hmem hc hh, filled_poisons hlead hmem hc hh⟩⟩

end Sys2Proof.Machine
end

section
/-!
OBLIGATIONS O17, O18. The lighting domains: what each change of a domain leaves of its state, phase, target, demand and contents.
-/
namespace Sys2Proof.Machine

/-! The fields of a domain. -/

theorem key_ne_of_lo {f g : Fld} (hoff : f.off = g.off) (hlo : Nat.beq f.lo g.lo = false) : f.key ≠ g.key := by
  intro h
  unfold Fld.key at h
  exact Nat.ne_of_beq_eq_false hlo (by omega)

/-- A domain's TARGET is in its control word, and what the desk sets is in its status word. -/
theorem target_key_ne {d : Nat} {f : Fld} (hoff : f.off = (Fld.lgtDomStatusState d).off) (hlo : f.lo < 32) :
    (Fld.lgtDomCtlTarget d).key ≠ f.key := by
  simp only [Fld.key, hoff, Fld.lgtDomStatusState, Fld.lgtDomCtlTarget]
  omega

theorem domTarget_set_status (s : State) {d : Nat} {f : Fld} (v : Nat) (hoff : f.off = (Fld.lgtDomStatusState d).off)
    (hlo : f.lo < 32) : domTarget (set s f v) d = domTarget s d := by
  unfold domTarget
  rw [get_set_other _ _ _ _ (target_key_ne hoff hlo)]

@[simp] theorem domOf_onDom_same (s : State) (d : Nat) (f : Dom → Dom) : domOf (onDom s d f) d = f (domOf s d) :=
  AMap.getD_setD_same _ _ _ _

@[simp] theorem get_onDom (s : State) (d : Nat) (f : Dom → Dom) (g : Fld) : get (onDom s d f) g = get s g := rfl

theorem domPhase_startRise (s : State) (d : Nat) : domPhase (startRise s d) d = 2 :=
  (get_set_other _ _ _ _ (by exact key_ne_of_lo rfl rfl)).trans (get_set_of_lt _ (Fld.lgtDomStatusPhase d) 2 (show 2 < 2 ^ 2 by decide))

/-! Demand. -/

theorem domainDemand_rises {d : Fin 64} {s : State} (hp : domPhase s d.val = 0) (hs : domState s d.val ≠ 0) (hd : d.val ≠ 63) :
    ∃ t, exec (.domainDemand d) s = .next t ∧ domPhase t d.val = 2 ∧ (domOf t d.val).demand = true := by
  let w := onDom s d.val fun x => { x with demand := true }
  refine ⟨startRise w d.val, congrArg Host.Outcome.next ((if_neg ?_).trans (if_pos ⟨hp, hs, hd⟩)), domPhase_startRise w d.val,
    congrArg Dom.demand (domOf_onDom_same s d.val fun x => { x with demand := true })⟩
  change ¬ domPhase s d.val = 1
  omega

theorem domainDemand_pends {d : Fin 64} {s : State} (hp : domPhase s d.val = 1) :
    ∃ t, exec (.domainDemand d) s = .next t ∧ get t (Fld.lgtDomStatusPendingOn d.val) = 1 ∧ domPhase t d.val = 1 :=
  ⟨_, congrArg Host.Outcome.next (if_pos hp), get_set_of_lt _ (Fld.lgtDomStatusPendingOn d.val) 1 (show 1 < 2 ^ 1 by decide),
    (get_set_other _ _ _ _ (by exact key_ne_of_lo rfl rfl)).trans hp⟩

theorem domainDemand_marks {d : Fin 64} {s : State} (hp : domPhase s d.val = 0) (hd : domState s d.val = 0 ∨ d.val = 63) :
    exec (.domainDemand d) s = .next (onDom s d.val fun x => { x with demand := true }) := by
  refine congrArg Host.Outcome.next ((if_neg ?_).trans (if_neg ?_))
  · change ¬ domPhase s d.val = 1
    omega
  · rintro ⟨-, hs, h63⟩
    exact hd.elim hs h63

/-! The idle rule. -/

theorem domainIdle_settled {d : Fin 64} {s : State} (hp : domPhase s d.val = 0) (hd : d.val ≠ 63) :
    exec (.domainIdle d) s = .next (idleRule (onDom s d.val fun x => { x with demand := false }) d.val) :=
  congrArg Host.Outcome.next (if_pos ⟨hp, hd⟩)

/-- An engine pair has no link. -/
theorem startFall_pair (s : State) {d : Nat} (t : Nat) (hd : d < 48) : startFall s d t =
    onDom (set (set s (Fld.lgtDomStatusPhase d) 1) (Fld.lgtDomStatusBlocked d) 0) d fun x => { x with fall := t, demand := false } := by
  unfold startFall
  dsimp only
  rw [if_neg (by omega)]

theorem domainIdle_falls {d : Fin 64} {s : State} (hp : domPhase s d.val = 0) (hd : d.val ≠ 63)
    (ht : domState s d.val < domTarget s d.val) (hmay : mayFall s d.val (domTarget s d.val) = true) (hpair : d.val < 48) :
    ∃ t, exec (.domainIdle d) s = .next t ∧ domPhase t d.val = 1 ∧ (domOf t d.val).fall = domTarget s d.val := by
  let w := onDom s d.val fun x => { x with demand := false }
  refine ⟨startFall w d.val (domTarget s d.val), ?_, ?_, ?_⟩
  · rw [domainIdle_settled hp hd]
    exact congrArg Host.Outcome.next ((if_pos ht).trans (if_pos hmay))
  · rw [startFall_pair _ _ hpair]
    exact (get_set_other _ _ _ _ (by exact key_ne_of_lo rfl rfl)).trans (get_set_of_lt _ (Fld.lgtDomStatusPhase d.val) 1 (show 1 < 2 ^ 2 by decide))
  · rw [startFall_pair _ _ hpair, domOf_onDom_same]

/-! A domain settles. -/

theorem get_settle (s : State) (d x : Nat) (f : Fld) : get (settle s d x) f =
    get (set (set s (Fld.lgtDomStatusPhase d) 0) (Fld.lgtDomStatusState d) x) f := by
  have hlose (u : State) : (loseContents u d).regs = u.regs := (loseContents_fp rfl u d (Fp.refl 4194816 u)).regs rfl
  have hclear (u : State) : (clearLogic u d).regs = u.regs := (clearLogic_fp rfl u d (Fp.refl 32 u)).regs rfl
  have hlogic (u : State) : get (if 2 ≤ x then clearLogic u d else u) f = get u f := get_ite (get_congr (hclear u) f) rfl
  exact get_ite ((get_congr (hlose _) f).trans (hlogic _)) (hlogic _)

theorem domState_settle (s : State) (d : Nat) {x : Nat} (hx : x < 8) : domState (settle s d x) d = x :=
  (get_settle s d x _).trans (get_set_of_lt _ (Fld.lgtDomStatusState d) x hx)

theorem domPhase_settle (s : State) (d x : Nat) : domPhase (settle s d x) d = 0 :=
  (get_settle s d x _).trans ((get_set_other _ _ _ _ (by exact key_ne_of_lo rfl rfl)).trans
    (get_set_of_lt _ (Fld.lgtDomStatusPhase d) 0 (show 0 < 2 ^ 2 by decide)))

theorem domTarget_settle (s : State) (d x : Nat) : domTarget (settle s d x) d = domTarget s d := by
  have h : domTarget (settle s d x) d = domTarget (set (set s (Fld.lgtDomStatusPhase d) 0) (Fld.lgtDomStatusState d) x) d := by
    unfold domTarget
    rw [get_settle]
  exact h.trans ((domTarget_set_status _ _ rfl (show 0 < 32 by decide)).trans
    (domTarget_set_status _ _ rfl (show 3 < 32 by decide)))

theorem settle_lgt (s : State) (d x : Nat) : (settle s d x).lgt = s.lgt := (settle_fp rfl s d x (Fp.refl 4194849 s)).lgt rfl

theorem clearLogic_mdw (s : State) (d : Nat) : (clearLogic s d).mdw = s.mdw := (clearLogic_fp rfl s d (Fp.refl 32 s)).mdw rfl

theorem readByte_settle_kept (s : State) (d : Nat) {x : Nat} (hx : x ≠ 4) (a : Nat) : readByte (settle s d x) a = readByte s a := by
  unfold settle
  dsimp only
  rw [if_neg hx]
  split
  · exact readByte_congr (congrArg Mdw.mem (clearLogic_mdw _ _)) a
  · rfl

/-- A Struck pair's Loft is lost. -/
theorem readByte_settle_struck (s : State) {d : Nat} (hd : d < 48) {a : Nat} (h₁ : 2 * d * 0x600000 ≤ a)
    (h₂ : a < 2 * d * 0x600000 + 2 * 0x600000) : readByte (settle s d 4) a = 0 := by
  unfold settle loseContents
  dsimp only
  rw [if_pos rfl, if_pos hd]
  exact readByte_clearRange_in _ _ _ a h₁ h₂

theorem shutdownComplete_settles {d : Fin 64} {s : State} (hp : domPhase s d.val = 1)
    (hon : isSet s (Fld.lgtDomStatusPendingOn d.val) = false) (htrip : s.lgt.trip = false)
    (ht : domTarget s d.val ≤ (domOf s d.val).fall) (hf : (domOf s d.val).fall ≤ 4) :
    ∃ t, exec (.shutdownComplete d) s = .next t ∧ domState t d.val = (domOf s d.val).fall ∧ domPhase t d.val = 0 ∧
      ((domOf s d.val).fall = 4 → d.val < 48 → ∀ a, 2 * d.val * 0x600000 ≤ a → a < 2 * d.val * 0x600000 + 2 * 0x600000 →
        readByte t a = 0) ∧
      ((domOf s d.val).fall ≠ 4 → ∀ a, readByte t a = readByte s a) := by
  have hstate := domState_settle s d.val (x := (domOf s d.val).fall) (by omega)
  have hon' : isSet (settle s d.val (domOf s d.val).fall) (Fld.lgtDomStatusPendingOn d.val) = false := by
    unfold isSet at hon ⊢
    rw [get_settle]
    exact (congrArg (fun n => decide (n ≠ 0)) ((get_set_other _ _ _ _ (by exact key_ne_of_lo rfl rfl)).trans
      (get_set_other _ _ _ _ (by exact key_ne_of_lo rfl rfl)))).trans hon
  refine ⟨settle s d.val (domOf s d.val).fall, congrArg Host.Outcome.next ((if_neg (by omega)).trans ((if_neg ?_).trans
    ((if_neg ?_).trans (if_neg ?_)))), hstate, domPhase_settle _ _ _, fun h hd a h₁ h₂ => ?_,
    fun h a => readByte_settle_kept s d.val h a⟩
  · rw [hon']
    exact Bool.false_ne_true
  · rw [settle_lgt, htrip]
    exact Bool.false_ne_true
  · rw [hstate, domTarget_settle]
    omega
  · rw [h]
    exact readByte_settle_struck s hd h₁ h₂

theorem pgFail_strikes {d : Fin 64} {s : State} (hp : domPhase s d.val = 2) :
    ∃ u t, exec (.pgFail d) s = .next t ∧ t = report (advance u) 0x0C01 0xFFFF (fresh u % 2 ^ 32) ∧
      domState u d.val = 4 ∧ domPhase u d.val = 0 ∧ get u (Fld.lgtDomStatusPgFail d.val) = 1 :=
  ⟨set (settle s d.val 4) (Fld.lgtDomStatusPgFail d.val) 1, _, congrArg Host.Outcome.next (if_neg (by omega)), rfl,
    (get_set_other _ _ _ _ (by exact key_ne_of_lo rfl rfl)).trans (domState_settle s d.val (by decide)),
    (get_set_other _ _ _ _ (by exact key_ne_of_lo rfl rfl)).trans (domPhase_settle s d.val 4),
    get_set_of_lt _ (Fld.lgtDomStatusPgFail d.val) 1 (show 1 < 2 ^ 1 by decide)⟩

/-! A domain is Lit. -/

/-- A domain whose return completed, before its contents and links follow. -/
def litAgain (s : State) (d : Nat) : State :=
  set (set (set s (Fld.lgtDomStatusPhase d) 0) (Fld.lgtDomStatusState d) 0) (Fld.lgtDomStatusPendingOff d) 0

theorem domLit_litAgain (s : State) (d : Nat) : domLit (litAgain s d) d = true := by
  have hstate : domState (litAgain s d) d = 0 := (get_set_other _ _ _ _ (by exact key_ne_of_lo rfl rfl)).trans
    (get_set_of_lt _ (Fld.lgtDomStatusState d) 0 (show 0 < 2 ^ 3 by decide))
  have hphase : domPhase (litAgain s d) d = 0 := (get_set_other _ _ _ _ (by exact key_ne_of_lo rfl rfl)).trans
    ((get_set_other _ _ _ _ (by exact key_ne_of_lo rfl rfl)).trans (get_set_of_lt _ (Fld.lgtDomStatusPhase d) 0 (show 0 < 2 ^ 2 by decide)))
  simp [domLit, hstate, hphase]

theorem landStores_regs (s : State) (d : Nat) : (landStores s d).regs = s.regs :=
  (landStores_fp rfl s d (Fp.refl 4194848 s)).regs rfl

theorem landStores_lgt (s : State) (d : Nat) : (landStores s d).lgt = s.lgt :=
  (landStores_fp rfl s d (Fp.refl 4194848 s)).lgt rfl

/-- The contents and the links that follow a return leave the desk and its registers. -/
theorem powerupComplete_lights {d : Fin 64} {s : State} (hp : domPhase s d.val = 2)
    (hoff : isSet s (Fld.lgtDomStatusPendingOff d.val) = false) (htrip : s.lgt.trip = false) :
    ∃ t, exec (.powerupComplete d) s = .next t ∧ domLit t d.val = true := by
  let u := if d.val < 48 then landStores (litAgain s d.val) d.val else litAgain s d.val
  let v := if 48 ≤ d.val ∧ d.val < 54 then
      [2 * (d.val - 48), 2 * (d.val - 48) + 1].foldl (fun s l =>
        if isSet s (Fld.fabLinkCtlEn l) && get s (Fld.fabLinkStatusState l) = 0 then set s (Fld.fabLinkStatusState l) 1
        else s) u
    else u
  have hget (f : Fld) (hf : ∀ l < 12, f.key ≠ (Fld.fabLinkStatusState l).key) : get v f = get (litAgain s d.val) f := by
    have hu : get u f = get (litAgain s d.val) f := get_ite (get_congr (landStores_regs _ _) f) rfl
    refine Eq.trans ?_ hu
    by_cases hlink : 48 ≤ d.val ∧ d.val < 54
    · refine (congrArg (get · f) (if_pos hlink)).trans (get_foldl_mem f _ _ (fun l hl w => ?_) u)
      refine get_ite (get_set_other _ _ _ _ (hf l ?_)) rfl
      simp only [List.mem_cons, List.not_mem_nil, or_false] at hl
      omega
    · exact congrArg (get · f) (if_neg hlink)
  have hlgt : v.lgt = s.lgt := by
    have hu : u.lgt = s.lgt := by
      by_cases hpair : d.val < 48
      · exact (congrArg State.lgt (if_pos hpair)).trans (landStores_lgt _ _)
      · exact (congrArg State.lgt (if_neg hpair)).trans rfl
    refine Eq.trans ?_ hu
    by_cases hlink : 48 ≤ d.val ∧ d.val < 54
    · refine (congrArg State.lgt (if_pos hlink)).trans (foldl_keeps State.lgt _ (fun w l => ?_) _ u)
      split <;> rfl
    · exact congrArg State.lgt (if_neg hlink)
  have hlit : domLit v d.val = true := by
    have hkey (f : Fld) (hf : 0x1100000 ≤ f.off) : ∀ l < 12, f.key ≠ (Fld.fabLinkStatusState l).key := fun l _ => by
      simp only [Fld.key, Fld.fabLinkStatusState]
      omega
    have hoff : 0x1100000 ≤ 0x1100104 + 8 * d.val := by omega
    refine Eq.trans ?_ (domLit_litAgain s d.val)
    unfold domLit domState domPhase
    rw [hget _ (hkey _ hoff), hget _ (hkey _ hoff)]
  refine ⟨v, congrArg Host.Outcome.next ((if_neg (by omega)).trans ((if_neg ?_).trans (if_neg ?_))), hlit⟩
  · change ¬ v.lgt.trip = true
    rw [hlgt, htrip]
    exact Bool.false_ne_true
  · rw [hoff]
    exact Bool.false_ne_true

/-- Settles O17: each command's branch is decided by the domain's state, phase and marks, and the fields it sets stand apart. -/
theorem domainsComplete : Obligations.DomainsComplete :=
  ⟨fun _ _ => domainDemand_rises, fun _ _ => domainDemand_pends, fun _ _ => domainDemand_marks, fun _ _ => domainIdle_settled,
    fun _ _ => domainIdle_falls, fun _ _ => shutdownComplete_settles, fun _ _ => powerupComplete_lights, fun _ _ => pgFail_strikes⟩

/-! Writes of the desk's registers. -/

section
variable {d : Fin 64} {v : Word} {s : State} (hr : reaches s 0 (Fld.lgtDomCtlTarget d.val).off = true) (hd : d.val ≠ 63)
include hr hd

/-- A code 0 to 4 is kept. -/
theorem exec_targetWrite_kept {x : Nat} (hx : bits v 0 3 = x) (hlt : x < 5) : exec (.targetWrite d v) s = .next
    (let t := set (commandWord s 0 (Fld.lgtDomCtlTarget d.val).off v) (Fld.lgtDomCtlTarget d.val) x
      if x = 0 ∧ domState t d.val ≠ 0 ∧ domPhase t d.val = 0 ∧ d.val ≠ 63 then startRise t d.val
      else if x = 0 ∧ domPhase t d.val = 1 then set t (Fld.lgtDomStatusPendingOn d.val) 1
      else if domPhase t d.val = 2 ∧ x ≠ 0 then set t (Fld.lgtDomStatusPendingOff d.val) 1
      else if domPhase t d.val = 0 ∧ (domOf t d.val).demand = false then idleRule t d.val
      else t) := by
  subst hx
  exact congrArg Host.Outcome.next (if_neg (by simp [hr, hd, hlt]))

theorem targetWrite_rises (hx : bits v 0 3 = 0) :
    let t := set (commandWord s 0 (Fld.lgtDomCtlTarget d.val).off v) (Fld.lgtDomCtlTarget d.val) 0
    domState t d.val ≠ 0 → domPhase t d.val = 0 → exec (.targetWrite d v) s = .next (startRise t d.val) := by
  intro t hs hp
  rw [exec_targetWrite_kept hr hd hx (by decide)]
  exact congrArg Host.Outcome.next (if_pos ⟨rfl, hs, hp, hd⟩)

theorem targetWrite_demanded (hx : bits v 0 3 ≠ 0) (hlt : bits v 0 3 < 5) :
    let t := set (commandWord s 0 (Fld.lgtDomCtlTarget d.val).off v) (Fld.lgtDomCtlTarget d.val) (bits v 0 3)
    domPhase t d.val = 0 → (domOf t d.val).demand = true → exec (.targetWrite d v) s = .next t := by
  intro t hp hdem
  rw [exec_targetWrite_kept hr hd rfl hlt]
  refine congrArg Host.Outcome.next ((if_neg fun h => hx h.1).trans ((if_neg fun h => hx h.1).trans
    ((if_neg fun h => ?_).trans (if_neg fun h => ?_))))
  · exact absurd (hp.symm.trans h.1) (by decide)
  · exact absurd (hdem.symm.trans h.2) (by decide)

end

theorem deepOff_strikes {v : Word} {s : State} (hr : reaches s 0 Fld.lgtCtlDeepOff.off = true) (hv : bit v 1 = true)
    (hx : isSet s Fld.fabExitCtlDrained = true) (hdown : ∀ d < 63, domState s d = 4 ∧ domPhase s d = 0) :
    ∃ t, exec (.deepOff v) s = .next t ∧ domState t 63 = 4 := by
  refine ⟨_, congrArg Host.Outcome.next (if_pos ?_), get_set_of_lt _ (Fld.lgtDomStatusState 63) 4 (by decide)⟩
  have hall : ((List.range 63).all fun d => domState s d = 4 && domPhase s d = 0) = true :=
    List.all_eq_true.2 fun d hd => by simp [hdown d (List.mem_range.1 hd)]
  rw [hr, hv, hx, hall]
  rfl

/-- Settles O18: the written code, the domain's phase and its demand decide. -/
theorem targetWriteCompletes : Obligations.TargetWriteCompletes :=
  ⟨fun _ _ _ hr hx hd => targetWrite_rises hr hd hx, fun _ _ _ hr hx hlt hd => targetWrite_demanded hr hd hx hlt,
    fun _ _ => deepOff_strikes⟩

end Sys2Proof.Machine
end

section
/-!
OBLIGATION O19. The cue's energy budget, its reports at the lead, and the brake: its edges and the ticks of its loop.
-/
namespace Sys2Proof.Machine

/-! The budget. -/

theorem sendBudget_lgt (s : State) (n e : Nat) (ew : Bool) : (sendBudget s n e ew).lgt = s.lgt :=
  (sendBudget_fp rfl s n e ew (Fp.refl 1049609 s)).lgt rfl

theorem sendBudget_st (s : State) (n e : Nat) (ew : Bool) : (sendBudget s n e ew).st = s.st :=
  (sendBudget_fp rfl s n e ew (Fp.refl 1049609 s)).st rfl

/-- A budget does not depend on the instant it is computed at. -/
theorem budgetOf_setSt (s : State) (x n t meas : Nat) : budgetOf (s.setSt x) n t meas = budgetOf s n t meas := rfl

theorem budgetOf_disabled {s : State} (h : isSet s Fld.lgtCtlBudgetEn = false) (n t meas : Nat) :
    budgetOf s n t meas = getA s Fld.lgtCapCapMw * (launchSt s (n + 1) - launchSt s n) / 1000000 :=
  if_neg (by rw [h]; decide)

theorem budgetCompute_computes {temps : List Nat} {meas : Nat} {s : State} (hb : booted s = true) (hl : (leadDev s).isSome = true)
    (hnew : ∀ b ∈ s.lgt.budgets, b.1 ≠ nextCue s) :
    ∃ t e, exec (.budgetCompute temps meas) s = .next t ∧ t.lgt.budgets = keepLast 4 (s.lgt.budgets ++ [(nextCue s, e)]) ∧
      s.st ≤ t.st ∧ t.lgt.seenSince = false ∧ e = budgetOf s (nextCue s) (temps.foldl max 0) meas ∧
      (isSet s Fld.lgtCtlBudgetEn = false →
        e = getA s Fld.lgtCapCapMw * (launchSt s (nextCue s + 1) - launchSt s (nextCue s)) / 1000000) := by
  have hany : s.lgt.budgets.any (fun b => decide (b.1 = nextCue s)) = false :=
    List.any_eq_false.2 fun b hb => by simp [hnew b hb]
  have hsome : (leadDev s).isNone = false := by rw [Option.isNone_eq_false_iff, hl]
  refine ⟨_, budgetOf s (nextCue s) (temps.foldl max 0) meas, congrArg Host.Outcome.next (if_neg (by simp [hb, hsome, hany])),
    ?_, ?_, ?_, rfl, fun h => budgetOf_disabled h _ _ _⟩
  · rw [sendBudget_lgt, budgetOf_setSt]
    rfl
  · rw [sendBudget_st]
    exact le_max_left _ _
  · rw [sendBudget_lgt]
    rfl

theorem mem_keepLast_append {α : Type} {n : Nat} (hn : 0 < n) (l : List α) (x : α) : x ∈ keepLast n (l ++ [x]) := by
  unfold keepLast
  rw [List.drop_append_of_le_length (by rw [List.length_append, List.length_singleton]; omega)]
  exact List.mem_append_right _ (List.mem_singleton_self x)

/-- The newest report of a member is kept, and the other members' stand. -/
theorem budget_kept {src : Fin 1024} {cue : Nat} {ready ew : Bool} {lit uj : Nat} {s : State} (hlead : isLead s = true)
    (hmem : src.val ∈ memberDevs s) :
    ∃ t, exec (.budget src cue ready ew lit uj) s = .next t ∧ ⟨src.val, cue, ready, ew, lit, uj⟩ ∈ t.stm.reports ∧
      ∀ r ∈ s.stm.reports, r.dev ≠ src.val → r ∈ t.stm.reports := by
  refine ⟨_, congrArg Host.Outcome.next (if_pos (by simp [hlead, hmem])), List.mem_append_right _ ?_, fun r hr hdev => ?_⟩
  · exact mem_keepLast_append (by decide) _ _
  · exact List.mem_append_left _ (List.mem_filter.2 ⟨hr, decide_eq_true hdev⟩)

/-! The brake. -/

theorem pwrBrakeFall_throttles (s : State) : ∃ t, exec .pwrBrakeFall s = .next t ∧ get t Fld.lgtStatusBrake = 1 ∧
    get t Fld.lgtStatusBrakeSeen = 1 ∧ t.brd.brakePin = true ∧ t.lgt.throttle = true ∧ t.lgt.seenSince = true ∧
    t.lgt.releaseSt = none := by
  refine ⟨_, rfl, ?_, ?_, rfl, rfl, rfl, rfl⟩
  · exact (get_set_other _ _ _ _ (by decide)).trans ((get_inc_other _ _ _ _ (by decide)).trans ((get_set_other _ _ _ _ (by decide)).trans
      (get_set_of_lt _ Fld.lgtStatusBrake 1 (by decide))))
  · exact (get_set_other _ _ _ _ (by decide)).trans ((get_inc_other _ _ _ _ (by decide)).trans
      (get_set_of_lt _ Fld.lgtStatusBrakeSeen 1 (by decide)))

theorem pwrBrakeRise_releases {s : State} (h : isSet s Fld.lgtStatusBrake = true) :
    ∃ t, exec .pwrBrakeRise s = .next t ∧ get t Fld.lgtStatusBrake = 0 ∧ t.brd.brakePin = false ∧ t.lgt.releaseSt = some s.st :=
  ⟨_, congrArg Host.Outcome.next (if_pos h), get_set_of_lt _ Fld.lgtStatusBrake 0 (by decide), rfl, rfl⟩

section
variable {mw : Nat} {s : State} (ht : s.lgt.throttle = true)
include ht

theorem exec_brakeLoopTick_throttled : exec (.brakeLoopTick mw) s = .next
    (if 495000 < mw then set (set s Fld.lgtPowerV mw) Fld.lgtStatusDuty (get s Fld.lgtStatusDuty - 1)
      else if mw < 495000 then set (set s Fld.lgtPowerV mw) Fld.lgtStatusDuty (min 15 (get s Fld.lgtStatusDuty + 1))
      else set s Fld.lgtPowerV mw) :=
  congrArg Host.Outcome.next (if_pos ht)

variable (hmw : mw < 2 ^ 20)
include hmw

theorem brakeLoopTick_lowers (h : 495000 < mw) : ∃ t, exec (.brakeLoopTick mw) s = .next t ∧ get t Fld.lgtPowerV = mw ∧
    get t Fld.lgtStatusDuty = (get s Fld.lgtStatusDuty - 1) % 16 :=
  ⟨_, (exec_brakeLoopTick_throttled ht).trans (congrArg _ (if_pos h)), (get_set_other _ _ _ _ (by decide)).trans
    (get_set_of_lt _ Fld.lgtPowerV mw hmw), get_set_same _ Fld.lgtStatusDuty _⟩

theorem brakeLoopTick_raises (h : mw < 495000) : ∃ t, exec (.brakeLoopTick mw) s = .next t ∧ get t Fld.lgtPowerV = mw ∧
    get t Fld.lgtStatusDuty = min 15 (get s Fld.lgtStatusDuty + 1) :=
  ⟨_, (exec_brakeLoopTick_throttled ht).trans (congrArg _ ((if_neg (by omega)).trans (if_pos h))),
    (get_set_other _ _ _ _ (by decide)).trans (get_set_of_lt _ Fld.lgtPowerV mw hmw),
    get_set_of_lt _ Fld.lgtStatusDuty _ (show _ < 2 ^ 4 by omega)⟩

omit hmw in
theorem brakeLoopTick_holds (h : mw = 495000) : ∃ t, exec (.brakeLoopTick mw) s = .next t ∧
    get t Fld.lgtStatusDuty = get s Fld.lgtStatusDuty :=
  ⟨_, (exec_brakeLoopTick_throttled ht).trans (congrArg _ ((if_neg (by omega)).trans (if_neg (by omega)))),
    get_set_other _ _ _ _ (by decide)⟩

end

theorem brakeLoopTick_reads {mw : Nat} {s : State} (ht : s.lgt.throttle = false) :
    exec (.brakeLoopTick mw) s = .next (set s Fld.lgtPowerV mw) :=
  congrArg Host.Outcome.next (if_neg (by rw [ht]; decide))

/-- Settles O19: the budget is read off the state before it is kept, and each edge or tick of the brake sets its own fields. -/
theorem energyCommandsComplete : Obligations.EnergyCommandsComplete :=
  ⟨fun _ _ _ => budgetCompute_computes, fun _ _ _ _ _ _ _ => budget_kept, pwrBrakeFall_throttles, fun _ => pwrBrakeRise_releases,
    fun _ _ ht hmw => ⟨brakeLoopTick_lowers ht hmw, brakeLoopTick_raises ht hmw, brakeLoopTick_holds ht⟩,
    fun _ _ => brakeLoopTick_reads⟩

end Sys2Proof.Machine
end

section
/-!
SUPPORT. Players: what a change of a Player, of its window and of its sequencer's registers leaves of them.
-/
namespace Sys2Proof.Machine

@[simp] theorem get_onPlayer (s : State) (p : Nat) (f : Player → Player) (g : Fld) : get (onPlayer s p f) g = get s g := rfl

theorem playerOf_congr {s t : State} (h : t.ply = s.ply) (p : Nat) : playerOf t p = playerOf s p := by
  rw [playerOf, h, playerOf]

theorem playerOf_onPlayer {s : State} {p : Nat} (hp : p < s.ply.length) (f : Player → Player) :
    playerOf (onPlayer s p f) p = f (playerOf s p) := by
  change (s.ply.modify p f).getD p Player.idle = f (s.ply.getD p Player.idle)
  rw [List.getD_eq_getElem _ _ (by rwa [List.length_modify]), List.getElem_modify_eq, List.getD_eq_getElem _ _ hp]

/-! The sequencer's registers stand apart. -/

/-- Two fields of one Player's block in different words. -/
theorem key_ne_of_off {f g : Fld} (hoff : f.off < g.off ∨ g.off < f.off) (hf : f.lo < 32) (hg : g.lo < 32) : f.key ≠ g.key := by
  unfold Fld.key
  omega

theorem seqState_setSeq (s : State) (p : Nat) {v : Nat} (hv : v < 8) : seqState (setSeq s p v) p = v :=
  get_set_of_lt _ (Fld.plySeqStatusState p) v hv

theorem pcOf_setSeq (s : State) (p v : Nat) : pcOf (setSeq s p v) p = pcOf s p :=
  get_set_other _ _ _ _ (by exact key_ne_of_lo rfl rfl)

/-! The window. -/

theorem pcOf_refill (s : State) (p w : Nat) : pcOf (refill s p w) p = w % 2 ^ 14 := get_set_same _ (Fld.plySeqStatusPc p) w

theorem refill_length (s : State) (p w : Nat) : (refill s p w).ply.length = s.ply.length := List.length_modify _ _ _

theorem withWindow_eq (s : State) (p : Nat) : withWindow s p = s ∨ withWindow s p = refill s p (pcOf s p) := by
  unfold withWindow
  split
  · exact .inr rfl
  · exact .inl rfl

theorem get_withWindow (s : State) (p : Nat) {f : Fld} (hf : f.key ≠ (Fld.plySeqStatusPc p).key) :
    get (withWindow s p) f = get s f := get_ite (get_set_other _ _ _ _ hf) rfl

theorem isSet_withWindow (s : State) (p : Nat) : isSet (withWindow s p) (Fld.plySeqCtlHaltReq p) =
    isSet s (Fld.plySeqCtlHaltReq p) := by
  unfold isSet
  rw [get_withWindow s p (key_ne_of_off (.inl (by simp only [Fld.plySeqCtlHaltReq, Fld.plySeqStatusPc]; omega))
    (show 0 < 32 by decide) (show 16 < 32 by decide))]

theorem withWindow_stm (s : State) (p : Nat) : (withWindow s p).stm = s.stm := (withWindow_fp rfl s p (Fp.refl 33 s)).stm rfl

theorem withWindow_length (s : State) (p : Nat) : (withWindow s p).ply.length = s.ply.length := by
  rcases withWindow_eq s p with h | h <;> rw [h]
  exact refill_length s p _

end Sys2Proof.Machine
end

section
/-!
OBLIGATION O22. A push slot takes a beat, and TAKE hands one over: what a hand-over leaves of the Player and of its registers.
-/
namespace Sys2Proof.Machine

/-! The ready count and the cut checks. -/

theorem get_noteReady (s : State) {f : Fld} (hn : f.key ≠ Fld.stmReadyCountV.key) (hh : f.key ≠ Fld.stmCtlHold.key)
    (ha : f.key ≠ Fld.boxAdmitCtlHold.key) : get (noteReady s) f = get s f := by
  have hset (u : State) (v x y : Nat) : get (set (set (set u Fld.stmReadyCountV v) Fld.stmCtlHold x) Fld.boxAdmitCtlHold y) f =
      get u f := by
    rw [get_set_other _ _ _ _ ha, get_set_other _ _ _ _ hh, get_set_other _ _ _ _ hn]
  have hnote (u : State) : get (noteHead (u.onBox fun b => { b with head := none })) f = get u f := get_congr (noteHead_regs _) f
  exact get_ite (hset _ _ _ _) (get_ite (get_ite ((hnote _).trans (hset _ _ _ _)) (hset _ _ _ _)) (get_set_other _ _ _ _ hn))

theorem noteReady_stm (s : State) : (noteReady s).stm = s.stm := (noteReady_fp rfl s (Fp.refl 5 s)).stm rfl

theorem noteReady_ply (s : State) : (noteReady s).ply = s.ply := (noteReady_fp rfl s (Fp.refl 5 s)).ply rfl

/-- A cut check flags a Player and changes nothing else of it. -/
theorem playerOf_cutChecks {s : State} {p : Nat} (hp : p < s.ply.length) :
    playerOf (cutChecks s) p = playerOf s p ∨ playerOf (cutChecks s) p = { playerOf s p with cut := true } := by
  unfold cutChecks playerOf
  dsimp only [State.onPly_ply]
  rw [List.getD_eq_getElem _ _ (by rwa [List.length_mapIdx]), List.getElem_mapIdx, List.getD_eq_getElem _ _ hp]
  split
  · split
    · exact .inr rfl
    · exact .inl rfl
  · exact .inl rfl

/-! A hand-over. -/

/-- The beat is marked, leaves the push slot and is shown in PLY_BEAT. -/
def beatShown (s : State) (p : Nat) (b : Beat) : State :=
  set (set ((onBeat s b.idx fun b => { b with issued := true }).onStm fun m =>
    { m with pushSlots := if b.push then m.pushSlots.del p else m.pushSlots }) (Fld.plyBeatBeat p) b.idx)
    (Fld.plyBeatCue p) (b.cue % 65536)

/-- What a beat loads into its Player. -/
def loadBeat (s : State) (b : Beat) (x : Player) : Player := { x with
  lc := (List.range 4).map fun i => b.lc.getD i 0 % 65536, beat := some b.idx
  cut := b.push && pushStopped s && decide (1 < b.chunks), chunk := 0 }

/-- A hand-over before the ready count and the cut checks. -/
def handed (s : State) (p : Nat) (b : Beat) : State :=
  onPlayer (refill (beatShown s p b) p (b.entry % 2 ^ 14)) p (loadBeat s b)

theorem handOver_eq (s : State) (p : Nat) (b : Beat) : handOver s p b = cutChecks (noteReady (setSeq (handed s p b) p 1)) := rfl

theorem get_handOver_seq (s : State) (p : Nat) (b : Beat) {f : Fld} (hoff : f.off = (Fld.plySeqStatusState p).off)
    (hlo : f.lo < 32) : get (handOver s p b) f = get (setSeq (handed s p b) p 1) f := by
  rw [handOver_eq]
  refine get_noteReady _ (key_ne_of_off (.inr ?_) hlo (by decide)) (key_ne_of_off (.inr ?_) hlo (by decide))
    (key_ne_of_off (.inr ?_) hlo (by decide)) <;>
  · rw [hoff]
    simp only [Fld.stmReadyCountV, Fld.stmCtlHold, Fld.boxAdmitCtlHold, Fld.plySeqStatusState]
    omega

theorem handOver_seqState (s : State) (p : Nat) (b : Beat) : seqState (handOver s p b) p = 1 :=
  (get_handOver_seq s p b rfl (show 0 < 32 by decide)).trans (seqState_setSeq _ p (by decide))

theorem handOver_pcOf (s : State) (p : Nat) (b : Beat) : pcOf (handOver s p b) p = b.entry % 2 ^ 14 :=
  (get_handOver_seq s p b (f := Fld.plySeqStatusPc p) rfl (show 16 < 32 by decide)).trans ((pcOf_setSeq _ p 1).trans ((pcOf_refill _ p _).trans (Nat.mod_mod _ _)))

theorem handOver_player {s : State} {p : Nat} (hp : p < s.ply.length) (b : Beat) :
    (playerOf (handOver s p b) p).beat = some b.idx ∧ (playerOf (handOver s p b) p).chunk = 0 ∧
      (playerOf (handOver s p b) p).lc = (List.range 4).map fun i => b.lc.getD i 0 % 65536 := by
  have hply : (noteReady (setSeq (handed s p b) p 1)).ply = (handed s p b).ply := noteReady_ply _
  have hlen : p < (refill (beatShown s p b) p (b.entry % 2 ^ 14)).ply.length := by rwa [refill_length]
  have hload : playerOf (handed s p b) p = loadBeat s b (playerOf (refill (beatShown s p b) p (b.entry % 2 ^ 14)) p) :=
    playerOf_onPlayer hlen _
  have hlen' : p < (noteReady (setSeq (handed s p b) p 1)).ply.length := by
    rw [hply]
    exact (List.length_modify _ _ _).symm ▸ hlen
  rw [handOver_eq]
  rcases playerOf_cutChecks hlen' with h | h <;> rw [h, playerOf_congr hply p, hload] <;> exact ⟨rfl, rfl, rfl⟩

/-! TAKE. -/

theorem beatAt_withWindow (s : State) (p : Nat) : beatAt (withWindow s p) = beatAt s := by
  funext i
  unfold beatAt
  rw [withWindow_stm]

/-- A Player that begins to wait at TAKE changes no field but those of its sequencer. -/
theorem get_waiting (s : State) (p : Nat) {f : Fld} (hoff : f.off < (Fld.plySeqStatusState p).off ∨ (Fld.plySeqStatusState p).off < f.off)
    (hlo : f.lo < 32) : get (setSeq (withWindow s p) p 0) f = get s f :=
  (get_set_other _ _ _ _ (key_ne_of_off hoff hlo (show 0 < 32 by decide))).trans
    (get_withWindow s p (key_ne_of_off hoff hlo (show 16 < 32 by decide)))

theorem domLit_waiting (s : State) (p : Fin 96) : domLit (setSeq (withWindow s p) p 0) (p.val / 2) = domLit s (p.val / 2) := by
  have hoff : 0x400004 + 0x10000 * p.val < 0x1100104 + 8 * (p.val / 2) := by omega
  unfold domLit domState domPhase
  rw [get_waiting s p (f := Fld.lgtDomStatusState (p.val / 2)) (.inr hoff) (show 0 < 32 by decide),
    get_waiting s p (f := Fld.lgtDomStatusPhase (p.val / 2)) (.inr hoff) (show 3 < 32 by decide)]

theorem issuable_waiting (s : State) (p : Fin 96) (push : Bool) :
    issuable (setSeq (withWindow s p) p 0) p push = issuable s p push := by
  have hrole : 0x400004 + 0x10000 * p.val < 0x40000C + 0x10000 * p.val := by omega
  have hen : 0x200000 < 0x400004 + 0x10000 * p.val := by omega
  have hstm : (setSeq (withWindow s p) p 0).stm = s.stm := withWindow_stm s p
  unfold issuable readyList otherChannel isSet
  rw [hstm, domLit_waiting, get_waiting s p (f := Fld.stmCtlEn) (.inl hen) (show 0 < 32 by decide),
    get_waiting s p (f := Fld.plyRoleInTroupe p) (.inr hrole) (show 4 < 32 by decide),
    get_waiting s p (f := Fld.plyRoleTroupe p) (.inr hrole) (show 2 < 32 by decide)]

theorem askLit_lit {s : State} {p : Nat} (h : domLit s (p / 2) = true) (push : Bool) : askLit s p push = s :=
  if_pos (by rw [h, Bool.or_true])

/-- The head of a Performing Player's pull list, when it may be issued. -/
def pullFrom (s : State) (p : Nat) : State :=
  match issuable s p false with
  | some b => handOver s p b
  | none => s

section
variable {p : Fin 96} {s : State} (hf : frontIs (withWindow s p) p 1 = true)
include hf

theorem take_halts (hh : isSet s (Fld.plySeqCtlHaltReq p) = true) :
    ∃ t, exec (.take p) s = .next t ∧ seqState t p = 2 ∧ t.stm = s.stm := by
  refine ⟨setSeq (withWindow s p) p 2, congrArg Host.Outcome.next ((if_neg (by rw [hf]; decide)).trans (if_pos ?_)),
    seqState_setSeq _ _ (by decide), withWindow_stm s p⟩
  rw [isSet_withWindow, hh]

variable (hh : isSet s (Fld.plySeqCtlHaltReq p) = false)
include hh

theorem exec_take_push {b : Beat} (hb : (s.stm.pushSlots.get? p.val).bind (beatAt s) = some b) :
    exec (.take p) s = .next (handOver (withWindow s p) p b) := by
  have hheld := (isSet_withWindow s p).trans hh
  change execTake p s = _
  simp only [execTake, hf, hheld, withWindow_stm, beatAt_withWindow, hb]
  rfl

/-- With no beat in the push slot the Player waits, and on a Performing Player the pull list decides. -/
theorem exec_take_empty (hb : (s.stm.pushSlots.get? p.val).bind (beatAt s) = none) :
    exec (.take p) s = .next (if get s (Fld.plyRoleRole p) = 2 then
      pullFrom (askLit (setSeq (withWindow s p) p 0) p false) p else setSeq (withWindow s p) p 0) := by
  have hheld := (isSet_withWindow s p).trans hh
  have hrole := get_waiting s p (f := Fld.plyRoleRole p) (.inr (show 0x400004 + 0x10000 * p.val < 0x40000C + 0x10000 * p.val by omega))
    (show 0 < 32 by decide)
  change execTake p s = _
  simp only [execTake, hf, hheld, withWindow_stm, beatAt_withWindow, hb, hrole]
  rfl

theorem take_push (hp : s.ply.length = 96) {b : Beat} (hb : (s.stm.pushSlots.get? p.val).bind (beatAt s) = some b) :
    ∃ t, exec (.take p) s = .next t ∧ seqState t p = 1 ∧ pcOf t p = b.entry % 2 ^ 14 ∧ (playerOf t p).beat = some b.idx ∧
      (playerOf t p).chunk = 0 ∧ (playerOf t p).lc = (List.range 4).map fun i => b.lc.getD i 0 % 65536 :=
  ⟨_, exec_take_push hf hh hb, handOver_seqState _ _ _, handOver_pcOf _ _ _,
    handOver_player (by rw [withWindow_length]; omega) b⟩

theorem take_pull (hp : s.ply.length = 96) {b : Beat} (hb : (s.stm.pushSlots.get? p.val).bind (beatAt s) = none)
    (hr : get s (Fld.plyRoleRole p) = 2) (hlit : domLit s (p.val / 2) = true) (hi : issuable s p false = some b) :
    ∃ t, exec (.take p) s = .next t ∧ seqState t p = 1 ∧ pcOf t p = b.entry % 2 ^ 14 ∧ (playerOf t p).beat = some b.idx := by
  have hask : askLit (setSeq (withWindow s p) p 0) p false = setSeq (withWindow s p) p 0 :=
    askLit_lit ((domLit_waiting s p).trans hlit) false
  refine ⟨handOver (setSeq (withWindow s p) p 0) p b, ?_, handOver_seqState _ _ _, handOver_pcOf _ _ _,
    (handOver_player (by change _ < (withWindow s p).ply.length; rw [withWindow_length]; omega) b).1⟩
  rw [exec_take_empty hf hh hb, if_pos hr, hask, pullFrom, issuable_waiting, hi]

theorem take_waits (hb : (s.stm.pushSlots.get? p.val).bind (beatAt s) = none) (hr : get s (Fld.plyRoleRole p) ≠ 2) :
    ∃ t, exec (.take p) s = .next t ∧ seqState t p = 0 ∧ t.stm = s.stm :=
  ⟨_, (exec_take_empty hf hh hb).trans (congrArg _ (if_neg hr)), seqState_setSeq _ _ (by decide), withWindow_stm s p⟩

end

/-! The push slot. -/

theorem pushSlotFill_fills {p : Fin 96} {b : Beat} {s : State} (hr : get s (Fld.plyRoleRole p) = 1)
    (hempty : s.stm.pushSlots.get? p.val = none) (hstop : pushStopped s = false) (hseq : seqState s p ≠ 3)
    (hlit : domLit s (p.val / 2) = true) (hi : issuable s p true = some b) :
    ∃ t, exec (.pushSlotFill p) s = .next t ∧ t.stm.pushSlots.get? p.val = some b.idx ∧
      ∀ c, beatAt s b.idx = some c → beatAt t b.idx = some { c with issued := true } := by
  let u := (onBeat s b.idx fun b => { b with issued := true }).onStm fun m => { m with pushSlots := m.pushSlots.put p b.idx }
  have hstm : (noteReady u).stm = u.stm := noteReady_stm u
  refine ⟨noteReady u, ?_, ?_, fun c hc => ?_⟩
  · change execPushSlotFill p s = _
    simp only [execPushSlotFill, askLit_lit hlit, hi]
    exact congrArg Host.Outcome.next (if_pos ⟨hr, hempty, hstop, hseq⟩)
  · rw [hstm]
    exact AMap.get?_put_same _ _ _
  · unfold beatAt at hc ⊢
    rw [hstm]
    exact (find?_mapIf _ (fun x => { x with issued := true }) _ fun _ hx => hx).trans (congrArg _ hc)

/-- Settles O22: the push slot, the role and HALT_REQ decide, and each hand-over ends the same way. -/
theorem playersTakeBeats : Obligations.PlayersTakeBeats :=
  ⟨fun _ _ _ => pushSlotFill_fills, fun _ _ _ hp hf hh => take_push hf hh hp, fun _ _ _ hp hf hh => take_pull hf hh hp,
    fun _ _ => take_waits, fun _ _ => take_halts⟩

end Sys2Proof.Machine
end

section
/-!
OBLIGATION O26. A Player's own registers: HALT_REQ and SEQ_REFETCH, and the words of its instruction store.
-/
namespace Sys2Proof.Machine

/-! HALT_REQ and SEQ_REFETCH. -/

theorem bits_one_of_bit {v : Word} (h : bit v 0 = true) : bits v 0 1 = 1 := of_decide_eq_true h

theorem bits_one_of_not_bit {v : Word} (h : bit v 0 = false) : bits v 0 1 = 0 := by
  have hne : bits v 0 1 ≠ 1 := of_decide_eq_false h
  have hlt : bits v 0 1 < 2 := Nat.mod_lt _ (by decide)
  omega

theorem plySeqCtlHaltReq_ne_state (p : Nat) : (Fld.plySeqCtlHaltReq p).key ≠ (Fld.plySeqStatusState p).key :=
  key_ne_of_off (.inl (show 0x400000 + 0x10000 * p < 0x400004 + 0x10000 * p by omega)) (show 0 < 32 by decide) (show 0 < 32 by decide)

section
variable {p : Fin 96} {v : Word} {s : State} (hr : reaches s 0 (seqCtlOff p) = true)
include hr

theorem haltReq_sets (hv : bit v 0 = true) :
    let u := set (commandWord s 0 (seqCtlOff p) v) (Fld.plySeqCtlHaltReq p) 1
    seqState u p = 0 →
    ∃ t, exec (.haltReq p v) s = .next t ∧ isSet t (Fld.plySeqCtlHaltReq p) = true ∧
      seqState t p = (if atTake (withWindow u p) p then 2 else 0) := by
  intro u hu
  have hset : isSet u (Fld.plySeqCtlHaltReq p) = true :=
    decide_eq_true (ne_of_eq_of_ne (get_set_of_lt _ (Fld.plySeqCtlHaltReq p) 1 (show 1 < 2 ^ 1 by decide)) (by decide))
  have hexec : exec (.haltReq p v) s = .next (if atTake (withWindow u p) p then setSeq (withWindow u p) p 2 else u) := by
    change execHaltReq p v s = _
    unfold execHaltReq
    dsimp only
    rw [if_neg (by rw [hr]; decide), bits_one_of_bit hv]
    exact congrArg Host.Outcome.next (if_pos (by rw [hv, hu]; rfl))
  refine ⟨_, hexec, ?_⟩
  split
  · refine ⟨?_, seqState_setSeq _ _ (by decide)⟩
    unfold isSet setSeq
    rw [get_set_other _ _ _ _ (plySeqCtlHaltReq_ne_state p)]
    exact (isSet_withWindow u p).trans hset
  · exact ⟨hset, hu⟩

theorem haltReq_clears (hv : bit v 0 = false) :
    let u := commandWord s 0 (seqCtlOff p) v
    seqState u p = 2 →
    ∃ t, exec (.haltReq p v) s = .next t ∧ isSet t (Fld.plySeqCtlHaltReq p) = false ∧
      seqState t p = (if (playerOf u p).beat = none then 0 else 1) := by
  intro u hu
  let w := set u (Fld.plySeqCtlHaltReq p) 0
  have hw : seqState w p = 2 := (get_set_other _ _ _ _ (plySeqCtlHaltReq_ne_state p).symm).trans hu
  have hexec : exec (.haltReq p v) s = .next (setSeq w p (b2n (playerOf u p).beat.isSome)) := by
    change execHaltReq p v s = _
    unfold execHaltReq
    dsimp only
    rw [if_neg (by rw [hr]; decide), bits_one_of_not_bit hv, if_neg (by rw [hv]; exact Bool.false_ne_true)]
    exact congrArg Host.Outcome.next (if_pos ⟨rfl, hw⟩)
  refine ⟨_, hexec, ?_, ?_⟩
  · exact decide_eq_false (not_not.2 ((get_set_other _ _ _ _ (plySeqCtlHaltReq_ne_state p)).trans
      (get_set_of_lt _ (Fld.plySeqCtlHaltReq p) 0 (show 0 < 2 ^ 1 by decide))))
  · cases (playerOf u p).beat with
    | none => exact seqState_setSeq w p (v := 0) (by decide)
    | some b => exact seqState_setSeq w p (v := 1) (by decide)

theorem seqRefetch_refills (hv : bit v 1 = true) :
    let u := commandWord s 0 (seqCtlOff p) v
    (playerOf u p).beyond = false → exec (.seqRefetch p v) s = .next (refill u p (pcOf u p)) :=
  fun hb => congrArg Host.Outcome.next (if_pos (by rw [hr, hv, hb]; rfl))

end

/-! The instruction store. -/

theorem readBytes_writeBytes_same (s : State) (a : Nat) {n : Nat} {bs : List Byte} (h : bs.length = n) :
    readBytes (writeBytes s a bs) a n = bs := by
  subst h
  refine List.ext_getElem (by simp [readBytes]) fun i _ hi => ?_
  simp only [readBytes, List.getElem_map, List.getElem_range]
  exact readByte_writeBytes_same s a i bs hi

theorem demandDom_ply (s : State) (d : Nat) : (demandDom s d).ply = s.ply := (demandDom_fp rfl s d (Fp.refl 4097 s)).ply rfl

theorem demandDom_demand (s : State) (d : Nat) : (domOf (demandDom s d) d).demand = true := by
  have hmark : (domOf (onDom s d fun x => { x with demand := true }) d).demand = true :=
    congrArg Dom.demand (domOf_onDom_same s d fun x => { x with demand := true })
  unfold demandDom
  dsimp only
  split
  · exact hmark
  split <;> exact hmark

/-- The word shown in IDATA_HI and the address it went to passed. -/
def idataShown (s : State) (p hi : Nat) : State :=
  set (set s (Fld.plyIdataHiV p) hi) (Fld.plyIaddrWord p) (get s (Fld.plyIaddrWord p) + 1)

theorem domLit_idataShown (s : State) (p : Fin 96) (hi : Nat) : domLit (idataShown s p hi) (p.val / 2) = domLit s (p.val / 2) := by
  have hget (f : Fld) (hf : f.off = (Fld.lgtDomStatusState (p.val / 2)).off) : get (idataShown s p hi) f = get s f := by
    refine (get_set_other _ _ _ _ ?_).trans (get_set_other _ _ _ _ ?_)
    all_goals
      simp only [Fld.key, hf, Fld.lgtDomStatusState, Fld.plyIaddrWord, Fld.plyIdataHiV]
      omega
  unfold domLit domState domPhase
  rw [hget (Fld.lgtDomStatusState (p.val / 2)) rfl, hget (Fld.lgtDomStatusPhase (p.val / 2)) rfl]

/-- The word and its address. -/
def idataWord (s : State) (p hi : Nat) : Nat × Nat :=
  (get s (Fld.plyIaddrWord p), get s (Fld.plyIdataLoV p) + hi * 2 ^ 32)

theorem idataStore_eq (s : State) (p : Fin 96) (hi : Nat) : idataStore s p hi =
    if domLit s (p.val / 2) then writeLe (idataShown s p hi) (iAddr p (idataWord s p hi).1) 8 (idataWord s p hi).2
    else demandDom (onPlayer (idataShown s p hi) p fun y => { y with stores := y.stores ++ [idataWord s p hi] }) (p.val / 2) := by
  rw [← domLit_idataShown s p hi]
  rfl

section
variable {p : Fin 96} {v : Word} {s : State} (hr : reaches s 0 (0x400028 + 0x10000 * p.val) = true)
include hr

theorem exec_idataStore_open (hs : sealedMode s = false) : exec (.idataStore 0 p v) s = .next (idataStore s p.val v.toNat) :=
  congrArg Host.Outcome.next ((if_neg (by rw [hr]; decide)).trans (if_neg (by rw [hs]; decide)))

theorem idataStore_lands (hs : sealedMode s = false) (hlit : domLit s (p.val / 2) = true) :
    ∃ t, exec (.idataStore 0 p v) s = .next t ∧
      get t (Fld.plyIaddrWord p) = (get s (Fld.plyIaddrWord p) + 1) % 2 ^ 14 ∧
      readBytes t (iAddr p (get s (Fld.plyIaddrWord p))) 8 = leBytes 8 (get s (Fld.plyIdataLoV p) + v.toNat * 2 ^ 32) ∧
      ∀ a, a < iAddr p (get s (Fld.plyIaddrWord p)) ∨ iAddr p (get s (Fld.plyIaddrWord p)) + 8 ≤ a →
        readByte t a = readByte s a := by
  refine ⟨_, (exec_idataStore_open hr hs).trans (congrArg _ ((idataStore_eq s p _).trans (if_pos hlit))), ?_, ?_, fun a ha => ?_⟩
  · rw [writeLe, get_writeBytes]
    exact get_set_same _ (Fld.plyIaddrWord p) _
  · exact readBytes_writeBytes_same _ _ (leBytes_length 8 _)
  · exact readByte_writeLe_other _ _ _ _ _ ha

/-- The word waits with the others of its Player. -/
theorem idataStore_waits (hp : s.ply.length = 96) (hs : sealedMode s = false) (hdark : domLit s (p.val / 2) = false) :
    ∃ t, exec (.idataStore 0 p v) s = .next t ∧ t.mdw = s.mdw ∧ (domOf t (p.val / 2)).demand = true ∧
      (playerOf t p).stores = (playerOf s p).stores ++
        [(get s (Fld.plyIaddrWord p), get s (Fld.plyIdataLoV p) + v.toNat * 2 ^ 32)] := by
  refine ⟨_, (exec_idataStore_open hr hs).trans (congrArg _ ((idataStore_eq s p _).trans (if_neg (by rw [hdark]; decide)))),
    demandDom_mdw _ _, ?_, ?_⟩
  · exact demandDom_demand _ _
  · rw [playerOf_congr (demandDom_ply _ _) p, playerOf_onPlayer (by change p.val < s.ply.length; omega)]
    rfl

theorem idataStore_sealed (hs : sealedMode s = true) :
    exec (.idataStore 0 p v) s = .next (lockedOut s 0 (0x400028 + 0x10000 * p.val) (Fld.plyIdataHiV p) v) :=
  congrArg Host.Outcome.next ((if_neg (by rw [hr]; decide)).trans (if_pos hs))

end

/-- Settles O26: the bit written and the Player's state decide HALT_REQ, and the pair's domain decides where an IDATA word goes. -/
theorem playerRegistersComplete : Obligations.PlayerRegistersComplete :=
  ⟨fun _ _ _ => haltReq_sets, fun _ _ _ => haltReq_clears, fun _ _ _ => seqRefetch_refills, fun _ _ _ => idataStore_lands,
    fun _ _ _ hp hr => idataStore_waits hr hp, fun _ _ _ => idataStore_sealed⟩

end Sys2Proof.Machine
end

section
/-!
OBLIGATION O21. Cue Lists are taken in token by token, and an activation's bytes, pointers and beats in their turn.
-/
namespace Sys2Proof.Machine

/-! Cue Lists. -/

theorem absorbTok_header {s : State} {h : CueTok} (hk : clKind h = 1) :
    (absorbTok s h).stm.lists = s.stm.lists ++ [(clHdrCue h, [h], false)] := if_pos hk

/-- A token joins the last list while its end token has not come. -/
theorem absorbTok_open {s : State} {t : CueTok} {ls : List (Nat × List CueTok × Bool)} {l : Nat × List CueTok × Bool}
    (hs : s.stm.lists = ls ++ [l]) (hopen : listOpen l = true) (hk : clKind t ≠ 1) :
    (absorbTok s t).stm.lists = ls ++ [(l.1, l.2.1 ++ [t], l.2.2)] := by
  refine (if_neg hk).trans ?_
  rw [hs, List.getLast?_concat, List.dropLast_concat, Option.filter_some, if_pos hopen]

theorem listOpen_concat {n : Nat} {ts : List CueTok} {t : CueTok} {bad : Bool} (h : clKind t ≠ 4) :
    listOpen (n, ts ++ [t], bad) = true := by
  simp [listOpen, h]

theorem foldl_absorbTok {ls : List (Nat × List CueTok × Bool)} {n : Nat} {bad : Bool} (r : List CueTok)
    (hr : ∀ t ∈ r, clKind t ≠ 1) (hend : ∀ t ∈ r.dropLast, clKind t ≠ 4) (s : State) (ts : List CueTok)
    (hs : s.stm.lists = ls ++ [(n, ts, bad)]) (hopen : listOpen (n, ts, bad) = true) :
    (r.foldl absorbTok s).stm.lists = ls ++ [(n, ts ++ r, bad)] := by
  induction r generalizing s ts with
  | nil => rw [List.foldl_nil, hs, List.append_nil]
  | cons t r ih =>
    have hstep := absorbTok_open hs hopen (hr t List.mem_cons_self)
    rw [List.foldl_cons]
    cases r with
    | nil => exact hstep
    | cons u r =>
      rw [ih (fun x hx => hr x (List.mem_cons_of_mem t hx)) (fun x hx => hend x (List.mem_cons_of_mem t hx)) _ _ hstep
        (listOpen_concat (hend t List.mem_cons_self)), List.append_assoc]
      rfl

theorem cueList_absorbed {src : Fin 1024} {h : CueTok} {r : List CueTok} {s : State} (hsrc : fromLead s src.val = true)
    (hstage : selfStage s = some 0) (hk : clKind h = 1) (hr : ∀ t ∈ r, clKind t ≠ 1) (hend : ∀ t ∈ r.dropLast, clKind t ≠ 4) :
    ∃ t, exec (.cueList src (h :: r)) s = .next t ∧ t.stm.lists = s.stm.lists ++ [(clHdrCue h, h :: r, false)] := by
  have hopen : listOpen (clHdrCue h, [h], false) = true := listOpen_concat (ts := []) (by omega)
  exact ⟨_, congrArg Host.Outcome.next (if_pos (by simp [hsrc, hstage])),
    foldl_absorbTok r hr hend (absorbTok s h) [h] (absorbTok_header hk) hopen⟩

/-! Activations. -/

theorem writeAt_lenPtr (s : State) (a : Nat) (poison : Bool) (bs : List Byte) :
    (writeAt s a poison bs).mdw.lenPtr = s.mdw.lenPtr := by
  have hput : (bs.zipIdx.foldl (fun s (x : Byte × Nat) => writeByte s (physOf (a + x.2)) x.1) s).mdw.lenPtr = s.mdw.lenPtr := by
    refine foldl_keeps (fun u : State => u.mdw.lenPtr) _ ?_ _ s
    exact fun _ _ => rfl
  unfold writeAt
  dsimp only
  split
  · refine (foldl_keeps (fun u : State => u.mdw.lenPtr) _ ?_ _ _).trans hput
    exact fun _ _ => rfl
  · exact hput

/-- The bytes an activation carries, where they may be written. -/
def bodyLanded (s : State) (body : ActBody) : State :=
  if addrOk s body.addr body.data.length && !guarded s body.addr body.data.length then
    writeAt s body.addr body.poison body.data else s

theorem bodyLanded_lenPtr (s : State) (body : ActBody) : (bodyLanded s body).mdw.lenPtr = s.mdw.lenPtr := by
  unfold bodyLanded
  split
  · exact writeAt_lenPtr _ _ _ _
  · rfl

/-- The listing's pointers and the records it awaits. -/
def listed (s : State) (cue : Nat) (samples : Bool) (slots : List (Fin 16384 × BitVec 20)) : State :=
  let s := slots.foldl (fun s x => setLen s x.1.val x.2.toNat) s
  if samples && atLast s then slots.foldl (fun s x => await s cue x.1.val) s else s

theorem listed_mdw (s : State) (cue : Nat) (samples : Bool) (slots : List (Fin 16384 × BitVec 20)) :
    (listed s cue samples slots).mdw = (slots.foldl (fun s x => setLen s x.1.val x.2.toNat) s).mdw := by
  unfold listed
  dsimp only
  split
  · refine foldl_keeps State.mdw _ ?_ slots _
    exact fun _ _ => rfl
  · rfl

/-- The flows and spans of a listing's push beats. -/
def numbered (s : State) (cue : Nat) (samples : Bool) (toks : Nat) (ops : List (Template × Nat))
    (slots : List (Fin 16384 × BitVec 20)) : State :=
  slots.foldl (fun s x =>
    let s := numberFlows s x.1.val toks ops
    if samples then s else noteSpan s cue x.1.val x.2.toNat toks ops) s

theorem numbered_mdw (s : State) (cue : Nat) (samples : Bool) (toks : Nat) (ops : List (Template × Nat))
    (slots : List (Fin 16384 × BitVec 20)) : (numbered s cue samples toks ops slots).mdw = s.mdw := by
  have hspan (u : State) (x : Fin 16384 × BitVec 20) : (noteSpan u cue x.1.val x.2.toNat toks ops).mdw = u.mdw :=
    (noteSpan_fp rfl u cue _ _ toks ops (Fp.refl 8 u)).mdw rfl
  unfold numbered
  refine foldl_keeps State.mdw _ (fun u x => ?_) slots s
  dsimp only
  split
  · rfl
  · exact hspan _ x

theorem instantiate_mdw (s : State) (bs : List Beat) : (instantiate s bs).mdw = s.mdw :=
  (instantiate_fp rfl s bs (Fp.refl 1999919 s)).mdw rfl

theorem sheets_congr {s t : State} (hspl : t.spl = s.spl) (hregs : t.regs = s.regs) (push stage0 : Bool) :
    sheets t push stage0 = sheets s push stage0 := by
  unfold sheets
  simp only [hspl, get_congr hregs]

theorem sheets_listed (s : State) (body : ActBody) (cue : Nat) (x : Fin 16384 × BitVec 20) (push stage0 : Bool) :
    sheets (listed (bodyLanded s body) cue body.samples [x]) push stage0 = sheets s push stage0 := by
  have hbody : (bodyLanded s body).spl = s.spl ∧ (bodyLanded s body).regs = s.regs := by
    unfold bodyLanded
    split
    · have h := writeAt_fp rfl s body.addr body.poison body.data (Fp.refl 4194816 s)
      exact ⟨h.spl rfl, h.regs rfl⟩
    · exact ⟨rfl, rfl⟩
  obtain ⟨hspl, hregs⟩ := hbody
  unfold listed
  dsimp only
  split
  · exact sheets_congr hspl hregs _ _
  · exact sheets_congr hspl hregs _ _

section
variable {src : Fin 1024} {cue : Nat} {push : Bool} {x : Fin 16384 × BitVec 20} {toks deadline : Nat} {frame costume spec : Bool}
  {body : ActBody} {s : State} (hmem : src.val ∈ memberDevs s) (hstage : ∃ k, selfStage s = some k ∧ k ≠ 0)
include hmem hstage

theorem exec_activation {slots : List (Fin 16384 × BitVec 20)} :
    exec (.activation src cue push slots toks deadline frame costume spec body) s = .next
      (let slots := slots.filter fun x => decide (x.1.val ∉ s.stm.noTable)
      let u := listed (bodyLanded s body) cue body.samples slots
      let bs := if push then
          (slots.map fun x => ((sheets u true false).map (pushBeats u cue x.1.val x.2.toNat toks deadline frame costume spec)).flatten).flatten
        else (sheets u false false).map fun t => mkBeat t.1 cue deadline (slots.map fun x => x.1.val) frame costume spec
      instantiate (if push then numbered u cue body.samples toks (sheets u true false) slots else u) bs) := by
  obtain ⟨k, hk, hk0⟩ := hstage
  exact congrArg Host.Outcome.next (if_pos (by simp [hmem, hk, hk0]))

theorem activation_mdw {slots : List (Fin 16384 × BitVec 20)} :
    ∃ t, exec (.activation src cue push slots toks deadline frame costume spec body) s = .next t ∧ t.mdw =
      ((slots.filter fun x => decide (x.1.val ∉ s.stm.noTable)).foldl (fun s x => setLen s x.1.val x.2.toNat)
        (bodyLanded s body)).mdw := by
  refine ⟨_, exec_activation hmem hstage, ?_⟩
  dsimp only
  rw [instantiate_mdw, ← listed_mdw _ cue body.samples]
  split
  · exact numbered_mdw _ _ _ _ _ _
  · rfl

theorem activation_absorbed :
    let w := if addrOk s body.addr body.data.length && !guarded s body.addr body.data.length then
      writeAt s body.addr body.poison body.data else s
    ∃ t, exec (.activation src cue push [x] toks deadline frame costume spec body) s = .next t ∧
      t.mdw.mem = w.mdw.mem ∧ (x.1.val ∈ s.stm.noTable → t.mdw.lenPtr = s.mdw.lenPtr) ∧
      (x.1.val ∉ s.stm.noTable → t.mdw.lenPtr.getD x.1.val 0 = x.2.toNat) ∧
      (x.1.val ∉ s.stm.noTable → push = false → t = instantiate (let v := setLen w x.1.val x.2.toNat
          if body.samples && atLast v then await v cue x.1.val else v)
        ((sheets s false false).map fun y => mkBeat y.1 cue deadline [x.1.val] frame costume spec)) := by
  intro w
  by_cases hx : x.1.val ∈ s.stm.noTable
  · obtain ⟨t, ht, hmdw⟩ := activation_mdw (cue := cue) (push := push) (toks := toks) (deadline := deadline) (frame := frame)
      (costume := costume) (spec := spec) (body := body) hmem hstage (slots := [x])
    rw [List.filter_cons_of_neg (by simp [hx]), List.filter_nil, List.foldl_nil] at hmdw
    refine ⟨t, ht, by rw [hmdw]; rfl, fun _ => ?_, fun h => absurd hx h, fun h => absurd hx h⟩
    rw [hmdw, bodyLanded_lenPtr]
  · obtain ⟨t, ht, hmdw⟩ := activation_mdw (cue := cue) (push := push) (toks := toks) (deadline := deadline) (frame := frame)
      (costume := costume) (spec := spec) (body := body) hmem hstage (slots := [x])
    rw [List.filter_cons_of_pos (by simp [hx]), List.filter_nil, List.foldl_cons, List.foldl_nil] at hmdw
    refine ⟨t, ht, by rw [hmdw]; rfl, fun h => absurd h hx, fun _ => ?_, fun _ hpush => ?_⟩
    · rw [hmdw]
      exact AMap.getD_setD_same _ _ _ _
    · subst hpush
      rw [exec_activation hmem hstage] at ht
      dsimp only at ht
      rw [List.filter_cons_of_pos (by simp [hx]), List.filter_nil, if_neg Bool.false_ne_true, if_neg Bool.false_ne_true,
        sheets_listed] at ht
      exact (Host.Outcome.next.inj ht).symm

end

/-- Settles O21: the tokens join the list their header opened, and what an activation writes and points at is there before its beats. -/
theorem listingsComplete : Obligations.ListingsComplete :=
  ⟨fun _ _ _ _ => cueList_absorbed, fun _ _ _ _ _ _ _ _ _ _ _ => activation_absorbed⟩

end Sys2Proof.Machine
end

section
/-!
OBLIGATION O25. Compute words: the stores of an operation and the marks it leaves on the beat in hand.
-/
namespace Sys2Proof.Machine

/-! Bytes written at device addresses. -/

/-- The bytes of a write, its poison tags aside. -/
theorem readByte_writeAt (s : State) (a : Nat) (poison : Bool) (bs : List Byte) (j : Nat) : readByte (writeAt s a poison bs) j =
    readByte (bs.zipIdx.foldl (fun s x => writeByte s (physOf (a + x.2)) x.1) s) j := by
  refine readByte_congr ?_ j
  unfold writeAt
  dsimp only
  split
  · refine foldl_keeps (fun u : State => u.mdw.mem) _ ?_ _ _
    exact fun _ _ => rfl
  · rfl

theorem readByte_writeAt_other {a j : Nat} {bs : List Byte} (h : ∀ i < bs.length, j ≠ physOf (a + i)) (s : State) (poison : Bool) :
    readByte (writeAt s a poison bs) j = readByte s j := by
  have hfold (k : Nat) (h : ∀ i < bs.length, j ≠ physOf (a + (k + i))) : readByte ((bs.zipIdx k).foldl
      (fun s x => writeByte s (physOf (a + x.2)) x.1) s) j = readByte s j := by
    clear * - h
    induction bs generalizing s k with
    | nil => rfl
    | cons b bs ih =>
      rw [List.zipIdx_cons, List.foldl_cons, ih _ _ fun i hi => by
        rw [Nat.add_assoc k 1 i]
        exact h (1 + i) (by rw [List.length_cons]; omega)]
      exact readByte_writeByte_other _ _ _ _ (h 0 (Nat.succ_pos _))
  exact (readByte_writeAt s a poison bs j).trans (hfold 0 fun i hi => by rw [Nat.zero_add]; exact h i hi)

/-- Outside the weight view a device address is the byte's own. -/
theorem physOf_plain {a : Nat} (h : a < weightBase ∨ meadowBase ≤ a) : physOf a = a := if_neg (by omega)

theorem foldl_writeByte_plain {a : Nat} (bs : List Byte) (k : Nat) (s : State)
    (h : a + k + bs.length ≤ weightBase ∨ meadowBase ≤ a) :
    (bs.zipIdx k).foldl (fun s x => writeByte s (physOf (a + x.2)) x.1) s = writeBytes s (a + k) bs := by
  induction bs generalizing s k with
  | nil => rfl
  | cons b bs ih =>
    rw [List.length_cons] at h
    rw [List.zipIdx_cons, List.foldl_cons, ih (k + 1) _ (by omega), physOf_plain (by omega)]
    rfl

theorem readByte_writeAt_same {a : Nat} {bs : List Byte} (hplain : a + bs.length ≤ weightBase ∨ meadowBase ≤ a) (s : State)
    (poison : Bool) {i : Nat} (hi : i < bs.length) : readByte (writeAt s a poison bs) (a + i) = bs[i] := by
  rw [readByte_writeAt, foldl_writeByte_plain bs 0 s hplain]
  exact readByte_writeBytes_same s a i bs hi

/-! The beat in hand. -/

theorem inHand_congr {s t : State} {p : Nat} (hply : t.ply = s.ply) (hstm : t.stm = s.stm) : inHand t p = inHand s p := by
  unfold inHand playerOf beatAt
  rw [hply, hstm]

theorem inHand_onHand {s : State} {p : Nat} {b : Beat} (hb : inHand s p = some b) (f : Beat → Beat)
    (hf : ∀ x : Beat, (f x).idx = x.idx) : inHand (onHand s p f) p = some (f b) := by
  obtain ⟨i, hi, hat⟩ := Option.bind_eq_some_iff.1 hb
  have hon : onHand s p f = onBeat s i f := by simp only [onHand, hi]
  rw [hon]
  change (playerOf s p).beat.bind (beatAt (onBeat s i f)) = _
  rw [hi]
  exact (find?_mapIf _ _ _ fun x hx => by rwa [hf x]).trans (congrArg _ hat)

theorem onHand_regs (s : State) (p : Nat) (f : Beat → Beat) : (onHand s p f).regs = s.regs ∧ (onHand s p f).mdw = s.mdw := by
  unfold onHand
  split <;> exact ⟨rfl, rfl⟩

/-! Stores of a Player. -/

theorem any_protected {s : State} {p a : Nat} {d : List Byte} (h : ∃ i < d.length, protectedByte s p (physOf (a + i)) = true) :
    ((List.range d.length).any fun i => protectedByte s p (physOf (a + i))) = true := by
  obtain ⟨i, hi, hp⟩ := h
  exact List.any_eq_true.2 ⟨i, List.mem_range.2 hi, hp⟩

theorem not_any_protected {s : State} {p a : Nat} {d : List Byte} (h : ∀ i < d.length, protectedByte s p (physOf (a + i)) = false) :
    ¬ ((List.range d.length).any fun i => protectedByte s p (physOf (a + i))) = true := by
  rw [Bool.not_eq_true, List.any_eq_false]
  exact fun i hi => by rw [h i (List.mem_range.1 hi)]; decide

/-- A discarded store, before its beat is marked. -/
def storeRefused (s : State) (p : Nat) : State :=
  report (set (advance s) (Fld.plyFaultWprot p) 1) 0x0401 p (fresh s % 2 ^ 32)

theorem playerStore_protected {s : State} {p a : Nat} {d : List Byte}
    (h : ∃ i < d.length, protectedByte s p (physOf (a + i)) = true) (poison : Bool) :
    playerStore s p a poison d = onHand (storeRefused s p) p fun b => { b with fail := true } := if_pos (any_protected h)

theorem playerStore_free {s : State} {p a : Nat} {d : List Byte} (h : ∀ i < d.length, protectedByte s p (physOf (a + i)) = false)
    (poison : Bool) : playerStore s p a poison d = writeAt s a poison d := if_neg (not_any_protected h)

theorem storeRefused_keeps (s : State) (p : Nat) : (storeRefused s p).mdw = s.mdw ∧ (storeRefused s p).ply = s.ply ∧
    (storeRefused s p).stm = s.stm := by
  have h := report_fp rfl (set (advance s) (Fld.plyFaultWprot p) 1) 0x0401 p (fresh s % 2 ^ 32) (Fp.refl 950275 _)
  exact ⟨h.mdw rfl, h.ply rfl, h.stm rfl⟩

theorem get_storeRefused (s : State) (p : Fin 96) : get (storeRefused s p) (Fld.plyFaultWprot p) = 1 := by
  have hblk : (Fld.plyFaultWprot p.val).blk ∉ [0x10, 0x14, 0x16, 0x17] := by
    simp only [Fld.blk, Fld.key, Fld.plyFaultWprot, List.mem_cons, List.not_mem_nil, or_false]
    omega
  exact (get_report _ _ _ _ _ (outside_report _ hblk)).trans
    (get_set_of_lt _ (Fld.plyFaultWprot p.val) 1 (show 1 < 2 ^ 1 by decide))

theorem store_protected {p : Fin 96} {a : Nat} {d : List Byte} {s : State}
    (h : ∃ i < d.length, protectedByte s p (physOf (a + i)) = true) :
    (∀ j, readByte (runOp s p (.store a d)) j = readByte s j) ∧ get (runOp s p (.store a d)) (Fld.plyFaultWprot p) = 1 ∧
    ∀ b, inHand s p = some b → ∃ c, inHand (runOp s p (.store a d)) p = some c ∧ c.fail = true := by
  have hrun : runOp s p (.store a d) = onHand (storeRefused s p) p fun b => { b with fail := true } := playerStore_protected h _
  obtain ⟨hmdw, hply, hstm⟩ := storeRefused_keeps s p
  obtain ⟨hregs, hkeep⟩ := onHand_regs (storeRefused s p) p fun b => { b with fail := true }
  rw [hrun]
  refine ⟨fun j => readByte_congr (congrArg Mdw.mem (hkeep.trans hmdw)) j, (get_congr hregs _).trans (get_storeRefused s p),
    fun b hb => ⟨{ b with fail := true }, ?_, rfl⟩⟩
  exact inHand_onHand ((inHand_congr hply hstm).trans hb) (fun b => { b with fail := true }) fun _ => rfl

theorem store_frame {p a : Nat} {d : List Byte} {s : State} (h : ∀ i < d.length, protectedByte s p (physOf (a + i)) = false) (j : Nat)
    (hj : ∀ i < d.length, j ≠ physOf (a + i)) : readByte (runOp s p (.store a d)) j = readByte s j := by
  rw [show runOp s p (.store a d) = _ from playerStore_free h _]
  exact readByte_writeAt_other hj s _

/-! An FP32 add. -/

/-- A result before it is stored: its flags are set and the poison it met marks the beat. -/
def resultReady (s : State) (p fl : Nat) (poison : Bool) : State := skipFree (setFlags (meetPoison s p poison) p fl) 0

theorem runOp_add (s : State) (p x y a : Nat) : runOp s p (.add x y a) =
    playerStore (resultReady s p (fAdd (devLe s 4 x) (devLe s 4 y)).fl (opPoison s p (.add x y a))) p a (opPoison s p (.add x y a))
      (leBytes 4 (fAdd (devLe s 4 x) (devLe s 4 y)).v) := rfl

/-- Flags and marks say nothing of the Loft's partition. -/
theorem get_resultReady (s : State) (p fl : Nat) (poison : Bool) {f : Fld} (hf : f.off = 0x408000) (hlo : f.lo < 32) :
    get (resultReady s p fl poison) f = get s f := by
  have hword (g : Fld) (hg : g.off % 0x10000 < 0x8000) (hglo : g.lo < 32) (u : State) : get (set u g 1) f = get u f :=
    get_set_other _ _ _ _ (key_ne_of_off (by omega) hlo hglo)
  have hflags (u : State) : get (setFlags u p fl) f = get u f := by
    refine get_foldl_mem f _ _ (fun x hx w => ?_) u
    have hx : x.2.off % 0x10000 = 0x14 ∧ x.2.lo < 32 := by
      simp only [List.mem_cons, List.not_mem_nil, or_false] at hx
      rcases hx with rfl | rfl | rfl | rfl | rfl | rfl <;>
      · simp only [Fld.plyFlagsNv, Fld.plyFlagsDz, Fld.plyFlagsOf, Fld.plyFlagsUf, Fld.plyFlagsIx, Fld.plyFlagsSat]
        omega
    exact get_ite (hword x.2 (by omega) hx.2 w) rfl
  have hmeet : get (meetPoison s p poison) f = get s f := by
    refine get_ite ((get_congr (onHand_regs _ _ _).1 f).trans (hword _ ?_ (show 3 < 32 by decide) s)) rfl
    simp only [Fld.plyFaultPoisonIn]
    omega
  exact (hflags _).trans hmeet

theorem protectedByte_resultReady (s : State) (p fl : Nat) (poison : Bool) (a : Nat) :
    protectedByte (resultReady s p fl poison) p a = protectedByte s p a := by
  unfold protectedByte wGran
  rw [get_resultReady s p fl poison (f := Fld.plyLoftPartW) rfl (by decide),
    get_resultReady s p fl poison (f := Fld.plyLoftPartC) rfl (by decide)]

theorem add_stores_sum {p x y a : Nat} {s : State} (hfree : ∀ i < 4, protectedByte s p (physOf (a + i)) = false)
    (hplain : a + 4 ≤ weightBase ∨ meadowBase ≤ a) {i : Nat} (hi : i < 4) :
    readByte (runOp s p (.add x y a)) (a + i) = (leBytes 4 (fAdd (devLe s 4 x) (devLe s 4 y)).v).getD i 0 := by
  have hlen : (leBytes 4 (fAdd (devLe s 4 x) (devLe s 4 y)).v).length = 4 := leBytes_length 4 _
  rw [runOp_add, playerStore_free (by
    rw [hlen]
    exact fun j hj => (protectedByte_resultReady _ _ _ _ _).trans (hfree j hj)),
    readByte_writeAt_same (by rwa [hlen]) _ _ (by rwa [hlen]), List.getD_eq_getElem _ _ (by rwa [hlen])]

/-- A store leaves the poison its beat has met. -/
theorem playerStore_poisoned {s : State} {p a : Nat} {poison : Bool} {d : List Byte} {b : Beat} (hb : inHand s p = some b)
    (hp : b.poison = true) : ∃ c, inHand (playerStore s p a poison d) p = some c ∧ c.poison = true := by
  by_cases h : ∃ i < d.length, protectedByte s p (physOf (a + i)) = true
  · obtain ⟨-, hply, hstm⟩ := storeRefused_keeps s p
    rw [playerStore_protected h]
    exact ⟨{ b with fail := true }, inHand_onHand ((inHand_congr hply hstm).trans hb) (fun b => { b with fail := true })
      fun _ => rfl, hp⟩
  · rw [playerStore_free fun i hi => Bool.eq_false_iff.2 fun hi' => h ⟨i, hi, hi'⟩]
    have hw := writeAt_fp rfl s a poison d (Fp.refl 4194816 s)
    exact ⟨b, (inHand_congr (hw.ply rfl) (hw.stm rfl)).trans hb, hp⟩

theorem add_poisons {p x y a : Nat} {b : Beat} {s : State} (hb : inHand s p = some b)
    (hp : opPoison s p (.add x y a) = true) : ∃ c, inHand (runOp s p (.add x y a)) p = some c ∧ c.poison = true := by
  have hmeet : inHand (meetPoison s p true) p = some { b with poison := true } :=
    inHand_onHand (s := set s (Fld.plyFaultPoisonIn p) 1) hb (fun b => { b with poison := true }) fun _ => rfl
  have hflags := setFlags_fp rfl (meetPoison s p true) p (fAdd (devLe s 4 x) (devLe s 4 y)).fl (Fp.refl 1 _)
  rw [runOp_add, hp]
  exact playerStore_poisoned (b := { b with poison := true })
    ((inHand_congr (t := resultReady s p _ true) (hflags.ply rfl) (hflags.stm rfl)).trans hmeet) rfl

/-! A compute word. -/

section
variable {p : Fin 96} {w : Nat} {op : VecOp} {s : State} (hf : frontWord (withWindow s p) p = some w) (hlo : 0x10 ≤ wordClass w)
  (hhi : wordClass w ≤ 0xEF) (hw : opWaits (withWindow s p) op = false)
include hf hlo hhi hw

theorem exec_computeWord : exec (.computeWord p op) s = if !opAddrOk (withWindow s p) p op then .fault .noAddress
    else .next (setSeq (advancePc (runOp (withWindow s p) p op) p) p 1) :=
  if_neg (by simp [hf, hlo, hhi, hw])

theorem computeWord_runs (ha : opAddrOk (withWindow s p) p op = true) :
    exec (.computeWord p op) s = .next (setSeq (advancePc (runOp (withWindow s p) p op) p) p 1) :=
  (exec_computeWord hf hlo hhi hw).trans (if_neg (by rw [ha]; decide))

theorem computeWord_stops (ha : opAddrOk (withWindow s p) p op = false) : exec (.computeWord p op) s = .fault .noAddress :=
  (exec_computeWord hf hlo hhi hw).trans (if_pos (by rw [ha]; rfl))

end

/-- Settles O25: the word and its addresses decide whether it runs, and a store is a run of bytes or a mark on its beat. -/
theorem computeWords : Obligations.ComputeWords :=
  ⟨fun _ _ _ _ => computeWord_runs, fun _ _ _ _ => computeWord_stops, fun _ _ _ _ => store_protected,
    fun _ _ _ _ => store_frame, fun _ _ _ _ _ hfree hplain _ hi => add_stores_sum hfree hplain hi, fun _ _ _ _ _ _ => add_poisons⟩

end Sys2Proof.Machine
end

section
/-!
OBLIGATION O27. Script and stop-set images: what a load reads, how its RESULT is decided, and a withdrawal.
-/
namespace Sys2Proof.Machine

/-! The copies of an image. -/

theorem copyDevs_congr {s t : State} (hspl : t.spl = s.spl) (hself : get t Fld.fabSelfDevice = get s Fld.fabSelfDevice) :
    copyDevs t = copyDevs s := by
  unfold copyDevs lastDevs ownCompany selfDev
  rw [hspl, hself]

theorem get_sendTransfer (s : State) (dst id : Nat) (bs : List Byte) (f : Fld) (h : f.blk ≠ 0xF) :
    get (sendTransfer s dst id bs) f = get s f := get_foldl f _ (fun u _ => get_sendPkt u _ _ _ _ _ _ f h) _ s

theorem sendTransfer_prm (s : State) (dst id : Nat) (bs : List Byte) : (sendTransfer s dst id bs).prm = s.prm :=
  (sendTransfer_fp rfl s dst id bs (Fp.refl 1049601 s)).prm rfl

theorem get_sendScript (s : State) (f : Fld) (h : f.blk ≠ 0xF) : get (sendScript s) f = get s f :=
  (get_foldl f _ (fun u d => get_sendTransfer u d _ _ f h) _ _).trans rfl

theorem sendScript_prm (s : State) : (sendScript s).prm = { s.prm with copies := some (copyDevs s) } :=
  foldl_keeps State.prm _ (fun u d => sendTransfer_prm u d _ _) _ _

/-! A load. -/

theorem loadVerdict_congr {s t : State} (hspl : t.spl = s.spl) (hprm : t.prm.scripts = s.prm.scripts) (x : Script) :
    loadVerdict t x = loadVerdict s x := by
  unfold loadVerdict
  rw [hspl, hprm]

/-- The load of what was read, before its copies go out. -/
def loadBegun (s : State) (img : Option Script) (bs : List Byte) : State :=
  (set s Fld.prmLoadStatusResult 1).onPrm fun p => { p with load := img, image := bs, copies := none }

theorem get_loadBegun (s : State) (img : Option Script) (bs : List Byte) :
    get (loadBegun s img bs) Fld.prmLoadStatusResult = 1 := get_set_of_lt _ Fld.prmLoadStatusResult 1 (by decide)

theorem copyDevs_loadBegun (s : State) (img : Option Script) (bs : List Byte) : copyDevs (loadBegun s img bs) = copyDevs s :=
  copyDevs_congr rfl (get_set_other _ _ _ _ (by decide))

/-- The copies go out only of an image that passes the checks. -/
theorem loadBegun_copies (s : State) (img : Option Script) (bs : List Byte) :
    let t := if img.any (fun x => loadVerdict (loadBegun s img bs) x = 2) then sendScript (loadBegun s img bs) else loadBegun s img bs
    get t Fld.prmLoadStatusResult = 1 ∧ t.prm.load = img ∧ t.prm.scripts = s.prm.scripts ∧ (img = none → t.prm.copies = none) ∧
      ∀ x, img = some x → t.prm.copies = if loadVerdict s x = 2 then some (copyDevs s) else none := by
  intro t
  have hv (x : Script) : loadVerdict (loadBegun s img bs) x = loadVerdict s x := loadVerdict_congr rfl rfl x
  by_cases h : img.any (fun x => loadVerdict s x = 2) = true
  · have ht : t = sendScript (loadBegun s img bs) := if_pos (by simpa only [hv] using h)
    rw [ht, sendScript_prm, copyDevs_loadBegun]
    refine ⟨(get_sendScript _ _ (by decide)).trans (get_loadBegun s img bs), rfl, rfl, fun hn => ?_, fun x hx => ?_⟩
    · rw [hn] at h
      exact absurd h Bool.false_ne_true
    · rw [hx, Option.any_some] at h
      exact (if_pos (of_decide_eq_true h)).symm
  · have ht : t = loadBegun s img bs := if_neg (by simpa only [hv] using h)
    rw [ht]
    refine ⟨get_loadBegun s img bs, rfl, rfl, fun _ => rfl, fun x hx => ?_⟩
    rw [hx, Option.any_some] at h
    exact (if_neg fun h2 => h (decide_eq_true h2)).symm

theorem scriptLoad_reads {v : Word} {s : State} (hr : reaches s 0 Fld.prmLoadCtlLoad.off = true) (hload : bit v 0 = true)
    (hwith : bit v 1 = false) :
    let u := commandWord s 0 Fld.prmLoadCtlLoad.off v
    get u Fld.prmLoadStatusResult ≠ 1 →
    ∃ t, exec (.scriptLoad v) s = .next t ∧ get t Fld.prmLoadStatusResult = 1 ∧
      t.prm.load = readImage u (loadAddr u) ∧ t.prm.scripts = u.prm.scripts ∧
      (readImage u (loadAddr u) = none → t.prm.copies = none) ∧
      (∀ x, readImage u (loadAddr u) = some x → t.prm.copies = if loadVerdict u x = 2 then some (copyDevs u) else none) :=
  fun hu => ⟨_, congrArg Host.Outcome.next (if_pos (by rw [hr, hload, hwith]; exact decide_eq_true hu)), loadBegun_copies _ _ _⟩

/-! The end of a load. -/

/-- A load that ended with RESULT `r`. -/
def loadEnded (s : State) (r : Nat) : State :=
  (set s Fld.prmLoadStatusResult r).onPrm fun p => { p with load := none, image := [], copies := none }

theorem get_loadEnded (s : State) {r : Nat} (hr : r < 16) : get (loadEnded s r) Fld.prmLoadStatusResult = r :=
  get_set_of_lt _ Fld.prmLoadStatusResult r hr

theorem get_noteScripts (s : State) {f : Fld} (hu : f.key ≠ Fld.prmScriptUseScripts.key)
    (hs : f.key ≠ Fld.prmScriptUseStopSets.key) : get (noteScripts s) f = get s f :=
  get_ite ((get_set_other _ _ _ _ hs).trans (get_set_other _ _ _ _ hu)) rfl

theorem noteScripts_prm (s : State) : (noteScripts s).prm = s.prm := (noteScripts_fp rfl s (Fp.refl 1 s)).prm rfl

section
variable {s : State} (hbusy : get s Fld.prmLoadStatusResult = 1)
include hbusy

theorem scriptLoadDone_bad (hnone : s.prm.load = none) :
    ∃ t, exec .scriptLoadDone s = .next t ∧ get t Fld.prmLoadStatusResult = 3 ∧ t.prm.scripts = s.prm.scripts := by
  refine ⟨loadEnded s 3, ?_, get_loadEnded s (by decide), rfl⟩
  change execScriptLoadDone s = _
  simp only [execScriptLoadDone, hnone]
  exact congrArg Host.Outcome.next (if_neg (by omega))

variable {x : Script} (hload : s.prm.load = some x)
include hload

theorem exec_scriptLoadDone : exec .scriptLoadDone s = .next (if loadVerdict s x ≠ 2 then loadEnded s (loadVerdict s x)
    else if scriptCopied s then noteScripts ((loadEnded s 2).onPrm fun p => { p with scripts := p.scripts ++ [x] })
    else if s.prm.copies.isNone then sendScript s else s) := by
  change execScriptLoadDone s = _
  simp only [execScriptLoadDone, hload]
  exact congrArg Host.Outcome.next (if_neg (by omega))

theorem scriptLoadDone_refused {r : Nat} (hv : loadVerdict s x = r) (hr : r ≠ 2) (hlt : r < 16) :
    ∃ t, exec .scriptLoadDone s = .next t ∧ get t Fld.prmLoadStatusResult = r ∧ t.prm.scripts = s.prm.scripts ∧ t.prm.load = none := by
  subst hv
  exact ⟨_, (exec_scriptLoadDone hbusy hload).trans (congrArg _ (if_pos hr)), get_loadEnded s hlt, rfl, rfl⟩

theorem scriptLoadDone_holds (hv : loadVerdict s x = 2) (hc : copyDevs s = [] ∨ s.prm.copies = some []) :
    ∃ t, exec .scriptLoadDone s = .next t ∧ get t Fld.prmLoadStatusResult = 2 ∧ t.prm.scripts = s.prm.scripts ++ [x] ∧
      t.prm.load = none := by
  have hcopied : scriptCopied s = true := by
    unfold scriptCopied
    rcases hc with h | h <;> simp [h]
  refine ⟨_, (exec_scriptLoadDone hbusy hload).trans (congrArg _ ((if_neg (by simp [hv])).trans (if_pos hcopied))), ?_, ?_⟩
  · exact (get_noteScripts _ (by decide) (by decide)).trans (get_loadEnded s (by decide))
  · rw [noteScripts_prm]
    exact ⟨rfl, rfl⟩

theorem scriptLoadDone_waits (hv : loadVerdict s x = 2) {d : Nat} {ds : List Nat} (hne : copyDevs s ≠ [])
    (hc : s.prm.copies = some (d :: ds)) : exec .scriptLoadDone s = .next s :=
  (exec_scriptLoadDone hbusy hload).trans (congrArg _ ((if_neg (by simp [hv])).trans
    ((if_neg (by simp [scriptCopied, hne, hc])).trans (if_neg (by simp [hc])))))

end

/-! The verdict on an image. -/

section
variable {s : State} {x : Script}

theorem loadVerdict_exists (h : ∃ y ∈ s.prm.scripts, isStopSet y = isStopSet x ∧ y.id = x.id) : loadVerdict s x = 5 := by
  obtain ⟨y, hy, hkind, hid⟩ := h
  exact if_pos (List.any_eq_true.2 ⟨y, List.mem_filter.2 ⟨hy, decide_eq_true hkind⟩, decide_eq_true hid⟩)

variable {p : Plot} (hp : s.spl.active = some p) (hnew : ∀ y ∈ s.prm.scripts, isStopSet y = isStopSet x → y.id ≠ x.id)
include hp hnew

theorem loadVerdict_new : loadVerdict s x = if 1024 ≤ (s.prm.scripts.filter fun y => isStopSet y = isStopSet x).length ∨
    p.scriptStore < (s.prm.scripts.map (·.bytes)).sum + x.bytes then 4 else 2 := by
  simp only [loadVerdict, hp]
  refine if_neg ?_
  rw [Bool.not_eq_true, List.any_eq_false]
  intro y hy
  obtain ⟨hy, hkind⟩ := List.mem_filter.1 hy
  exact fun h => hnew y hy (of_decide_eq_true hkind) (of_decide_eq_true h)

end

/-! A withdrawal. -/

/-- The image that the registers name for a withdrawal. -/
def withdrawHit (u : State) (x : Script) : Bool :=
  x.id = get u Fld.prmLoadCtlId && ((get u Fld.prmLoadCtlKind = 1 && !isStopSet x) || (get u Fld.prmLoadCtlKind = 2 && isStopSet x))

theorem withdrawHit_iff (u : State) (x : Script) : withdrawHit u x = true ↔ x.id = get u Fld.prmLoadCtlId ∧
    ((get u Fld.prmLoadCtlKind = 1 ∧ isStopSet x = false) ∨ (get u Fld.prmLoadCtlKind = 2 ∧ isStopSet x = true)) := by
  simp [withdrawHit]

/-- The images marked, and those freed that no Call is bound to. -/
def withdrawn (u : State) : State :=
  freeScripts ((set u Fld.prmLoadStatusResult 2).onPrm fun p => { p with
    scripts := mapIf (withdrawHit u) (fun x => { x with withdrawn := true }) p.scripts })

theorem mem_withdrawn_of_hit {u : State} {x : Script} (hx : x ∈ (withdrawn u).prm.scripts) (hhit : withdrawHit u x = true) :
    x.withdrawn = true := by
  unfold withdrawn freeScripts at hx
  rw [noteScripts_prm] at hx
  obtain ⟨y, -, hy⟩ := List.mem_map.1 (List.mem_filter.1 hx).1
  split at hy
  · rw [← hy]
  · next hn =>
    rw [hy] at hn
    exact absurd hhit hn

theorem mem_withdrawn_of_not_hit {u : State} {x : Script} (hx : x ∈ u.prm.scripts) (hhit : withdrawHit u x = false)
    (hw : x.withdrawn = false) : x ∈ (withdrawn u).prm.scripts := by
  unfold withdrawn freeScripts
  rw [noteScripts_prm]
  refine List.mem_filter.2 ⟨List.mem_map.2 ⟨x, hx, if_neg (by rw [hhit]; decide)⟩, by rw [hw]; rfl⟩

theorem get_withdrawn_result (u : State) : get (withdrawn u) Fld.prmLoadStatusResult = 2 :=
  (get_noteScripts _ (by decide) (by decide)).trans (get_set_of_lt _ Fld.prmLoadStatusResult 2 (by decide))

section
variable {v : Word} {s : State} (hr : reaches s 0 Fld.prmLoadCtlWithdraw.off = true) (hwith : bit v 1 = true)
  (hload : bit v 0 = false)
include hr hwith hload

theorem exec_withdraw : let u := commandWord s 0 Fld.prmLoadCtlWithdraw.off v
    get u Fld.prmLoadStatusResult ≠ 1 → exec (.withdraw v) s = .next (if u.prm.scripts.any (withdrawHit u) then
      tellDevs (withdrawn u) (copyDevs (withdrawn u)) outWithdraw (b2n (get u Fld.prmLoadCtlKind = 2))
        (get (withdrawn u) Fld.prmLoadCtlId)
      else set u Fld.prmLoadStatusResult 6) :=
  fun hu => congrArg Host.Outcome.next (if_pos (by rw [hr, hwith, hload]; exact decide_eq_true hu))

theorem withdraw_notFound : let u := commandWord s 0 Fld.prmLoadCtlWithdraw.off v
    get u Fld.prmLoadStatusResult ≠ 1 → (∀ x ∈ u.prm.scripts, ¬ withdrawHit u x = true) →
    ∃ t, exec (.withdraw v) s = .next t ∧ get t Fld.prmLoadStatusResult = 6 ∧ t.prm = u.prm :=
  fun hu hnone => ⟨_, (exec_withdraw hr hwith hload hu).trans (congrArg _ (if_neg (by rwa [Bool.not_eq_true, List.any_eq_false]))),
    get_set_of_lt _ Fld.prmLoadStatusResult 6 (by decide), rfl⟩

theorem withdraw_marks : let u := commandWord s 0 Fld.prmLoadCtlWithdraw.off v
    get u Fld.prmLoadStatusResult ≠ 1 → (∃ x ∈ u.prm.scripts, withdrawHit u x = true) →
    ∃ t, exec (.withdraw v) s = .next t ∧ get t Fld.prmLoadStatusResult = 2 ∧
      (∀ x ∈ t.prm.scripts, withdrawHit u x = true → x.withdrawn = true) ∧
      ∀ x ∈ u.prm.scripts, ¬ withdrawHit u x = true → x.withdrawn = false → x ∈ t.prm.scripts := by
  intro u hu hsome
  refine ⟨_, (exec_withdraw hr hwith hload hu).trans (congrArg _ (if_pos (List.any_eq_true.2 hsome))),
    (get_tellDevs _ _ _ _ _ _ (by decide)).trans (get_withdrawn_result u), ?_⟩
  have hprm (ds : List Nat) (o a b : Nat) : (tellDevs (withdrawn u) ds o a b).prm = (withdrawn u).prm :=
    (tellDevs_fp rfl (withdrawn u) ds o a b (Fp.refl 1049601 _)).prm rfl
  rw [hprm]
  exact ⟨fun x => mem_withdrawn_of_hit, fun x hx hhit => mem_withdrawn_of_not_hit hx (Bool.eq_false_iff.2 hhit)⟩

end

/-- Settles O27: the verdict on the image and the state of its copies decide a load's RESULT, and what a withdrawal names decides its own. -/
theorem scriptLoadsComplete : Obligations.ScriptLoadsComplete := by
  refine ⟨fun _ _ => scriptLoad_reads, fun _ => scriptLoadDone_bad, fun _ _ hb hl h =>
    scriptLoadDone_refused hb hl (loadVerdict_exists h) (by decide) (by decide), fun _ _ _ hb hl hp hnew hfull => ?_,
    fun _ _ _ hb hl hp hnew hlen hstore => ?_, fun v s hr hw hl => ?_⟩
  · exact scriptLoadDone_refused hb hl ((loadVerdict_new hp hnew).trans (if_pos hfull)) (by decide) (by decide)
  · have hv := (loadVerdict_new hp hnew).trans (if_neg (by omega))
    exact ⟨scriptLoadDone_holds hb hl hv, fun _ _ => scriptLoadDone_waits hb hl hv⟩
  · intro u hu hit
    have hiff : ∀ x, hit x ↔ withdrawHit u x = true := fun x => (withdrawHit_iff u x).symm
    simp only [hiff]
    exact ⟨withdraw_notFound hr hw hl hu, withdraw_marks hr hw hl hu⟩

end Sys2Proof.Machine
end

section
/-!
OBLIGATION O28. Lists of candidates and step records: a local pass, the parts that arrive at the merge rank, and the records that members take.
-/
namespace Sys2Proof.Machine

/-! A listing opens. -/

theorem dropList_prm (s : State) : (dropList s).prm = s.prm := (dropList_fp rfl s (Fp.refl 950275 s)).prm rfl

theorem wmUpdate_prm (s : State) (i : Nat) : (wmUpdate s i).prm = s.prm := (wmUpdate_fp rfl s i (Fp.refl 524289 s)).prm rfl

/-- The lists that go when a merge opens are all that its opening takes from the Prompter's store. -/
theorem openMerge_keeps {β : Type} (g : Prm → β) (hlists : ∀ (p : Prm) l, g { p with lists := l } = g p)
    (hmerges : ∀ (p : Prm) m, g { p with merges := m } = g p) (s : State) (slot : Nat) (q : SampReq) :
    g (openMerge s slot q).prm = g s.prm := by
  unfold openMerge
  split
  · rfl
  · rw [wmUpdate_prm]
    refine (foldl_keeps (fun u : State => g u.prm) _ (fun u x => ?_) _ _).trans (hmerges _ _)
    exact (hlists _ _).trans (congrArg g (dropList_prm u))

theorem openMerge_stm (s : State) (slot : Nat) (q : SampReq) : (openMerge s slot q).stm = s.stm :=
  (openMerge_fp rfl s slot q (Fp.refl 950339 s)).stm rfl

/-- The first pass of a listing binds its slot and awaits its record. -/
def passOpened (s : State) (slot : Nat) (req : SampReq) (b : Bind) : State :=
  openMerge (await (s.onPrm fun x => { x with binds := x.binds.put slot b }) req.cue slot) slot req

theorem passOpened_binds (s : State) (slot : Nat) (req : SampReq) (b : Bind) :
    (passOpened s slot req b).prm.binds.get? slot = some b := by
  rw [passOpened, openMerge_keeps Prm.binds (fun _ _ => rfl) fun _ _ => rfl]
  exact AMap.get?_put_same _ _ _

theorem passOpened_awaits (s : State) (slot : Nat) (req : SampReq) (b : Bind) : (req.cue, slot) ∈ (passOpened s slot req b).stm.awaits := by
  rw [passOpened, openMerge_stm]
  simp only [await, State.onStm_stm]
  split
  · assumption
  · exact List.mem_append_right _ (List.mem_singleton_self _)

/-- The state a pass of a listing computes in. -/
def passState (s : State) (slot pos : Nat) (req : SampReq) (b : Bind) : State :=
  (if pos = req.base.toNat + 1 then passOpened s slot req b else s).onPrm fun x => { x with
    handed := x.handed.filter fun h => h.1 ≠ (slot, pos) }

theorem shardLogits_congr {s t : State} (h : t.prm.handed = s.prm.handed) (slot pos : Nat) (logits : List Word) (poison : Bool) :
    shardLogits t slot pos logits poison = shardLogits s slot pos logits poison := by
  unfold shardLogits
  rw [h]

theorem scriptSteps_congr {s t : State} (h : t.prm.scripts = s.prm.scripts) (b : Bind) (toks : List Nat) :
    scriptSteps t b toks = scriptSteps s b toks := by
  unfold scriptSteps scriptOfBind heldImage
  rw [h]

theorem localPass_sends {slot : Fin 16384} {pos : BitVec 20} {req : SampReq} {logits : List Word} {heads : List (List Word)}
    {poison fail : Bool} {s : State} (hlast : atLast s = true) (hen : isSet s Fld.prmCtlEn = true) (hlit : domLit s 57 = true)
    (hlo : req.base.toNat < pos.toNat) (hhi : pos.toNat ≤ req.base.toNat + req.depth + 1)
    (hfirst : pos.toNat = req.base.toNat + 1 → awaited s req.cue [slot.val] = []) :
    let b := if pos.toNat = req.base.toNat + 1 then bindFor s slot req else (s.prm.binds.get? slot.val).getD (bindFor s slot req)
    let lg := shardLogits s slot pos.toNat logits poison
    ∃ u, exec (.localPass slot pos req logits heads poison fail) s = .next (sendList
        (prmFlags u (if fail then 0 else (localList u b (scriptSteps s b (req.guesses.take (pos.toNat - req.base.toNat - 1))) req.card lg.1).2))
        slot (req.cue % 65536) pos.toNat fail lg.2
        (if fail then [] else (localList u b (scriptSteps s b (req.guesses.take (pos.toNat - req.base.toNat - 1))) req.card lg.1).1)
        (if fail then [] else heads.map (localHead u))) ∧
      (pos.toNat = req.base.toNat + 1 → u.prm.binds.get? slot.val = some b ∧ (req.cue, slot.val) ∈ u.stm.awaits) := by
  intro b lg
  have hpre : (!atLast s || !isSet s Fld.prmCtlEn || decide (pos.toNat ≤ req.base.toNat) ||
      decide (req.base.toNat + req.depth + 1 < pos.toNat) ||
        (pos.toNat = req.base.toNat + 1 && !(awaited s req.cue [slot.val]).isEmpty)) = false := by
    rw [hlast, hen, decide_eq_false (by omega), decide_eq_false (by omega)]
    by_cases h : pos.toNat = req.base.toNat + 1
    · rw [hfirst h]
      simp
    · simp [h]
  have hopened {β : Type} (g : Prm → β) (hl : ∀ (p : Prm) l, g { p with lists := l } = g p) (hm : ∀ (p : Prm) m, g { p with merges := m } = g p)
      (hb : ∀ (p : Prm) x, g { p with binds := x } = g p) :
      g (if pos.toNat = req.base.toNat + 1 then passOpened s slot req b else s).prm = g s.prm := by
    split
    · exact (openMerge_keeps g hl hm _ _ _).trans (hb _ _)
    · rfl
  refine ⟨passState s slot pos.toNat req b, ?_, fun h => ?_⟩
  · change execLocalPass slot pos req logits heads poison fail s = _
    unfold execLocalPass
    dsimp only
    rw [if_neg (by rw [hpre]; decide), if_neg (by rw [hlit]; decide)]
    have hlg := shardLogits_congr (hopened Prm.handed (fun _ _ => rfl) (fun _ _ => rfl) fun _ _ => rfl) slot pos.toNat logits poison
    have hst := scriptSteps_congr (hopened Prm.scripts (fun _ _ => rfl) (fun _ _ => rfl) fun _ _ => rfl) b
      (req.guesses.take (pos.toNat - req.base.toNat - 1))
    unfold passOpened at hlg hst
    cases fail
    · rw [hlg, hst]
      rfl
    · rw [hlg]
      rfl
  · rw [passState, if_pos h]
    exact ⟨passOpened_binds s slot req b, passOpened_awaits s slot req b⟩

/-! Parts of a list. -/

/-- A list that nothing of has come. -/
def CandL.blank (slot cue16 pos rank : Nat) : CandL := ⟨slot, cue16, pos, rank, [], none, false, false, false, [], []⟩

/-- The list that a part belongs to. -/
def CandL.names (slot cue16 pos rank : Nat) (x : CandL) : Bool := x.slot = slot && x.cue16 = cue16 && x.pos = pos && x.rank = rank

/-- A part at the merge rank is due: its listing awaits the record. -/
def listDue (s : State) (slot cue16 : Nat) : Bool :=
  mergeRank s slot = prmRank s && atLast s && s.stm.awaits.any fun a => a.2 = slot && a.1 % 65536 = cue16

/-- The part may not join `x`: an unknown rank, too many entries, or one outside the rank's shard. -/
def partBad (s : State) (slot cue16 rank : Nat) (ents : List (Nat × Nat)) (x : CandL) : Bool :=
  decide (prmRanks s ≤ rank) || decide (mergeK s slot cue16 < x.ents.length + ents.length) || ents.any (fun e => !inShard s rank e.1)

theorem withPart_ne (x : CandL) (part : Nat) (last fail poison : Bool) (ents : List (Nat × Nat)) (heads : List (Option (Nat × Nat))) :
    x ≠ x.withPart part last fail poison ents heads := by
  intro h
  have hlen := congrArg (fun y : CandL => y.got.length) h
  simp only [CandL.withPart, List.length_append, List.length_singleton] at hlen
  omega

theorem keepCand_lists (s : State) (x y : CandL) : (wmUpdate (keepCand s x y) 5).prm.lists =
    s.prm.lists.filter (fun z => z ≠ x) ++ (if y.bad && y.whole then [] else [y]) := by
  rw [wmUpdate_prm]
  rfl

/-- A list replaced by one of more parts. -/
theorem mem_keepCand {s : State} {x y z : CandL} (hz : z ∈ (wmUpdate (keepCand s x y) 5).prm.lists) : z ∈ s.prm.lists ∧ z ≠ x ∨ z = y := by
  rw [keepCand_lists] at hz
  rcases List.mem_append.1 hz with h | h
  · exact .inl ⟨(List.mem_filter.1 h).1, of_decide_eq_true (List.mem_filter.1 h).2⟩
  · split at h
    · exact absurd h List.not_mem_nil
    · exact .inr (List.mem_singleton.1 h)

theorem mem_keepCand_new {s : State} {x y : CandL} (hy : y.bad = false) : y ∈ (wmUpdate (keepCand s x y) 5).prm.lists := by
  rw [keepCand_lists, hy]
  exact List.mem_append_right _ (List.mem_singleton_self _)

theorem get_keepCand (s : State) (x y : CandL) : get (wmUpdate (keepCand s x y) 5) Fld.prmEndsListDrop = get s Fld.prmEndsListDrop :=
  (get_wmUpdate_outside (by decide)).trans rfl

theorem get_dropList (s : State) : get (dropList s) Fld.prmEndsListDrop = get (inc s Fld.prmEndsListDrop 1) Fld.prmEndsListDrop :=
  (get_report _ _ _ _ _ (by decide)).trans rfl

section
variable {s : State} {slot cue16 pos rank part : Nat} {last fail poison : Bool} {ents : List (Nat × Nat)}
  {heads : List (Option (Nat × Nat))}

/-- A part of a list already dropped is dropped with it. -/
theorem arriveList_of_bad {x : CandL}
    (hx : s.prm.lists.find? (fun x => CandL.names slot cue16 pos rank x && x.bad && !decide (part ∈ x.got)) = some x) :
    arriveList s slot cue16 pos rank part last fail poison ents heads =
      wmUpdate (keepCand s x (x.withPart part last fail poison [] [])) 5 := by
  unfold CandL.names at hx
  simp only [arriveList, hx]

/-- Otherwise the part joins the list held, or the blank one, or is dropped. -/
theorem arriveList_of_not_bad (hx : s.prm.lists.find? (fun x => CandL.names slot cue16 pos rank x && x.bad && !decide (part ∈ x.got)) = none) :
    arriveList s slot cue16 pos rank part last fail poison ents heads =
      let b := CandL.blank slot cue16 pos rank
      let x := (s.prm.lists.find? fun x => CandL.names slot cue16 pos rank x && !x.bad).getD b
      if !listDue s slot cue16 || x.whole || decide (part ∈ x.got) then
        wmUpdate (keepCand (dropList s) b ({ b with bad := true }.withPart part last fail poison [] [])) 5
      else if partBad s slot cue16 rank ents x then
        wmUpdate (keepCand (dropList s) x ({ x with bad := true, ents := [], heads := [] }.withPart part last fail poison [] [])) 5
      else wmUpdate (keepCand s x (x.withPart part last fail poison ents heads)) 5 := by
  unfold CandL.names at hx
  simp only [arriveList, hx]
  rfl

theorem names_iff (x : CandL) : CandL.names slot cue16 pos rank x = true ↔
    x.slot = slot ∧ x.cue16 = cue16 ∧ x.pos = pos ∧ x.rank = rank := by
  simp [CandL.names, and_assoc]

/-- The part is dropped: of every list it may come from, only a bad one without entries stands. -/
theorem arriveList_drops (hnone : ∀ x ∈ s.prm.lists, ¬ CandL.names slot cue16 pos rank x = true)
    (hbad : listDue s slot cue16 = false ∨ partBad s slot cue16 rank ents (CandL.blank slot cue16 pos rank) = true) :
    let t := arriveList s slot cue16 pos rank part last fail poison ents heads
    get t Fld.prmEndsListDrop = get (inc s Fld.prmEndsListDrop 1) Fld.prmEndsListDrop ∧
      ∀ x ∈ t.prm.lists, x ∈ s.prm.lists ∨ (x.bad = true ∧ x.ents = []) := by
  have hkeep (y : CandL) (hy : y.bad = true ∧ y.ents = []) (x : CandL) :
      get (wmUpdate (keepCand (dropList s) x y) 5) Fld.prmEndsListDrop = get (inc s Fld.prmEndsListDrop 1) Fld.prmEndsListDrop ∧
        ∀ z ∈ (wmUpdate (keepCand (dropList s) x y) 5).prm.lists, z ∈ s.prm.lists ∨ (z.bad = true ∧ z.ents = []) := by
    refine ⟨(get_keepCand _ _ _).trans (get_dropList s), fun z hz => ?_⟩
    rcases mem_keepCand hz with h | rfl
    · rw [dropList_prm] at h
      exact .inl h.1
    · exact .inr hy
  have hfind (p : CandL → Bool) : s.prm.lists.find? (fun x => CandL.names slot cue16 pos rank x && p x) = none :=
    List.find?_eq_none.2 fun x hx => by simp [hnone x hx]
  have hfirst : s.prm.lists.find? (fun x => CandL.names slot cue16 pos rank x && x.bad && !decide (part ∈ x.got)) = none :=
    List.find?_eq_none.2 fun x hx => by simp [hnone x hx]
  rw [arriveList_of_not_bad hfirst, hfind fun x => !x.bad]
  dsimp only [Option.getD_none]
  split
  · exact hkeep _ ⟨rfl, rfl⟩ _
  · next hdue =>
    have hb := hbad.resolve_left fun h => hdue (by simp [h])
    rw [if_pos hb]
    exact hkeep _ ⟨rfl, rfl⟩ _

/-- The part joins `x`, the list of its name or the blank one. -/
theorem arriveList_joins {x : CandL}
    (hfirst : s.prm.lists.find? (fun x => CandL.names slot cue16 pos rank x && x.bad && !decide (part ∈ x.got)) = none)
    (hx : (s.prm.lists.find? fun x => CandL.names slot cue16 pos rank x && !x.bad).getD (CandL.blank slot cue16 pos rank) = x)
    (hdue : listDue s slot cue16 = true) (hwhole : x.whole = false) (hgot : part ∉ x.got)
    (hok : partBad s slot cue16 rank ents x = false) :
    arriveList s slot cue16 pos rank part last fail poison ents heads =
      wmUpdate (keepCand s x (x.withPart part last fail poison ents heads)) 5 := by
  rw [arriveList_of_not_bad hfirst]
  dsimp only
  rw [hx]
  exact (if_neg (by simp [hdue, hwhole, hgot])).trans (if_neg (by rw [hok]; decide))

end

section
variable {src : Fin 1024} {slot : Fin 16384} {cue16 : BitVec 16} {pos : BitVec 20} {rank part : Nat} {last fail poison : Bool}
  {ents : List (Nat × Word)} {heads : List (Option (Nat × Word))} {s : State}

/-- Entries and heads as the store keeps them. -/
def entNats (ents : List (Nat × Word)) : List (Nat × Nat) := ents.map fun e => (e.1, e.2.toNat)

def headNats (heads : List (Option (Nat × Word))) : List (Option (Nat × Nat)) := heads.map fun h => h.map fun e => (e.1, e.2.toNat)

theorem exec_candList : exec (.candList src slot cue16 pos rank part last fail poison ents heads) s =
    .next (arriveList s slot cue16.toNat pos.toNat rank part last fail poison (entNats ents) (headNats heads)) := rfl

theorem entNats_length : (entNats ents).length = ents.length := List.length_map _

theorem any_entNats (p : Nat → Bool) : (entNats ents).any (fun e => p e.1) = ents.any fun e => p e.1 := List.any_map

section
variable (hrank : mergeRank s slot = prmRank s) (hlast : atLast s = true)
  (haw : ∃ n, (n, slot.val) ∈ s.stm.awaits ∧ n % 65536 = cue16.toNat)
include hrank hlast haw

theorem listDue_of_awaited : listDue s slot cue16.toNat = true := by
  obtain ⟨n, hn, hcue⟩ := haw
  have hany : (s.stm.awaits.any fun a => decide (a.2 = slot.val) && decide (a.1 % 65536 = cue16.toNat)) = true :=
    List.any_eq_true.2 ⟨(n, slot.val), hn, by simp [hcue]⟩
  simp [listDue, hrank, hlast, hany]

end

theorem partBad_of_fits {x : CandL} (hr : rank < prmRanks s) (hshard : ∀ e ∈ ents, inShard s rank e.1 = true)
    (hk : x.ents.length + ents.length ≤ mergeK s slot cue16.toNat) :
    partBad s slot cue16.toNat rank (entNats ents) x = false := by
  have hany : ents.any (fun e => !inShard s rank e.1) = false := List.any_eq_false.2 fun e he => by simp [hshard e he]
  rw [partBad, entNats_length, any_entNats fun e => !inShard s rank e, hany, decide_eq_false (by omega), decide_eq_false (by omega)]
  rfl

theorem candList_opens (hdue : listDue s slot cue16.toNat = true) (hr : rank < prmRanks s)
    (hshard : ∀ e ∈ ents, inShard s rank e.1 = true)
    (hnone : ∀ x ∈ s.prm.lists, ¬ CandL.names slot.val cue16.toNat pos.toNat rank x = true)
    (hk : ents.length ≤ mergeK s slot cue16.toNat) :
    ∃ t, exec (.candList src slot cue16 pos rank part last fail poison ents heads) s = .next t ∧
      (⟨slot.val, cue16.toNat, pos.toNat, rank, [part], if last then some part else none, false, poison, fail, entNats ents,
        headNats heads⟩ : CandL) ∈ t.prm.lists := by
  have hfind (p : CandL → Bool) : s.prm.lists.find? (fun x => CandL.names slot.val cue16.toNat pos.toNat rank x && p x) = none :=
    List.find?_eq_none.2 fun x hx => by simp [hnone x hx]
  have hfirst : s.prm.lists.find? (fun x => CandL.names slot.val cue16.toNat pos.toNat rank x && x.bad && !decide (part ∈ x.got)) = none :=
    List.find?_eq_none.2 fun x hx => by simp [hnone x hx]
  have hpart : (CandL.blank slot.val cue16.toNat pos.toNat rank).withPart part last fail poison (entNats ents) (headNats heads) =
      ⟨slot.val, cue16.toNat, pos.toNat, rank, [part], if last then some part else none, false, poison, fail, entNats ents,
        headNats heads⟩ := by
    cases h : headNats heads <;> simp [CandL.withPart, CandL.blank]
  refine ⟨_, exec_candList, ?_⟩
  rw [arriveList_joins (x := CandL.blank slot.val cue16.toNat pos.toNat rank) hfirst
    (by rw [hfind fun x => !x.bad, Option.getD_none]) hdue rfl List.not_mem_nil (partBad_of_fits hr hshard (by simpa [CandL.blank])),
    hpart]
  exact mem_keepCand_new rfl

theorem candList_adds (hdue : listDue s slot cue16.toNat = true) (hr : rank < prmRanks s)
    (hshard : ∀ e ∈ ents, inShard s rank e.1 = true) {x : CandL} (hx : x ∈ s.prm.lists)
    (hname : CandL.names slot.val cue16.toNat pos.toNat rank x = true)
    (huniq : ∀ y ∈ s.prm.lists, CandL.names slot.val cue16.toNat pos.toNat rank y = true → y = x) (hgood : x.bad = false)
    (hwhole : x.whole = false) (hgot : part ∉ x.got) (hk : x.ents.length + ents.length ≤ mergeK s slot cue16.toNat) :
    ∃ t, exec (.candList src slot cue16 pos rank part last fail poison ents heads) s = .next t ∧
      x.withPart part last fail poison (entNats ents) (headNats heads) ∈ t.prm.lists ∧ x ∉ t.prm.lists := by
  have hfirst : s.prm.lists.find? (fun x => CandL.names slot.val cue16.toNat pos.toNat rank x && x.bad && !decide (part ∈ x.got)) = none := by
    refine List.find?_eq_none.2 fun y hy => ?_
    cases hn : CandL.names slot.val cue16.toNat pos.toNat rank y with
    | false => simp
    | true => simp [huniq y hy hn, hgood]
  have hfind : s.prm.lists.find? (fun x => CandL.names slot.val cue16.toNat pos.toNat rank x && !x.bad) = some x := by
    cases hf : s.prm.lists.find? (fun x => CandL.names slot.val cue16.toNat pos.toNat rank x && !x.bad) with
    | none => exact absurd (List.find?_eq_none.1 hf x hx) (by simp [hname, hgood])
    | some y =>
      have hy := List.find?_some hf
      rw [huniq y (List.mem_of_find?_eq_some hf) (Bool.and_eq_true_iff.1 hy).1]
  refine ⟨_, exec_candList, ?_⟩
  rw [arriveList_joins hfirst (by rw [hfind]; rfl) hdue hwhole hgot (partBad_of_fits hr hshard hk)]
  refine ⟨mem_keepCand_new hgood, fun h => ?_⟩
  rcases mem_keepCand h with h | h
  · exact h.2 rfl
  · exact withPart_ne _ _ _ _ _ _ _ h

theorem candList_drops (hbad : mergeRank s slot ≠ prmRank s ∨ (∀ n, (n, slot.val) ∈ s.stm.awaits → n % 65536 ≠ cue16.toNat) ∨
      prmRanks s ≤ rank ∨ (∃ e ∈ ents, inShard s rank e.1 = false) ∨ mergeK s slot cue16.toNat < ents.length)
    (hnone : ∀ x ∈ s.prm.lists, ¬ CandL.names slot.val cue16.toNat pos.toNat rank x = true) :
    ∃ t, exec (.candList src slot cue16 pos rank part last fail poison ents heads) s = .next t ∧
      get t Fld.prmEndsListDrop = get (inc s Fld.prmEndsListDrop 1) Fld.prmEndsListDrop ∧
      ∀ x ∈ t.prm.lists, x ∈ s.prm.lists ∨ (x.bad = true ∧ x.ents = []) := by
  refine ⟨_, exec_candList, arriveList_drops hnone ?_⟩
  rcases hbad with h | h | h | ⟨e, he, h⟩ | h
  · exact .inl (by simp [listDue, h])
  · have hany : (s.stm.awaits.any fun a => decide (a.2 = slot.val) && decide (a.1 % 65536 = cue16.toNat)) = false := by
      refine List.any_eq_false.2 fun a ha h' => ?_
      obtain ⟨hs, hc⟩ := Bool.and_eq_true_iff.1 h'
      exact h a.1 (by rw [← of_decide_eq_true hs]; exact ha) (of_decide_eq_true hc)
    exact .inl (by simp [listDue, hany])
  · exact .inr (by simp [partBad, h])
  · have hany : ents.any (fun e => !inShard s rank e.1) = true := List.any_eq_true.2 ⟨e, he, by simp [h]⟩
    exact .inr (by rw [partBad, any_entNats fun e => !inShard s rank e, hany, Bool.or_true])
  · exact .inr (by simp [partBad, entNats_length, CandL.blank, h])

theorem candList_of_dropped {x : CandL} (hx : s.prm.lists.find? (fun x => CandL.names slot.val cue16.toNat pos.toNat rank x && x.bad &&
      !decide (part ∈ x.got)) = some x) :
    ∃ t, exec (.candList src slot cue16 pos rank part last fail poison ents heads) s = .next t ∧
      get t Fld.prmEndsListDrop = get s Fld.prmEndsListDrop ∧ x ∉ t.prm.lists ∧ ∀ y ∈ t.prm.lists, y ∈ s.prm.lists ∨ y.bad = true := by
  have hbad : x.bad = true := by
    have h := List.find?_some hx
    simp only [Bool.and_eq_true] at h
    exact h.1.2
  refine ⟨_, exec_candList, ?_⟩
  rw [arriveList_of_bad hx]
  refine ⟨get_keepCand _ _ _, fun h => ?_, fun y hy => ?_⟩
  · rcases mem_keepCand h with h | h
    · exact h.2 rfl
    · exact withPart_ne _ _ _ _ _ _ _ h
  · rcases mem_keepCand hy with h | rfl
    · exact .inl h.1
    · exact .inr hbad

end

/-! Step records. -/

/-- The slot's Script state, matcher and guesses after a record that emitted `toks`. -/
def stepKept (s : State) (r : StepRec) (toks : List Nat) : State :=
  s.onPrm fun p => { p with
    binds := match p.binds.get? (stepSlot r) with
      | some b => p.binds.put (stepSlot r) { b with state := scriptSteps s b toks, matcher := keepLast 7 (b.matcher ++ toks) }
      | none => p.binds
    guesses := p.guesses.setD (stepSlot r) [] (stepGuesses r) }

section
variable {src : Fin 1024} {r : StepRec} {s : State} (hsrc : src.val ∈ memberDevs s) (hlead : isLead s = false)
include hsrc hlead

theorem step_taken {a : Nat × Nat} (hres : stepReserved r = false) (ha : a ∈ s.stm.awaits) (hslot : a.2 = stepSlot r)
    (hcue : a.1 % 65536 = stepCue r) (huniq : ∀ b ∈ s.stm.awaits, b.2 = stepSlot r → b.1 % 65536 = stepCue r → b = a) :
    let toks := (s.prm.guesses.getD (stepSlot r) []).take (stepAccepted r) ++ (if stepToken r = 0xFFFFFF then [] else [stepToken r])
    ∃ u, exec (.step src r) s = .next (stepArrived u ⟨a.1, stepSlot r, stepPos r, toks.getLastD (stepToken r),
        stepStop r ≠ 0 || stepStatus r ≠ 0, stepPoison r, stepFail r⟩) ∧
      u.prm.guesses.getD (stepSlot r) [] = stepGuesses r ∧ u.stm = s.stm ∧
      ∀ b, s.prm.binds.get? (stepSlot r) = some b → u.prm.binds.get? (stepSlot r) =
        some { b with state := scriptSteps s b toks, matcher := keepLast 7 (b.matcher ++ toks) } := by
  intro toks
  have hmine : s.stm.awaits.find? (fun a => decide (a.2 = stepSlot r) && decide (a.1 % 65536 = stepCue r)) = some a := by
    cases hf : s.stm.awaits.find? (fun a => decide (a.2 = stepSlot r) && decide (a.1 % 65536 = stepCue r)) with
    | none => exact absurd (List.find?_eq_none.1 hf a ha) (by simp [hslot, hcue])
    | some b =>
      have hb := List.find?_some hf
      obtain ⟨hb₁, hb₂⟩ := Bool.and_eq_true_iff.1 hb
      rw [huniq b (List.mem_of_find?_eq_some hf) (of_decide_eq_true hb₁) (of_decide_eq_true hb₂)]
  refine ⟨stepKept s r toks, ?_, AMap.getD_setD_same _ _ _ _, rfl, fun b hb => ?_⟩
  · refine congrArg Host.Outcome.next ((if_pos hsrc).trans ?_)
    simp only [takeStep, hmine, hlead]
    exact if_neg (by simp [hres])
  · simp only [stepKept, State.onPrm_prm, hb]
    exact AMap.get?_put_same _ _ _

theorem step_unawaited (hnone : ∀ a ∈ s.stm.awaits, a.2 = stepSlot r → a.1 % 65536 ≠ stepCue r) :
    ∃ t, exec (.step src r) s = .next t ∧ t.prm = s.prm ∧ t.stm = s.stm ∧ t.mdw = s.mdw := by
  have hmine : s.stm.awaits.find? (fun a => decide (a.2 = stepSlot r) && decide (a.1 % 65536 = stepCue r)) = none :=
    List.find?_eq_none.2 fun a ha => by
      simp only [Bool.and_eq_true, decide_eq_true_eq]
      exact fun h => hnone a ha h.1 h.2
  have hrep := report_fp rfl (advance s) 0x0502 0xFFFF (fresh s % 2 ^ 32) (Fp.refl 950275 _)
  refine ⟨report (advance s) 0x0502 0xFFFF (fresh s % 2 ^ 32), ?_, hrep.prm rfl, hrep.stm rfl, hrep.mdw rfl⟩
  refine congrArg Host.Outcome.next ((if_pos hsrc).trans ?_)
  simp only [takeStep, hmine, hlead]
  exact if_pos (by simp)

end

/-- Settles O28: the part's name and its listing decide where it goes, and a record acts where its listing awaits it. -/
theorem listsAndRecords : Obligations.ListsAndRecords := by
  refine ⟨fun _ _ _ _ _ _ _ _ => localPass_sends, fun _ slot cue16 pos rank _ _ _ _ _ _ s hrank hlast haw hr hshard => ?_,
    fun _ _ _ _ _ _ _ _ _ _ _ _ hbad hnone => candList_drops hbad fun x hx h => hnone x hx (names_iff x |>.1 h),
    fun _ _ _ _ _ _ _ _ _ _ _ _ _ => candList_of_dropped,
    fun _ _ _ _ hsrc hres hlead => step_taken hsrc hlead hres, fun _ _ _ => step_unawaited⟩
  have hdue := listDue_of_awaited hrank hlast haw
  intro here es hs
  have hiff (x : CandL) : here x ↔ CandL.names slot.val cue16.toNat pos.toNat rank x = true := (names_iff x).symm
  simp only [hiff]
  exact ⟨candList_opens hdue hr hshard, fun x hx hn hu hb hw hg hk => candList_adds hdue hr hshard hx hn hu hb hw hg hk⟩

end Sys2Proof.Machine
end

section
/-!
OBLIGATION O29. A merge pass: what it waits for, the uniform it draws, and that a token it selects is one of its candidates.
-/
namespace Sys2Proof.Machine

/-! Selection. -/

theorem softmaxRow_length (exact : Bool) (xs : List Nat) : (softmaxRow exact xs).1.length = xs.length := by
  unfold softmaxRow mapRes
  dsimp only
  split
  · exact List.length_map _
  split
  · exact List.length_map _
  split
  · exact List.length_map _
  · simp only [List.length_map]

theorem cumSums_length (qs : List Nat) : (cumSums qs).length = qs.length := by
  have hfold (a : List Nat × Nat) : (qs.foldl (fun (a : List Nat × Nat) q => (a.1 ++ [a.2 + q], a.2 + q)) a).1.length =
      a.1.length + qs.length := by
    induction qs generalizing a with
    | nil => rfl
    | cons q qs ih =>
      rw [List.foldl_cons, ih, List.length_append, List.length_singleton, List.length_cons]
      omega
  exact (hfold ([], 0)).trans (Nat.zero_add _)

/-- The index drawn is one of a candidate. -/
theorem cutAndDraw_lt {qs : List Nat} (hqs : 0 < qs.length) (cut u : Nat) : (cutAndDraw qs cut u).1 < qs.length := by
  unfold cutAndDraw
  dsimp only
  generalize (if cut = 0 then qs.length else _) = kept
  generalize u * (cumSums qs).getD (kept - 1) 0 / 2 ^ 32 = x
  cases h : findIdx (fun c => decide (x < c)) ((cumSums qs).take kept) with
  | none => exact hqs
  | some i =>
    have hi := (List.findIdx?_eq_some_iff_getElem.1 h).1
    rw [List.length_take, cumSums_length] at hi
    exact lt_of_lt_of_le hi (Nat.min_le_right _ _)

theorem pick_mem (exact : Bool) (c : Card) (u : Nat) (x : Nat × Nat) (r : List (Nat × Nat)) :
    ∃ y ∈ x :: r, (pick exact c u (x :: r)).tok = some y.1 ∧ (isGreedy c = true → y = x) := by
  obtain ⟨t, v⟩ := x
  unfold pick
  dsimp only
  split
  · exact ⟨(t, v), List.mem_cons_self, rfl, fun _ => rfl⟩
  split
  · exact ⟨(t, v), List.mem_cons_self, rfl, fun _ => rfl⟩
  · next hg =>
    have hlen : (((softmaxRow exact (((t, v) :: r).map Prod.snd)).1).map q032).length = ((t, v) :: r).length := by
      rw [List.length_map, softmaxRow_length, List.length_map]
    have hi := cutAndDraw_lt (qs := ((softmaxRow exact (((t, v) :: r).map Prod.snd)).1).map q032)
      (by rw [hlen]; exact Nat.succ_pos _) (cardTopP c) u
    rw [hlen] at hi
    refine ⟨((t, v) :: r).getD (cutAndDraw (((softmaxRow exact (((t, v) :: r).map Prod.snd)).1).map q032) (cardTopP c) u).1 (0, 0),
      ?_, rfl, fun h => absurd h hg⟩
    rw [List.getD_eq_getElem _ _ hi]
    exact List.getElem_mem _

/-! The pass. -/

section
variable {slot : Fin 16384} {pos : BitVec 20} {m : Merge} {s : State}
  (hm : s.prm.merges.find? (fun m => m.slot = slot.val && m.next = pos.toNat) = some m)
include hm

/-- A merge pass once its merge is known. -/
theorem exec_mergePass : exec (.mergePass slot pos) s = .next
    (if !isSet s Fld.prmCtlEn || decide ((mergeLists s m).length ≠ prmRanks s) then s
      else if !domLit s 58 then demandDom s 58
      else
        let d := if mergeDraws m (mergeCands m (mergeLists s m)) then uOf s m.slot m.next else (0, false, s)
        runMerge d.2.2 m ((s.prm.binds.get? m.slot).getD (bindFor s m.slot m.req)) (mergeLists s m) d.1
          ((mergeLists s m).any (·.poison) || d.2.1) ((mergeLists s m).any (·.fail))) := by
  change execMergePass slot pos s = _
  simp only [execMergePass, hm]

theorem mergePass_waits (hlen : (mergeLists s m).length ≠ prmRanks s) : exec (.mergePass slot pos) s = .next s :=
  (exec_mergePass hm).trans (congrArg _ (if_pos (by simp [hlen])))

variable (hlen : (mergeLists s m).length = prmRanks s) (hen : isSet s Fld.prmCtlEn = true)
include hlen hen

theorem mergePass_demands (hdark : domLit s 58 = false) : exec (.mergePass slot pos) s = .next (demandDom s 58) :=
  (exec_mergePass hm).trans (congrArg _ ((if_neg (by simp [hlen, hen])).trans (if_pos (by rw [hdark]; rfl))))

variable (hlit : domLit s 58 = true) {b : Bind} (hb : s.prm.binds.get? slot.val = some b)
include hlit hb

theorem exec_mergePass_runs : exec (.mergePass slot pos) s = .next
    (let d := if mergeDraws m (mergeCands m (mergeLists s m)) then uOf s slot pos.toNat else (0, false, s);
      runMerge d.2.2 m b (mergeLists s m) d.1 ((mergeLists s m).any (·.poison) || d.2.1) ((mergeLists s m).any (·.fail))) := by
  have hname := List.find?_some hm
  simp only [Bool.and_eq_true, decide_eq_true_eq] at hname
  obtain ⟨hslot, hpos⟩ := hname
  rw [exec_mergePass hm, hslot, hpos, hb]
  exact congrArg Host.Outcome.next ((if_neg (by simp [hlen, hen])).trans (if_neg (by rw [hlit]; decide)))

theorem mergePass_greedy (hg : isGreedy m.req.card = true) : exec (.mergePass slot pos) s = .next (runMerge s m b (mergeLists s m) 0
    ((mergeLists s m).any (·.poison)) ((mergeLists s m).any (·.fail))) := by
  have hdraw : mergeDraws m (mergeCands m (mergeLists s m)) = false := by
    unfold mergeDraws
    split
    · rw [hg, Bool.not_true, Bool.and_false]
    · rfl
  rw [exec_mergePass_runs hm hlen hen hlit hb, hdraw]
  simp

theorem mergePass_draws {ctx : GCtx} {poison : Bool} {x : Nat × Nat} {r : List (Nat × Nat)} (hg : isGreedy m.req.card = false)
    (hc : mergeCands m (mergeLists s m) = x :: r) (hx : x.2 ≠ pInf) (hctx : s.grs.ctx.get? slot.val = some (ctx, poison)) :
    exec (.mergePass slot pos) s = .next (runMerge s m b (mergeLists s m) (gorseU ctx pos.toNat)
        ((mergeLists s m).any (·.poison) || poison) ((mergeLists s m).any (·.fail))) := by
  have hdraw : mergeDraws m (mergeCands m (mergeLists s m)) = true := by
    rw [hc]
    simp [mergeDraws, hx, hg]
  have hu : uOf s slot pos.toNat = (gorseU ctx pos.toNat, poison, s) := by simp only [uOf, hctx]
  rw [exec_mergePass_runs hm hlen hen hlit hb, hdraw, hu]
  rfl

end

theorem runMerge_absent {s : State} {m : Merge} {b : Bind} (h : b.absent = true) (ls : List CandL) (u : Nat) (poison fail : Bool) :
    runMerge s m b ls u poison fail = mergeAbsent (inc s Fld.prmMergedV 1) m := if_pos h

theorem runMerge_marked {s : State} {m : Merge} {b : Bind} (h : b.absent = false) (ls : List CandL) (u : Nat) {poison fail : Bool}
    (hmark : poison = true ∨ fail = true) : runMerge s m b ls u poison fail = mergeMarked (inc s Fld.prmMergedV 1) m poison fail :=
  (if_neg (by rw [h]; decide)).trans (if_pos (Bool.or_eq_true_iff.2 hmark))

theorem runMerge_picks {s : State} {m : Merge} {b : Bind} (h : b.absent = false) (ls : List CandL) (u : Nat) {poison fail : Bool}
    (hp : poison = false) (hf : fail = false) : runMerge s m b ls u poison fail = mergePicked (inc s Fld.prmMergedV 1) m b ls u :=
  (if_neg (by rw [h]; decide)).trans (if_neg (by rw [hp, hf]; decide))

/-- Settles O29: the lists, the domain and the binding decide what a pass does, and the index it draws is one of a candidate. -/
theorem mergePassSelects : Obligations.MergePassSelects :=
  ⟨fun _ _ _ _ hm => ⟨mergePass_waits hm, mergePass_demands hm⟩,
    fun _ _ _ _ _ hm hen hlit hlen hb => ⟨mergePass_greedy hm hlen hen hlit hb, fun _ _ _ _ => mergePass_draws hm hlen hen hlit hb⟩,
    fun _ _ _ ls u poison fail => ⟨fun h => runMerge_absent h ls u poison fail, fun h => runMerge_marked h ls u, fun h => runMerge_picks h ls u⟩,
    pick_mem, fun _ _ _ => rfl⟩

end Sys2Proof.Machine
end

section
/-!
OBLIGATION O30. Costumes: what a load parses and how it ends, a revocation, and a version's residency.
-/
namespace Sys2Proof.Machine

/-! A load begins. -/

/-- A Costume load of what its image parses to, before its slices go out. -/
def costumeBegun (t : State) (x : Option Ver) : State :=
  let t := set t Fld.wdrLoadStatusResult 1
  let t := match x with | some x => set t Fld.wdrLoadStatusVersion x.ver | none => t
  (demandDom t 59).onWdr fun w => { w with load := x, copies := none }

theorem get_demandDom (u : State) (d : Nat) {f : Fld} (hp : f.key ≠ (Fld.lgtDomStatusPhase d).key)
    (hon : f.key ≠ (Fld.lgtDomStatusPendingOn d).key) (hoff : f.key ≠ (Fld.lgtDomStatusPendingOff d).key) :
    get (demandDom u d) f = get u f :=
  get_ite (get_set_other _ _ _ _ hon) (get_ite ((get_set_other _ _ _ _ hoff).trans (get_set_other _ _ _ _ hp)) rfl)

theorem get_costumeBegun (t : State) (x : Option Ver) : get (costumeBegun t x) Fld.wdrLoadStatusResult = 1 := by
  have hres : get (set t Fld.wdrLoadStatusResult 1) Fld.wdrLoadStatusResult = 1 := get_set_of_lt _ Fld.wdrLoadStatusResult 1 (by decide)
  unfold costumeBegun
  dsimp only
  rw [get_onWdr, get_demandDom _ _ (by decide) (by decide) (by decide)]
  cases x with
  | none => exact hres
  | some x => exact (get_set_other _ _ _ _ (by decide)).trans hres

theorem sendVer_wdr (s : State) (v : Ver) : (sendVer s v).wdr = s.wdr := (sendVer_fp rfl s v (Fp.refl 1049601 s)).wdr rfl

theorem get_sendLoad (s : State) (v : Ver) (f : Fld) (h : f.blk ≠ 0xF) : get (sendLoad s v) f = get s f :=
  (get_foldl f _ (fun u d => get_sendTransfer u d _ _ f h) _ _).trans rfl

theorem sendLoad_wdr (s : State) (v : Ver) : (sendLoad s v).wdr = { s.wdr with copies := some (otherMembers s) } :=
  congrArg (fun w : Wdr => { w with copies := some (otherMembers s) }) (sendVer_wdr s v)

/-- With room for it the slices of a load go out. -/
def costumeLoaded (u : State) (x : Option Ver) : State :=
  let t := costumeBegun u x
  match x with
  | some x => if idFree t x && verRoom t x then sendLoad t x else t
  | none => t

theorem costumeLoaded_load (u : State) (x : Option Ver) :
    get (costumeLoaded u x) Fld.wdrLoadStatusResult = 1 ∧ (costumeLoaded u x).wdr.load = x := by
  cases x with
  | none => exact ⟨get_costumeBegun u none, rfl⟩
  | some x =>
    have h : costumeLoaded u (some x) = if idFree (costumeBegun u (some x)) x && verRoom (costumeBegun u (some x)) x then
        sendLoad (costumeBegun u (some x)) x else costumeBegun u (some x) := rfl
    rw [h]
    split
    · rw [sendLoad_wdr]
      exact ⟨(get_sendLoad _ _ _ (by decide)).trans (get_costumeBegun u (some x)), rfl⟩
    · exact ⟨get_costumeBegun u (some x), rfl⟩

theorem costumeLoad_parses {v : Word} {img : List Byte} {s : State} (hr : reaches s 0 Fld.wdrLoadCtlLoad.off = true)
    (hv : bit v 0 = true) (hidle : wdrIdle s = true) :
    ∃ t, exec (.costumeLoad v img) s = .next t ∧ get t Fld.wdrLoadStatusResult = 1 ∧
      t.wdr.load = parseCostume (commandWord s 0 Fld.wdrLoadCtlLoad.off v) img := by
  refine ⟨costumeLoaded (commandWord s 0 Fld.wdrLoadCtlLoad.off v) (parseCostume (commandWord s 0 Fld.wdrLoadCtlLoad.off v) img),
    congrArg Host.Outcome.next (if_pos (by rw [hr, hv, hidle]; rfl)), costumeLoaded_load _ _⟩

/-! A load ends. -/

theorem noteWdr_wdr (s : State) : (noteWdr s).wdr = s.wdr := (noteWdr_fp rfl s (Fp.refl 1 s)).wdr rfl

theorem putPages_wdr (s : State) (addr : Nat → Nat) (ks : List Nat) (bs : List Byte) : (putPages s addr ks bs).wdr = s.wdr :=
  (putPages_fp rfl s addr ks bs (Fp.refl 4194816 s)).wdr rfl

theorem holdVer_vers (s : State) (v : Ver) : ∃ ks, (holdVer s v).wdr.vers = s.wdr.vers ++ [{ v with pool := ks }] := by
  unfold holdVer
  rw [noteWdr_wdr, State.onWdr_wdr, putPages_wdr]
  exact ⟨_, rfl⟩

theorem installVer_installs (s : State) (v : Ver) : ∃ ks, get (installVer s v) Fld.wdrLoadStatusResult = 2 ∧
    (installVer s v).wdr.vers = s.wdr.vers ++ [{ v with pool := ks }] ∧ (installVer s v).wdr.load = none := by
  obtain ⟨ks, hks⟩ := holdVer_vers s v
  exact ⟨ks, get_set_of_lt _ Fld.wdrLoadStatusResult 2 (by decide), hks, rfl⟩

theorem installLoad_held {s : State} (h : otherMembers s = [] ∨ s.wdr.copies = some []) (v : Ver) : installLoad s v = installVer s v := by
  refine if_pos ?_
  unfold slicesHeld
  rcases h with h | h <;> simp [h]

theorem installLoad_waits {s : State} (hne : otherMembers s ≠ []) {d : Nat} {ds : List Nat} (hc : s.wdr.copies = some (d :: ds))
    (v : Ver) : installLoad s v = s :=
  (if_neg (by simp [slicesHeld, hne, hc])).trans (if_neg (by simp [hc]))

theorem installLoad_sends {s : State} (hne : otherMembers s ≠ []) (hc : s.wdr.copies = none) (v : Ver) :
    installLoad s v = sendLoad s v :=
  (if_neg (by simp [slicesHeld, hne, hc])).trans (if_pos (by simp [hc]))

section
variable {s : State} (hbusy : get s Fld.wdrLoadStatusResult = 1)
include hbusy

theorem costumeLoadDone_demands (hdark : domLit s 59 = false) : exec .costumeLoadDone s = .next (demandDom s 59) :=
  congrArg Host.Outcome.next ((if_neg (by omega)).trans (if_pos (by rw [hdark]; rfl)))

variable (hlit : domLit s 59 = true)
include hlit

theorem costumeLoadDone_bad (hnone : s.wdr.load = none) :
    ∃ t, exec .costumeLoadDone s = .next t ∧ get t Fld.wdrLoadStatusResult = 3 ∧ t.wdr = s.wdr := by
  refine ⟨set s Fld.wdrLoadStatusResult 3, ?_, get_set_of_lt _ Fld.wdrLoadStatusResult 3 (by decide), rfl⟩
  change execCostumeLoadDone s = _
  simp only [execCostumeLoadDone, hnone]
  exact congrArg Host.Outcome.next ((if_neg (by omega)).trans (if_neg (by rw [hlit]; decide)))

/-- The Notice of a load that waits for room. -/
def pendingNotice (s : State) (v : Ver) : State :=
  let s := set s Fld.wdrLoadStatusResult 7
  deviceNotice s (mkNotice 0xFFFFFFFF 0 6 stPending 0 (v.id + place 16 12 v.tenant + place 32 8 v.ver) noPos 0 0 (cueNum s))

variable {v : Ver} (hload : s.wdr.load = some v)
include hload

theorem exec_costumeLoadDone : exec .costumeLoadDone s = .next
    (if !idFree s v then (set s Fld.wdrLoadStatusResult 4).onWdr fun w => { w with load := none, copies := none }
      else if verRoom s v then installLoad s v else pendingNotice s v) := by
  change execCostumeLoadDone s = _
  simp only [execCostumeLoadDone, hload]
  exact congrArg Host.Outcome.next ((if_neg (by omega)).trans (if_neg (by rw [hlit]; decide)))

theorem costumeLoadDone_idInUse (hused : ∃ x ∈ s.wdr.vers, x.id = v.id ∧ x.tenant ≠ v.tenant) :
    ∃ t, exec .costumeLoadDone s = .next t ∧ get t Fld.wdrLoadStatusResult = 4 ∧ t.wdr.vers = s.wdr.vers ∧ t.wdr.load = none := by
  obtain ⟨x, hx, hid, hten⟩ := hused
  have hfree : idFree s v = false := by
    have hany : s.wdr.vers.any (fun x => decide (x.id = v.id) && decide (x.tenant ≠ v.tenant)) = true :=
      List.any_eq_true.2 ⟨x, hx, by simp [hid, hten]⟩
    rw [idFree, hany]
    rfl
  exact ⟨_, (exec_costumeLoadDone hbusy hlit hload).trans (congrArg _ (if_pos (by rw [hfree]; rfl))),
    get_set_of_lt _ Fld.wdrLoadStatusResult 4 (by decide), rfl, rfl⟩

variable (hid : ∀ x ∈ s.wdr.vers, x.id = v.id → x.tenant = v.tenant)
include hid

omit hbusy hlit hload in
theorem idFree_of_forall : idFree s v = true := by
  have hany : s.wdr.vers.any (fun x => decide (x.id = v.id) && decide (x.tenant ≠ v.tenant)) = false := by
    refine List.any_eq_false.2 fun x hx h => ?_
    obtain ⟨h₁, h₂⟩ := Bool.and_eq_true_iff.1 h
    exact of_decide_eq_true h₂ (hid x hx (of_decide_eq_true h₁))
  rw [idFree, hany]
  rfl

theorem exec_costumeLoadDone_room (hroom : verRoom s v = true) : exec .costumeLoadDone s = .next (installLoad s v) :=
  (exec_costumeLoadDone hbusy hlit hload).trans
    (congrArg _ ((if_neg (by rw [idFree_of_forall hid]; decide)).trans (if_pos hroom)))

theorem costumeLoadDone_pends (hfull : verRoom s v = false) :
    ∃ t, exec .costumeLoadDone s = .next t ∧ get t Fld.wdrLoadStatusResult = 7 ∧ t.wdr = s.wdr := by
  refine ⟨pendingNotice s v, (exec_costumeLoadDone hbusy hlit hload).trans
    (congrArg _ ((if_neg (by rw [idFree_of_forall hid]; decide)).trans (if_neg (by rw [hfull]; decide)))), ?_, ?_⟩
  · exact (get_deviceNotice _ _ _ (by decide)).trans (get_set_of_lt _ Fld.wdrLoadStatusResult 7 (by decide))
  · exact (deviceNotice_fp rfl (set s Fld.wdrLoadStatusResult 7) _ (Fp.refl 3 _)).wdr rfl

theorem costumeLoadDone_installs (hroom : verRoom s v = true) (hheld : otherMembers s = [] ∨ s.wdr.copies = some []) :
    ∃ ks t, exec .costumeLoadDone s = .next t ∧ get t Fld.wdrLoadStatusResult = 2 ∧
        t.wdr.vers = s.wdr.vers ++ [{ v with pool := ks }] ∧ t.wdr.load = none := by
  obtain ⟨ks, h⟩ := installVer_installs s v
  exact ⟨ks, installVer s v, (exec_costumeLoadDone_room hbusy hlit hload hid hroom).trans (congrArg _ (installLoad_held hheld v)), h⟩

end

theorem exec_pendingLoadResume {v : Ver} {s : State} (hp : get s Fld.wdrLoadStatusResult = 7) (hload : s.wdr.load = some v)
    (hroom : verRoom s v = true) (hlit : domLit s 59 = true) : exec .pendingLoadResume s = .next (installLoad s v) := by
  change execPendingLoadResume s = _
  simp only [execPendingLoadResume, hload]
  exact congrArg Host.Outcome.next ((if_pos ⟨hp, hroom⟩).trans (if_pos hlit))

/-! A revocation. -/

theorem exec_revoke {v : Word} {s : State} (hr : reaches s 0 Fld.wdrLoadCtlRevoke.off = true) (hv : bit v 1 = true)
    (hidle : wdrIdle s = true) : let u := commandWord s 0 Fld.wdrLoadCtlRevoke.off v
    exec (.revoke v) s = .next
      (if (versOf u (get u Fld.wdrLoadCtlTenant) (get u Fld.wdrLoadCtlId)).isEmpty then set u Fld.wdrLoadStatusResult 5
        else (set u Fld.wdrLoadStatusResult 2).onWdr fun w => { w with
          revokes := w.revokes ++ [(get u Fld.wdrLoadCtlTenant, get u Fld.wdrLoadCtlId, isSet u Fld.wdrLoadCtlRevokeAll)] }) :=
  congrArg Host.Outcome.next (if_pos (by rw [hr, hv, hidle]; rfl))

/-! Residency. -/

/-- With pages and a place free nothing is evicted. -/
theorem makePages_free {s : State} {need : Nat} (hpages : usedPages s + need ≤ costumePages s)
    (hplace : (s.wdr.vers.filter (·.resident)).length < 512) (fuel : Nat) : makePages need fuel s = s := by
  cases fuel with
  | zero => rfl
  | succ fuel => exact if_pos ⟨hpages, hplace⟩

theorem copyRun_wdr (s : State) (src dst n : Nat) : (copyRun s src dst n).wdr = s.wdr :=
  (copyRun_fp rfl s src dst n (Fp.refl 4194816 s)).wdr rfl

theorem copyPages_wdr (n : Nat) (l : List (Nat × Nat)) (s : State) :
    (l.foldl (fun s k => copyRun s (poolPageAddr s k.1) (costumePageAddr s k.2) n) s).wdr = s.wdr := by
  refine foldl_keeps State.wdr _ ?_ l s
  exact fun u k => copyRun_wdr u _ _ _

theorem dress_vers (s : State) (v : Ver) : (dress s v).wdr.vers = mapIf (sameVer v) (fun x => { x with
    resident := true, copying := false
    loft := lowPages (costumePages s) v.pages ((s.wdr.vers.filter (·.resident)).map (·.loft)).flatten }) s.wdr.vers := by
  unfold dress
  rw [State.onWdr_wdr, copyPages_wdr]

theorem leadDev_noteWdr_dress {s : State} {v : Ver} (h : leadDev s ≠ some (selfDev s)) :
    leadDev (noteWdr (dress s v)) ≠ some (selfDev (noteWdr (dress s v))) := by
  have hd := dress_fp rfl s v (Fp.refl 4195072 s)
  have hn := noteWdr_fp rfl (dress s v) (Fp.refl 1 _)
  have hspl : (noteWdr (dress s v)).spl = s.spl := (hn.spl rfl).trans (hd.spl rfl)
  have hself : selfDev (noteWdr (dress s v)) = selfDev s :=
    (get_set_other _ _ _ _ (by decide)).trans ((get_set_other _ _ _ _ (by decide)).trans
      ((get_set_other _ _ _ _ (by decide)).trans (get_congr (hd.regs rfl) _)))
  have hlead : leadDev (noteWdr (dress s v)) = leadDev s := by
    unfold leadDev ownCompany
    rw [hspl]
  rwa [hself, hlead]

/-- What a member tells its lead leaves its own Wardrobe. -/
theorem toLead_member_wdr {s : State} (h : leadDev s ≠ some (selfDev s)) (code slot value : Nat) (loc : State → State) :
    (toLead s code slot value loc).wdr = s.wdr := by
  unfold toLead
  cases hl : leadDev s with
  | none => rfl
  | some l =>
    dsimp only
    rw [if_neg (by rintro rfl; exact h hl)]
    exact (send_fp rfl s 0x36 l _ (Fp.refl 1049601 s)).wdr rfl

section
variable {v : Ver} {s : State}
  (hv : s.wdr.vers.find? (fun x => x.tenant = v.tenant && x.id = v.id && x.ver = v.ver && x.copying) = some v)
include hv

/-- A finished copy, after the eviction that makes room for it. -/
theorem exec_residencyCopyDone : exec (.residencyCopyDone v.tenant v.id v.ver) s = .next
    (if s.lgt.throttle then s
      else if !domLit s 59 then demandDom s 59
      else
        let s := makePages v.pages s.wdr.vers.length s
        if usedPages s + v.pages ≤ costumePages s ∧ (s.wdr.vers.filter (·.resident)).length < 512 then
          toLead (noteWdr (dress s v)) 7 0xFFFF (v.id + v.ver * 2 ^ 16) fun s => leadResident s (selfDev s) v.tenant v.id v.ver
        else noteWdr s) := by
  change execResidencyCopyDone v.tenant v.id v.ver s = _
  simp only [execResidencyCopyDone, hv]

theorem residencyCopyDone_pauses (ht : s.lgt.throttle = true) : exec (.residencyCopyDone v.tenant v.id v.ver) s = .next s :=
  (exec_residencyCopyDone hv).trans (congrArg _ (if_pos ht))

variable (ht : s.lgt.throttle = false)
include ht

theorem residencyCopyDone_demands (hdark : domLit s 59 = false) :
    exec (.residencyCopyDone v.tenant v.id v.ver) s = .next (demandDom s 59) :=
  (exec_residencyCopyDone hv).trans (congrArg _ ((if_neg (by rw [ht]; decide)).trans (if_pos (by rw [hdark]; rfl))))

/-- With pages and a place free nothing is evicted, and at a member the version becomes resident. -/
theorem residencyCopyDone_resides (hlit : domLit s 59 = true) (hpages : usedPages s + v.pages ≤ costumePages s)
    (hplace : (s.wdr.vers.filter (·.resident)).length < 512) (hlead : leadDev s ≠ some (selfDev s)) :
    let ks := lowPages (costumePages s) v.pages ((s.wdr.vers.filter (·.resident)).map (·.loft)).flatten
    ∃ t, exec (.residencyCopyDone v.tenant v.id v.ver) s = .next t ∧
      t.wdr.vers = mapIf (sameVer v) (fun x => { x with resident := true, copying := false, loft := ks }) s.wdr.vers := by
  intro ks
  have hmake : makePages v.pages s.wdr.vers.length s = s := makePages_free hpages hplace _
  refine ⟨_, (exec_residencyCopyDone hv).trans (congrArg _ ((if_neg (by rw [ht]; decide)).trans
    ((if_neg (by rw [hlit]; decide)).trans ((if_pos (by rw [hmake]; exact ⟨hpages, hplace⟩)))))), ?_⟩
  rw [hmake, toLead_member_wdr (leadDev_noteWdr_dress hlead), noteWdr_wdr, dress_vers]

end

theorem resident_told {src : Fin 1024} {company tenant id ver : Nat} {s : State} (hlead : isLead s = true) (hc : company = ownId s)
    (hmem : src.val ∈ memberDevs s) :
    ∃ t, exec (.resident src company tenant id ver) s = .next t ∧ t.mdw = s.mdw ∧
      ∀ x ∈ t.wdr.vers, x.tenant = tenant → x.id = id → x.ver = ver → src.val ∈ x.residents := by
  refine ⟨_, congrArg Host.Outcome.next (if_pos (by simp [hlead, hc, hmem])), rfl, fun x hx hten hid hver => ?_⟩
  obtain ⟨y, -, hy⟩ := List.mem_map.1 hx
  split at hy
  · rw [← hy]
    exact List.mem_append_right _ (List.mem_singleton_self _)
  · next hn =>
    subst hy
    by_contra hres
    exact hn (by simp [hten, hid, hver, hres])

/-- Settles O30: the RESULT and the domain, the id and the room, and the slices in place decide each command. -/
theorem costumesComplete : Obligations.CostumesComplete := by
  refine ⟨fun _ _ _ => costumeLoad_parses, fun _ => costumeLoadDone_demands, fun _ => costumeLoadDone_bad,
    fun _ _ hb hlit hl => costumeLoadDone_idInUse hb hlit hl, fun v s hb hlit hl hid => ⟨costumeLoadDone_installs hb hlit hl hid,
      fun _ _ hroom hne hc => (exec_costumeLoadDone_room hb hlit hl hid hroom).trans (congrArg _ (installLoad_waits hne hc v)),
      costumeLoadDone_pends hb hlit hl hid⟩, fun v s hp hl hroom hlit => ⟨fun hheld => ?_, fun hne hc => ?_⟩,
    fun v s hr hv hidle => ⟨fun hnone => ?_, fun hsome => ?_⟩,
    fun _ _ hv => ⟨residencyCopyDone_pauses hv, residencyCopyDone_demands hv, residencyCopyDone_resides hv⟩,
    fun _ _ _ _ _ _ => resident_told⟩
  · obtain ⟨ks, h⟩ := installVer_installs s v
    exact ⟨ks, installVer s v, (exec_pendingLoadResume hp hl hroom hlit).trans (congrArg _ (installLoad_held hheld v)), h⟩
  · exact ⟨sendLoad s v, (exec_pendingLoadResume hp hl hroom hlit).trans (congrArg _ (installLoad_sends hne hc v)), sendLoad_wdr s v⟩
  · exact ⟨_, (exec_revoke hr hv hidle).trans (congrArg _ (if_pos (by rw [hnone]; rfl))),
      get_set_of_lt _ Fld.wdrLoadStatusResult 5 (by decide), rfl⟩
  · exact ⟨_, (exec_revoke hr hv hidle).trans (congrArg _ (if_neg (by rwa [List.isEmpty_iff]))),
      get_set_of_lt _ Fld.wdrLoadStatusResult 2 (by decide), rfl, rfl⟩

end Sys2Proof.Machine
end

section
/-!
OBLIGATION O48. Snapshots: the reports of the members, the manifest, the copy, the drain, and how a snapshot ends.
-/
namespace Sys2Proof.Machine

/-! A snapshot that is abandoned. -/

theorem undState_set_of_lt (s : State) {v : Nat} (h : v < 4) : undState (set s Fld.undStatusState v) = v :=
  get_set_of_lt s Fld.undStatusState v h

theorem abandonSnap_of_ne {s : State} (h : undState s ≠ 0) : abandonSnap s =
    (dropView (set (set (inc s Fld.undStatusAbandoned 1) Fld.undStatusState 0) Fld.undStatusLastResult 2)).onUnd fun u =>
      { u with acks := [], copiedBy := [], shards := [], mfAcks := [], cutCalls := [] } := if_neg h

/-- What an abandoned snapshot leaves: the result, and no copy, no view and no report. -/
structure Abandoned (s t : State) : Prop where
  state : undState t = 0
  result : get t Fld.undStatusLastResult = 2
  copying : t.und.copying = false
  frozen : t.und.frozen = []
  bodies : t.und.bodies = []
  shards : t.und.shards = []
  stm : t.stm = s.stm

theorem abandonSnap_abandons {s : State} (h : undState s ≠ 0) : Abandoned s (abandonSnap s) := by
  rw [abandonSnap_of_ne h]
  exact ⟨(get_set_other _ _ _ _ (by decide)).trans (undState_set_of_lt _ (by decide)), get_set_of_lt _ Fld.undStatusLastResult 2 (by decide), rfl, rfl, rfl, rfl, rfl⟩

theorem get_abandonSnap_draining (s : State) : get (abandonSnap s) Fld.undStatusDraining = get s Fld.undStatusDraining :=
  get_ite rfl ((get_set_other _ _ _ _ (by decide)).trans ((get_set_other _ _ _ _ (by decide)).trans (get_inc_other _ _ _ _ (by decide))))

theorem abandonSnap_drain (s : State) : (abandonSnap s).und.draining = s.und.draining ∧
    (abandonSnap s).und.drainHalf = s.und.drainHalf ∧ (abandonSnap s).out = s.out := by
  unfold abandonSnap
  split <;> exact ⟨rfl, rfl, rfl⟩

/-! The SNAP message. -/

theorem snap_good {m : CueTok} {n : Nat} {s : State} (hb : snapBad m = false) (hc : snapScene m = true ∨ snapCue m = n) :
    exec (.snap m n) s = .next (s.onUnd fun u => { u with snapMsg := some m }) := by
  have h : (snapBad m || (!snapScene m && decide (snapCue m ≠ n))) = false := by
    rw [hb]
    rcases hc with hc | hc <;> simp [hc]
  exact congrArg Host.Outcome.next (if_neg (by rw [h]; decide))

theorem snap_bad {m : CueTok} {n : Nat} {s : State} (hb : snapBad m = true) :
    ∃ t, exec (.snap m n) s = .next t ∧ t.und = s.und ∧ t.stm = s.stm := by
  refine ⟨_, congrArg Host.Outcome.next (if_pos (by rw [hb]; rfl)), ?_⟩
  have fp := report_fp rfl (advance s) 0x0E01 0xFFFF (fresh s % 2 ^ 32) (Fp.refl 950275 (advance s))
  exact ⟨fp.und rfl, fp.stm rfl⟩

/-! Reports of the members. -/

theorem snap_foreign {src : Fin 1024} {co cue : Nat} {s : State} (h : ofCompany s src.val co = false) :
    exec (.cutAck src co cue) s = .next s ∧ (∀ l, exec (.copied src co cue l) s = .next s) ∧
    exec (.noSpace src co cue) s = .next s ∧ exec (.copyFault src co cue) s = .next s ∧
    exec (.manifestAck src co cue) s = .next s := by
  have hn : ¬ ofCompany s src.val co = true := by rw [h]; decide
  have hn3 : ¬ (ofCompany s src.val co && decide (undState s = 1) && decide (cue = s.und.cutCue)) = true := by rw [h]; simp
  exact ⟨congrArg Host.Outcome.next (if_neg hn), fun _ => congrArg Host.Outcome.next (if_neg hn),
    congrArg Host.Outcome.next (if_neg hn3), congrArg Host.Outcome.next (if_neg hn3), congrArg Host.Outcome.next (if_neg hn)⟩

theorem mem_noted {d x : Nat} {l : List Nat} : d ∈ (if x ∈ l then l else l ++ [x]) ↔ d ∈ l ∨ d = x := by
  split
  · next h => exact ⟨Or.inl, fun hd => hd.elim id fun e => e ▸ h⟩
  · rw [List.mem_append, List.mem_singleton]

theorem cutAck_counts {src : Fin 1024} {co : Nat} {s : State} (hco : ofCompany s src.val co = true) (hs : undState s = 1) :
    ∃ t, exec (.cutAck src co s.und.cutCue) s = .next t ∧
      (∀ d, d ∈ t.und.acks ↔ d ∈ s.und.acks ∨ d = src.val) ∧ t.regs = s.regs ∧ t.stm = s.stm :=
  ⟨_, congrArg Host.Outcome.next ((if_pos hco).trans (if_pos ⟨hs, rfl⟩)), fun _ => mem_noted, rfl, rfl⟩

/-- A COPIED report is noted. -/
def copiedNoted (s : State) (src : Nat) (sh : List Shard) : State :=
  s.onUnd fun u => { u with copiedBy := u.copiedBy ++ [src], shards := u.shards ++ sh }

theorem leadCopied_eq {s : State} {src cue : Nat} {sh : List Shard} (hs : undState s = 1) (hc : cue = s.und.cutCue)
    (hn : src ∉ s.und.copiedBy) : leadCopied s src cue sh =
      if (memberDevs s).all fun d => decide (d ∈ s.und.copiedBy ++ [src]) then sealSnap (copiedNoted s src sh)
      else copiedNoted s src sh := if_pos ⟨hs, hc, hn⟩

theorem all_noted {l k : List Nat} {x : Nat} (h : ∀ d ∈ l, d ∈ k ∨ d = x) : (l.all fun d => decide (d ∈ k ++ [x])) = true := by
  simpa using h

theorem not_all_noted {l k : List Nat} {x : Nat} (h : ∃ d ∈ l, d ∉ k ∧ d ≠ x) :
    ¬ (l.all fun d => decide (d ∈ k ++ [x])) = true := by
  obtain ⟨d, hd, hk, hx⟩ := h
  intro ha
  have := List.all_eq_true.1 ha d hd
  simp [hk, hx] at this

theorem leadCopied_some {s : State} {src cue : Nat} {sh : List Shard} (hs : undState s = 1) (hc : cue = s.und.cutCue)
    (hn : src ∉ s.und.copiedBy) (hm : ∃ d ∈ memberDevs s, d ∉ s.und.copiedBy ∧ d ≠ src) :
    leadCopied s src cue sh = copiedNoted s src sh :=
  (leadCopied_eq hs hc hn).trans (if_neg (not_all_noted hm))

theorem copied_some {src : Fin 1024} {co : Nat} {s : State} (sh : List Shard) (hco : ofCompany s src.val co = true)
    (hs : undState s = 1) (hn : src.val ∉ s.und.copiedBy) (hm : ∃ d ∈ memberDevs s, d ∉ s.und.copiedBy ∧ d ≠ src) :
    exec (.copied src co s.und.cutCue sh) s = .next (copiedNoted s src.val sh) :=
  congrArg Host.Outcome.next ((if_pos hco).trans (leadCopied_some hs rfl hn hm))

theorem copied_last {src : Fin 1024} {co : Nat} {s : State} (sh : List Shard) (hco : ofCompany s src.val co = true)
    (hs : undState s = 1) (hn : src.val ∉ s.und.copiedBy) (hm : ∀ d ∈ memberDevs s, d ∈ s.und.copiedBy ∨ d = src.val) :
    exec (.copied src co s.und.cutCue sh) s = .next (sealSnap (copiedNoted s src.val sh)) :=
  congrArg Host.Outcome.next ((if_pos hco).trans ((leadCopied_eq hs rfl hn).trans (if_pos (all_noted hm))))

theorem faultReport_abandons {src : Fin 1024} {co : Nat} {s : State} (hco : ofCompany s src.val co = true) (hs : undState s = 1) :
    exec (.noSpace src co s.und.cutCue) s = .next (abandonSnap s) ∧
      exec (.copyFault src co s.und.cutCue) s = .next (abandonSnap s) := by
  have h : (ofCompany s src.val co && decide (undState s = 1) && decide (s.und.cutCue = s.und.cutCue)) = true := by
    rw [hco, hs]; simp
  exact ⟨congrArg Host.Outcome.next (if_pos h), congrArg Host.Outcome.next (if_pos h)⟩

/-! A complete snapshot. -/

theorem get_takeIv (s : State) (f : Fld) (h : f.key ∉ reportKeys) : get (takeIv s).2 f = get s f :=
  get_ite rfl ((get_storeBlock _ _ _ h).trans rfl)

theorem get_drainBytes (s : State) (m : Manifest) (f : Fld) (h : f.key ∉ reportKeys) : get (drainBytes s m).2 f = get s f := by
  refine List.foldlRecOn (motive := fun a : List Byte × State => get a.2 f = get s f) s.und.bodies _ rfl ?_
  exact fun a ih b _ => (get_takeIv a.2 f h).trans ih

theorem drainBytes_und (s : State) (m : Manifest) : (drainBytes s m).2.und = s.und :=
  (drainBytes_fp1 rfl s m (Fp.refl 196609 s)).und rfl

/-- What the drain after a complete snapshot leaves alone. -/
structure DrainKeeps (s t : State) : Prop where
  reg : ∀ f : Fld, f.key ∉ reportKeys → f.key ≠ Fld.undStatusDrainFull.key → f.key ≠ Fld.undStatusDraining.key → get t f = get s f
  manifests : t.und.manifests = s.und.manifests

theorem drainAfter_keeps (s : State) (m : Manifest) : DrainKeeps s (drainAfter s m) := by
  unfold drainAfter
  dsimp only
  split
  · exact ⟨fun _ _ _ _ => rfl, rfl⟩
  split
  · exact ⟨fun _ _ _ _ => rfl, rfl⟩
  split
  · exact ⟨fun _ _ _ _ => rfl, rfl⟩
  split
  · exact ⟨fun f _ hf _ => get_set_other _ _ _ _ hf, rfl⟩
  · refine ⟨fun f h _ hd => (get_set_other _ _ _ _ hd).trans (get_drainBytes _ m f h), ?_⟩
    exact (congrArg Und.manifests (drainBytes_und (s.onUnd fun u => { u with sinceDrain := 0 }) m)).trans rfl

/-- What a complete snapshot leaves at the lead. -/
structure SnapDone (s t : State) : Prop where
  state : undState t = 0
  result : get t Fld.undStatusLastResult = 1
  copying : t.und.copying = false
  shards : t.und.shards = []
  manifests : t.und.manifests = s.und.manifests

/-- The registers of a complete snapshot. -/
def snapShown (s : State) : State :=
  let s := set (set s Fld.undStatusState 0) Fld.undStatusLastResult 1
  let s := set (set s Fld.undLastCueLoV s.und.cutCue) Fld.undLastCueHiV (s.und.cutCue / 2 ^ 32)
  set s Fld.undLastSeqV s.und.snapSeq

/-- The snapshot of manifest `m` is over, before what follows a scene change's cut. -/
def snapOver (s : State) (m : Manifest) : State :=
  (dropView (drainAfter (snapShown s) m)).onUnd fun u => { u with acks := [], copiedBy := [], shards := [], mfAcks := [] }

/-- What follows a scene change's cut. -/
def afterCut (s : State) (m : Manifest) : State :=
  if !s.und.sceneCut then s
  else if get s Fld.splSceneStatusState = 2 then
    let cs := s.und.cutCalls
    (set (s.onUnd fun u => { u with sceneMan := some m }) Fld.splSceneStatusState 3).onSpl fun p => { p with
      scene := p.scene.map fun c => { c with cutCalls := cs } }
  else
    match s.spl.passed with
    | some (c, _, d) => tellDevs (sendTransfer (advance s) d (fresh s % 2 ^ 32) m.raw) [d] outCut c m.snapSeq
    | none => s

theorem snapComplete_eq (s : State) (m : Manifest) : snapComplete s m = afterCut (snapOver s m) m := rfl

theorem get_snapShown (s : State) : get (snapShown s) Fld.undStatusState = 0 ∧ get (snapShown s) Fld.undStatusLastResult = 1 := by
  constructor
  · refine (get_set_other _ _ _ _ (by decide)).trans ((get_set_other _ _ _ _ (by decide)).trans ((get_set_other _ _ _ _ (by decide)).trans
      ((get_set_other _ _ _ _ (by decide)).trans (undState_set_of_lt s (by decide)))))
  · refine (get_set_other _ _ _ _ (by decide)).trans ((get_set_other _ _ _ _ (by decide)).trans ((get_set_other _ _ _ _ (by decide)).trans
      (get_set_of_lt _ Fld.undStatusLastResult 1 (by decide))))

theorem get_dropView (s : State) (f : Fld) : get (dropView s) f = get s f := rfl

theorem get_snapOver (s : State) (m : Manifest) (f : Fld) : get (snapOver s m) f = get (drainAfter (snapShown s) m) f := by
  unfold snapOver
  rw [get_onUnd, get_dropView]

theorem snapShown_und (s : State) : (snapShown s).und = s.und := rfl

theorem snapOver_und (s : State) (m : Manifest) : (snapOver s m).und = { (drainAfter (snapShown s) m).und with
    copying := false, frozen := [], frozenPages := [], bodies := [], acks := [], copiedBy := [], shards := [], mfAcks := [] } := by
  unfold snapOver dropView
  rw [State.onUnd_und, State.onUnd_und]

theorem snapOver_done (s : State) (m : Manifest) : SnapDone s (snapOver s m) := by
  have k := drainAfter_keeps (snapShown s) m
  obtain ⟨hst, hlast⟩ := get_snapShown s
  have hmf : (snapOver s m).und.manifests = s.und.manifests := by
    rw [snapOver_und]
    exact k.manifests.trans (congrArg Und.manifests (snapShown_und s))
  refine ⟨?_, ?_, by rw [snapOver_und], by rw [snapOver_und], hmf⟩
  · unfold undState
    rw [get_snapOver, k.reg _ (outside_report _ (by decide)) (by decide) (by decide), hst]
  · rw [get_snapOver, k.reg _ (outside_report _ (by decide)) (by decide) (by decide), hlast]

theorem SnapDone.carry {s t u : State} (h : SnapDone s t) (hr : get u Fld.undStatusState = get t Fld.undStatusState)
    (hl : get u Fld.undStatusLastResult = get t Fld.undStatusLastResult) (hc : u.und.copying = t.und.copying)
    (hs : u.und.shards = t.und.shards) (hm : u.und.manifests = t.und.manifests) : SnapDone s u :=
  ⟨hr.trans h.state, hl.trans h.result, hc.trans h.copying, hs.trans h.shards, hm.trans h.manifests⟩

theorem sendTransfer_und (s : State) (dst id : Nat) (bs : List Byte) : (sendTransfer s dst id bs).und = s.und :=
  (sendTransfer_fp rfl s dst id bs (Fp.refl 1049601 s)).und rfl

theorem tellDevs_und (s : State) (ds : List Nat) (outcome value detail : Nat) : (tellDevs s ds outcome value detail).und = s.und :=
  (tellDevs_fp rfl s ds outcome value detail (Fp.refl 1049601 s)).und rfl

theorem afterCut_done {s t : State} (m : Manifest) (h : SnapDone s t) : SnapDone s (afterCut t m) := by
  unfold afterCut
  split
  · exact h
  split
  · exact h.carry (get_set_other _ _ _ _ (by decide)) (get_set_other _ _ _ _ (by decide)) rfl rfl rfl
  split
  · next c a d _ =>
    have hu : (tellDevs (sendTransfer (advance t) d (fresh t % 2 ^ 32) m.raw) [d] outCut c m.snapSeq).und = t.und :=
      (tellDevs_und _ _ _ _ _).trans (sendTransfer_und _ _ _ _)
    have hg (f : Fld) (hf : f.blk ≠ 0xF) :
        get (tellDevs (sendTransfer (advance t) d (fresh t % 2 ^ 32) m.raw) [d] outCut c m.snapSeq) f = get t f :=
      (get_tellDevs _ _ _ _ _ _ hf).trans ((get_sendTransfer _ _ _ _ _ hf).trans rfl)
    exact h.carry (hg _ (by decide)) (hg _ (by decide)) (congrArg Und.copying hu) (congrArg Und.shards hu)
      (congrArg Und.manifests hu)
  · exact h

theorem snapComplete_done (s : State) (m : Manifest) : SnapDone s (snapComplete s m) := by
  rw [snapComplete_eq]
  exact afterCut_done m (snapOver_done s m)

/-- A manifest acknowledgement is noted. -/
def manifestNoted (s : State) (src : Nat) : State :=
  s.onUnd fun u => { u with mfAcks := if src ∈ u.mfAcks then u.mfAcks else u.mfAcks ++ [src] }

theorem manifestAck_some {src : Fin 1024} {co : Nat} {s : State} (hco : ofCompany s src.val co = true) (hs : undState s = 2)
    (hm : ∃ d ∈ memberDevs s, d ∉ s.und.mfAcks ∧ d ≠ src) :
    exec (.manifestAck src co s.und.snapSeq) s = .next (manifestNoted s src.val) := by
  obtain ⟨d, hd, hk, hx⟩ := hm
  refine congrArg Host.Outcome.next ((if_pos hco).trans ((if_pos ⟨hs, rfl⟩).trans (if_neg fun ha => ?_)))
  have := of_decide_eq_true (List.all_eq_true.1 ha d hd)
  exact (mem_noted.1 this).elim hk hx

theorem manifestAck_last {src : Fin 1024} {co : Nat} {s : State} {m : Manifest} (hco : ofCompany s src.val co = true)
    (hs : undState s = 2) (hm : ∀ d ∈ memberDevs s, d ∈ s.und.mfAcks ∨ d = src.val)
    (hf : (s.und.manifests.find? fun m => m.company = ownId s && m.snapSeq = s.und.snapSeq) = some m) :
    exec (.manifestAck src co s.und.snapSeq) s = .next (snapComplete (manifestNoted s src.val) m) := by
  have hall : ((memberDevs (manifestNoted s src.val)).all fun d => decide (d ∈ (manifestNoted s src.val).und.mfAcks)) = true :=
    List.all_eq_true.2 fun d hd => decide_eq_true (mem_noted.2 (hm d hd))
  refine congrArg Host.Outcome.next ((if_pos hco).trans ((if_pos ⟨hs, rfl⟩).trans ((if_pos hall).trans ?_)))
  dsimp only [State.onUnd_und]
  exact (congrArg (fun o : Option Manifest => match o with
    | some m => snapComplete (manifestNoted s src.val) m
    | none => manifestNoted s src.val) hf)

/-! The copy. -/

theorem snapshotForce_due {v : Word} {s : State} (hr : reaches s 0 Fld.undCtlForce.off = true) (hv : bit v 2 = true) :
    exec (.snapshotForce v) s = .next ((commandWord s 0 Fld.undCtlForce.off v).onUnd fun u => { u with dueForce := true }) :=
  congrArg Host.Outcome.next (if_pos (by rw [hr, hv]; rfl))

theorem snapshotCopyDone_idle {s : State} (b : Bool) (hc : s.und.copying = false) :
    exec (.snapshotCopyDone b) s = .next s :=
  congrArg Host.Outcome.next (if_pos (by rw [hc]; rfl))

theorem snapshotCopyDone_dark {s : State} (b : Bool) (hc : s.und.copying = true) (hd : domLit s 60 = false) :
    exec (.snapshotCopyDone b) s = .next (demandDom s 60) :=
  congrArg Host.Outcome.next ((if_neg (by rw [hc]; decide)).trans (if_pos (by rw [hd]; rfl)))

theorem copyBeforeWrite_idle {s : State} (p : Bool) (n w : Nat) (h : (s.und.copying && domLit s 60) = false) :
    exec (.copyBeforeWrite p n w) s = .next s :=
  congrArg Host.Outcome.next (if_neg (by rw [h]; simp))

/-- The view is free at this member. -/
def viewFree (s : State) : State := s.onUnd fun u => { u with copying := false, frozen := [], frozenPages := [] }

theorem send_und (s : State) (kind dst : Nat) (body : List Byte) : (send s kind dst body).und = s.und :=
  (send_fp rfl s kind dst body (Fp.refl 1049601 s)).und rfl

/-- What a member does when its copy was poisoned. -/
def copyPoisoned (s : State) : State :=
  match leadDev s with
  | some l => send (dropView s) 0x36 l (reportBody 4 (ownId s) s.und.cutCue 0xFFFF 0)
  | none => dropView s

/-- The shard bodies go to the buddy. -/
def bodiesSent (s : State) : State :=
  s.und.bodies.foldl (fun s b => sendTransfer (advance s) (get s Fld.undBuddyBuddy) (fresh s % 2 ^ 32) b.2) s

/-- What a member other than the lead reports of its copy. -/
def copyReported (s : State) (sh : List Shard) (cue : Nat) : State :=
  match leadDev s with
  | some l => send s 0x36 l (reportBody 2 (ownId s) cue 0xFFFF 0 ++ (sh.map shardBytes).flatten)
  | none => s

theorem snapshotCopyDone_lit {s : State} (b : Bool) (hc : s.und.copying = true) (hd : domLit s 60 = true) :
    exec (.snapshotCopyDone b) s = .next (if b then (if isLead (viewFree s) then abandonSnap (viewFree s) else copyPoisoned (viewFree s))
      else if isLead (bodiesSent (viewFree s)) then
        leadCopied (bodiesSent (viewFree s)) (selfDev (bodiesSent (viewFree s))) s.und.cutCue (ownShards (viewFree s))
      else copyReported (bodiesSent (viewFree s)) (ownShards (viewFree s)) s.und.cutCue) :=
  congrArg Host.Outcome.next ((if_neg (by rw [hc]; decide)).trans (if_neg (by rw [hd]; decide)))

theorem copyPoisoned_und (s : State) : (copyPoisoned s).und = (dropView s).und := by
  unfold copyPoisoned
  split
  · exact send_und _ _ _ _
  · rfl

theorem copyReported_und (s : State) (sh : List Shard) (cue : Nat) : (copyReported s sh cue).und = s.und := by
  unfold copyReported
  split
  · exact send_und _ _ _ _
  · rfl

theorem bodiesSent_und (s : State) : (bodiesSent s).und = s.und := by
  refine foldl_keeps State.und _ ?_ s.und.bodies s
  exact fun u b => sendTransfer_und _ _ _ _

theorem bodiesSent_mdw (s : State) : (bodiesSent s).mdw = s.mdw := by
  refine foldl_keeps State.mdw _ ?_ s.und.bodies s
  exact fun u b => (sendTransfer_fp rfl (advance u) _ _ _ (Fp.refl 1049601 (advance u))).mdw rfl

theorem bodiesSent_spl (s : State) : (bodiesSent s).spl = s.spl := by
  refine foldl_keeps State.spl _ ?_ s.und.bodies s
  exact fun u b => (sendTransfer_fp rfl (advance u) _ _ _ (Fp.refl 1049601 (advance u))).spl rfl

theorem get_bodiesSent (s : State) (f : Fld) (h : f.blk ≠ 0xF) : get (bodiesSent s) f = get s f := by
  refine get_foldl f _ ?_ s.und.bodies s
  exact fun u b => (get_sendTransfer _ _ _ _ f h).trans rfl

theorem selfDev_sendPkt (s : State) (kind dst tag epoch : Nat) (poison : Bool) (body : List Byte) :
    selfDev (sendPkt s kind dst tag epoch poison body) = selfDev s := by
  unfold sendPkt
  split
  · exact get_inc_other _ _ _ _ (by decide)
  · exact get_emit _ _ _

theorem selfDev_bodiesSent (s : State) : selfDev (bodiesSent s) = selfDev s := by
  have hsend (u : State) (dst id : Nat) (bs : List Byte) : selfDev (sendTransfer u dst id bs) = selfDev u := by
    refine foldl_keeps selfDev _ ?_ _ u
    exact fun u x => selfDev_sendPkt u _ _ _ _ _ _
  refine foldl_keeps selfDev _ ?_ s.und.bodies s
  exact fun u b => (hsend _ _ _ _).trans rfl

theorem snapshotCopyDone_poison_member {s : State} (hc : s.und.copying = true) (hd : domLit s 60 = true) (hl : isLead s = false) :
    exec (.snapshotCopyDone true) s = .next (copyPoisoned (viewFree s)) :=
  (snapshotCopyDone_lit true hc hd).trans (congrArg Host.Outcome.next
    ((if_pos rfl).trans (if_neg (show ¬ isLead s = true by rw [hl]; decide))))

theorem snapshotCopyDone_poison_lead {s : State} (hc : s.und.copying = true) (hd : domLit s 60 = true) (hl : isLead s = true) :
    exec (.snapshotCopyDone true) s = .next (abandonSnap (viewFree s)) :=
  (snapshotCopyDone_lit true hc hd).trans (congrArg Host.Outcome.next ((if_pos rfl).trans (if_pos (show isLead s = true from hl))))

theorem isLead_bodiesSent (s : State) : isLead (bodiesSent s) = isLead s := isLead_congr (bodiesSent_spl s)

theorem memberDevs_congr {s t : State} (h : t.spl = s.spl) : memberDevs t = memberDevs s := by
  unfold memberDevs ownCompany
  rw [h]

theorem snapshotCopyDone_good_member {s : State} (hc : s.und.copying = true) (hd : domLit s 60 = true) (hl : isLead s = false) :
    exec (.snapshotCopyDone false) s = .next (copyReported (bodiesSent (viewFree s)) (ownShards (viewFree s)) s.und.cutCue) :=
  (snapshotCopyDone_lit false hc hd).trans (congrArg Host.Outcome.next ((if_neg (by decide)).trans (if_neg (by
    rw [isLead_bodiesSent]; exact (show ¬ isLead s = true by rw [hl]; decide)))))

theorem snapshotCopyDone_good_lead {s : State} (hc : s.und.copying = true) (hd : domLit s 60 = true) (hl : isLead s = true)
    (hs : undState s = 1) (hn : selfDev s ∉ s.und.copiedBy) (hm : ∃ d ∈ memberDevs s, d ∉ s.und.copiedBy ∧ d ≠ selfDev s) :
    exec (.snapshotCopyDone false) s = .next (copiedNoted (bodiesSent (viewFree s)) (selfDev s) (ownShards (viewFree s))) := by
  have hself : selfDev (bodiesSent (viewFree s)) = selfDev s := selfDev_bodiesSent (viewFree s)
  have hund : (bodiesSent (viewFree s)).und = (viewFree s).und := bodiesSent_und _
  have hmem : memberDevs (bodiesSent (viewFree s)) = memberDevs s := memberDevs_congr (bodiesSent_spl (viewFree s))
  have hlead : isLead (bodiesSent (viewFree s)) = true := (isLead_bodiesSent _).trans hl
  refine (snapshotCopyDone_lit false hc hd).trans (congrArg Host.Outcome.next ((if_neg (by decide)).trans ((if_pos hlead).trans ?_)))
  rw [hself]
  refine leadCopied_some ((get_bodiesSent _ _ (by decide)).trans hs) (congrArg Und.cutCue hund).symm ?_ ?_
  · rw [hund]; exact hn
  · rw [hund, hmem]; exact hm

/-- The waiting write of `n` goes on. -/
def writeGoesOn (s : State) (page : Bool) (n : Nat) : State :=
  s.onUnd fun u => if page then { u with frozenPages := u.frozenPages.erase n } else { u with frozen := u.frozen.erase n }

theorem writeGoesOn_frozen (s : State) (page : Bool) (n : Nat) :
    (writeGoesOn s page n).und.frozen = (if page then s.und.frozen else s.und.frozen.erase n) ∧
    (writeGoesOn s page n).und.frozenPages = (if page then s.und.frozenPages.erase n else s.und.frozenPages) := by
  cases page <;> exact ⟨rfl, rfl⟩

theorem copyBeforeWrite_counts {page : Bool} {n w : Nat} {s : State} (hc : s.und.copying = true) (hd : domLit s 60 = true)
    (hn : n ∈ (if page then s.und.frozenPages else s.und.frozen)) :
    exec (.copyBeforeWrite page n w) s = .next (set (inc (writeGoesOn s page n) Fld.undStallCountV 1) Fld.undStallMaxV
      (max (get (writeGoesOn s page n) Fld.undStallMaxV) (min w 65535))) := by
  refine congrArg Host.Outcome.next (if_pos ?_)
  rw [hc, hd]
  cases page <;> exact decide_eq_true hn

/-! The drain and the refresh. -/

theorem sendPkt_host (s : State) (kind dst tag epoch : Nat) (poison : Bool) (body : List Byte) :
    (sendPkt s kind dst tag epoch poison body).out.host = s.out.host := by
  unfold sendPkt
  split
  · rfl
  · unfold emit
    split <;> rfl

/-- The drain is over. -/
def drainOver (s : State) : State := (set s Fld.undStatusDraining 0).onUnd fun u => { u with draining := [] }

/-- A drain that leaves nothing to use. -/
def drainLost (s : State) : State :=
  match leadDev s with
  | some l => if l = selfDev s then abandonSnap s else send s 0x36 l (reportBody 4 (ownId s) s.und.cutCue 0xFFFF 0)
  | none => s

theorem drainDone_idle {s : State} (b : Bool) (h : get s Fld.undStatusDraining = 0 ∨ s.lgt.throttle = true) :
    exec (.drainDone b) s = .next s := by
  refine congrArg Host.Outcome.next (if_pos ?_)
  rcases h with h | h
  · have : isSet s Fld.undStatusDraining = false := by simp [isSet, h]
    rw [this]; rfl
  · rw [h]; exact Bool.or_true _

theorem draining_guard {s : State} (h : get s Fld.undStatusDraining = 1) (ht : s.lgt.throttle = false) :
    ¬ (!isSet s Fld.undStatusDraining || s.lgt.throttle) = true := by
  simp [isSet, h, ht]

theorem drainDone_dark {s : State} (b : Bool) (h : get s Fld.undStatusDraining = 1) (ht : s.lgt.throttle = false)
    (hd : domLit s 60 = false) : exec (.drainDone b) s = .next (demandDom s 60) :=
  congrArg Host.Outcome.next ((if_neg (draining_guard h ht)).trans (if_pos (by rw [hd]; rfl)))

theorem cryptoOn_drainOver (s : State) : cryptoOn (drainOver s) = cryptoOn s := by
  have h : get (drainOver s) Fld.sdrStatusState = get s Fld.sdrStatusState := get_set_other _ _ _ _ (by decide)
  unfold cryptoOn
  rw [h]

theorem drainDone_poison {s : State} (h : get s Fld.undStatusDraining = 1) (ht : s.lgt.throttle = false)
    (hd : domLit s 60 = true) : exec (.drainDone true) s = .next (drainLost (drainOver s)) :=
  congrArg Host.Outcome.next ((if_neg (draining_guard h ht)).trans ((if_neg (by rw [hd]; decide)).trans (if_pos rfl)))

theorem drainDone_good {s : State} (h : get s Fld.undStatusDraining = 1) (ht : s.lgt.throttle = false)
    (hd : domLit s 60 = true) (hne : s.und.draining ≠ []) (hk : cryptoOn s = true) :
    exec (.drainDone false) s = .next (((drainOver s).onUnd fun u => { u with drainHalf := !u.drainHalf }).onOut fun o =>
      { o with host := o.host ++ [(get s Fld.undDrainBaseLoV + get s Fld.undDrainBaseHiV * 2 ^ 32 +
          (if s.und.drainHalf then get s Fld.undDrainSizeV * 4096 / 2 else 0), s.und.draining)] }) := by
  have hg : (false || s.und.draining.isEmpty || !cryptoOn (drainOver s)) = false := by
    rw [cryptoOn_drainOver, hk, List.isEmpty_eq_false_iff.2 hne]; rfl
  exact congrArg Host.Outcome.next ((if_neg (draining_guard h ht)).trans ((if_neg (by rw [hd]; decide)).trans
    (if_neg (show ¬ (false || s.und.draining.isEmpty || !cryptoOn (drainOver s)) = true by rw [hg]; decide))))

theorem get_drainOver (s : State) : get (drainOver s) Fld.undStatusDraining = 0 :=
  get_set_of_lt _ Fld.undStatusDraining 0 (by decide)

theorem drainLost_keeps (s : State) : get (drainLost s) Fld.undStatusDraining = get s Fld.undStatusDraining ∧
    (drainLost s).und.drainHalf = s.und.drainHalf ∧ (drainLost s).und.draining = s.und.draining ∧
    (drainLost s).out.host = s.out.host := by
  unfold drainLost
  split
  · split
    · obtain ⟨hdr, hhalf, hout⟩ := abandonSnap_drain s
      exact ⟨get_abandonSnap_draining s, hhalf, hdr, congrArg Out.host hout⟩
    · exact ⟨get_sendPkt _ _ _ _ _ _ _ _ (by decide), congrArg Und.drainHalf (send_und _ _ _ _),
        congrArg Und.draining (send_und _ _ _ _), sendPkt_host _ _ _ _ _ _ _⟩
  · exact ⟨rfl, rfl, rfl, rfl⟩

theorem snapshotTimeout_late {s : State} (hl : isLead s = true) (h : s.und.cutCue + max 1 (get s Fld.undTimeoutCues) ≤ cueNum s) :
    exec .snapshotTimeout s = .next (abandonSnap s) :=
  congrArg Host.Outcome.next (if_pos (by rw [hl]; exact decide_eq_true h))

theorem snapshotTimeout_early {s : State}
    (h : isLead s = false ∨ cueNum s < s.und.cutCue + max 1 (get s Fld.undTimeoutCues)) :
    exec .snapshotTimeout s = .next s := by
  refine congrArg Host.Outcome.next (if_neg ?_)
  rcases h with h | h
  · rw [h]; simp
  · rw [decide_eq_false (Nat.not_le.2 h)]; simp

theorem wcopyRefreshDone_lit {s : State} (h : get s Fld.plyWloadStatusState = 3) (hd : domLit s 60 = true) :
    exec .wcopyRefreshDone s = .next (set s Fld.undBuddyWcopyValid 1) :=
  congrArg Host.Outcome.next ((if_neg (not_not.2 h)).trans (if_neg (by rw [hd]; decide)))

/-- Settles O48: a clause per command, from what `abandonSnap`, `leadCopied`, `snapComplete` and the drain leave. -/
theorem snapshotsComplete : Obligations.SnapshotsComplete := by
  unfold Obligations.SnapshotsComplete
  refine ⟨fun m n s hb hc => snap_good hb hc, fun m n s hb => snap_bad hb, fun src co cue s h => snap_foreign h,
    fun src co s hco hs => ⟨cutAck_counts hco hs, fun sh hn hm => ⟨_, copied_some sh hco hs hn hm, rfl, rfl, rfl⟩,
      fun sh hn hm => copied_last sh hco hs hn hm, ?_⟩,
    fun src co s hco hs => ⟨fun hm => ⟨_, manifestAck_some hco hs hm, fun _ => mem_noted, hs⟩, fun hm m hf => ?_⟩,
    fun v s hr hv => snapshotForce_due hr hv,
    fun b s hc => ⟨snapshotCopyDone_idle b hc, fun p n w => copyBeforeWrite_idle p n w (by rw [hc]; rfl)⟩,
    fun b s hc hd => ⟨snapshotCopyDone_dark b hc hd, fun p n w => copyBeforeWrite_idle p n w (by rw [hc, hd]; rfl)⟩,
    fun s hc hd hl => ⟨⟨_, snapshotCopyDone_poison_member hc hd hl, ?_⟩, ⟨_, snapshotCopyDone_good_member hc hd hl, ?_⟩⟩,
    fun s hc hd hl => ⟨fun hs => ⟨_, snapshotCopyDone_poison_lead hc hd hl, ?_⟩,
      fun hs hn hm => ⟨_, snapshotCopyDone_good_lead hc hd hl hs hn hm, ?_⟩⟩,
    fun page n w s hc hd hn => ⟨_, copyBeforeWrite_counts hc hd hn, ?_⟩,
    fun s hl hs => ⟨fun h => ⟨_, snapshotTimeout_late hl h, ?_⟩, fun h => snapshotTimeout_early (.inr h)⟩,
    fun s hl => snapshotTimeout_early (.inl hl),
    fun s h ht => ⟨fun b hd => drainDone_dark b h ht hd,
      fun hd hne hk => ⟨_, drainDone_good h ht hd hne hk, get_drainOver s, rfl, rfl, rfl⟩,
      fun hd => ⟨_, drainDone_poison h ht hd, ?_⟩⟩,
    fun b s h => drainDone_idle b h,
    fun s h => ⟨fun hd => congrArg Host.Outcome.next ((if_neg (not_not.2 h)).trans (if_pos (by rw [hd]; rfl))),
      fun hd => ⟨_, wcopyRefreshDone_lit h hd, get_set_of_lt _ Fld.undBuddyWcopyValid 1 (by decide), rfl⟩⟩,
    fun s h => congrArg Host.Outcome.next (if_pos h)⟩
  · obtain ⟨hno, hfault⟩ := faultReport_abandons hco hs
    have a := abandonSnap_abandons (s := s) (by rw [hs]; decide)
    have gone := And.intro a.state (And.intro a.result (And.intro a.copying (And.intro a.frozen (And.intro a.shards a.stm))))
    exact ⟨⟨_, hno, gone⟩, ⟨_, hfault, gone⟩⟩
  · have d := snapComplete_done (manifestNoted s src.val) m
    exact ⟨_, manifestAck_last hco hs hm hf, d.state, d.result, d.copying, d.shards, d.manifests⟩
  · rw [copyPoisoned_und]
    exact ⟨rfl, rfl, rfl, rfl⟩
  · rw [copyReported_und, bodiesSent_und]
    exact ⟨rfl, rfl, rfl, rfl⟩
  · have a := abandonSnap_abandons (s := viewFree s) hs
    exact ⟨a.state, a.result, a.bodies⟩
  · unfold copiedNoted
    rw [State.onUnd_und, State.onUnd_mdw, bodiesSent_und]
    exact ⟨rfl, List.mem_append_right _ List.mem_cons_self, bodiesSent_mdw _⟩
  · obtain ⟨hf, hp⟩ := writeGoesOn_frozen s page n
    exact ⟨hf, hp, (get_set_other _ _ _ _ (by decide)).trans (get_inc_same _ _ _), get_set_same _ _ _, rfl⟩
  · have a := abandonSnap_abandons hs
    exact ⟨a.state, a.result⟩
  · obtain ⟨hdr, hhalf, hlist, hhost⟩ := drainLost_keeps (drainOver s)
    exact ⟨hdr.trans (get_drainOver s), hhalf, hlist, hhost⟩

end Sys2Proof.Machine
end

section
/-!
OBLIGATION O51. Replays: what REPLAY_GO decides, and what an abort leaves.
-/
namespace Sys2Proof.Machine

/-- The replay status as REPLAY_GO clears it. -/
def replayCleared (u : State) : State :=
  set (set (set u Fld.pbkReplayStatusResult 0) Fld.pbkReplayStatusListDiff 0) Fld.pbkReplayStatusLineDiff 0

/-- A replay that does not start, with its result. -/
def replayRefused (w : State) (r : Nat) : State := set (set w Fld.pbkReplayStatusState 3) Fld.pbkReplayStatusResult r

/-- A replay of manifest `m` with the records and the prompts it needs, or with neither. -/
def replayWith (w : State) (m : Manifest) (x : Option (List BookRec × List (List Nat))) : State :=
  match x with
  | none => replayRefused w 5
  | some (rs, ps) =>
    let t := (set w Fld.pbkReplayStatusState 1).onPbk fun b => { b with
      replay := rs, prompts := ps, cues := [], company := m.company, emit := [], emitDue := false }
    tryManifest 2 (t.onUnd fun u => { u with tries := [m] })

/-- The chain of capsules of manifest `m`. -/
def replayChain (w : State) (m : Manifest) : Option (List BookRec) :=
  let n := get w Fld.pbkNcapsN
  if n = 0 ∨ 8 < n ∨ manifestSigned m = false then none
  else readChain w m.company n (get w Fld.pbkCapsLoV + get w Fld.pbkCapsHiV * 2 ^ 32) (some m.snapSeq) none

/-- A replay from what the manifest's bytes parse to. -/
def replayFrom (w : State) (mf : Option Manifest) : State :=
  match mf with
  | none => replayRefused w 5
  | some m =>
    let model := match ownCompany w with | some c => c.model | none => 0
    if !w.stm.board.isEmpty ∨ m.model ≠ model ∨ fieldAt m.raw 5 1 ≠ get w Fld.plyModeExact then
      set w Fld.pbkReplayStatusResult 6
    else replayWith w m ((replayChain w m).bind fun rs => (supplyFor w rs).map fun ps => (rs, ps))

/-- The bytes at the manifest's address, parsed. -/
def replayManifest (w : State) : Option Manifest :=
  let a := get w Fld.pbkMnftLoV + get w Fld.pbkMnftHiV * 2 ^ 32
  parseManifest (readBytes w a (224 + 96 * min 1024 (readLe w (a + 0x28) 4)))

section
variable {v : Word} {s : State} (hr : reaches s 0 Fld.pbkReplayCtlGo.off = true) (hv : bit v 0 = true)
include hr hv

theorem replayGo_guard : ¬ (!reaches s 0 Fld.pbkReplayCtlGo.off || !bit v 0) = true := by rw [hr, hv]; decide

theorem replayGo_member (hl : isLead (commandWord s 0 Fld.pbkReplayCtlGo.off v) = false) :
    exec (.replayGo v) s = .next (set (commandWord s 0 Fld.pbkReplayCtlGo.off v) Fld.pbkReplayStatusResult 8) :=
  congrArg Host.Outcome.next ((if_neg (replayGo_guard hr hv)).trans (if_pos (by rw [hl]; rfl)))

theorem replayGo_running (hl : isLead (commandWord s 0 Fld.pbkReplayCtlGo.off v) = true)
    (hrun : replaying (commandWord s 0 Fld.pbkReplayCtlGo.off v) = true) :
    exec (.replayGo v) s = .next (commandWord s 0 Fld.pbkReplayCtlGo.off v) :=
  congrArg Host.Outcome.next ((if_neg (replayGo_guard hr hv)).trans ((if_neg (by rw [hl]; decide)).trans (if_pos hrun)))

theorem replayGo_starts (hl : isLead (commandWord s 0 Fld.pbkReplayCtlGo.off v) = true)
    (hrun : replaying (commandWord s 0 Fld.pbkReplayCtlGo.off v) = false) :
    exec (.replayGo v) s = .next (replayFrom (replayCleared (commandWord s 0 Fld.pbkReplayCtlGo.off v))
      (replayManifest (replayCleared (commandWord s 0 Fld.pbkReplayCtlGo.off v)))) := by
  change execReplayGo v s = _
  unfold execReplayGo
  dsimp only
  rw [if_neg (replayGo_guard hr hv), if_neg (by rw [hl]; decide), if_neg (by rw [hrun]; decide)]
  unfold replayManifest replayCleared
  generalize parseManifest _ = mf
  cases mf with
  | none => exact rfl
  | some m =>
    unfold replayFrom
    refine congrArg (fun t => Host.Outcome.next (ite _ _ t)) ?_
    unfold replayWith replayChain
    dsimp only
    generalize Option.bind _ _ = x
    cases x <;> exact rfl

end

theorem replayRefused_shows (w : State) {r : Nat} (h : r < 16) : get (replayRefused w r) Fld.pbkReplayStatusState = 3 ∧
    get (replayRefused w r) Fld.pbkReplayStatusResult = r :=
  ⟨(get_set_other _ _ _ _ (by decide)).trans (get_set_of_lt _ Fld.pbkReplayStatusState 3 (by decide)),
    get_set_of_lt _ Fld.pbkReplayStatusResult r h⟩

theorem get_replayCleared (u : State) : get (replayCleared u) Fld.pbkReplayStatusState = get u Fld.pbkReplayStatusState :=
  (get_set_other _ _ _ _ (by decide)).trans ((get_set_other _ _ _ _ (by decide)).trans (get_set_other _ _ _ _ (by decide)))

theorem replayFrom_unfit {w : State} {m : Manifest} (h : w.stm.board ≠ [] ∨
    m.model ≠ (match ownCompany w with | some c => c.model | none => 0) ∨ fieldAt m.raw 5 1 ≠ get w Fld.plyModeExact) :
    replayFrom w (some m) = set w Fld.pbkReplayStatusResult 6 :=
  if_pos (h.imp_left fun hb => by rw [List.isEmpty_eq_false_iff.2 hb]; rfl)

theorem replayFrom_fit {w : State} {m : Manifest} (hb : w.stm.board = [])
    (hm : m.model = (match ownCompany w with | some c => c.model | none => 0)) (he : fieldAt m.raw 5 1 = get w Fld.plyModeExact) :
    replayFrom w (some m) = replayWith w m ((replayChain w m).bind fun rs => (supplyFor w rs).map fun ps => (rs, ps)) := by
  refine if_neg ?_
  rintro (h | h | h)
  · rw [hb] at h; exact absurd h (by decide)
  · exact h hm
  · exact h he

theorem replayChain_bad {w : State} {m : Manifest}
    (h : get w Fld.pbkNcapsN = 0 ∨ 8 < get w Fld.pbkNcapsN ∨ manifestSigned m = false) : replayChain w m = none := if_pos h

theorem replayChain_good {w : State} {m : Manifest} (h1 : 1 ≤ get w Fld.pbkNcapsN) (h8 : get w Fld.pbkNcapsN ≤ 8)
    (hs : manifestSigned m = true) : replayChain w m = readChain w m.company (get w Fld.pbkNcapsN)
      (get w Fld.pbkCapsLoV + get w Fld.pbkCapsHiV * 2 ^ 32) (some m.snapSeq) none := by
  refine if_neg ?_
  rintro (h | h | h)
  · omega
  · omega
  · rw [hs] at h; exact absurd h (by decide)

/-! The end of a replay. -/

theorem putEmit_replay (s : State) : (putEmit s).pbk.replay = s.pbk.replay := by
  have hseal (u : State) (n : Nat) (fs : List (Option Nat × List BookRec)) : (sealFrames u n fs).2.pbk = u.pbk :=
    (sealFrames_fp1 rfl u n fs (Fp.refl 196609 u)).pbk rfl
  have harea (u : State) (o : Nat) (bs : List Byte) : (areaWrite u o bs).pbk = u.pbk := rfl
  have hput (u : State) (bs : List Byte) : (capPut u bs).pbk.replay = u.pbk.replay := rfl
  unfold putEmit
  dsimp only
  split
  · rfl
  split
  · rfl
  · rw [State.onPbk_pbk, harea, hput, hseal, State.onPbk_pbk]

theorem endReplay_replay (s : State) (r : Nat) : (endReplay s r).pbk.replay = [] := by
  have hreads (u : State) : (endReads u).pbk = u.pbk := rfl
  unfold endReplay
  rw [putEmit_replay, hreads, State.onPbk_pbk]

/-- Settles O51: REPLAY_GO decides by its manifest and its chain; an abort ends the replay. -/
theorem replaysComplete : Obligations.ReplaysComplete := by
  unfold Obligations.ReplaysComplete
  refine ⟨fun v s hr hv => ⟨fun hl => replayGo_member hr hv hl, fun hl hrun => replayGo_running hr hv hl hrun,
    fun hl hrun => ?_⟩, fun v s hr hv => ⟨fun hrun => ⟨_, ?_, rfl, endReplay_replay _ 9⟩, fun hrun => ?_⟩⟩
  · have hgo := replayGo_starts hr hv hl hrun
    refine ⟨fun hmf => ?_, fun m hmf => ?_⟩
    · have hmf' : replayManifest (replayCleared (commandWord s 0 Fld.pbkReplayCtlGo.off v)) = none := hmf
      rw [hmf'] at hgo
      obtain ⟨hst, hres⟩ := replayRefused_shows (replayCleared (commandWord s 0 Fld.pbkReplayCtlGo.off v)) (r := 5) (by decide)
      exact ⟨_, hgo, hst, hres, rfl⟩
    · have hmf' : replayManifest (replayCleared (commandWord s 0 Fld.pbkReplayCtlGo.off v)) = some m := hmf
      rw [hmf'] at hgo
      refine ⟨fun h => ⟨_, hgo.trans (congrArg _ (replayFrom_unfit (w := replayCleared _) h)),
        get_set_of_lt _ Fld.pbkReplayStatusResult 6 (by decide), (get_set_other _ _ _ _ (by decide)).trans (get_replayCleared _), rfl⟩,
        fun hb hm he hbad => ⟨_, hgo.trans (congrArg _ (replayFrom_fit (w := replayCleared _) hb hm he)), ?_⟩,
        fun hb hm he h1 h8 hs rs ps hc hp => hgo.trans (congrArg _ ((replayFrom_fit (w := replayCleared _) hb hm he).trans ?_))⟩
      · rw [replayChain_bad (w := replayCleared _) hbad]
        exact replayRefused_shows _ (by decide)
      · rw [(replayChain_good (w := replayCleared _) h1 h8 hs).trans hc, Option.bind_some]
        exact congrArg (replayWith (replayCleared (commandWord s 0 Fld.pbkReplayCtlGo.off v)) m)
          (congrArg (Option.map fun p => (rs, p)) hp)
  · exact congrArg Host.Outcome.next (if_pos (by rw [hr, hv, hrun]; rfl))
  · exact congrArg Host.Outcome.next (if_neg (by rw [hr, hv, hrun]; decide))

end Sys2Proof.Machine
end

section
/-!
OBLIGATION O45. SPDM requests: their answers, the sessions they open and close, and the chunks of long ones.
-/
namespace Sys2Proof.Machine

/-! Answers. -/

theorem spdmOut_short (s : State) (code : Nat) (body : List Byte) (h : body.length ≤ Config.spdmLongest) :
    spdmOut s code body = s.onOut fun o => { o with spdm := o.spdm ++ [(code, body)] } := if_pos h

/-- What an answer leaves alone: the registers, and of the Stage Door all but the answer that waits to be fetched. -/
structure AnswerKeeps (s t : State) : Prop where
  regs : t.regs = s.regs
  sdr : ∃ l h, t.sdr = { s.sdr with large := l, largeHandle := h }

theorem spdmOut_keeps (s : State) (code : Nat) (body : List Byte) : AnswerKeeps s (spdmOut s code body) := by
  unfold spdmOut
  split
  · exact ⟨rfl, _, _, rfl⟩
  · exact ⟨rfl, _, _, rfl⟩

theorem AnswerKeeps.sessions {s t : State} (h : AnswerKeeps s t) : t.sdr.sessions = s.sdr.sessions := by
  obtain ⟨_, _, e⟩ := h.sdr
  rw [e]

theorem AnswerKeeps.chunks {s t : State} (h : AnswerKeeps s t) : t.sdr.chunks = s.sdr.chunks ∧
    t.sdr.chunkHandle = s.sdr.chunkHandle := by
  obtain ⟨_, _, e⟩ := h.sdr
  rw [e]
  exact ⟨rfl, rfl⟩

theorem AnswerKeeps.algs {s t : State} (h : AnswerKeeps s t) : t.sdr.algs = s.sdr.algs := by
  obtain ⟨_, _, e⟩ := h.sdr
  rw [e]

theorem sdrReady_of_state {s : State} (h : sdrState s = 1) : ¬ (!sdrReady s) = true := by simp [sdrReady, h]

/-! Algorithms, certificates, challenges and measurements. -/

/-- The algorithms selected of those offered. -/
def selected (algs : List Nat) : List Nat := spdmAlgs.zipIdx.map fun x => Nat.land x.1 (algs.getD x.2 0)

theorem selected_eq_iff (algs : List Nat) :
    selected algs = spdmAlgs ↔ ∀ i < 4, Nat.land (spdmAlgs.getD i 0) (algs.getD i 0) = spdmAlgs.getD i 0 := by
  have hsel : selected algs = [Nat.land 0x80 (algs.getD 0 0), Nat.land 0x02 (algs.getD 1 0), Nat.land 0x10 (algs.getD 2 0),
    Nat.land 0x02 (algs.getD 3 0)] := rfl
  rw [hsel]
  constructor
  · intro h i hi
    injection h with h0 h
    injection h with h1 h
    injection h with h2 h
    injection h with h3 _
    match i, hi with
    | 0, _ => exact h0
    | 1, _ => exact h1
    | 2, _ => exact h2
    | 3, _ => exact h3
  · intro h
    exact congr (congrArg _ (h 0 (by decide))) (congr (congrArg _ (h 1 (by decide))) (congr (congrArg _ (h 2 (by decide)))
      (congrArg (· :: []) (h 3 (by decide)))))

theorem negotiateAlgorithms_selects (algs : List Nat) (s : State) : ∃ t, exec (.negotiateAlgorithms algs) s = .next t ∧
    (t.sdr.algs = true ↔ ∀ i < 4, Nat.land (spdmAlgs.getD i 0) (algs.getD i 0) = spdmAlgs.getD i 0) ∧ t.regs = s.regs := by
  have k := spdmOut_keeps (s.onSdr fun d => { d with algs := selected algs = spdmAlgs }) 0x63 ((selected algs).map (leBytes 4)).flatten
  refine ⟨_, rfl, ?_, k.regs⟩
  rw [← selected_eq_iff]
  exact (iff_of_eq (congrArg (· = true) k.algs)).trans decide_eq_true_iff

theorem getCertificate_part {off len : Nat} (s : State) (h : off < Config.certChain.length) :
    exec (.getCertificate 0 off len) s = .next (spdmOut s 0x02 (leBytes 2 ((Config.certChain.drop off).take len).length ++
      leBytes 2 (Config.certChain.length - off - ((Config.certChain.drop off).take len).length) ++
      (Config.certChain.drop off).take len)) := by
  refine congrArg Host.Outcome.next (if_neg ?_)
  rintro (h0 | hl)
  · exact h0 rfl
  · exact absurd h (Nat.not_lt.2 hl)

theorem withNonce_some {s u : State} {v : Nat} (f : Nat → State → State) (h : drbgTake s = some (v, u)) :
    withNonce s f = f v u := by
  unfold withNonce
  rw [h]

theorem withNonce_none {s : State} (f : Nat → State → State) (h : drbgTake s = none) :
    withNonce s f = spdmFails (entropyFail s true) := by
  unfold withNonce
  rw [h]

theorem challenge_ready {s : State} (nonce : BitVec 256) (h : sdrState s = 1) : exec (.challenge 0 nonce) s =
    .next (withNonce s fun v s => spdmOut s 0x03 (signedBody (leBytes 48 (Config.sha384 Config.certChain)) nonce.toNat v)) :=
  congrArg Host.Outcome.next ((if_neg (not_not.2 rfl)).trans (if_neg (sdrReady_of_state h)))

/-- The body of an answer to GET_MEASUREMENTS. -/
def measured (s : State) (idx : Nat) : List Byte :=
  if idx = 0 then [8]
  else if idx = 0xFF then ((List.range 8).map fun i => leBytes 1 (i + 1) ++ measurement s (i + 1)).flatten
  else leBytes 1 idx ++ measurement s idx

theorem measured_one (s : State) {idx : Nat} (h1 : 1 ≤ idx) (h8 : idx ≤ 8) : measured s idx = leBytes 1 idx ++ measurement s idx :=
  (if_neg (by omega)).trans (if_neg (by omega))

theorem measured_all (s : State) :
    measured s 0xFF = ((List.range 8).map fun i => leBytes 1 (i + 1) ++ measurement s (i + 1)).flatten :=
  (if_neg (by decide)).trans (if_pos rfl)

theorem getMeasurements_plain {s : State} {idx : Nat} (nonce : BitVec 256) (h : sdrState s = 1) (hi : idx ≤ 8 ∨ idx = 0xFF) :
    exec (.getMeasurements false idx nonce) s = .next (spdmOut s 0x60 (measured s idx)) :=
  congrArg Host.Outcome.next ((if_neg (by omega)).trans ((if_neg (sdrReady_of_state h)).trans (if_neg (by decide))))

theorem getMeasurements_signed {s u : State} {idx v : Nat} (nonce : BitVec 256) (h : sdrState s = 1) (hi : idx ≤ 8 ∨ idx = 0xFF)
    (hd : drbgTake s = some (v, u)) : exec (.getMeasurements true idx nonce) s =
      .next (spdmOut u 0x60 (signedBody (measured s idx) nonce.toNat v)) :=
  congrArg Host.Outcome.next ((if_neg (by omega)).trans ((if_neg (sdrReady_of_state h)).trans ((if_pos rfl).trans
    (withNonce_some (fun v s' => spdmOut s' 0x60 (signedBody (measured s idx) nonce.toNat v)) hd))))

/-! Sessions open. -/

theorem windRequest_sessions (s : State) (who : Nat) : (windRequest s who).sdr.sessions = s.sdr.sessions := by
  unfold windRequest
  split
  · unfold windRefuse
    split <;> rfl
  split
  · unfold windDeliver
    split <;> rfl
  · split <;> rfl

/-- The random value drawn from state `d` of the generator, and what the draw leaves. -/
def drbgDrawn (s : State) (d : Nat) : Nat × State :=
  let t := s.onSdr fun x => { x with drbg := some (Config.drbgGen d).2, gens := x.gens + 1 }
  ((Config.drbgGen d).1, if 2 ^ 20 ≤ t.sdr.gens then windRequest t windForDrbg else t)

theorem drbgTake_eq (s : State) :
    drbgTake s = if isSet s Fld.sdrStatusNeedSeed then none else s.sdr.drbg.map (drbgDrawn s) := rfl

theorem drbgDrawn_sessions (s : State) (d : Nat) : (drbgDrawn s d).2.sdr.sessions = s.sdr.sessions := by
  unfold drbgDrawn
  dsimp only
  split
  · rw [windRequest_sessions]; rfl
  · rfl

theorem drbgTake_sessions {s u : State} {v : Nat} (h : drbgTake s = some (v, u)) : u.sdr.sessions = s.sdr.sessions := by
  rw [drbgTake_eq] at h
  split at h
  · exact absurd h (by simp)
  · obtain ⟨d, _, e⟩ := Option.map_eq_some_iff.1 h
    have := drbgDrawn_sessions s d
    rwa [e] at this

theorem mem_ids_of_sessOf {s : State} {i : Nat} (h : sessOf s i ≠ none) : i ∈ s.sdr.sessions.map Sess.id := by
  obtain ⟨x, hx⟩ := Option.ne_none_iff_exists'.1 h
  have hid : x.id = i := of_decide_eq_true (p := x.id = i) (List.find?_some (p := fun x : Sess => decide (x.id = i)) hx)
  exact List.mem_map.2 ⟨x, List.mem_of_find?_eq_some hx, hid⟩

/-- The ids that `newSid` tries, in their order. -/
def sidsTried (s : State) : List Nat := (List.range 256).map fun i => (fresh s + i) % 256

theorem sidsTried_nodup (s : State) : (sidsTried s).Nodup := by
  refine List.Nodup.map_on (fun i hi j hj hij => ?_) List.nodup_range
  have hi := List.mem_range.1 hi
  have hj := List.mem_range.1 hj
  omega

theorem newSid_unused {s : State} (h : s.sdr.sessions.length < 256) : newSid s < 256 ∧ sessOf s (newSid s) = none := by
  have hnew : newSid s = ((sidsTried s).find? fun i => (sessOf s i).isNone).getD 0 := rfl
  rw [hnew]
  cases hf : (sidsTried s).find? fun i => (sessOf s i).isNone with
  | none =>
    have hall : sidsTried s ⊆ s.sdr.sessions.map Sess.id := fun i hi =>
      mem_ids_of_sessOf fun hn => by simpa [hn] using List.find?_eq_none.1 hf i hi
    have hle := (List.subperm_of_subset (sidsTried_nodup s) hall).length_le
    rw [sidsTried, List.length_map, List.length_map, List.length_range] at hle
    omega
  | some i =>
    obtain ⟨j, _, hj⟩ := List.mem_map.1 (List.mem_of_find?_eq_some hf)
    have hfree := List.find?_some hf
    exact ⟨by rw [Option.getD_some]; omega, Option.isNone_iff_eq_none.1 hfree⟩

theorem audit_sessions (s : State) (code fn : Nat) (spdm : Bool) (status detail : Nat) :
    (audit s code fn spdm status detail).sdr.sessions = s.sdr.sessions :=
  eq_of_withoutAudit Sdr.sessions (audit_sdr s code fn spdm status detail)

/-- A session `x` opens in `u`, and the answer names it. -/
def sessOpened (u : State) (x : Sess) : State :=
  spdmOut (audit (countSessions ((advance u).onSdr fun d => { d with sessions := d.sessions ++ [x] })) 9 0 true 0 (x.id + 256))
    0x64 (leBytes 2 x.id)

theorem sessOpened_sessions (u : State) (x : Sess) : (sessOpened u x).sdr.sessions = u.sdr.sessions ++ [x] := by
  unfold sessOpened
  rw [(spdmOut_keeps _ _ _).sessions, audit_sessions]
  rfl

theorem keyExchange_opens {i3c : Bool} {pub v : Nat} {s u : State} (h : sdrState s = 1) (hl : s.sdr.sessions.length < 4)
    (hroom : auditRoom s = true) (hd : drbgTake s = some (v, u)) : exec (.keyExchange i3c pub) s =
      .next (sessOpened u ⟨newSid u, i3c, Config.ecdhe v pub, false, false⟩) := by
  refine congrArg Host.Outcome.next ((if_neg (sdrReady_of_state h)).trans ((if_neg (Nat.not_le.2 hl)).trans
    ((if_neg (by rw [hroom]; decide)).trans (withNonce_some _ hd))))

theorem keyExchange_full {i3c : Bool} {pub : Nat} {s : State} (h : sdrState s = 1) (hl : 4 ≤ s.sdr.sessions.length) :
    exec (.keyExchange i3c pub) s = .next (spdmError s 3) :=
  congrArg Host.Outcome.next ((if_neg (sdrReady_of_state h)).trans (if_pos hl))

/-! Sessions finish, go on and end. -/

theorem closeSess_sessions (s : State) (x : Sess) : (closeSess s x).sdr.sessions = s.sdr.sessions.erase x := by
  unfold closeSess
  rw [audit_sessions]
  rfl

theorem get_closeSess (s : State) (x : Sess) : get (closeSess s x) Fld.sdrSessionsV =
    (s.sdr.sessions.erase x).length % 2 ^ Fld.sdrSessionsV.width :=
  (get_audit_uncounted _ _ _ _ _ _ (by decide)).trans (get_set_same _ _ _)

theorem sess_missing {sid : Nat} {s : State} (h : sessOf s sid = none) :
    (∀ ok oper, exec (.finish sid ok oper) s = .next (spdmError s 1)) ∧ exec (.heartbeat sid) s = .next (spdmError s 1) ∧
    exec (.keyUpdate sid) s = .next (spdmError s 1) ∧ exec (.endSession sid) s = .next (spdmError s 1) := by
  refine ⟨fun ok oper => ?_, ?_, ?_, ?_⟩
  · change execFinish sid ok oper s = _
    rw [execFinish, h]; exact rfl
  · change execHeartbeat sid s = _
    rw [execHeartbeat, h]; exact rfl
  · change execKeyUpdate sid s = _
    rw [execKeyUpdate, h]; exact rfl
  · change execEndSession sid s = _
    rw [execEndSession, h]; exact rfl

/-- An operator's signature of the transcript of `x`. -/
def signedByOperator (s : State) (x : Sess) (oper : Option (Nat × Nat)) : Bool :=
  oper.any fun o => s.spl.active.any fun p => decide (o.1 ∈ p.operKeys.take 4) && Config.ecdsaVerify o.1 (transcript x) o.2

theorem signedByOperator_iff (s : State) (x : Sess) (oper : Option (Nat × Nat)) : signedByOperator s x oper = true ↔
    ∃ k g p, oper = some (k, g) ∧ s.spl.active = some p ∧ k ∈ p.operKeys.take 4 ∧ Config.ecdsaVerify k (transcript x) g = true := by
  unfold signedByOperator
  simp only [Option.any_eq_true, Bool.and_eq_true, decide_eq_true_eq, Prod.exists]
  constructor
  · rintro ⟨k, g, ho, p, hp, hk, hg⟩
    exact ⟨k, g, p, ho, hp, hk, hg⟩
  · rintro ⟨k, g, p, ho, hp, hk, hg⟩
    exact ⟨k, g, ho, p, hp, hk, hg⟩

section
variable {sid : Nat} {x : Sess} {s : State} (hx : sessOf s sid = some x) (hs : sdrState s = 1)
include hx hs

theorem finish_good (oper : Option (Nat × Nat)) : exec (.finish sid true oper) s =
    .next (spdmOut (onSess s sid fun y => { y with finished := true, oper := signedByOperator s x oper }) 0x65 []) := by
  change execFinish sid true oper s = _
  rw [execFinish, hx]
  exact congrArg Host.Outcome.next ((if_neg (sdrReady_of_state hs)).trans (if_neg (by decide)))

theorem finish_bad (oper : Option (Nat × Nat)) : exec (.finish sid false oper) s = .next (spdmFails (closeSess s x)) := by
  change execFinish sid false oper s = _
  rw [execFinish, hx]
  exact congrArg Host.Outcome.next ((if_neg (sdrReady_of_state hs)).trans (if_pos rfl))

theorem heartbeat_finished (hf : x.finished = true) : exec (.heartbeat sid) s = .next (spdmOut s 0x68 []) := by
  change execHeartbeat sid s = _
  rw [execHeartbeat, hx]
  exact congrArg Host.Outcome.next (if_pos (by simp [sdrReady, hs, hf]))

theorem keyUpdate_finished (hf : x.finished = true) : exec (.keyUpdate sid) s =
    .next (spdmOut (onSess s sid fun y => { y with key := Config.hmac384 y.key (ascii "traffic upd") }) 0x69 []) := by
  change execKeyUpdate sid s = _
  rw [execKeyUpdate, hx]
  exact congrArg Host.Outcome.next (if_pos (by simp [sdrReady, hs, hf]))

theorem endSession_ready : exec (.endSession sid) s =
    .next (if auditRoom s then spdmOut (closeSess s x) 0x6C [] else spdmFails s) := by
  change execEndSession sid s = _
  rw [execEndSession, hx]
  exact congrArg Host.Outcome.next (if_neg (sdrReady_of_state hs))

end

theorem unfinished_refused {sid : Nat} {x : Sess} {s : State} (hx : sessOf s sid = some x) (hf : x.finished = false) :
    exec (.heartbeat sid) s = .next (spdmError s 1) ∧ exec (.keyUpdate sid) s = .next (spdmError s 1) := by
  have hn : ¬ (sdrReady s && x.finished) = true := by simp [hf]
  constructor
  · change execHeartbeat sid s = _
    rw [execHeartbeat, hx]
    exact congrArg Host.Outcome.next (if_neg hn)
  · change execKeyUpdate sid s = _
    rw [execKeyUpdate, hx]
    exact congrArg Host.Outcome.next (if_neg hn)

theorem onSess_sessions (s : State) (sid : Nat) (f : Sess → Sess) : (onSess s sid f).sdr.sessions =
    s.sdr.sessions.map fun x => if x.id = sid then f x else x := rfl

theorem spdmFails_sessions (s : State) : (spdmFails s).sdr.sessions = s.sdr.sessions :=
  (spdmOut_keeps (advance s) 0x7F _).sessions

/-! Chunks. -/

/-- The next chunk that a request in chunks under `handle` is due to send. -/
def chunkDue (s : State) (handle : Nat) : Nat :=
  match s.sdr.chunkHandle with
  | some (h, n) => if h = handle then n else 0
  | none => 0

/-- Chunk `seq` is gathered. -/
def chunkTaken (s : State) (handle seq : Nat) (last : Bool) (data : List Byte) : State :=
  s.onSdr fun d => { d with
    chunks := if last then [] else (if seq = 0 then [] else s.sdr.chunks) ++ data
    chunkHandle := if last then none else some (handle, seq + 1) }

theorem chunkSend_due {handle seq : Nat} (last : Bool) (data : List Byte) {s : State} (h : seq = chunkDue s handle) :
    exec (.chunkSend handle seq last data) s =
      .next (spdmOut (chunkTaken s handle seq last data) 0x05 (leBytes 1 handle ++ leBytes 2 seq)) :=
  congrArg Host.Outcome.next (if_neg (not_not.2 h))

theorem chunkSend_gathers {handle seq : Nat} {last : Bool} {data : List Byte} {s : State} (h : seq = chunkDue s handle) :
    ∃ t, exec (.chunkSend handle seq last data) s = .next t ∧
      t.sdr.chunkHandle = (if last then none else some (handle, seq + 1)) ∧
      t.sdr.chunks = if last then [] else (if seq = 0 then [] else s.sdr.chunks) ++ data := by
  obtain ⟨hc, hh⟩ := (spdmOut_keeps (chunkTaken s handle seq last data) 0x05 (leBytes 1 handle ++ leBytes 2 seq)).chunks
  exact ⟨_, chunkSend_due last data h, hh, hc⟩

/-- The part of the waiting answer under sequence number `seq`. -/
def chunkPart (s : State) (seq : Nat) : List Byte :=
  (s.sdr.large.drop (seq * max 1 Config.spdmLongest)).take (max 1 Config.spdmLongest)

theorem chunkGet_none {s : State} {seq : Nat} (h : chunkPart s seq = []) :
    exec (.chunkGet s.sdr.largeHandle seq) s = .next (spdmError s 1) :=
  congrArg Host.Outcome.next (if_pos (.inr (List.isEmpty_iff.2 h)))

theorem chunkGet_some {s : State} {seq : Nat} (h : chunkPart s seq ≠ []) :
    ∃ t, exec (.chunkGet s.sdr.largeHandle seq) s = .next t ∧
      t.out.spdm = s.out.spdm ++ [(0x06, leBytes 1 s.sdr.largeHandle ++ leBytes 2 seq ++ chunkPart s seq)] := by
  have hn : ¬ (s.sdr.largeHandle ≠ s.sdr.largeHandle ∨ (chunkPart s seq).isEmpty = true) := by
    rintro (hh | he)
    · exact hh rfl
    · exact h (List.isEmpty_iff.1 he)
  refine ⟨_, congrArg Host.Outcome.next (if_neg hn), ?_⟩
  dsimp only
  split <;> exact rfl

/-- Settles O45: an answer, or an error, per request; sessions by `sessOpened`, `onSess` and `closeSess`. -/
theorem spdmAnswers : Obligations.SpdmAnswers := by
  unfold Obligations.SpdmAnswers
  refine ⟨fun s => ⟨rfl, rfl, rfl⟩, fun s code body h => by rw [spdmOut_short s code body h]; exact ⟨rfl, rfl⟩,
    fun algs s => negotiateAlgorithms_selects algs s, fun off len s h => getCertificate_part s h,
    fun slot off len s h => congrArg Host.Outcome.next (if_pos h),
    fun nonce s h => ⟨fun v u hd => (challenge_ready nonce h).trans (congrArg _ (withNonce_some _ hd)),
      fun hd => (challenge_ready nonce h).trans (congrArg _ (withNonce_none _ hd)),
      fun slot hne => congrArg Host.Outcome.next (if_pos hne)⟩,
    fun idx nonce s h => ⟨fun h0 => ?_, fun h1 h8 => ?_, fun h1 h8 v u hd => ?_, ?_, fun v u hd => ?_, fun h8 hff => ?_⟩,
    fun i3c pub v s u h hl hroom hd => ⟨_, newSid u, keyExchange_opens h hl hroom hd, ?_⟩,
    fun i3c pub s h hl => keyExchange_full h hl,
    fun sid s h => sess_missing h,
    fun sid x s hx hs => ⟨fun oper => ⟨_, signedByOperator s x oper, finish_good hx hs oper, ?_, signedByOperator_iff s x oper⟩,
      fun oper => ⟨_, finish_bad hx hs oper, (spdmFails_sessions _).trans (closeSess_sessions s x)⟩,
      fun hf => heartbeat_finished hx hs hf, fun hf => ⟨_, keyUpdate_finished hx hs hf,
        (spdmOut_keeps _ _ _).sessions.trans (onSess_sessions _ _ _)⟩,
      fun hf => unfinished_refused hx hf,
      fun hn => (endSession_ready hx hs).trans (congrArg _ (if_neg (by rw [hn]; decide))),
      fun hy => ⟨_, (endSession_ready hx hs).trans (congrArg _ (if_pos hy)), ?_, ?_⟩⟩,
    fun h last data s hc => chunkSend_gathers (by rw [chunkDue, hc]),
    fun h n last data s hc => chunkSend_gathers (by rw [chunkDue, hc]; exact (if_pos rfl).symm),
    fun seq s => ⟨fun h => chunkGet_some h, fun h => chunkGet_none h⟩⟩
  · subst h0
    exact getMeasurements_plain nonce h (.inl (by decide))
  · rw [getMeasurements_plain nonce h (.inl h8), measured_one s h1 h8]
  · rw [getMeasurements_signed nonce h (.inl h8) hd, measured_one s h1 h8]
  · rw [getMeasurements_plain nonce h (.inr rfl), measured_all]
  · rw [getMeasurements_signed nonce h (.inr rfl) hd, measured_all]
  · exact congrArg Host.Outcome.next (if_pos ⟨h8, hff⟩)
  · have hsess := drbgTake_sessions hd
    obtain ⟨hlt, hnone⟩ := newSid_unused (s := u) (by rw [hsess]; omega)
    refine ⟨by rw [sessOpened_sessions, hsess], hlt, ?_⟩
    rw [← hnone, sessOf, sessOf, hsess]
  · exact (spdmOut_keeps _ _ _).sessions.trans (onSess_sessions _ _ _)
  · exact (spdmOut_keeps _ _ _).sessions.trans (closeSess_sessions s x)
  · exact (get_congr (spdmOut_keeps _ _ _).regs _).trans (get_closeSess s x)

end Sys2Proof.Machine
end
